-- ==== Sys2Proof/Word.lean ====
section
/-! DEFINITION. The word types of the model and the index types of the part: channels, LUNs, Pens,
functions, cores. No arithmetic lives here. -/

namespace Sys2Proof

/-- One byte. -/
abbrev Byte := BitVec 8
/-- A 16-bit field. -/
abbrev W16 := BitVec 16
/-- A 32-bit register or dword. -/
abbrev W32 := BitVec 32
/-- A 64-bit register. -/
abbrev W64 := BitVec 64
/-- A physical address of R19, 40 bits. -/
abbrev Addr := BitVec 40
/-- The 4,096 data bytes of one LBA as one word: byte n is bits 8n+7 to 8n (R36). -/
abbrev LbaData := BitVec 32768
/-- A flash channel, 0 to 63 (R5). -/
abbrev Ch := Fin 64
/-- A LUN of one channel, 0 to 31, numbered as MULE_LUN[l] numbers it (R138). -/
abbrev LunN := Fin 32
/-- A Pen, 0 to 255. -/
abbrev PenN := Fin 256
/-- A PCIe function, 0 to 255. -/
abbrev FnN := Fin 256
/-- A control core, 0 to 15. -/
abbrev CoreN := Fin 16
/-- An Ox channel, 0 to 31. -/
abbrev OxN := Fin 32
/-- A cipher core, 0 to 23. -/
abbrev CipherN := Fin 24
/-- A Cirque or retention bank, 0 to 7. -/
abbrev BankN := Fin 8
/-- A key slot, 0 to 4,095. -/
abbrev SlotN := Fin 4096

end Sys2Proof
end

