-- ==== Sys2Proof/Syntax.lean ====
section
/-! DEFINITION. The commands of the part: one constructor for each row of spec/opcode_table.json, with
its operands. A host command's operands are what its submission entry holds; a frame's are what it
carries; an event of a pin, a sensor, a medium or a timer carries what the part senses at it. -/

namespace Sys2Proof

/-- Which command of which queue of which function: the completion names it again. -/
structure Hdr where
  fn : FnN
  qid : Nat
  cid : Nat
  deriving DecidableEq, Repr

/-- The host metadata of one LBA, as protection information (R162): guard, application tag,
reference tag, and whatever else the metadata holds. -/
structure Md where
  guard : W64
  app : W16
  ref : W32
  rest : W64
  deriving DecidableEq, Repr

/-- One LBA as the host gives it: 4,096 data bytes and its metadata. -/
structure Lba where
  data : LbaData
  md : Md
  deriving DecidableEq, Repr

/-- The fields of a read or write command. `nlb` is the number of LBAs; `pages` are the host pages (of
4 KiB) that its data pointer names (R196); `hop3`: what the data of a write meet on their way to the cipher: 1 an error that the
code of staging SRAM corrects, 2 one that it cannot correct, 3 a parity error of the fabric (R157, R165, R173). -/
structure RwCmd where
  nsid : Nat
  slba : Nat
  nlb : Nat
  prchk : BitVec 3
  pract : Bool
  ilbrt : W32
  app : W16
  mask : W16
  fua : Bool
  pid : Nat
  pages : List Nat
  hop3 : Fin 4 := 0
  deriving DecidableEq, Repr

/-- What goes wrong with one LBA on the read path, as the media and memories show it (R173). -/
inductive ReadErr where
  | stripe
  | seal
  | poison
  | memory
  | hop11
  deriving DecidableEq, Repr

/-- The data pointer forms that R89 tells apart. -/
inductive Dptr where
  | prp
  | prpList
  | sglData
  | sglOther
  deriving DecidableEq, Repr

/-- A submission entry as HOSTIF and Col read it (R91); `eccBad`: the entry is uncorrectable; `descHit`: Col's read of the zone descriptor
for it meets nothing, an error that its SRAM corrects, or one it cannot correct (R165, R173). -/
structure Sqe where
  opc : Byte
  fused : Bool
  cid : Nat
  rw : RwCmd
  dptr : Dptr
  eccBad : Bool
  descHit : Fin 3 := 0
  deriving DecidableEq, Repr

/-- A Mule request (R97, R113): operation, place, requester, deadline and, for a read, the identity
that the sector seal must carry (R160); for a program, the LBAs of each page. -/
structure MuleReq where
  op : Fin 16
  lun : LunN
  lbn : Nat
  page : Nat
  plane : Fin 4
  cw : Fin 4
  ncw : Nat
  rid : Nat
  deadline : Nat
  cls : Fin 4
  flush : Bool
  spurOk : Bool
  nsx : Nat
  lba : Nat
  gen : W32
  data : List Lba
  deriving DecidableEq, Repr

/-- The identity that a decoded sector seal carries, and its POISON bit (R158, R160). -/
structure Seal where
  nsx : Nat
  lba : Nat
  gen : Nat
  poison : Bool
  deriving DecidableEq, Repr

/-- An LBA as the mirror carries it: its data and metadata as stored, and its seal (R159, R236). -/
structure MirSec where
  d : Lba
  sl : Seal
  deriving DecidableEq, Repr

/-- What decoding finds of one codeword (R119, R160): the retry entry at which hard decode passes, if any; the entry whose hard decode
leaves the fewest unsatisfied checks; whether the soft decode would pass; the iterations and corrected bits of the decode that counts;
whether SCRC fits its data; its seal; and what the channel buffer's code finds: 1 a corrected error, 2 one that it cannot correct
(R165, R173). -/
structure CwResp where
  entry : Option Nat
  best : Nat
  soft : Bool
  iters : Nat
  corr : Nat
  scrc : Bool
  sl : Seal
  buf : Fin 3
  deriving DecidableEq, Repr

/-- What a patrol read meets on a page of a row (R127, R131): the member position, the plane, the retry depth, and whether a soft decode
or a rebuild was needed. -/
structure GoatFind where
  pos : Fin 16
  plane : Fin 4
  depth : Nat
  soft : Bool
  uncorr : Bool
  deriving DecidableEq, Repr

/-- What the flash part and the channel buffer show a sequence step (R115): a BUSY step ends or times out; a STAT step reads a byte; a
DIN step finds its codewords, in order; a DOUT step may meet an error of the channel buffer, as `buf` of a codeword numbers them
(R157). -/
inductive SeqResp where
  | busy (ok : Bool)
  | stat (b : Byte)
  | din (l : List CwResp)
  | dout (buf : Fin 3)
  deriving DecidableEq, Repr

/-- What an access meets on its way (R23, R165, R167): nothing; devices that fail in the DRAM burst it reads; an error that the
memory's code corrects; one that the code cannot correct; a parity failure of the fabric; of a core's access, a line of its caches that
fails parity, dirty or clean; a reset of the block it goes to. -/
inductive Hit where
  | none
  | devs (l : List (Fin 10))
  | corr
  | unc
  | fabric
  | cache (dirty : Bool)
  | xreset
  deriving DecidableEq, Repr

/-- The fields of a Pen record that PEN_MANAGE SET carries (R185, R262). -/
structure PenRec where
  func0 : BitVec 256
  func1 : BitVec 256
  ioq : Nat
  nsq : Nat
  ksbase : Nat
  kscount : Nat
  cmbsh : Nat
  cmboff : Nat
  bufsh : Nat
  hold : Nat
  morq : Nat
  marq : Nat
  convq : Nat
  tgt0 : Nat
  tgt1 : Nat
  tgt2 : Nat
  tgt3 : Nat
  rdfloor : Nat
  wrfloor : Nat
  rdceil : Nat
  wrceil : Nat
  weight : Nat
  c0allow : Nat
  deriving DecidableEq, Repr

/-- A window of START_LOG (R263). -/
structure Win where
  hbase : Nat
  npages : Nat
  valid : Bool
  deriving DecidableEq, Repr

/-- A queue record of READ_STATE and WRITE_STATE (R263). -/
structure QRec where
  qid : Nat
  cqid : Nat
  isCq : Bool
  phase : Bool
  vector : Nat
  base : Nat
  size : Nat
  head : Nat
  tail : Nat
  inCmb : Bool
  colBound : Bool
  deriving DecidableEq, Repr

/-- The media policy (R267). -/
structure Policy where
  days : Nat
  spurEn : Bool
  burstGib : Nat
  thresh : Nat
  pct : Nat
  win : Nat
  pHold : Nat
  pRun : Nat
  pRd : Nat
  pSusp : Nat
  eHold : Nat
  eRun : Nat
  eRd : Nat
  eSusp : Nat
  deriving DecidableEq, Repr

/-- A PAIR_CONTROL action (R264), or in a PHASE message the answer that the sender cannot begin the other's request (DESIGN CHOICE,
assumption 137); `release` names the PAIR_ID that is to stop. -/
inductive PairAct where
  | join
  | release (one : Bool)
  | handback
  | goSolo
  | refuse
  deriving DecidableEq, Repr

/-- Header fields of a received Saddle frame that matter here (R249). -/
structure FrameHdr where
  fseq : W32
  ackseq : W32
  deriving DecidableEq, Repr

/-- HELLO (R230 step 1): the sender's ordering code, stepping, PAIR_ID, MULE_GEOM of channel 0 and in `odd` of the channels that
differ from it, protocol version; `restart`: the FSEQ restarts with it (R252). -/
structure Hello where
  code : Nat
  stepping : Nat
  pairId : Bool
  geom : W32
  proto : Nat
  restart : Bool
  odd : List (Nat × W32) := []
  deriving DecidableEq, Repr

/-- The contents of a Cairn post (R292). -/
structure Post where
  src : W16
  code : W16
  sev : Fin 8
  param : BitVec 128
  deriving DecidableEq, Repr

/-- The journal records of R146 with their payloads; `ix` is a zone descriptor index. -/
inductive JBody where
  | zopen (nsx ix group lbn zseq : Nat) (seven : Bool)
  | stripe (nsx ix grp wp : Nat)
  | foldput (nsx ix lba n row unit : Nat)
  | zstate (nsx ix st wp : Nat)
  | zreset (nsx ix zseq group lbn : Nat)
  | relocZ (nsx ix group lbn ngroup nlbn : Nat)
  | relocC (nsx src : Nat) (rows : List Nat) (n : Nat)
  | remap (ch lun plane lbn old new : Nat) (retire : Bool)
  | erase (ch group lbn why : Nat)
  | ckpt (region seg loc seqn : Nat)
  | flushBegin (rows : List Nat) (own peer bceil : Nat)
  | flushEnd (rows crc : Nat)
  | shutdown (why : Nat)
  | initdone (replayed rows : Nat)
  deriving DecidableEq, Repr

/-- A journal record (R145): sequence number, the two FLAGS bits, its body, and where in the ring it stands, in words. -/
structure JRec where
  seq : Nat
  flushed : Bool
  peer : Bool
  body : JBody
  loc : Nat := 0
  deriving DecidableEq, Repr

/-- The header of a mirror entry (R250, MHDR). -/
structure MirHdr where
  mseq : Nat
  nsx : Nat
  lba : Nat
  n : Nat
  pen : Nat
  deriving DecidableEq, Repr

namespace Machine

/-- NVMe completion statuses, by the names the manual uses (R47, R163, R173, R261). -/
inductive Status where
  | success | invalidOpcode | invalidField | invalidLogPage | invalidNsFormat | nsNotReady
  | zoneOffline | zoneReadOnly | zoneFull | zoneInvalidWrite | zoneBoundary | zoneTransition
  | tooManyActive | tooManyOpen | tempHold | pairFenced | stripeUnrec | penLimit | calSeq
  | modeRefused | unrecRead | guardErr | appErr | refErr | compareFail | lbaRange | nsCapacity
  | nsWriteProt | ctrlListInvalid | cmdSeqError | invalidQueue | invalidImage | invalidSlot
  | needsReset | anaTransition | anaInaccessible | internal | dataTransfer | aborted | aerLimit
  | alreadyAttached | notAttached | cqInvalid | queueSize | invalidVector | invalidDeletion
  | selfTestBusy | nsidUnavailable
  deriving DecidableEq, Repr

/-- A namespace (R35, R57, R180, R231): its index, kind, home, Pen, key, format, Col base, and for a
conventional one its capacity, reserve and write counter; `piFirst` and `ext` place its PI and metadata (R162). -/
structure Ns where
  nsx : Nat
  zoned : Bool
  seven : Bool
  base : Nat
  nzones : Nat
  gib : Nat
  md : Nat
  g64 : Bool
  pi : Nat
  home : Bool
  pen : Nat
  slot : Nat
  keyed : Bool
  fns : List Nat
  wctr : Nat
  freeRu : Nat
  reserve : Nat
  prot : Bool
  directive : Bool
  piFirst : Bool := false
  ext : Bool := false
  deriving DecidableEq, Repr

end Machine

/-- A namespace create (R231, R256, R257). `seven` chooses the stripe of a zoned one. `fmt` is the
LBA format (R36, R162): 0 no metadata, 1 8 bytes, 2 16 bytes with the 16-bit guard, 3 16 bytes with the
64-bit guard. `piFirst`: the PI stands in the first bytes of the metadata; `ext`: the metadata follow the data of each LBA in
one buffer (R162). -/
structure NsArg where
  zoned : Bool
  seven : Bool
  nzones : Nat
  gib : Nat
  fmt : Fin 4
  piType : Fin 4
  keyed : Bool
  pen : PenN
  anagrp : Nat
  piFirst : Bool := false
  ext : Bool := false
  deriving DecidableEq, Repr

/-- What a BULK stream carries (R250, R241, R154, R297); `ckpt`: checkpoint segments, as descriptors and as map entries (R233); `key`:
a slot's key wrapped under PWK (R212, R230); `train` the training values of channels, as the Tf of each in quarter degrees, and `pens`
the Pen records with their GEN (R230); `nss` the namespaces of the sender's home, or to a fenced controller all (R232, R241); `nscreate` a
create for the receiver's home, and `nsdone` how it ended (R231); `wstate` the queues of a WRITE_STATE for a function of the receiver
(R198). -/
inductive BulkData where
  | ckpt (zt : List (Nat × BitVec 128)) (m : List (Nat × Nat))
  | desc (l : List (Nat × BitVec 128))
  | cmap (l : List (Nat × Nat))
  | entry (m : MirHdr) (d : List MirSec)
  | pairRec (p : Post) (time rep : Nat)
  | policy (p : Policy)
  | bytes (b : List Byte)
  | key (slot : Nat) (blob : BitVec 704)
  | train (l : List (Nat × Int))
  | pens (l : List (Nat × PenRec × Nat))
  | nss (l : List Machine.Ns)
  | nscreate (a : NsArg)
  | nsdone (st : Machine.Status) (nsid : Nat)
  | wstate (p dst : Nat) (qs : List QRec)
  deriving DecidableEq, Repr

/-- A message to the cipher scheduler (R208, R213): its Pen, slot, class, requester, direction,
blocks, the command it serves, and the offset in the command of its first LBA. -/
structure CMsg where
  id : Nat
  pen : PenN
  slot : SlotN
  cls : Fin 4
  rid : Nat
  read : Bool
  blocks : Nat
  cmd : Hdr
  ofs : Nat := 0
  deriving DecidableEq, Repr

/-- Create I/O Submission Queue (R96). -/
structure SqArg where
  sqid : Nat
  cqid : Nat
  size : Nat
  inCmb : Bool
  base : Nat
  cls : Fin 4
  col : Bool
  deriving DecidableEq, Repr

/-- Create I/O Completion Queue (R256). -/
structure CqArg where
  cqid : Nat
  size : Nat
  vector : Nat
  inCmb : Bool
  base : Nat
  deriving DecidableEq, Repr

/-- A Zone Management Send: one zone, or Select All (R61). -/
structure ZoneArg where
  nsid : Nat
  slba : Nat
  all : Bool
  deriving DecidableEq, Repr

/-- An admin command tunnelled over NVMe-MI (R368). -/
inductive MiAdmin where
  | identify (cns nsid : Nat)
  | getLogPage (lid lsi off len : Nat)
  | getFeatures (fid : Nat)
  | eventInfo (log : Nat)
  | eventRead (log first n : Nat)
  | other (opc : Nat)
  deriving DecidableEq, Repr

/-- A block with a clock enable: a bit of CLK_EN, or a Mule (R331). -/
inductive ClkBlk where
  | blk (b : Fin 11)
  | mule (ch : Ch)
  deriving DecidableEq, Repr

/-- A requester of an internal access (R23): a core with its privilege (true: M-mode), an Ox channel,
or HOSTIF for a function. -/
inductive Reqr where
  | core (n : CoreN) (mmode : Bool)
  | ox (n : OxN)
  | host (fn : FnN)
  deriving DecidableEq, Repr

/-- What a read of a read-to-clear register names: a register, or the CSR BUSERR_SYN of the reading core (R25). -/
inductive RcReg where
  | reg (a : Addr)
  | busErrSyn
  deriving DecidableEq, Repr

/-- What stops an NVMe command that R256 does not list. -/
inductive Unsup where
  | opcode
  | field
  | logPage
  deriving DecidableEq, Repr

/-- The commands: one constructor for each row of the table, in the table's order. -/
inductive Instr where
  | vddAonPowerOn
  | mainPowerOn
  | mainResetRelease (regionOk : Bool)
  | romRecoveryLoad (v : W32)
  | perstNAssert
  | perstNDeassert
  | pwrLossNAssert
  /-- `risen`: PWR_LOSS_N has risen during the flush (R155). -/
  | flushComplete (risen : Bool)
  | mainRailOutOfTolerance
  | torBrownOut
  | hardwareThermalShutdown (sensor : Fin 8) (temp : W16)
  | thermalRestartCheck (temp : W16)
  | x32kCountWindow (osc xtal : W16)
  | x32kEdgeTimeout
  | xtal25MissingEdge
  | pllLossOfLock (pll : Fin 4)
  | pllRestart (i : Fin 4)
  | pllLock (i : Fin 4) (bad : BitVec 8) (corr : Nat)
  | clkEnWrite (mule : Bool) (v : W64)
  | blockClockStop (b : ClkBlk)
  | autoClockGate (b : ClkBlk)
  | autoClockUngate (b : ClkBlk)
  | clkBrst (mule : Bool) (v : W64)
  | clkCoreRunWrite (v : W16)
  | pwrCtlGo (req : BitVec 3)
  | linkL12Entry
  | pmeTurnOffHandshake
  | wakeInRise
  | sidebandAddressMatch (addr : BitVec 7) (needMain : Bool)
  | clkreqNAssert
  | pwrTimerExpiry
  | wakeStepTimeout (cause : BitVec 4)
  | junctionConversion (j : Fin 8) (milli : Int)
  | flashCaseConversion (k : Fin 16) (code : BitVec 10) (milli : Int)
  | thermCurveWrite (hyst : Bool) (i : Fin 16) (v : W32)
  | torStatus (pec : Bool) (seq : Byte) (ps : List Byte)
  | torWake (pec : Bool) (seq : Byte) (ps : List Byte)
  | torSleep (pec : Bool) (seq : Byte) (ps : List Byte)
  | torFaultRead (pec : Bool) (seq : Byte) (ps : List Byte)
  | torAddrSet (pec : Bool) (seq : Byte) (ps : List Byte)
  | torChainPass (pec : Bool) (seq : Byte) (ps : List Byte)
  | torTempRead (pec : Bool) (seq : Byte) (ps : List Byte)
  | torEventTail (pec : Bool) (seq : Byte) (ps : List Byte)
  | smbusTimeout
  | alertResponseAddress
  | enumInChange (level : Bool)
  | entdaa (da : BitVec 7)
  | setdasa (da : BitVec 7)
  | setaasa
  | setnewda (da : BitVec 7)
  | rstdaa
  | enec (ev : Byte)
  | disec (ev : Byte)
  | getpid
  | getbcr
  | getdcr
  | getstatus
  | getmrl
  | getmwl
  | setmrl (n : W16)
  | setmwl (n : W16)
  | setEndpointId (eid : Byte)
  | getEndpointId
  | getMctpVersionSupport
  | getMessageTypeSupport
  | readNvmeMiDataStructure (ty : Byte)
  | nvmSubsystemHealthStatusPoll
  | controllerHealthStatusPoll
  | configurationGet (id : Byte)
  | configurationSet (id : Byte) (v : W32)
  | vpdRead
  | miTunnelledAdminCommand (c : MiAdmin)
  | pairCtlEnWrite (v : W32)
  | linkTrainingComplete (lanes : List (Bool × Byte))
  | linkRetrain
  | retrainComplete
  | heartbeatSend
  | hb (seq : W32) (devstat occ bceil : W16) (mseqRx : W64)
  | heartbeatWindowMiss
  | peerAliveInLow
  | survivorEntry
  | autofenceDelayExpiry
  | fenceGuardExpiry
  | peerFenceInRise
  | aliveWatchdogExpiry
  | pairKick
  | pairFenceWrite (out : Bool)
  | splitTimeout
  | pairClaimWrite (m : W64)
  | pairRelWrite (m : W64)
  | claim (f : FrameHdr) (m : W64)
  | grant (f : FrameHdr) (m : W64)
  | deny (f : FrameHdr) (m : W64)
  | released (f : FrameHdr) (m : W64)
  | hello (f : FrameHdr) (h : Hello)
  | keyx (f : FrameHdr) (pub sig : Nat)
  | bceil (f : FrameHdr) (mib : W16)
  | flushDone (f : FrameHdr)
  | restored (f : FrameHdr) (ranges : List (Nat × Nat))
  | phase (f : FrameHdr) (a : PairAct)
  | pairHandshake (recs : List (Nat × PenRec × Nat))
  | mhdr (f : FrameHdr) (m : MirHdr)
  | mdata (f : FrameHdr) (d : MirSec)
  | mend (f : FrameHdr) (mseq : W64) (vmark : Byte)
  | mack (ackseq : W32) (mseq : W64)
  | jrec (f : FrameHdr) (r : JRec)
  | zdesc (f : FrameHdr) (l : List (Nat × BitVec 128))
  | map (f : FrameHdr) (l : List (Nat × Nat))
  | bulk (f : FrameHdr) (stream : Byte) (off : W32) (d : BulkData)
  | nak (ackseq : W32)
  | replayTimeout
  | handbackPhaseEnd
  | peerAbsentTimeout
  | readonlyTemperatureTimeout
  | sqTailDoorbell (fn : FnN) (qid tail : Nat) (e : Sqe)
  | commandAdmission (p : PenN) (wr : Bool)
  | spurRedecision (ch : Ch) (l : LunN) (id : Nat)
  | spurWindowStart
  | read (h : Hdr) (c : RwCmd) (bad : List (Nat × ReadErr))
  | write (h : Hdr) (c : RwCmd) (d : List Lba)
  | writeAck (id : Nat)
  | zoneAppend (h : Hdr) (c : RwCmd) (d : List Lba)
  | writeZeroes (h : Hdr) (c : RwCmd) (dealloc : Bool)
  | flush (h : Hdr) (nsid : Nat)
  | compare (h : Hdr) (c : RwCmd) (d : List Lba) (bad : List (Nat × ReadErr))
  | verify (h : Hdr) (c : RwCmd) (bad : List (Nat × ReadErr))
  | datasetManagement (h : Hdr) (nsid : Nat) (dealloc : Bool) (ranges : List (Nat × Nat))
  | writeUncorrectable (h : Hdr) (c : RwCmd)
  | openZone (h : Hdr) (z : ZoneArg)
  | closeZone (h : Hdr) (z : ZoneArg)
  | finishZone (h : Hdr) (z : ZoneArg)
  | resetZone (h : Hdr) (z : ZoneArg)
  | offlineZone (h : Hdr) (z : ZoneArg)
  | reportZones (h : Hdr) (nsid slba n : Nat) (partialRep : Bool)
  | createIoSubmissionQueue (h : Hdr) (a : SqArg)
  | createIoCompletionQueue (h : Hdr) (a : CqArg)
  | deleteIoSubmissionQueue (h : Hdr) (sqid : Nat)
  | deleteIoCompletionQueue (h : Hdr) (cqid : Nat)
  | identify (h : Hdr) (cns : Byte) (nsid : Nat)
  | getLogPage (h : Hdr) (lid : Byte) (nsid lsi : Nat) (clear rae : Bool) (off len : Nat)
  | abort (h : Hdr) (sqid cid : Nat)
  | asynchronousEventRequest (h : Hdr)
  | setFeatures (h : Hdr) (fid : Byte) (v : W64)
  | getFeatures (h : Hdr) (fid : Byte)
  | namespaceCreate (h : Hdr) (a : NsArg)
  | namespaceDelete (h : Hdr) (nsid : Nat)
  | namespaceAttachment (h : Hdr) (attach : Bool) (nsid : Nat) (fns : List FnN)
  | firmwareImageDownload (h : Hdr) (off : Nat) (b : List Byte)
  | firmwareCommit (h : Hdr) (action slot : Nat)
  | formatNvm (h : Hdr) (nsid : Nat) (ses : Nat) (fmt : Nat) (piType : Fin 4) (piFirst ext : Bool)
  | sanitize (h : Hdr) (act : Nat)
  | deviceSelfTest (h : Hdr) (stc : Nat)
  | directiveSend (h : Hdr) (dtype doper nsid : Nat) (enable : Bool)
  | directiveReceive (h : Hdr) (dtype doper nsid : Nat)
  | ccEnWrite (fn : FnN) (en : Bool)
  | functionLevelReset (fn : FnN)
  | pcieHotReset
  | cmbHostAccess (fn : FnN) (off : Nat) (wr : Option Byte) (hit : Hit)
  | winpageWrite (fn : FnN) (v : W32)
  | penManageSet (h : Hdr) (p : PenN) (len : Nat) (r : PenRec) (mv : List Nat := [])
  | penManageGet (h : Hdr) (p : PenN) (len : Nat)
  | penManageEnable (h : Hdr) (p : PenN)
  | penManageDisable (h : Hdr) (p : PenN)
  | startLog (h : Hdr) (p : PenN) (len : Nat) (w : List Win)
  | harvest (h : Hdr) (p : PenN) (len : Nat) (w : Fin 4)
  | quiesce (h : Hdr) (p : PenN)
  | readState (h : Hdr) (p : PenN) (len : Nat)
  | writeState (h : Hdr) (p : PenN) (dst : FnN) (pairId : Bool) (qs : List QRec)
  | resume (h : Hdr) (p : PenN)
  | stopLog (h : Hdr) (p : PenN)
  | join (h : Hdr)
  | release (h : Hdr) (one : Bool)
  | handback (h : Hdr)
  | goSolo (h : Hdr)
  | calInfo (h : Hdr) (len : Nat)
  | calRead (h : Hdr) (seg len : Nat) (factory : Bool)
  | calOpen (h : Hdr) (p0 : W32)
  | calWrite (h : Hdr) (seg : Nat) (b : List Byte)
  | calCommit (h : Hdr) (crc : W32)
  | abandon (h : Hdr)
  | eventInfo (h : Hdr) (log len : Nat)
  | eventRead (h : Hdr) (log first len : Nat)
  | eventClear (h : Hdr) (log : Nat)
  | mediaPolicyGet (h : Hdr) (len : Nat)
  | mediaPolicySet (h : Hdr) (len : Nat) (p : Policy)
  | regRead (h : Hdr) (a : Addr) (len : Nat)
  | regWrite (h : Hdr) (a : Addr) (v : W64)
  | memRead (h : Hdr) (a : Addr) (len : Nat) (hit : Hit)
  | memWrite (h : Hdr) (a : Addr) (b : List Byte)
  | flashOp (h : Hdr) (ch : Ch) (lun : LunN) (op : Fin 16) (pblk page : Nat) (resp : List SeqResp)
  | serviceDiagReset (h : Hdr)
  | zoneIdleTimeout (nsid zone : Nat)
  | ingressInterval
  | programGroupIssue (nsid zone : Nat) (bad : List Nat)
  | stripeCompletion (nsid zone : Nat)
  | folding (nsid zone : Nat) (bad : List (Nat × ReadErr))
  | bufferCeilingRecompute (milliV : Nat)
  | holdupMeasurementStart
  | holdupSample (milliV us : Nat)
  | holdupRechargeComplete (milliV : Nat)
  | writeHoldTimeout
  | temperatureHoldExpiry (id : Nat)
  | muleRequest (ch : Ch) (r : MuleReq)
  | parityUnitDelivery (ch : Ch) (row slot : Nat) (d : List LbaData)
  | busyTimeout (ch : Ch) (l : LunN)
  | muleSequenceEnd (ch : Ch) (l : LunN) (resp : List SeqResp) (us : Nat)
  | lunResetRequest (ch : Ch) (l : LunN)
  | restore (ch : Ch) (l : LunN)
  | lunRestoreRetry (ch : Ch) (l : LunN) (pass : Bool)
  | suspensionEnd (ch : Ch) (l : LunN)
  | muleCtlEnWrite (ch : Ch) (en : Bool)
  | muleTblDataWrite (ch : Ch) (v : W32)
  | readReconstruction (h : Hdr) (bad : List (Nat × ReadErr))
  | goatPatrolRead (group lbn : Nat) (seven : Bool) (best : Nat) (finds : List GoatFind)
  | tfSample
  | refreshRelocation (nsid zone : Nat)
  | garbageCollection (nsid : Nat)
  | wearLevelling (ch : Ch)
  | blockRetirement (ch : Ch) (l : LunN) (plane : Fin 4) (lbn : Nat)
  | relocationCommit
  | checkpoint
  | recovery (sealsOk : Bool) (badRows goneRows : List Nat) (badSegs : List (Nat × Nat))
  | cirqueProgramGo (ainc : Bool)
  | cirqueProgramEnd (corr : Nat)
  | pfifoWrite (d : W64)
  | cirqueEraseGo (b : BankN) (addr : Nat)
  | cirqueEraseSuspend (b : BankN)
  | cirqueEraseResume (b : BankN)
  | cirqueEraseEnd (b : BankN) (fail : Bool)
  | cirqueIdleResume (b : BankN)
  | cirqueWindowRead (who : Reqr) (word : Nat) (corr : Nat)
  | otpRead (w : Fin 64)
  | otpProgram (w : Fin 64) (corr : Nat)
  | frowRead (w : Fin 32)
  | otphide
  | cirqueCtlEnWrite (en : Bool)
  | oxGo (n : OxN)
  | oxStop (n : OxN)
  | oxCtlEnWrite (en : Bool)
  | oxBurstComplete (n : OxN) (err : Option (Fin 8 × W64)) (moved : List Byte) (hit : Hit := .none)
  | peripheralRequest (line : Byte)
  | requestWithdrawal (line : Byte)
  | cairnPostGo (hdr : W64) (p0 p1 : W64) (cmd : W32) (core : CoreN)
  | hardwarePost (p : Post) (pen : Option PenN)
  | cairnSlotWrite
  | cairnClrGo (log : W16) (who : BitVec 24)
  | cairnCtlEnWrite (en : Bool)
  | deviceLogRecordClose
  | henCtlEnWrite (v : BitVec 3)
  | henBurst (devs : List (Fin 10)) (ms : Nat)
  | dramcEcctestWrite
  | dramcEcctestReadraw
  | generate (slot : SlotN)
  | loadClear (slot : SlotN)
  | loadWrapped (slot : SlotN) (pwk : Bool)
  | exportWrapped (slot : SlotN) (pwk : Bool) (ecc : Bool := false)
  | zero (slot : SlotN)
  | loadBypass (slot : SlotN)
  | kopUndefined (op : BitVec 4)
  | saveClear (c : CipherN) (who : CoreN)
  | saveWrapped (c : CipherN) (who : CoreN)
  | restoreClear (c : CipherN) (who : CoreN)
  | restoreWrapped (c : CipherN) (who : CoreN)
  | ctxopUndefined (c : CipherN) (who : CoreN) (op : BitVec 4)
  | cipherJobGo (c : CipherN) (who : CoreN := 0) (ecc : Bool := false)
  | cipherJobStop (c : CipherN) (who : CoreN)
  | cipherJobEnd (c : CipherN) (err : Option (Fin 8))
  | cipherLockWrite (c : CipherN) (owner : BitVec 7) (who : CoreN)
  | cipherCoreEnWrite (c : CipherN) (en : Bool)
  | cipherMessage (m : CMsg) (ecc : Bool := false)
  | cipherMessageEnd (c : CipherN)
  | cipherAlarmSet
  | vmonAlarm
  | debugAlarm
  | kwkDerivation (eccBad : Bool)
  | epochBoundary
  | breakEpisodeEnd
  | penPctlWrite (p : PenN) (quiesce en : Bool)
  | penDrainEnd (p : PenN)
  | swap (p : PenN)
  | dlogEnWrite (p : PenN) (en : Bool)
  | readClearRegister (who : Reqr) (r : RcReg) (hit : Hit)
  | registerWrite (who : Reqr) (a : Addr) (v : W64) (hit : Hit)
  | peerFenceInFall
  | peerAliveInRise
  | idle (ackseq : W32)
  | frameCrcFailure (fec : Bool)
  | flushAreaDwellExpiry
  | timestampWindowExpiry
  | torUndefinedOpcode (pec : Bool) (op seq : Byte)
  | unsupportedCommand (h : Hdr) (why : Unsup)
  deriving DecidableEq, Repr

end Sys2Proof
end

