-- ==== Sys2Proof/Machine/Bits.lean ====
section
/-! DEFINITION. Bit-field helpers over 64-bit registers, byte packing, and the check codes that the
spec names (CRC-32, CRC-32C, CRC-8). -/

namespace Sys2Proof.Machine

/-- The mask with ones in bits hi to lo, written [hi:lo] as R9 writes bit ranges. -/
def msk (hi lo : Nat) : Nat := (2 ^ (hi + 1 - lo) - 1) * 2 ^ lo

/-- Field [hi:lo] of a natural number. -/
def natFld (x hi lo : Nat) : Nat := x / 2 ^ lo % 2 ^ (hi + 1 - lo)

/-- Field [hi:lo] of a register value. -/
def fldOf (w : W64) (hi lo : Nat) : Nat := natFld w.toNat hi lo

/-- A register value with field [hi:lo] replaced by the low bits of v. -/
def withFld (w : W64) (hi lo v : Nat) : W64 :=
  (w &&& ~~~ (BitVec.ofNat 64 (msk hi lo))) |||
    BitVec.ofNat 64 (v % 2 ^ (hi + 1 - lo) * 2 ^ lo)

/-- Bit n of a register value. -/
def bitOf (w : W64) (n : Nat) : Bool := w.getLsbD n

/-- A register value with bit n set to b. -/
def withBit (w : W64) (n : Nat) (b : Bool) : W64 :=
  if b then w ||| BitVec.twoPow 64 n else w &&& ~~~ (BitVec.twoPow 64 n)

/-- The value of n bits of two's complement. -/
def signed (n x : Nat) : Int := if x % 2 ^ n < 2 ^ (n - 1) then (x % 2 ^ n : Nat) else (x % 2 ^ n : Nat) - (2 ^ n : Nat)

/-- The 16-bit two's complement code of an integer. -/
def code16 (i : Int) : Nat := (i % 65536).toNat

/-- The n low bytes of a number, least significant first: all fields are little-endian. -/
def leBytes : Nat → Nat → List Byte
  | 0, _ => []
  | n + 1, x => BitVec.ofNat 8 x :: leBytes n (x / 256)

/-- The number that a little-endian byte list spells. -/
def ofLe : List Byte → Nat
  | [] => 0
  | b :: bs => b.toNat + 256 * ofLe bs

/-- One step of a reflected CRC over a bit. -/
def crcBit (poly c : Nat) : Nat := if c % 2 = 1 then (c / 2) ^^^ poly else c / 2

/-- One step of a reflected CRC over a byte. -/
def crcByte (poly c : Nat) (b : Byte) : Nat :=
  crcBit poly (crcBit poly (crcBit poly (crcBit poly
    (crcBit poly (crcBit poly (crcBit poly (crcBit poly (c ^^^ b.toNat))))))))

/-- CRC-32 of R145, R185, R249: IEEE 802.3. PRESUMED: the reflected form with all-ones start and
final inversion (assumption 9). -/
def crc32 (bs : List Byte) : Nat := (bs.foldl (crcByte 0xEDB88320) 0xFFFFFFFF) ^^^ 0xFFFFFFFF

/-- CRC-32C of R158 and R338. PRESUMED: the Castagnoli polynomial in the same form (assumption 9). -/
def crc32c (bs : List Byte) : Nat := (bs.foldl (crcByte 0x82F63B78) 0xFFFFFFFF) ^^^ 0xFFFFFFFF

/-- The number of ones among the low n bits. -/
def ones : Nat → Nat → Nat
  | 0, _ => 0
  | n + 1, x => x % 2 + ones n (x / 2)

/-- The positions of ones among the low n bits, ascending from i. -/
def onesFrom : Nat → Nat → Nat → List Nat
  | 0, _, _ => []
  | n + 1, i, x => if x % 2 = 1 then i :: onesFrom n (i + 1) (x / 2) else onesFrom n (i + 1) (x / 2)

/-- Floor of the base-2 logarithm, by descent. -/
def flog2 : Nat → Nat → Nat
  | 0, _ => 0
  | f + 1, x => if x < 2 then 0 else 1 + flog2 f (x / 2)

end Sys2Proof.Machine
end

