-- ==== Sys2Proof/Machine/AesCore.lean ====
section
/-! DEFINITION. The AES-256 cipher that R204 and R211 name, as FIPS 197 defines it: PRESUMED, the manual names it and
prints none of it (assumption 4). A block is held with its first byte in the low bits. -/

namespace Sys2Proof.Machine

/-! The substitution boxes: row n holds the bytes of inputs 16n to 16n + 15, the first one highest. -/

def sboxRows : List Nat :=
  [0x637c777bf26b6fc53001672bfed7ab76, 0xca82c97dfa5947f0add4a2af9ca472c0, 0xb7fd9326363ff7cc34a5e5f171d83115,
   0x04c723c31896059a071280e2eb27b275, 0x09832c1a1b6e5aa0523bd6b329e32f84, 0x53d100ed20fcb15b6acbbe394a4c58cf,
   0xd0efaafb434d338545f9027f503c9fa8, 0x51a3408f929d38f5bcb6da2110fff3d2, 0xcd0c13ec5f974417c4a77e3d645d1973,
   0x60814fdc222a908846eeb814de5e0bdb, 0xe0323a0a4906245cc2d3ac629195e479, 0xe7c8376d8dd54ea96c56f4ea657aae08,
   0xba78252e1ca6b4c6e8dd741f4bbd8b8a, 0x703eb5664803f60e613557b986c11d9e, 0xe1f8981169d98e949b1e87e9ce5528df,
   0x8ca1890dbfe6426841992d0fb054bb16]

def invRows : List Nat :=
  [0x52096ad53036a538bf40a39e81f3d7fb, 0x7ce339829b2fff87348e4344c4dee9cb, 0x547b9432a6c2233dee4c950b42fac34e,
   0x082ea16628d924b2765ba2496d8bd125, 0x72f8f66486689816d4a45ccc5d65b692, 0x6c704850fdedb9da5e154657a78d9d84,
   0x90d8ab008cbcd30af7e45805b8b34506, 0xd02c1e8fca3f0f02c1afbd0301138a6b, 0x3a9111414f67dcea97f2cfcef0b4e673,
   0x96ac7422e7ad3585e2f937e81c75df6e, 0x47f11a711d29c5896fb7620eaa18be1b, 0xfc563e4bc6d279209adbc0fe78cd5af4,
   0x1fdda8338807c731b11210592780ec5f, 0x60517fa919b54a0d2de57a9f93c99cef, 0xa0e03b4dae2af5b0c8ebbb3c83539961,
   0x172b047eba77d626e169146355210c7d]

/-- A byte looked up in a box. -/
def boxAt (t : List Nat) (x : Byte) : Byte :=
  BitVec.ofNat 8 (t.getD (x.toNat / 16) 0 / 2 ^ (8 * (15 - x.toNat % 16)))

def sbox (x : Byte) : Byte := boxAt sboxRows x
def invSbox (x : Byte) : Byte := boxAt invRows x

/-- Multiplication by x in GF(2^8). -/
def xtime (a : Byte) : Byte := (a <<< 1) ^^^ (if a.msb then 0x1B else 0)

/-! The round transformations, over the 16 bytes of the state, column by column. -/

def shiftRows (s : List Byte) : List Byte := (List.range 16).map (fun i => s.getD ((i + 4 * (i % 4)) % 16) 0)
def invShiftRows (s : List Byte) : List Byte := (List.range 16).map (fun i => s.getD ((i + 12 * (i % 4)) % 16) 0)

/-- One byte of a mixed column: 2a + 3b + c + d. -/
def mix1 (a b c d : Byte) : Byte := xtime a ^^^ xtime b ^^^ b ^^^ c ^^^ d

def mixColumns : List Byte → List Byte
  | a :: b :: c :: d :: r => mix1 a b c d :: mix1 b c d a :: mix1 c d a b :: mix1 d a b c :: mixColumns r
  | _ => []

/-- One byte of an unmixed column: 14a + 11b + 13c + 9d. -/
def unmix1 (a b c d : Byte) : Byte :=
  xtime (xtime (xtime (a ^^^ b ^^^ c ^^^ d) ^^^ a ^^^ c) ^^^ a ^^^ b) ^^^ b ^^^ c ^^^ d

def invMixColumns : List Byte → List Byte
  | a :: b :: c :: d :: r => unmix1 a b c d :: unmix1 b c d a :: unmix1 c d a b :: unmix1 d a b c :: invMixColumns r
  | _ => []

/-- The state and a round key added. -/
def addKey (s k : List Byte) : List Byte := List.zipWith (· ^^^ ·) s k

/-! The key schedule. -/

/-- The bytes of the next eight words of the schedule, from the last eight: each word is the one eight before it, and the one before
it, turned and substituted for the first, substituted for the fifth. -/
def nextKeys (rcon : Byte) (w : List Byte) : List Byte :=
  let word := fun (i : Nat) => (w.drop (4 * i)).take 4
  let t := (word 7).map sbox
  let turned := addKey (t.drop 1 ++ t.take 1) [rcon, 0, 0, 0]
  let w0 := addKey (word 0) turned
  let w1 := addKey (word 1) w0
  let w2 := addKey (word 2) w1
  let w3 := addKey (word 3) w2
  let w4 := addKey (word 4) (w3.map sbox)
  let w5 := addKey (word 5) w4
  let w6 := addKey (word 6) w5
  let w7 := addKey (word 7) w6
  w0 ++ w1 ++ w2 ++ w3 ++ w4 ++ w5 ++ w6 ++ w7

/-- The schedule from eight words on, for n further steps. -/
def keySchedule : Nat → Byte → List Byte → List Byte
  | 0, _, w => w
  | n + 1, rcon, w => w ++ keySchedule n (xtime rcon) (nextKeys rcon w)

/-- The 15 round keys of a 256-bit key. -/
def roundKeys (k : BitVec 256) : List (List Byte) :=
  let w := keySchedule 7 1 (leBytes 32 k.toNat)
  (List.range 15).map (fun r => (w.drop (16 * r)).take 16)

/-! The cipher and its inverse. -/

/-- The rounds from the second round key on: the last one mixes no columns. -/
def aesRounds : List Byte → List (List Byte) → List Byte
  | s, [] => s
  | s, [k] => addKey (shiftRows (s.map sbox)) k
  | s, k :: r => aesRounds (addKey (mixColumns (shiftRows (s.map sbox))) k) r

/-- The same rounds undone. -/
def aesUnround : List Byte → List (List Byte) → List Byte
  | s, [] => s
  | s, [k] => (invShiftRows (addKey s k)).map invSbox
  | s, k :: r => (invShiftRows (invMixColumns (addKey (aesUnround s r) k))).map invSbox

/-- One block encrypted under a list of round keys. -/
def aesEncWith (ks : List (List Byte)) (b : BitVec 128) : BitVec 128 :=
  BitVec.ofNat 128 (ofLe (aesRounds (addKey (leBytes 16 b.toNat) (ks.headD [])) ks.tail))

/-- One block decrypted. -/
def aesDecWith (ks : List (List Byte)) (b : BitVec 128) : BitVec 128 :=
  BitVec.ofNat 128 (ofLe (addKey (aesUnround (leBytes 16 b.toNat) ks.tail) (ks.headD [])))

def aesEnc (k : BitVec 256) (b : BitVec 128) : BitVec 128 := aesEncWith (roundKeys k) b
def aesDec (k : BitVec 256) (b : BitVec 128) : BitVec 128 := aesDecWith (roundKeys k) b

end Sys2Proof.Machine
end

