-- ==== Sys2Proof/Machine/Aes.lean ====
section
/-! DEFINITION. XTS-AES-256 (R204, R205) and AES key wrap (R211, R217), over AES-256. -/

namespace Sys2Proof.Machine

/-- Key1 and Key2 of a slot's 64 bytes (R204, R211). -/
def key1 (k : BitVec 512) : BitVec 256 := BitVec.ofNat 256 k.toNat
def key2 (k : BitVec 512) : BitVec 256 := BitVec.ofNat 256 (k.toNat / 2 ^ 256)

/-- Multiplication by α in GF(2^128) (R205, IEEE 1619). -/
def alpha (t : BitVec 128) : BitVec 128 := (t <<< 1) ^^^ (if t.getLsbD 127 then 0x87 else 0)

/-- T(0) of a data unit number. -/
def tweak0 (k : BitVec 512) (i : Nat) : BitVec 128 := aesEnc (key2 k) (BitVec.ofNat 128 (i % 2 ^ 64))

/-- The tweak j blocks on. -/
def tweakAfter : Nat → BitVec 128 → BitVec 128
  | 0, t => t
  | n + 1, t => tweakAfter n (alpha t)

/-- One block under its tweak. -/
def xtsBlock (dec : Bool) (k : BitVec 512) (t p : BitVec 128) : BitVec 128 :=
  t ^^^ (if dec then aesDec (key1 k) (p ^^^ t) else aesEnc (key1 k) (p ^^^ t))

/-- Blocks from a tweak on. -/
def xtsRun (dec : Bool) (k : BitVec 512) : BitVec 128 → List (BitVec 128) → List (BitVec 128)
  | _, [] => []
  | t, p :: r => xtsBlock dec k t p :: xtsRun dec k (alpha t) r

/-- The blocks of a number, and back. -/
def blocksOf (n x : Nat) : List (BitVec 128) := (List.range n).map (fun j => BitVec.ofNat 128 (x / 2 ^ (128 * j)))
def ofBlocks : List (BitVec 128) → Nat
  | [] => 0
  | b :: r => b.toNat + 2 ^ 128 * ofBlocks r

/-- The data of one LBA: a data unit of 256 blocks (R204). -/
def xtsLba (dec : Bool) (k : BitVec 512) (i : Nat) (x : LbaData) : LbaData :=
  BitVec.ofNat 32768 (ofBlocks (xtsRun dec k (tweak0 k i) (blocksOf 256 x.toNat)))

/-! AES-KW of SP 800-38F, over 64-bit semiblocks whose first byte is the low one. -/

/-- The bytes of a semiblock the other way round. -/
def swap64 (x : Nat) : W64 :=
  BitVec.ofNat 64 ((List.range 8).foldl (fun a i => a + x / 2 ^ (8 * i) % 256 * 2 ^ (8 * (7 - i))) 0)

def kwIcv : W64 := 0xA6A6A6A6A6A6A6A6

/-- The semiblock pair as one AES block. -/
def kwPair (a r : W64) : BitVec 128 := BitVec.ofNat 128 (a.toNat + r.toNat * 2 ^ 64)
def kwLo (b : BitVec 128) : W64 := BitVec.ofNat 64 b.toNat
def kwHi (b : BitVec 128) : W64 := BitVec.ofNat 64 (b.toNat / 2 ^ 64)

/-- Step m of the wrap. -/
def kwStep (k : BitVec 256) (n : Nat) (s : W64 × List W64) (m : Nat) : W64 × List W64 :=
  let b := aesEnc k (kwPair s.1 (s.2.getD (m % n) 0))
  (kwLo b ^^^ swap64 (m + 1), s.2.set (m % n) (kwHi b))

/-- Wrap. -/
def kwWrap (k : BitVec 256) (p : List W64) : List W64 :=
  let s := (List.range (6 * p.length)).foldl (kwStep k p.length) (kwIcv, p)
  s.1 :: s.2

/-- Step m of the unwrap. -/
def kwBack (k : BitVec 256) (n : Nat) (s : W64 × List W64) (m : Nat) : W64 × List W64 :=
  let b := aesDec k (kwPair (s.1 ^^^ swap64 (m + 1)) (s.2.getD (m % n) 0))
  (kwLo b, s.2.set (m % n) (kwHi b))

/-- Unwrap: none where the integrity check fails. -/
def kwUnwrap (k : BitVec 256) (c : List W64) : Option (List W64) :=
  match c with
  | [] => none
  | a :: r =>
    let s := (List.range (6 * r.length)).reverse.foldl (kwBack k r.length) (a, r)
    if s.1 = kwIcv then some s.2 else none

/-- The semiblocks of a word, and back. -/
def semis (n x : Nat) : List W64 := (List.range n).map (fun i => BitVec.ofNat 64 (x / 2 ^ (64 * i)))
def ofSemis : List W64 → Nat
  | [] => 0
  | b :: r => b.toNat + 2 ^ 64 * ofSemis r

/-- A key with its attribute block, wrapped (R211): 88 bytes. -/
def wrapKey (kw : BitVec 256) (k : BitVec 512) (attr : BitVec 128) : BitVec 704 :=
  BitVec.ofNat 704 (ofSemis (kwWrap kw (semis 10 (k.toNat + attr.toNat * 2 ^ 512))))

/-- A key with its attribute block, unwrapped. -/
def unwrapKey (kw : BitVec 256) (b : BitVec 704) : Option (BitVec 512 × BitVec 128) :=
  (kwUnwrap kw (semis 11 b.toNat)).map (fun p =>
    (BitVec.ofNat 512 (ofSemis p), BitVec.ofNat 128 (ofSemis p / 2 ^ 512)))

end Sys2Proof.Machine
end

