-- ==== Sys2Proof/Machine/SMap.lean ====
section
/-! DEFINITION. Sparse maps from numbers to values, as sorted lists that never list a value equal to
what an unlisted key reads as. Registers, memories and tables of the part are held this way. -/

namespace Sys2Proof.Machine

/-- A sparse map: (key, value) pairs. -/
abbrev SMap (α : Type) := List (Nat × α)

namespace SMap

/-- The value listed for a key, if one is. -/
def find {α : Type} : SMap α → Nat → Option α
  | [], _ => none
  | (k, v) :: t, a => if k = a then some v else find t a

/-- The value at a key, d giving what an unlisted key reads as. -/
def get {α : Type} (d : Nat → α) (m : SMap α) (a : Nat) : α := (find m a).getD (d a)

/-- The map without a key. -/
def del {α : Type} : SMap α → Nat → SMap α
  | [], _ => []
  | (k, v) :: t, a => if k = a then del t a else (k, v) :: del t a

/-- The map with a key listed, in its place. -/
def put {α : Type} : SMap α → Nat → α → SMap α
  | [], a, x => [(a, x)]
  | (k, v) :: t, a, x =>
    if a < k then (a, x) :: (k, v) :: t
    else if k = a then (k, x) :: t
    else (k, v) :: put t a x

/-- Write a value: a value equal to what an unlisted key reads as removes the entry. -/
def set {α : Type} [DecidableEq α] (d : Nat → α) (m : SMap α) (a : Nat) (x : α) : SMap α :=
  if x = d a then del m a else put m a x

/-- Every key of the map is above a bound, and keys rise strictly. -/
def above {α : Type} : Nat → SMap α → Bool
  | _, [] => true
  | b, (k, _) :: t => decide (b < k) && above k t

/-- The keys rise strictly. -/
def sorted {α : Type} : SMap α → Bool
  | [] => true
  | (k, _) :: t => above k t

/-- No entry equals what its key reads as unlisted. -/
def tight {α : Type} [DecidableEq α] (d : Nat → α) : SMap α → Bool
  | [] => true
  | (k, v) :: t => decide (v ≠ d k) && tight d t

/-- The canonical form. -/
def wf {α : Type} [DecidableEq α] (d : Nat → α) (m : SMap α) : Bool := sorted m && tight d m

/-- The entries whose keys satisfy a test. -/
def keep {α : Type} (p : Nat → Bool) : SMap α → SMap α
  | [] => []
  | (k, v) :: t => if p k then (k, v) :: keep p t else keep p t

end SMap
end Sys2Proof.Machine
end

