-- ==== Sys2Proof/Machine/Journal.lean ====
section
/-! DEFINITION. Journal records as they stand in the array (R145, R146): bytes, code words, places in the ring (R283), and
when a record counts. -/

namespace Sys2Proof.Machine

/-- The TYPE byte of a record (R146). -/
def bodyType : JBody → Nat
  | .zopen .. => 0x01 | .stripe .. => 0x02 | .foldput .. => 0x03 | .zstate .. => 0x04 | .zreset .. => 0x05
  | .relocZ .. => 0x06 | .relocC .. => 0x07 | .remap .. => 0x08 | .erase .. => 0x09 | .ckpt .. => 0x0A
  | .flushBegin .. => 0x0B | .flushEnd .. => 0x0C | .shutdown .. => 0x0D | .initdone .. => 0x0E

/-- The payload of a record, field by field in the order of R146; a stripe type and a flag are 1 or 0. -/
def bodyFields : JBody → List Nat
  | .zopen nsx ix group lbn zseq seven => [nsx, ix, group, lbn, zseq, if seven then 1 else 0]
  | .stripe nsx ix grp wp => [nsx, ix, grp, wp]
  | .foldput nsx ix lba n row unit => [nsx, ix, lba, n, row, unit]
  | .zstate nsx ix st wp => [nsx, ix, st, wp]
  | .zreset nsx ix zseq group lbn => [nsx, ix, zseq, group, lbn]
  | .relocZ nsx ix group lbn ngroup nlbn => [nsx, ix, group, lbn, ngroup, nlbn]
  | .relocC nsx src rows n => [nsx, src] ++ rows ++ [n]
  | .remap ch lun plane lbn old new retire => [ch, lun, plane, lbn, old, new, if retire then 1 else 0]
  | .erase ch group lbn why => [ch, group, lbn, why]
  | .ckpt region seg loc seqn => [region, seg, loc, seqn]
  | .flushBegin rows own peer bceil => rows ++ [own, peer, bceil]
  | .flushEnd rows crc => [rows, crc]
  | .shutdown why => [why]
  | .initdone replayed rows => [replayed, rows]

/-- The payload bytes. DESIGN CHOICE (assumption 17): each field takes 8 bytes; R146 gives their order and no widths. -/
def jPayload (r : JRec) : List Byte := ((bodyFields r.body).flatMap (leBytes 8)).take 236

/-- LEN: the code words of a record, 2 to 8 (R145). -/
def jLen (r : JRec) : Nat := Nat.max 2 (((jPayload r).length + 20 + 31) / 32)

/-- The FLAGS of a record (R145). -/
def jFlags (r : JRec) : Nat := (if r.flushed then 1 else 0) + (if r.peer then 2 else 0)

/-- The bytes of a record before its CRC (R145). -/
def jHead (r : JRec) : List Byte :=
  [BitVec.ofNat 8 (bodyType r.body), BitVec.ofNat 8 (jLen r)] ++ leBytes 2 (jFlags r) ++ leBytes 8 r.seq ++ (jPayload r) ++
    List.replicate (32 * (jLen r) - 20 - (jPayload r).length) 0

/-- The bytes of a record (R145): the CRC over what stands before it, and VMARK last. -/
def jBytes (r : JRec) : List Byte := (jHead r) ++ leBytes 4 (crc32 (jHead r)) ++ [0, 0, 0, 0xA5]

/-- Code word k of a record. -/
def jWord (r : JRec) (k : Nat) : BitVec 256 := BitVec.ofNat 256 (ofLe (((jBytes r).drop (32 * k)).take 32))

/-- The words of the ring. -/
def ringWords : Nat := 16384 * 128

/-- The sector of ring position n: sector n ÷ 4 of bank 4 + (n mod 4) (R283). -/
def ringSector (n : Nat) : Nat := 0x4000 + n % 4 * 0x1000 + n % 16384 / 4

/-- The ring position of a sector of the ring (R283). -/
def ringPlace (sec : Nat) : Nat := sec % 0x1000 * 4 + (sec / 0x1000 - 4)

/-- The word of the array at a place of the ring, in words from its start. -/
def ringAddr (p : Nat) : Nat := ringSector (p / 128) * 128 + p % 128

/-- A word of the array lies in a record. -/
def jHolds (r : JRec) (w : Nat) : Bool := decide (ringAddr r.loc ≤ w) && decide (w < ringAddr r.loc + (jLen r))

/-- What the records of the ring hold at a word of the array. -/
def ringWord (l : List JRec) (w : Nat) : Option (BitVec 256) :=
  if w < 0x200000 then none else (l.find? (fun r => jHolds r w)).map (fun r => jWord r (w - ringAddr r.loc))

/-- Where a record of some words goes from a place of the ring on: whole in one sector (DESIGN CHOICE, assumption 17), and
past the retired sectors (R288); `f` bounds the sectors looked at. -/
def ringFit (retired : List Nat) (len : Nat) : Nat → Nat → Nat
  | 0, p => p
  | f + 1, p =>
    if p % 128 + len ≤ 128 ∧ ringSector (p / 128) ∉ retired then p
    else ringFit retired len f ((p / 128 + 1) * 128 % ringWords)

/-- How many sectors ahead of a place of the ring a record lies. -/
def ringAhead (head : Nat) (r : JRec) : Nat := (r.loc / 128 + 16384 - head / 128) % 16384

/-- The words of a record as they read: it counts only with its valid mark and a CRC that matches (R145). -/
def recordGood (ws : List (BitVec 256)) : Bool :=
  let b := ws.flatMap (fun w => leBytes 32 w.toNat)
  let n := b.length
  decide (2 ≤ ws.length) && decide (ws.length ≤ 8) && decide (b.getD 1 0 = BitVec.ofNat 8 ws.length) &&
    decide (b.getD (n - 1) 0 = 0xA5) && decide (crc32 (b.take (n - 8)) = ofLe ((b.drop (n - 8)).take 4))

end Sys2Proof.Machine
end

