-- ==== Sys2Proof/Config.lean ====
section
/-! DEFINITION. The values that the manual leaves open, as constants without a body: nothing in Lean can
evaluate them, so a statement about a run holds whatever they are. The first argument of each is the
counter `free` of the state, or the operands that the value depends on. -/

namespace Sys2Proof.Config

/-- A number that the manual does not state (assumption 2). -/
opaque freeNat : Nat → Nat
/-- A register value that the manual does not state (assumption 2). -/
opaque free64 : Nat → BitVec 64
/-- The code of an event record that the manual names without a code (assumption 8). -/
opaque evCode : Nat → Nat
/-- A truth value that the manual does not state (assumption 2). -/
opaque freeBool : Nat → Bool
/-- The sectors that a cut program or erase leaves: the word it reads as (R277, assumption 3). -/
opaque cutWord : Nat → Nat → BitVec 256
/-- A byte of the boot ROM (R19, R394): the manual does not print its image. -/
opaque romByte : Nat → BitVec 8
/-- Key material from the random bit generator (R211). -/
opaque drbgKey : Nat → BitVec 512
/-- The contents of a DRAM burst that failed by itself (R171, assumption 2). -/
opaque free512 : Nat → BitVec 512
/-- The LBAs that a segment of the conventional map covers (R147, R175; assumption 127). -/
opaque mapSeg : Nat
/-- What the peer has programmed on the shared flash at an LBA, where no frame brought it here: namespace, LBA and GEN (R224, R241;
assumption 153). -/
opaque peerData : Nat → Nat → Nat → Nat
/-- The place of the dirty-page logging area in DRAM, in units of its 256 MiB (R57, R197; assumption 2). -/
opaque dlogPlace : Nat
/-- Where a segment of the conventional map begins in DRAM: namespace and number (R175; assumption 130). -/
opaque mapAddr : Nat → Nat → Nat
/-- Whether the peer's signature over its public value verifies: public value and signature, as numbers whose first byte is the low one
(R230; assumption 144). -/
opaque sigOk : Nat → Nat → Bool
/-- What the calibration set, as a number, gives a register (R171, R286; assumption 139). -/
opaque calValue : Nat → Nat → Nat
/-- An entry of a Mule's remap or class table before it is loaded (R138): channel, table and index. -/
opaque tableWord : Nat → BitVec 32
/-- The 480 bytes of LDPC parity over the 4,128 bytes of data and metadata of a codeword (R118; assumption 103). -/
opaque ldpcParity : List (BitVec 8) → List (BitVec 8)
/-- The channel and subchannel, as 2c + s, that a burst address lies in (R171, assumption 5). -/
opaque dramLane : Nat → Nat

/-- The GiB of SLC data that Fold holds beside the reservations of R50 (R267). -/
opaque foldGib : Nat

end Sys2Proof.Config
end

