-- ==== Sys2Proof/Machine/Regs.lean ====
section
/-! DEFINITION. The register tables of the manual: one row per register, with its place in the
peripheral region (R20), its field types (R12) and its reset value (R13). Every memory-mapped
register of every block stands here and nowhere else; a register's contents are held under its
physical address. -/

namespace Sys2Proof.Machine

/-- One register, or an array of registers: `os`/`on` are the stride and count of the outer index
(an Ox channel, a cipher core), `st`/`n` those of the inner one. The masks give the field types of
R12; a bit in no mask is RO or reserved. `tor` marks the bits that only a VDD_AON power-on resets. -/
structure RegRow where
  off : Nat
  st : Nat := 4
  n : Nat := 1
  os : Nat := 0
  on : Nat := 1
  bytes : Nat := 4
  rst : Nat → Nat := fun _ => 0
  rw : Nat := 0
  w1c : Nat := 0
  w1s : Nat := 0
  wo : Nat := 0
  rc : Nat := 0
  tor : Nat := 0

/-- All ones in n bits. -/
def fullMask (n : Nat) : Nat := 2 ^ n - 1

/-- CLK, R331. -/
def clkRows : List RegRow := [
  { off := 0x00, rw := 1 },
  { off := 0x04, rst := fun _ => 0xFC, w1c := 0x102 },
  { off := 0x08, w1c := 0x80000000, tor := 0x87FFFFFF },
  { off := 0x0C },
  { off := 0x10 },
  { off := 0x20, n := 4, rc := 0xFFFF0000,
    rst := fun i => (if i = 0 then 64 else if i = 1 then 80 else if i = 2 then 72 else 128) * 2 + 1 },
  { off := 0x40, rw := 0x7FF },
  { off := 0x44 },
  { off := 0x48, bytes := 8, rw := fullMask 64 },
  { off := 0x50, bytes := 8 },
  { off := 0x58, bytes := 8 },
  { off := 0x80, w1c := 0x7F, tor := 0x7F },
  { off := 0x88, wo := 0xFFF },
  { off := 0x90, bytes := 8, wo := fullMask 64 },
  { off := 0x98, rw := 0xFFFF, rst := fun _ => 1 } ]

/-- PWR, R346. -/
def pwrRows : List RegRow := [
  { off := 0x00, rw := 7, wo := 8 },
  { off := 0x04, tor := 0x70 },
  { off := 0x08, rw := 0x1F, rst := fun _ => 0x1F },
  { off := 0x0C, w1c := 0x1F, tor := 0x1F },
  { off := 0x10, rw := fullMask 32 },
  { off := 0x14, rw := 0xFF, rst := fun _ => 0xFF },
  { off := 0x18, w1c := 0xFF, tor := 0xFFFF },
  { off := 0x20, tor := fullMask 32 },
  { off := 0x28, bytes := 8, tor := fullMask 48 } ]

/-- TOR, R346. -/
def torRows : List RegRow := [
  { off := 0x00, tor := 0xFFFF },
  { off := 0x10, n := 8, st := 8, bytes := 8, tor := fullMask 64 },
  { off := 0x50, w1c := 0x1F, tor := 0x1F } ]

/-- The shipped curve of R352: temperature in bits [15:8], percentage in [6:0]. -/
def curveReset (i : Nat) : Nat :=
  (100 + i) * 256 + (if i < 8 then 100 - 10 * i else 25)

/-- THERM, R357. -/
def thermRows : List RegRow := [
  { off := 0x00 },
  { off := 0x04 },
  { off := 0x08, rst := fun _ => 0x64 },
  { off := 0x0C, rw := 0xF, rst := fun _ => 5 },
  { off := 0x20, n := 8 },
  { off := 0x40, n := 16 },
  { off := 0x80, rw := 0xFFFF, rst := fun _ => 0xFFFF },
  { off := 0x90, n := 8, rw := 0xFF },
  { off := 0xC0, n := 16, rw := 0xFF },
  { off := 0x100, n := 16, rw := 0xFF7F, rst := curveReset },
  { off := 0x180, rc := fullMask 32 },
  { off := 0x188, tor := 0xFFFF07FF } ]

/-- CAIRN, R302. -/
def cairnRows : List RegRow := [
  { off := 0x00, rw := 1 },
  { off := 0x04 },
  { off := 0x08, bytes := 8, rw := msk 39 26 },
  { off := 0x10, bytes := 8 },
  { off := 0x18, rc := fullMask 32 },
  { off := 0x20, bytes := 8, rw := fullMask 35 },
  { off := 0x28, n := 2, st := 8, bytes := 8, rw := fullMask 64 },
  { off := 0x38, rw := 0xEFF, wo := 0x80000000 },
  { off := 0x40, rw := 0xFFFFFF },
  { off := 0x44, rw := 0xFFFF, wo := 0x80000000 },
  { off := 0x48, rw := 0x1FFFFF, rst := fun _ => 0x100 } ]

/-- HEN, R170. -/
def henRows : List RegRow := [
  { off := 0x00, rw := 7, rst := fun _ => 4 },
  { off := 0x04, w1c := 4 },
  { off := 0x08, rw := 0xFFF, rst := fun _ => 0x40 },
  { off := 0x10, bytes := 8, rw := msk 39 6, rst := fun _ => 0x1000000000 },
  { off := 0x18, bytes := 8, rw := msk 39 6, rst := fun _ => 0x2FFFFFFFC0 },
  { off := 0x20, bytes := 8, rst := fun _ => 0x1000000000 },
  { off := 0x28 },
  { off := 0x2C },
  { off := 0x30, bytes := 8, rc := fullMask 64 },
  { off := 0x38, bytes := 8, rc := fullMask 64 },
  { off := 0x40, bytes := 8, w1c := 0x8000000000000000 } ]

/-- CIRQUE, R290. -/
def cirqueRows : List RegRow := [
  { off := 0x00, rw := 1, w1s := 2 },
  { off := 0x04, w1c := 8 },
  { off := 0x10, rw := msk 26 5 },
  { off := 0x20, n := 4, st := 8, bytes := 8, rw := fullMask 64 },
  { off := 0x40, rw := 2, wo := 1 },
  { off := 0x48, bytes := 8, wo := fullMask 64 },
  { off := 0x80, n := 8, rw := msk 26 12, wo := 0xE0000000 },
  { off := 0xC0, n := 8, w1c := 0x1C },
  { off := 0x100, tor := msk 26 12 + 1 },
  { off := 0x110, bytes := 8, w1c := 0x8000000000000000 },
  { off := 0x120, n := 6, st := 8, bytes := 8, rc := fullMask 64 },
  { off := 0x200, wo := 3 },
  { off := 0x204, rw := 0x3F },
  { off := 0x208, n := 4, st := 8, bytes := 8 },
  { off := 0x240, rw := 0x1F },
  { off := 0x248, n := 4, st := 8, bytes := 8 } ]

/-- DRAMC, R171. The timing and training registers at 0x8000 to 0xFFFF are taken as 32-bit RW words
(assumption 12: the manual gives them no fields). -/
def dramcRows : List RegRow := [
  { off := 0x000, w1c := 1 },
  { off := 0x100, n := 80, rc := fullMask 32 },
  { off := 0x300, bytes := 8, rc := fullMask 64 },
  { off := 0x308, bytes := 8, w1c := 0x8000000000000000 },
  { off := 0x400, rw := 0x16, wo := 1 },
  { off := 0x408, bytes := 8, rw := msk 39 6 },
  { off := 0x440, n := 8, st := 8, bytes := 8, rw := fullMask 64 },
  { off := 0x480, n := 2, st := 8, bytes := 8, rw := fullMask 64 },
  { off := 0x8000, n := 8192, rw := fullMask 32 } ]

/-- OX, R315. -/
def oxRows : List RegRow := [
  { off := 0x00, rw := 1 },
  { off := 0x04 },
  { off := 0x10, bytes := 8, w1c := fullMask 64 },
  { off := 0x18, w1c := fullMask 32 },
  { off := 0x1000, os := 0x80, on := 32, rw := fullMask 32 },
  { off := 0x1008, os := 0x80, on := 32, bytes := 8, rw := fullMask 64 },
  { off := 0x1010, os := 0x80, on := 32, bytes := 8, rw := fullMask 64 },
  { off := 0x1018, os := 0x80, on := 32, bytes := 8, rw := fullMask 40 },
  { off := 0x1020, os := 0x80, on := 32, rw := fullMask 28 },
  { off := 0x1028, os := 0x80, on := 32, rw := fullMask 32 },
  { off := 0x102C, os := 0x80, on := 32, wo := 3 },
  { off := 0x1030, os := 0x80, on := 32, w1c := 0xC00 },
  { off := 0x1038, os := 0x80, on := 32 },
  { off := 0x1040, os := 0x80, on := 32, bytes := 8 },
  { off := 0x1048, os := 0x80, on := 32, bytes := 8 },
  { off := 0x1050, os := 0x80, on := 32, bytes := 8 } ]

/-- CIPHER, R222. -/
def cipherRows : List RegRow := [
  { off := 0x00, rw := 1 },
  { off := 0x04 },
  { off := 0x08 },
  { off := 0x0C, wo := 1 },
  { off := 0x20, n := 4, st := 8, bytes := 8, wo := fullMask 64 },
  { off := 0x40, n := 11, st := 8, bytes := 8, wo := fullMask 64 },
  { off := 0xA0, n := 11, st := 8, bytes := 8 },
  { off := 0x100, n := 2, st := 8, bytes := 8, rw := fullMask 64 },
  { off := 0x110, rw := 0x0FFF0100, wo := 0xF },
  { off := 0x200, n := 256, rw := 0x1FFF0FFF },
  { off := 0x600, n := 3, st := 8, bytes := 8, rc := fullMask 64 },
  { off := 0x1000, os := 128, on := 24, rw := 1 },
  { off := 0x1004, os := 128, on := 24 },
  { off := 0x1008, os := 128, on := 24, rw := 0x7F },
  { off := 0x100C, os := 128, on := 24, rw := 0xFFFFFFF4, wo := 3 },
  { off := 0x1010, os := 128, on := 24, bytes := 8, rw := fullMask 64 },
  { off := 0x1018, os := 128, on := 24, bytes := 8, rw := msk 39 4 },
  { off := 0x1020, os := 128, on := 24, bytes := 8, rw := msk 39 4 },
  { off := 0x1028, os := 128, on := 24 },
  { off := 0x102C, os := 128, on := 24, wo := 0xF },
  { off := 0x1030, os := 128, on := 24, n := 7, st := 8, bytes := 8, rw := fullMask 64 } ]

/-- COL, R109. -/
def colRows : List RegRow := [
  { off := 0x00, rw := 3 },
  { off := 0x04 },
  { off := 0x10, rw := 0xFFFF, rst := fun _ => 0x28 },
  { off := 0x14, rw := 0xFF7F, rst := fun _ => 0x4014 },
  { off := 0x100, n := 64 },
  { off := 0x1000, n := 4096, rw := 0x7FF, rst := fun _ => 6 },
  { off := 0x8000, n := 1024, st := 8, bytes := 8, rw := fullMask 50 },
  { off := 0xA000, n := 4, st := 8, bytes := 8, rc := fullMask 64 } ]

/-- PAIR, R253. -/
def pairRows : List RegRow := [
  { off := 0x00, rw := 0xFF001D, rst := fun _ => 0x20000 },
  { off := 0x04, w1c := 0x80 },
  { off := 0x08, rw := 1, tor := 1 },
  { off := 0x0C, wo := 1 },
  { off := 0x10, rw := 0xFFFF, rst := fun _ => 0xC8 },
  { off := 0x14 },
  { off := 0x20, bytes := 8 },
  { off := 0x28, bytes := 8, wo := fullMask 64 },
  { off := 0x30, bytes := 8, wo := fullMask 64 },
  { off := 0x38, bytes := 8 },
  { off := 0x40, bytes := 8, w1c := fullMask 64 },
  { off := 0x48, bytes := 8, w1c := fullMask 64 },
  { off := 0x50, bytes := 8 },
  { off := 0x58, bytes := 8 },
  { off := 0x60, bytes := 8 },
  { off := 0x68, bytes := 8, rw := msk 39 30 },
  { off := 0x80, n := 8, st := 8, bytes := 8, rc := fullMask 64 },
  { off := 0x100, n := 8 } ]

/-- PEN, R201. -/
def penRows : List RegRow := [
  { off := 0x00, rw := 1 },
  { off := 0x04 },
  { off := 0x08, rw := fullMask 32, rst := fun _ => 0x044506B6 },
  { off := 0x0C, rw := fullMask 32 },
  { off := 0x10, rst := fun _ => 0x044506B6 },
  { off := 0x14, w1c := 3 },
  { off := 0x1000, n := 256 },
  { off := 0x1400, n := 256, rw := 3 },
  { off := 0x1800, n := 256, st := 8, bytes := 8, rw := fullMask 64, rst := fun _ => 0xFFFFFFFF00000000 },
  { off := 0x2000, n := 256, rw := 0xFFFFFF00, rst := fun _ => 0x01000000 },
  { off := 0x2400, n := 256 },
  { off := 0x2800, n := 256 },
  { off := 0x3000, bytes := 8, rw := msk 39 28 },
  { off := 0x3100, n := 256, rw := 1, wo := 2 },
  { off := 0x4000, n := 1024, st := 16, bytes := 8, rw := msk 63 12 + 1 },
  { off := 0x4008, n := 1024, st := 16, bytes := 8, rw := fullMask 64 } ]

/-- SIDEBAND, R372. -/
def sbRows : List RegRow := [
  { off := 0x00, rw := 1 },
  { off := 0x04, tor := 8 },
  { off := 0x08, tor := 0xFF },
  { off := 0x0C, tor := 0xFF },
  { off := 0x10, bytes := 8 },
  { off := 0x18, tor := 0xFF },
  { off := 0x1C, rw := 0x1F, tor := 0x1F },
  { off := 0x20, w1c := 0x1F, tor := 0x1F },
  { off := 0x28, tor := 2 },
  { off := 0x40, n := 4, st := 8, bytes := 8, rc := fullMask 64 } ]

/-- MULE[ch], R138. -/
def muleRows : List RegRow := [
  { off := 0x00, rw := 1 },
  { off := 0x04, w1c := 4 },
  { off := 0x08, rw := 0xFFFF3, rst := fun _ => 0x80000 },
  { off := 0x0C, rw := 0x3FFF3F },
  { off := 0x10, rw := 0x3F, rst := fun _ => 0x1C1C },
  { off := 0x14, rw := fullMask 28, rst := fun _ => 0x190 * 2 ^ 18 + 0x96 * 2 ^ 8 + 0x84 },
  { off := 0x18, rw := fullMask 28, rst := fun _ => 0x190 * 2 ^ 18 + 0x1F4 * 2 ^ 8 + 0x8C },
  { off := 0x20, n := 16, st := 1, bytes := 1, rw := 0xFF },
  { off := 0x40, rw := 0xFFBF1F, rst := fun _ => 0x04A814 },
  { off := 0x44, rw := 0x1F3F, rst := fun _ => 0x1037 },
  { off := 0x50, n := 16, st := 1, bytes := 1, rw := 0x3F },
  { off := 0x80, n := 9, st := 8, bytes := 8, rc := fullMask 64 },
  { off := 0x100, n := 32, wo := 8 },
  { off := 0x200, rw := 0xE000FFFF },
  { off := 0x204, rw := fullMask 32 },
  { off := 0x400, os := 16, on := 64, st := 8, bytes := 8, rw := fullMask 64 },
  { off := 0x408, os := 16, on := 64, st := 8, bytes := 8, rw := fullMask 56 },
  { off := 0x1000, n := 256, st := 8, bytes := 8, rw := fullMask 64 },
  { off := 0x8000, n := 4096, st := 8, bytes := 8, rw := fullMask 64 } ]

/-- The peripheral region of R19. -/
def periBase : Nat := 0x0200000000

/-- The register tables in the order of the block offsets of R20; HOSTIF (0xD) has no table of
registers in the manual. -/
def blockRows (b : Nat) : List RegRow :=
  match b with
  | 0 => clkRows | 1 => pwrRows | 2 => torRows | 3 => thermRows | 4 => cairnRows | 5 => henRows
  | 6 => cirqueRows | 7 => dramcRows | 8 => oxRows | 9 => cipherRows | 10 => colRows
  | 11 => pairRows | 12 => penRows | 13 => [] | 14 => sbRows | 15 => []
  | _ => if b < 80 then muleRows else []

/-- The index of a register in a row, when the offset is the address of one: outer × n + inner. -/
def rowIdx (r : RegRow) (o : Nat) : Option Nat :=
  if o < r.off then none else
  let d := o - r.off
  let i := if r.os = 0 then 0 else d / r.os
  let e := if r.os = 0 then d else d % r.os
  if i < r.on && e < r.st * r.n && e % r.st = 0 then some (i * r.n + e / r.st) else none

/-- The first row of a table that holds an offset. -/
def rowFind : List RegRow → Nat → Option (RegRow × Nat)
  | [], _ => none
  | r :: t, o => match rowIdx r o with
    | some i => some (r, i)
    | none => rowFind t o

/-- The register at a physical address of the peripheral region: R20 and the block's own table.
None: a hole, which decodes to nothing (R21). DESIGN CHOICE (assumption 111): an access names a register by
its first byte and has the register's width; the manual states no access widths, and an address inside a register but
not at its first byte (the upper half of a 64-bit register) names none. -/
def regAt (a : Nat) : Option (RegRow × Nat) :=
  if a < periBase then none else
  rowFind (blockRows ((a - periBase) / 0x10000)) ((a - periBase) % 0x10000)

/-- The reset value of the register at an address (R13). -/
def regReset (a : Nat) : W64 :=
  match regAt a with
  | some (r, i) => BitVec.ofNat 64 (r.rst i)
  | none => 0

/-- The register bits at an address that only a VDD_AON power-on resets. -/
def regTor (a : Nat) : W64 :=
  match regAt a with
  | some (r, _) => BitVec.ofNat 64 r.tor
  | none => 0

/-- The block of an address, as its index in the peripheral region. -/
def blockOf (a : Nat) : Nat := (a - periBase) / 0x10000

/-- Block index b (R20) is the block ID and unit of R16. -/
def blockId (b : Nat) : Nat × Nat :=
  match b with
  | 0 => (0x01, 0) | 1 => (0x02, 0) | 2 => (0x02, 1) | 3 => (0x03, 0) | 4 => (0x0F, 0xFE)
  | 5 => (0x0C, 0) | 6 => (0x0A, 0) | 7 => (0x06, 0) | 8 => (0x0B, 0) | 9 => (0x08, 0)
  | 10 => (0x05, 0) | 11 => (0x09, 0) | 12 => (0x07, 0) | 13 => (0x0D, 0) | 14 => (0x0E, 0)
  | _ => if 16 ≤ b ∧ b < 80 then (0x04, b - 16) else (0, 0)

/-- The unit that the table of R16 gives the register at an address, for a block whose unit is no constant: the sensor
of THERM (TEMP_EXT[k] as 8 + k), the channel of OX, the core of CIPHER, the Pen of PEN. DESIGN CHOICE (assumption 112):
0 for a register of none of them, such as CIPHER_PENRANGE, and for a DRAMC register. -/
def regUnit (b o : Nat) : Nat :=
  let ix := fun (base st n : Nat) => if base ≤ o ∧ o < base + st * n then some ((o - base) / st) else none
  let first := fun (l : List (Option Nat)) => (l.findSome? id).getD 0
  match b with
  | 3 => first [ix 0x20 4 8, (ix 0x40 4 16).map (· + 8), ix 0x90 4 8, (ix 0xC0 4 16).map (· + 8)]
  | 8 => first [ix 0x1000 0x80 32]
  | 9 => first [ix 0x1000 128 24]
  | 12 => first [ix 0x1000 4 256, ix 0x1400 4 256, ix 0x1800 8 256, ix 0x2000 4 256, ix 0x2400 4 256,
      ix 0x2800 4 256, ix 0x3100 4 256, ix 0x4000 64 256]
  | _ => (blockId b).2

/-! The registers by name: each is its physical address. -/

def A.CLK_CTL : Nat := 0x0200000000
def A.CLK_STAT : Nat := 0x0200000004
def A.CLK_FAIL : Nat := 0x0200000008
def A.CLK_XCNT25 : Nat := 0x020000000C
def A.CLK_XCNT32K : Nat := 0x0200000010
def A.CLK_PLL (i : Nat) : Nat := 0x0200000020 + 4 * i
def A.CLK_EN : Nat := 0x0200000040
def A.CLK_ENSTAT : Nat := 0x0200000044
def A.CLK_EN_MULE : Nat := 0x0200000048
def A.CLK_DRAIN_MULE : Nat := 0x0200000050
def A.CLK_ON_MULE : Nat := 0x0200000058
def A.CLK_RSTCAUSE : Nat := 0x0200000080
def A.CLK_BRST : Nat := 0x0200000088
def A.CLK_BRST_MULE : Nat := 0x0200000090
def A.CLK_CORE_RUN : Nat := 0x0200000098
def A.PWR_CTL : Nat := 0x0200010000
def A.PWR_STAT : Nat := 0x0200010004
def A.PWR_WAKEEN : Nat := 0x0200010008
def A.PWR_WAKESRC : Nat := 0x020001000C
def A.PWR_TIMER : Nat := 0x0200010010
def A.PWR_RET_MASK : Nat := 0x0200010014
def A.PWR_SEALRES : Nat := 0x0200010018
def A.PWR_ENTRY_GEN : Nat := 0x0200010020
def A.PWR_SLEPT : Nat := 0x0200010028
def A.TOR_STAT : Nat := 0x0200020000
def A.TOR_SEAL (b : Nat) : Nat := 0x0200020010 + 8 * b
def A.TOR_FAULT : Nat := 0x0200020050
def A.THERM_STAT : Nat := 0x0200030000
def A.THERM_TJMAX : Nat := 0x0200030004
def A.THERM_PCT : Nat := 0x0200030008
def A.THERM_HYST : Nat := 0x020003000C
def A.THERM_TJ (j : Nat) : Nat := 0x0200030020 + 4 * j
def A.THERM_TF (k : Nat) : Nat := 0x0200030040 + 4 * k
def A.THERM_EXTEN : Nat := 0x0200030080
def A.THERM_JOFF (j : Nat) : Nat := 0x0200030090 + 4 * j
def A.THERM_EXTOFF (k : Nat) : Nat := 0x02000300C0 + 4 * k
def A.THERM_CURVE (i : Nat) : Nat := 0x0200030100 + 4 * i
def A.THERM_THROT_MS : Nat := 0x0200030180
def A.THERM_SDINFO : Nat := 0x0200030188
def A.CAIRN_CTL : Nat := 0x0200040000
def A.CAIRN_STAT : Nat := 0x0200040004
def A.CAIRN_BASE : Nat := 0x0200040008
def A.CAIRN_TIME : Nat := 0x0200040010
def A.CAIRN_HWDROP : Nat := 0x0200040018
def A.CAIRN_POST_HDR : Nat := 0x0200040020
def A.CAIRN_POST_PAR (i : Nat) : Nat := 0x0200040028 + 8 * i
def A.CAIRN_POST_CMD : Nat := 0x0200040038
def A.CAIRN_CLR_WHO : Nat := 0x0200040040
def A.CAIRN_CLR : Nat := 0x0200040044
def A.CAIRN_HPAGE : Nat := 0x0200040048
def A.HEN_CTL : Nat := 0x0200050000
def A.HEN_STAT : Nat := 0x0200050004
def A.HEN_RATE : Nat := 0x0200050008
def A.HEN_BASE : Nat := 0x0200050010
def A.HEN_LIMIT : Nat := 0x0200050018
def A.HEN_PTR : Nat := 0x0200050020
def A.HEN_PASS : Nat := 0x0200050028
def A.HEN_PASS_MS : Nat := 0x020005002C
def A.HEN_CNT_CORR : Nat := 0x0200050030
def A.HEN_CNT_UNC : Nat := 0x0200050038
def A.HEN_UNC_ADDR : Nat := 0x0200050040
def A.CIRQUE_CTL : Nat := 0x0200060000
def A.CIRQUE_STAT : Nat := 0x0200060004
def A.CIRQUE_PADDR : Nat := 0x0200060010
def A.CIRQUE_PDATA (i : Nat) : Nat := 0x0200060020 + 8 * i
def A.CIRQUE_PCMD : Nat := 0x0200060040
def A.CIRQUE_PFIFO : Nat := 0x0200060048
def A.CIRQUE_ECMD (b : Nat) : Nat := 0x0200060080 + 4 * b
def A.CIRQUE_ESTAT (b : Nat) : Nat := 0x02000600C0 + 4 * b
def A.CIRQUE_ERS_LAST : Nat := 0x0200060100
def A.CIRQUE_CORR_LAST : Nat := 0x0200060110
def A.CIRQUE_CNT (i : Nat) : Nat := 0x0200060120 + 8 * i
def A.CIRQUE_OTP_CMD : Nat := 0x0200060200
def A.CIRQUE_OTP_ADDR : Nat := 0x0200060204
def A.CIRQUE_OTP_DATA (i : Nat) : Nat := 0x0200060208 + 8 * i
def A.CIRQUE_FROW_ADDR : Nat := 0x0200060240
def A.CIRQUE_FROW_DATA (i : Nat) : Nat := 0x0200060248 + 8 * i
def A.DRAMC_ECCSTAT : Nat := 0x0200070000
def A.DRAMC_DEVCORR (i : Nat) : Nat := 0x0200070100 + 4 * i
def A.DRAMC_UNC_CNT : Nat := 0x0200070300
def A.DRAMC_UNC_ADDR : Nat := 0x0200070308
def A.DRAMC_ECCTEST : Nat := 0x0200070400
def A.DRAMC_TESTADDR : Nat := 0x0200070408
def A.DRAMC_TESTDATA (i : Nat) : Nat := 0x0200070440 + 8 * i
def A.DRAMC_TESTCHK (j : Nat) : Nat := 0x0200070480 + 8 * j
def A.OX_CTL : Nat := 0x0200080000
def A.OX_GSTAT : Nat := 0x0200080004
def A.OX_INTST : Nat := 0x0200080010
def A.OX_ERRST : Nat := 0x0200080018
def A.OX_CFG (n : Nat) : Nat := 0x0200081000 + 0x80 * n
def A.OX_SRC (n : Nat) : Nat := 0x0200081008 + 0x80 * n
def A.OX_DST (n : Nat) : Nat := 0x0200081010 + 0x80 * n
def A.OX_IDX (n : Nat) : Nat := 0x0200081018 + 0x80 * n
def A.OX_LEN (n : Nat) : Nat := 0x0200081020 + 0x80 * n
def A.OX_PORTARG (n : Nat) : Nat := 0x0200081028 + 0x80 * n
def A.OX_CMD (n : Nat) : Nat := 0x020008102C + 0x80 * n
def A.OX_STAT (n : Nat) : Nat := 0x0200081030 + 0x80 * n
def A.OX_DONE (n : Nat) : Nat := 0x0200081038 + 0x80 * n
def A.OX_ASRC (n : Nat) : Nat := 0x0200081040 + 0x80 * n
def A.OX_ADST (n : Nat) : Nat := 0x0200081048 + 0x80 * n
def A.OX_BERR (n : Nat) : Nat := 0x0200081050 + 0x80 * n
def A.CIPHER_CTL : Nat := 0x0200090000
def A.CIPHER_STAT : Nat := 0x0200090004
def A.CIPHER_ALARM : Nat := 0x0200090008
def A.CIPHER_ALARM_SET : Nat := 0x020009000C
def A.CIPHER_PWK (i : Nat) : Nat := 0x0200090020 + 8 * i
def A.CIPHER_KIN (i : Nat) : Nat := 0x0200090040 + 8 * i
def A.CIPHER_KOUT (i : Nat) : Nat := 0x02000900A0 + 8 * i
def A.CIPHER_KATTR (i : Nat) : Nat := 0x0200090100 + 8 * i
def A.CIPHER_KOP : Nat := 0x0200090110
def A.CIPHER_PENRANGE (p : Nat) : Nat := 0x0200090200 + 4 * p
def A.CIPHER_CNT_SUSP : Nat := 0x0200090600
def A.CIPHER_CNT_REFUSE : Nat := 0x0200090608
def A.CIPHER_CNT_LOCKED : Nat := 0x0200090610
def A.CIPHER_CORE_CTL (c : Nat) : Nat := 0x0200091000 + 128 * c
def A.CIPHER_CORE_STAT (c : Nat) : Nat := 0x0200091004 + 128 * c
def A.CIPHER_LOCK (c : Nat) : Nat := 0x0200091008 + 128 * c
def A.CIPHER_JOB (c : Nat) : Nat := 0x020009100C + 128 * c
def A.CIPHER_JOB_DU (c : Nat) : Nat := 0x0200091010 + 128 * c
def A.CIPHER_JOB_SRC (c : Nat) : Nat := 0x0200091018 + 128 * c
def A.CIPHER_JOB_DST (c : Nat) : Nat := 0x0200091020 + 128 * c
def A.CIPHER_JOB_STAT (c : Nat) : Nat := 0x0200091028 + 128 * c
def A.CIPHER_CTXOP (c : Nat) : Nat := 0x020009102C + 128 * c
def A.CIPHER_CTXBUF (c k : Nat) : Nat := 0x0200091030 + 128 * c + 8 * k
def A.COL_CTL : Nat := 0x02000A0000
def A.COL_STAT : Nat := 0x02000A0004
def A.COL_SPUR_THR : Nat := 0x02000A0010
def A.COL_SPUR_BUD : Nat := 0x02000A0014
def A.COL_SPUR_USE (ch : Nat) : Nat := 0x02000A0100 + 4 * ch
def A.COL_SQ (q : Nat) : Nat := 0x02000A1000 + 4 * q
def A.COL_NS (n : Nat) : Nat := 0x02000A8000 + 8 * n
def A.COL_CNT_FAST : Nat := 0x02000AA000
def A.COL_CNT_FB : Nat := 0x02000AA008
def A.COL_CNT_SPUR : Nat := 0x02000AA010
def A.COL_CNT_DENY : Nat := 0x02000AA018
def A.PAIR_CTL : Nat := 0x02000B0000
def A.PAIR_STAT : Nat := 0x02000B0004
def A.PAIR_FENCE : Nat := 0x02000B0008
def A.PAIR_KICK : Nat := 0x02000B000C
def A.PAIR_WDOG : Nat := 0x02000B0010
def A.PAIR_HBSEQ : Nat := 0x02000B0014
def A.PAIR_OWN : Nat := 0x02000B0020
def A.PAIR_CLAIM : Nat := 0x02000B0028
def A.PAIR_REL : Nat := 0x02000B0030
def A.PAIR_PEND : Nat := 0x02000B0038
def A.PAIR_DENY : Nat := 0x02000B0040
def A.PAIR_TIE : Nat := 0x02000B0048
def A.PAIR_MSEQ_TX : Nat := 0x02000B0050
def A.PAIR_MSEQ_ACK : Nat := 0x02000B0058
def A.PAIR_MSEQ_RX : Nat := 0x02000B0060
def A.PAIR_MIRBASE : Nat := 0x02000B0068
def A.PAIR_CNT (i : Nat) : Nat := 0x02000B0080 + 8 * i
def A.PAIR_LANE (l : Nat) : Nat := 0x02000B0100 + 4 * l
def A.PEN_CTL : Nat := 0x02000C0000
def A.PEN_EPOCH : Nat := 0x02000C0004
def A.PEN_CAP : Nat := 0x02000C0008
def A.PEN_RSV : Nat := 0x02000C000C
def A.PEN_EFFCAP : Nat := 0x02000C0010
def A.PEN_BREAK : Nat := 0x02000C0014
def A.PEN_STAT (p : Nat) : Nat := 0x02000C1000 + 4 * p
def A.PEN_PCTL (p : Nat) : Nat := 0x02000C1400 + 4 * p
def A.PEN_RATE (p : Nat) : Nat := 0x02000C1800 + 8 * p
def A.PEN_SHARE (p : Nat) : Nat := 0x02000C2000 + 4 * p
def A.PEN_TOK (p : Nat) : Nat := 0x02000C2400 + 4 * p
def A.PEN_DEBT (p : Nat) : Nat := 0x02000C2800 + 4 * p
def A.PEN_DLOG_BASE : Nat := 0x02000C3000
def A.PEN_DLOG_CTL (p : Nat) : Nat := 0x02000C3100 + 4 * p
def A.PEN_DLOG_WIN (p w : Nat) : Nat := 0x02000C4000 + 64 * p + 16 * w
def A.PEN_DLOG_MAP (p w : Nat) : Nat := 0x02000C4008 + 64 * p + 16 * w
def A.SB_CTL : Nat := 0x02000E0000
def A.SB_STAT : Nat := 0x02000E0004
def A.SB_ADDR : Nat := 0x02000E0008
def A.SB_DADDR : Nat := 0x02000E000C
def A.SB_PID : Nat := 0x02000E0010
def A.SB_EID : Nat := 0x02000E0018
def A.SB_ALERTEN : Nat := 0x02000E001C
def A.SB_ALERTSRC : Nat := 0x02000E0020
def A.SB_ENUM : Nat := 0x02000E0028
def A.SB_CNT (i : Nat) : Nat := 0x02000E0040 + 8 * i
def A.MULE (ch : Nat) : Nat := 0x0200100000 + 0x10000 * ch
def A.MULE_CTL (ch : Nat) : Nat := A.MULE ch
def A.MULE_STAT (ch : Nat) : Nat := A.MULE ch + 0x04
def A.MULE_IFCFG (ch : Nat) : Nat := A.MULE ch + 0x08
def A.MULE_GEOM (ch : Nat) : Nat := A.MULE ch + 0x0C
def A.MULE_PE_CAP (ch : Nat) : Nat := A.MULE ch + 0x10
def A.MULE_SUSP_PRG (ch : Nat) : Nat := A.MULE ch + 0x14
def A.MULE_SUSP_ERS (ch : Nat) : Nat := A.MULE ch + 0x18
def A.MULE_SEQMAP (ch op : Nat) : Nat := A.MULE ch + 0x20 + op
def A.MULE_LDPC_CFG (ch : Nat) : Nat := A.MULE ch + 0x40
def A.MULE_RETRY_CFG (ch : Nat) : Nat := A.MULE ch + 0x44
def A.MULE_SETMAP (ch c : Nat) : Nat := A.MULE ch + 0x50 + c
def A.MULE_CNT (ch i : Nat) : Nat := A.MULE ch + 0x80 + 8 * i
def A.MULE_LUN (ch l : Nat) : Nat := A.MULE ch + 0x100 + 4 * l
def A.MULE_TBL_ADDR (ch : Nat) : Nat := A.MULE ch + 0x200
def A.MULE_TBL_DATA (ch : Nat) : Nat := A.MULE ch + 0x204
def A.MULE_RETRY (ch e : Nat) : Nat := A.MULE ch + 0x400 + 16 * e
def A.MULE_SEQHDR (ch n : Nat) : Nat := A.MULE ch + 0x1000 + 8 * n
def A.MULE_SEQ (ch n s : Nat) : Nat := A.MULE ch + 0x8000 + 128 * n + 8 * s

end Sys2Proof.Machine
end

