-- ==== Sys2Proof/Machine/State.lean ====
section
/-! DEFINITION. The state of the part as plain data: every register (under its address), memory,
queue, table and mode that the manual names, and the queue of waiting commands. -/

namespace Sys2Proof.Machine

/-- The six operating modes (R28, R29). -/
inductive Mode where
  | init | solo | duo | survivor | service | readonly
  deriving DecidableEq, Repr

/-- The pair role, kept through READONLY (R28). -/
inductive Role where
  | solo | duo | survivor
  deriving DecidableEq, Repr

/-- Where Tor's power machine stands: on is A0 and A1 (R333, R343, R344, R355, R397). -/
inductive Pwr where
  | on | off | s1 | s2 | s3 | waking | wakeFailed | thermalOff | romRecovery
  deriving DecidableEq, Repr

/-- A completion queue entry as posted. -/
structure Cqe where
  h : Hdr
  st : Status
  dnr : Bool
  res0 : Nat
  res1 : Nat
  deriving DecidableEq, Repr

/-- What the part sends out on the host link: completions, read data (each LBA with its offset in the
command), other data, and events. -/
inductive HostOut where
  | cqe (c : Cqe)
  | lbas (h : Hdr) (d : List (Nat × Lba))
  | bytes (h : Hdr) (b : List Byte)
  | aen (type info log : Nat)
  deriving DecidableEq, Repr

/-- Fuses, straps and board facts (R1, R36, R57, R70, R255, R378): no command changes them but a restart, at which the
configuration image in use gives those that it declares (R399). `testGpio` is the GPIO of the hold-up test switch (R70);
`oddChans` are the channels whose targets and LUNs per target differ from `targets` and `luns` (R37); `badBlocks` are the blocks
that the flash maker has marked, as channel, LUN, plane and block (R111, R129); `lpddr`: VDDQ_FL is 0.6 V, for NV-LPDDR4 (R112);
`tprogMaxUs` and `tbersMaxUs` are the part's longest program and erase times (R131); `tfSensors` the Tf sensor of each channel where
it is not channel ÷ 4 (R123); `muleRegs` the sequence, retry and map registers of the part, as offset and value, and `retTable` its
retention table where it is not the shipped one (R124, R399); `partId` the identity of its parameter page, and `ppages` the copies of
the page that the targets of a channel give (R111, R404); `divider` the ratio of HOLDUP_SENSE (R387); `thermExt` the external
inputs that are populated, as THERM_EXTEN enables them (R349); `curve` the thermal curve of the configuration image, the
temperature and percentage of each point, and after them the hysteresis; none: the shipped one (R352). -/
structure Board where
  code : Fin 3
  pairId : Bool
  sbMode : Bool
  compat : Bool
  boot : Bool
  dramGib : Nat
  targets : Nat
  luns : Nat
  stdGeom : Bool
  bifurcated : Bool
  nlb : Nat
  spares : Nat
  ratedQlc : Nat
  ratedSlc : Nat
  trUs : Nat
  tprogSlcUs : Nat
  bankFitted : Bool
  iTestMa : Nat
  vMinMv : Nat
  etaPm : Nat
  fuse : BitVec 32
  vpd : List Byte
  testGpio : Nat := 0
  oddChans : List (Nat × Nat × Nat) := []
  badBlocks : List (Nat × Nat × Nat × Nat) := []
  lpddr : Bool := true
  tprogMaxUs : Nat := 5800
  tbersMaxUs : Nat := 10000
  tfSensors : List Nat := []
  muleRegs : List (Nat × Nat) := []
  retTable : List (List Nat) := []
  partId : List Byte := []
  ppages : List (Nat × List (List Byte)) := []
  divider : Nat := 1
  thermExt : Nat := 0xFFFF
  curve : List Nat := []
  deriving DecidableEq, Repr

/-- Pin levels: true is asserted for active-low pins (R226, R333, R360, R370, R382). -/
structure Pins where
  perst : Bool
  pwrLoss : Bool
  wakeIn : Bool
  fenceIn : Bool
  aliveIn : Bool
  enumIn : Bool
  gpio14 : Bool
  gpio15 : Bool
  testGpio : Bool
  wakeN : Bool
  alertN : Bool
  forced : Bool
  ckeLow : Bool
  deriving DecidableEq, Repr

/-- The resume record of bank 0 (R396). -/
structure Resume where
  commitNo : Nat
  inBank7 : Bool
  deriving DecidableEq, Repr

/-- The stored reply of the last Tor packet (R364). -/
structure TorLast where
  op : Byte
  seq : Byte
  reply : List Byte
  deriving DecidableEq, Repr

/-- The always-on domain beside its registers (R318, R343, R354, R355, R358 to R371). -/
structure Tor where
  pwr : Pwr
  saved : Pwr
  mainOn : Bool
  clkFail : Bool
  failTicks : Nat
  x32Run : Nat
  x25Run : Nat
  tripSec : Nat
  trips : List Nat
  waitEv : Bool
  latch : Bool
  perstFlush : Bool
  devstat : BitVec 32
  last : Option TorLast
  reply : List Byte
  osc16 : Bool
  ldoLow : Bool
  ps : Nat
  sleepReq : Nat
  resume : Option Resume
  romCode : Nat
  i3cEvents : Bool
  ibi : Option Byte
  mrl : Nat
  mwl : Nat
  miCfg : SMap (BitVec 32)
  deriving DecidableEq, Repr

/-- The control cores: BUSERR_SYN of each (R25), the interrupts raised, as (core, source), and the cause of the
access-fault exception that each core took last (R24): 5 for a load, 7 for a store, as RISC-V numbers them
(PRESUMED, assumption 7). -/
structure Cores where
  syn : SMap (BitVec 64)
  irqs : List (Nat × Nat)
  trap : SMap Nat := []
  deriving DecidableEq, Repr

/-- Clock gating beside the CLK registers: held block resets and automatic gating (R324, R328). -/
structure Gate where
  heldRst : BitVec 64
  heldMule : BitVec 64
  auto : BitVec 64
  autoMule : BitVec 64
  bootInfo : List Byte
  deriving DecidableEq, Repr

/-- The program running in Cirque: word, data, and whether it came through PFIFO (R278, R279). -/
structure CqProg where
  word : Nat
  data : BitVec 256
  fifo : Bool
  deriving DecidableEq, Repr

/-- The journal array: the words whose program flag is set, the sectors an erase was cut in, the
erase of each bank with what suspended it (1 access, 2 firmware, 3 power loss), the two rows, the retired
sectors, the word that the last window read returned (R277 to R288). -/
structure Cirque where
  words : SMap (BitVec 256)
  cut : List Nat
  fifo : List (BitVec 64)
  prog : Option CqProg
  esec : SMap Nat
  why : SMap Nat
  otp : SMap (BitVec 256)
  frow : SMap (BitVec 256)
  retired : List Nat
  heldEn : Bool
  win : BitVec 256
  deriving DecidableEq, Repr

/-- The active register set of an Ox channel (R305). -/
structure OxSet where
  cfg : Nat
  src : Nat
  dst : Nat
  idx : Nat
  len : Nat
  arg : Nat
  deriving DecidableEq, Repr

/-- Ox beside its registers: active sets, asserted request lines, channels with a burst in flight,
channels to stop, channels whose peripheral has withdrawn, and an enable held during a drain (R305, R309,
R310, R313). -/
structure Ox where
  act : SMap OxSet
  lines : List Nat
  flight : List Nat
  stopping : List Nat
  wdraw : List Nat
  heldEn : Bool
  deriving DecidableEq, Repr

/-- A record in a log slot (R292) with the age stamp that CAIRN keeps beside it (R296). -/
structure LogRec where
  slot : Nat
  stamp : Nat
  seq : Nat
  time : Nat
  post : Post
  rep : Nat
  deriving DecidableEq, Repr

/-- A Cairn log: its records, sequence, drop counter, clear time, next stamp, the slot of its last
record and the time of that record's latest occurrence (R293 to R300). -/
structure Log where
  recs : List LogRec
  seq : Nat
  drops : Nat
  cleared : Nat
  stamp : Nat
  last : Option Nat
  occ : Nat
  deriving DecidableEq, Repr

/-- A post in the FIFO: when CAIRN accepted it, and the further logs it names (R295). -/
structure FifoEnt where
  post : Post
  time : Nat
  logs : List Nat
  deriving DecidableEq, Repr

/-- The event recorder beside its registers (R293 to R303). -/
structure Cairn where
  fifo : List FifoEnt
  wait : List FifoEnt
  logs : SMap Log
  copied : List LogRec
  heldEn : Bool
  initCount : Nat
  deriving DecidableEq, Repr

/-- A key slot (R206). -/
inductive Slot where
  | empty
  | bypass
  | key (k : BitVec 512) (attr : BitVec 128)
  deriving DecidableEq, Repr

/-- The chaining state of a direct job (R217). -/
structure Ctx where
  dec : Bool
  slot : Nat
  slotgen : Nat
  blk : Nat
  du : Nat
  tval : BitVec 128
  len : Nat
  deriving DecidableEq, Repr

/-- A cipher core: the message it runs with the tick at which it started there, the suspended message, the
chaining state of its direct job (R213 to R218), and the contents of the slots that the job took at GO and that the two messages
took at their start (R207); `restored`: the chaining state came by a restore, and GO continues it (R222). -/
structure CCore where
  run : Option CMsg
  since : Nat
  susp : Option CMsg
  ctx : Option Ctx
  key : Slot := .empty
  mkey : Slot := .empty
  skey : Slot := .empty
  restored : Bool := false
  deriving DecidableEq, Repr

/-- The cipher cluster beside its registers (R206 to R222). The generation of a slot is `gen` of it and `genAll`, which counts the
times at which every slot was cleared (R207, R220); `alarmed` are the messages that an alarm has ended with ALARM and that the firmware
has still to act on. -/
structure Cipher where
  slots : SMap Slot
  gen : SMap Nat
  kwk : Option (BitVec 256)
  pwk : SMap (BitVec 64)
  kin : SMap (BitVec 64)
  cores : SMap CCore
  queue : List CMsg
  exports : SMap (BitVec 704)
  genAll : Nat := 0
  alarmed : List CMsg := []
  deriving DecidableEq, Repr

/-- A Pen's record in force with its generation and ENABLED bit (R185). -/
structure PenInfo where
  r : PenRec
  gen : Nat
  enabled : Bool
  deriving DecidableEq, Repr

/-- A command waiting for admission (R190): arrival order, Pen, direction, class, deadline, cost in
sixteenths of a token, whether Col or the firmware path carries it on, and the tick of its doorbell (R107); `descHit`: what the read of
its zone descriptor meets, nothing, a corrected error or an uncorrectable one (R165, R173); `c0Paid`: what the class 0 allowance has
paid of the cost. -/
structure PenCmd where
  seq : Nat
  pen : Nat
  wr : Bool
  cls : Nat
  deadline : Nat
  cost : Nat
  col : Bool
  h : Hdr
  q : Nat
  c : RwCmd
  t0 : Nat := 0
  descHit : Fin 3 := 0
  c0Paid : Nat := 0
  deriving DecidableEq, Repr

/-- What an epoch fixes for a Pen (R188, R190): its weight, and what its ceilings still admit, in
sixteenths of a token. -/
structure PenEff where
  weight : Nat
  rdLeft : Nat
  wrLeft : Nat
  deriving DecidableEq, Repr

/-- A namespace on its way to another Pen (R189): the Pen, the slot of its key there, and the descriptors whose COLOK was cleared. -/
structure NsMove where
  nsx : Nat
  pen : Nat
  slot : Nat
  ixs : List Nat
  deriving DecidableEq, Repr

/-- The Pen scheduler and the Pen records beside the PEN registers (R185 to R199), with the counts of C0h
since INIT (R270); `moves`: the namespaces that are moved to another Pen (R189). `heldEn` are the Pens whose enable waits for the end of
a drain, and `enNew` those that this epoch has enabled (R195, R200); `aboveShare` the Pens that a fallen share, or adopted entries, left
above it, and `shares` the shares at the last boundary (R183, R200). -/
structure Pens where
  recs : SMap PenInfo
  staged : List (Nat × PenRec × Nat)
  done : List (Nat × Cqe)
  wait : List PenCmd
  seq : Nat
  c0 : SMap Nat
  spareRd : Nat
  spareWr : Nat
  eff : SMap PenEff
  heldEn : List Nat
  enNew : List Nat := []
  fnDrain : List (Nat × Bool)
  aboveShare : List Nat := []
  shares : SMap Nat := []
  episode : Bool
  cutEp : Nat
  lastCut : Nat
  cutPens : List Nat
  keptPens : List Nat
  started : List Nat
  rdTok : SMap Nat
  wrTok : SMap Nat
  cutEps : SMap Nat
  episodes : SMap Nat
  moves : List NsMove := []
  deriving DecidableEq, Repr

/-- An I/O submission queue with its controller-wide index q (R96); `todo` holds the entries that QUIESCE keeps unfetched,
each with the tick of its doorbell (R107, R198). -/
structure Sq where
  fn : Nat
  sqid : Nat
  cqid : Nat
  q : Nat
  size : Nat
  inCmb : Bool
  base : Nat
  cls : Nat
  head : Nat
  tail : Nat
  halted : Bool
  todo : List (Nat × Sqe) := []
  deriving DecidableEq, Repr

/-- An I/O completion queue (R256). -/
structure Cq where
  fn : Nat
  cqid : Nat
  size : Nat
  vector : Nat
  base : Nat
  head : Nat
  tail : Nat
  phase : Bool
  deriving DecidableEq, Repr

/-- An LBA with its sector seal as stored (R158): NSX, LBA, GEN and the POISON bit. -/
structure Sector where
  d : Lba
  nsx : Nat
  lba : Nat
  gen : Nat
  poison : Bool
  deriving DecidableEq, Repr

/-- A read that Col serves: its member reads under way, whether one has failed, when its doorbell came, and the LBAs, by their offsets,
whose cipher messages have ended, each with the contents of the slot that its message took (R92, R104, R107, R207); `got`: what flash
held at the places of those LBAs whose member reads have passed, none where it is not what was asked for (R128, R177). -/
structure ColRead where
  h : Hdr
  q : Nat
  c : RwCmd
  nsx : Nat
  pen : Nat
  cls : Nat
  slot : Nat
  t0 : Nat
  ids : List Nat
  failed : Bool
  keys : List (Nat × Slot) := []
  got : List (Nat × Option Sector) := []
  deriving DecidableEq, Repr

/-- A command handed to the firmware path (R90): it has its tokens or not; the Pen and the class that it came under (R107); `oldPen`: the
Pen under which it may finish though its namespace has moved (R189). -/
structure FwCmd where
  h : Hdr
  q : Nat
  e : Sqe
  t0 : Nat
  admitted : Bool
  pen : Nat := 0
  cls : Nat := 3
  oldPen : Option Nat := none
  deriving DecidableEq, Repr

/-- An Error Information entry: its count, queue, command, status code and LBA (R173, R176, R261). -/
structure ErrInfo where
  count : Nat
  sqid : Nat
  cid : Nat
  st : Nat
  lba : Nat
  nsid : Nat
  deriving DecidableEq, Repr

/-- The host interface: functions with CC.EN and CSTS.RDY, queues, outstanding event requests, events that wait for a request
of their function, features, what was sent out, the counters of C4h and of C2h with their values at its last clear, the
self-test under way with its start, and the results of earlier ones (R107, R108, R179, R256, R272); `hregs` the bytes that hosts have
written to the NVMe registers of BAR0 and to the configuration space, as function × 65,536 + offset, that space at 2^32 beyond (R26,
R186); `strays` the member reads in flight of Col commands that have ended (R109). -/
structure HostIf where
  en : List Nat
  rdy : List Nat
  sqs : List Sq
  cqs : List Cq
  aers : List Hdr
  aenPend : List (Nat × Nat × Nat × Nat)
  feats : SMap (BitVec 64)
  out : List HostOut
  stopped : Bool
  winpage : BitVec 32
  rdval : BitVec 64
  ca : Bool
  reads : List ColRead
  fw : List FwCmd
  hist : SMap Nat
  cnt : SMap Nat
  clearedC4 : SMap Nat
  clearedC2 : Nat
  crit : BitVec 8
  mediaErrs : Nat
  errLog : List ErrInfo
  errCount : Nat
  changedNs : List Nat
  fdp : List Nat
  tsSet : Bool
  linkUp : Bool
  c2 : SMap Nat
  c2base : SMap Nat
  egCrit : Bool
  selfTest : Option (Nat × Nat)
  stResults : List (Nat × Nat)
  hregs : SMap Byte := []
  strays : List Nat := []
  deriving DecidableEq, Repr

/-- A row: the same logical block on every member of a stripe group (R53, R128); its erases in QLC mode, whether it awaits
its erase, the minutes since it was last erased, its erases in SLC mode, and whether the next one is such an erase (R130). -/
structure Row where
  seven : Bool
  group : Nat
  lbn : Nat
  wear : Nat
  dirty : Bool
  dwell : Nat := 0
  slc : Nat := 0
  inSlc : Bool := false
  deriving DecidableEq, Repr

/-- A write buffer entry (R64 to R69): admission order, command, place, sectors, and how far it is; the reclaim unit handle
that a conventional write names (R59). -/
structure Entry where
  id : Nat
  h : Hdr
  q : Nat
  nsx : Nat
  ofs : Nat
  zone : Nat
  zoned : Bool
  secs : List Sector
  pen : Nat
  app : Bool
  ilbrt : Nat
  fua : Bool
  mseq : Nat
  complete : Bool
  mirrored : Bool
  acked : Bool
  held : Bool
  t0 : Nat
  pid : Nat := 0
  deriving DecidableEq, Repr

/-- A mirrored entry of the peer, with the seals of its LBAs (R159, R234). -/
structure Mir where
  m : MirHdr
  secs : List Sector
  complete : Bool
  deriving DecidableEq, Repr

/-- A write waiting at admission (R53, R72, R75, R86, R143, R236); `unc`: a Write Uncorrectable; `space`: it waits for
buffer space (R87). -/
structure WaitW where
  h : Hdr
  c : RwCmd
  d : List Lba
  app : Bool
  pen : Nat
  unc : Bool
  space : Bool := true
  deriving DecidableEq, Repr

/-- A Fold copy: consecutive LBAs of a namespace in a Fold row, or in one that cannot be rebuilt (R79,
R81): the row's key, the 64 KiB unit of the row at which the copy starts (R146), and the reclaim unit handle that conventional data
carries (R60). -/
structure FoldCopy where
  nsx : Nat
  lba : Nat
  secs : List Sector
  burst : Bool
  lost : Bool
  row : Nat := 0
  unit : Nat := 0
  pid : Nat := 0
  deriving DecidableEq, Repr

/-- A Fold program under way (R79, R132): the copy that it makes, the stripe rows of 7 + 1 pages that it programs, and the member
pages that have passed, as channel, LUN and page. -/
structure FoldJob where
  copy : FoldCopy
  pages : Nat
  passed : List (Nat × Nat × Nat) := []
  deriving DecidableEq, Repr

/-- A row of Fold that holds data, or is open for it (R80): a 7+1 row in SLC mode, and the LBAs programmed in it. -/
structure FoldRow where
  row : Row
  used : Nat
  burst : Bool
  deriving DecidableEq, Repr

/-- The commands that move one zone or all of a namespace (R46). -/
inductive ZCmd where
  | openZ | closeZ | finishZ | resetZ | offlineZ
  deriving DecidableEq, Repr

/-- A program group under way (R76, R78): the members whose program has still to pass, whether one failed, its row, and
the members (channel, LUN) that have passed. -/
structure Grp where
  ix : Nat
  start : Nat
  left : Nat
  failed : Bool
  secs : List (Nat × Sector)
  row : Nat := 0
  passed : List (Nat × Nat) := []
  deriving DecidableEq, Repr

/-- A Flush waiting for earlier writes or for occupancy to fall (R67, R73). -/
structure FlushWait where
  h : Hdr
  upto : Nat
  occ : Bool
  deriving DecidableEq, Repr

/-- In DUO, buffer copies whose covering record the peer has still to confirm (R235): the FSEQ of the
record, the namespace index, and the LBA range. -/
structure RelWait where
  fseq : Nat
  nsx : Nat
  lo : Nat
  hi : Nat
  deriving DecidableEq, Repr

/-- The write path: buffer, mirror area, Fold, ceilings and the hold-up measurement (R64 to R88); `opens` holds the Open
Zone commands that wait for the erase of a row (R53), `zwait` the zone commands that wait for reads admitted before a reset,
and those behind them (R46). `foldRows` are the rows in which Fold holds data, `foldFree` its free ones, `foldGiven` the LBN below
which each 7+1 group's share has been taken up, `foldJobs` are the Fold programs under way (R79, R80); `foldRead`
counts the bytes that folding has read back since the last epoch boundary (R88). `flushRows` are the rows on which the flush area
stands, and `flushWas` what the last FLUSH_END counted: rows of own entries, then rows of the peer's (R148, R153). -/
structure Wr where
  entries : List Entry
  nextId : Nat
  waiting : List WaitW
  mirror : List Mir
  fold : List FoldCopy
  resv : List Nat
  groups : List Grp
  flushes : List FlushWait
  opens : List (Hdr × ZoneArg)
  rels : List RelWait
  flushArea : List Entry
  flushPeer : List Mir
  flushValid : Bool
  bceil : Nat
  peerCeil : Nat
  cUf : Option Nat
  vMv : Nat
  measuring : Nat
  v0Mv : Nat
  ingress : Nat
  qlc : Nat
  zwait : List (ZCmd × Hdr × ZoneArg) := []
  foldRows : List FoldRow := []
  foldFree : List Row := []
  foldGiven : SMap Nat := []
  foldJobs : List FoldJob := []
  foldRead : Nat := 0
  flushRows : List Row := []
  flushWas : List Nat := []
  deriving DecidableEq, Repr

/-- A conventional sector in the map: its reclaim unit, its contents, and its place in the unit's row (R57, R142). -/
structure ConvEnt where
  unit : Nat
  sec : Sector
  ofs : Nat := 0
  deriving DecidableEq, Repr

/-- A relocation under way: the copy has passed and the record is to be journaled (R140); `failed`: a program of the copy
has failed, and it does not commit; `left`: the member programs of the copy that have still to pass; `tgt`: the reclaim unit
that takes moved sectors, from its place `at_` on; `credit`: the host LBAs that the copy lets in (R143). -/
structure Reloc where
  nsx : Nat
  zone : Nat
  conv : Bool
  src : Row
  dst : Row
  unit : Nat
  moved : List (Nat × ConvEnt)
  failed : Bool := false
  left : Nat := 0
  tgt : Nat := 0
  at_ : Nat := 0
  credit : Nat := 0
  deriving DecidableEq, Repr

/-- What the firmware knows of a written row (R123 to R127, R130): wear, the sum and number of its Tf samples in
quarter degrees, minutes since its last program, the class written, whether and with what class it was
swept, the mean then, a Tf excursion since, an age that is unknown, whether this patrol has read it, its erases in SLC mode,
and whether it was written before the last power-off (R123). -/
structure RowInfo where
  wear : Nat
  tfSum : Int
  tfN : Nat
  age : Nat
  cls : Nat
  swept : Bool
  meas : Nat
  sweepMean : Int
  hot : Bool
  unknown : Bool
  inPass : Bool
  slc : Nat := 0
  old : Bool := false
  deriving DecidableEq, Repr

/-- The findings on a plane block that lead to its retirement (R131). -/
inductive Finding where
  | progFail | eraseFail | uncorr | refresh | slowProg | slowErase
  deriving DecidableEq, Repr

/-- A plane block whose data are being copied to a spare (R132, R140): its place, the spare's physical block, and the copy programs
that have still to pass. -/
structure SpareCopy where
  ch : Nat
  l : Nat
  plane : Nat
  lbn : Nat
  new : Nat
  left : Nat
  deriving DecidableEq, Repr

/-- Zones, rows and media management (R35 to R63, R123 to R136, R140 to R148). `supply` counts, for each
set of 16 channels, the 14+2 rows that have been given to a pool or a reclaim unit; `erased` holds the member erases of queued
rows that have passed; `gcCredit` the host LBAs that R143 lets in; `dead` the member blocks (channel × 32 + LUN, LBN) that no spare backs (R132); `wall` the
host's time in ms; `urow` the row of each reclaim unit and `uFree` the free rows for units (R59); `skip` the rows that the
patrol leaves out until their next allocation (R137); `finds` the findings on plane blocks, each with its block, as
((channel × 32 + LUN) × 4 + plane) × 16384 + LBN, and its time in ns (R131); `trained` the Tf at which the interface of each
channel was last trained, in quarter degrees (R111); `worn`: Percentage Used has reached 100 once (R135); `eraseHold` the
released rows of zones whose erase waits for reads that sampled the old descriptor (R144), each with its descriptor index;
`ringHead` where the next journal record goes, in words of the ring (R283); `ckptRows` the time-and-temperature means of the last
checkpoint, and `ckptHalf` which of the two zone table checkpoints is the later (R147, R283); `old` the conventional sectors on
flash that newer ones have replaced, until their unit is erased (R175); `spareCopies` the retirements whose data are being copied
(R140); `deadWear` the wear of the rows that have left the pools for good, by 7+1 rows, in the parts of `equiv` (R135); `ckptMap` the
map segments of the last checkpoint (R147); `far` by zone the offset below which the peer has programmed its rows (R232, R241). -/
structure Media where
  nss : List Ns
  zt : SMap (BitVec 128)
  far : SMap Nat := []
  lru : List Nat
  pool14 : List Row
  pool7 : List Row
  eraseQ : List Row
  changed : List (Nat × Nat)
  flash : SMap Sector
  conv : SMap ConvEnt
  units : SMap Nat
  curUnit : SMap Nat
  rows : SMap RowInfo
  refreshQ : List (Nat × Nat)
  relocs : List Reloc
  spareUse : SMap Nat
  retired : Nat
  failedLuns : List Nat
  oos : SMap Nat
  oosTimes : List (Nat × Nat)
  journal : List JRec
  jseq : Nat
  ckptZt : SMap (BitVec 128)
  ckptSeq : Nat
  jhold : Bool
  policy : Policy
  fast : Bool
  overruns : Nat
  passes : Nat
  refreshes : Nat
  firstSpares : Nat
  supply : SMap Nat
  erased : List (Nat × Nat)
  gcCredit : SMap Nat
  dead : List (Nat × Nat)
  wall : Nat
  urow : SMap Nat := []
  uFree : List Row := []
  skip : List Nat := []
  finds : List (Nat × Finding × Nat) := []
  trained : SMap Int := []
  worn : Bool := false
  eraseHold : List (Nat × Row) := []
  ringHead : Nat := 0
  ckptRows : SMap RowInfo := []
  ckptHalf : Bool := false
  old : List (Nat × ConvEnt) := []
  spareCopies : List SpareCopy := []
  deadWear : Nat := 0
  ckptMap : SMap ConvEnt := []
  deriving DecidableEq, Repr

/-- A queued or running Mule request (R97): its identity, the physical block after remap in its plane, the retry
start entry sampled at queue insert (R121), when it became eligible, the physical blocks of all four planes (R128), and
whether it is the direct read to which a Spur read has fallen back (R104). -/
structure QReq where
  id : Nat
  r : MuleReq
  pblk : Nat
  start : Nat
  elig : Option Nat
  pblks : List Nat := []
  late : Bool := false
  deriving DecidableEq, Repr

/-- What a sequence does on its channel (R115, R119): chip enable; a command byte; address cycles, with the place in the part that a
full or a row address names, with the literal bytes, or of a form that the manual leaves open; bytes sent or read in a plane; a wait in
cycles; a wait for ready, with its polling interval in µs; a status command and what it read; a feature with its parameters; a retry at
an entry; a soft sense at an entry, above it or below. -/
inductive BusOp where
  | ce (on : Bool)
  | cmd (b : Byte)
  | addr (n blk page plane cw : Nat)
  | rowAddr (n blk page plane : Nat)
  | litAddr (l : List Byte)
  | openAddr (n : Nat)
  | out (plane n : Nat)
  | read (plane n : Nat)
  | wait (n : Nat)
  | ready (poll : Nat)
  | stat (b got : Byte)
  | feat (b : Byte) (addr : Nat) (par : BitVec 32)
  | retry (e : Nat)
  | sense (e : Nat) (up : Bool)
  deriving DecidableEq, Repr

/-- One LUN of a Mule: what runs, what was suspended, its queue, reads of this suspension, when what runs started or resumed,
the time that the program or erase ran before that (R97, R99, R114), the parameters last applied at each feature address (R116), and
what its last sequence did on the channel (R115). -/
structure Lun where
  run : Option QReq
  susp : Option QReq
  queue : List QReq
  reads : Nat
  runUs : Nat
  ranUs : Nat := 0
  feat : SMap (BitVec 32) := []
  bus : List BusOp := []
  deriving DecidableEq, Repr

/-- The results of a Mule completion (R117). -/
inductive MResult where
  | pass | fail | uncorr | seal | poison | timeout | seqfault | eraseTarget | addrRange
  | notOwned | tempHold | aborted
  deriving DecidableEq, Repr

/-- A Mule completion as reported: result, retry depth, iterations, corrected bits, plane mask (R117), and whether a soft
decode was needed (R119, R127). -/
structure MDone where
  id : Nat
  ch : Nat
  lun : Nat
  op : Nat
  rid : Nat
  res : MResult
  depth : Nat
  iters : Nat
  corr : Nat
  us : Nat
  mask : Nat
  soft : Bool := false
  deriving DecidableEq, Repr

/-- The accumulate buffer of a parity Mule: units wanted and received, the XOR and GF sums, and the LUN whose sequence
accumulates (R77). -/
structure Acc where
  row : Nat
  want : Nat
  got : Nat
  p : List (BitVec 32768)
  q : List (BitVec 32768)
  lun : Nat := 0
  deriving DecidableEq, Repr

/-- A Spur read: the direct read that it stands for, its member reads under way, and whether the spare
member has been used (R101 to R104). -/
structure Spur where
  ch : Nat
  lun : Nat
  q : QReq
  ids : List Nat
  used : List Nat
  deriving DecidableEq, Repr

/-- The Mules beside their registers (R77, R97 to R128). `loaded`: the channels whose tables the firmware
has loaded; the contents of the others are unknown (R138). `spurBud`: the Spur budget of the present window,
in ns, and `spurUsed`: what each channel has spent of it (R103). `stats` and `samples`: the counters and the latest values behind
log page C3h (R134, R273). `fresh`: completions that their requesters have still to take up (R100, R104). `parity`: the parity
units that accumulating programs have left, under the key of their page (R77). `oosWait`: the programs that wait for an out-of-service
LUN, with its channel and number (R117, R131); `left`: the LUNs that stand mid-operation since their channel floated, as channel × 32 +
LUN, until op 9 brings them to idle (R227). -/
structure Mules where
  luns : SMap Lun
  nextId : Nat
  done : List MDone
  remap : SMap (BitVec 32)
  cls : SMap (BitVec 32)
  acc : SMap Acc
  heldEn : List Nat
  spurs : List Spur
  spurBud : Nat
  spurUsed : SMap Nat
  loaded : List Nat
  stats : SMap Nat
  samples : SMap (List Nat)
  fresh : List (QReq × MDone) := []
  parity : SMap (List (BitVec 32768)) := []
  oosWait : List (Nat × Nat × MuleReq) := []
  left : List Nat := []
  deriving DecidableEq, Repr

/-- What a Saddle frame carries when this controller sends it (R250). -/
inductive Frame where
  | idle (ack : Nat)
  | nak (ack : Nat)
  | hb (seq : Nat) (devstat occ bceil mseq : Nat)
  | mack (mseq : Nat)
  | claim (m : BitVec 64)
  | grant (m : BitVec 64)
  | deny (m : BitVec 64)
  | released (m : BitVec 64)
  | hello (h : Hello)
  | keyx (pub sig : Nat)
  | bceil (mib : Nat)
  | flushDone
  | restored (r : List (Nat × Nat))
  | phase (a : PairAct)
  | mhdr (m : MirHdr)
  | mdata (s : Sector)
  | mend (mseq : Nat)
  | jrec (r : JRec)
  | zdesc (l : List (Nat × BitVec 128))
  | cmap (l : List (Nat × Nat))
  | bulk (stream : Nat) (d : BulkData)
  | wstate (p fn : Nat) (qs : List QRec)
  deriving DecidableEq, Repr

/-- A PAIR_CONTROL action in progress: who asked, what, and the phase of R241 it is in. -/
structure PairReq where
  h : Option Hdr
  a : PairAct
  ph : Nat
  deriving DecidableEq, Repr

/-- The pair link and the pair protocol beside the PAIR registers (R224 to R252): the watchdog has been kicked;
PEER_ALIVE_IN has been low for 1 µs; PAIR_ID 1's delayed fence is due; the guard of its own fence is over; entries
and records go to the peer before DUO is entered; claims that wait for a release and channels that are being
released; the frames received, the gap that a NAK has named, those sent and not acknowledged; the handshake's
results; the claims of its last step are out; the mirror entry being received; the ANA phases of a handback; `polNow`: a media policy
was set in this epoch (R267); `mark`: entries from
this number on were admitted after its first phase (R241); `ephem` the private key of the KEYX that went out, 0 before one (R230);
`mseqNew`: the peer's MSEQ starts again with its next entry (R234, R252); `rest` the MSEQ ranges of the own entries that the last recovery
restored, and `peerTrain` the peer's training values (R230, R239); `creates` the commands whose create the peer performs, oldest first
(R231). -/
structure Pair where
  kicked : Bool
  aliveLow : Bool
  fenceDue : Bool
  guarded : Bool
  tee : Bool
  waitRel : BitVec 64
  releasing : BitVec 64
  rxSeq : Nat
  gap : Bool
  txSeq : Nat
  replay : List (Nat × Frame)
  out : List Frame
  hbSeq : Nat
  heldEn : Bool
  hello : Option Hello
  pwkOk : Bool
  bceilOk : Bool
  restored : Option (List (Nat × Nat))
  entrySent : Bool
  cur : Option Mir
  req : Option PairReq
  peerFlushed : Bool
  takeover : Bool
  ana : Nat
  anaOwn : Nat
  split : BitVec 64
  paired : Bool
  dead : List Nat
  takeovers : Nat
  lastTakeUs : Nat
  lastLost : Nat
  mark : Nat := 0
  ephem : Nat := 0
  mseqNew : Bool := false
  rest : List (Nat × Nat) := []
  peerTrain : SMap Int := []
  creates : List Hdr := []
  polNow : Bool := false
  deriving DecidableEq, Repr

/-- DRAM controller and scrubber beside their registers (R167 to R172); `seeds` is the calibration set, as a number, that the
timing registers of DRAMC were loaded from (R171, R286). -/
structure Dram where
  chk : SMap (BitVec 128)
  raw : SMap (BitVec 512)
  bad : List Nat
  heldEn : Bool
  passCorr : SMap Nat
  seeds : Option Nat := none
  deriving DecidableEq, Repr

/-- The shipped firmware's mode machine and sessions (R29, R265, R401, R403); `liveAt` is the tick at which INIT was left
(R123); `measured` the free values that the last newly measured calibration set was built from (R405). -/
structure Fw where
  mode : Mode
  role : Role
  transit : Bool
  fencedInit : Bool
  replayed : Bool
  runSlot : Nat
  trial : Bool
  commitNo : Nat
  confirmed : Bool
  cfgSlot : Nat
  dl : SMap Byte
  calOpen : Bool
  calSet : SMap (BitVec 32768)
  calValid : Bool
  calCommits : Nat
  alarmed : Bool
  readonlyTemp : Bool
  pass : Nat
  sleepRegs : List (Nat × W64)
  resetReq : Option Hdr
  liveAt : Nat := 0
  measured : Option Nat := none
  deriving DecidableEq, Repr

/-- The part: everything but the queue of commands. `tick` counts FAB cycles since INIT, `free` the
free values drawn. -/
structure Dev where
  board : Board
  pins : Pins
  regs : SMap (BitVec 64)
  mem : List Host.Cell
  tor : Tor
  cores : Cores
  gate : Gate
  cirque : Cirque
  ox : Ox
  cairn : Cairn
  cipher : Cipher
  pens : Pens
  host : HostIf
  media : Media
  wr : Wr
  mules : Mules
  pair : Pair
  dram : Dram
  fw : Fw
  tick : Nat
  free : Nat
  deriving DecidableEq, Repr

/-- The state: the part and the commands that wait, oldest first. -/
structure State where
  dev : Dev
  pending : List Instr
  deriving DecidableEq, Repr

/-- Faults. No command of this part stops the machine: an access to an address that does not exist
ends with a bus error, which is a next state (R23, R24). No constructor: nothing raises one. -/
inductive Fault where
  deriving DecidableEq, Repr

/-- Refusals. -/
inductive Refusal where
  /-- A command without a meaning yet, by its mnemonic: raised by Dispatch alone; safe. -/
  | notModelled (mnemonic : String)
  deriving DecidableEq, Repr

/-- Board and fuse facts of the state after reset (assumption 1): the AP code, PAIR_ID 0, full
population, 64 GiB, the hold-up board of the example of R72. -/
def Board.shipped : Board :=
  { code := 0, pairId := false, sbMode := false, compat := false, boot := false, dramGib := 64,
    targets := 8, luns := 4, stdGeom := true, bifurcated := false, nlb := 15872, spares := 512,
    ratedQlc := 3000, ratedSlc := 60000, trUs := 55, tprogSlcUs := 229, bankFitted := true,
    iTestMa := 500, vMinMv := 5000, etaPm := 900, fuse := 0, vpd := [] }

def Pins.cold : Pins :=
  { perst := false, pwrLoss := false, wakeIn := false, fenceIn := false, aliveIn := false,
    enumIn := false, gpio14 := true, gpio15 := true, testGpio := false, wakeN := false,
    alertN := false, forced := false, ckeLow := false }

def Tor.cold : Tor :=
  { pwr := .on, saved := .off, mainOn := true, clkFail := false, failTicks := 0, x32Run := 4,
    x25Run := 8, tripSec := 0, trips := [], waitEv := false, latch := false, perstFlush := false,
    devstat := 0x800, last := none, reply := [], osc16 := true, ldoLow := false,
    ps := 0, sleepReq := 0, resume := none, romCode := 0, i3cEvents := true, ibi := none,
    mrl := 255, mwl := 255, miCfg := [] }

def Cores.cold : Cores := { syn := [], irqs := [] }

def Gate.cold : Gate := { heldRst := 0, heldMule := 0, auto := 0, autoMule := 0, bootInfo := [] }

def Cirque.cold : Cirque :=
  { words := [], cut := [], fifo := [], prog := none, esec := [], why := [], otp := [], frow := [],
    retired := [], heldEn := false, win := 0 }

def Ox.cold : Ox := { act := [], lines := [], flight := [], stopping := [], wdraw := [], heldEn := false }

def Cairn.cold : Cairn :=
  { fifo := [], wait := [], logs := [], copied := [], heldEn := false, initCount := 0 }

def Cipher.cold : Cipher :=
  { slots := [], gen := [], kwk := none, pwk := [], kin := [], cores := [], queue := [], exports := [] }

def Pens.cold : Pens :=
  { recs := [], staged := [], done := [], wait := [], seq := 0, c0 := [], spareRd := 0, spareWr := 0,
    eff := [], heldEn := [], fnDrain := [], episode := false, cutEp := 0, lastCut := 0, cutPens := [], keptPens := [],
    started := [], rdTok := [], wrTok := [], cutEps := [], episodes := [] }

def HostIf.cold : HostIf :=
  { en := [], rdy := [], sqs := [], cqs := [], aers := [], aenPend := [], feats := [], out := [], stopped := false,
    winpage := 0x100, rdval := 0, ca := false, reads := [], fw := [], hist := [], cnt := [],
    clearedC4 := [], clearedC2 := 0, crit := 0, mediaErrs := 0, errLog := [], errCount := 0, changedNs := [], fdp := [],
    tsSet := false, linkUp := false, c2 := [], c2base := [], egCrit := false, selfTest := none, stResults := [] }

/-- The shipped media policy (R267). -/
def Policy.shipped : Policy :=
  { days := 7, spurEn := true, burstGib := 8, thresh := 40, pct := 20, win := 64, pHold := 400,
    pRun := 150, pRd := 8, pSusp := 4, eHold := 400, eRun := 500, eRd := 8, eSusp := 12 }

def Media.cold : Media :=
  { nss := [], zt := [], lru := [], pool14 := [], pool7 := [], eraseQ := [], changed := [],
    flash := [], conv := [], units := [], curUnit := [], rows := [], refreshQ := [], relocs := [],
    spareUse := [], retired := 0, failedLuns := [], oos := [], oosTimes := [], journal := [], jseq := 0,
    ckptZt := [], ckptSeq := 0, jhold := false, policy := Policy.shipped, fast := false,
    overruns := 0, passes := 0, refreshes := 0, firstSpares := 0, supply := [], erased := [], gcCredit := [], dead := [], wall := 0 }

def Wr.cold : Wr :=
  { entries := [], nextId := 0, waiting := [], mirror := [], fold := [], resv := [], groups := [], flushes := [], opens := [], rels := [], flushArea := [],
    flushPeer := [], flushValid := false, bceil := 0, peerCeil := 0, cUf := none, vMv := 0,
    measuring := 3, v0Mv := 0, ingress := 0, qlc := 0 }

def Mules.cold : Mules :=
  { luns := [], nextId := 0, done := [], remap := [], cls := [], acc := [], heldEn := [], spurs := [], spurBud := 12800, spurUsed := [], loaded := [], stats := [], samples := [] }

def Pair.cold : Pair :=
  { kicked := false, aliveLow := false, fenceDue := false, guarded := false, tee := false, waitRel := 0, releasing := 0, rxSeq := 0, gap := false,
    txSeq := 0, replay := [], out := [], hbSeq := 0, heldEn := false, hello := none, pwkOk := false,
    bceilOk := false, restored := none, entrySent := false,
    cur := none, req := none, peerFlushed := false, takeover := false, ana := 0,
    anaOwn := 0, split := 0x00000000FFFFFFFF, paired := false, dead := [], takeovers := 0, lastTakeUs := 0, lastLost := 0 }

def Dram.cold : Dram := { chk := [], raw := [], bad := [], heldEn := false, passCorr := [] }

def Fw.cold : Fw :=
  { mode := .init, role := .solo, transit := true, fencedInit := false, replayed := false,
    runSlot := 0, trial := false, commitNo := 0, confirmed := false, cfgSlot := 0, dl := [],
    calOpen := false, calSet := [], calValid := true, calCommits := 0, alarmed := false,
    readonlyTemp := false, pass := 0, sleepRegs := [], resetReq := none }

/-- The part right after a cold start: every register at its Reset column (R13: an unlisted register
reads so), CLK_RSTCAUSE with the two power-on causes (R331), nothing in any memory. -/
def Dev.cold : Dev :=
  { board := Board.shipped, pins := Pins.cold, regs := [(0x0200000080, 3)], mem := [],
    tor := Tor.cold, cores := Cores.cold, gate := Gate.cold, cirque := Cirque.cold, ox := Ox.cold,
    cairn := Cairn.cold, cipher := Cipher.cold, pens := Pens.cold, host := HostIf.cold,
    media := Media.cold, wr := Wr.cold, mules := Mules.cold, pair := Pair.cold, dram := Dram.cold,
    fw := Fw.cold, tick := 0, free := 0 }

/-- The state right after reset: the cold part, and no command waiting. -/
def State.reset : State := { dev := Dev.cold, pending := [] }

end Sys2Proof.Machine
end

