-- ==== Sys2Proof/Machine/Ops.lean ====
section
/-! DEFINITION. The shared operations over the part: registers, memory, components, event posts, bus
errors, alerts and completions. Every meaning is written over these. -/

namespace Sys2Proof.Machine

/-! Components. -/

def Dev.onPins (d : Dev) (f : Pins → Pins) : Dev := { d with pins := f d.pins }
def Dev.onTor (d : Dev) (f : Tor → Tor) : Dev := { d with tor := f d.tor }
def Dev.onCores (d : Dev) (f : Cores → Cores) : Dev := { d with cores := f d.cores }
def Dev.onGate (d : Dev) (f : Gate → Gate) : Dev := { d with gate := f d.gate }
def Dev.onCirque (d : Dev) (f : Cirque → Cirque) : Dev := { d with cirque := f d.cirque }
def Dev.onOx (d : Dev) (f : Ox → Ox) : Dev := { d with ox := f d.ox }
def Dev.onCairn (d : Dev) (f : Cairn → Cairn) : Dev := { d with cairn := f d.cairn }
def Dev.onCipher (d : Dev) (f : Cipher → Cipher) : Dev := { d with cipher := f d.cipher }
def Dev.onPens (d : Dev) (f : Pens → Pens) : Dev := { d with pens := f d.pens }
def Dev.onHost (d : Dev) (f : HostIf → HostIf) : Dev := { d with host := f d.host }
def Dev.onMedia (d : Dev) (f : Media → Media) : Dev := { d with media := f d.media }
def Dev.onWr (d : Dev) (f : Wr → Wr) : Dev := { d with wr := f d.wr }
def Dev.onMules (d : Dev) (f : Mules → Mules) : Dev := { d with mules := f d.mules }
def Dev.onPair (d : Dev) (f : Pair → Pair) : Dev := { d with pair := f d.pair }
def Dev.onDram (d : Dev) (f : Dram → Dram) : Dev := { d with dram := f d.dram }
def Dev.onFw (d : Dev) (f : Fw → Fw) : Dev := { d with fw := f d.fw }

/-- Draw a free value: the next one will be another. -/
def Dev.draw (d : Dev) : Dev := { d with free := d.free + 1 }

/-! Registers. A register is held under its physical address; an unlisted one reads as its reset
value (R13). -/

/-- Read a register as it is held. -/
def Dev.rd (d : Dev) (a : Nat) : W64 := SMap.get regReset d.regs a

/-- Write a register as it is held. -/
def Dev.wr64 (d : Dev) (a : Nat) (v : W64) : Dev := { d with regs := SMap.set regReset d.regs a v }

/-- Read bit n of a register. -/
def Dev.bit (d : Dev) (a n : Nat) : Bool := bitOf (d.rd a) n

/-- Read field [hi:lo] of a register. -/
def Dev.fld (d : Dev) (a hi lo : Nat) : Nat := fldOf (d.rd a) hi lo

/-- Set or clear bit n of a register. -/
def Dev.setBit (d : Dev) (a n : Nat) (b : Bool) : Dev := d.wr64 a (withBit (d.rd a) n b)

/-- Set field [hi:lo] of a register. -/
def Dev.setFld (d : Dev) (a hi lo v : Nat) : Dev := d.wr64 a (withFld (d.rd a) hi lo v)

/-- Write a whole register from a number. -/
def Dev.setReg (d : Dev) (a v : Nat) : Dev := d.wr64 a (BitVec.ofNat 64 v)

/-- Add to a counter of w bits, which wraps (R12). -/
def Dev.count (d : Dev) (a w n : Nat) : Dev := d.setReg a (((d.rd a).toNat + n) % 2 ^ w)

/-- Add to a counter of w bits that stops at its greatest value. -/
def Dev.countSat (d : Dev) (a w n : Nat) : Dev :=
  d.setReg a (Nat.min ((d.rd a).toNat + n) (2 ^ w - 1))

/-- Apply one device function for each element of a list, first to last. -/
def Dev.each {α : Type} (d : Dev) (l : List α) (f : Dev → α → Dev) : Dev := l.foldl f d

/-- The stream of BULK frames for each kind of contents (assumption 21; 0x0C is the pair log). -/
def bulkCkpt : Nat := 1
def bulkDesc : Nat := 2
def bulkMap : Nat := 3
def bulkEntry : Nat := 4
def bulkPolicy : Nat := 5
def bulkKey : Nat := 6
def bulkTrain : Nat := 7
def bulkPens : Nat := 8
def bulkNs : Nat := 9
def bulkQueues : Nat := 10
def bulkRec : Nat := 0x0C

/-- A register after a write by the field types of R12: RW takes the value, W1C clears and W1S sets
where a one is written, WO, RO and RC keep what is held. -/
def typedWrite (r : RegRow) (old v : W64) : W64 :=
  let rw := BitVec.ofNat 64 r.rw
  let w1c := BitVec.ofNat 64 r.w1c
  let w1s := BitVec.ofNat 64 r.w1s
  (((old &&& ~~~ rw) ||| (v &&& rw)) &&& ~~~ (v &&& w1c)) ||| (v &&& w1s)

/-- A plain register write: nothing at a hole. -/
def Dev.plainWrite (d : Dev) (a : Nat) (v : W64) : Dev :=
  match regAt a with
  | some (r, _) => d.wr64 a (typedWrite r (d.rd a) v)
  | none => d

/-- A register after its block's reset: the bits that only VDD_AON power-on resets stay (R13). -/
def blockResetVal (a : Nat) (old : W64) : W64 :=
  (old &&& regTor a) ||| (regReset a &&& ~~~ regTor a)

/-- Reset the registers whose address a test picks, keeping the always-on bits. -/
def resetRegs (p : Nat → Bool) : SMap (BitVec 64) → SMap (BitVec 64)
  | [] => []
  | (k, v) :: t =>
    if p k then
      (if blockResetVal k v = regReset k then resetRegs p t
       else (k, blockResetVal k v) :: resetRegs p t)
    else (k, v) :: resetRegs p t

/-- Reset the registers of one block (its index in the peripheral region). -/
def Dev.resetBlock (d : Dev) (b : Nat) : Dev :=
  { d with regs := resetRegs (fun a => blockOf a == b) d.regs }

/-! Memory: hub SRAM, retention SRAM, the Controller Memory Buffer and DRAM share one byte map over
the physical addresses of R19. A byte that nothing has written reads as zero (assumption 6). -/

/-- What an unlisted byte reads as. -/
def memDefault (_ : Nat) : Byte := 0

/-- Read one byte. -/
def Dev.byte (d : Dev) (a : Nat) : Byte := SMap.get memDefault d.mem a

/-- Write one byte. -/
def Dev.setByte (d : Dev) (a : Nat) (b : Byte) : Dev :=
  { d with mem := SMap.set memDefault d.mem a b }

/-- Write bytes from an address upward. -/
def Dev.setBytes (d : Dev) (a : Nat) (l : List Byte) : Dev :=
  match l with
  | [] => d
  | b :: t => (d.setByte a b).setBytes (a + 1) t

/-- Read n bytes from an address upward. -/
def Dev.bytes (d : Dev) (a n : Nat) : List Byte :=
  (List.range n).map (fun i => d.byte (a + i))

/-- The canonical form of memory. -/
def memWf (m : List Host.Cell) : Bool := SMap.wf memDefault m

/-- Forget the bytes of [lo, hi). -/
def Dev.clearMem (d : Dev) (lo hi : Nat) : Dev :=
  { d with mem := SMap.keep (fun a => !(decide (lo ≤ a) && decide (a < hi))) d.mem }

/-! Time. -/

/-- CAIRN_TIME: nanoseconds since INIT; a FAB cycle is 0.625 ns (R317). -/
def Dev.ns (d : Dev) : Nat := d.tick * 5 / 8

/-- Microseconds since INIT. -/
def Dev.us (d : Dev) : Nat := d.ns / 1000

/-! Event posts (R292 to R303). -/

/-- The Cairn log IDs (R295). -/
def devLog : Nat := 0x0100
def pairLog : Nat := 0x0101

/-- The log of a Pen. -/
def penLog (p : Nat) : Nat := p

/-- The unit log of a source. -/
def unitLog (src : Nat) : Nat := 0x1000 + src

/-- The capacity of a log (R295). -/
def logCap (l : Nat) : Nat :=
  if l = devLog then 65536 else if l = pairLog then 8192 else if l < 256 then 4096 else 128

/-- Logs that overwrite by severity when full (R295). -/
def logOverwrites (l : Nat) : Bool := decide (l = devLog) || decide (l = pairLog)

/-- A log of the part that exists (R295). -/
def logExists (l : Nat) : Bool :=
  decide (l ≤ pairLog) || (decide (0x1100 ≤ l) && decide (l < 0x2000))

def Log.empty : Log :=
  { recs := [], seq := 0, drops := 0, cleared := 0, stamp := 0, last := none, occ := 0 }

/-- A post: source, code, severity and parameters. -/
def mkPost (src code sev param : Nat) : Post :=
  { src := BitVec.ofNat 16 src, code := BitVec.ofNat 16 code, sev := ⟨sev % 8, by omega⟩,
    param := BitVec.ofNat 128 param }

/-- CAIRN accepts posts while its enable is in effect (R302). -/
def Dev.cairnOn (d : Dev) : Bool := d.bit A.CAIRN_STAT 0

/-- A FIFO entry for a post: stamped with CAIRN_TIME at acceptance, to its unit log and the further
logs it names (R292, R295). -/
def Dev.fifoEnt (d : Dev) (p : Post) (logs : List Nat) : FifoEnt :=
  { post := p, time := d.ns, logs := unitLog p.src.toNat :: logs }

/-- A hardware post: dropped and counted when the FIFO is full (R303). -/
def Dev.hwPostTo (d : Dev) (logs : List Nat) (p : Post) : Dev :=
  if d.cairnOn then
    if d.cairn.fifo.length < 64 then
      d.onCairn (fun c => { c with fifo := c.fifo ++ [d.fifoEnt p logs] })
    else d.count A.CAIRN_HWDROP 32 1
  else d

/-- A firmware post: waits while the FIFO is full (R303). -/
def Dev.fwPostTo (d : Dev) (logs : List Nat) (p : Post) : Dev :=
  if d.cairnOn then
    if d.cairn.fifo.length < 64 then
      d.onCairn (fun c => { c with fifo := c.fifo ++ [d.fifoEnt p logs] })
    else d.onCairn (fun c => { c with wait := c.wait ++ [d.fifoEnt p logs] })
  else d

/-- A hardware post names the device log (R295). -/
def Dev.hwPost (d : Dev) (src code sev param : Nat) : Dev :=
  d.hwPostTo [devLog] (mkPost src code sev param)

/-- A firmware post to the device log. -/
def Dev.fwPost (d : Dev) (src code sev param : Nat) : Dev :=
  d.fwPostTo [devLog] (mkPost src code sev param)

/-- A firmware post to a Pen's log (and its unit log). -/
def Dev.penPost (d : Dev) (pen src code sev param : Nat) : Dev :=
  d.fwPostTo [penLog pen] (mkPost src code sev param)

/-- A firmware post to the pair log. -/
def Dev.pairPost (d : Dev) (src code sev param : Nat) : Dev :=
  d.fwPostTo [pairLog] (mkPost src code sev param)

/-! Interrupts to the control cores: kept as (core, source) pairs, without repeats. -/

/-- Raise an interrupt of a block, by block ID and unit, at a control core. -/
def Dev.irqTo (d : Dev) (core src : Nat) : Dev :=
  d.onCores (fun c => if (core, src) ∈ c.irqs then c else { c with irqs := c.irqs ++ [(core, src)] })

/-- Raise an interrupt at core 0. -/
def Dev.irq (d : Dev) (src : Nat) : Dev := d.irqTo 0 src

/-! Bus errors (R23 to R25). -/

/-- The bus error codes in the order in which R23 reports them. -/
inductive BusErr where
  | decode | prot | gated | xreset | locked | erasing | uncorr
  deriving DecidableEq, Repr

/-- The code of R23. -/
def BusErr.code : BusErr → Nat
  | .gated => 1 | .decode => 2 | .uncorr => 3 | .xreset => 4 | .erasing => 5 | .locked => 6 | .prot => 7

/-- The device-log severity of R23. -/
def BusErr.sev : BusErr → Nat
  | .gated => 2 | .decode => 3 | .uncorr => 5 | .xreset => 3 | .erasing => 1 | .locked => 2 | .prot => 4

/-- A requester as a number in a record's parameters (assumption 7 fixes the layout). -/
def reqrNum : Reqr → Nat
  | .core n _ => 0x8000 + n.val
  | .ox n => 0x4000 + n.val
  | .host f => f.val

/-- Block ID and unit of the target of an address: the tables of R16 and R19. DRAM belongs to INTEG, with the channel
that the address lies in as its unit. DESIGN CHOICE (assumption 112): a DRAM address above the installed size, which
ends with DECODE, is reported the same way; the boot ROM and hub SRAM, to which R16 gives no block, as block 0 unit 0. -/
def targetOf (a : Nat) : Nat × Nat :=
  if periBase ≤ a ∧ a < periBase + 0x1000000 then
    ((blockId (blockOf a)).1, regUnit (blockOf a) ((a - periBase) % 0x10000))
  else if 0x30000000 ≤ a ∧ a < 0x30800000 then (0x05, 0)
  else if 0x40000000 ≤ a ∧ a < 0x42000000 then (0x0D, 0)
  else if 0x20000000 ≤ a ∧ a < 0x20200000 then (0x02, 1)
  else if 0x0100000000 ≤ a ∧ a < 0x0108000000 then (0x0A, 0)
  else if 0x1000000000 ≤ a ∧ a < 0x3000000000 then (0x06, Config.dramLane (a / 64 * 64) / 2 % 4)
  else (0, 0)

/-- The source of a bus error's record: the target's block and unit; HOST has the number of the requesting function as
its unit (R16). -/
def errSource (who : Reqr) (a : Nat) : Nat :=
  match who with
  | .host f => if (targetOf a).1 = 0x0D then 0x0D00 + f.val % 256 else (targetOf a).1 * 256 + (targetOf a).2
  | _ => (targetOf a).1 * 256 + (targetOf a).2

/-- The syndrome of a core after a bus error: the first one is kept (R25). -/
def synAfter (old : W64) (a : Nat) (write : Bool) (e : BusErr) : W64 :=
  if bitOf old 63 then withBit old 62 true
  else BitVec.ofNat 64 (2 ^ 63 + a % 2 ^ 40 * 2 ^ 12 + (targetOf a).1 * 16
        + (if write then 8 else 0) + e.code)

/-- A bus error: the device-log record, and what its requester sees (R23, R24). -/
def Dev.busErr (d : Dev) (who : Reqr) (a : Nat) (write : Bool) (e : BusErr) : Dev :=
  let d := d.hwPost (errSource who a) e.code e.sev (a % 2 ^ 40 + reqrNum who * 2 ^ 64)
  match who with
  | .core n _ =>
    let v := synAfter (SMap.get (fun _ => 0) d.cores.syn n.val) a write e
    d.onCores (fun c =>
      { c with syn := SMap.set (fun _ => 0) c.syn n.val v
               trap := SMap.set (fun _ => 0) c.trap n.val (if write then 7 else 5) })
  | .ox n =>
    let d := (d.setFld (A.OX_STAT n.val) 2 0 4).setFld (A.OX_STAT n.val) 8 6 e.code
    let d := d.setReg (A.OX_BERR n.val) a
    d.setBit A.OX_ERRST n.val true
  | .host _ => d.onHost (fun h => { h with ca := true })

/-- The privilege that an access needs (R19, R22). -/
def protFails (who : Reqr) (a : Nat) (write : Bool) : Bool :=
  let peri := decide (periBase ≤ a) && decide (a < periBase + 0x1000000)
  let zt := decide (0x30000000 ≤ a) && decide (a < 0x30800000)
  let rom := decide (a < 0x40000)
  let win := decide (0x0100000000 ≤ a) && decide (a < 0x0108000000)
  (write && (rom || win)) ||
    match who with
    | .core _ m => !m && (peri || zt)
    | .ox _ => peri
    | .host _ => false

/-- The address decodes to a register, a memory or a window (R19 to R21), on this ordering code (R2,
R3). -/
def Dev.decodes (d : Dev) (a : Nat) : Bool :=
  if periBase ≤ a ∧ a < periBase + 0x1000000 then
    if blockOf a = 9 ∧ d.board.code.val = 2 then false
    else if blockOf a = 11 ∧ d.board.code.val = 1 then false
    else (regAt a).isSome
  else
    decide (a < 0x40000) || (decide (0x10000000 ≤ a) && decide (a < 0x11000000)) ||
    (decide (0x20000000 ≤ a) && decide (a < 0x20200000)) ||
    (decide (0x30000000 ≤ a) && decide (a < 0x30800000)) ||
    (decide (0x40000000 ≤ a) && decide (a < 0x42000000)) ||
    (decide (0x0100000000 ≤ a) && decide (a < 0x0108000000)) ||
    (decide (0x1000000000 ≤ a) && decide (a < 0x1000000000 + d.board.dramGib * 2 ^ 30))

/-- The enable bit of a block of R20, by the bit assignments of R331; CLK, PWR, TOR and THERM always run (R323). -/
def gateBit (b : Nat) : Option Nat :=
  match b with
  | 4 => some 0 | 5 => some 1 | 6 => some 2 | 7 => some 3 | 8 => some 4 | 9 => some 5
  | 10 => some 6 | 11 => some 7 | 12 => some 8 | 13 => some 9 | 14 => some 10 | _ => none

end Sys2Proof.Machine
end

