-- ==== Sys2Proof/Machine/Flags.lean ====
section
/-! DEFINITION. The flags and status values that the manual computes: the throttle percentage, the
thermal flags, DEVSTAT, FAULT_N, PEER_ALIVE_OUT, block status, and the alert and event flags that
follow from them. -/

namespace Sys2Proof.Machine

/-! Thermal. -/

/-- Round a reading in thousandths of a degree to the nearest quarter degree, halves upward (R348). -/
def quarters (milli : Int) : Int := (milli + 125) / 250

/-- The percentage of a curve point: over 100 acts as 100, 0 acts as 1 (R357). -/
def curvePct (w : W64) : Nat :=
  let p := fldOf w 6 0
  if p = 0 then 1 else Nat.min p 100

/-- The temperature of a curve point in quarter degrees; the byte is signed (assumption 13). -/
def curveTemp (w : W64) : Int := 4 * signed 8 (fldOf w 15 8)

/-- The points in use: up to the first whose temperature does not exceed that of the one before it
(R357). -/
def curvePrefix : Int → List (Int × Nat) → List (Int × Nat)
  | _, [] => []
  | last, (t, p) :: r => if last < t then (t, p) :: curvePrefix t r else []

/-- The curve points in use, first to last (R351). -/
def Dev.curve (d : Dev) : List (Int × Nat) :=
  let pts := (List.range 16).map (fun i =>
    (curveTemp (d.rd (A.THERM_CURVE i)), curvePct (d.rd (A.THERM_CURVE i))))
  match pts with
  | [] => []
  | p :: r => p :: curvePrefix p.1 r

/-- P(T) at and above a point: linear to the next point, rounded down to a whole percent (R351). -/
def curveFrom : Int → Nat → List (Int × Nat) → Int → Nat
  | _, p0, [], _ => p0
  | t0, p0, (t1, p1) :: r, t =>
    if t < t1 then ((p0 : Int) + ((p1 : Int) - p0) * (t - t0) / (t1 - t0)).toNat
    else curveFrom t1 p1 r t

/-- P(T): 100 below the first point (R351). -/
def curveAt (pts : List (Int × Nat)) (t : Int) : Nat :=
  match pts with
  | [] => 100
  | (t0, p0) :: r => if t < t0 then 100 else curveFrom t0 p0 r t

/-- The applied percentage after a conversion (R351). -/
def nextA (a : Nat) (pts : List (Int × Nat)) (tj hyst : Int) : Nat :=
  let up := curveAt pts tj
  let down := curveAt pts (tj + hyst)
  if up < a then up else if a < down then down else a

/-- A 16-bit signed reading in a register field. -/
def temp16 (w : W64) : Int := signed 16 (fldOf w 15 0)

/-- The Tf sensor of a channel: channel ÷ 4 where the configuration image names no other (R122, R123, R399). -/
def Dev.tfSensor (d : Dev) (ch : Nat) : Nat := d.board.tfSensors.getD ch (ch / 4)

/-- The hottest valid junction sensor and its reading: the lower number on a tie (R348, R356). -/
def Dev.hottest (d : Dev) : Option (Nat × Int) :=
  (List.range 8).foldl (fun best j =>
    if d.bit (A.THERM_TJ j) 16 then
      match best with
      | none => some (j, temp16 (d.rd (A.THERM_TJ j)))
      | some (k, t) =>
        if t < temp16 (d.rd (A.THERM_TJ j)) then some (j, temp16 (d.rd (A.THERM_TJ j))) else some (k, t)
    else best) none

/-- The applied percentage A. -/
def Dev.pctA (d : Dev) : Nat := d.fld A.THERM_PCT 6 0

/-- The thermal cap of a Mule in effect (R353, R82). -/
def effCap (cap a : Nat) : Nat := Nat.max 1 (cap * a / 100)

/-- The flash-window flag (R85). -/
def Dev.fwFlag (d : Dev) : Bool := d.bit A.THERM_STAT 4

/-- A case input that is checked and is outside 0 to 85 °C, or faulty (R85, R349). -/
def caseOutside (en : Bool) (w : W64) : Bool :=
  en && bitOf w 16 && (bitOf w 17 || decide (temp16 w < 0) || decide (340 < temp16 w))

/-- A case input that does not hold the flag: unchecked, or inside 3 to 82 °C (R85). -/
def caseInside (en : Bool) (w : W64) : Bool :=
  !en || !bitOf w 16 || (!bitOf w 17 && decide (12 ≤ temp16 w) && decide (temp16 w ≤ 328))

/-- The flag after a conversion (R85). -/
def Dev.nextFwFlag (d : Dev) : Bool :=
  let en := fun k => d.bit A.THERM_EXTEN k
  if (List.range 16).any (fun k => caseOutside (en k) (d.rd (A.THERM_TF k))) then true
  else if (List.range 16).all (fun k => caseInside (en k) (d.rd (A.THERM_TF k))) then false
  else d.fwFlag

/-! Modes and pins. -/

/-- The MODE code of DEVSTAT (R28). -/
def Mode.code : Mode → Nat
  | .init => 0 | .solo => 1 | .duo => 2 | .survivor => 3 | .service => 4 | .readonly => 5

/-- The ROLE code of DEVSTAT (R28). -/
def Role.code : Role → Nat
  | .solo => 0 | .duo => 1 | .survivor => 2

/-- The pair pins reach the logic behind them, except on the AS code (R2). -/
def Dev.hasPair (d : Dev) : Bool := decide (d.board.code.val ≠ 1)

def Dev.fenceIn (d : Dev) : Bool := d.hasPair && d.pins.fenceIn
def Dev.aliveIn (d : Dev) : Bool := d.hasPair && d.pins.aliveIn

/-- Saddle is up: LINK is 0b10 (R253). -/
def Dev.linkUp (d : Dev) : Bool := decide (d.fld A.PAIR_STAT 1 0 = 2)

/-- PEER_UP: PEER_ALIVE_IN asserted and Saddle trained (R28). -/
def Dev.peerUp (d : Dev) : Bool := d.aliveIn && d.linkUp

/-- DEVSTAT as HOSTIF mirrors it (R28). -/
def Dev.devstat (d : Dev) : Nat :=
  d.fw.mode.code + d.fw.role.code * 16
    + (if d.peerUp then 0x100 else 0) + (if d.fenceIn then 0x200 else 0)
    + (if d.board.pairId then 0x400 else 0) + (if d.fw.transit then 0x800 else 0)
    + (if d.board.compat then 0x10000 else 0)

/-- FAULT_N is low: a clock source failure, WAKE_FAILED, thermal shutdown or ROM recovery (R320,
R344, R354, R397). -/
def Dev.faultN (d : Dev) : Bool :=
  d.tor.clkFail || decide (d.tor.pwr = .wakeFailed) || decide (d.tor.pwr = .thermalOff) ||
    decide (d.tor.pwr = .romRecovery)

/-- PEER_FENCE_OUT: the Tor latch; on PAIR_ID 1 an asserted PEER_FENCE_IN forces it low (R228). -/
def Dev.fenceOut (d : Dev) : Bool :=
  d.hasPair && d.bit A.PAIR_FENCE 0 && !(d.board.pairId && d.pins.fenceIn)

/-- PEER_ALIVE_OUT (R229). -/
def Dev.aliveOut (d : Dev) : Bool :=
  d.hasPair && d.bit A.PAIR_CTL 4 && d.tor.mainOn && !d.tor.clkFail && d.pair.kicked &&
    !d.bit A.PAIR_STAT 5

/-- The channels driven, as a word: those of PAIR_OWN, none while PEER_FENCE_IN is asserted; on the AS code the fuses grant every one
(R2, R34, R224, R227). -/
def Dev.ownWord (d : Dev) : W64 := if !d.hasPair then BitVec.allOnes 64 else if d.fenceIn then 0 else d.rd A.PAIR_OWN

/-- The channel is granted. -/
def Dev.owned (d : Dev) (ch : Nat) : Bool := bitOf d.ownWord ch

/-- The flush latch of R149 is set. -/
def Dev.ploss (d : Dev) : Bool := d.tor.latch

/-- MULE_STAT as read: PLOSS, TEMPHOLD and OWNED follow their sources (R138). -/
def Dev.muleStat (d : Dev) (ch : Nat) : W64 :=
  withBit (withBit (withBit (d.rd (A.MULE_STAT ch)) 5 d.ploss) 4 d.fwFlag) 3 (d.owned ch)

/-! Alerts (R370). -/

/-- A set and enabled alert source exists. -/
def Dev.alertLive (d : Dev) : Bool :=
  decide (d.fld A.SB_ALERTSRC 4 0 &&& d.fld A.SB_ALERTEN 4 0 ≠ 0)

/-- Signal an alert: as an SMBus target hold SB_ALERT_N low, as an I3C target leave it high and raise an IBI with the sources. -/
def Dev.signalAlert (d : Dev) : Dev :=
  if d.bit A.SB_STAT 3 then
    let d := d.onPins (fun p => { p with alertN := false })
    if d.tor.i3cEvents then d.onTor (fun t => { t with ibi := some (BitVec.ofNat 8 (d.fld A.SB_ALERTSRC 4 0)) }) else d
  else d.onPins (fun p => { p with alertN := true })

/-- Set an alert source; where enabled, signal it. -/
def Dev.alert (d : Dev) (n : Nat) : Dev :=
  let fresh := !d.bit A.SB_ALERTSRC n
  let d := d.setBit A.SB_ALERTSRC n true
  if fresh && d.bit A.SB_ALERTEN n then d.signalAlert else d

/-- HEN_CTL (R169, R170): a set enable starts the walk, or is held during a drain; a cleared one drains the burst in
flight. -/
def Dev.henCtl (d : Dev) (v : BitVec 3) : Dev :=
  let d := d.setReg A.HEN_CTL v.toNat
  if v.getLsbD 0 then
    if d.bit A.HEN_STAT 1 then d.onDram (fun m => { m with heldEn := true }) else d.setBit A.HEN_STAT 0 true
  else
    let d := d.onDram (fun m => { m with heldEn := false })
    if d.bit A.HEN_STAT 0 then (d.setBit A.HEN_STAT 0 false).setBit A.HEN_STAT 1 true else d

/-- Change the mode; a change of DEVSTAT.MODE is alert source 4 (R370), and the firmware enables Hen at the end of INIT (R169). -/
def Dev.setMode (d : Dev) (m : Mode) : Dev :=
  if d.fw.mode = m then d
  else
    let e := if d.fw.mode = .init then d.henCtl (BitVec.ofNat 3 (d.rd A.HEN_CTL).toNat ||| 1) else d
    (e.onFw (fun f => { f with mode := m, liveAt := if f.mode = .init then d.tick else f.liveAt })).alert 4

/-- Set or clear TRANSIT. -/
def Dev.setTransit (d : Dev) (b : Bool) : Dev := d.onFw (fun f => { f with transit := b })

/-- Set the role. -/
def Dev.setRole (d : Dev) (r : Role) : Dev := d.onFw (fun f => { f with role := r })

/-! Dirty-page marks (R196, R197). -/

/-- The Pen of a function: the one whose record lists it; the physical function belongs to Pen 0
(R179, R185). -/
def Dev.penOf (d : Dev) (fn : Nat) : Option Nat :=
  if fn = 0 then some 0
  else
    (d.pens.recs.find? (fun e =>
      if d.board.pairId then e.2.r.func1.getLsbD fn else e.2.r.func0.getLsbD fn)).map Prod.fst

/-- The bit of a page of window w in a copy: its byte address and position. -/
def Dev.dlogBit (d : Dev) (p w copy i : Nat) : Nat × Nat :=
  ((d.rd A.PEN_DLOG_BASE).toNat + copy * 2 ^ 27 + d.fld (A.PEN_DLOG_MAP p w) 63 32 * 64 + i / 8, i % 8)

/-- HOSTIF marks a host page that it writes for a function of a logging Pen. -/
def Dev.markPage (d : Dev) (p page : Nat) : Dev :=
  if d.bit (A.PEN_DLOG_CTL p) 0 then
    let copy := d.fld (A.PEN_DLOG_CTL p) 2 2
    d.each ((List.range 4).filter (fun w =>
        d.bit (A.PEN_DLOG_WIN p w) 0 && decide (d.fld (A.PEN_DLOG_WIN p w) 63 12 ≤ page) &&
        decide (page < d.fld (A.PEN_DLOG_WIN p w) 63 12 + d.fld (A.PEN_DLOG_MAP p w) 31 0))) (fun d w =>
      let b := d.dlogBit p w copy (page - d.fld (A.PEN_DLOG_WIN p w) 63 12)
      d.setByte b.1 (d.byte b.1 ||| BitVec.ofNat 8 (2 ^ b.2)))
  else d

/-- Marks of a function's host writes. -/
def Dev.markPages (d : Dev) (fn : Nat) (pages : List Nat) : Dev :=
  match d.penOf fn with
  | some p => d.each pages (fun d g => d.markPage p g)
  | none => d

/-! Host events and completions. -/

/-- The completion queue of a command: that of its submission queue. -/
def Dev.cqOf (d : Dev) (h : Hdr) : Option Cq :=
  match d.host.sqs.find? (fun q => decide (q.fn = h.fn.val) && decide (q.sqid = h.qid)) with
  | some s => d.host.cqs.find? (fun c => decide (c.fn = h.fn.val) && decide (c.cqid = s.cqid))
  | none => none

/-- A completion queue after one more entry: the phase turns at the wrap. -/
def Cq.step (c : Cq) : Cq :=
  if c.size ≤ c.tail + 1 then { c with tail := 0, phase := !c.phase } else { c with tail := c.tail + 1 }

/-- HOSTIF writes a completion queue entry: the queue moves on and the page is marked (R196). -/
def Dev.cqWrite (d : Dev) (h : Hdr) : Dev :=
  match d.cqOf h with
  | none => d
  | some c =>
    let d := d.markPages h.fn.val [(c.base + c.tail * 16) / 4096]
    d.onHost (fun x => { x with cqs := x.cqs.map (fun y => if y = c then y.step else y) })

/-- An asynchronous event for one function: it completes the function's oldest outstanding request, or waits for one; while
posting is stopped it waits (R149). -/
def Dev.aenOne (d : Dev) (fn type info log : Nat) : Dev :=
  match (if d.host.stopped then none else d.host.aers.find? (fun h => h.fn.val == fn)) with
  | some h => (d.cqWrite h).onHost (fun x =>
      { x with
        aers := x.aers.erase h
        out := x.out ++ [.aen type info log,
          .cqe { h := h, st := .success, dnr := false, res0 := type + info * 256 + log * 65536, res1 := 0 }] })
  | none => d.onHost (fun x => { x with aenPend := x.aenPend ++ [(fn, type, info, log)] })

/-- An asynchronous event for some functions. -/
def Dev.aenTo (d : Dev) (fns : List Nat) (type info log : Nat) : Dev := d.each fns (fun d f => d.aenOne f type info log)

/-- The functions that an event of the whole device reaches: the physical function, and those that are enabled. -/
def Dev.aenFns (d : Dev) : List Nat := 0 :: d.host.en.filter (· != 0)

/-- The functions that an event of a Pen reaches (R194). -/
def Dev.penFns (d : Dev) (p : Nat) : List Nat := d.aenFns.filter (fun f => decide (d.penOf f = some p))

/-- An asynchronous event of the whole device. -/
def Dev.aen (d : Dev) (type info log : Nat) : Dev := d.aenTo d.aenFns type info log

/-- Set a Critical Warning bit of the SMART log page with its event. -/
def Dev.critical (d : Dev) (n : Nat) : Dev :=
  if d.host.crit.getLsbD n then d
  else (d.onHost (fun h => { h with crit := h.crit ||| BitVec.twoPow 8 n })).aen 1 n 2

/-- Set a Critical Warning bit and raise its event, though the bit stand already (R168). -/
def Dev.warnAgain (d : Dev) (n : Nat) : Dev :=
  if d.host.crit.getLsbD n then d.aen 1 n 2 else d.critical n

/-- Clear a Critical Warning bit. -/
def Dev.uncritical (d : Dev) (n : Nat) : Dev :=
  d.onHost (fun h => { h with crit := h.crit &&& ~~~ (BitVec.twoPow 8 n) })

/-- The code of a status, 256 × type + code: type 7h as R261 gives, the others as NVMe numbers them (assumption 25). -/
def Status.code : Status → Nat
  | .success => 0 | .invalidOpcode => 0x01 | .invalidField => 0x02 | .dataTransfer => 0x04 | .internal => 0x06
  | .aborted => 0x07 | .invalidNsFormat => 0x0B | .cmdSeqError => 0x0C | .nsWriteProt => 0x20 | .lbaRange => 0x80
  | .nsNotReady => 0x82 | .cqInvalid => 0x100 | .invalidQueue => 0x101 | .queueSize => 0x102 | .aerLimit => 0x105
  | .invalidSlot => 0x106 | .invalidImage => 0x107 | .invalidVector => 0x108 | .invalidLogPage => 0x109
  | .needsReset => 0x10B | .invalidDeletion => 0x10C | .nsCapacity => 0x115 | .nsidUnavailable => 0x116 | .alreadyAttached => 0x118
  | .notAttached => 0x11A | .ctrlListInvalid => 0x11C | .selfTestBusy => 0x11D | .zoneBoundary => 0x1B8
  | .zoneFull => 0x1B9 | .zoneReadOnly => 0x1BA | .zoneOffline => 0x1BB | .zoneInvalidWrite => 0x1BC
  | .tooManyActive => 0x1BD | .tooManyOpen => 0x1BE | .zoneTransition => 0x1BF | .unrecRead => 0x281
  | .guardErr => 0x282 | .appErr => 0x283 | .refErr => 0x284 | .compareFail => 0x285 | .anaInaccessible => 0x302
  | .anaTransition => 0x303 | .tempHold => 0x780 | .pairFenced => 0x781 | .stripeUnrec => 0x782 | .penLimit => 0x783
  | .calSeq => 0x784 | .modeRefused => 0x785

/-- Add an entry to the Error Information log: the 64 latest are kept (R256). -/
def Dev.addErr (d : Dev) (sqid cid st lba : Nat) (nsid : Nat := 0) : Dev :=
  d.onHost (fun h =>
    { h with
      errLog := ({ count := h.errCount + 1, sqid := sqid, cid := cid, st := st, lba := lba, nsid := nsid } :: h.errLog).take 64
      errCount := h.errCount + 1 })

/-- The bucket of a latency in nanoseconds (R107). -/
def histBucket (l : Nat) : Nat :=
  if l < 256 then 0
  else if 2 ^ 24 ≤ l then 65
  else
    let e := flog2 24 l - 8
    1 + 4 * e + l / 2 ^ (e + 6) % 4

/-- The key of a histogram counter: Pen, class, kind, bucket (R108). -/
def histKey (pen cls kind b : Nat) : Nat := pen * 1024 + (3 * cls + kind) * 66 + b

/-- Add to a saturating counter of a table. -/
def bump (m : SMap Nat) (k n : Nat) : SMap Nat :=
  SMap.set (fun _ => 0) m k (Nat.min (SMap.get (fun _ => 0) m k + n) (2 ^ 64 - 1))

/-- Count a command's latency, from its doorbell to its completion (R107). -/
def Dev.histCount (d : Dev) (pen cls kind t0 : Nat) : Dev :=
  let l := (d.tick - t0) * 5 / 8
  d.onHost (fun h => { h with hist := bump h.hist (histKey pen cls kind (histBucket l)) 1 })

/-- The counters kept for each Pen for C4h: 0 FASTRD, 1 FWRD, 2 SPUR, 3 SPURFALL, 4 SUSP, 5 SPURDENY. -/
def Dev.penCount (d : Dev) (pen i : Nat) : Dev :=
  d.onHost (fun h => { h with cnt := bump h.cnt (pen * 8 + i) 1 })

/-- Count an event of log page C2h under its byte offset there (R272). -/
def Dev.count2 (d : Dev) (k n : Nat) : Dev := d.onHost (fun h => { h with c2 := bump h.c2 k n })

/-- A command opcode that reads LBAs; and one that R190 charges to the read side. -/
def isReadOpc (o : Byte) : Bool := decide (o = 0x02)
def readSide (o : Byte) : Bool := decide (o = 0x02 ∨ o = 0x05 ∨ o = 0x0C ∨ o = 0x7A)

/-- A command is done: one of the firmware path leaves its list, and its latency is counted by the Pen and class that it came under (R90,
R107, R108); a read that ends while Col has it, waiting for its tokens or in flight, counts as a fast-path one. DESIGN CHOICE
(assumption 123): an I/O command that neither reads nor writes LBAs counts in the histogram of the side that R190 charges it to. -/
def Dev.closeFw (d : Dev) (h : Hdr) : Dev :=
  match d.host.fw.find? (fun f => f.h == h) with
  | none =>
    match d.pens.wait.find? (fun c => c.col && c.h == h), d.host.reads.find? (fun r => r.h == h) with
    | some c, _ => d.histCount c.pen c.cls 0 c.t0
    | none, some r => d.histCount r.pen r.cls 0 r.t0
    | none, none => d
  | some f =>
    let d := d.onHost (fun x => { x with fw := x.fw.filter (fun g => g.h != h) })
    if 4096 ≤ f.q then d
    else if isReadOpc f.e.opc then (d.histCount f.pen f.cls 1 f.t0).penCount f.pen 1
    else d.histCount f.pen f.cls (if readSide f.e.opc then 1 else 2) f.t0

/-- Mark the host pages of a firmware-path command's data (R196). -/
def Dev.markData (d : Dev) (h : Hdr) : Dev :=
  match d.host.fw.find? (fun f => f.h == h) with
  | some f => d.markPages h.fn.val f.e.rw.pages
  | none => d

/-- Post a completion entry, unless HOSTIF has stopped posting (R149). -/
def Dev.complete (d : Dev) (h : Hdr) (st : Status) (dnr : Bool := false) (res0 : Nat := 0)
    (res1 : Nat := 0) : Dev :=
  if d.host.stopped then d
  else ((d.closeFw h).cqWrite h).onHost (fun x =>
    { x with out := x.out ++ [.cqe { h := h, st := st, dnr := dnr, res0 := res0, res1 := res1 }] })

/-- Write bytes to the host for a command. -/
def Dev.send (d : Dev) (h : Hdr) (b : List Byte) : Dev :=
  if d.host.stopped then d else (d.markData h).onHost (fun x => { x with out := x.out ++ [.bytes h b] })

/-- Return bytes to the host and complete. -/
def Dev.reply (d : Dev) (h : Hdr) (b : List Byte) : Dev := (d.send h b).complete h .success

end Sys2Proof.Machine
end

