-- ==== Sys2Proof/Machine/Transit.lean ====
section
/-! DEFINITION. What takes the whole part from one condition to another: the safe state, key
zeroization, the flush latch, the fence, the main-domain reset, the start of a wake. -/

namespace Sys2Proof.Machine

/-- The safe state of R320 and R354: owned channels deselected and write protected, links idle, CKE
low. -/
def Dev.forceSafe (d : Dev) : Dev :=
  let d := d.onPins (fun p => { p with forced := true, ckeLow := true })
  let d := d.onHost (fun h => { h with linkUp := false })
  d.setFld A.PAIR_STAT 1 0 0

/-- Release the forced pins (R321). -/
def Dev.releasePins (d : Dev) : Dev :=
  d.onPins (fun p => { p with forced := false, ckeLow := false })

/-- A LUN with nothing running and nothing queued. -/
def lunIdle (_ : Nat) : Lun := { run := none, susp := none, queue := [], reads := 0, runUs := 0 }

/-- The LUN l of channel ch. -/
def Dev.lun (d : Dev) (ch l : Nat) : Lun := SMap.get lunIdle d.mules.luns (ch * 32 + l)

/-- Replace a LUN. -/
def Dev.setLun (d : Dev) (ch l : Nat) (x : Lun) : Dev :=
  d.onMules (fun m => { m with luns := SMap.set lunIdle m.luns (ch * 32 + l) x })

/-- A completion of a request (R117). -/
def mkDone (q : QReq) (ch l : Nat) (res : MResult) (us : Nat) : MDone :=
  { id := q.id, ch := ch, lun := l, op := q.r.op.val, rid := q.r.rid, res := res, depth := 0, iters := 0,
    corr := 0, us := us, mask := 0 }

/-- Report a completion. -/
def Dev.report1 (d : Dev) (m : MDone) : Dev := d.onMules (fun x => { x with done := x.done ++ [m] })

/-- End the sequence that runs on a LUN, and what is suspended on it, with a result (R117). -/
def Dev.endLun (d : Dev) (ch l : Nat) (res : MResult) : Dev :=
  let ln := d.lun ch l
  let d := match ln.run with
    | some q => d.report1 (mkDone q ch l res ((if ln.susp.isSome then 0 else ln.ranUs) + (d.us - ln.runUs)))
    | none => d
  let d := match ln.susp with | some q => d.report1 (mkDone q ch l res ln.ranUs) | none => d
  let d := if ln.run.isSome || ln.susp.isSome then d.setReg (A.MULE_LUN ch l) 0 else d
  d.setLun ch l { ln with run := none, susp := none, reads := 0, runUs := 0 }

/-- Every running sequence of a set of channels stops where it stands and ends with ABORTED. -/
def Dev.abortChannels (d : Dev) (p : Nat → Bool) : Dev :=
  d.each ((d.mules.luns.map Prod.fst).filter (fun k => p (k / 32)))
    (fun d k => d.endLun (k / 32) (k % 32) .aborted)

/-- Suspend the erase of a Cirque bank, with its reason: 1 an access, 2 the firmware, 3 power loss (R280). -/
def Dev.suspBank (d : Dev) (b why : Nat) : Dev :=
  let d := (d.setFld (A.CIRQUE_ESTAT b) 1 0 2).setFld (A.CIRQUE_ESTAT b) 15 8 (d.fld (A.CIRQUE_ESTAT b) 15 8 + 1)
  let d := (d.setBit A.CIRQUE_STAT (16 + b) true).count (A.CIRQUE_CNT 5) 64 1
  d.onCirque (fun c => { c with why := SMap.set (fun _ => 0) c.why b why })

/-- Every Cirque erase that runs is suspended (R280, R289). -/
def Dev.suspendErases (d : Dev) (why : Nat) : Dev :=
  d.each (List.range 8) (fun d b => if d.fld (A.CIRQUE_ESTAT b) 1 0 = 1 then d.suspBank b why else d)

/-- A program that a reset meets completes, for a code word is programmed within 1 µs (R289, assumption 23). -/
def Cirque.endProg (c : Cirque) : Cirque :=
  match c.prog with
  | some p => { c with words := SMap.put c.words p.word p.data, prog := none }
  | none => c

/-- The array after a CIRQUE or main-domain reset: the erases that ran are cut (R282). -/
def Cirque.cutAll (c : Cirque) : Cirque :=
  let c := c.endProg
  { c with fifo := [], cut := (c.cut ++ c.esec.map Prod.snd).dedup, esec := [], why := [], heldEn := false }

/-- No read of Col is in flight: no command, and no member read of one that has ended. -/
def Dev.colQuiet (d : Dev) : Bool := d.host.reads.isEmpty && d.host.strays.isEmpty

/-- COL_STAT (R109): a drain is over once no read is in flight, and an enable set meanwhile then takes effect. -/
def Dev.colStat (d : Dev) : Nat :=
  if d.bit A.COL_STAT 1 then (if d.colQuiet then (if d.bit A.COL_CTL 0 then 1 else 0) else 2)
  else d.fld A.COL_STAT 0 0

/-- The drain of COL is over: its bits stand as COL_STAT shows them (R109). -/
def Dev.colSettle (d : Dev) : Dev :=
  if d.bit A.COL_STAT 1 && d.colQuiet then d.setReg A.COL_STAT d.colStat else d

/-- COL_CTL.EN (R109): a clear with reads in flight drains. -/
def Dev.colEn (d : Dev) (en : Bool) : Dev :=
  let st := d.colStat
  let d := d.setBit A.COL_CTL 0 en
  if en then d.setReg A.COL_STAT (if st = 2 then 2 else 1)
  else d.setReg A.COL_STAT (if d.colQuiet then 0 else 2)

/-- The hardware effects of the flush latch (R149). -/
def Dev.setLatch (d : Dev) : Dev :=
  let d := d.onTor (fun t => { t with latch := true })
  let d := d.onHost (fun h => { h with stopped := true })
  let d := d.colEn false
  d.suspendErases 3

/-- The flash outputs of every channel float: sequences stop where they stand, and their LUNs are left mid-operation (R224, R227). -/
def Dev.floatAll (d : Dev) : Dev :=
  let mid := (d.mules.luns.filter (fun e => e.2.run.isSome || e.2.susp.isSome)).map Prod.fst
  (d.abortChannels (fun _ => true)).onMules (fun m => { m with left := (m.left ++ mid).dedup })

/-- PEER_FENCE_IN acts (R227): ownership and pending claims go, sequences abort. -/
def Dev.fenceActs (d : Dev) : Dev :=
  let d := d.setReg A.PAIR_OWN 0
  (d.setReg A.PAIR_PEND 0).floatAll

/-- A DRAM address. -/
def isDram (a : Nat) : Bool := decide (0x1000000000 ≤ a)

/-- A retention SRAM address of a bank in a mask. -/
def isRetained (mask a : Nat) : Bool :=
  decide (0x20000000 ≤ a) && decide (a < 0x20200000) &&
    BitVec.getLsbD (BitVec.ofNat 8 mask) ((a - 0x20000000) / 0x40000)

/-- The registers after a main-domain reset: those of Tor keep their Tor bits (R326). -/
def mainRegs (m : SMap (BitVec 64)) : SMap (BitVec 64) := resetRegs (fun _ => true) m

/-- The newest record of each Pen in Cirque: a staged one is journaled before it is staged (R185, R188). -/
def Dev.penNewest (d : Dev) : SMap PenInfo :=
  d.pens.staged.foldl (fun m s =>
    match SMap.find m s.1 with
    | some i => SMap.put m s.1 { i with r := s.2.1, gen := Nat.max i.gen s.2.2 }
    | none => SMap.put m s.1 { r := s.2.1, gen := s.2.2, enabled := false }) d.pens.recs

/-- The device after a main-domain reset, before the ROM runs (R326): Tor, Cirque and flash stay;
DRAM stays when it was held in self-refresh; what the firmware kept in DRAM or SRAM goes, and what it
journals or keeps in Cirque stays. -/
def Dev.mainReset (d : Dev) (keepDram : Bool) : Dev :=
  { d with
    regs := mainRegs d.regs
    mem := SMap.keep (fun a => (keepDram && isDram a) || isRetained 0xFF a) d.mem
    cores := Cores.cold
    gate := Gate.cold
    cirque := d.cirque.cutAll
    ox := Ox.cold
    cairn :=
      { Cairn.cold with
        logs := if keepDram then d.cairn.logs else []
        copied := d.cairn.copied
        initCount := d.cairn.initCount }
    cipher := { Cipher.cold with exports := d.cipher.exports }
    pens := { Pens.cold with recs := d.penNewest }
    host := { HostIf.cold with out := d.host.out }
    media :=
      { d.media with zt := [], lru := [], changed := [], refreshQ := [], jhold := false, fast := false }
    wr :=
      { Wr.cold with
        entries := if keepDram then d.wr.entries.filter (fun e => e.complete && !e.held) else []
        mirror := if keepDram then d.wr.mirror.filter (fun m => m.complete) else []
        nextId := d.wr.nextId
        fold := d.wr.fold
        groups := d.wr.groups
        flushArea := d.wr.flushArea
        flushPeer := d.wr.flushPeer
        flushValid := d.wr.flushValid
        flushRows := d.wr.flushRows
        flushWas := d.wr.flushWas
        foldRows := d.wr.foldRows
        foldFree := d.wr.foldFree
        foldGiven := d.wr.foldGiven
        cUf := d.wr.cUf }
    mules := { Mules.cold with remap := d.mules.remap, cls := d.mules.cls, parity := d.mules.parity }
    pair := { Pair.cold with split := d.pair.split, paired := d.pair.paired }
    dram := if keepDram then { Dram.cold with chk := d.dram.chk, raw := d.dram.raw, bad := d.dram.bad } else Dram.cold
    fw :=
      { Fw.cold with
        runSlot := d.fw.runSlot, commitNo := d.fw.commitNo, cfgSlot := d.fw.cfgSlot
        calValid := d.fw.calValid, calCommits := d.fw.calCommits }
    tor := { d.tor with latch := false, perstFlush := false, sleepReq := 0, ps := 0 }
    tick := 0 }

/-- The main domain loses its clocks or power: the last DEVSTAT stays mirrored in Tor (R366). -/
def Dev.mainOff (d : Dev) (p : Pwr) : Dev :=
  d.onTor (fun t => { t with devstat := BitVec.ofNat 32 d.devstat, mainOn := false, pwr := p })

/-- The wake source bit n acts in the present state (R342). -/
def Dev.wakes (d : Dev) (n : Nat) : Bool :=
  match d.tor.pwr with
  | .s1 | .s2 => decide (n ≠ 1 ∨ d.pins.perst) && d.bit A.PWR_WAKEEN n
  | .s3 => decide (n = 0 ∨ n = 1 ∨ n = 2)
  | _ => false

/-- Start a wake from a state (R343): TOR_STAT shows WAKING and the first step, attempt 1. S1 skips
the regulators; S1 and S2 skip the crystals while both sources have stayed qualified. -/
def Dev.startWake (d : Dev) (from_ : Pwr) : Dev :=
  let qual := d.bit A.CLK_STAT 7 && d.bit A.CLK_STAT 6
  let step := if from_ = .s1 then (if qual then 3 else 2) else 1
  let d := d.onTor (fun t => { t with pwr := .waking, saved := from_ })
  d.setReg A.TOR_STAT (2 * 4096 + step * 256 + 1 * 16)

/-- A wake source n (R342, R345): recorded and, where it acts, it starts the wake; during an entry it
waits (R337); during a wake it is only recorded. -/
def Dev.wakeSource (d : Dev) (n : Nat) : Dev :=
  match d.tor.pwr with
  | .s1 | .s2 | .s3 =>
    if d.wakes n then
      let d := d.setReg A.PWR_WAKESRC (2 ^ n)
      let d := if d.tor.pwr = .s3 ∧ n ≠ 1 then d.onPins (fun p => { p with wakeN := true }) else d
      d.startWake d.tor.pwr
    else d
  | .waking => d.setBit A.PWR_WAKESRC n true
  | .on =>
    if d.bit A.PWR_STAT 3 && d.bit A.PWR_WAKEEN n then
      (d.setBit A.PWR_STAT 2 true).setReg A.PWR_WAKESRC (2 ^ n)
    else d
  | _ => d

/-- WAKE_FAILED (R344). -/
def Dev.wakeFail (d : Dev) : Dev :=
  let d := d.mainOff .wakeFailed
  let d := d.setFld A.TOR_STAT 15 12 3
  let d := if d.tor.saved = .s1 then d else d.onPins (fun p => { p with gpio15 := false })
  let d := d.setBit A.TOR_FAULT 2 true
  (d.alert 2).alert 0

/-- Leave WAKE_FAILED: step 1 again with fresh counts (R344). -/
def Dev.retryWake (d : Dev) : Dev :=
  let d := d.onTor (fun t => { t with x32Run := 0, x25Run := 0 })
  let d := if d.tor.saved = .s1 then d else d.onPins (fun p => { p with gpio15 := true })
  let d := d.onTor (fun t => { t with pwr := .waking })
  d.setReg A.TOR_STAT (2 * 4096 + 1 * 256 + 1 * 16)

/-! Frames of Saddle (R249 to R251). -/

/-- Frame types that are kept until acknowledged (R250). -/
def Frame.replayed : Frame → Bool
  | .idle _ => false | .nak _ => false | .hb _ _ _ _ _ => false | .mack _ => false | _ => true

/-- Send a frame while the link is up; a replayed one takes the next FSEQ and stays in the replay
buffer until it is acknowledged. While the link retrains a replayed frame waits there (R248). -/
def Dev.sendFrame (d : Dev) (f : Frame) : Dev :=
  let link := d.fld A.PAIR_STAT 1 0
  if link = 2 ∨ (link = 3 ∧ f.replayed) then
    let d := if link = 2 then d.count (A.PAIR_CNT 0) 64 1 else d
    d.onPair (fun p =>
      { p with
        out := if link = 2 then p.out ++ [f] else p.out
        txSeq := if f.replayed then p.txSeq + 1 else p.txSeq
        replay := if f.replayed then p.replay ++ [(p.txSeq + 1, f)] else p.replay })
  else d

/-- The frames of the link that a kept frame stands for: an MDATA stands for the 17 of one LBA (R236, assumption 110). -/
def Frame.weight : Frame → Nat
  | .mdata _ => 17
  | _ => 1

/-- The TYPE byte of a frame; a NAK is an IDLE with its flag (R249, R250). -/
def Frame.type : Frame → Nat
  | .idle .. | .nak .. => 0x00
  | .hb .. => 0x01
  | .claim .. | .grant .. | .deny .. | .released .. | .hello .. | .keyx .. | .bceil _ | .flushDone | .restored .. | .phase .. | .wstate ..
    => 0x02
  | .mack .. => 0x03
  | .mhdr .. => 0x10
  | .mdata .. => 0x11
  | .mend .. => 0x12
  | .jrec .. => 0x20
  | .zdesc .. => 0x21
  | .cmap .. => 0x22
  | .bulk .. => 0x30

/-- The payload of the frames whose layout R250 gives whole, in their place of the 256 bytes. -/
def Frame.payload : Frame → Option (List Byte)
  | .idle .. | .nak .. => some []
  | .hb seq st occ ceil mseq => some (leBytes 4 seq ++ leBytes 2 st ++ leBytes 2 occ ++ leBytes 2 ceil ++ leBytes 8 mseq)
  | .mack m => some (leBytes 8 m)
  | .mend m => some (leBytes 8 m ++ [0xA5])
  | .jrec r => some (jBytes r)
  | .zdesc l => some (l.flatMap (fun e => leBytes 4 e.1 ++ leBytes 16 e.2.toNat))
  | .cmap l => some (l.flatMap (fun e => leBytes 5 e.1 ++ leBytes 5 e.2))
  | _ => none

/-- The 272 bytes of a frame on the link (R249): `fseq` its own number, or the next unused one; ACKSEQ is the last one received. -/
def Dev.frameBytes (d : Dev) (f : Frame) (fseq : Nat) : Option (List Byte) :=
  f.payload.map (fun p =>
    let flags := (match f with | .nak _ => 1 | _ => 0) + (if d.board.pairId then 2 else 0)
    let head := leBytes 1 f.type ++ leBytes 1 flags ++ leBytes 2 p.length ++ leBytes 4 fseq ++ leBytes 4 d.pair.rxSeq ++ p ++
      List.replicate (256 - p.length) 0
    head ++ leBytes 4 (crc32 head))

/-- The replay buffer of 256 KiB holds 963 frames (R251): while it is full the tee stalls (R236). -/
def Dev.replayFull (d : Dev) : Bool := decide (963 ≤ d.pair.replay.foldl (fun n f => n + f.2.weight) 0)

/-! The return of a fenced controller (R240). -/

/-- Commands of the device that have been admitted and not completed: writes that wait, entries not
acknowledged, reads, firmware-path commands, the Flush and Open Zone commands that wait, and creates that the peer performs. -/
def Dev.openCmds (d : Dev) : List Hdr :=
  (d.wr.waiting.map (·.h) ++ (d.wr.entries.filter (fun e => !e.acked)).map (·.h) ++
    d.host.reads.map (·.h) ++ d.host.fw.map (·.h) ++ d.wr.flushes.map (·.h) ++ d.wr.opens.map (·.1) ++ d.wr.zwait.map (·.2.1) ++
    d.pair.creates).dedup

/-- Complete a list of commands with one status. -/
def Dev.completeAll (d : Dev) (l : List Hdr) (st : Status) (dnr : Bool) : Dev :=
  d.each l (fun d h => d.complete h st dnr)

/-- A fenced live controller completes what it cannot finish with Pair Fenced, clears ALIVE and HB_EN,
discards its buffer and returns to INIT (fenced) (R29, R240). -/
def Dev.fencedReturn (d : Dev) : Dev :=
  let d := d.completeAll d.openCmds .pairFenced false
  let d := d.onHost (fun h => { h with reads := [], fw := [], strays := h.strays ++ h.reads.flatMap (·.ids) })
  let d := d.onWr (fun w => { w with entries := [], mirror := [], waiting := [], flushes := [], opens := [], zwait := [] })
  let d := ((d.setBit A.PAIR_CTL 4 false).setBit A.PAIR_CTL 3 false).onPair (fun p => { p with creates := [] })
  let d := d.onFw (fun f => { f with fencedInit := true })
  ((d.setMode .init).setRole .solo).setTransit false

/-- Meanings for commands of the main domain: nothing happens while it is off, stopped or in reset. -/
def mainDo (s : State) (f : Dev → Dev) : Host.Outcome State Fault Refusal :=
  if s.dev.tor.mainOn then .next { s with dev := f s.dev } else .next s

/-- A command still waits to be fetched, or for its Pen's tokens (R17 steps 1 and 2, R190). -/
def Dev.waitsTokens (d : Dev) (h : Hdr) : Bool :=
  d.pens.wait.any (fun c => c.h == h) ||
    d.host.sqs.any (fun q => decide (q.fn = h.fn.val) && decide (q.sqid = h.qid) && q.todo.any (fun e => decide (e.2.cid = h.cid)))

/-- Meanings for I/O commands: one that still waits to be fetched, or for its Pen's tokens, is not carried out (R17). DESIGN CHOICE
(assumption 132): such a row does nothing, and comes again after the admission; a row whose command no doorbell has brought stands for
one that has been fetched and has its tokens. -/
def ioDo (h : Hdr) (s : State) (f : Dev → Dev) : Host.Outcome State Fault Refusal :=
  mainDo s (fun d => if d.waitsTokens h then d else f d)

/-- Meanings for commands that act in every power state. -/
def aonDo (s : State) (f : Dev → Dev) : Host.Outcome State Fault Refusal :=
  .next { s with dev := f s.dev }

end Sys2Proof.Machine
end

