-- ==== Sys2Proof/Machine/LogArea.lean ====
section
/-! DEFINITION. The log area of the event recorder as bytes of DRAM (R292, R300): where each log's header, slots and age stamps
lie, what they read as, and what a store to them does. -/

namespace Sys2Proof.Machine

/-- The log with an ID. -/
def Dev.log (d : Dev) (l : Nat) : Log := SMap.get (fun _ => Log.empty) d.cairn.logs l

/-- Replace a log. -/
def Dev.setLog (d : Dev) (l : Nat) (g : Log) : Dev :=
  d.onCairn (fun c => { c with logs := SMap.set (fun _ => Log.empty) c.logs l g })

/-- The 32 bytes of a record (R292). -/
def recBytes (r : LogRec) : List Byte :=
  leBytes 8 r.time ++ leBytes 2 r.post.src.toNat ++ leBytes 2 r.post.code.toNat ++
    leBytes 1 r.post.sev.val ++ leBytes 2 r.rep ++ leBytes 16 r.post.param.toNat ++ leBytes 1 r.seq

/-- The record that 32 bytes spell in a slot, with its age stamp (R292); none where SEQ is 0. -/
def recOf (slot stamp : Nat) (b : List Byte) : Option LogRec :=
  let f := fun (i n : Nat) => ofLe ((b.drop i).take n)
  if f 31 1 = 0 then none
  else some
    { slot := slot, stamp := stamp, seq := f 31 1, time := f 0 8, rep := f 13 2
      post := { src := BitVec.ofNat 16 (f 8 2), code := BitVec.ofNat 16 (f 10 2), sev := ⟨f 12 1 % 8, by omega⟩,
                param := BitVec.ofNat 128 (f 15 16) } }

/-- The record in a slot of a log. -/
def Log.at (g : Log) (slot : Nat) : Option LogRec := g.recs.find? (fun r => r.slot == slot)

/-- What stands at an offset of the log area: byte k of a log's header, of one of its slots, or of the age stamp of a slot. -/
inductive LogAt where
  | head (l k : Nat)
  | slot (l s k : Nat)
  | stamp (l s k : Nat)
  deriving DecidableEq, Repr

/-- The log ID of a log number (R300). -/
def logIdOf (n : Nat) : Nat := if n = 0 then devLog else if n = 1 then pairLog else if n < 258 then n - 2 else 0x1100 + (n - 258)

/-- R300. -/
def logAt (o : Nat) : Option LogAt :=
  if o < 0x100000 then (if o / 64 < 4098 then some (.head (logIdOf (o / 64)) (o % 64)) else none)
  else if o < 0x300000 then some (.slot devLog ((o - 0x100000) / 32) (o % 32))
  else if o < 0x340000 then some (.slot pairLog ((o - 0x300000) / 32) (o % 32))
  else if o < 0x3C0000 then some (.stamp devLog ((o - 0x340000) / 8) (o % 8))
  else if o < 0x3D0000 then some (.stamp pairLog ((o - 0x3C0000) / 8) (o % 8))
  else if 0x400000 ≤ o ∧ o < 0x2400000 then some (.slot ((o - 0x400000) / 0x20000) (o % 0x20000 / 32) (o % 32))
  else if 0x2400000 ≤ o ∧ o < 0x3300000 then some (.slot (0x1100 + (o - 0x2400000) / 0x1000) (o % 0x1000 / 32) (o % 32))
  else none

/-- The offset of a slot in the log area (R300). -/
def slotOfs (l s : Nat) : Nat :=
  if l = devLog then 0x100000 + 32 * s
  else if l = pairLog then 0x300000 + 32 * s
  else if l < 256 then 0x400000 + l * 0x20000 + 32 * s
  else 0x2400000 + (l - 0x1100) * 0x1000 + 32 * s

/-- The 36 bytes of a log's header that the manual lays out (R300). -/
def headBytes (l : Nat) (g : Log) : List Byte :=
  leBytes 2 l ++ [if logOverwrites l then 1 else 0, 0] ++ leBytes 4 (logCap l) ++ leBytes 4 g.recs.length ++ leBytes 4 g.drops ++
    leBytes 8 g.cleared ++ leBytes 4 (if logOverwrites l then 0 else g.recs.length) ++
    leBytes 8 (if logOverwrites l then g.stamp else 0)

/-- The offset of an address in the log area, where it lies there. -/
def Dev.logOfs (d : Dev) (a : Nat) : Option Nat :=
  let b := (d.rd A.CAIRN_BASE).toNat
  if 0x1000000000 ≤ b ∧ b ≤ a ∧ a < b + 0x4000000 then some (a - b) else none

/-- The byte that a log gives an offset of the log area: none where no record or header field stands. -/
def Dev.logByte (d : Dev) (o : Nat) : Option Byte :=
  match logAt o with
  | some (.head l k) => (headBytes l (d.log l))[k]?
  | some (.slot l s k) => ((d.log l).at s).bind (fun r => (recBytes r)[k]?)
  | some (.stamp l s k) => ((d.log l).at s).bind (fun r => (leBytes 8 r.stamp)[k]?)
  | none => none

/-- The byte that the log area shows at an address. -/
def Dev.areaByte (d : Dev) (a : Nat) : Byte :=
  match (d.logOfs a).bind d.logByte with
  | some b => b
  | none => d.byte a

/-- A number of some bytes with one byte replaced. -/
def putByte (x n k : Nat) (b : Byte) : Nat := ofLe ((leBytes n x).set k b)

/-- A store to the log area (R300): to a header its counters, to a slot the record that its bytes then spell, to an age stamp that of
the slot's record. What is no record yet stands in memory. -/
def Dev.logStore (d : Dev) (a o : Nat) (b : Byte) : Dev :=
  match logAt o with
  | some (.head l k) =>
    let g := d.log l
    if 12 ≤ k ∧ k < 16 then d.setLog l { g with drops := putByte g.drops 4 (k - 12) b }
    else if 16 ≤ k ∧ k < 24 then d.setLog l { g with cleared := putByte g.cleared 8 (k - 16) b }
    else if 28 ≤ k ∧ k < 36 ∧ logOverwrites l then d.setLog l { g with stamp := putByte g.stamp 8 (k - 28) b }
    else d
  | some (.slot l s k) =>
    let g := d.log l
    let bytes := ((List.range 32).map (fun i => d.areaByte (a - k + i))).set k b
    let base := (d.rd A.CAIRN_BASE).toNat
    let stamp := match g.at s with
      | some r => r.stamp
      | none => ofLe (d.bytes (base + (if l = devLog then 0x340000 else 0x3C0000) + 8 * s) 8)
    let d := d.setBytes (a - k) bytes
    d.setLog l { g with recs := g.recs.filter (fun r => r.slot != s) ++ (recOf s stamp bytes).toList }
  | some (.stamp l s k) =>
    let g := d.log l
    (d.setByte a b).setLog l { g with recs := g.recs.map (fun r => if r.slot = s then { r with stamp := putByte r.stamp 8 k b } else r) }
  | none => d.setByte a b

end Sys2Proof.Machine
end

