-- ==== Sys2Proof/Machine/Regions.lean ====
section
/-! DEFINITION. What the firmware's own records hold in the regions of the array (R283): Pen records (R185), key exports (R212), the
copy of the device log (R297), the zone table checkpoint (R147) and the rows of the flush area (R148). -/

namespace Sys2Proof.Machine

/-- The 256 bytes of a Pen record (R185). -/
def penBytes (p : Nat) (i : PenInfo) : List Byte :=
  let r := i.r
  let body := [0x01, BitVec.ofNat 8 p, (if i.enabled then 1 else 0), 0] ++ leBytes 4 i.gen ++
    leBytes 32 r.func0.toNat ++ leBytes 32 r.func1.toNat ++ leBytes 2 r.ioq ++ leBytes 2 r.nsq ++
    leBytes 2 r.ksbase ++ leBytes 2 r.kscount ++ leBytes 2 r.cmbsh ++ leBytes 2 r.cmboff ++ leBytes 2 r.bufsh ++
    leBytes 2 r.hold ++ leBytes 2 r.morq ++ leBytes 2 r.marq ++ leBytes 4 r.convq ++ leBytes 4 r.tgt0 ++
    leBytes 4 r.tgt1 ++ leBytes 4 r.tgt2 ++ leBytes 4 r.tgt3 ++ leBytes 2 r.rdfloor ++ leBytes 2 r.wrfloor ++
    leBytes 2 r.rdceil ++ leBytes 2 r.wrceil ++ leBytes 1 r.weight ++ [0] ++ leBytes 2 r.c0allow ++
    List.replicate 124 0
  body ++ leBytes 4 (crc32 body) ++ [0, 0, 0, 0xA5]

/-- The first word of the Pen configuration region (R283). -/
def penBase : Nat := 0x98000

/-- The first word of a Pen's record. DESIGN CHOICE (assumption 134): a Pen has two places in its region, and each record takes the
one that the last did not. -/
def penPlace (p gen : Nat) : Nat := penBase + (2 * p + gen % 2) * 8

/-- The word of bytes at a word's place. -/
def wordOf (b : List Byte) (k : Nat) : BitVec 256 := BitVec.ofNat 256 (ofLe ((b.drop (32 * k)).take 32))

/-- What the Pen configuration region holds at a word: the newest record of each Pen (R185, R188), and from its 4,096th word on the exports, four
words to a slot (R212; DESIGN CHOICE, assumption 134). -/
def Dev.penWord (d : Dev) (w : Nat) : Option (BitVec 256) :=
  if w < penBase + 4096 then
    (d.penNewest.find? (fun e => decide (penPlace e.1 e.2.gen ≤ w) && decide (w < penPlace e.1 e.2.gen + 8))).map (fun e =>
      wordOf (penBytes e.1 e.2) (w - penPlace e.1 e.2.gen))
  else if (w - penBase) % 4 = 3 then none
  else (SMap.find d.cipher.exports ((w - penBase - 4096) / 4)).map (fun x => wordOf (leBytes 96 x.toNat) ((w - penBase) % 4))

/-- What the device event log region holds at a word: the copied records in their order (R297). -/
def Dev.eventWord (d : Dev) (w : Nat) : Option (BitVec 256) := (d.cairn.copied[w - 0xA8000]?).map (fun r => wordOf (recBytes r) 0)

/-- The first word of the rows of the flush area in the checkpoint region (R148, R283; assumption 127). -/
def flushBase : Nat := 0x180000

/-- What the checkpoint region holds at a word: the last zone table checkpoint, two descriptors to a word, in the half that it was
written to (R147, R283), and the rows of the flush area, four to a word (R148). -/
def Dev.ckptWord (d : Dev) (w : Nat) : Option (BitVec 256) :=
  let base := 0xC0000 + (if d.media.ckptHalf then 0x40000 else 0)
  if flushBase ≤ w ∧ w < flushBase + 4 then
    (if d.wr.flushRows = [] then none
     else some (wordOf (d.wr.flushRows.flatMap (fun r => leBytes 8 ((if r.seven then 2 ^ 23 else 0) + r.group * 16384 + r.lbn))) (w - flushBase)))
  else if d.media.ckptSeq = 0 ∨ w < base ∨ base + 0x40000 ≤ w then none
  else
    let zd := fun (i : Nat) => (SMap.get (fun _ => (0 : BitVec 128)) d.media.ckptZt i).toNat
    some (BitVec.ofNat 256 (zd (2 * (w - base)) + zd (2 * (w - base) + 1) * 2 ^ 128))

/-- What the firmware's records hold at a word of the array. -/
def Dev.regionWord (d : Dev) (w : Nat) : Option (BitVec 256) :=
  if 0x200000 ≤ w then ringWord d.media.journal w
  else if penBase ≤ w ∧ w < penBase + 0x10000 then d.penWord w
  else if 0xA8000 ≤ w ∧ w < 0xC0000 then d.eventWord w
  else if 0xC0000 ≤ w ∧ w < 0x200000 then d.ckptWord w
  else none

end Sys2Proof.Machine
end

