-- ==== Sys2Proof/Machine/SymbolCode.lean ====
section
/-! DEFINITION. The symbol code of DRAM (R166, R167): RS(80,64) over GF(2^8) with the polynomial 0x11D, over 64 data bytes, 16
check bytes and five virtual symbols of the burst's address. DESIGN CHOICE (assumption 5): R166 gives the field, the length and
the symbols, and neither the roots of the generator nor the order of the symbols; the roots are the powers 0 to 15 of the
field's element 2, check byte k stands at degree k, data byte b at degree 16 + b, and address byte i at degree 80 + i. -/

namespace Sys2Proof.Machine

/-- Byte k of a word. -/
def byteAt {n : Nat} (x : BitVec n) (k : Nat) : Nat := x.toNat / 2 ^ (8 * k) % 256

/-- A symbol times the field's element 2. -/
def symDouble (a : Nat) : Nat := if a < 128 then 2 * a else (2 * a) ^^^ 0x11D

/-- The product of two symbols, over the low bits of the second. -/
def gfMulBits : Nat → Nat → Nat → Nat
  | 0, _, _ => 0
  | k + 1, a, b => (if b % 2 = 1 then a else 0) ^^^ gfMulBits k (symDouble a) (b / 2)

def gfMul (a b : Nat) : Nat := if a = 0 ∨ b = 0 then 0 else gfMulBits 8 a b

def gfPow (a : Nat) : Nat → Nat
  | 0 => 1
  | n + 1 => gfMul a (gfPow a n)

/-- The inverse of a symbol that is not 0. -/
def gfInv (a : Nat) : Nat := gfPow a 254

/-- Power n of the element 2. -/
def gfExp : Nat → Nat
  | 0 => 1
  | n + 1 => symDouble (gfExp n)

/-- The value of a polynomial, lowest degree first. -/
def gfEval (p : List Nat) (x : Nat) : Nat := p.foldr (fun c v => c ^^^ gfMul x v) 0

/-- A polynomial times 1 + r x. -/
def gfTimes (p : List Nat) (r : Nat) : List Nat := (p ++ [0]).zipWith (· ^^^ ·) (0 :: p.map (gfMul r))

/-- The generator without its highest term, from the highest degree down: the product of x + 2^j for j from 0 to 15. -/
def rsGen : List Nat := ((List.range 16).foldl (fun p j => gfTimes p (gfExp j)) [1]).drop 1

/-- One symbol more into the division by the generator: the remainder from the highest degree down. -/
def rsStep (r : List Nat) (s : Nat) : List Nat :=
  let f := r.headD 0 ^^^ s
  (r.drop 1 ++ [0]).zipWith (· ^^^ ·) (rsGen.map (gfMul f))

/-- The symbols that the code covers, lowest degree first, without the check symbols. -/
def rsMessage (a : Nat) (x : BitVec 512) : List Nat :=
  (List.range 64).map (byteAt x) ++ (List.range 5).map (fun i => a / 2 ^ (8 * i) % 256)

/-- A number from its bytes, lowest first. -/
def ofSymbols (l : List Nat) : Nat := l.foldr (fun b n => b % 256 + 256 * n) 0

/-- The 16 check bytes of a burst at an address (R166). -/
def symbolCheck (a : Nat) (x : BitVec 512) : BitVec 128 :=
  BitVec.ofNat 128 (ofSymbols ((rsMessage a x).reverse.foldl rsStep (List.replicate 16 0)).reverse)

/-- The 16 syndromes of a burst as it is read. -/
def syndromes (a : Nat) (x : BitVec 512) (c : BitVec 128) : List Nat :=
  (List.range 16).map (fun j => gfEval ((List.range 16).map (byteAt c) ++ rsMessage a x) (gfExp j))

/-- The degrees of a device's eight symbols (R166). -/
def deviceSymbols (v : Nat) : List Nat := (List.range 8).map (fun i => if v < 8 then 16 + (8 * i + v) else 2 * i + (v - 8))

/-- The first 16 terms of a product of polynomials. -/
def gfProduct (p q : List Nat) : List Nat :=
  (List.range 16).map (fun n => (List.range (n + 1)).foldl (fun v i => v ^^^ gfMul (p.getD i 0) (q.getD (n - i) 0)) 0)

/-- What a data byte loses or gains by an error at a degree. -/
def dataError (p e : Nat) : Nat := if 16 ≤ p ∧ p < 80 then e * 2 ^ (8 * (p - 16)) else 0

/-- The trial of R167 with one device taken as erased: accepted where the eight check symbols that remain show no further error;
the answer is the corrected data. -/
def symbolTrial (a v : Nat) (x : BitVec 512) (c : BitVec 128) : Option (BitVec 512) :=
  let ps := deviceSymbols v
  let loc := ps.foldl (fun p k => gfTimes p (gfExp k)) [1]
  let ev := gfProduct (syndromes a x c) loc
  if (ev.drop 8).all (· == 0) then
    let err := fun p =>
      let y := gfInv (gfExp p)
      let den := (ps.filter (· != p)).foldl (fun m k => gfMul m (1 ^^^ gfMul (gfExp k) y)) 1
      gfMul (gfEval (ev.take 8) y) (gfInv den)
    some (x ^^^ BitVec.ofNat 512 (ps.foldl (fun n p => n + dataError p (err p)) 0))
  else none

/-- What DRAMC finds in a burst (R167). -/
inductive BurstRead where
  | clean (x : BitVec 512)
  | corr (dev : Nat) (x : BitVec 512)
  | unc
  deriving DecidableEq, Repr

/-- The decoding of a burst by its data and check bytes (R167). -/
def decodeBurst (a : Nat) (x : BitVec 512) (c : BitVec 128) : BurstRead :=
  if (syndromes a x c).all (· == 0) then .clean x
  else match (List.range 10).filterMap (fun v => (symbolTrial a v x c).map (fun z => (v, z))) with
    | [(v, z)] => .corr v z
    | _ => .unc

end Sys2Proof.Machine
end

