-- ==== Sys2Proof/Machine/Bus.lean ====
section
/-! DEFINITION. Internal accesses (R19 to R25): which bus error an access meets, bytes read and written over the
address map, and the symbol code of DRAM (R166 to R168). -/

namespace Sys2Proof.Machine

/-! The DRAM symbol code. -/

/-- The 64 bytes at an address as one word. -/
def Dev.burstMem (d : Dev) (a : Nat) : BitVec 512 := BitVec.ofNat 512 (ofLe (d.bytes a 64))

/-- What a read of a burst finds (R167). A burst that the test port has not changed carries its own check bytes. -/
def Dev.burstAt (d : Dev) (a : Nat) : BurstRead :=
  if a ∈ d.dram.bad then .unc
  else match SMap.find d.dram.raw a with
    | none => .clean (d.burstMem a)
    | some x => decodeBurst a x (SMap.get (fun _ => 0) d.dram.chk a)

/-- What a read finds where devices fail in the burst beside (R167): one device in all is corrected, two are not. DESIGN CHOICE
(assumption 149): three or more, which the symbol code need not detect, read as uncorrectable. -/
def Dev.burstWith (d : Dev) (a : Nat) (devs : List (Fin 10)) : BurstRead :=
  match d.burstAt a, devs.dedup with
  | r, [] => r
  | .clean x, [v] => .corr v.val x
  | .corr v x, [w] => if v = w.val then .corr v x else .unc
  | _, _ => .unc

/-- The test burst is reserved (R171). -/
def Dev.armed (d : Dev) (a : Nat) : Bool := d.bit A.DRAMC_ECCTEST 4 && decide ((d.rd A.DRAMC_TESTADDR).toNat = a)

/-- A correction attributed to a device (R168): the counter of the device, and past 1,024 within one pass of Hen
the firmware's warning. -/
def Dev.corrected (d : Dev) (a v : Nat) : Dev :=
  let i := 10 * (Config.dramLane a % 8) + v
  let n := SMap.get (fun _ => 0) d.dram.passCorr i + 1
  let d := (d.countSat (A.DRAMC_DEVCORR i) 32 1).onDram (fun m =>
    { m with passCorr := SMap.set (fun _ => 0) m.passCorr i n })
  if n = 1025 then (d.fwPost (0x0600 + i / 20) (Config.evCode 16) 4 i).warnAgain 2 else d

/-- An access that ends with UNCORR (R171): its address is latched where the latch is free; accesses to the armed
test burst are not counted. -/
def Dev.dramUnc (d : Dev) (a : Nat) : Dev :=
  let d := d.setBit A.DRAMC_ECCSTAT 0 true
  let d := if d.bit A.DRAMC_UNC_ADDR 63 then d else d.setReg A.DRAMC_UNC_ADDR (2 ^ 63 + a)
  if d.armed a then d else d.count A.DRAMC_UNC_CNT 64 1

/-- A read of a burst by a requester counts what the decoding found. -/
def Dev.dramRead (d : Dev) (a : Nat) (devs : List (Fin 10) := []) : Dev :=
  match d.burstWith a devs with
  | .clean _ => d
  | .corr v _ => d.corrected a v
  | .unc => d.dramUnc a

/-- A write of a burst makes it good again. -/
def Dev.dramFresh (d : Dev) (a : Nat) : Dev :=
  d.onDram (fun m => { m with chk := SMap.del m.chk a, raw := SMap.del m.raw a, bad := m.bad.filter (· != a) })

/-! Bytes over the address map. -/

/-- A zone descriptor that nothing has written. -/
def zt0 (_ : Nat) : BitVec 128 := 0


def isZt (a : Nat) : Bool := decide (0x30000000 ≤ a) && decide (a < 0x30800000)
def isWindow (a : Nat) : Bool := decide (0x0100000000 ≤ a) && decide (a < 0x0108000000)

/-- What a word of the array is programmed with: by a command or by the firmware, or as part of one of its records
(R145, R283). -/
def Dev.cqHeld (d : Dev) (w : Nat) : Option (BitVec 256) :=
  match SMap.find d.cirque.words w with
  | some x => some x
  | none => d.regionWord w

/-- The Cirque word at a place: all ones where nothing is programmed (R277). -/
def Dev.cqWord (d : Dev) (w : Nat) : BitVec 256 := (d.cqHeld w).getD (BitVec.allOnes 256)

/-- A record of the journal counts: its words read as they were programmed (R145), in no sector whose erase was cut. -/
def Dev.recordCounts (d : Dev) (r : JRec) : Bool :=
  !d.cirque.cut.contains (ringSector (r.loc / 128)) && recordGood ((List.range (jLen r)).map (fun k => d.cqWord (ringAddr r.loc + k)))

/-- The byte that a burst gives its reader. -/
def Dev.burstByte (d : Dev) (a : Nat) : Byte :=
  match d.burstAt (a / 64 * 64) with
  | .clean x => BitVec.ofNat 8 (byteAt x (a % 64))
  | .corr _ x => BitVec.ofNat 8 (byteAt x (a % 64))
  | .unc => 0

/-- The byte at an address, whoever reads it; the log area of DRAM shows the logs (R300). -/
def Dev.loadByte (d : Dev) (a : Nat) : Byte :=
  if a < 0x40000 then Config.romByte a
  else if isZt a then BitVec.ofNat 8 (byteAt (SMap.get zt0 d.media.zt ((a - 0x30000000) / 16)) (a % 16))
  else if isWindow a then BitVec.ofNat 8 (byteAt (d.cqWord ((a - 0x0100000000) / 32)) (a % 32))
  else if isDram a ∧ (SMap.find d.dram.raw (a / 64 * 64)).isSome then d.burstByte a
  else d.areaByte a

/-- Byte k of a word replaced. -/
def setByteAt {n : Nat} (x : BitVec n) (k : Nat) (b : Byte) : BitVec n :=
  BitVec.ofNat n (x.toNat - byteAt x k * 2 ^ (8 * k) + b.toNat * 2 ^ (8 * k))

/-- Store a byte: Col's zone table SRAM is the live zone table, the log area the live logs. DESIGN CHOICE (assumption 149): a store to a part
of an uncorrectable or raw-written burst makes all of it good, with its other bytes as they stood before the burst was spoilt. -/
def Dev.storeByte (d : Dev) (a : Nat) (b : Byte) : Dev :=
  if isZt a then
    let i := (a - 0x30000000) / 16
    d.onMedia (fun m => { m with zt := SMap.set zt0 m.zt i (setByteAt (SMap.get zt0 m.zt i) (a % 16) b) })
  else if isDram a ∧ ((SMap.find d.dram.raw (a / 64 * 64)).isSome ∨ a / 64 * 64 ∈ d.dram.bad) then
    (d.dramFresh (a / 64 * 64)).setByte a b
  else match d.logOfs a with
    | some o => d.logStore a o b
    | none => d.setByte a b

/-- The bytes [a, a + n). -/
def Dev.loadBytes (d : Dev) (a n : Nat) : List Byte := (List.range n).map (fun i => d.loadByte (a + i))

/-- Store bytes upward. -/
def Dev.storeBytes (d : Dev) (a : Nat) : List Byte → Dev
  | [] => d
  | b :: t => (d.storeByte a b).storeBytes (a + 1) t

/-! Bus errors of an access. -/

/-- The clock of the block that serves an address is off (R23, R325): of a register, and of the memory that a block
owns (R323). -/
def Dev.gatedAt (d : Dev) (a : Nat) : Bool :=
  if periBase ≤ a ∧ a < periBase + 0x1000000 then
    match gateBit (blockOf a) with
    | some n => !d.bit A.CLK_ENSTAT (16 + n)
    | none => if 16 ≤ blockOf a ∧ blockOf a < 80 then !d.bit A.CLK_ON_MULE (blockOf a - 16) else false
  else if isWindow a then !d.bit A.CLK_ENSTAT 18
  else if isZt a then !d.bit A.CLK_ENSTAT 22
  else if 0x40000000 ≤ a ∧ a < 0x42000000 then !d.bit A.CLK_ENSTAT 25
  else if isDram a then !d.bit A.CLK_ENSTAT 19
  else false

/-- The cipher core whose lock an address needs (R213): JOB to CTXBUF of a core. -/
def cipherCoreOf (a : Nat) : Option Nat :=
  let o := a - A.CIPHER_CORE_CTL 0
  if A.CIPHER_CORE_CTL 0 ≤ a ∧ o < 24 * 128 ∧ 0x0C ≤ o % 128 then some (o / 128) else none

/-- The owner code of a requester. -/
def ownerCode (who : Reqr) : Nat :=
  match who with | .core n _ => n.val + 1 | _ => 0

/-- The core is owned by another user (R213). -/
def Dev.lockedOut (d : Dev) (c : Nat) (who : Reqr) : Bool := decide (d.fld (A.CIPHER_LOCK c) 6 0 ≠ ownerCode who)

/-- The sector of a Cirque word is under an erase, running or suspended (R281). -/
def Dev.erasing (d : Dev) (sector : Nat) : Bool :=
  decide (d.fld (A.CIRQUE_ESTAT (sector / 4096)) 1 0 ≠ 0) &&
    decide (SMap.find d.cirque.esec (sector / 4096) = some sector)

/-- A control core, the requester that has caches (R165). -/
def isCore : Reqr → Bool
  | .core _ _ => true
  | _ => false

/-- The devices that fail in the bursts that an access reads. -/
def hitDevs : Hit → List (Fin 10)
  | .devs l => l
  | _ => []

/-- The bus error of an access, by the precedence of R23, with what the access meets on its way. Ox may write CIRQUE_PFIFO
(R22). -/
def Dev.accessErr (d : Dev) (who : Reqr) (a : Nat) (write : Bool) (hit : Hit := .none) : Option BusErr :=
  let port := match who with | .ox _ => write && decide (a = A.CIRQUE_PFIFO) | _ => false
  if !d.decodes a then some .decode
  else if protFails who a write && !port then some .prot
  else if d.gatedAt a then some .gated
  else if hit = .xreset then some .xreset
  else if (match cipherCoreOf a with | some c => d.lockedOut c who | none => false) then some .locked
  else if isWindow a && d.erasing ((a - 0x0100000000) / 4096) then some .erasing
  else if isDram a && decide (d.burstWith (a / 64 * 64) (hitDevs hit) = .unc) && !write then some .uncorr
  else if hit = .unc ∨ hit = .fabric ∨ (hit = .cache true ∧ isCore who = true) then some .uncorr
  else none

/-- The first address of a range whose access fails, and how. -/
def Dev.rangeErr (d : Dev) (who : Reqr) (a n : Nat) (write : Bool) (hit : Hit := .none) : Option (BusErr × Nat) :=
  (List.range n).findSome? (fun i => (d.accessErr who (a + i) write hit).map (fun e => (e, a + i)))

/-- The place in log page C2h of an on-chip memory's corrected errors; those that its code cannot correct follow (R165,
R272). -/
def sramCount (a : Nat) : Option Nat :=
  if 0x10000000 ≤ a ∧ a < 0x11000000 then some 8
  else if 0x20000000 ≤ a ∧ a < 0x20200000 then some 24
  else if isZt a then some 40
  else if 0x40000000 ≤ a ∧ a < 0x42000000 then some 56
  else none

/-- A corrected error of on-chip memory is counted; what it wrote back is what stood there (R165). -/
def Dev.sramCorr (d : Dev) (a : Nat) (hit : Hit) : Dev :=
  match sramCount a with
  | some k => if hit = .corr then d.count2 k 1 else d
  | none => d

/-- An error that no code corrects is counted: of on-chip memory, or of the fabric's parity at a register (R165). -/
def Dev.uncCount (d : Dev) (a : Nat) : Dev :=
  match sramCount a with
  | some k => d.count2 (k + 8) 1
  | none => if periBase ≤ a ∧ a < periBase + 0x1000000 then d.count2 128 1 else d

/-- The bursts of a range are read: corrections are counted. -/
def Dev.touchRange (d : Dev) (a n : Nat) (hit : Hit := .none) : Dev :=
  (d.each (((List.range n).map (fun i => (a + i) / 64 * 64)).dedup.filter (fun b => isDram b))
    (fun d b => d.dramRead b (hitDevs hit))).sramCorr a hit

/-- A line of a core's caches fails parity (R165): it is counted, and a clean one is fetched again. -/
def Dev.cacheCount (d : Dev) (who : Reqr) (hit : Hit) : Dev :=
  match hit with
  | .cache _ => if isCore who then d.count2 120 1 else d
  | _ => d

/-- An UNCORR is counted where it was found (R165, R171): the fabric, a cache, DRAM or on-chip memory. -/
def Dev.uncorrCount (d : Dev) (who : Reqr) (a : Nat) (hit : Hit) : Dev :=
  match hit with
  | .fabric => d.count2 128 1
  | .cache _ => d.cacheCount who hit
  | _ => if isDram a then d.dramUnc (a / 64 * 64) else d.uncCount a

/-- An access ends with a bus error (R23, R24): the counters of its kind and the record and effect of the error. -/
def Dev.failAccess (d : Dev) (who : Reqr) (a : Nat) (write : Bool) (e : BusErr) (hit : Hit := .none) : Dev :=
  let d := if e = .locked then d.count A.CIPHER_CNT_LOCKED 64 1 else d
  let d := if e = .uncorr then d.uncorrCount who a hit else d
  d.busErr who a write e

/-- Meanings for the write of a register that has a row of its own, by M-mode code on a core: where the access
meets a bus error, that is all it does (R23, R325). -/
def busDo (n : CoreN) (a : Nat) (s : State) (f : Dev → Dev) : Host.Outcome State Fault Refusal :=
  mainDo s (fun d => match d.accessErr (.core n true) a true with
    | some e => d.failAccess (.core n true) a true e
    | none => f d)

/-- The same by core 0. -/
def regDo (a : Nat) (s : State) (f : Dev → Dev) : Host.Outcome State Fault Refusal := busDo 0 a s f

end Sys2Proof.Machine
end

