-- ==== Sys2Proof/Machine/CairnRec.lean ====
section
/-! DEFINITION. The Cairn event recorder (R292 to R303): slot writes, merging, overwriting, clearing,
the post registers and the enable. -/

namespace Sys2Proof.Machine

/-- The next sequence value: 0x01 to 0xFF, never 0x00 (R293). -/
def nextSeq (s : Nat) : Nat := if 255 ≤ s then 1 else s + 1

/-- The slot of the log's last record, when a post merges into it (R294). -/
def Log.mergeSlot (g : Log) (e : FifoEnt) : Option LogRec :=
  match g.last with
  | none => none
  | some s =>
    match g.at s with
    | none => none
    | some r =>
      if r.post = e.post ∧ e.time ≤ g.occ + 1000000000 ∧ r.rep < 65535 then some r else none

/-- The slot that a full log gives up: its oldest record of equal or lower severity (R296). -/
def Log.victim (g : Log) (sev : Nat) : Option LogRec :=
  (g.recs.filter (fun r => decide (r.post.sev.val ≤ sev))).foldl
    (fun b r => match b with
      | none => some r
      | some x => if r.stamp < x.stamp then some r else some x) none

/-- The new record of a post in a slot. -/
def Log.mkRec (g : Log) (slot : Nat) (e : FifoEnt) (rep : Nat) : LogRec :=
  { slot := slot, stamp := g.stamp, seq := nextSeq g.seq, time := e.time, post := e.post, rep := rep }

/-- A log after a new record in a slot: what stood there goes (R293, R296). -/
def Log.place (g : Log) (slot : Nat) (e : FifoEnt) (rep : Nat) : Log :=
  { g with
    recs := g.recs.filter (fun r => r.slot != slot) ++ [g.mkRec slot e rep]
    seq := nextSeq g.seq, stamp := g.stamp + 1, last := some slot, occ := e.time }

/-- A log after a new record (R296): added, placed over a record, or dropped. -/
def Log.add (l : Nat) (g : Log) (e : FifoEnt) (rep : Nat) : Log :=
  if g.recs.length < logCap l then g.place g.recs.length e rep
  else if logOverwrites l then
    match g.victim e.post.sev.val with
    | some r => g.place r.slot e rep
    | none => { g with drops := g.drops + 1 }
  else { g with drops := g.drops + 1 }

/-- A log after a post (R293, R294, R296): merged into the last record, or a new record. -/
def Log.write (l : Nat) (g : Log) (e : FifoEnt) : Log :=
  match g.mergeSlot e with
  | some r =>
    { g with
      recs := g.recs.map (fun x =>
        if x.slot = r.slot then { x with rep := x.rep + 1, seq := nextSeq g.seq } else x)
      seq := nextSeq g.seq, occ := e.time }
  | none => Log.add l g e 0

/-- The records of a log, oldest first: by stamp where it overwrites, by slot where it stops (R296). -/
def Log.ordered (l : Nat) (g : Log) : List LogRec :=
  if logOverwrites l then g.recs.insertionSort (fun a b => a.stamp ≤ b.stamp)
  else g.recs.insertionSort (fun a b => a.slot ≤ b.slot)

/-- The records that the device event log region holds (R283). -/
def eventCap : Nat := 98304

/-- The firmware copies the open record of the device log to Cirque (R297); once the region is full it holds the live log instead, oldest
first. -/
def Dev.closeRecord (d : Dev) : Dev :=
  match (d.log devLog).last with
  | none => d
  | some s =>
    match (d.log devLog).at s with
    | none => d
    | some r =>
      let d := d.setLog devLog { d.log devLog with last := none }
      d.onCairn (fun c =>
        { c with copied := if c.copied.length < eventCap then c.copied ++ [r] else Log.ordered devLog (d.log devLog) })

/-- A post reaches one log: the device log's record before it is closed, a device record of severity 5 or above that is added
alerts (R370), and a pair record that is added goes to the peer (R297). -/
def Dev.writeLog (d : Dev) (e : FifoEnt) (l : Nat) : Dev :=
  let merges := ((d.log l).mergeSlot e).isSome
  let drops := (d.log l).drops
  let d := if decide (l = devLog) && !merges then d.closeRecord else d
  let d := d.setLog l (Log.write l (d.log l) e)
  if merges || decide ((d.log l).drops ≠ drops) then d
  else if l = devLog ∧ 5 ≤ e.post.sev.val then d.alert 3
  else if l = pairLog then d.sendFrame (.bulk 0x0C (.pairRec e.post e.time 0))
  else d

/-- A slot write: the oldest post of the FIFO goes to each log that it names; a waiting firmware post
takes the place; a drain that is over lets a held enable in (R293, R295, R302). -/
def Dev.slotWrite (d : Dev) : Dev :=
  match d.cairn.fifo with
  | [] => d
  | e :: r =>
    let d := d.onCairn (fun c => { c with fifo := r })
    let d := d.each (e.logs.filter logExists) (fun d l => d.writeLog e l)
    let d := match d.cairn.wait with
      | [] => d
      | w :: ws => d.onCairn (fun c => { c with fifo := c.fifo ++ [{ w with time := d.ns }], wait := ws })
    if d.bit A.CAIRN_STAT 1 && d.cairn.fifo.isEmpty then
      let d := d.setBit A.CAIRN_STAT 1 false
      if d.cairn.heldEn then
        (d.setBit A.CAIRN_STAT 0 true).onCairn (fun c => { c with heldEn := false })
      else d
    else d

def execCairnSlotWrite (s : State) : Host.Outcome State Fault Refusal := mainDo s Dev.slotWrite

/-- GO of CAIRN_POST_CMD: the post registers take their fields; a post waits while the FIFO is full,
and a further one is ignored while BUSY (R302, R303). -/
def Dev.postGo (d : Dev) (hdr p0 p1 : W64) (cmd : W32) : Dev :=
  let d := d.setReg A.CAIRN_POST_HDR (fldOf hdr 34 0)
  let d := (d.wr64 (A.CAIRN_POST_PAR 0) p0).wr64 (A.CAIRN_POST_PAR 1) p1
  let d := d.setReg A.CAIRN_POST_CMD (cmd.toNat &&& 0xEFF)
  let logs := (if cmd.getLsbD 9 then [cmd.toNat % 256] else []) ++
    (if cmd.getLsbD 10 then [devLog] else []) ++ (if cmd.getLsbD 11 then [pairLog] else [])
  if cmd.getLsbD 31 && d.cairn.wait.isEmpty then
    d.fwPostTo logs (mkPost (fldOf hdr 15 0) (fldOf hdr 31 16) (fldOf hdr 34 32) (p0.toNat + p1.toNat * 2 ^ 64))
  else d

def execCairnPostGo (hdr p0 p1 : W64) (cmd : W32) (core : CoreN) (s : State) :
    Host.Outcome State Fault Refusal :=
  busDo core A.CAIRN_POST_CMD s (fun d => d.postGo hdr p0 p1 cmd)

/-- A post by a hardware block: it names the device log, and for a function its Pen's log (R295). -/
def execHardwarePost (p : Post) (pen : Option PenN) (s : State) : Host.Outcome State Fault Refusal :=
  mainDo s (fun d => d.hwPostTo (devLog :: (match pen with | some n => [penLog n.val] | none => [])) p)

/-- A clear (R299): the log is emptied, CLEARED is now, DROPS stays, and one clear record follows. -/
def Dev.clearLog (d : Dev) (l who : Nat) : Dev :=
  if logExists l then
    let g := d.log l
    let e : FifoEnt :=
      { post := mkPost 0x0FFE 0x0010 2 (who % 2 ^ 24 + g.recs.length * 2 ^ 24), time := d.ns, logs := [] }
    let d := d.setLog l (({ g with recs := [], cleared := d.ns, last := none } : Log).place 0 e 0)
    if l = devLog then d.onCairn (fun c => { c with copied := [] }) else d
  else d

/-- GO of CAIRN_CLR (R302). -/
def execCairnClrGo (log : W16) (who : BitVec 24) (s : State) : Host.Outcome State Fault Refusal :=
  regDo A.CAIRN_CLR s (fun d => ((d.setReg A.CAIRN_CLR_WHO who.toNat).setReg A.CAIRN_CLR log.toNat).clearLog
    log.toNat who.toNat)

/-- CAIRN_CTL.EN (R302): a clear with posts queued drains, and an enable set meanwhile is held. -/
def Dev.cairnEn (d : Dev) (en : Bool) : Dev :=
  let d := d.setBit A.CAIRN_CTL 0 en
  if en then
    if d.bit A.CAIRN_STAT 1 then d.onCairn (fun c => { c with heldEn := true })
    else d.setBit A.CAIRN_STAT 0 true
  else
    let d := d.onCairn (fun c => { c with heldEn := false })
    let drain := !d.cairn.fifo.isEmpty
    (d.setBit A.CAIRN_STAT 0 false).setBit A.CAIRN_STAT 1 drain

def execCairnCtlEnWrite (en : Bool) (s : State) : Host.Outcome State Fault Refusal :=
  regDo A.CAIRN_CTL s (fun d => d.cairnEn en)

/-- 1 s without a repeat closes the open device-log record (R297). -/
def execDeviceLogRecordClose (s : State) : Host.Outcome State Fault Refusal := mainDo s Dev.closeRecord

/-- The rebuild of the device log at INIT from its Cirque copy (R297): in program order, with the
original TIME and REPEAT and fresh age stamps; then the enable and the INIT boundary record. -/
def Dev.rebuildLog (d : Dev) : Dev :=
  let g := d.cairn.copied.foldl (fun (g : Log) r =>
    let e : FifoEnt := { post := r.post, time := r.time, logs := [] }
    if g.recs.length < logCap devLog then g.place g.recs.length e r.rep
    else match g.victim r.post.sev.val with
      | some v => g.place v.slot e r.rep
      | none => { g with drops := g.drops + 1 }) Log.empty
  let d := d.setLog devLog { g with last := none }
  let d := d.cairnEn true
  let d := d.onCairn (fun c => { c with initCount := c.initCount + 1 })
  d.fwPost 0x0FFE 0x0011 4 d.cairn.initCount

/-- The logs at INIT (R29, R297): those that DRAM retained stay only if its region seals check. -/
def Dev.loadLogs (d : Dev) (sealsOk : Bool) : Dev :=
  (if sealsOk then d else d.onCairn (fun c => { c with logs := [] })).rebuildLog

end Sys2Proof.Machine
end

