-- ==== Sys2Proof/Machine/Operands.lean ====
section
/-! DEFINITION. The forms that operands take: zone geometry and placement, zone descriptors, namespaces
and LBA ranges, stored sectors with their seals and protection information. -/

namespace Sys2Proof.Machine

/-! Zone geometry (R35). -/

def dataMembers (seven : Bool) : Nat := if seven then 7 else 14
def members (seven : Bool) : Nat := if seven then 8 else 16
def groupLbas (seven : Bool) : Nat := if seven then 448 else 896
def zcap (seven : Bool) : Nat := if seven then 114688 else 229376
def zsze (seven : Bool) : Nat := if seven then 131072 else 262144

/-- Where the LBA at an offset of a zone lies (R39). -/
structure Loc where
  row : Nat
  slot : Nat
  pos : Nat
  plane : Nat
  cw : Nat
  deriving DecidableEq, Repr

/-- R39. -/
def locate (seven : Bool) (o : Nat) : Loc :=
  let u := o / 16
  let k := dataMembers seven
  let row := u / k
  let slot := u % k
  let pos := if seven then (row % 8 + 1 + slot) % 8 else ((2 * row) % 16 + 2 + slot) % 16
  { row := row, slot := slot, pos := pos, plane := o % 16 / 4, cw := o % 4 }

/-- The position of parity P in a row (R39). -/
def parityPos (seven : Bool) (row : Nat) : Nat := if seven then row % 8 else (2 * row) % 16

/-- The member LUN of a group and position: channel, target, LUN of the target (R37). -/
def memberOf (seven : Bool) (T g pos : Nat) : Nat × Nat × Nat :=
  if seven then (8 * (g % 8) + pos, g / 8 % T, g / (8 * T))
  else (16 * (g % 4) + pos, g / 4 % T, g / (4 * T))

/-- The number of groups (R37). -/
def groupCount (seven : Bool) (T L : Nat) : Nat := if seven then 8 * T * L else 4 * T * L

/-- The targets and LUNs per target of a channel (R37). -/
def Dev.geomOf (d : Dev) (ch : Nat) : Nat × Nat :=
  match d.board.oddChans.find? (fun o => o.1 == ch) with
  | some o => (o.2.1, o.2.2)
  | none => (d.board.targets, d.board.luns)

/-- The first channel of a group. -/
def firstChan (seven : Bool) (g : Nat) : Nat := if seven then 8 * (g % 8) else 16 * (g % 4)

/-- The channels of a group. -/
def groupChannels (seven : Bool) (g : Nat) : List Nat :=
  if seven then (List.range 8).map (fun p => 8 * (g % 8) + p)
  else (List.range 16).map (fun p => 16 * (g % 4) + p)

/-- The controller owns every channel of a group (R37, R38). -/
def Dev.ownsGroup (d : Dev) (seven : Bool) (g : Nat) : Bool := (groupChannels seven g).all d.owned

/-- The key of a flash sector: channel, LUN, physical block, page, plane, codeword. -/
def flashKey (ch lun lbn page plane cw : Nat) : Nat :=
  ((((ch * 32 + lun) * 16384 + lbn) * 1024 + page) * 4 + plane) * 4 + cw

/-- The LUN number on a channel: target × LUNs + LUN (R138). -/
def lunNo (L t l : Nat) : Nat := t * L + l

/-- The member of a group at a position: channel and LUN number, with the T and L of the group's channels (R37). -/
def Dev.member (d : Dev) (seven : Bool) (g pos : Nat) : Nat × Nat :=
  let t := d.geomOf (firstChan seven g)
  let m := memberOf seven t.1 g pos
  (m.1, lunNo t.2 m.2.1 m.2.2)

/-! The tables of a Mule (R121, R128). -/

/-- A table word of a Mule: 0 is remap, 1 is class. Unknown until the firmware loads the channel's tables (R121, R128,
R138). -/
def Dev.tblWord (d : Dev) (cls : Bool) (ch i : Nat) : BitVec 32 :=
  let k := ch * 2 ^ 16 + i
  match SMap.find (if cls then d.mules.cls else d.mules.remap) k with
  | some w => w
  | none => if ch ∈ d.mules.loaded then 0 else Config.tableWord (k + (if cls then 2 ^ 22 else 0))

/-- Write a table word whole (R128). -/
def Dev.setTbl (d : Dev) (cls : Bool) (ch i : Nat) (w : BitVec 32) : Dev :=
  d.onMules (fun m =>
    if cls then { m with cls := SMap.put m.cls (ch * 2 ^ 16 + i) w }
    else { m with remap := SMap.put m.remap (ch * 2 ^ 16 + i) w })

/-- The places of the partition of a (LUN, plane) that may hold a valid entry, ascending: of a channel whose tables are
loaded, those that hold a word at all. -/
def Dev.remapPlaces (d : Dev) (ch l plane : Nat) : List Nat :=
  let b := ch * 2 ^ 16 + (4 * l + plane) * 512
  if ch ∈ d.mules.loaded then
    (((d.mules.remap.map Prod.fst).filter (fun k => decide (b ≤ k) && decide (k < b + 512))).map (· - b)).insertionSort (· ≤ ·)
  else List.range 512

/-- The physical block of a logical one in a plane: the lowest valid entry that matches (R128). -/
def Dev.pblkOf (d : Dev) (ch l plane lbn : Nat) : Nat :=
  match ((d.remapPlaces ch l plane).map (fun j => d.tblWord false ch ((4 * l + plane) * 512 + j))).find?
      (fun w => w.getLsbD 31 && decide (natFld w.toNat 27 14 = lbn)) with
  | some w => natFld w.toNat 13 0
  | none => lbn

/-- The flash sector of offset o of a zone in a row (R37, R39), on the physical block of its plane (R128). -/
def Dev.zoneKey (d : Dev) (seven : Bool) (group lbn o : Nat) : Nat :=
  let q := locate seven o
  let m := d.member seven group q.pos
  flashKey m.1 m.2 (d.pblkOf m.1 m.2 q.plane lbn) q.row q.plane q.cw

/-! Zone descriptors (R40). -/

structure Zd where
  st : Nat
  seven : Bool
  colok : Bool
  group : Nat
  lbn : Nat
  wp : Nat
  fp : Nat
  nsx : Nat
  kslot : Nat
  pen : Nat
  zseq : Nat
  deriving DecidableEq, Repr

def zNone : Nat := 0
def zEmpty : Nat := 1
def zImp : Nat := 2
def zExp : Nat := 3
def zClosed : Nat := 4
def zRO : Nat := 0xD
def zFull : Nat := 0xE
def zOff : Nat := 0xF

/-- The fields of a descriptor (R40). -/
def Zd.ofWord (w : BitVec 128) : Zd :=
  let n := w.toNat
  { st := natFld n 127 124, seven := w.getLsbD 123, colok := w.getLsbD 122, group := natFld n 121 114,
    lbn := natFld n 113 100, wp := natFld n 99 82, fp := natFld n 81 64, nsx := natFld n 63 54,
    kslot := natFld n 53 42, pen := natFld n 41 34, zseq := natFld n 31 0 }

/-- A descriptor from its fields: bits [33:32] are written as 0 (R40). -/
def Zd.word (z : Zd) : BitVec 128 :=
  BitVec.ofNat 128
    (z.st % 16 * 2 ^ 124 + (if z.seven then 2 ^ 123 else 0) + (if z.colok then 2 ^ 122 else 0)
      + z.group % 256 * 2 ^ 114 + z.lbn % 16384 * 2 ^ 100 + z.wp % 2 ^ 18 * 2 ^ 82
      + z.fp % 2 ^ 18 * 2 ^ 64 + z.nsx % 1024 * 2 ^ 54 + z.kslot % 4096 * 2 ^ 42
      + z.pen % 256 * 2 ^ 34 + z.zseq % 2 ^ 32)

/-- The descriptor at an index of the zone table. -/
def Dev.zd (d : Dev) (ix : Nat) : Zd := Zd.ofWord (SMap.get zt0 d.media.zt ix)

/-- What this controller changes goes to the peer: in DUO, and from the first phase of a handback (R233, R241). -/
def Dev.tees (d : Dev) : Bool := decide (d.fw.role = .duo) || d.pair.tee

/-- Write a descriptor; the peer has it in its own copy (R233). -/
def Dev.setZd (d : Dev) (ix : Nat) (z : Zd) : Dev :=
  let d := d.onMedia (fun m => { m with zt := SMap.set zt0 m.zt ix z.word })
  if d.tees then d.sendFrame (.zdesc [(ix, z.word)]) else d

def Zd.opened (z : Zd) : Bool := decide (z.st = zImp ∨ z.st = zExp)
def Zd.active (z : Zd) : Bool := z.opened || decide (z.st = zClosed)

/-- The zones that satisfy a test, by descriptor index, ascending. -/
def Dev.zones (d : Dev) (p : Zd → Bool) : List Nat :=
  (d.media.zt.filter (fun e => p (Zd.ofWord e.2))).map Prod.fst

/-! Namespaces. NSID n is namespace index n - 1 (R257). -/

/-- The namespace of an NSID. -/
def Dev.nsOf (d : Dev) (nsid : Nat) : Option Ns :=
  if nsid = 0 then none else d.media.nss.find? (fun n => n.nsx + 1 == nsid)

/-- Replace a namespace. -/
def Dev.setNs (d : Dev) (n : Ns) : Dev :=
  d.onMedia (fun m => { m with nss := m.nss.map (fun x => if x.nsx = n.nsx then n else x) })

/-- The LBAs of a namespace: zones × zone size, or its capacity at 4 KiB (R57). -/
def Ns.lbas (n : Ns) : Nat := if n.zoned then n.nzones * zsze n.seven else n.gib * 262144

/-- Zone number and offset of an LBA. -/
def Ns.zoneOf (n : Ns) (lba : Nat) : Nat × Nat := (lba / zsze n.seven, lba % zsze n.seven)

/-- The record in force of a Pen. -/
def Dev.pen (d : Dev) (p : Nat) : Option PenInfo := SMap.find d.pens.recs p

/-! Protection information (R162 to R164). -/

/-- The bytes of an LBA's data. -/
def lbaBytes (x : LbaData) : List Byte := (List.range 4096).map (fun i => BitVec.ofNat 8 (x.toNat / 2 ^ (8 * i)))

/-- One bit and one byte of the T10-DIF CRC, most significant bit first (assumption 9). -/
def crc16Bit (c : Nat) : Nat := if c / 32768 % 2 = 1 then (c * 2 % 65536) ^^^ 0x8BB7 else c * 2 % 65536
def crc16Byte (c : Nat) (b : Byte) : Nat :=
  crc16Bit (crc16Bit (crc16Bit (crc16Bit (crc16Bit (crc16Bit (crc16Bit (crc16Bit (c ^^^ (b.toNat * 256)))))))))
def crc16 (bs : List Byte) : Nat := bs.foldl crc16Byte 0

/-- The CRC-64 of NVMe (assumption 9). -/
def crc64 (bs : List Byte) : Nat :=
  (bs.foldl (crcByte 0x9A6C9329AC4BC9B5) (2 ^ 64 - 1)) ^^^ (2 ^ 64 - 1)

/-- The metadata bytes ahead of PI that stands last: the eight that 16 bytes of metadata have beside 8-byte PI (R162). -/
def Ns.ahead (n : Ns) (m : Md) : List Byte :=
  if n.md = 16 ∧ !n.g64 ∧ !n.piFirst then leBytes 8 m.rest.toNat else []

/-- The guard of an LBA for a namespace's guard width: over its data and the metadata ahead of its PI (R163). -/
def guardOf (n : Ns) (x : LbaData) (m : Md) : W64 :=
  let b := lbaBytes x ++ n.ahead m
  BitVec.ofNat 64 (if n.g64 then crc64 b else crc16 b)

/-- The namespace has protection information. -/
def Ns.hasPi (n : Ns) : Bool := decide (n.pi ≠ 0) && decide (n.md ≠ 0)

/-- Its size in bytes. -/
def Ns.piSize (n : Ns) : Nat := if n.g64 then 16 else 8

/-- PRACT = 1 is supported where the metadata size equals the PI size (R162). -/
def praOk (n : Ns) (c : RwCmd) : Bool := !(c.pract && n.hasPi) || decide (n.md = n.piSize)

/-- Checks are disabled by an application tag of all ones, and for Type 3 by a reference tag of all
ones beside it (the NVMe rules that R163 names; assumption 16). -/
def piOff (n : Ns) (m : Md) : Bool :=
  decide (m.app = 0xFFFF) && (decide (n.pi ≠ 3) || decide (m.ref = 0xFFFFFFFF))

/-- The reference tag that is expected: Type 1 the LBA, a zone append and Type 2 the command's tag
plus the offset, Type 3 none (R163, R164). -/
def refWanted (n : Ns) (c : RwCmd) (append : Bool) (lba i : Nat) : Option W32 :=
  if n.pi = 1 ∧ !append then some (BitVec.ofNat 32 lba)
  else if n.pi = 3 then none
  else some (c.ilbrt + BitVec.ofNat 32 i)

/-- The PI check of one LBA: guard, application tag, reference tag, in that order (R163). -/
def piCheck (n : Ns) (c : RwCmd) (append : Bool) (lba i : Nat) (x : Lba) : Option Status :=
  if !n.hasPi || piOff n x.md then none
  else if c.prchk.getLsbD 2 && decide (x.md.guard ≠ guardOf n x.data x.md) then some .guardErr
  else if c.prchk.getLsbD 1 && decide (x.md.app &&& c.mask ≠ c.app &&& c.mask) then some .appErr
  else
    match refWanted n c append lba i with
    | some r => if c.prchk.getLsbD 0 && decide (x.md.ref ≠ r) then some .refErr else none
    | none => none

/-- The PI that HOSTIF generates with PRACT = 1 (R163). DESIGN CHOICE (assumption 149): the reference tag of Type 3, which nothing checks, is
ILBRT. -/
def piMake (n : Ns) (c : RwCmd) (append : Bool) (lba i : Nat) (x : LbaData) : Md :=
  { guard := guardOf n x { guard := 0, app := 0, ref := 0, rest := 0 }, app := c.app,
    ref := match refWanted n c append lba i with | some r => r | none => c.ilbrt, rest := 0 }

/-- Protection information of deallocated blocks: all ones disable the checks (R62, assumption 16). -/
def mdDealloc (n : Ns) : Md :=
  if n.hasPi then { guard := BitVec.allOnes 64, app := BitVec.allOnes 16, ref := BitVec.allOnes 32, rest := BitVec.allOnes 64 }
  else { guard := 0, app := 0, ref := 0, rest := 0 }

/-- A sector that the peer has programmed and no frame brought here: its data are free (assumption 153). -/
def peerSector (nsx lba gen : Nat) : Sector :=
  let x := Config.peerData nsx lba gen
  { d := { data := BitVec.ofNat 32768 x
           md := { guard := BitVec.ofNat 64 (x / 2 ^ 32768), app := BitVec.ofNat 16 (x / 2 ^ 32832)
                   ref := BitVec.ofNat 32 (x / 2 ^ 32848), rest := BitVec.ofNat 64 (x / 2 ^ 32880) } }
    nsx := nsx, lba := lba, gen := gen, poison := false }

/-- An LBA that holds nothing: zeros (R62). -/
def zeroLba (n : Ns) : Lba := { data := 0, md := mdDealloc n }

/-- The metadata of an LBA in the order in which the host sees them: the PI in its first or last bytes (R162). The guard of 16
bits, and the tags, are big-endian as NVMe places them; with the 64-bit guard the two bytes above the 32 checked bits of the reference tag
are stored as the host gave them (PRESUMED, assumption 9). -/
def Ns.mdBytes (n : Ns) (m : Md) : List Byte :=
  let pi := if n.g64 then (leBytes 8 m.guard.toNat).reverse ++ (leBytes 2 m.app.toNat).reverse ++
      (leBytes 2 m.rest.toNat).reverse ++ (leBytes 4 m.ref.toNat).reverse
    else (leBytes 2 m.guard.toNat).reverse ++ (leBytes 2 m.app.toNat).reverse ++ (leBytes 4 m.ref.toNat).reverse
  if n.md = 0 then []
  else if n.md = 8 ∨ n.g64 then pi
  else if n.piFirst then pi ++ leBytes 8 m.rest.toNat else leBytes 8 m.rest.toNat ++ pi

/-- An LBA with its PI stripped, with PRACT = 1 (R163). -/
def stripPi (n : Ns) (c : RwCmd) (x : Lba) : Lba :=
  if c.pract && n.hasPi then { x with md := { guard := 0, app := 0, ref := 0, rest := 0 } } else x

/-! Key slots (R206 to R208). -/

def slotEmpty (_ : Nat) : Slot := .empty

/-- The contents of a slot. -/
def Dev.slot (d : Dev) (n : Nat) : Slot := SMap.get slotEmpty d.cipher.slots n

/-- A load or clear of a slot: its generation goes up (R207). -/
def Dev.setSlot (d : Dev) (n : Nat) (x : Slot) : Dev :=
  d.onCipher (fun c =>
    { c with slots := SMap.set slotEmpty c.slots n x
             gen := SMap.set (fun _ => 0) c.gen n ((SMap.get (fun _ => 0) c.gen n + 1) % 65536) })

/-- SLOTGEN (R207). -/
def Dev.slotGen (d : Dev) (n : Nat) : Nat := (SMap.get (fun _ => 0) d.cipher.gen n + d.cipher.genAll) % 65536

/-- The slot lies in a Pen's range (R208). -/
def Dev.inPenRange (d : Dev) (pen slot : Nat) : Bool :=
  let b := d.fld (A.CIPHER_PENRANGE pen) 11 0
  decide (b ≤ slot) && decide (slot < b + d.fld (A.CIPHER_PENRANGE pen) 28 16)

/-- Both halves of a key are the same (R204). -/
def halvesEqual (k : BitVec 512) : Bool := decide (key1 k = key2 k)

/-- The bypass slots: those of namespaces without a key (R206, R220). -/
def bypassSlots (nss : List Ns) : List Nat := ((nss.filter (fun n => !n.keyed)).map (·.slot)).dedup

/-- The firmware loads the bypass slots (R206, R220). -/
def Dev.loadBypass (d : Dev) : Dev :=
  if d.board.code.val = 2 then d else d.each (bypassSlots d.media.nss) (fun d s => d.setSlot s .bypass)

/-- How the firmware path completes a command whose message the scheduler refuses (R208); none: the message goes on. The NP code has no
cluster (R3). -/
def Dev.cipherStatus (d : Dev) (n : Ns) : Option Status :=
  if d.board.code.val = 2 then none
  else if !d.inPenRange n.pen n.slot then some .internal
  else if d.slot n.slot = .empty then some .nsNotReady
  else none

/-- A refused message is counted and logged (R208). -/
def Dev.noteRefused (d : Dev) (pen slot : Nat) (range : Bool) : Dev :=
  (d.count A.CIPHER_CNT_REFUSE 64 1).fwPost 0x0800 (Config.evCode (if range then 18 else 19)) (if range then 6 else 5) (slot + pen * 2 ^ 16)

/-! Sealed sectors (R158, R159). -/

/-- The key of a namespace: of its slot, none for a bypass slot (R206). -/
def Dev.nsKey (d : Dev) (n : Ns) : Option (BitVec 512) :=
  match SMap.get (fun _ => Slot.empty) d.cipher.slots n.slot with
  | .key k _ => some k
  | _ => none

/-- The slot of a namespace can serve it: a key for a keyed one, a bypass slot for the others; on the
NP code there are no slots (R3, R206). -/
def Dev.slotOk (d : Dev) (n : Ns) : Bool :=
  if d.board.code.val = 2 then true
  else match SMap.get (fun _ => Slot.empty) d.cipher.slots n.slot with
    | .key _ _ => n.keyed
    | .bypass => !n.keyed
    | .empty => false

/-- Encrypt with the namespace's key: the data unit number is the LBA (R204). -/
def encrypt (key : Option (BitVec 512)) (lba : Nat) (x : LbaData) : LbaData :=
  match key with | some k => xtsLba false k lba x | none => x

/-- Decrypt. -/
def decrypt (key : Option (BitVec 512)) (lba : Nat) (x : LbaData) : LbaData :=
  match key with | some k => xtsLba true k lba x | none => x

/-- The sector that is stored: ciphertext, metadata in the clear, and its seal (R158). -/
def mkSector (key : Option (BitVec 512)) (nsx lba gen : Nat) (x : Lba) : Sector :=
  { d := { x with data := encrypt key lba x.data }, nsx := nsx, lba := lba, gen := gen, poison := false }

/-- A sector that the mirror has carried: its seal has travelled with it unchanged (R159). -/
def secOf (x : MirSec) : Sector := { d := x.d, nsx := x.sl.nsx, lba := x.sl.lba, gen := x.sl.gen, poison := x.sl.poison }

/-- A sector as the mirror carries it. -/
def mirSec (s : Sector) : MirSec := { d := s.d, sl := { nsx := s.nsx, lba := s.lba, gen := s.gen, poison := s.poison } }

/-- The 16-byte sector seal of a stored sector (R158): version and flags, identity, and SCRC over the stored data, the metadata
filled to 16 bytes and the bytes before it. The SLC flag is that of the place where the copy stands (R159). -/
def sealBytes (n : Ns) (s : Sector) (slc : Bool) : List Byte :=
  let flags := 1 + (if s.poison then 16 else 0) + (if n.zoned then 0 else 32) + (if slc then 64 else 0)
  let b := [BitVec.ofNat 8 flags] ++ leBytes 2 (s.nsx % 1024) ++ leBytes 5 s.lba ++ leBytes 4 s.gen
  let md := n.mdBytes s.d.md
  b ++ leBytes 4 (crc32c (lbaBytes s.d.data ++ (md ++ List.replicate (16 - md.length) 0) ++ b))

/-- The 4,608 bytes of a codeword (R118): data, metadata filled to 16 bytes, seal, LDPC parity. -/
def codeword (n : Ns) (s : Sector) (slc : Bool) : List Byte :=
  let md := n.mdBytes s.d.md
  let b := lbaBytes s.d.data ++ (md ++ List.replicate (16 - md.length) 0) ++ sealBytes n s slc
  b ++ (Config.ldpcParity b ++ List.replicate 480 0).take 480

/-- GEN never takes 0xFFFF_FFFF (R159). -/
def nextGen (g : Nat) : Nat := if 0xFFFFFFFE ≤ g then 0 else g + 1

end Sys2Proof.Machine
end

