-- ==== Sys2Proof/Machine/Ready.lean ====
section
/-! DEFINITION. Boot records (R393, R400, R403) and when a controller becomes ready (R179, R398, R404). -/

namespace Sys2Proof.Machine

/-! The boot record (R393): its words and magics. -/

/-- The first word of a boot record: 0 and 1 the boot images, 2 and 3 the configuration slots (R393, R400). -/
def recBase (slot : Nat) : Nat :=
  if slot = 0 then 0x3FF80 else if slot = 1 then 0x7FF80 else if slot = 2 then 0x87F80 else 0x8FF80

def actvMagic : Nat := 0x56544341
def atmpMagic : Nat := 0x504D5441
def cfrmMagic : Nat := 0x4D524643

/-- The COMMITNO of a word of a boot record, where it counts under a magic: none of a record whose erase was cut does
(R406). -/
def Dev.recWord (d : Dev) (slot k magic : Nat) : Option Nat :=
  let x := (d.cqWord (recBase slot + k)).toNat
  if x % 2 ^ 32 = magic ∧ (recBase slot + k) / 128 ∉ d.cirque.cut then some (x / 2 ^ 32 % 2 ^ 32) else none

/-- A record's activation: the highest ACTIVATE word that counts, with its number. -/
def Dev.activation (d : Dev) (slot : Nat) : Option (Nat × Nat) :=
  (List.range 32).foldl (fun b k => match d.recWord slot k actvMagic with | some n => some (k, n) | none => b) none

/-- A CONFIRM word carries a COMMITNO. -/
def Dev.confirmedAs (d : Dev) (slot n : Nat) : Bool :=
  (List.range 32).any (fun k => decide (d.recWord slot (96 + k) cfrmMagic = some n))

/-- The ATTEMPT words that carry a COMMITNO. -/
def Dev.attempts (d : Dev) (slot n : Nat) : Nat :=
  ((List.range 64).filter (fun k => decide (d.recWord slot (32 + k) atmpMagic = some n))).length

/-- The firmware programs a word of Cirque. -/
def Dev.cqSet (d : Dev) (w : Nat) (x : BitVec 256) : Dev :=
  d.onCirque (fun c => { c with words := SMap.put c.words w x })

/-- A word of a boot record. -/
def recWordOf (magic n : Nat) : BitVec 256 := BitVec.ofNat 256 (magic + n % 2 ^ 32 * 2 ^ 32)

/-- The firmware programs CONFIRM for the activation that it booted under, once (R403). -/
def Dev.confirm (d : Dev) : Dev :=
  if d.fw.confirmed then d
  else
    let d := match d.activation d.fw.runSlot with
      | some (k, n) => if n = d.fw.commitNo then d.cqSet (recBase d.fw.runSlot + 96 + k) (recWordOf cfrmMagic n) else d
      | none => d
    d.onFw (fun f => { f with confirmed := true, trial := false })

/-! CC.EN and resets of a function. -/

/-- A function can become ready: it belongs to a Pen, the part has left INIT or stands in INIT (fenced), and the first
hold-up measurement is over (R179, R398, R404). -/
def Dev.fnReady (d : Dev) (fn : Nat) : Bool :=
  (d.penOf fn).isSome && decide (d.fw.mode ≠ .init ∨ d.fw.fencedInit) && (d.wr.cUf.isSome || decide (d.wr.measuring = 0) || !d.board.bankFitted)

/-- The admin queue pair of a function, at its reset contents: 4,096 entries (R257). -/
def adminSq (fn size base : Nat) : Sq :=
  { fn := fn, sqid := 0, cqid := 0, q := 4096, size := size, inCmb := false, base := base, cls := 3, head := 0, tail := 0, halted := false }

def adminCq (fn size base : Nat) : Cq :=
  { fn := fn, cqid := 0, size := size, vector := 0, base := base, head := 0, tail := 0, phase := true }

/-- A field of n bytes of the NVMe registers as the host has written it. -/
def Dev.nvmeField (d : Dev) (fn off n : Nat) : Nat :=
  ofLe ((List.range n).map (fun i => SMap.get memDefault d.host.hregs (fn * 65536 + off + i)))

/-- The size of an admin queue by its field of AQA; the greatest one where AQA holds 0 (R257, assumption 142). -/
def adminSize (x : Nat) : Nat := if x % 4096 = 0 then 4096 else x % 4096 + 1

/-- CSTS.RDY of a function sets: its admin queues stand, and the firmware confirms its activation (R403). -/
def Dev.setRdy (d : Dev) (fn : Nat) : Dev :=
  (d.onHost (fun h =>
    { h with
      rdy := h.rdy.filter (· != fn) ++ [fn]
      sqs := h.sqs.filter (fun q => q.fn != fn) ++ [adminSq fn (adminSize (d.nvmeField fn 0x24 2)) (d.nvmeField fn 0x28 8)]
      cqs := h.cqs.filter (fun q => q.fn != fn) ++ [adminCq fn (adminSize (d.nvmeField fn 0x26 2)) (d.nvmeField fn 0x30 8)] })).confirm

/-- The controllers whose CC.EN waits for the part to be ready become ready (R398). -/
def Dev.rdyCheck (d : Dev) : Dev :=
  d.each (d.host.en.filter (fun f => !d.host.rdy.contains f && !(d.pens.fnDrain.any (fun x => x.1 == f))))
    (fun d f => if d.fnReady f then d.setRdy f else d)

end Sys2Proof.Machine
end

