-- ==== Sys2Proof/Machine/Media.lean ====
section
/-! DEFINITION. What the shipped firmware keeps of the media: the journal (R140 to R147), rows and
pools (R53, R130), open and active limits (R49 to R51), capacity and READONLY (R54 to R58), and the
zone transitions that rest on them. -/

namespace Sys2Proof.Machine

/-! The journal. -/

/-- A record with the next sequence number, where the ring's head lets it stand (R145, R288). -/
def Dev.nextRec (d : Dev) (flushed peer : Bool) (b : JBody) : JRec :=
  let r : JRec := { seq := d.media.jseq + 1, flushed := flushed, peer := peer, body := b }
  { r with loc := ringFit d.cirque.retired (jLen r) (d.cirque.retired.length + 2) d.media.ringHead }

/-- A record is programmed in the ring. The 512 sectors ahead of the head are kept erased (R283): a sector that holds a record
without a checkpoint is not erased, and admission is held (R147). -/
def Media.putRec (m : Media) (r : JRec) : Media :=
  let head := (r.loc + jLen r) % ringWords
  let ahead := fun (x : JRec) => decide (1 ≤ ringAhead head x) && decide (ringAhead head x ≤ 512)
  let stuck := fun (x : JRec) => m.journal.any (fun y => decide (m.ckptSeq < y.seq) && decide (y.loc / 128 = x.loc / 128))
  { m with
    journal := m.journal.filter (fun x => !(ahead x && !stuck x)) ++ [r]
    jseq := r.seq
    ringHead := head
    jhold := m.jhold || m.journal.any (fun x => ahead x && decide (m.ckptSeq < x.seq)) }

/-- A sector of the ring is among the 512 that are kept erased ahead of the head, and holds no record (R147, R283). -/
def Dev.ringErased (d : Dev) (sec : Nat) : Bool :=
  let n := (ringPlace sec + 16384 - d.media.ringHead / 128) % 16384
  decide (0x4000 ≤ sec) && decide (sec < 0x8000) && decide (1 ≤ n) && decide (n ≤ 512) &&
    !d.media.journal.any (fun x => decide (ringSector (x.loc / 128) = sec))

/-- A record is programmed, and the sectors ahead of it are erased, one that an earlier erase left in an unknown state among them (R282). -/
def Dev.putJ (d : Dev) (r : JRec) : Dev :=
  let d := d.onMedia (fun m => m.putRec r)
  d.onCirque (fun c =>
    { c with
      words := if c.words = [] then c.words else SMap.keep (fun w => !d.ringErased (w / 128)) c.words
      cut := c.cut.filter (fun s => !d.ringErased s) })

/-- Journal a record (R145); in DUO it is also sent to the peer (R233). -/
def Dev.journal (d : Dev) (b : JBody) : Dev :=
  let r := d.nextRec d.tor.latch false b
  let d := d.putJ r
  if d.tees then d.sendFrame (.jrec r) else d

/-- The group of a row as the ERASE record names it. DESIGN CHOICE (assumption 17): 512 is added for a 7+1 group. -/
def groupCode (seven : Bool) (group : Nat) : Nat := if seven then group + 512 else group

/-- The rows of zones by what the journal says: those in use, and those released since their last erase, each as group code
and LBN (R140, R141). -/
structure RowUse where
  used : List (Nat × Nat)
  freed : List (Nat × Nat)
  deriving DecidableEq, Repr

/-- A row of a zone is taken. -/
def RowUse.take (u : RowUse) (k : Nat × Nat) : RowUse := { used := u.used.filter (· != k) ++ [k], freed := u.freed.filter (· != k) }

/-- A row of a zone is released. -/
def RowUse.release (u : RowUse) (k : Nat × Nat) : RowUse := { used := u.used.filter (· != k), freed := u.freed.filter (· != k) ++ [k] }

/-- The group code of a zone's row: by the stripe of its namespace, or where that namespace is gone by the row in use. -/
def RowUse.code (u : RowUse) (seven : Bool) (g l : Nat) : Nat :=
  if !u.used.contains (groupCode seven g, l) && u.used.contains (groupCode (!seven) g, l) then groupCode (!seven) g else groupCode seven g

/-- The rows after a record; `sv` is the stripe of a zone. -/
def RowUse.after (sv : Nat → Bool) (u : RowUse) (r : JRec) : RowUse :=
  match r.body with
  | .zopen _ _ g l _ seven => u.take (groupCode seven g, l)
  | .zreset _ ix _ g l => u.release (u.code (sv ix) g l, l)
  | .relocZ _ ix g l g' l' => (u.release (u.code (sv ix) g l, l)).take (u.code (sv ix) g l - g + g', l')
  | .erase _ g l _ => { u with freed := u.freed.filter (· != (g, l)) }
  | _ => u

/-- The stripe of the namespace that a zone belongs to. -/
def Dev.zoneSeven (d : Dev) (ix : Nat) : Bool :=
  match d.media.nss.find? (fun n => n.zoned && decide (n.base ≤ ix) && decide (ix < n.base + n.nzones)) with
  | some n => n.seven
  | none => false

/-- The rows of zones by the whole journal. -/
def Dev.rowUse (d : Dev) : RowUse := d.media.journal.foldl (RowUse.after d.zoneSeven) { used := [], freed := [] }

/-! Pools of rows (R53, R130). -/

def Dev.pool (d : Dev) (seven : Bool) : List Row := if seven then d.media.pool7 else d.media.pool14

def Dev.setPool (d : Dev) (seven : Bool) (l : List Row) : Dev :=
  d.onMedia (fun m => if seven then { m with pool7 := l } else { m with pool14 := l })

/-- The number of active zones in a group. -/
def Dev.groupActive (d : Dev) (seven : Bool) (g : Nat) : Nat :=
  (d.zones (fun z => z.active && z.seven == seven && z.group == g)).length

/-- A free row is to be erased before it is used: it awaits its erase, or was erased 7 days ago or more (R53, R130). -/
def Row.stale (r : Row) : Bool := r.dirty || decide (10080 ≤ r.dwell)

/-- Equivalent erases of QLC and SLC mode, in parts of one rated SLC cycle: an SLC-mode erase counts as the rated QLC
cycles divided by the rated SLC cycles (R130). -/
def Dev.equiv (d : Dev) (wear slc : Nat) : Nat := wear * d.board.ratedSlc + slc * d.board.ratedQlc

/-- The wear of a row at its use, in the same parts: an erase that is still to come counts (R130). -/
def Dev.due (d : Dev) (r : Row) : Nat :=
  if r.stale then (if r.inSlc then d.equiv r.wear (r.slc + 1) else d.equiv (r.wear + 1) r.slc) else d.equiv r.wear r.slc

/-- Row a is chosen before row b: least wear, then fewest active zones in the group, then the lower
group, then the lower block (R130). -/
def Dev.rowBefore (d : Dev) (a b : Row) : Bool :=
  if d.due a ≠ d.due b then decide (d.due a < d.due b)
  else if d.groupActive a.seven a.group ≠ d.groupActive b.seven b.group then
    decide (d.groupActive a.seven a.group < d.groupActive b.seven b.group)
  else if a.group ≠ b.group then decide (a.group < b.group)
  else decide (a.lbn < b.lbn)

/-- The channels of a group belong to a home: the split names those of PAIR_ID 0 (R231). -/
def Dev.homeGroup (d : Dev) (home seven : Bool) (g : Nat) : Bool :=
  (groupChannels seven g).all (fun c => bitOf d.pair.split c == !home)

/-- The home of a namespace. -/
def Dev.homeOf (d : Dev) (nsx : Nat) : Bool :=
  match d.media.nss.find? (fun n => n.nsx == nsx) with | some n => n.home | none => d.board.pairId

/-- The first of a list of rows by the rule of R130. -/
def Dev.leastWorn (d : Dev) (l : List Row) : Option Row :=
  l.foldl (fun b r => match b with
    | none => some r
    | some x => if d.rowBefore r x then some r else some x) none

/-- The rows of a pool that a namespace may take: in groups that this controller owns, of its home. -/
def Dev.rowsFor (d : Dev) (seven : Bool) (nsx : Nat) : List Row :=
  (d.pool seven).filter (fun r => d.ownsGroup seven r.group && d.homeGroup (d.homeOf nsx) seven r.group)

/-- The row that an allocation takes from a pool (R130). -/
def Dev.bestRow (d : Dev) (seven : Bool) (nsx : Nat) : Option Row := d.leastWorn (d.rowsFor seven nsx)

/-- The row that wear levelling takes: the most worn (R130). -/
def Dev.worstRow (d : Dev) (seven : Bool) (nsx : Nat) : Option Row :=
  (d.rowsFor seven nsx).foldl
    (fun b r => match b with
      | none => some r
      | some x => if d.due x < d.due r then some r else some x) none

/-- A member block of a row has no spare behind it, or lies on a failed LUN: the row is not whole (R53, R132, R133). -/
def Dev.rowDead (d : Dev) (r : Row) : Bool :=
  (List.range (members r.seven)).any (fun p =>
    let m := d.member r.seven r.group p
    let l := m.1 * 32 + m.2
    d.media.dead.contains (l, r.lbn) || d.media.failedLuns.contains l)

/-- The LUNs of a channel of a set, which are the 14+2 groups of the set (R37). -/
def Dev.setLuns (d : Dev) (set : Nat) : Nat := (d.geomOf (16 * set)).1 * (d.geomOf (16 * set)).2

/-- The 14+2 rows of a set less those put aside for Fold and the flush area (assumption 22). -/
def Dev.setRows (d : Dev) (set : Nat) : Nat := d.setLuns set * d.board.nlb - 66

/-- The row at a place of a channel set's supply. -/
def Dev.supplyRow (d : Dev) (set i : Nat) : Row :=
  let n := d.setLuns set
  { seven := false, group := 4 * (i % n) + set, lbn := d.board.nlb - 1 - i / n, wear := 0, dirty := false }

/-- The number of places below x of n groups' turns that fall to group k. -/
def turns (n k x : Nat) : Nat := (x + n - 1 - k) / n

/-- The groups of a set, as k of the group 4k + set, that a failed LUN is a member of. -/
def Dev.goneGroups (d : Dev) (set : Nat) : List Nat :=
  let g := d.geomOf (16 * set)
  ((d.media.failedLuns.filter (fun l => l / 512 == set)).map (fun l => l % 32 / g.2 + g.1 * (l % 32 % g.2))).dedup

/-- The 14+2 row that a row is, or is a half of (R37, R53). -/
def wholeRow (r : Row) : Row := if r.seven then { r with seven := false, group := r.group / 2 % 4 + 4 * (r.group / 8) } else r

/-- Two rows share a member. -/
def rowClash (a b : Row) : Bool :=
  if a.seven = b.seven then decide (a.group = b.group ∧ a.lbn = b.lbn)
  else decide ((wholeRow a).group = (wholeRow b).group ∧ a.lbn = b.lbn)

/-- A row by its place alone. -/
def placeRow (seven : Bool) (group lbn : Nat) : Row := { seven := seven, group := group, lbn := lbn, wear := 0, dirty := false }

/-- The rows that zones and units have. -/
def Dev.usedRows (d : Dev) : List Row :=
  (d.zones (fun z => z.active || decide (z.st = zFull) || decide (z.st = zRO))).map (fun ix =>
    placeRow (d.zd ix).seven (d.zd ix).group (d.zd ix).lbn) ++
  d.media.urow.map (fun e => placeRow false (e.2 % 2 ^ 23 / 16384) (e.2 % 16384))

/-- The rows that the peer's zones and units have, and the free ones of its side that have come here: its supply has given them out (R231,
R232). -/
def Dev.farRows (d : Dev) : List Row :=
  (d.usedRows ++ d.media.pool14 ++ d.media.pool7 ++ d.media.uFree).filter (fun r => d.homeGroup (!d.board.pairId) r.seven r.group)

/-- The places of a set's supply, from one on, at which such rows stand. -/
def Dev.farPlaces (d : Dev) (set i : Nat) : List Nat :=
  if d.homeGroup d.board.pairId false set then []
  else
    (((d.farRows.map wholeRow).filter (fun r => r.group % 4 == set && decide (r.lbn < d.board.nlb))).map (fun r =>
      (d.board.nlb - 1 - r.lbn) * d.setLuns set + r.group / 4)).dedup.filter (fun p => decide (i ≤ p) && decide (p < d.setRows set))

/-- The rows at the places of a set's supply from one on that are not whole, or not free (R53). -/
def Dev.goneAhead (d : Dev) (set i : Nat) : Nat :=
  let g := d.geomOf (16 * set)
  let n := d.setLuns set
  let ks := d.goneGroups set
  let one := ((d.media.dead.filter (fun e => e.1 / 512 == set && decide (e.2 < d.board.nlb))).map (fun e =>
    (d.board.nlb - 1 - e.2) * n + (e.1 % 32 / g.2 + g.1 * (e.1 % 32 % g.2))) ++ d.farPlaces set i).dedup
  ks.foldl (fun s k => s + (turns n k (d.setRows set) - turns n k i)) 0 +
    (one.filter (fun p => decide (i ≤ p) && decide (p < d.setRows set) && !ks.contains (p % n))).length

/-- The whole 14+2 rows of a channel set that no pool, unit, Fold or flush row holds: those of first
configuration less what has been given out (R50, R53, R148; assumption 22). -/
def Dev.rowsLeft (d : Dev) (set : Nat) : Nat :=
  let i := SMap.get (fun _ => 0) d.media.supply set
  d.setRows set - i - d.goneAhead set i

/-- The first place of a set's supply, from one on, whose row is whole and free. -/
def Dev.wholeFrom (d : Dev) (set : Nat) : Nat → Nat → Nat
  | 0, i => i
  | f + 1, i => if d.rowDead (d.supplyRow set i) || (d.farPlaces set i).contains i then Dev.wholeFrom d set f (i + 1) else i

/-- The two 7+1 rows on the halves of one 14+2 row (R53). -/
def halves (T : Nat) (r : Row) : Row × Row :=
  let g := r.group % 4
  let rest := r.group / 4
  let g7 := fun h => 2 * g + h + 8 * (rest % T) + 8 * T * (rest / T)
  ({ r with seven := true, group := g7 0 }, { r with seven := true, group := g7 1 })

/-- One row of a channel set's supply is given out: the next whole and free one (R53). -/
def Dev.giveSupply (d : Dev) (set : Nat) : Dev × Row :=
  let i0 := SMap.get (fun _ => 0) d.media.supply set
  let i := d.wholeFrom set (d.setLuns set * (d.media.dead.length + 1) + (d.farPlaces set i0).length) i0
  (d.onMedia (fun m => { m with supply := SMap.put m.supply set (i + 1) }), d.supplyRow set i)

/-- Take one row of a channel set into a pool: a 7+1 pool gets its two halves (R53). -/
def Dev.takeSupply (d : Dev) (seven : Bool) (set : Nat) : Dev :=
  let x := d.giveSupply set
  if seven then
    let h := halves (x.1.geomOf (16 * set)).1 x.2
    x.1.setPool true (x.1.pool true ++ [h.1, h.2])
  else x.1.setPool false (x.1.pool false ++ [x.2])

/-- The channel set of a home with the most rows left; the lower number on a tie. -/
def Dev.bestSet (d : Dev) (home : Bool) : Option Nat :=
  ((List.range 4).filter (fun s => d.homeGroup home false s && decide (0 < d.rowsLeft s))).foldl
    (fun b s => match b with
      | none => some s
      | some x => if d.rowsLeft x < d.rowsLeft s then some s else some x) none

/-- The Empty zones of a stripe type: each needs a row of its pool (R53). -/
def Dev.emptyZones (d : Dev) (seven : Bool) : List Nat :=
  d.zones (fun z => decide (z.st = zEmpty) && z.seven == seven)

/-- Those of the namespaces of one home: only rows on that home's side of the split back them (R231). -/
def Dev.emptyAt (d : Dev) (home seven : Bool) : List Nat :=
  d.zones (fun z => decide (z.st = zEmpty) && z.seven == seven && d.homeOf z.nsx == home)

/-- The rows of a pool on one home's side. -/
def Dev.poolAt (d : Dev) (home seven : Bool) : List Row := (d.pool seven).filter (fun r => d.homeGroup home seven r.group)

/-- A row on the side of a home joined from two free 7+1 rows: it awaits its erase where one half does, and has stood and
worn as the half that has most (R53, R130). -/
def joinRows (T : Nat) (a b : Row) : Row :=
  { seven := false, group := a.group % 8 / 2 + 4 * (a.group / 8 % T) + 4 * T * (a.group / (8 * T)), lbn := a.lbn,
    wear := Nat.max a.wear b.wear, dirty := a.dirty || b.dirty, dwell := Nat.max a.dwell b.dwell,
    slc := Nat.max a.slc b.slc, inSlc := a.inSlc || b.inSlc }

/-- Move one free row of a home into a pool from the other one, where the one that gives keeps as many rows as its type
has Empty zones (R53). -/
def Dev.movePool (d : Dev) (home seven : Bool) : Dev :=
  if seven then
    match d.poolAt home false with
    | r :: rest =>
      if (d.emptyAt home false).length ≤ rest.length then
        let h := halves (d.geomOf (firstChan false r.group)).1 r
        d.onMedia (fun m => { m with pool14 := m.pool14.filter (fun x => x != r), pool7 := m.pool7 ++ [h.1, h.2] })
      else d
    | [] => d
  else
    let other := fun (r : Row) => (d.poolAt home true).find? (fun s => s.group == r.group + 1 && s.lbn == r.lbn)
    match (d.poolAt home true).find? (fun r => decide (r.group % 2 = 0) && (other r).isSome) with
    | some r =>
      match other r with
      | some s =>
        if (d.emptyAt home true).length + 2 ≤ (d.poolAt home true).length then
          d.onMedia (fun m =>
            { m with pool7 := m.pool7.filter (fun x => x != r && x != s), pool14 := m.pool14 ++ [joinRows (d.geomOf (firstChan true r.group)).1 r s] })
        else d
      | none => d
    | none => d

/-- A zone changes outside a command: the Changed Zone List and its event (R53). -/
def Dev.changedZone (d : Dev) (ix : Nat) : Dev :=
  (d.onMedia (fun m => { m with changed := m.changed ++ [((d.zd ix).nsx, ix)] })).aenTo (d.penFns (d.zd ix).pen) 2 0xEF 0xBF

/-- Take one Empty zone of a home Offline: the highest descriptor index (R46, R53). -/
def Dev.offlineOne (d : Dev) (home seven : Bool) : Dev :=
  match (d.emptyAt home seven).getLast? with
  | none => d
  | some ix =>
    let z := d.zd ix
    let d := d.journal (.zstate z.nsx ix zOff z.wp)
    (d.setZd ix { z with st := zOff }).changedZone ix

/-- One more free row of a home for a pool: from the other pool first (R53), then of the rows that stand in no pool. -/
def Dev.fillPool (d : Dev) (home seven : Bool) : Dev :=
  let e := d.movePool home seven
  if (d.poolAt home seven).length < (e.poolAt home seven).length then e
  else match d.bestSet home with
    | some s => d.takeSupply seven s
    | none => d

/-- Backing of one home's zones (R53): a pool short of its Empty zones takes free rows; for each row still missing an
Empty zone goes Offline. -/
def Dev.backHome (d : Dev) (home seven : Bool) : Dev :=
  let short := fun (d : Dev) => (d.emptyAt home seven).length - (d.poolAt home seven).length
  let d := d.each (List.range (short d)) (fun d _ => if short d = 0 then d else d.fillPool home seven)
  d.each (List.range (short d)) (fun d _ => d.offlineOne home seven)

/-- The homes whose zones this controller backs: in DUO its own alone (R38, R231). -/
def Dev.homes (d : Dev) : List Bool := if d.fw.role = .duo then [d.board.pairId] else [d.board.pairId, !d.board.pairId]

/-- Backing of the zones of a stripe type (R53). -/
def Dev.backing (d : Dev) (seven : Bool) : Dev := d.each d.homes (fun d h => d.backHome h seven)

/-! Writable capacity and READONLY (R29, R54, R55). -/

/-- The copies of Fold, those included that its programs under way make. -/
def Wr.foldAll (w : Wr) : List FoldCopy := w.fold ++ w.foldJobs.map (·.copy)

/-- The bytes of the burst area without a copy in it (R80). -/
def Dev.burstFree (d : Dev) : Nat :=
  d.media.policy.burstGib * 2 ^ 30 - d.wr.foldAll.foldl (fun n f => if f.burst then n + f.secs.length * 4096 else n) 0

/-- The burst area is full: no whole row's worth is free. -/
def Dev.burstFull (d : Dev) : Bool := decide (d.burstFree < 448 * 1024)

/-- The LBAs that a Fold row holds: 7 data members of 16 MiB (R80, R148). -/
def foldCap : Nat := 28672

/-- The Fold rows that some LBAs of reservations may still need, less what Fold holds of zones' data already (R50). -/
def Dev.rowsFor50 (d : Dev) (need : Nat) : Nat :=
  let held := d.wr.foldAll.foldl (fun n f => if f.burst then n else n + f.secs.length) 0
  (need - held + foldCap - 1) / foldCap

/-- The LBAs of the reservations: of each active zone a program group (R50). -/
def Dev.resvLbas (d : Dev) : Nat := d.wr.resv.foldl (fun n ix => n + groupLbas (d.zd ix).seven) 0

/-- The free Fold rows that the reservations of R50 may still need. -/
def Dev.resvRows (d : Dev) : Nat := d.rowsFor50 d.resvLbas

/-- The rows of a 7+1 group that first configuration puts aside for Fold and the flush area: those at the last 66 places of its
set's supply, which are its lowest blocks (assumption 22). -/
def Dev.shareCount (d : Dev) (g : Nat) : Nat :=
  let s := g % 8 / 2
  turns (d.setLuns s) (g / 8) (d.setRows s + 66) - turns (d.setLuns s) (g / 8) (d.setRows s)

/-- The lowest whole row of a 7+1 group's share that Fold has not taken up. -/
def Dev.shareNext (d : Dev) (g : Nat) : Option Row :=
  ((List.range (d.shareCount g)).map (fun b =>
    ({ seven := true, group := g, lbn := b, wear := 0, dirty := false } : Row))).find? (fun r =>
      decide (SMap.get (fun _ => 0) d.wr.foldGiven g ≤ r.lbn) && !d.rowDead r)

/-- The 7+1 groups of an octet of channels. -/
def Dev.octetGroups (d : Dev) (o : Nat) : List Nat := (List.range (d.setLuns (o / 2))).map (fun k => o + 8 * k)

/-- The octets of channels that this controller owns. -/
def Dev.octets (d : Dev) : List Nat := (List.range 8).filter (d.ownsGroup true)

/-- The free rows of Fold in this controller's groups, its share included (R80). -/
def Dev.foldLeft (d : Dev) : Nat :=
  d.wr.foldFree.length + (d.octets.flatMap d.octetGroups).foldl
    (fun n g => n + (d.shareCount g - SMap.get (fun _ => 0) d.wr.foldGiven g)) 0

/-- The 7+1 rows by which Fold can grow (R80). -/
def Dev.foldGrow (d : Dev) : Nat :=
  2 * ((List.range 4).filter (fun s => d.homes.any (fun h => d.homeGroup h false s))).foldl (fun n s => n + d.rowsLeft s) 0

/-- Fold can reserve a program group for one more zone (R50). -/
def Dev.foldRoom (d : Dev) (seven : Bool) : Bool :=
  decide (d.rowsFor50 (d.resvLbas + groupLbas seven) ≤ d.foldLeft + d.foldGrow)

/-- The capacity route of R55: no zone and no conventional namespace takes writes, the burst area is full, and no free
block remains outside the reservations. -/
def Dev.noCapacity (d : Dev) : Bool :=
  (d.zones (fun z => !(decide (z.st = zNone) || decide (z.st = zFull) || decide (z.st = zRO) || decide (z.st = zOff)))).isEmpty &&
    d.media.nss.all (fun n => n.zoned || n.prot) && d.burstFull && decide (d.foldLeft ≤ d.resvRows) &&
    !d.media.nss.isEmpty

/-- The mode that a role shows. -/
def Role.mode : Role → Mode
  | .solo => .solo | .duo => .duo | .survivor => .survivor

/-- The device serves writes. -/
def Dev.writable (d : Dev) : Bool :=
  decide (d.fw.mode = .solo) || decide (d.fw.mode = .duo) || decide (d.fw.mode = .survivor)

/-- Enter READONLY by the capacity route (R29, R55). -/
def Dev.capacityCheck (d : Dev) : Dev :=
  if d.writable && d.noCapacity then d.setMode .readonly else d

/-- Leave READONLY for the mode that ROLE shows, once capacity is writable again and the temperature route does not hold
it: after a zone reset that yields a backed Empty zone, a format, or the flag's end (R29, R55). -/
def Dev.capacityBack (d : Dev) : Dev :=
  if d.fw.mode = .readonly ∧ !d.noCapacity ∧ !d.fw.readonlyTemp then d.setMode d.fw.role.mode else d

/-! Limits (R49 to R51). -/

/-- The open and active pools of a controller (R51). -/
def Dev.openPool (d : Dev) : Nat := if d.fw.role = .duo then 2048 else 4096
def Dev.activePool (d : Dev) : Nat := if d.fw.role = .duo then 8192 else 16384
def Dev.descPool (d : Dev) : Nat := if d.fw.role = .duo then 262144 else 524288

/-- A zone counts against this controller's pools: in DUO its own home's alone, for the table also holds copies of the
peer's descriptors (R51, R232). -/
def Dev.counts (d : Dev) (z : Zd) : Bool := decide (d.fw.role ≠ .duo) || d.homeOf z.nsx == d.board.pairId

/-- The opened and the active zones of this controller's pools, and those of a Pen. -/
def Dev.openZones (d : Dev) : Nat := (d.zones (fun z => z.opened && d.counts z)).length
def Dev.activeZones (d : Dev) : Nat := (d.zones (fun z => z.active && d.counts z)).length
def Dev.openOf (d : Dev) (pen : Nat) : Nat := (d.zones (fun z => z.opened && z.pen == pen && d.counts z)).length
def Dev.activeOf (d : Dev) (pen : Nat) : Nat := (d.zones (fun z => z.active && z.pen == pen && d.counts z)).length

/-- The Pen's open and active quotas; a Pen without a record has the pool's. -/
def Dev.morq (d : Dev) (pen : Nat) : Nat := match d.pen pen with | some p => p.r.morq | none => d.openPool
def Dev.marq (d : Dev) (pen : Nat) : Nat := match d.pen pen with | some p => p.r.marq | none => d.activePool

/-- An active slot and a Fold reservation are left for a zone (R50, R51). -/
def Dev.activeRoom (d : Dev) (z : Zd) : Bool :=
  decide (d.activeZones < d.activePool) && decide (d.activeOf z.pen < d.marq z.pen) && d.foldRoom z.seven

/-- The zone that gives up its open slot (R49): none wanted, one, or no such zone. -/
inductive Evict where
  | free
  | close (ix : Nat)
  | refuse
  deriving DecidableEq, Repr

/-- The Implicitly Opened zones of this controller, least recently written first: one that nothing has written since it
opened, or that came with a takeover, is older than all (R49). -/
def Dev.impZones (d : Dev) : List Nat :=
  let l := d.zones (fun z => decide (z.st = zImp) && d.counts z)
  l.filter (fun ix => !d.media.lru.contains ix) ++ d.media.lru.filter (fun ix => l.contains ix)

def Dev.evict (d : Dev) (pen : Nat) : Evict :=
  let imp := fun (p : Nat → Bool) => d.impZones.find? (fun ix => p (d.zd ix).pen)
  if d.morq pen ≤ d.openOf pen then
    match imp (fun p => p == pen) with | some ix => .close ix | none => .refuse
  else if d.openPool ≤ d.openZones then
    match imp (fun _ => true) with | some ix => .close ix | none => .refuse
  else .free

/-- A zone is written: it is the most recently written (R49). -/
def Dev.touch (d : Dev) (ix : Nat) : Dev :=
  d.onMedia (fun m => { m with lru := m.lru.filter (· != ix) ++ [ix] })

/-! Rows that are released (R46, R130, R140). -/

/-- The key under which a row is kept. -/
def rowKey (seven : Bool) (group lbn : Nat) : Nat := (if seven then 2 ^ 23 else 0) + group * 16384 + lbn

/-- The group and block of a row's key. -/
def keyGroup (k : Nat) : Nat := k % 2 ^ 23 / 16384
def keyLbn (k : Nat) : Nat := k % 16384

/-- What the firmware knew of a row's wear. -/
def Dev.rowWear (d : Dev) (seven : Bool) (group lbn : Nat) : Nat :=
  match SMap.find d.media.rows (rowKey seven group lbn) with
  | some i => i.wear
  | none => 0

/-- A written row as it is released: its wear goes with it, and it awaits its erase. -/
def Dev.rowOf (d : Dev) (seven : Bool) (group lbn : Nat) : Row :=
  let slc := match SMap.find d.media.rows (rowKey seven group lbn) with | some i => i.slc | none => 0
  { seven := seven, group := group, lbn := lbn, wear := d.rowWear seven group lbn, dirty := true, slc := slc }

/-- A released row is queued for erase; what was kept of it as a written row goes (R46, R140). -/
def Dev.queueErase (d : Dev) (r : Row) : Dev :=
  d.onMedia (fun m =>
    { m with eraseQ := m.eraseQ ++ [{ r with dirty := true }], rows := SMap.del m.rows (rowKey r.seven r.group r.lbn)
             skip := m.skip.filter (· != rowKey r.seven r.group r.lbn) })

/-- The member LUNs of a row: channel and LUN number (R37). -/
def Dev.rowLuns (d : Dev) (seven : Bool) (group : Nat) : List (Nat × Nat) :=
  (List.range (members seven)).map (d.member seven group)

/-- A LUN of a channel is a member of a group (R37). -/
def Dev.inGroup (d : Dev) (seven : Bool) (group ch l : Nat) : Bool :=
  (List.range (members seven)).any (fun p => d.member seven group p == (ch, l))

/-- Write a block's class nibble (R121). -/
def Dev.setClass (d : Dev) (ch l lbn c : Nat) : Dev :=
  let i := l * 2048 + lbn / 8
  let w := (d.tblWord true ch i).toNat
  let p := 16 ^ (lbn % 8)
  d.setTbl true ch i (BitVec.ofNat 32 (w - w / p % 16 * p + c % 16 * p))

/-- The age bands of R124, in minutes. -/
def ageBand (min : Nat) : Nat :=
  if min < 60 then 0 else if min < 1440 then 1 else if min < 10080 then 2 else if min < 43200 then 3
  else if min < 129600 then 4 else if min < 525600 then 5 else 6

/-- The temperature column of R124 for a sum and number of samples in quarter degrees: upper bounds
included, the mean not rounded. -/
def tempBand (sum : Int) (n : Nat) : Nat :=
  if sum ≤ 160 * n then 0 else if sum ≤ 220 * n then 1 else if sum ≤ 280 * n then 2 else 3

/-- The shipped table of R124. -/
def retention : List (List Nat) :=
  [[0, 0, 0, 1], [0, 1, 1, 2], [1, 2, 3, 4], [2, 3, 5, 6], [3, 5, 7, 9], [5, 7, 10, 12], [7, 10, 12, 13]]

/-- The retention table in use: the shipped one where the configuration image gives none (R124, R399). -/
def Dev.retTable (d : Dev) : List (List Nat) := if d.board.retTable = [] then retention else d.board.retTable

/-- The model's class for a row by a retention table. -/
def modelClass (t : List (List Nat)) (i : RowInfo) : Nat := ((t.getD (ageBand i.age) []).getD (tempBand i.tfSum i.tfN) 0)

/-- The class that the population rule gives a row (R125): a Fold row keeps class 15, which no other row has. -/
def rowClass (t : List (List Nat)) (i : RowInfo) : Nat :=
  if i.cls = 15 then 15
  else if i.unknown then Nat.max 8 (modelClass t i)
  else if !i.swept then modelClass t i
  else if i.hot then Nat.max i.meas (modelClass t i)
  else i.meas

/-- A row is programmed from now on: its wear stays, its record starts again, and its blocks take the class that the rule gives it
(R121, R123, R125). -/
def Dev.rowStart (d : Dev) (seven : Bool) (group lbn wear : Nat) (slc : Nat := 0) (cls : Nat := 0) : Dev :=
  let i : RowInfo :=
    { wear := wear, tfSum := 0, tfN := 0, age := 0, cls := cls, swept := false, meas := 0, sweepMean := 0,
      hot := false, unknown := false, inPass := false, slc := slc }
  let c := rowClass d.retTable i
  let d := d.onMedia (fun m =>
    { m with
      rows := SMap.put m.rows (rowKey seven group lbn) { i with cls := c }, ckptRows := SMap.del m.ckptRows (rowKey seven group lbn)
      skip := m.skip.filter (· != rowKey seven group lbn) })
  d.each (d.rowLuns seven group) (fun d m => d.setClass m.1 m.2 lbn c)


/-! The rows of Fold (R80, R125). -/

/-- A free row of Fold is taken: one that it has freed, or the next of its group's share. -/
def Dev.foldUse (d : Dev) (r : Row) : Dev :=
  if d.wr.foldFree.contains r then d.onWr (fun w => { w with foldFree := w.foldFree.filter (fun x => x != r) })
  else d.onWr (fun w => { w with foldGiven := SMap.put w.foldGiven r.group (r.lbn + 1) })

/-- The free rows of Fold in an octet of channels that could be programmed now: those that it has freed, and the next of each
group's share, which nothing has worn. -/
def Dev.foldRowsIn (d : Dev) (o : Nat) : List Row :=
  d.wr.foldFree.filter (fun r => decide (r.group % 8 = o) && !r.stale) ++ (d.octetGroups o).filterMap d.shareNext

/-- A row that Fold opens for data: the least worn of its free rows; where it has none it grows by the halves of a free row of the
device (R80, R130). None: no free row. -/
def Dev.foldTake (d : Dev) : Option (Dev × Row) :=
  match d.leastWorn (d.octets.flatMap d.foldRowsIn) with
  | some r => some (d.foldUse r, r)
  | none =>
    match d.homes.findSome? d.bestSet with
    | some s =>
      let x := d.giveSupply s
      let h := halves (d.geomOf (16 * s)).1 x.2
      some (x.1.onWr (fun w => { w with foldFree := w.foldFree ++ [h.2] }), h.1)
    | none => none

/-- Fold opens a row: it is programmed in SLC mode, and its blocks take class 15 (R125). A burst takes none that the reservations
need (R80). -/
def Dev.foldOpen (d : Dev) (burst : Bool) : Option Dev :=
  match (if burst && decide (d.foldLeft + d.foldGrow ≤ d.resvRows) then none else d.foldTake) with
  | none => none
  | some (d, r) =>
    let d := d.rowStart true r.group r.lbn r.wear r.slc 15
    some (d.onWr (fun w => { w with foldRows := w.foldRows ++ [{ row := r, used := 0, burst := burst }] }))

/-- The rows that Fold keeps: for a reservation of every zone that may be active, and for its burst area (R50, R80). DESIGN CHOICE
(assumption 150). -/
def Dev.foldSize (d : Dev) : Nat :=
  (d.activePool * groupLbas false + foldCap - 1) / foldCap + (d.media.policy.burstGib * 2 ^ 18 + foldCap - 1) / foldCap

/-- A row that Fold has freed: free again in Fold, or where Fold has grown beyond what it keeps a free row of the 7+1 pool (R80). -/
def Dev.foldBackRow (d : Dev) (r : Row) : Dev :=
  if d.foldLeft + d.wr.foldRows.length < d.foldSize then d.onWr (fun w => { w with foldFree := w.foldFree ++ [r] })
  else d.setPool true (d.pool true ++ [r])

/-- Fold rows whose last copy has gone are queued for erase, in SLC mode, and are free again while they are whole; a row
that is not leaves Fold (R80, R132). -/
def Dev.foldTidy (d : Dev) : Dev :=
  let idle := d.wr.foldRows.filter (fun f => decide (0 < f.used) &&
    !d.wr.foldAll.any (fun c => c.row == rowKey true f.row.group f.row.lbn))
  if idle.isEmpty then d
  else
    let d := d.onWr (fun w => { w with foldRows := w.foldRows.filter (fun f => !idle.contains f) })
    d.each idle (fun d f =>
      let r : Row := { f.row with dirty := true, inSlc := true }
      let d := d.queueErase r
      if d.rowDead r then d else d.foldBackRow r)

/-- The wear of rows, counted by their 7+1 halves, in the parts of `equiv`. -/
def Dev.wearOf (d : Dev) (l : List Row) : Nat := l.foldl (fun n r => n + (if r.seven then 1 else 2) * d.equiv r.wear r.slc) 0

/-- A row stands among the free rows: of a pool, of the units or of Fold. -/
def Dev.rowFree (d : Dev) (r : Row) : Bool :=
  (d.media.pool14 ++ d.media.pool7 ++ d.media.uFree ++ d.wr.foldFree).any (fun x =>
    x.seven == r.seven && x.group == r.group && x.lbn == r.lbn)

/-- Percentage Used (R135): the mean equivalent erase count of the mapped plane blocks over the rated cycles, rounded up, at
most 255; the rows that nothing has held yet are unworn. -/
def Dev.pctUsed (d : Dev) : Nat :=
  let rows := d.wearOf d.media.pool14 + d.wearOf d.media.pool7 + d.wearOf d.media.uFree + d.wearOf d.wr.foldFree +
    d.wearOf d.wr.flushRows + d.wearOf (d.media.eraseQ.filter (fun r => !d.rowFree r)) + d.media.deadWear +
    d.media.rows.foldl (fun n e => n + (if 2 ^ 23 ≤ e.1 then 1 else 2) * d.equiv e.2.wear e.2.slc) 0
  let total := 8 * d.board.targets * d.board.luns * d.board.nlb * d.board.ratedQlc * d.board.ratedSlc
  if total = 0 then 255 else Nat.min 255 ((100 * rows + total - 1) / total)

/-- When Percentage Used first reaches 100 the endurance group is degraded, with its bit and its event (R135). -/
def Dev.wearCheck (d : Dev) : Dev :=
  if !d.media.worn && decide (100 ≤ d.pctUsed) then
    ((d.onMedia (fun m => { m with worn := true })).onHost (fun h => { h with egCrit := true })).aen 1 0 2
  else d

/-! The rows of the flush area (R148). -/

/-- One more row of the flush area, in an octet of channels: the least worn free SLC row of a group that the area does not
use yet (R130, R148; assumption 27). -/
def Dev.flushPick (d : Dev) (o : Nat) : Dev :=
  let used := d.wr.flushRows.map (·.group)
  match d.leastWorn ((d.foldRowsIn o).filter (fun r => !used.contains r.group)) with
  | some r => (d.foldUse r).onWr (fun w => { w with flushRows := w.flushRows ++ [r] })
  | none => d

/-- The firmware chooses the 16 rows of the flush area: as many in each octet of channels that it owns, so that their LUNs do
not overlap, and journals the choice (R148). The rows that the area stood on before are free SLC rows again. -/
def Dev.chooseFlush (d : Dev) : Dev :=
  let d := d.onWr (fun w => { w with foldFree := w.foldFree ++ w.flushRows, flushRows := [] })
  let os := d.octets
  if os = [] then d
  else
    let d := d.each os (fun d o => d.each (List.range (16 / os.length)) (fun d _ => d.flushPick o))
    d.journal (.ckpt 3 0 0x3000000 d.media.jseq)

/-- The area is chosen again where it does not stand on as many LUNs of each owned channel as it should (R148). -/
def Dev.renewFlush (d : Dev) : Dev :=
  let os := d.octets
  if decide (d.wr.flushRows.length = 16 / os.length * os.length) &&
      os.all (fun o => decide ((d.wr.flushRows.filter (fun r => decide (r.group % 8 = o))).length = 16 / os.length)) then d
  else d.chooseFlush

/-- A block in every plane, erased or about to be: nothing stands on it (R128). -/
def Dev.wipeBlk (d : Dev) (ch l : Nat) (blk : Nat → Nat) : Dev :=
  let gone := fun (k : Nat) => decide (k / 16384 / 16384 = ch * 32 + l) && decide (k / 16384 % 16384 = blk (k / 4 % 4))
  (d.onMedia (fun m => { m with flash := SMap.keep (fun k => !gone k) m.flash })).onMules
    (fun m => { m with parity := SMap.keep (fun k => !gone k) m.parity })

/-- Recovery erases the flush area in SLC mode: once its members are blank an ERASE record for each row, with reason 3, the first channel
of its group standing for the row, and rows chosen again (R140, R148, R153). DESIGN CHOICE (assumption 17): RECOVERY stands for a
recovery whose erases have all passed. -/
def Dev.eraseFlush (d : Dev) : Dev :=
  let d := d.each d.wr.flushRows (fun d r =>
    (d.each (d.rowLuns true r.group) (fun d m => d.wipeBlk m.1 m.2 (fun p => d.pblkOf m.1 m.2 p r.lbn))).journal
      (.erase (8 * (r.group % 8)) (groupCode true r.group) r.lbn 3))
  let d := d.onWr (fun w =>
    { w with
      flushRows := w.flushRows.map (fun r => { r with slc := r.slc + 1, dwell := 0 })
      flushArea := [], flushPeer := [], flushWas := [], flushValid := true })
  (d.wearCheck).chooseFlush

/-- A LUN of the flush area (R148). -/
def Dev.flushLun (d : Dev) (ch l : Nat) : Bool := d.wr.flushRows.any (fun r => d.inGroup true r.group ch l)

/-! The buffer copies and Fold copies of a namespace (R64, R79). -/

/-- The namespace LBA at which an entry starts. -/
def Entry.lba (e : Entry) : Nat := e.zone + e.ofs

/-- The entries' pieces left when [lo, hi) of a namespace is released. -/
def cutEntry (nsx lo hi : Nat) (e : Entry) : List Entry :=
  if e.nsx ≠ nsx ∨ !e.acked ∨ hi ≤ e.lba ∨ e.lba + e.secs.length ≤ lo then [e]
  else
    let l := e.secs.take (lo - e.lba)
    let k := hi - e.lba
    let r := e.secs.drop k
    (if l.isEmpty then [] else [{ e with secs := l }]) ++
      (if r.isEmpty then [] else [{ e with ofs := e.ofs + k, secs := r }])

/-- Release the buffer copies of a range of a namespace. -/
def Dev.dropEntries (d : Dev) (nsx lo hi : Nat) : Dev :=
  d.onWr (fun w => { w with entries := w.entries.flatMap (cutEntry nsx lo hi) })

/-- The Fold copies' pieces left when [lo, hi) of a namespace is released. -/
def cutFold (nsx lo hi : Nat) (f : FoldCopy) : List FoldCopy :=
  if f.nsx ≠ nsx ∨ hi ≤ f.lba ∨ f.lba + f.secs.length ≤ lo then [f]
  else
    let l := f.secs.take (lo - f.lba)
    let r := f.secs.drop (hi - f.lba)
    (if l.isEmpty then [] else [{ f with secs := l }]) ++
      (if r.isEmpty then [] else [{ f with lba := hi, secs := r }])

/-- A Fold program after a range of a namespace is released: what it makes no copy of any more is left out. -/
def cutJob (nsx lo hi : Nat) (j : FoldJob) : List FoldJob := (cutFold nsx lo hi j.copy).map (fun c => { j with copy := c })

/-- Release the Fold copies of a range of a namespace. -/
def Dev.dropFold (d : Dev) (nsx lo hi : Nat) : Dev :=
  (d.onWr (fun w =>
    { w with fold := w.fold.flatMap (cutFold nsx lo hi), foldJobs := w.foldJobs.flatMap (cutJob nsx lo hi) })).foldTidy

/-- Release a range once its covering record is journaled: at once, or in DUO when the peer has
confirmed the record (R235). -/
def Dev.release (d : Dev) (nsx lo hi : Nat) : Dev :=
  if d.tees ∧ 2 ≤ d.fld A.PAIR_STAT 1 0 then
    d.onWr (fun w => { w with rels := w.rels ++ [{ fseq := d.pair.txSeq, nsx := nsx, lo := lo, hi := hi }] })
  else d.dropEntries nsx lo hi

/-- The peer has confirmed frames up to a sequence: replay and releases follow (R235, R251). -/
def Dev.ackFrames (d : Dev) (ack : Nat) : Dev :=
  let d := d.onPair (fun p => { p with replay := p.replay.filter (fun f => decide (ack < f.1)) })
  let done := d.wr.rels.filter (fun r => decide (r.fseq ≤ ack))
  let d := d.onWr (fun w => { w with rels := w.rels.filter (fun r => decide (ack < r.fseq)) })
  d.each done (fun d r => d.dropEntries r.nsx r.lo r.hi)

/-- The buffered sector of an LBA: of the latest acknowledged entry that holds it. -/
def Dev.buffered (d : Dev) (nsx lba : Nat) : Option Sector :=
  d.wr.entries.foldl (fun b e =>
    if e.nsx = nsx ∧ e.acked ∧ e.lba ≤ lba ∧ lba < e.lba + e.secs.length then e.secs[lba - e.lba]? else b) none

/-- The Fold copy of an LBA: the latest. -/
def Dev.folded (d : Dev) (nsx lba : Nat) : Option Sector :=
  d.wr.fold.foldl (fun b f =>
    if f.nsx = nsx ∧ f.lba ≤ lba ∧ lba < f.lba + f.secs.length then f.secs[lba - f.lba]? else b) none

/-- The zone of an LBA, as a descriptor index; 0 for a conventional namespace. -/
def Dev.zoneIxOf (d : Dev) (nsx lba : Nat) : Nat :=
  match d.media.nss.find? (fun n => n.nsx == nsx) with
  | some n => if n.zoned then n.base + lba / zsze n.seven else 0
  | none => 0

/-- The LBAs of one stripe row of a Fold row: 7 units of 64 KiB (R35, R79). -/
def foldStripe : Nat := 112

/-- The Fold programs of consecutive sectors from an LBA upward start, row by row (R79); what no Fold row is free for stays in the
buffer (R132). DESIGN CHOICE (assumption 150): each part takes whole stripe rows, and its program is one page on each of the 8 members
of each of them. -/
def Dev.foldPut : Nat → Dev → Nat → Nat → List Sector → Bool → Nat → Dev
  | 0, d, _, _, _, _, _ => d
  | k + 1, d, nsx, lba, secs, burst, pid =>
    if secs.isEmpty then d
    else match d.wr.foldRows.find? (fun f => f.burst == burst && decide (f.used < foldCap)) with
      | none =>
        match d.foldOpen burst with
        | some d => d.foldPut k nsx lba secs burst pid
        | none => d
      | some f =>
        let n := Nat.min secs.length (foldCap - f.used)
        let rows := (n + foldStripe - 1) / foldStripe
        let copy : FoldCopy :=
          { nsx := nsx, lba := lba, secs := secs.take n, burst := burst, lost := false, row := rowKey true f.row.group f.row.lbn
            unit := f.used / 16, pid := pid }
        let d := d.onWr (fun w =>
          { w with
            foldJobs := w.foldJobs ++ [{ copy := copy, pages := rows }]
            foldRows := w.foldRows.map (fun x => if x = f then { f with used := f.used + rows * foldStripe } else x) })
        d.foldPut k nsx (lba + n) (secs.drop n) burst pid

/-- What an interval leaves of others. -/
def cutOut (l : List (Nat × Nat)) (r : Nat × Nat) : List (Nat × Nat) :=
  l.flatMap (fun x =>
    if x.2 ≤ r.1 ∨ r.2 ≤ x.1 then [x]
    else (if x.1 < r.1 then [(x.1, r.1)] else []) ++ (if r.2 < x.2 then [(r.2, x.2)] else []))

/-- Move [lo, hi) of a namespace from the buffer to Fold (R79): what no Fold program moves already, and what is not waiting for its
release. Outside the flash window no program starts (R85), and while the flush latch is set folding stops (R151). -/
def Dev.foldMove (d : Dev) (nsx lo hi : Nat) (burst : Bool := false) : Dev :=
  if d.fwFlag || d.tor.latch then d else
  d.each (d.wr.entries.filter (fun e => decide (e.nsx = nsx) && e.acked &&
      decide (e.lba < hi) && decide (lo < e.lba + e.secs.length))) (fun d e =>
    let under := (d.wr.foldJobs.filter (fun j => j.copy.nsx == nsx)).map (fun j => (j.copy.lba, j.copy.lba + j.copy.secs.length)) ++
      (d.wr.rels.filter (fun r => r.nsx == nsx)).map (fun r => (r.lo, r.hi))
    d.each (under.foldl cutOut [(Nat.max lo e.lba, Nat.min hi (e.lba + e.secs.length))]) (fun d p =>
      d.foldPut 64 nsx p.1 ((e.secs.drop (p.1 - e.lba)).take (p.2 - p.1)) burst e.pid))

/-- The sector of an LBA that the buffer or else Fold holds. -/
def Dev.latest (d : Dev) (nsx lba : Nat) : Option Sector :=
  match d.buffered nsx lba with | some s => some s | none => d.folded nsx lba

/-- A Fold copy is whole: its FOLDPUT record is journaled, an older Fold copy of its LBAs goes, and their buffer copies are released
(R79). -/
def Dev.foldIn (d : Dev) (c : FoldCopy) : Dev :=
  let n := c.secs.length
  let d := d.onWr (fun w => { w with fold := w.fold.flatMap (cutFold c.nsx c.lba (c.lba + n)) ++ [c] })
  (d.journal (.foldput c.nsx (d.zoneIxOf c.nsx c.lba) c.lba n c.row c.unit)).release c.nsx c.lba (c.lba + n)

/-- A Fold program has passed on every member: its copy counts for each LBA that has not been written again since (R79). -/
def Dev.foldDone (d : Dev) (j : FoldJob) : Dev :=
  let c := j.copy
  let d := d.onWr (fun w => { w with foldJobs := w.foldJobs.filter (fun x => x != j) })
  if c.secs.zipIdx.all (fun s => d.latest c.nsx (c.lba + s.2) == some s.1) then (d.foldIn c).foldTidy
  else
    (d.each c.secs.zipIdx (fun d s =>
      if d.latest c.nsx (c.lba + s.2) = some s.1 then
        d.foldIn { c with lba := c.lba + s.2, secs := [s.1], unit := c.unit + s.2 / 16 }
      else d)).foldTidy

/-- A Fold program stands on a page of a member block. -/
def Dev.jobOn (d : Dev) (j : FoldJob) (ch l lbn : Nat) : Bool :=
  decide (keyLbn j.copy.row = lbn) && d.inGroup true (keyGroup j.copy.row) ch l

/-- A member page of Fold has been programmed: the programs that wait for it have one fewer to go, and one that waits for none has
passed (R79). -/
def Dev.foldPassed (d : Dev) (ch l lbn page : Nat) : Dev :=
  let on := fun (j : FoldJob) => d.jobOn j ch l lbn && decide (j.copy.unit / 7 ≤ page) && decide (page < j.copy.unit / 7 + j.pages)
  let d := d.onWr (fun w => { w with foldJobs := w.foldJobs.map (fun j =>
    if on j ∧ !j.passed.contains (ch, l, page) then { j with passed := j.passed ++ [(ch, l, page)] } else j) })
  d.each (d.wr.foldJobs.filter (fun j => decide (8 * j.pages ≤ j.passed.length))) Dev.foldDone

/-- A member block of Fold can take no more: its row is closed, and what was being programmed there is programmed into another Fold
row (R132). -/
def Dev.foldAgain (d : Dev) (ch l lbn : Nat) : Dev :=
  let bad := d.wr.foldJobs.filter (fun j => d.jobOn j ch l lbn)
  let d := d.onWr (fun w =>
    { w with
      foldJobs := w.foldJobs.filter (fun j => !d.jobOn j ch l lbn)
      foldRows := w.foldRows.map (fun f =>
        if f.row.lbn = lbn ∧ d.inGroup true f.row.group ch l then { f with used := foldCap } else f) })
  (d.each bad (fun d j => d.foldPut 64 j.copy.nsx j.copy.lba j.copy.secs j.copy.burst j.copy.pid)).foldTidy

/-- The Fold copies on some rows are moved to other Fold rows (R133). -/
def Dev.foldRelocate (d : Dev) (p : Row → Bool) : Dev :=
  let keys := ((d.wr.foldRows.filter (fun f => p f.row)).map (fun f => rowKey true f.row.group f.row.lbn))
  let d := d.onWr (fun w => { w with foldRows := w.foldRows.map (fun f => if p f.row then { f with used := foldCap } else f) })
  d.each (d.wr.fold.filter (fun c => keys.contains c.row && !c.lost)) (fun d c => d.foldPut 64 c.nsx c.lba c.secs c.burst c.pid)

/-! Intervals of a zone: acknowledged and admitted LBAs (R68). -/

/-- The intervals [start, end) of the buffer entries of a zone that satisfy a test, as offsets. -/
def Dev.entryRuns (d : Dev) (nsx zstart : Nat) (p : Entry → Bool) : List (Nat × Nat) :=
  (d.wr.entries.filter (fun e => decide (e.nsx = nsx) && decide (e.zone = zstart) && p e)).map
    (fun e => (e.ofs, e.ofs + e.secs.length))

/-- The intervals of the Fold copies of a zone, as offsets. -/
def Dev.foldRuns (d : Dev) (nsx zstart size : Nat) : List (Nat × Nat) :=
  (d.wr.fold.filter (fun f => decide (f.nsx = nsx) && decide (zstart ≤ f.lba) && decide (f.lba < zstart + size))).map
    (fun f => (f.lba - zstart, f.lba - zstart + f.secs.length))

/-- The end of the run of intervals that starts at a point. -/
def runEnd : Nat → List (Nat × Nat) → Nat → Nat
  | 0, _, x => x
  | n + 1, l, x =>
    match l.find? (fun r => decide (r.1 ≤ x) && decide (x < r.2)) with
    | some r => runEnd n l r.2
    | none => x

/-- Two intervals meet. -/
def meets (a b : Nat × Nat) : Bool := decide (a.1 < b.2) && decide (b.1 < a.2)

/-- The lowest offset at or above a point from which n LBAs meet no interval. -/
def firstFit : Nat → List (Nat × Nat) → Nat → Nat → Nat
  | 0, _, _, x => x
  | k + 1, l, n, x =>
    match l.find? (fun r => meets r (x, x + n)) with
    | some r => firstFit k l n r.2
    | none => x

/-- All LBAs of a zone that are acknowledged or held by an admitted write, above FP. -/
def Dev.heldRuns (d : Dev) (nsx zstart size : Nat) : List (Nat × Nat) :=
  d.entryRuns nsx zstart (fun _ => true) ++ d.foldRuns nsx zstart size

/-- The acknowledged ones. -/
def Dev.ackedRuns (d : Dev) (nsx zstart size : Nat) : List (Nat × Nat) :=
  d.entryRuns nsx zstart (·.acked) ++ d.foldRuns nsx zstart size

/-- The admission pointer (R68). -/
def Dev.ap (d : Dev) (nsx zstart size wp : Nat) : Nat :=
  let l := d.heldRuns nsx zstart size
  runEnd (l.length + 1) l wp

/-- WP after acknowledgments: the end of the run of acknowledged LBAs that starts at it (R43, R68). -/
def Dev.wpNow (d : Dev) (nsx zstart size wp : Nat) : Nat :=
  let l := d.ackedRuns nsx zstart size
  runEnd (l.length + 1) l wp

/-- The highest acknowledged offset's end, or a floor. -/
def topEnd (floor : Nat) (l : List (Nat × Nat)) : Nat := l.foldl (fun m r => Nat.max m r.2) floor

/-! Program groups (R76, R78). -/

/-- The program group that a zone programs next: after FP and the groups in flight. -/
def Dev.nextGroup (d : Dev) (ix : Nat) (z : Zd) : Nat :=
  z.fp + (d.wr.groups.filter (fun g => decide (g.ix = ix))).length * groupLbas z.seven

/-- The sectors of [lo, hi) of a namespace, from the buffer first, then Fold; none where one lacks. -/
def Dev.gather (d : Dev) (nsx lo : Nat) : Nat → Option (List (Nat × Sector))
  | 0 => some []
  | n + 1 =>
    match d.gather nsx lo n with
    | none => none
    | some l =>
      match d.buffered nsx (lo + n) with
      | some s => some (l ++ [(lo + n, s)])
      | none =>
        match d.folded nsx (lo + n) with
        | some s => some (l ++ [(lo + n, s)])
        | none => none

/-- Start the program of the next whole group of a zone below a limit offset (R43, R76). Outside the
flash window, on channels not owned, and while the zone is relocated, nothing starts (R34, R85, R144). -/
def Dev.issueGroup (d : Dev) (ix zstart below : Nat) : Dev :=
  let z := d.zd ix
  let o := d.nextGroup ix z
  let n := groupLbas z.seven
  if below < o + n ∨ d.media.relocs.any (fun r => !r.conv && r.zone == ix) ∨ d.fwFlag ∨ d.tor.latch ∨ !d.ownsGroup z.seven z.group then d
  else
    match d.gather z.nsx (zstart + o) n with
    | none => d
    | some secs =>
      d.onWr (fun w =>
        { w with
          groups := w.groups ++ [{ ix := ix, start := o, left := members z.seven, failed := false, secs := secs
                                   row := rowKey z.seven z.group z.lbn }]
          qlc := w.qlc + n * 4096 })

/-- Every whole group of a zone below a limit is started. -/
def Dev.issueAll (d : Dev) (ix zstart below : Nat) : Dev :=
  d.each (List.range 256) (fun d _ => d.issueGroup ix zstart below)

/-- A member's program has passed: the groups of that member block whose word line it was have one fewer to go (R78). -/
def Grp.pass (g : Grp) (m : Nat × Nat) : Grp :=
  if g.passed.contains m then g else { g with passed := g.passed ++ [m], left := g.left - 1 }

/-! Zone transitions (R46). -/

/-- Close a zone: whole groups below WP go to QLC, the rest above FP goes to Fold, the slot is
released (R46). -/
def Dev.closeZone (d : Dev) (ix zstart : Nat) : Dev :=
  let z := d.zd ix
  let d := d.issueAll ix zstart z.wp
  let keep := d.nextGroup ix z
  let d := d.foldMove z.nsx (zstart + keep) (zstart + zcap z.seven)
  let d := d.journal (.zstate z.nsx ix zClosed z.wp)
  d.setZd ix { d.zd ix with st := zClosed }

/-- The start LBA of a zone of the table, by its namespace. -/
def Dev.zstart (d : Dev) (ix : Nat) : Nat :=
  match d.media.nss.find? (fun n => n.nsx == (d.zd ix).nsx) with
  | some n => (ix - n.base) * zsze n.seven
  | none => 0


/-- An Empty zone that could open waits for the erase of its row (R53): the row. -/
def Dev.openWaits (d : Dev) (ix : Nat) : Option Row :=
  let z := d.zd ix
  if z.st = zEmpty ∧ d.activeRoom z ∧ d.evict z.pen ≠ .refuse then
    match d.bestRow z.seven z.nsx with
    | some r => if r.stale then some r else none
    | none => none
  else none

/-- The namespace is on its way to another Pen (R189). -/
def Dev.moving (d : Dev) (nsx : Nat) : Bool := d.pens.moves.any (fun m => m.nsx == nsx)

/-- A zone that is opened during the move of its namespace has COLOK set when the move ends. DESIGN CHOICE (assumption 135). -/
def Dev.moveOpened (d : Dev) (nsx ix : Nat) : Dev :=
  d.onPens (fun x => { x with moves := x.moves.map (fun m => if m.nsx = nsx then { m with ixs := m.ixs.filter (· != ix) ++ [ix] } else m) })

/-- The statuses of R47 at the transitions of a zone to an opened state; none: the zone is opened. -/
def Dev.openZone (d : Dev) (ix : Nat) (explicit : Bool) : Dev × Option Status :=
  let z := d.zd ix
  let target := if explicit then zExp else zImp
  if z.opened then
    ((if explicit then d.setZd ix { z with st := zExp } else d), none)
  else if z.st = zEmpty ∧ !d.activeRoom z then (d, some .tooManyActive)
  else
    let slot := match d.evict z.pen with
      | .free => some d
      | .close v => some (d.closeZone v (d.zstart v))
      | .refuse => none
    match slot with
    | none => (d, some .tooManyOpen)
    | some d =>
      if z.st = zClosed then (d.setZd ix { z with st := target }, none)
      else
        match d.bestRow z.seven z.nsx with
        | none => (d, some .tooManyActive)
        | some r =>
          let d := d.setPool z.seven ((d.pool z.seven).filter (fun x => x != r))
          let d := d.onWr (fun w => { w with resv := w.resv ++ [ix] })
          let d := d.rowStart r.seven r.group r.lbn r.wear r.slc
          let d := d.journal (.zopen z.nsx ix r.group r.lbn z.zseq z.seven)
          let d := d.moveOpened z.nsx ix
          (d.setZd ix { z with st := target, group := r.group, lbn := r.lbn, colok := !d.moving z.nsx }, none)

/-- The row that an open waits for is queued for erase where it is not yet (R53, R130). -/
def Dev.prepRow (d : Dev) (r : Row) : Dev :=
  if r.dirty then d
  else (d.queueErase r).setPool r.seven ((d.pool r.seven).map (fun x => if x = r then { r with dirty := true } else x))

/-- Writes of a zone that have been admitted and not acknowledged leave the buffer, and each completes with a status. -/
def Dev.endUnacked (d : Dev) (nsx zstart : Nat) (st : Status) : Dev :=
  let gone := fun (e : Entry) => e.zoned && e.nsx == nsx && e.zone == zstart && !e.acked
  let l := d.wr.entries.filter gone
  (d.onWr (fun w => { w with entries := w.entries.filter (fun e => !gone e) })).completeAll (l.map (·.h)) st false

/-- Reset a zone (R46): the record first, then Empty with the next ZSEQ; the old row is queued for
erase and, while it is whole, goes back to its pool; a pool that is short takes zones Offline (R53). DESIGN CHOICE
(assumption 114): a write admitted to the zone before the reset and not acknowledged completes with Zone Invalid Write. -/
def Dev.resetZone (d : Dev) (ix zstart : Nat) : Dev :=
  let z := d.zd ix
  let had := z.active || decide (z.st = zFull)
  let d := d.endUnacked z.nsx zstart .zoneInvalidWrite
  let d := d.journal (.zreset z.nsx ix (nextGen z.zseq) z.group z.lbn)
  let row : Row := d.rowOf z.seven z.group z.lbn
  let d := if had then d.queueErase row else d
  let d := if had && !d.rowDead row then d.setPool z.seven (d.pool z.seven ++ [row]) else d
  let lo := zstart
  let hi := zstart + zsze z.seven
  let d := (d.dropEntries z.nsx lo hi).dropFold z.nsx lo hi
  let d := d.onWr (fun w =>
    { w with resv := w.resv.filter (· != ix), groups := w.groups.filter (fun g => decide (g.ix ≠ ix)) })
  let d := d.onMedia (fun m => { m with lru := m.lru.filter (· != ix) })
  let d := d.setZd ix { z with st := zEmpty, wp := 0, fp := 0, zseq := nextGen z.zseq, group := 0, lbn := 0 }
  let d := (d.backing z.seven).capacityCheck
  if (d.zd ix).st = zEmpty then d.capacityBack else d

/-- The zone goes Read Only: WP stays, COLOK is cleared, the data above FP is held in Fold (R46, R54). -/
def Dev.readOnlyZone (d : Dev) (ix zstart : Nat) : Dev :=
  let z := d.zd ix
  let d := d.onWr (fun w => { w with groups := w.groups.filter (fun g => decide (g.ix ≠ ix)) })
  let d := d.foldMove z.nsx (zstart + z.fp) (zstart + zcap z.seven)
  let d := d.journal (.zstate z.nsx ix zRO z.wp)
  ((d.setZd ix { d.zd ix with st := zRO, colok := false }).changedZone ix).capacityCheck

/-- The reclaim units that host data of a namespace fills now: one for each handle in use (R59, R60). -/
def Dev.curUnits (d : Dev) (nsx : Nat) : List Nat :=
  (d.media.curUnit.filter (fun e => e.1 / 128 == nsx)).map (fun e => e.2 / 2 ^ 18)

/-- Garbage collection can still free a unit of a namespace: a copy is under way, or a unit that host data does not fill
holds sectors that are not valid. -/
def Dev.garbage (d : Dev) (nsx : Nat) : Bool :=
  d.media.relocs.any (fun r => r.conv && r.nsx == nsx) ||
    d.media.units.any (fun e => e.1 / 2 ^ 21 == nsx && !(d.curUnits nsx).contains (e.1 % 2 ^ 21) && decide (e.2 < 229376))

/-- A namespace loses its last free units: write-protected when fewer than 2 are left and garbage collection can free no
more (R58). -/
def Dev.protectCheck (d : Dev) (nsx : Nat) : Dev :=
  match d.media.nss.find? (fun n => n.nsx == nsx) with
  | some n =>
    if !n.zoned && decide (n.freeRu < 2) && !d.garbage nsx then (d.setNs { n with prot := true }).capacityCheck else d
  | none => d

/-! Reclaim units (R57 to R60, R142, R143). -/

/-- The key of a reclaim unit. DESIGN CHOICE (assumption 21): a unit has the number of the row on which it stands, group × 16,384 + LBN. -/
def unitKey (nsx u : Nat) : Nat := nsx * 2 ^ 21 + u

/-- The free rows that the conventional namespaces of a home hold: free units, rows awaiting erase included. -/
def Dev.unitFree (d : Dev) (home : Bool) : List Row := d.media.uFree.filter (fun r => d.homeGroup home false r.group)

/-- The row that a unit of a namespace takes next (R130). -/
def Dev.bestUnitRow (d : Dev) (n : Ns) : Option Row :=
  d.leastWorn ((d.unitFree n.home).filter (fun r => d.ownsGroup false r.group))


/-- A unit opens on a free row. -/
def Dev.unitOn (d : Dev) (n : Ns) (r : Row) : Dev × Nat :=
  let u := rowKey false r.group r.lbn
  let d := d.onMedia (fun m =>
    { m with units := SMap.put m.units (unitKey n.nsx u) 0, urow := SMap.put m.urow (unitKey n.nsx u) (rowKey false r.group r.lbn)
             uFree := m.uFree.filter (fun x => x != r) })
  let d := d.onMedia (fun m => { m with nss := m.nss.map (fun x => if x.nsx = n.nsx then { x with freeRu := x.freeRu - 1 } else x) })
  (d.rowStart false r.group r.lbn r.wear r.slc, u)

/-- A unit opens for a namespace where a free row is erased; a row that awaits its erase is made ready first (R53, R130). -/
def Dev.openUnit (d : Dev) (n : Ns) : Dev × Option Nat :=
  match d.bestUnitRow n with
  | none => (d, none)
  | some r =>
    if r.stale then
      (if r.dirty then d
       else (d.queueErase r).onMedia (fun m => { m with uFree := m.uFree.map (fun x => if x = r then { r with dirty := true } else x) }), none)
    else
      let x := d.unitOn n r
      (x.1, some x.2)

/-- The acknowledged conventional sectors of a handle in the buffer, oldest first. -/
def Dev.convSecs (d : Dev) (nsx h : Nat) : List (Nat × Sector) :=
  (d.wr.entries.filter (fun e => e.nsx == nsx && e.acked && e.pid == h)).flatMap
    (fun e => (e.secs.zipIdx).map (fun (s, i) => (e.lba + i, s)))

/-- Those that stand in Fold (R60, R81). -/
def Dev.convFold (d : Dev) (nsx h : Nat) : List (Nat × Sector) :=
  ((d.wr.fold.filter (fun f => f.nsx == nsx && f.pid == h && !f.lost)).flatMap
    (fun f => (f.secs.zipIdx).map (fun (s, i) => (f.lba + i, s)))).filter (fun p => (d.buffered nsx p.1).isNone)

/-- The handles whose data stands in the buffer, oldest first. -/
def Dev.handles (d : Dev) (nsx : Nat) : List Nat :=
  ((d.wr.entries.filter (fun e => e.nsx == nsx && e.acked)).map (·.pid)).dedup

/-- Those whose data stands in Fold. -/
def Dev.foldHandles (d : Dev) (nsx : Nat) : List Nat := ((d.wr.fold.filter (fun f => f.nsx == nsx && !f.lost)).map (·.pid)).dedup

/-- The flash sector of a place of a reclaim unit, as unit × 2^18 + offset in its row (R39, R57, R128); none: the unit's row is not
known here. -/
def Dev.unitPlace (d : Dev) (nsx p : Nat) : Option Nat :=
  (SMap.find d.media.urow (unitKey nsx (p / 2 ^ 18))).map (fun k => d.zoneKey false (keyGroup k) (keyLbn k) (p % 2 ^ 18))

/-- A sector is programmed at a place of a reclaim unit. -/
def Dev.putUnit (d : Dev) (nsx p : Nat) (s : Sector) : Dev :=
  match d.unitPlace nsx p with
  | some k => d.onMedia (fun m => { m with flash := SMap.put m.flash k s })
  | none => d

/-- The key of a handle's current unit. -/
def handleKey (nsx h : Nat) : Nat := nsx * 128 + h

/-- The current unit of a handle with room for n sectors, a free one being opened where there is none: its number and what
it holds of its 229,376 sectors (R59, R60). -/
def Dev.unitFor (d : Dev) (n : Ns) (h k : Nat) : Dev × Option Nat :=
  match SMap.find d.media.curUnit (handleKey n.nsx h) with
  | some p =>
    if p % 2 ^ 18 + k ≤ 229376 then (d, some p)
    else
      let x := d.openUnit n
      (x.1, x.2.map (· * 2 ^ 18))
  | none =>
    let x := d.openUnit n
    (x.1, x.2.map (· * 2 ^ 18))

/-- A whole group of conventional data of a handle goes to the handle's current unit (R57, R60, R76). -/
def Dev.issueSecs (d : Dev) (n : Ns) (h : Nat) (secs : List (Nat × Sector)) : Dev :=
  let ix := 2 ^ 20 + n.nsx
  if d.fwFlag || d.tor.latch || d.wr.groups.any (fun g => g.ix == ix) then d
  else
    match d.unitFor n h 896 with
    | (d, none) => d
    | (d, some p) =>
      let d := d.onMedia (fun m => { m with curUnit := SMap.put m.curUnit (handleKey n.nsx h) (p + 896) })
      d.onWr (fun w =>
        { w with
          groups := w.groups ++ [{ ix := ix, start := p, left := 16, failed := false, secs := secs
                                   row := (SMap.find d.media.urow (unitKey n.nsx (p / 2 ^ 18))).getD 0 }]
          qlc := w.qlc + 896 * 4096 })

/-- The first whole group of conventional data of a handle in the buffer goes to its unit (R57, R60, R76). -/
def Dev.issueConv (d : Dev) (n : Ns) : Dev :=
  match (d.handles n.nsx).find? (fun h => decide (896 ≤ (d.convSecs n.nsx h).length)) with
  | none => d
  | some h => d.issueSecs n h ((d.convSecs n.nsx h).take 896)

/-- Folding of conventional data (R60, R81): the Fold copies of a handle, joined with its buffer data, where they make a whole
group. -/
def Dev.foldConv (d : Dev) (n : Ns) : Dev :=
  let all := fun h => d.convFold n.nsx h ++ d.convSecs n.nsx h
  match (d.foldHandles n.nsx).find? (fun h => decide (896 ≤ (all h).length)) with
  | none => d
  | some h => d.issueSecs n h ((all h).take 896)

/-- A unit holds nothing any more: its row is queued for erase and, while it is whole, is free again; a row that is not
takes a unit of the reserve with it (R132, R140). -/
def Dev.freeUnit (d : Dev) (nsx u : Nat) : Dev :=
  match SMap.find d.media.urow (unitKey nsx u) with
  | none => d.onMedia (fun m => { m with units := SMap.del m.units (unitKey nsx u) })
  | some k =>
    let r := d.rowOf false (k / 16384) (k % 16384)
    let d := d.onMedia (fun m =>
      { m with
        units := SMap.del m.units (unitKey nsx u), urow := SMap.del m.urow (unitKey nsx u)
        old := m.old.filter (fun e => !(e.1 / 2 ^ 40 == nsx && e.2.unit == u)) })
    let d := d.queueErase r
    if d.rowDead r then d
    else d.onMedia (fun m =>
      { m with uFree := m.uFree ++ [r]
               nss := m.nss.map (fun x => if x.nsx = nsx then { x with freeRu := x.freeRu + 1 } else x) })

end Sys2Proof.Machine
end

