-- ==== Sys2Proof/Machine/WritePath.lean ====
section
/-! DEFINITION. The write path (R64 to R88): admission, the buffer entry, acknowledgment, failures,
the buffer ceiling and its measurement. -/

namespace Sys2Proof.Machine

/-! Completion with the rules of the status (R173, R261). -/

/-- The vendor statuses of R261. -/
def Status.vendor (st : Status) : Bool := decide (0x700 ≤ st.code)

/-- Do Not Retry (R261): set for 82h to 84h, and for 85h unless TRANSIT is 1 or the device is in INIT (R275). -/
def Dev.dnr (d : Dev) (st : Status) : Bool :=
  match st with
  | .stripeUnrec | .penLimit | .calSeq => true
  | .modeRefused => !d.fw.transit && decide (d.fw.mode ≠ .init)
  | _ => false

/-- Complete a command that fails; a vendor status adds an Error Information log entry (R261), whose
64 latest are kept (R256). -/
def Dev.failCmd (d : Dev) (h : Hdr) (st : Status) : Dev :=
  let d := d.complete h st (d.dnr st)
  if st.vendor then d.addErr h.qid h.cid st.code 0 else d

/-! Ceilings (R70 to R75). -/

/-- 16 MiB steps. -/
def floor16 (mib : Nat) : Nat := mib / 16 * 16

/-- B_ceil in MiB (R71), from capacitance in µF, voltages in mV, efficiency in thousandths and
tPROG_SLC in µs. Energies are counted in units of 5e-16 J, so that every constant of R71 is whole. -/
def bCeil (c v vmin eta tprog : Nat) : Nat :=
  let e := eta * c * (v * v - vmin * vmin)
  let rn := if 32000000000 * tprog ≤ 7340032000000 then 32000000000 else 7340032000000
  let rd := if 32000000000 * tprog ≤ 7340032000000 then 1 else tprog
  let b := rn * (5 * e - 8100000000000000) / (rd * 675000000000000000)
  Nat.min 1024 (floor16 (b / 1048576))

/-- The ceiling at a bank voltage with the last measured capacitance; 0 where no bank is fitted or none
was measured (R70, R74). -/
def Dev.ceilAt (d : Dev) (mv : Nat) : Nat :=
  if !d.board.bankFitted then 0
  else match d.wr.cUf with
    | some c => bCeil c mv d.board.vMinMv d.board.etaPm d.board.tprogSlcUs
    | none => 0

/-- From the second phase of a handback the DUO limit applies (R241). -/
def Dev.settling (d : Dev) : Bool :=
  match d.pair.req with
  | some r => d.pair.tee && decide (2 ≤ r.ph)
  | none => false

/-- The limit on occupancy in bytes (R72). -/
def Dev.limit (d : Dev) : Nat :=
  (if d.fw.role = .duo ∨ d.settling then floor16 (Nat.min d.wr.bceil d.wr.peerCeil / 2) else d.wr.bceil) * 1048576

/-- The bytes of a list of entries. -/
def occBytes (l : List Entry) : Nat := l.foldl (fun n e => n + e.secs.length * 4096) 0

/-- Buffer occupancy. -/
def Dev.occ (d : Dev) : Nat := occBytes d.wr.entries

/-- Occupancy of a Pen. -/
def Dev.penOcc (d : Dev) (p : Nat) : Nat := occBytes (d.wr.entries.filter (fun e => e.pen == p))

/-- A Pen's share of the limit in bytes (R183). -/
def Dev.share (d : Dev) (p : Nat) : Nat :=
  match d.pen p with | some i => d.limit * i.r.bufsh / 1024 | none => 0

/-- The part of the limit that no share takes (R183). -/
def Dev.unassigned (d : Dev) : Nat :=
  d.limit - d.pens.recs.foldl (fun n e => n + d.limit * e.2.r.bufsh / 1024) 0

/-- What the Pens other than one use of the unassigned part. -/
def Dev.borrowed (d : Dev) (p : Nat) : Nat :=
  d.pens.recs.foldl (fun n e => if e.1 = p then n else n + (d.penOcc e.1 - d.share e.1)) 0

/-- A Pen whose share has fallen below its occupancy waits until the occupancy is below the share (R183). -/
def Dev.overShare (d : Dev) (p : Nat) : Bool := d.pens.aboveShare.contains p && decide (d.penOcc p ≠ 0) && decide (d.share p ≤ d.penOcc p)

/-- The Pens whose share has fallen below their occupancy since the last look, and those that still wait for theirs (R183). -/
def Dev.noteShares (d : Dev) : Dev :=
  let fell := (d.pens.recs.map Prod.fst).filter (fun p =>
    decide (d.share p < SMap.get (fun _ => 0) d.pens.shares p) && decide (d.share p < d.penOcc p) && !d.pens.aboveShare.contains p)
  let now := d.pens.recs.foldl (fun m e => SMap.set (fun _ => 0) m e.1 (d.share e.1)) []
  d.onPens (fun x => { x with aboveShare := x.aboveShare.filter d.overShare ++ fell, shares := now })

/-- Buffer space for a write of a Pen: under the limit, and in the Pen's share or the unassigned part (R71, R75, R183). -/
def Dev.space (d : Dev) (p bytes : Nat) : Bool :=
  decide (d.occ + bytes ≤ d.limit) && !d.overShare p &&
    (decide (d.penOcc p + bytes ≤ d.share p) ||
      decide (d.penOcc p + bytes - d.share p + d.borrowed p ≤ d.unassigned))

/-- Room for a write of a Pen: buffer space, and a journal ring that is not full, which holds every write (R147). -/
def Dev.room (d : Dev) (p bytes : Nat) : Bool := d.space p bytes && !d.media.jhold

/-! Checks of a host command (R180, R190, R232, R256). -/

/-- The home of a namespace is the peer's. -/
def Dev.peerHome (d : Dev) (n : Ns) : Bool := n.home != d.board.pairId

/-- The status that the ANA state of a namespace's group gives (R232). -/
def Dev.anaStatus (d : Dev) (n : Ns) : Option Status :=
  if d.fw.mode = .init then some (if d.fw.fencedInit then .anaInaccessible else .nsNotReady)
  else if d.fw.mode = .service then some .nsNotReady
  else if d.peerHome n then
    if d.pair.takeover ∨ d.pair.ana = 1 then some .anaTransition
    else if d.fw.role = .duo then some .anaInaccessible
    else none
  else if d.pair.anaOwn = 1 then some .anaTransition
  else none

/-- Once free units fall below a quarter of the reserve, host writes go no faster than garbage collection
frees space (R143). -/
def Dev.gcHolds (d : Dev) (n : Ns) (nlb : Nat) : Bool :=
  !n.zoned && decide (4 * n.freeRu < n.reserve) && decide (SMap.get (fun _ => 0) d.media.gcCredit n.nsx < nlb)

/-- A write takes its part of what garbage collection has freed. -/
def Dev.gcTake (d : Dev) (n : Ns) (nlb : Nat) : Dev :=
  if !n.zoned && decide (4 * n.freeRu < n.reserve) then
    d.onMedia (fun m => { m with gcCredit := SMap.set (fun _ => 0) m.gcCredit n.nsx (SMap.get (fun _ => 0) m.gcCredit n.nsx - nlb) })
  else d

/-- The command was admitted under the Pen that its namespace has left since (R189). -/
def Dev.underOld (d : Dev) (h : Hdr) (n : Ns) : Bool :=
  d.host.fw.any (fun f => f.h == h && decide (f.e.rw.nsid = n.nsx + 1) && f.oldPen.isSome && decide (f.oldPen = d.penOf h.fn.val))

/-- The checks that every I/O command to a namespace passes first: its Pen, its attachment, the ANA state of its group,
and for an encrypted namespace the alarm (R180, R189, R220, R232; assumption 67). -/
def Dev.accessCheck (d : Dev) (h : Hdr) (n : Ns) : Option Status :=
  if d.penOf h.fn.val ≠ some n.pen ∧ !d.underOld h n then some .invalidNsFormat
  else if !n.fns.contains h.fn.val then some .invalidField
  else match d.anaStatus n with
    | some s => some s
    | none => if n.keyed ∧ d.fw.alarmed then some .nsNotReady else none

/-- The checks of the form of a read or write of LBAs; `lim` is the most LBAs: MDTS where data moves, what NLB can hold where none
does (R257). -/
def Dev.rwForm (d : Dev) (h : Hdr) (c : RwCmd) (n : Ns) (lim : Nat := 512) : Option Status :=
  match d.accessCheck h n with
    | some s => some s
    | none =>
      if c.nlb = 0 ∨ lim < c.nlb then some .invalidField
      else if !praOk n c then some .invalidField
      else if n.lbas < c.slba + c.nlb then some .lbaRange
      else none

/-- The checks that every read or write of LBAs passes first: its form, and its slot at the cipher (R208). DESIGN CHOICE (assumption
145): the refusal of its message comes before the checks of its zone. -/
def Dev.rwCheck (d : Dev) (h : Hdr) (c : RwCmd) (n : Ns) (lim : Nat := 512) : Option Status :=
  match d.rwForm h c n lim with
    | some s => some s
    | none => d.cipherStatus n

/-- A command to LBAs fails its checks: where the cipher refuses its message, that is counted and logged (R208). -/
def Dev.failIo (d : Dev) (h : Hdr) (c : RwCmd) (lim : Nat) (st : Status) : Dev :=
  match d.nsOf c.nsid with
  | some n =>
    if d.rwForm h c n lim = none ∧ d.cipherStatus n = some st then
      (d.noteRefused n.pen n.slot (decide (st = .internal))).failCmd h st
    else d.failCmd h st
  | none => d.failCmd h st

/-! Entries. -/

/-- Entries that satisfy a test leave the buffer. -/
def Dev.removeEntries (d : Dev) (p : Entry → Bool) : Dev :=
  d.onWr (fun w => { w with entries := w.entries.filter (fun e => !p e) })

/-- Update one entry. -/
def Dev.setEntry (d : Dev) (id : Nat) (f : Entry → Entry) : Dev :=
  d.onWr (fun w => { w with entries := w.entries.map (fun e => if e.id = id then f e else e) })

/-- An acknowledged entry of the buffer holds an LBA. -/
def Dev.inBuffer (d : Dev) (nsx lba : Nat) : Bool :=
  d.wr.entries.any (fun e => decide (e.nsx = nsx) && e.acked && decide (e.lba ≤ lba) && decide (lba < e.lba + e.secs.length))

/-- The sectors of an acknowledged entry at some LBAs get POISON. -/
def Entry.poisonAt (e : Entry) (lbas : List Nat) : Entry :=
  { e with secs := (e.secs.zipIdx).map (fun p => if (e.lba + p.2) ∈ lbas then { p.1 with poison := true } else p.1) }

/-- LBAs whose acknowledged buffer entry reads back as uncorrectable (R174): in DUO the peer's mirror copy rewrites the
entry; elsewhere the LBAs get POISON, with a record of source INTEG, severity 6, and Critical Warning bit 2. A free value (assumption 2): the
address of the burst, and with it the DRAM channel that is the record's unit (R16); DRAMC counts it and latches its address (R171). -/
def Dev.bufferLost (d : Dev) (nsx : Nat) (lbas : List Nat) : Dev :=
  if lbas = [] then d
  else
    let at_ := 0x1000000000 + Config.freeNat d.free % (d.board.dramGib * 2 ^ 24) * 64
    let d := (d.draw).dramUnc at_
    match lbas.filter (d.inBuffer nsx) with
    | [] => d
    | a :: r =>
      if d.fw.role = .duo then d
      else
        ((d.onWr (fun w => { w with entries := w.entries.map (fun e =>
          if e.nsx = nsx ∧ e.acked then e.poisonAt (a :: r) else e) })).fwPost (0x0600 + Config.dramLane at_ / 2 % 4) (Config.evCode 3) 6 a).critical 2

/-- The tee (R233): an entry goes to the peer as MHDR, MDATA and MEND. -/
def Dev.tee (d : Dev) (e : Entry) : Dev :=
  let d := d.setReg A.PAIR_MSEQ_TX e.mseq
  let d := d.sendFrame (.mhdr { mseq := e.mseq, nsx := e.nsx, lba := e.lba, n := e.secs.length, pen := e.pen })
  let d := d.each e.secs (fun d s => d.sendFrame (.mdata s))
  d.sendFrame (.mend e.mseq)

/-- The reclaim unit handle of a placement identifier: an invalid one acts as 0 (R59). -/
def handleOf (pid : Nat) : Nat := if 128 ≤ pid then 0 else pid

/-- A new entry: complete once its data and header stand in DRAM (R64); in DUO it waits for the peer
(R65); while the flash-window flag is set it is held (R86). DESIGN CHOICE (assumption 113): an entry placed before the
flag was set and not acknowledged then is not held; R86 speaks of new writes and of entries acknowledged before. -/
def Dev.place (d : Dev) (h : Hdr) (c : RwCmd) (n : Ns) (zstart ofs : Nat) (app : Bool)
    (secs : List Sector) : Dev :=
  let duo := decide (d.fw.role = .duo)
  let e : Entry :=
    { id := d.wr.nextId, h := h, q := h.qid, nsx := n.nsx, ofs := ofs, zone := zstart, zoned := n.zoned,
      secs := secs, pen := n.pen, app := app, ilbrt := c.ilbrt.toNat, fua := c.fua,
      mseq := (d.rd A.PAIR_MSEQ_TX).toNat + 1, complete := true, mirrored := !duo, acked := false,
      held := d.fwFlag, t0 := d.tick, pid := if n.zoned then 0 else handleOf c.pid }
  let d := d.onWr (fun w =>
    { w with entries := w.entries ++ [e], nextId := w.nextId + 1, ingress := w.ingress + secs.length * 4096 })
  let d := d.onPens (fun x => { x with aboveShare := x.aboveShare.filter (· != n.pen) })
  if d.tees then d.tee e else d

/-- The sectors of a write: PI generated or as given, a Type 1 append's tag replaced by the assigned
LBA (R163, R164), encrypted, sealed. -/
def Dev.sectors (d : Dev) (n : Ns) (c : RwCmd) (app : Bool) (lba gen : Nat) (data : List Lba) : List Sector :=
  let key := if n.keyed then d.nsKey n else none
  (data.zipIdx).map (fun (x, i) =>
    let md := if c.pract && n.hasPi then piMake n c false (lba + i) i x.data
      else if app && n.hasPi && decide (n.pi = 1) then { x.md with ref := BitVec.ofNat 32 (lba + i) } else x.md
    mkSector key n.nsx (lba + i) gen { x with md := md })

/-- Count an error of protection information (R272). -/
def Dev.piCount (d : Dev) (st : Status) : Dev :=
  match st with
  | .guardErr => d.count2 208 1 | .appErr => d.count2 216 1 | .refErr => d.count2 224 1 | _ => d

/-- Count what the data of a write meet on their way to the cipher (R165, R272). -/
def Dev.hopCount (d : Dev) (c : RwCmd) : Dev :=
  if c.hop3 = 1 then d.count2 88 1 else if c.hop3 = 2 then d.count2 96 1 else if c.hop3 = 3 then d.count2 128 1 else d

/-- The PI check of a whole write (R163). DESIGN CHOICE (assumption 149): where LBAs fail different checks, the first failing LBA's status. -/
def piAll (n : Ns) (c : RwCmd) (app : Bool) (lba : Nat) (data : List Lba) : Option Status :=
  if c.pract then none
  else (data.zipIdx).foldl (fun b (x, i) => match b with
    | some s => some s
    | none => piCheck n c app (lba + i) i x) none

/-- An append that failed neighbours have moved (R65, R69): its sectors for the new LBAs, and in DUO a new mirror entry
that the peer has still to confirm. -/
def Dev.moveEntry (d : Dev) (n : Ns) (e : Entry) (o : Nat) : Entry :=
  let key := if n.keyed then d.nsKey n else none
  let secs := (e.secs.zipIdx).map (fun (s, i) =>
    let plain := decrypt key s.lba s.d.data
    let md := if n.hasPi && decide (n.pi = 1) then { s.d.md with ref := BitVec.ofNat 32 (e.zone + o + i) } else s.d.md
    mkSector key e.nsx (e.zone + o + i) s.gen { data := plain, md := md })
  let duo := decide (d.fw.role = .duo)
  { e with ofs := o, secs := secs, mseq := if d.tees then (d.rd A.PAIR_MSEQ_TX).toNat + 1 else e.mseq, mirrored := !duo }

/-- Later writes of a zone after one has failed (R69): ordinary ones end with Zone Invalid Write, and their LBAs are released; then
appends take a new offset, in their order of admission, and go to the peer again. -/
def Dev.afterFailure (d : Dev) (nsx zstart id : Nat) : Dev :=
  let later := d.wr.entries.filter (fun e =>
    decide (e.nsx = nsx) && decide (e.zone = zstart) && e.zoned && !e.acked && decide (id < e.id))
  match d.media.nss.find? (fun n => n.nsx == nsx) with
  | none => d
  | some n =>
    let d := d.each (later.filter (fun e => !e.app)) (fun d e =>
      (d.removeEntries (fun x => x.id == e.id)).complete e.h .zoneInvalidWrite)
    d.each (later.filter (·.app)) (fun d e =>
      let z := d.zd (n.base + zstart / zsze n.seven)
      let without := d.removeEntries (fun x => x.id == e.id)
      let runs := without.heldRuns nsx zstart (zsze n.seven)
      let o := firstFit (runs.length + 1) runs e.secs.length (without.ap nsx zstart (zsze n.seven) z.wp)
      if zcap n.seven < o + e.secs.length then without.complete e.h .zoneBoundary
      else if o = e.ofs then d
      else
        let m := d.moveEntry n e o
        let d := d.setEntry e.id (fun _ => m)
        if d.tees then d.tee m else d)

/-- An admitted write fails before its acknowledgment (R69). -/
def Dev.failEntry (d : Dev) (e : Entry) (st : Status) : Dev :=
  let d := d.removeEntries (fun x => x.id == e.id)
  let d := d.failCmd e.h st
  if e.zoned then d.afterFailure e.nsx e.zone e.id else d

/-! Acknowledgment (R64 to R68). -/

/-- WP after an acknowledgment; at ZCAP the zone is Full (R43, R46). -/
def Dev.advanceWp (d : Dev) (n : Ns) (zstart : Nat) : Dev :=
  let ix := n.base + zstart / zsze n.seven
  let z := d.zd ix
  let wp := Nat.min (zcap n.seven) (d.wpNow n.nsx zstart (zsze n.seven) z.wp)
  let full := decide (wp = zcap n.seven) && z.active
  let d := d.setZd ix { z with wp := wp, st := if full then zFull else z.st }
  let d := d.touch ix
  if full then
    (d.onMedia (fun m => { m with lru := m.lru.filter (· != ix) })).capacityCheck
  else d

/-- Step 2 of a hold-up measurement starts once the buffer has drained to the lowered ceiling (R70). -/
def Dev.measureGo (d : Dev) : Dev :=
  if d.wr.measuring = 4 ∧ d.occ ≤ d.limit then
    (d.onWr (fun w => { w with measuring := 1, v0Mv := w.vMv })).onPins (fun p => { p with testGpio := true })
  else d

/-- Flush commands whose window is over complete (R67): every write acknowledged before one came is power-protected
already, so only the window of R73 holds it. -/
def Dev.flushReady (d : Dev) : Dev :=
  let ok := fun (f : FlushWait) => !f.occ || decide (d.occ ≤ d.limit)
  let ready := d.wr.flushes.filter ok
  let d := d.onWr (fun w => { w with flushes := w.flushes.filter (fun f => !ok f) })
  d.completeAll (ready.map (·.h)) .success false

/-- What waits for the occupancy to fall goes on: the measurement and the Flush commands (R67, R70). -/
def Dev.flushCheck (d : Dev) : Dev := d.measureGo.flushReady

/-- An entry may be acknowledged: complete, not held, confirmed by the peer where DUO asks it, with the occupancy at or
below the limit, and not once posting has stopped (R64, R65, R67, R86, R149). -/
def Dev.ackable (d : Dev) (e : Entry) : Bool :=
  e.complete && !e.acked && !e.held && !d.host.stopped && (e.mirrored || decide (d.fw.role ≠ .duo)) &&
    decide (d.occ ≤ d.limit)

/-- Acknowledge an entry: its completion is posted, for an append with the LBA that it got, and WP
advances (R43, R64, R68). -/
def Dev.ack (d : Dev) (e : Entry) : Dev :=
  let d := d.setEntry e.id (fun x => { x with acked := true })
  let d := if e.app then d.complete e.h .success false (e.lba % 2 ^ 32) (e.lba / 2 ^ 32)
    else d.complete e.h .success
  let d := if e.zoned then
      match d.media.nss.find? (fun n => n.nsx == e.nsx) with
      | some n => d.advanceWp n e.zone
      | none => d
    else d
  d.flushCheck

/-- Acknowledge the entry with an identifier where its conditions hold. -/
def Dev.ackId (d : Dev) (id : Nat) : Dev :=
  match d.wr.entries.find? (fun e => e.id == id) with
  | some e => if d.ackable e then d.ack e else d
  | none => d

/-- Acknowledge every entry whose conditions hold, in admission order. -/
def Dev.ackAll (d : Dev) : Dev := d.each (d.wr.entries.map (·.id)) (fun d id => d.ackId id)

def execWriteAck (id : Nat) (s : State) : Host.Outcome State Fault Refusal := mainDo s (fun d => d.ackId id)

/-! Admission of writes. -/

/-- What becomes of a write at its place: it waits, or it goes on. -/
inductive Adm where
  | wait
  | go (d : Dev)

/-- A write or append to a zone, once there is room (R46 to R48, R68); data spoilt on their way to the cipher end it
with Data Transfer Error (R173). -/
def Dev.writeZone (d : Dev) (h : Hdr) (c : RwCmd) (n : Ns) (data : List Lba) (app : Bool) : Dev :=
  let zo := n.zoneOf c.slba
  let ix := n.base + zo.1
  let zstart := zo.1 * zsze n.seven
  let z := d.zd ix
  let size := zsze n.seven
  let runs := d.heldRuns n.nsx zstart size
  let ap := d.ap n.nsx zstart size z.wp
  let o := if app then firstFit (runs.length + 1) runs c.nlb ap else zo.2
  if z.st = zOff ∨ z.st = zNone then d.failCmd h .zoneOffline
  else if z.st = zRO then d.failCmd h .zoneReadOnly
  else if z.st = zFull then d.failCmd h .zoneFull
  else if !app ∧ (zo.2 ≠ ap ∨ runs.any (fun r => meets r (o, o + c.nlb))) then d.failCmd h .zoneInvalidWrite
  else if zcap n.seven < o + c.nlb then d.failCmd h .zoneBoundary
  else
    match (if z.opened then (d, none) else d.openZone ix false) with
    | (d, some st) => d.failCmd h st
    | (d, none) =>
      match piAll n c app (zstart + o) data with
      | some st => (d.piCount st).failCmd h st
      | none =>
        let d := d.hopCount c
        if 2 ≤ c.hop3.val then d.failCmd h .dataTransfer
        else (d.place h c n zstart o app (d.sectors n c app (zstart + o) z.zseq data)).touch ix

/-- A write to a conventional namespace (R57, R58). -/
def Dev.writeConv (d : Dev) (h : Hdr) (c : RwCmd) (n : Ns) (data : List Lba) : Dev :=
  if n.prot then d.failCmd h .nsWriteProt
  else
    match piAll n c false c.slba data with
    | some st => (d.piCount st).failCmd h st
    | none =>
      let d := d.hopCount c
      if 2 ≤ c.hop3.val then d.failCmd h .dataTransfer
      else
        let d := if 128 ≤ c.pid then
            d.onHost (fun x => { x with fdp := x.fdp ++ [3] }) else d
        let secs := d.sectors n c false c.slba n.wctr data
        (d.setNs { n with wctr := nextGen n.wctr }).place h c n 0 c.slba false secs

/-- What a new write gets in READONLY (R30, R47, R87): Write Temperature Hold while the flag is set, else what its zone's
state gives, else that the namespace is write protected (assumption 108). -/
def Dev.readonlyStatus (d : Dev) (n : Ns) (slba : Nat) : Status :=
  let st := (d.zd (n.base + (n.zoneOf slba).1)).st
  if d.fwFlag then .tempHold
  else if !n.zoned then .nsWriteProt
  else if st = zOff ∨ st = zNone then .zoneOffline
  else if st = zRO then .zoneReadOnly
  else if st = zFull then .zoneFull
  else .nsWriteProt

/-- The row whose erase a write waits for: it would open an Empty zone (R53). -/
def Dev.writeWaits (d : Dev) (n : Ns) (c : RwCmd) (app : Bool) : Option Row :=
  let zo := n.zoneOf c.slba
  if n.zoned ∧ (app ∨ zo.2 = 0) ∧ zo.2 + c.nlb ≤ zcap n.seven then d.openWaits (n.base + zo.1) else none

/-- A zone command that waits names a zone (R46). -/
def Dev.zoneHeld (d : Dev) (n : Ns) (zone : Nat) : Bool :=
  d.wr.zwait.any (fun p => p.2.2.nsid == n.nsx + 1 && (p.2.2.all || (n.zoneOf p.2.2.slba).1 == zone))

/-- Why a write waits at admission (R53, R71, R74, R143, R236): for room, in DUO for the link, for garbage collection, for
the erase of the row that its zone opens on, or behind a zone command that waits (R46). -/
def Dev.mustWait (d : Dev) (n : Ns) (c : RwCmd) (app : Bool) : Bool :=
  !d.room n.pen (c.nlb * 4096) || (decide (d.fw.role = .duo) && (!d.linkUp || d.replayFull)) || d.gcHolds n c.nlb ||
    (d.writeWaits n c app).isSome || (n.zoned && d.zoneHeld n (n.zoneOf c.slba).1)

/-- A write at admission (R53, R71, R74, R87, R236): refused in READONLY; it waits where it must. -/
def Dev.admitWrite (d : Dev) (h : Hdr) (c : RwCmd) (data : List Lba) (app : Bool) (lim : Nat := 512) : Adm :=
  match d.nsOf c.nsid with
  | none => .go (d.failCmd h .invalidNsFormat)
  | some n =>
    match d.rwCheck h c n lim with
    | some st => .go (d.failIo h c lim st)
    | none =>
      if data.length ≠ c.nlb then .go (d.failCmd h .dataTransfer)
      else if d.fw.mode = .readonly then .go (d.failCmd h (d.readonlyStatus n c.slba))
      else if app ∧ (!n.zoned ∨ 256 < c.nlb ∨ (n.zoneOf c.slba).2 ≠ 0) then .go (d.failCmd h .invalidField)
      else if d.mustWait n c app then .wait
      else .go (if n.zoned then d.writeZone h c n data app else (d.gcTake n c.nlb).writeConv h c n data)

/-- The row that a waiting write is for is made ready (R53, R130). -/
def Dev.prepWrite (d : Dev) (c : RwCmd) (app : Bool) : Dev :=
  match d.nsOf c.nsid with
  | some n => match d.writeWaits n c app with | some r => d.prepRow r | none => d
  | none => d

/-! The map of conventional namespaces (R57, R142, R175, R233). -/

/-- The key of a conventional sector in the map. -/
def convKey (nsx lba : Nat) : Nat := nsx * 2 ^ 40 + lba

/-- One value of a conventional write counter is later than another (R159). -/
def laterGen (a b : Nat) : Bool := decide (1 ≤ (a + 2 ^ 32 - b % 2 ^ 32) % 2 ^ 32) && decide ((a + 2 ^ 32 - b % 2 ^ 32) % 2 ^ 32 < 2 ^ 31)

/-- A map segment is rebuilt from the seals of its rows: of the sectors on flash that claim one LBA the one with the later GEN is
mapped (R153, R159, R175). DEDUCED (assumption 130): an LBA that the map does not hold stays without a sector. -/
def Dev.rebuildSeg (d : Dev) (nsx seg : Nat) : Dev :=
  let newest := fun (e : Nat × ConvEnt) =>
    if e.1 / 2 ^ 40 = nsx ∧ e.1 % 2 ^ 40 / Config.mapSeg = seg then
      (e.1, (d.media.old.filter (fun o => o.1 == e.1)).foldl (fun b o => if laterGen o.2.sec.gen b.sec.gen then o.2 else b) e.2)
    else e
  d.onMedia (fun m => { m with conv := m.conv.map newest })

/-- The map segment of an LBA is read, 5 bytes for each of its LBAs (R57): one of which a burst is uncorrectable in DRAM is rebuilt
first, and host I/O to its LBAs goes on once it has been (R175). DESIGN CHOICE (assumption 130): where a segment lies in DRAM is
open. -/
def Dev.mapRead (d : Dev) (nsx lba : Nat) : Dev :=
  let bad := ((d.dram.chk.map Prod.fst ++ d.dram.raw.map Prod.fst ++ d.dram.bad).map (· / 64 * 64)).dedup.filter (fun a =>
    decide (Config.mapAddr nsx (lba / Config.mapSeg) / 64 * 64 ≤ a) &&
      decide (a < Config.mapAddr nsx (lba / Config.mapSeg) + 5 * Config.mapSeg) && decide (d.burstAt a = .unc))
  if bad = [] then d
  else (d.each bad (fun d a => (d.dramRead a).dramFresh a)).rebuildSeg nsx (lba / Config.mapSeg)

/-- The valid sectors of the units once the map entry of a key goes. -/
def unmapUnit (m : Media) (nsx k : Nat) : SMap Nat :=
  match SMap.find m.conv k with
  | some e => SMap.put m.units (unitKey nsx e.unit) (((SMap.find m.units (unitKey nsx e.unit)).getD 1) - 1)
  | none => m.units

/-- The location that a MAP frame gives for an LBA that the map no longer holds. DESIGN CHOICE (assumption 21): all ones. -/
def noPlace : Nat := 2 ^ 40 - 1

/-- Map changes go to the peer, 25 to a MAP frame (R233, R250). -/
def Dev.sendMap (d : Dev) (l : List (Nat × Nat)) : Dev :=
  if d.tees then
    d.each (List.range ((l.length + 24) / 25)) (fun d i => d.sendFrame (.cmap ((l.drop (25 * i)).take 25)))
  else d

/-- Deallocation of [lo, hi) of a conventional namespace: the buffer and Fold copies go, and the map, its segments read first, holds
the LBAs no more (R175, R233, R256). -/
def Dev.unmap (d : Dev) (n : Ns) (lo hi : Nat) : Dev :=
  let d := (d.dropEntries n.nsx lo hi).dropFold n.nsx lo hi
  let gone := (d.media.conv.map Prod.fst).filter (fun k => decide (convKey n.nsx lo ≤ k) && decide (k < convKey n.nsx hi))
  let d := d.each gone (fun d k => d.mapRead n.nsx (k % 2 ^ 40))
  let d := d.onMedia (fun m =>
    { m with
      units := gone.foldl (fun u k => unmapUnit { m with units := u } n.nsx k) m.units
      conv := SMap.keep (fun k => decide (k < convKey n.nsx lo) || decide (convKey n.nsx hi ≤ k)) m.conv })
  d.sendMap (gone.map (fun k => (k, noPlace)))

/-- A write waits at admission: what it is, and whether it is for buffer space (R87). -/
def Dev.waitWrite (d : Dev) (h : Hdr) (c : RwCmd) (data : List Lba) (app unc : Bool) : Dev :=
  let p := match d.nsOf c.nsid with | some n => n.pen | none => 0
  let sp := !d.space p (c.nlb * 4096)
  d.onWr (fun w =>
    { w with waiting := w.waiting ++ [{ h := h, c := c, d := data, app := app, pen := p, unc := unc, space := sp }] })

/-- Admit a write or let it wait. -/
def Dev.write (d : Dev) (h : Hdr) (c : RwCmd) (data : List Lba) (app : Bool) (lim : Nat := 512) : Dev :=
  match d.admitWrite h c data app lim with
  | .go d => d
  | .wait => (d.prepWrite c app).waitWrite h c data app false

/-- A Write Uncorrectable at admission (R71, R256): POISON seals on a conventional namespace. -/
def Dev.admitUnc (d : Dev) (h : Hdr) (c : RwCmd) : Adm :=
  match d.nsOf c.nsid with
  | none => .go (d.failCmd h .invalidNsFormat)
  | some n =>
    if n.zoned then .go (d.failCmd h .invalidOpcode)
    else match d.rwCheck h c n 65536 with
      | some st => .go (d.failIo h c 65536 st)
      | none =>
        if d.fw.mode = .readonly then .go (d.failCmd h (d.readonlyStatus n c.slba))
        else if n.prot then .go (d.failCmd h .nsWriteProt)
        else if d.mustWait n c false then .wait
        else
          let secs := (d.sectors n { c with pract := false } false c.slba n.wctr (List.replicate c.nlb (zeroLba n))).map
            (fun s => { s with poison := true })
          .go (((d.gcTake n c.nlb).setNs { n with wctr := nextGen n.wctr }).place h c n 0 c.slba false secs)

/-- Write Uncorrectable, or its wait. -/
def Dev.writeUnc (d : Dev) (h : Hdr) (c : RwCmd) : Dev :=
  match d.admitUnc h c with
  | .go d => d
  | .wait => d.waitWrite h c [] false true

/-- The writes that wait are tried again, in order (R72, R73). -/
def Dev.pump (d : Dev) : Dev :=
  let ws := d.wr.waiting
  (d.onWr (fun w => { w with waiting := [] })).each ws
    (fun d w => if w.unc then d.writeUnc w.h w.c else d.write w.h w.c w.d w.app 65536)

def execWrite (h : Hdr) (c : RwCmd) (l : List Lba) (s : State) : Host.Outcome State Fault Refusal :=
  ioDo h s (fun d => d.write h c l false)

def execZoneAppend (h : Hdr) (c : RwCmd) (l : List Lba) (s : State) : Host.Outcome State Fault Refusal :=
  ioDo h s (fun d => d.write h c l true)

/-- Write Zeroes (R64, R256): zeros with PI generated where the namespace has it; Deallocate on a
conventional namespace empties the map. DESIGN CHOICE (assumption 117): with Deallocate on a conventional namespace it is no
new host write in the sense of R30, and runs in READONLY too. -/
def Dev.writeZeroes (d : Dev) (h : Hdr) (c : RwCmd) (dealloc : Bool) : Dev :=
  match d.nsOf c.nsid with
  | none => d.failCmd h .invalidNsFormat
  | some n =>
    let z := List.replicate c.nlb (zeroLba n)
    if dealloc && !n.zoned then
      match d.rwForm h c n 65536 with
      | some st => d.failCmd h st
      | none =>
        if n.prot then d.failCmd h .nsWriteProt
        else
          (d.unmap n c.slba (c.slba + c.nlb)).complete h .success
    else d.write h { c with hop3 := 0 } z false 65536

def execWriteZeroes (h : Hdr) (c : RwCmd) (dealloc : Bool) (s : State) : Host.Outcome State Fault Refusal :=
  ioDo h s (fun d => d.writeZeroes h c dealloc)

/-- Flush (R67): in the window of R73 it waits for the occupancy. -/
def Dev.flushWait (d : Dev) (h : Hdr) : Dev :=
  (d.onWr (fun w => { w with flushes := w.flushes ++ [{ h := h, upto := w.nextId, occ := true }] })).flushCheck

/-- Flush of one namespace, or of every one with NSID FFFF_FFFFh. -/
def Dev.flushCmd (d : Dev) (h : Hdr) (nsid : Nat) : Dev :=
  if nsid = 0xFFFFFFFF then d.flushWait h
  else match d.nsOf nsid with
    | none => d.failCmd h .invalidNsFormat
    | some n => match d.accessCheck h n with
      | some st => d.failCmd h st
      | none => d.flushWait h

def execFlush (h : Hdr) (nsid : Nat) (s : State) : Host.Outcome State Fault Refusal :=
  ioDo h s (fun d => d.flushCmd h nsid)

/-- Dataset Management (R256): Deallocate on a conventional namespace; success on a zoned one. DESIGN CHOICE (assumption 117):
it is no new host write in the sense of R30, and runs in READONLY too. -/
def Dev.dsm (d : Dev) (h : Hdr) (nsid : Nat) (dealloc : Bool) (ranges : List (Nat × Nat)) : Dev :=
  match d.nsOf nsid with
  | none => d.failCmd h .invalidNsFormat
  | some n =>
    match d.accessCheck h n with
    | some st => d.failCmd h st
    | none =>
    if n.zoned ∨ !dealloc then d.complete h .success
    else if ranges.any (fun r => decide (n.lbas < r.1 + r.2)) then d.failCmd h .lbaRange
    else if n.prot then d.failCmd h .nsWriteProt
    else
      (d.each ranges (fun d r => d.unmap n r.1 (r.1 + r.2))).complete h .success

def execDatasetManagement (h : Hdr) (nsid : Nat) (dealloc : Bool) (ranges : List (Nat × Nat)) (s : State) :
    Host.Outcome State Fault Refusal :=
  ioDo h s (fun d => d.dsm h nsid dealloc ranges)

def execWriteUncorrectable (h : Hdr) (c : RwCmd) (s : State) : Host.Outcome State Fault Refusal :=
  ioDo h s (fun d => d.writeUnc h c)

/-! Holds (R74, R86, R87). -/

/-- A held entry older than its Pen's hold time is discarded (R86). -/
def Dev.holdExpires (d : Dev) (id : Nat) : Dev :=
  match d.wr.entries.find? (fun e => e.id == id) with
  | some e => if e.held && !e.acked then d.failEntry e .tempHold else d
  | none => d

def execTemperatureHoldExpiry (id : Nat) (s : State) : Host.Outcome State Fault Refusal :=
  mainDo s (fun d => d.holdExpires id)

/-- The flag clears: held entries are acknowledged in admission order (R86). -/
def Dev.unhold (d : Dev) : Dev :=
  (d.onWr (fun w => { w with entries := w.entries.map (fun e => { e with held := false }) })).ackAll

/-- With a ceiling of 0 a write held 1 s completes with Namespace Not Ready (R74). -/
def Dev.writeHoldOut (d : Dev) : Dev :=
  if d.wr.bceil = 0 then
    match d.wr.waiting with
    | w :: r => (d.onWr (fun x => { x with waiting := r })).complete w.h .nsNotReady
    | [] => d
  else d

def execWriteHoldTimeout (s : State) : Host.Outcome State Fault Refusal := mainDo s Dev.writeHoldOut

/-- The temperature route into READONLY (R55, R87): the flag is set, and a write waits at admission for buffer space. -/
def Dev.tempReadonly (d : Dev) : Dev :=
  if d.fwFlag && d.wr.waiting.any (·.space) && d.writable then
    let d := d.onFw (fun f => { f with readonlyTemp := true })
    let ws := d.wr.waiting
    let d := (d.onWr (fun w => { w with waiting := [] })).setMode .readonly
    d.each ws (fun d w => d.failCmd w.h .tempHold)
  else d

def execReadonlyTemperatureTimeout (s : State) : Host.Outcome State Fault Refusal := mainDo s Dev.tempReadonly

/-! The ceiling (R70 to R74). -/

/-- The whole groups of a zone go to QLC, and what lies above them to Fold (R73, R79). -/
def Dev.drainZone (d : Dev) (ix : Nat) : Dev :=
  let z := d.zd ix
  let st := d.zstart ix
  let d := d.issueAll ix st z.wp
  d.foldMove z.nsx (st + d.nextGroup ix z) (st + zcap z.seven)

/-- The runs of LBAs that follow each other in a list. -/
def lbaRuns (l : List Nat) : List (Nat × Nat) :=
  l.foldr (fun a rs => match rs with
    | (b, e) :: t => if a + 1 = b then (a, e) :: t else (a, a + 1) :: rs
    | [] => [(a, a + 1)]) []

/-- The whole groups of a conventional namespace go to QLC, and the data of no whole group to Fold, while Fold has free blocks outside
its reservations (R73, R76, R80). -/
def Dev.drainConv (d : Dev) (n : Ns) : Dev :=
  let d := d.issueConv n
  let tails := (d.handles n.nsx).flatMap (fun k =>
    let l := d.convSecs n.nsx k
    l.drop (l.length / 896 * 896))
  d.each (lbaRuns (tails.map Prod.fst)) (fun d r =>
    if d.burstFree < (r.2 - r.1) * 4096 then d else d.foldMove n.nsx r.1 r.2 true)

/-- Drain the buffer to flash, the least recently written zones first (R73). -/
def Dev.drainTails (d : Dev) : Dev :=
  let d := d.each d.media.lru Dev.drainZone
  d.each (d.media.nss.filter (fun n => !n.zoned)) Dev.drainConv

/-- A new ceiling in MiB: 0 warns, the first other value clears the warning (R74); the peer learns it
(R72); a ceiling below occupancy drains the buffer, a higher one lets writes in (R73). -/
def Dev.setCeil (d : Dev) (mib : Nat) : Dev :=
  let old := d.wr.bceil
  let d := d.onWr (fun w => { w with bceil := mib })
  let d := if mib = 0 then d.critical 4 else d.uncritical 4
  let d := if mib ≠ old then d.sendFrame (.bceil mib) else d
  if d.limit < d.occ then d.drainTails else (d.pump).flushCheck

/-- Every 1 ms V_bank is sampled; the recomputation rests during a measurement, and before the first
measurement of an INIT has ended the ceiling is that of step 1 (R70). -/
def Dev.ceilRecompute (d : Dev) (mv : Nat) : Dev :=
  let d := d.onWr (fun w => { w with vMv := mv })
  if d.wr.measuring = 0 then d.setCeil (d.ceilAt mv)
  else if d.wr.measuring = 3 then d.setCeil (d.ceilAt (mv - 500))
  else d

def execBufferCeilingRecompute (milliV : Nat) (s : State) : Host.Outcome State Fault Refusal :=
  mainDo s (fun d => d.ceilRecompute milliV)

/-- Measurement, step 1 (R70): the ceiling for V_bank less 0.5 V, to which the buffer drains; then the test GPIO. -/
def Dev.measureStart (d : Dev) : Dev :=
  let d := d.onWr (fun w => { w with measuring := 4 })
  (d.setCeil (d.ceilAt (d.wr.vMv - 500))).measureGo

def execHoldupMeasurementStart (s : State) : Host.Outcome State Fault Refusal := mainDo s Dev.measureStart

/-- A sample of a measurement: at a fall of 0.5 V or at 500 ms, C = I × t ÷ ΔV (R70). With no fall at
all the capacitance is not determined, and the last one stands (assumption 18). -/
def Dev.measureSample (d : Dev) (mv us : Nat) : Dev :=
  if d.wr.measuring ≠ 1 then d else
  let fall := d.wr.v0Mv - mv
  if 500 ≤ fall ∨ 500000 ≤ us then
    let c := if fall = 0 then d.wr.cUf else some (d.board.iTestMa * us / fall)
    let d := d.onWr (fun w => { w with measuring := 2, cUf := c })
    let d := d.onPins (fun p => { p with testGpio := false })
    d.fwPost 0x0200 (Config.evCode 2) 0 (match c with | some x => x | none => 0)
  else d

def execHoldupSample (milliV us : Nat) (s : State) : Host.Outcome State Fault Refusal :=
  mainDo s (fun d => d.measureSample milliV us)

/-- Step 4: the bank has recharged; the ceiling follows the new C (R70). -/
def Dev.measureEnd (d : Dev) (mv : Nat) : Dev :=
  if d.wr.measuring = 2 then
    let d := (d.onWr (fun w => { w with measuring := 0, vMv := mv })).rdyCheck
    d.setCeil (d.ceilAt mv)
  else d

def execHoldupRechargeComplete (milliV : Nat) (s : State) : Host.Outcome State Fault Refusal :=
  mainDo s (fun d => d.measureEnd milliV)

end Sys2Proof.Machine
end

