-- ==== Sys2Proof/Machine/Zones.lean ====
section
/-! DEFINITION. Zone management (R46 to R62), program groups and stripe completion (R76 to R78), Fold
(R79 to R81). -/

namespace Sys2Proof.Machine

/-! Zone Management Send and Receive. -/

/-- The checks of a zone command; then the namespace. -/
def Dev.zoneCheck (d : Dev) (h : Hdr) (nsid slba : Nat) (all : Bool) : Except Status Ns :=
  match d.nsOf nsid with
  | none => .error .invalidNsFormat
  | some n =>
    match d.accessCheck h n with
    | some s => .error s
    | none =>
      if !n.zoned then .error .invalidOpcode
      else if all then .ok n
      else if n.lbas ≤ slba then .error .lbaRange
      else if (n.zoneOf slba).2 ≠ 0 then .error .invalidField
      else .ok n

/-- The zones of a namespace in the states of a test, by index. -/
def Dev.zonesOf (d : Dev) (n : Ns) (p : Zd → Bool) : List Nat :=
  d.zones (fun z => z.nsx == n.nsx && p z)

/-- Run a zone action on each of a list of zones; the first status that one of them gives. -/
def Dev.zoneAll (d : Dev) (l : List Nat) (f : Dev → Nat → Nat → Dev × Option Status) : Dev × Option Status :=
  l.foldl (fun s ix =>
    let x := f s.1 ix (s.1.zstart ix)
    (x.1, match s.2 with | some st => some st | none => x.2)) (d, none)

/-- Run a zone action on one zone, or with Select All on every zone in the states that it acts on. -/
def Dev.zoneAct (d : Dev) (h : Hdr) (a : ZoneArg) (p : Zd → Bool)
    (f : Dev → Nat → Nat → Dev × Option Status) : Dev :=
  match d.zoneCheck h a.nsid a.slba a.all with
  | .error st => d.failCmd h st
  | .ok n =>
    if a.all then
      match d.zoneAll (d.zonesOf n p) f with
      | (d, some st) => d.failCmd h st
      | (d, none) => d.complete h .success
    else
      let ix := n.base + (n.zoneOf a.slba).1
      match f d ix a.slba with
      | (d, some st) => d.failCmd h st
      | (d, none) => d.complete h .success

/-- Open Zone (R46). -/
def Dev.zOpen (d : Dev) (ix _zs : Nat) : Dev × Option Status :=
  let z := d.zd ix
  if z.opened || decide (z.st = zEmpty) || decide (z.st = zClosed) then d.openZone ix true
  else (d, some .zoneTransition)

/-- The row whose erase an Open Zone command waits for (R53). -/
def Dev.openRow (d : Dev) (h : Hdr) (a : ZoneArg) : Option Row :=
  match d.zoneCheck h a.nsid a.slba a.all with
  | .ok n => if a.all then none else d.openWaits (n.base + (n.zoneOf a.slba).1)
  | .error _ => none

/-- Open Zone: it waits where its row still awaits the erase (R53). -/
def Dev.openCmd (d : Dev) (h : Hdr) (a : ZoneArg) : Dev :=
  match d.openRow h a with
  | some r => (d.prepRow r).onWr (fun w => { w with opens := w.opens ++ [(h, a)] })
  | none => d.zoneAct h a (fun z => decide (z.st = zClosed)) Dev.zOpen

/-- Writes and opens that waited for a row are tried again, in order (R53). -/
def Dev.pumpOpens (d : Dev) : Dev :=
  let l := d.wr.opens
  ((d.onWr (fun w => { w with opens := [] })).each l (fun d p => d.openCmd p.1 p.2)).pump

/-- Close Zone (R46). -/
def Dev.zClose (d : Dev) (ix zs : Nat) : Dev × Option Status :=
  let z := d.zd ix
  if z.opened then (d.closeZone ix zs, none)
  else if z.st = zClosed then (d, none)
  else (d, some .zoneTransition)

/-- The offsets below a bound that hold no acknowledged write, as single LBAs to fill (R46). -/
def gaps (l : List (Nat × Nat)) (lo hi : Nat) : List Nat :=
  ((List.range (hi - lo)).map (fun i => lo + i)).filter (fun o => !l.any (fun r => decide (r.1 ≤ o) && decide (o < r.2)))

/-- A zero-filled, acknowledged buffer entry of one LBA (R46, R154). -/
def Dev.fillZero (d : Dev) (n : Ns) (zstart o gen : Nat) : Dev :=
  let key := if n.keyed then d.nsKey n else none
  let e : Entry :=
    { id := d.wr.nextId, h := { fn := 0, qid := 0, cid := 0 }, q := 0, nsx := n.nsx, ofs := o, zone := zstart,
      zoned := true, secs := [mkSector key n.nsx (zstart + o) gen (zeroLba n)], pen := n.pen, app := false,
      ilbrt := 0, fua := false, mseq := 0, complete := true, mirrored := true, acked := true, held := false, t0 := d.tick }
  d.onWr (fun w => { w with entries := w.entries ++ [e], nextId := w.nextId + 1 })

/-- The reservation goes once a Full zone has nothing left above FP (R46, R50). -/
def Dev.dropResv (d : Dev) (ix : Nat) : Dev :=
  let z := d.zd ix
  let zs := d.zstart ix
  if z.st = zFull ∧ (d.ackedRuns z.nsx zs (zsze z.seven)).isEmpty ∧ !(d.wr.groups.any (fun g => g.ix == ix)) then
    d.onWr (fun w => { w with resv := w.resv.filter (· != ix) })
  else d

/-- Finish Zone (R46): admitted writes that are not acknowledged fail with Zone Is Full (DESIGN CHOICE, assumption 149); E is the end of the highest group
with acknowledged data; zeros fill the rest below E; WP = ZCAP. -/
def Dev.zFinish (d : Dev) (ix zs : Nat) : Dev × Option Status :=
  let z := d.zd ix
  if z.st = zFull then (d, none)
  else if !z.active then (d, some .zoneTransition)
  else
    match d.media.nss.find? (fun n => n.nsx == z.nsx) with
    | none => (d, some .zoneTransition)
    | some n =>
      let lost := d.wr.entries.filter (fun e => e.zoned && e.nsx == z.nsx && e.zone == zs && !e.acked)
      let d := d.each lost (fun d e => (d.removeEntries (fun x => x.id == e.id)).failCmd e.h .zoneFull)
      let g := groupLbas z.seven
      let runs := d.ackedRuns z.nsx zs (zsze z.seven)
      let top := topEnd z.fp runs
      let e := (top + g - 1) / g * g
      let d := d.each (gaps runs z.fp e) (fun d o => d.fillZero n zs o z.zseq)
      let d := d.setZd ix { z with st := zFull, wp := zcap z.seven }
      let d := d.journal (.zstate z.nsx ix zFull (zcap z.seven))
      let d := d.issueAll ix zs e
      let d := d.onMedia (fun m => { m with lru := m.lru.filter (· != ix) })
      ((d.dropResv ix).capacityCheck, none)

/-- Reset Zone (R46). -/
def Dev.zReset (d : Dev) (ix zs : Nat) : Dev × Option Status :=
  let z := d.zd ix
  if z.active || decide (z.st = zEmpty) || decide (z.st = zFull) then (d.resetZone ix zs, none)
  else (d, some .zoneTransition)

/-- Offline Zone of a Read Only zone (R46): journaled; its Fold space is released. -/
def Dev.zOffline (d : Dev) (ix zs : Nat) : Dev × Option Status :=
  let z := d.zd ix
  if z.st = zRO then
    let d := d.journal (.zstate z.nsx ix zOff z.wp)
    let d := (d.dropFold z.nsx zs (zs + zsze z.seven)).dropEntries z.nsx zs (zs + zsze z.seven)
    let d := d.onWr (fun w => { w with resv := w.resv.filter (· != ix) })
    ((d.setZd ix { z with st := zOff }).capacityCheck, none)
  else (d, some .zoneTransition)

/-! Commands of a zone, in order (R46). -/

/-- A read that has been admitted and has not ended lies in a zone of a test: a read of Col, or one of the firmware path. -/
def Dev.readsIn (d : Dev) (n : Ns) (p : Nat → Bool) : Bool :=
  d.host.reads.any (fun r => r.nsx == n.nsx && p (n.zoneOf r.c.slba).1) ||
    d.host.fw.any (fun f => f.admitted && decide (f.e.opc = 0x02 ∨ f.e.opc = 0x05 ∨ f.e.opc = 0x0C) &&
      f.e.rw.nsid == n.nsx + 1 && p (n.zoneOf f.e.rw.slba).1)

/-- A zone command waits: a reset for the reads of its zones that were admitted earlier, and any command behind one of the
same zone that waits (R46). -/
def Dev.zoneWaits (d : Dev) (c : ZCmd) (h : Hdr) (a : ZoneArg) : Bool :=
  match d.zoneCheck h a.nsid a.slba a.all with
  | .error _ => false
  | .ok n =>
    let mine := fun (k : Nat) => a.all || k == (n.zoneOf a.slba).1
    d.wr.zwait.any (fun p => p.2.2.nsid == a.nsid && (p.2.2.all || mine (n.zoneOf p.2.2.slba).1)) ||
      (decide (c = .resetZ) && d.readsIn n mine)

/-- A zone command at its place (R46, R61). -/
def Dev.zoneRun (d : Dev) (c : ZCmd) (h : Hdr) (a : ZoneArg) : Dev :=
  match c with
  | .openZ => d.openCmd h a
  | .closeZ => d.zoneAct h a Zd.opened Dev.zClose
  | .finishZ => d.zoneAct h a Zd.active Dev.zFinish
  | .resetZ => d.zoneAct h a (fun z => z.active || decide (z.st = zFull)) Dev.zReset
  | .offlineZ => d.zoneAct h a (fun z => decide (z.st = zRO)) Dev.zOffline

/-- A zone command runs or waits. -/
def Dev.zoneCmd (d : Dev) (c : ZCmd) (h : Hdr) (a : ZoneArg) : Dev :=
  if d.zoneWaits c h a then d.onWr (fun w => { w with zwait := w.zwait ++ [(c, h, a)] }) else d.zoneRun c h a

/-- The zone of a descriptor has a read that has not ended. -/
def Dev.readsOf (d : Dev) (ix : Nat) : Bool :=
  match d.media.nss.find? (fun n => n.nsx == (d.zd ix).nsx) with
  | some n => d.readsIn n (fun k => n.base + k == ix)
  | none => false

/-- Released rows whose reads have all ended are queued for erase (R144). -/
def Dev.freeHeld (d : Dev) : Dev :=
  if d.media.eraseHold.isEmpty then d
  else
    let go := d.media.eraseHold.filter (fun e => !d.readsOf e.1)
    (d.onMedia (fun m => { m with eraseHold := m.eraseHold.filter (fun e => d.readsOf e.1) })).each go (fun d e => d.queueErase e.2)

/-- A read has ended: the rows and the zone commands that wait, and the writes behind them, are tried again in order
(R46, R144). -/
def Dev.pumpZones (d : Dev) : Dev :=
  let d := d.freeHeld
  match d.wr.zwait with
  | [] => d
  | x :: l => ((d.onWr (fun w => { w with zwait := [] })).each (x :: l) (fun d p => d.zoneCmd p.1 p.2.1 p.2.2)).pump

def execOpenZone (h : Hdr) (z : ZoneArg) (s : State) : Host.Outcome State Fault Refusal :=
  ioDo h s (fun d => d.zoneCmd .openZ h z)

def execCloseZone (h : Hdr) (z : ZoneArg) (s : State) : Host.Outcome State Fault Refusal :=
  ioDo h s (fun d => d.zoneCmd .closeZ h z)

def execFinishZone (h : Hdr) (z : ZoneArg) (s : State) : Host.Outcome State Fault Refusal :=
  ioDo h s (fun d => d.zoneCmd .finishZ h z)

def execResetZone (h : Hdr) (z : ZoneArg) (s : State) : Host.Outcome State Fault Refusal :=
  ioDo h s (fun d => d.zoneCmd .resetZ h z)

def execOfflineZone (h : Hdr) (z : ZoneArg) (s : State) : Host.Outcome State Fault Refusal :=
  ioDo h s (fun d => d.zoneCmd .offlineZ h z)

/-- A zone descriptor of Report Zones: type 2, state, ZCAP, start and WP (R43, R61). -/
def Dev.zoneReport (d : Dev) (ix : Nat) : List Byte :=
  let z := d.zd ix
  let zs := d.zstart ix
  [0x02, BitVec.ofNat 8 (z.st * 16), 0, 0, 0, 0, 0, 0] ++ leBytes 8 (zcap z.seven) ++ leBytes 8 zs ++
    leBytes 8 (zs + z.wp) ++ List.replicate 32 0

/-- Report Zones (R61): `n` descriptors from a start LBA; a partial report counts those returned. -/
def Dev.report (d : Dev) (h : Hdr) (nsid slba n : Nat) (part : Bool) : Dev :=
  match d.zoneCheck h nsid slba true with
  | .error st => d.failCmd h st
  | .ok ns =>
    if ns.lbas ≤ slba then d.failCmd h .lbaRange
    else
      let l := (d.zonesOf ns (fun _ => true)).filter (fun ix => decide (ns.base + slba / zsze ns.seven ≤ ix))
      let shown := l.take n
      let cnt := if part then shown.length else l.length
      d.reply h (leBytes 8 cnt ++ List.replicate 56 0 ++ shown.flatMap d.zoneReport)

def execReportZones (h : Hdr) (nsid slba n : Nat) (partialRep : Bool) (s : State) :
    Host.Outcome State Fault Refusal :=
  ioDo h s (fun d => d.report h nsid slba n partialRep)

/-! Fold moves (R79). -/

/-- The zone of a namespace: its descriptor index and start. -/
def Dev.zoneIx (d : Dev) (nsid zone : Nat) : Option (Nat × Nat) :=
  match d.nsOf nsid with
  | some n => if n.zoned ∧ zone < n.nzones then some (n.base + zone, zone * zsze n.seven) else none
  | none => none

/-- A zone without a write for 100 ms: what lies above its last whole group moves to Fold (R79). -/
def Dev.idleZone (d : Dev) (nsid zone : Nat) : Dev :=
  match d.zoneIx nsid zone with
  | none => d
  | some (ix, zs) =>
    let z := d.zd ix
    let g := groupLbas z.seven
    d.foldMove z.nsx (zs + z.wp / g * g) (zs + zcap z.seven)

def execZoneIdleTimeout (nsid zone : Nat) (s : State) : Host.Outcome State Fault Refusal :=
  mainDo s (fun d => d.idleZone nsid zone)

/-- The descriptor index of a zoned entry. -/
def Dev.entryIx (d : Dev) (e : Entry) : Option Nat :=
  match d.media.nss.find? (fun n => n.nsx == e.nsx) with
  | some n => if n.zoned then some (n.base + e.zone / zsze n.seven) else none
  | none => none

/-- The whole groups of a zone that stand in the buffer and have not been started (R76), each with its zone, its offset,
and the admission number of its oldest entry. -/
def Dev.wholeGroups (d : Dev) (ix : Nat) : List (Nat × Nat × Nat) :=
  let z := d.zd ix
  let n := groupLbas z.seven
  let zs := d.zstart ix
  let lo := d.nextGroup ix z
  ((List.range ((z.wp - lo) / n)).map (fun k => lo + k * n)).filterMap (fun o =>
    match (d.wr.entries.filter (fun e => decide (e.nsx = z.nsx) && e.acked && meets (e.lba, e.lba + e.secs.length) (zs + o, zs + o + n))) with
    | [] => none
    | e :: l => some (l.foldl (fun m x => Nat.min m x.id) e.id, ix, o))

/-- No Fold program moves a group already. -/
def Dev.unstaged (d : Dev) (g : Nat × Nat × Nat) : Bool :=
  let z := d.zd g.2.1
  let lo := d.zstart g.2.1 + g.2.2
  !d.wr.foldJobs.any (fun j => j.copy.nsx == z.nsx && meets (j.copy.lba, j.copy.lba + j.copy.secs.length) (lo, lo + groupLbas z.seven))

/-- The bytes of the buffer that Fold programs under way move out of it. -/
def Dev.foldOut (d : Dev) : Nat := d.wr.foldJobs.foldl (fun n j => n + j.copy.secs.length * 4096) 0

/-- Groups move to Fold one after the other while a budget of bytes and the burst area last (R79, R80). -/
def Dev.stageGroups (d : Dev) (l : List (Nat × Nat × Nat)) (budget : Nat) : Dev :=
  (l.foldl (fun (p : Dev × Nat) g =>
    let z := p.1.zd g.2.1
    let n := groupLbas z.seven
    if p.2 < n * 4096 ∨ p.1.burstFree < n * 4096 then p
    else
      let zs := p.1.zstart g.2.1
      (p.1.foldMove z.nsx (zs + g.2.2) (zs + g.2.2 + n) true, p.2 - n * 4096)) (d, budget)).1

/-- The tails of the zones move to Fold, the least recently written first, while occupancy exceeds 75% of the limit (R79). -/
def Dev.relieve (d : Dev) : Dev :=
  d.each d.media.lru (fun d ix =>
    if 3 * d.limit < 4 * (d.occ - d.foldOut) then
      let z := d.zd ix
      let zs := d.zstart ix
      let g := groupLbas z.seven
      d.foldMove z.nsx (zs + z.wp / g * g) (zs + zcap z.seven)
    else d)

/-- The end of an interval of 1 ms (R79): ingress above the QLC starts moves whole groups to Fold, oldest-admitted first, device-wide.
DESIGN CHOICE (assumption 116): the 75% rule is judged at this moment too. -/
def Dev.interval (d : Dev) : Dev :=
  let excess := d.wr.ingress - d.wr.qlc
  let d := d.onWr (fun w => { w with ingress := 0, qlc := 0 })
  let zs := (d.wr.entries.filterMap d.entryIx).dedup
  let l := ((zs.flatMap d.wholeGroups).filter d.unstaged).insertionSort (fun a b => a.1 ≤ b.1)
  ((d.stageGroups l excess).relieve).capacityCheck

def execIngressInterval (s : State) : Host.Outcome State Fault Refusal := mainDo s Dev.interval

/-! Program groups. -/


/-- The reclaim units of a namespace: capacity in whole units, and the reserve of R58. -/
def capUnits (gib : Nat) : Nat := (gib * 1024 + 895) / 896
def reserveUnits (gib : Nat) : Nat := Nat.max 4 ((gib * 1024 * 7 + 89599) / 89600)

/-- The free rows for reclaim units of a home that no namespace counts as a free unit. -/
def Dev.unitSpare (d : Dev) (home : Bool) : Nat :=
  (d.unitFree home).length - (d.media.nss.filter (fun n => !n.zoned && n.home == home)).foldl (fun k n => k + n.freeRu) 0

/-- Rows of a home go to reclaim units: those of deleted units first. -/
def Dev.unitTake (d : Dev) (home : Bool) (n : Nat) : Dev :=
  d.each (List.range n) (fun d _ =>
    if n ≤ d.unitSpare home then d
    else match d.bestSet home with
      | some s =>
        let x := d.giveSupply s
        x.1.onMedia (fun m => { m with uFree := m.uFree ++ [x.2] })
      | none => d)

/-- PROGRAM_GROUP_ISSUE (R76, R77, R174): only once a whole group is present; `bad` are the LBAs whose buffered copy
reads back as uncorrectable. -/
def Dev.programGroup (d : Dev) (nsid zone : Nat) (bad : List Nat) : Dev :=
  match d.nsOf nsid with
  | none => d
  | some n =>
    let d := d.bufferLost n.nsx bad
    if !n.zoned then d.issueConv n
    else match d.zoneIx nsid zone with
      | some (ix, zs) =>
        let z := d.zd ix
        d.issueGroup ix zs (if z.st = zFull then topEnd z.fp (d.ackedRuns z.nsx zs (zsze z.seven)) else z.wp)
      | none => d

def execProgramGroupIssue (nsid zone : Nat) (bad : List Nat) (s : State) : Host.Outcome State Fault Refusal :=
  mainDo s (fun d => d.programGroup nsid zone bad)


/-- The map takes one conventional sector at a place of a reclaim unit (as in `unitPlace`): the unit that held the LBA loses one valid
sector (R57), and the old sector stays on flash until its unit is erased. -/
def Dev.mapSector (d : Dev) (nsx p lba : Nat) (s : Sector) : Dev :=
  let d := (d.mapRead nsx lba).putUnit nsx p s
  let unit := p / 2 ^ 18
  let k := convKey nsx lba
  d.onMedia (fun m =>
    let u := unmapUnit m nsx k
    { m with
      old := match SMap.find m.conv k with | some e => m.old ++ [(k, e)] | none => m.old
      conv := SMap.put m.conv k { unit := unit, sec := s, ofs := p % 2 ^ 18 }
      units := SMap.put u (unitKey nsx unit) (((SMap.find u (unitKey nsx unit)).getD 0) + 1) })


/-- STRIPE_COMPLETION of a zone (R44, R45, R78): the oldest group in flight, once every member has reported pass; the
record, then FP, then the release; a Full zone gives up its reservation, and waiting writes are tried again. -/
def Dev.stripeZone (d : Dev) (ix zs : Nat) : Dev :=
  match d.wr.groups.find? (fun g => g.ix == ix) with
  | none => d
  | some g =>
    let z := d.zd ix
    if g.failed ∨ g.left ≠ 0 ∨ g.start ≠ z.fp then d
    else
      let n := groupLbas z.seven
      let d := d.onWr (fun w => { w with groups := w.groups.filter (fun x => x != g) })
      let d := d.each g.secs (fun d p =>
        d.onMedia (fun m => { m with flash := SMap.put m.flash (d.zoneKey z.seven z.group z.lbn (p.1 - zs)) p.2 }))
      let d := d.journal (.stripe z.nsx ix (g.start / n) z.wp)
      let d := d.rowStart z.seven z.group z.lbn (d.rowWear z.seven z.group z.lbn) (d.rowOf z.seven z.group z.lbn).slc
      let d := d.setZd ix { z with fp := g.start + n }
      let d := (d.release z.nsx (zs + g.start) (zs + g.start + n)).dropFold z.nsx (zs + g.start) (zs + g.start + n)
      (((d.dropResv ix).capacityCheck).pump).flushCheck

/-- STRIPE_COMPLETION of conventional data, once every member has reported pass (R57, R78). -/
def Dev.stripeConv (d : Dev) (n : Ns) : Dev :=
  let ix := 2 ^ 20 + n.nsx
  match d.wr.groups.find? (fun g => g.ix == ix) with
  | none => d
  | some g =>
    if g.failed ∨ g.left ≠ 0 then d
    else
      let u := g.start / 2 ^ 18
      let d := d.onWr (fun w => { w with groups := w.groups.filter (fun x => x != g) })
      let d := d.journal (.stripe n.nsx u (g.start % 2 ^ 18 / 896) 0)
      let d := d.each g.secs.zipIdx (fun d p =>
        if d.latest n.nsx p.1.1 = some p.1.2 then
          ((d.mapSector n.nsx (g.start + p.2) p.1.1 p.1.2).release n.nsx p.1.1 (p.1.1 + 1)).dropFold n.nsx p.1.1 (p.1.1 + 1)
        else d)
      let r := d.rowOf false (keyGroup g.row) (keyLbn g.row)
      let d := if (SMap.find d.media.urow (unitKey n.nsx u)).isSome then d.rowStart false r.group r.lbn r.wear r.slc else d
      let d := d.sendMap (g.secs.zipIdx.map (fun p => (convKey n.nsx p.1.1, g.start + p.2)))
      ((d.protectCheck n.nsx).pump).flushCheck

def Dev.stripeDone (d : Dev) (nsid zone : Nat) : Dev :=
  match d.nsOf nsid with
  | none => d
  | some n =>
    if !n.zoned then d.stripeConv n
    else match d.zoneIx nsid zone with
      | some (ix, zs) => d.stripeZone ix zs
      | none => d

def execStripeCompletion (nsid zone : Nat) (s : State) : Host.Outcome State Fault Refusal :=
  mainDo s (fun d => d.stripeDone nsid zone)

/-- Fold copies that cannot be rebuilt (R81): they are lost, and their zones go Read Only. -/
def Dev.loseFold (d : Dev) (n : Ns) (lbas : List Nat) : Dev :=
  let hit := fun (f : FoldCopy) => f.nsx == n.nsx && lbas.any (fun a => decide (f.lba ≤ a) && decide (a < f.lba + f.secs.length))
  let zones := if n.zoned then
      ((lbas.filter (fun a => d.wr.fold.any (fun f => hit f && decide (f.lba ≤ a) && decide (a < f.lba + f.secs.length)))).map
        (fun a => (n.zoneOf a).1)).dedup
    else []
  if !d.wr.fold.any hit then d
  else
    let d := d.onWr (fun w => { w with fold := w.fold.map (fun f => if hit f then { f with lost := true } else f) })
    d.each zones (fun d zi =>
      let z := d.zd (n.base + zi)
      if z.active ∨ z.st = zFull then d.readOnlyZone (n.base + zi) (zi * zsze n.seven) else d)

/-- The Fold copies of [lo, lo + n) that folding reads, in bytes. -/
def Dev.foldBytes (d : Dev) (nsx lo n : Nat) : Nat :=
  ((List.range n).filter (fun i => (d.buffered nsx (lo + i)).isNone && (d.folded nsx (lo + i)).isSome)).length * 4096

/-- FOLDING (R81): the Fold copy of the next group is read, joined with buffer data and programmed; what it reads counts
against the admission budget (R88); an error that
is not the row's is one of the buffer data (R174). A Fold row that cannot be rebuilt leaves its data unreadable and the zone
Read Only. While the flush latch is set folding stops (R151). -/
def Dev.foldBack (d : Dev) (nsid zone : Nat) (bad : List (Nat × ReadErr)) : Dev :=
  match d.nsOf nsid, d.zoneIx nsid zone with
  | some n, some (ix, zs) =>
    let z := d.zd ix
    if d.tor.latch then d
    else if bad.any (fun b => decide (b.2 = .stripe)) then
      d.loseFold n ((bad.filter (fun b => decide (b.2 = .stripe))).map (fun b => zs + b.1))
    else if d.fw.role = .solo ∧ !d.burstFull ∧ d.wr.qlc < d.wr.ingress then d
    else
      let d := d.bufferLost z.nsx (bad.map (fun b => zs + b.1))
      let read := d.foldBytes z.nsx (zs + d.nextGroup ix z) (groupLbas z.seven)
      let before := d.wr.groups.length
      let d := d.issueGroup ix zs (if z.st = zFull then topEnd z.fp (d.ackedRuns z.nsx zs (zsze z.seven)) else z.wp)
      if d.wr.groups.length = before then d else d.onWr (fun w => { w with foldRead := w.foldRead + read })
  | some n, none =>
    if d.tor.latch ∨ n.zoned then d
    else if bad.any (fun b => decide (b.2 = .stripe)) then
      d.loseFold n ((bad.filter (fun b => decide (b.2 = .stripe))).map (·.1))
    else if d.fw.role = .solo ∧ !d.burstFull ∧ d.wr.qlc < d.wr.ingress then d
    else
      let d := d.bufferLost n.nsx (bad.map (·.1))
      let e := d.foldConv n
      let got := (e.wr.groups.drop d.wr.groups.length).foldl (fun k g =>
        k + (g.secs.filter (fun p => (d.buffered n.nsx p.1).isNone)).length * 4096) 0
      e.onWr (fun w => { w with foldRead := w.foldRead + got })
  | none, _ => d

def execFolding (nsid zone : Nat) (bad : List (Nat × ReadErr)) (s : State) : Host.Outcome State Fault Refusal :=
  mainDo s (fun d => d.foldBack nsid zone bad)

end Sys2Proof.Machine
end

