-- ==== Sys2Proof/Machine/PenSched.lean ====
section
/-! DEFINITION. Pens (R178 to R202): the token scheduler, changes to Pens, drains, dirty-page logging,
PEN_MANAGE and PEN_MIGRATE. -/

namespace Sys2Proof.Machine

/-! Grants (R190, R193). Tokens are counted in sixteenths. -/

/-- A Pen's enable is in effect. -/
def Dev.penActive (d : Dev) (p : Nat) : Bool := d.bit (A.PEN_STAT p) 0 && !d.bit (A.PEN_STAT p) 1

/-- In SURVIVOR floors, ceilings and the class 0 allowance count twice (R185). -/
def Dev.penMult (d : Dev) : Nat := if d.fw.role = .survivor then 2 else 1

/-- A ceiling in sixteenths; 0xFFFF is none. -/
def ceilOf (m f : Nat) : Nat := if f = 0xFFFF then 2 ^ 32 else f * m

/-- What a Pen asks of an epoch, and may not exceed. -/
structure PenAsk where
  p : Nat
  c0 : Nat
  floor : Nat
  ceil : Nat
  deriving DecidableEq, Repr

def Dev.askRead (d : Dev) (p : Nat) : PenAsk :=
  { p := p, c0 := d.fld (A.PEN_SHARE p) 23 8 * 16 * d.penMult,
    floor := d.fld (A.PEN_RATE p) 15 0 * d.penMult, ceil := ceilOf d.penMult (d.fld (A.PEN_RATE p) 47 32) }

def Dev.askWrite (d : Dev) (p : Nat) : PenAsk :=
  { p := p, c0 := 0, floor := d.fld (A.PEN_RATE p) 31 16 * d.penMult,
    ceil := ceilOf d.penMult (d.fld (A.PEN_RATE p) 63 48) }

/-- A share of what is available, cut in proportion (R193). -/
def cutShare (f avail sum : Nat) : Nat := if sum ≤ avail then f else f * avail / sum

/-- The grants of one direction: per Pen its class 0 and floor tokens; the spare pool; whether class 0
allowances and floors were cut. -/
structure Grant where
  per : List (PenAsk × Nat × Nat)
  spare : Nat
  c0cut : Bool
  floorcut : Bool
  deriving DecidableEq, Repr

/-- What a Pen would have of its class 0 allowance and of its floor where nothing is cut: each within its ceiling (R190). -/
def PenAsk.due (a : PenAsk) : Nat × Nat := (Nat.min a.c0 a.ceil, Nat.min a.floor (a.ceil - Nat.min a.c0 a.ceil))

/-- Steps 2 to 4 of R190 with the cuts of R193. -/
def grants (avail : Nat) (l : List PenAsk) : Grant :=
  let sc := l.foldl (fun n a => n + a.c0) 0
  let sf := l.foldl (fun n a => n + a.floor) 0
  let rest := avail - sc
  let per := l.map (fun a =>
    let c := Nat.min (cutShare a.c0 avail sc) a.ceil
    let f := if avail < sc then 0 else Nat.min (cutShare a.floor rest sf) a.due.2
    (a, c, f))
  let used := per.foldl (fun n x => n + x.2.1 + x.2.2) 0
  { per := per, spare := if rest < sf ∨ avail < sc then 0 else avail - used, c0cut := decide (avail < sc),
    floorcut := decide (rest < sf) }

/-- A Pen's grant was cut (R193). -/
def wasCut (x : PenAsk × Nat × Nat) : Bool := decide (x.2.1 < x.1.due.1) || decide (x.2.2 < x.1.due.2)

/-- The effective capacity of R190, step 1. -/
def effCapacity (cap pct rsv : Nat) : Nat := cap * pct / 100 - rsv

/-- PEN_CAP by mode (R191), 60% of it in PS1 (R334). -/
def Dev.penCap (d : Dev) : Nat × Nat :=
  let c := match d.fw.role with
    | .duo => (859, 562)
    | .survivor => (1718, 1093)
    | .solo => (1718, if d.burstFull then 1093 else 1406)
  if d.tor.ps = 1 then (c.1 * 60 / 100, c.2 * 60 / 100) else c

/-- Tokens granted since INIT, in sixteenths (R270). -/
def Dev.countTok (d : Dev) (wr : Bool) (p f : Nat) : Dev :=
  d.onPens (fun x => if wr then { x with wrTok := bump x.wrTok p f } else { x with rdTok := bump x.rdTok p f })

/-- Grant tokens to one Pen in one direction: a floor grant pays its debt first (R190). -/
def Dev.grantPen (d : Dev) (wr : Bool) (p f : Nat) : Dev :=
  let hi := if wr then 31 else 15
  let lo := if wr then 16 else 0
  let debt := d.fld (A.PEN_DEBT p) hi lo
  let pay := Nat.min f debt
  ((d.setFld (A.PEN_DEBT p) hi lo (debt - pay)).setFld (A.PEN_TOK p) hi lo (Nat.min (f - pay) 0xFFFF)).countTok wr p f

/-- The parameter of a break record (R194): tokens due and granted in sixteenths, the rank broken from bit 64 and the rank
kept from bit 72 (assumption 109). -/
def breakParam (due got broken kept : Nat) : Nat := due + got * 2 ^ 32 + broken * 2 ^ 64 + kept * 2 ^ 72

/-- The ranks of R192 that a cut of a direction breaks and keeps: class 0 reads or floors, for durability where something is reserved, else
for class 0 reads. DESIGN CHOICE (assumption 109): 0 where the capacity itself has fallen and nothing prevails. -/
def Dev.cutRanks (d : Dev) (g : Grant) (wr : Bool) : Nat × Nat :=
  (if g.c0cut then 3 else 4,
    if (if wr then d.fld A.PEN_RSV 31 16 else d.fld A.PEN_RSV 15 0) ≠ 0 then 1
    else if !g.c0cut && g.per.any (fun x => decide (x.1.c0 ≠ 0)) then 3 else 0)

/-- The firmware's record of a Pen's cut in an episode, once for each Pen (R194). -/
def Dev.cutRecord (d : Dev) (p param : Nat) : Dev :=
  if p ∈ d.pens.cutPens then d
  else
    let d := d.penPost p (0x0700 + p) (Config.evCode 4) 3 param
    let d := d.onPens (fun x => { x with cutPens := x.cutPens ++ [p], episodes := bump x.episodes p 1 })
    d.aenTo (d.penFns p) 7 1 0xC0

/-- Adopted peer entries are marked by this queue number (R239). -/
def peerQ : Nat := 65536

/-- The Pens whose guarantee prevails in a cut (R194): those whose class 0 allowance is kept while read floors are cut, and those of
the drained peer entries, and with these the device log, which 256 stands for, while write floors are. -/
def Dev.keptOnes (d : Dev) (gr gw : Grant) : List Nat :=
  (if gr.floorcut && !gr.c0cut then (gr.per.filter (fun x => decide (x.1.c0 ≠ 0))).map (fun x => x.1.p) else []) ++
    (if !gw.floorcut ∨ d.fld A.PEN_RSV 31 16 = 0 then []
     else ((d.wr.entries.filter (fun e => e.q == peerQ)).map (·.pen)).dedup ++ [256])

/-- A record of an episode: to a Pen's log, or to the device log. -/
def Dev.episodePost (d : Dev) (p code param : Nat) : Dev :=
  if p = 256 then d.fwPost 0x0700 code 3 param else d.penPost p (0x0700 + p) code 3 param

/-- The records of the cuts of one direction: what each cut Pen was due and granted (R194). -/
def Dev.cutRecords (d : Dev) (g : Grant) (wr : Bool) : Dev :=
  let rk := d.cutRanks g wr
  d.each (g.per.filter wasCut) (fun d x => d.cutRecord x.1.p (breakParam (x.1.due.1 + x.1.due.2) (x.2.1 + x.2.2) rk.1 rk.2))

/-- The records of an episode (R194): of each Pen at the first epoch that cuts it, and of each whose guarantee prevails, once. -/
def Dev.episodeRecords (d : Dev) (gr gw : Grant) : Dev :=
  if gr.c0cut || gr.floorcut || gw.floorcut then
    let d := d.onPens (fun x => { x with episode := true, cutEp := x.cutEp + 1, lastCut := d.ns })
    let d := (d.cutRecords gr false).cutRecords gw true
    let wr := gw.floorcut && decide (d.fld A.PEN_RSV 31 16 ≠ 0)
    let rk := d.cutRanks (if wr then gw else gr) wr
    let kept := (d.keptOnes gr gw).dedup.filter (fun p => !d.pens.keptPens.contains p)
    let d := d.onPens (fun x => { x with keptPens := x.keptPens ++ kept })
    d.each kept (fun d p =>
      let own := (gr.per ++ gw.per).filter (fun x => x.1.p == p)
      d.episodePost p (Config.evCode 4) (breakParam (own.foldl (fun n x => n + x.1.due.1 + x.1.due.2) 0)
        (own.foldl (fun n x => n + x.2.1 + x.2.2) 0) rk.1 rk.2))
  else d

/-- A record without the functions that another Pen's record takes (R179). -/
def PenRec.without (r x : Sys2Proof.PenRec) : PenRec := { r with func0 := r.func0 &&& ~~~ x.func0, func1 := r.func1 &&& ~~~ x.func1 }

/-- Namespaces are on their way to the Pen (R189). -/
def Dev.penMoves (d : Dev) (p : Nat) : Bool := d.pens.moves.any (fun m => m.pen == p)

/-- Staged records come into force (R188): a function that one takes leaves its old Pen (R179), whose record is written anew with its GEN
one greater (R185), and the Pen has its range of key slots. A record with namespaces on their way waits for them (R189). -/
def Dev.applyStaged (d : Dev) : Dev :=
  let l := d.pens.staged.filter (fun s => !d.penMoves s.1)
  let d := d.onPens (fun x => { x with staged := x.staged.filter (fun s => d.penMoves s.1) })
  d.each l (fun d s =>
    let en := match d.pen s.1 with | some i => i.enabled | none => false
    let d := d.setReg (A.CIPHER_PENRANGE (s.1 % 256)) (s.2.1.ksbase + s.2.1.kscount * 2 ^ 16)
    d.onPens (fun x =>
      let others := x.recs.map (fun e =>
        let r := PenRec.without e.2.r s.2.1
        (e.1, if e.1 = s.1 ∨ r = e.2.r then e.2 else { e.2 with r := r, gen := e.2.gen + 1 }))
      let gen := match d.pen s.1 with | some i => Nat.max i.gen s.2.2 | none => s.2.2
      { x with recs := SMap.put others s.1 { r := s.2.1, gen := gen, enabled := en } }))

/-- Completions that wait under a key are posted (R188, R195): 0 the boundary, 1 + p the drain of Pen p,
1,000 + p its enable, 2,000 + p its quiesce, 3,000 + p its namespaces' move. -/
def Dev.finishPen (d : Dev) (k : Nat) : Dev :=
  let l := d.pens.done.filter (fun x => x.1 == k)
  let d := d.onPens (fun x => { x with done := x.done.filter (fun y => y.1 != k) })
  d.each l (fun d x => d.complete x.2.h x.2.st x.2.dnr x.2.res0 x.2.res1)

/-- Held enables of Pens whose drain is over take effect (R195), and the commands that gave one complete, though a later Disable have
taken it back. -/
def Dev.applyHeld (d : Dev) : Dev :=
  let l := d.pens.heldEn.filter (fun p => !d.bit (A.PEN_STAT p) 1)
  let d := d.onPens (fun x => { x with heldEn := x.heldEn.filter (fun p => !l.contains p), enNew := [] })
  let d := d.each l (fun d p => (d.setBit (A.PEN_STAT p) 0 true).setBit (A.PEN_PCTL p) 0 true)
  d.each ((List.range 256).filter (fun p => !d.bit (A.PEN_STAT p) 1)) (fun d p => d.finishPen (1000 + p))

/-- The write reserve that the firmware sets (R88, R191, R194): the drain's while an entry of the dead peer is left, and the
tokens of what folding has read back in the epoch that ends. DESIGN CHOICE (assumption 118): the read-back of one epoch is
charged to the next. -/
def Dev.rsvWr (d : Dev) : Nat :=
  let drain := if d.fw.role = .survivor ∧ d.wr.entries.any (fun e => e.q == peerQ) then 320 else 0
  Nat.min (drain + (d.wr.foldRead + 4095) / 4096) 0xFFFF

/-- An epoch boundary (R188, R190, R191, R193, R194). -/
def Dev.epoch (d : Dev) : Dev :=
  let d := (d.applyStaged).finishPen 0
  let d := d.applyHeld.noteShares
  let d := if d.writable then
      (((d.setFld A.PEN_CAP 15 0 d.penCap.1).setFld A.PEN_CAP 31 16 d.penCap.2).setFld A.PEN_RSV 31 16 d.rsvWr).onWr
        (fun w => { w with foldRead := 0 }) else d
  let rd := effCapacity (d.fld A.PEN_CAP 15 0) d.pctA (d.fld A.PEN_RSV 15 0)
  let wr := effCapacity (d.fld A.PEN_CAP 31 16) d.pctA (d.fld A.PEN_RSV 31 16)
  let d := d.setReg A.PEN_EFFCAP (rd % 65536 + wr % 65536 * 65536)
  let d := d.setReg A.PEN_EPOCH (((d.rd A.PEN_EPOCH).toNat + 1) % 2 ^ 32)
  let pens := (List.range 256).filter d.penActive
  let gr := grants (rd * 16) (pens.map d.askRead)
  let gw := grants (wr * 16) (pens.map d.askWrite)
  let d := d.each (List.range 256) (fun d p => d.setReg (A.PEN_TOK p) 0)
  let d := d.each gr.per (fun d x => (d.grantPen false x.1.p x.2.2).countTok false x.1.p x.2.1)
  let d := d.each gw.per (fun d x => d.grantPen true x.1.p x.2.2)
  let eff := (gr.per.zip gw.per).foldl (fun m x =>
    SMap.put m x.1.1.p
      { weight := Nat.max 1 (d.fld (A.PEN_SHARE x.1.1.p) 31 24)
        rdLeft := x.1.1.ceil - x.1.2.1 - x.1.2.2, wrLeft := x.2.1.ceil - x.2.2.2 }) ([] : SMap PenEff)
  let d := d.onPens (fun x =>
    { x with
      c0 := gr.per.foldl (fun m y => SMap.set (fun _ => 0) m y.1.p y.2.1) []
      spareRd := gr.spare, spareWr := gw.spare, eff := eff })
  let cut := fun p => (gr.per ++ gw.per).any (fun x => decide (x.1.p = p) && wasCut x)
  let d := d.each (List.range 256) (fun d p => d.setBit (A.PEN_STAT p) 2 (cut p))
  let d := d.onPens (fun x => { x with cutEps := (pens.filter cut).foldl (fun m p => bump m p 1) x.cutEps })
  let d := if gr.c0cut then d.setBit A.PEN_BREAK 1 true else d
  let d := if gr.floorcut || gw.floorcut then d.setBit A.PEN_BREAK 0 true else d
  d.episodeRecords gr gw

/-- 1 s without a cut epoch ends an episode with its closing records (R194): the cut epochs, and from bit 64 the time of
the last. -/
def Dev.episodeEnd (d : Dev) : Dev :=
  if d.pens.episode then
    let n := d.pens.cutEp
    let ls := (d.pens.cutPens ++ d.pens.keptPens).dedup
    let d := d.each ls (fun d p => d.episodePost p (Config.evCode 5) (n + d.pens.lastCut * 2 ^ 64))
    d.onPens (fun x => { x with episode := false, cutEp := 0, lastCut := 0, cutPens := [], keptPens := [] })
  else d

def execBreakEpisodeEnd (s : State) : Host.Outcome State Fault Refusal := mainDo s Dev.episodeEnd

/-! Admission (R190). -/

/-- The waiting command that a Pen admits next in a direction: the earliest deadline. -/
def Dev.penHead (d : Dev) (p : Nat) (wr : Bool) : Option PenCmd :=
  (d.pens.wait.filter (fun c => c.pen == p && c.wr == wr)).foldl
    (fun b c => match b with
      | none => some c
      | some x => if c.deadline < x.deadline then some c else some x) none

/-- The Pens with commands waiting in a direction: descending weight, then ascending number. -/
def Dev.drawOrder (d : Dev) (wr : Bool) : List Nat :=
  let w := fun p => match SMap.find d.pens.eff p with | some e => e.weight | none => 1
  (((d.pens.wait.filter (fun c => c.wr == wr)).map (·.pen)).dedup.filter d.penActive).insertionSort
    (fun a b => w b < w a ∨ (w b = w a ∧ a ≤ b))

/-- One Pen draws from the spare pool: up to its weight, its ceiling and what is left; debt first. -/
def Dev.drawPen (d : Dev) (wr : Bool) (p : Nat) : Dev :=
  match SMap.find d.pens.eff p with
  | none => d
  | some e =>
    let pool := if wr then d.pens.spareWr else d.pens.spareRd
    let n := Nat.min e.weight (Nat.min pool (if wr then e.wrLeft else e.rdLeft))
    let hi := if wr then 31 else 15
    let lo := if wr then 16 else 0
    let debt := d.fld (A.PEN_DEBT p) hi lo
    let pay := Nat.min n debt
    let d := d.setFld (A.PEN_DEBT p) hi lo (debt - pay)
    let d := (d.setFld (A.PEN_TOK p) hi lo (Nat.min (d.fld (A.PEN_TOK p) hi lo + (n - pay)) 0xFFFF)).countTok wr p n
    d.onPens (fun x =>
      if wr then { x with spareWr := x.spareWr - n, eff := SMap.put x.eff p { e with wrLeft := e.wrLeft - n } }
      else { x with spareRd := x.spareRd - n, eff := SMap.put x.eff p { e with rdLeft := e.rdLeft - n } })

/-- One round of the spare pool (R190, step 4). -/
def Dev.spareRound (d : Dev) (wr : Bool) : Dev := d.each (d.drawOrder wr) (fun d p => d.drawPen wr p)

/-- The Pen has a sixteenth that the command may use, and owes nothing. -/
def Dev.penCan (d : Dev) (c : PenCmd) : Bool :=
  let tok := if c.wr then d.fld (A.PEN_TOK c.pen) 31 16 else d.fld (A.PEN_TOK c.pen) 15 0
  let c0 := if !c.wr && decide (c.cls = 0) then SMap.get (fun _ => 0) d.pens.c0 c.pen else 0
  let debt := if c.wr then d.fld (A.PEN_DEBT c.pen) 31 16 else d.fld (A.PEN_DEBT c.pen) 15 0
  decide (0 < tok + c0) && decide (debt = 0)

/-- What a command takes of its Pen's class 0 allowance (R190). -/
def Dev.c0Part (d : Dev) (c : PenCmd) : Nat :=
  Nat.min (if !c.wr && decide (c.cls = 0) then SMap.get (fun _ => 0) d.pens.c0 c.pen else 0) c.cost

/-- Charge a command's whole cost: class 0 allowance first, then tokens; the rest is debt (R190). -/
def Dev.charge (d : Dev) (c : PenCmd) : Dev :=
  let hi := if c.wr then 31 else 15
  let lo := if c.wr then 16 else 0
  let c0 := SMap.get (fun _ => 0) d.pens.c0 c.pen
  let a := d.c0Part c
  let d := d.onPens (fun x => { x with c0 := if a = 0 then x.c0 else SMap.set (fun _ => 0) x.c0 c.pen (c0 - a) })
  let tok := d.fld (A.PEN_TOK c.pen) hi lo
  let b := Nat.min tok (c.cost - a)
  let d := d.setFld (A.PEN_TOK c.pen) hi lo (tok - b)
  d.setFld (A.PEN_DEBT c.pen) hi lo (Nat.min 0xFFFF (d.fld (A.PEN_DEBT c.pen) hi lo + (c.cost - a - b)))

/-- Admit the head of a Pen in a direction, after a round of the spare pool where it lacks a token. -/
def Dev.penAdmit (d : Dev) (p : Nat) (wr : Bool) : Dev × Option PenCmd :=
  match d.penHead p wr with
  | none => (d, none)
  | some c =>
    if d.bit A.PEN_CTL 0 && d.penActive p then
      let d := if d.penCan c then d else d.spareRound wr
      if d.penCan c then
        let a := d.c0Part c
        let d := d.charge c
        (d.onPens (fun x => { x with wait := x.wait.filter (fun y => y.seq != c.seq) }), some { c with c0Paid := a })
      else (d, none)
    else (d, none)

/-! Drains (R195). -/

/-- The functions of a Pen hold admitted commands that are not done. -/
def Dev.penBusy (d : Dev) (p : Nat) : Bool :=
  d.wr.entries.any (fun e => e.pen == p && !e.acked && e.q != peerQ) || d.host.reads.any (fun r => r.pen == p) ||
    d.wr.waiting.any (fun w => w.pen == p) || (d.wr.flushes.map (·.h) ++ d.wr.opens.map (·.1) ++ d.wr.zwait.map (·.2.1)).any (fun h => decide (d.penOf h.fn.val = some p)) ||
    d.host.fw.any (fun f => f.admitted && decide (d.penOf f.h.fn.val = some p))

/-- Writes of a Pen held under R86 end at once with Write Temperature Hold (R195, R200). -/
def Dev.dropHeld (d : Dev) (p : Nat) : Dev :=
  d.each (d.wr.entries.filter (fun e => e.pen == p && e.held && !e.acked)) (fun d e => d.failEntry e .tempHold)

/-- A Pen stops: admission ends, its debt is cleared, what was admitted drains. An enable of the same epoch is held until then (R200). -/
def Dev.penStop (d : Dev) (p : Nat) : Dev :=
  let d := if d.bit (A.PEN_STAT p) 0 then (d.setBit (A.PEN_STAT p) 0 false).setBit (A.PEN_STAT p) 1 true else d
  let d := d.onPens (fun x => { x with heldEn := x.heldEn.filter (· != p) ++ (if x.enNew.contains p then [p] else []) })
  (d.setReg (A.PEN_DEBT p) 0).dropHeld p

/-- A write of PEN_PCTL (R195): an enable takes effect at the first epoch boundary after any drain. -/
def Dev.pctl (d : Dev) (p : Nat) (quiesce en : Bool) : Dev :=
  let was := d.bit (A.PEN_PCTL p) 0
  let d := (d.setBit (A.PEN_PCTL p) 0 en).setBit (A.PEN_PCTL p) 1 quiesce
  let d := if quiesce then d else d.setBit (A.PEN_STAT p) 4 false
  if en && !was then d.onPens (fun x => { x with heldEn := x.heldEn.filter (· != p) ++ [p], enNew := x.enNew.filter (· != p) ++ [p] })
  else if !en && was then d.penStop p
  else d

/-- Admitted commands of a function that are not done. -/
def Dev.fnBusy (d : Dev) (fn : Nat) : Bool := (d.openCmds.filter (fun h => h.fn.val == fn)).any (fun h =>
  d.wr.entries.any (fun e => e.h == h && !e.acked) || d.host.reads.any (fun r => r.h == h) ||
    d.wr.waiting.any (fun w => w.h == h) || d.wr.flushes.any (fun f => f.h == h) || d.wr.opens.any (fun o => o.1 == h) || d.wr.zwait.any (fun o => o.2.1 == h) ||
    d.host.fw.any (fun f => f.admitted && f.h == h))

/-- The queues of a function are deleted; a held re-enable makes it ready (R195). -/
def Dev.fnDrainEnd (d : Dev) (fn : Nat) (re : Bool) : Dev :=
  let d := d.onHost (fun h =>
    { h with
      sqs := h.sqs.filter (fun q => q.fn != fn), cqs := h.cqs.filter (fun q => q.fn != fn)
      rdy := h.rdy.filter (· != fn) })
  let d := d.onPens (fun x => { x with fnDrain := x.fnDrain.filter (fun y => y.1 != fn) })
  if re then d.rdyCheck else d

/-- A shutdown of a Pen ends once nothing admitted is left, and one of its functions once nothing of that function is (R195). -/
def Dev.drainEnd (d : Dev) (p : Nat) : Dev :=
  let d := if d.penBusy p then d
    else
      let d := if d.bit (A.PEN_STAT p) 1 then (d.setBit (A.PEN_STAT p) 1 false).finishPen (1 + p) else d
      if d.bit (A.PEN_PCTL p) 1 then (d.setBit (A.PEN_STAT p) 4 true).finishPen (2000 + p) else d
  d.each (d.pens.fnDrain.filter (fun x => decide (d.penOf x.1 = some p) && !d.fnBusy x.1)) (fun d x => d.fnDrainEnd x.1 x.2)

def execPenDrainEnd (p : PenN) (s : State) : Host.Outcome State Fault Refusal :=
  mainDo s (fun d => d.drainEnd p.val)

/-! Dirty-page logging (R196, R197). -/

/-- SWAP exchanges the active and frozen copies (R197). -/
def Dev.dlogSwap (d : Dev) (p : Nat) : Dev :=
  d.setBit (A.PEN_DLOG_CTL p) 2 (!d.bit (A.PEN_DLOG_CTL p) 2)

def execSwap (p : PenN) (s : State) : Host.Outcome State Fault Refusal := regDo (A.PEN_DLOG_CTL p.val) s (fun d => d.dlogSwap p.val)

/-- PEN_DLOG_CTL.EN (R196). -/
def Dev.dlogEn (d : Dev) (p : Nat) (en : Bool) : Dev :=
  (d.setBit (A.PEN_DLOG_CTL p) 0 en).setBit (A.PEN_STAT p) 3 en

def execDlogEnWrite (p : PenN) (en : Bool) (s : State) : Host.Outcome State Fault Refusal :=
  regDo (A.PEN_DLOG_CTL p.val) s (fun d => d.dlogEn p.val en)

/-! PEN_MANAGE (R185, R187, R188, R262). -/

/-- A physical function: 0, and 128 on a bifurcated port (R404). -/
def Dev.isPf (d : Dev) (fn : Nat) : Bool := decide (fn = 0) || (d.board.bifurcated && decide (fn = 128))

/-- Units of 1/16 token of a record in a direction. -/
def recSum (wr : Bool) (r : PenRec) : Nat := if wr then r.wrfloor else r.rdfloor + r.c0allow * 16

/-- The records of the other Pens that a change must agree with: those in force, but for one that a staged record replaces at the next
boundary, and those staged, also where they wait for namespaces on their way (R181, R182, R189). -/
def Dev.recsBeside (d : Dev) (p : Nat) : List (Nat × PenRec) :=
  let st := d.pens.staged.foldl (fun (m : SMap PenRec) s => SMap.put m s.1 s.2.1) []
  let force := (d.pens.recs.map (fun e => (e.1, e.2.r))).filter (fun e => (SMap.find st e.1).isNone || d.penMoves e.1)
  (force ++ st).filter (fun e => e.1 != p)

/-- The sum over the Pens of what their records take, the greater of two where a Pen has two. -/
def recsSum (l : List (Nat × PenRec)) (f : PenRec → Nat) : Nat :=
  (l.map Prod.fst).dedup.foldl (fun s p => s + ((l.filter (fun e => e.1 == p)).foldl (fun m e => Nat.max m (f e.2)) 0)) 0

/-- Two ranges overlap. -/
def overlaps (a n b m : Nat) : Bool := decide (0 < n) && decide (0 < m) && decide (a < b + m) && decide (b < a + n)

/-- The parameter checks of R187; on a bifurcated port function 128 is a physical function too (R255). -/
def badPenRec (two : Bool) (p : Nat) (r : PenRec) : Bool :=
  decide (r.rdceil ≠ 0xFFFF ∧ r.rdceil < r.rdfloor) || decide (r.wrceil ≠ 0xFFFF ∧ r.wrceil < r.wrfloor) ||
    decide (r.rdceil ≠ 0xFFFF ∧ r.rdceil < r.rdfloor + r.c0allow * 16) || decide (r.weight = 0) ||
    (if two then [0, 128] else [0]).any (fun f =>
      if p = 0 then !(r.func0.getLsbD f && r.func1.getLsbD f) else r.func0.getLsbD f || r.func1.getLsbD f) ||
    decide (255 < r.weight) || decide (4096 < r.ksbase + r.kscount) || decide (1024 < r.c0allow) || decide (60000 < r.hold) || decide (1024 < r.nsq) ||
    decide (4095 < r.ioq) || [r.tgt0, r.tgt1, r.tgt2, r.tgt3].any (fun t => decide (t < 10) || decide (1000000 < t))

/-- The namespaces on their way to a Pen (R189). -/
def Dev.movesTo (d : Dev) (p : Nat) : List NsMove :=
  d.pens.moves.filter (fun m => m.pen == p && !d.media.nss.any (fun n => n.nsx == m.nsx && n.pen == p))

/-- The I/O submission or completion queues that a Pen's functions hold, whichever are more: its use of IOQ (R186). -/
def Dev.ioqUse (d : Dev) (p : Nat) : Nat :=
  Nat.max (d.host.sqs.filter (fun q => decide (q.sqid ≠ 0) && decide (d.penOf q.fn = some p))).length
    (d.host.cqs.filter (fun q => decide (q.cqid ≠ 0) && decide (d.penOf q.fn = some p))).length

/-- The limits of R187. -/
def Dev.penLimited (d : Dev) (p : Nat) (r : PenRec) : Bool :=
  let os := d.recsBeside p
  let rs := (p, r) :: os
  let nss := d.media.nss.filter (fun n => n.pen == p)
  let cap := match d.fw.role with | .duo => (859, 562) | .survivor => (1718, 1093) | .solo => (1718, 1093)
  decide (r.ioq < d.ioqUse p) || decide (r.nsq < nss.length + (d.movesTo p).length) ||
    (nss.map (·.slot) ++ (d.movesTo p).map (·.slot)).any (fun s => decide (d.board.code.val ≠ 2) &&
      !(decide (r.ksbase ≤ s) && decide (s < r.ksbase + r.kscount))) ||
    decide (r.morq < d.openOf p) || decide (r.marq < d.activeOf p) ||
    decide (r.convq ≠ 0xFFFFFFFF ∧ r.convq < (nss.filter (fun n => !n.zoned)).foldl (fun s n => s + n.gib) 0) ||
    os.any (fun x => overlaps x.2.ksbase x.2.kscount r.ksbase r.kscount || overlaps x.2.cmboff x.2.cmbsh r.cmboff r.cmbsh) ||
    decide (512 < recsSum rs (·.cmbsh)) || decide (512 < r.cmboff + r.cmbsh) ||
    (decide (p ≠ 0) && decide (32 < r.cmbsh)) ||
    decide (1024 < recsSum rs (·.bufsh)) ||
    decide (cap.1 * 16 < recsSum rs (recSum false)) || decide (cap.2 * 16 < recsSum rs (recSum true))

/-- A function with I/O queues, submission or completion ones, would move between Pens (R187). -/
def Dev.movesBusy (d : Dev) (p : Nat) (r : PenRec) : Bool :=
  let fns := if d.board.pairId then r.func1 else r.func0
  let moved := fun (fn : Nat) => decide ((d.penOf fn = some p) ≠ (fns.getLsbD fn = true))
  d.host.sqs.any (fun q => decide (q.sqid ≠ 0) && moved q.fn) || d.host.cqs.any (fun q => decide (q.cqid ≠ 0) && moved q.fn)

/-- A record's rates and shares go into the PEN registers (R188). -/
def Dev.stageRegs (d : Dev) (p : Nat) (r : PenRec) : Dev :=
  let d := d.setReg (A.PEN_RATE p) (r.rdfloor + r.wrfloor * 2 ^ 16 + r.rdceil * 2 ^ 32 + r.wrceil * 2 ^ 48)
  d.setReg (A.PEN_SHARE p) (r.c0allow * 256 + r.weight * 2 ^ 24)

/-- Stage a record (R188); while namespaces move to the Pen the registers wait for them (R189). -/
def Dev.stage (d : Dev) (p : Nat) (r : PenRec) (gen : Nat) : Dev :=
  let d := if d.penMoves p then d else d.stageRegs p r
  d.onPens (fun x => { x with staged := x.staged ++ [(p, r, gen)] })

/-- The generation that the next record of a Pen takes. -/
def Dev.nextPenGen (d : Dev) (p : Nat) : Nat :=
  let g := match d.pen p with | some i => i.gen | none => 0
  (d.pens.staged.filter (fun s => s.1 == p)).foldl (fun m s => Nat.max m s.2.2) g + 1

/-- The checks of PEN_MANAGE SET before those of a move, in the order of R260 and R187. -/
def Dev.penSetStatus (d : Dev) (h : Hdr) (p len : Nat) (r : PenRec) : Option Status :=
  if !d.isPf h.fn.val then some .invalidOpcode
  else if len ≠ 256 ∨ badPenRec d.board.bifurcated p r then some .invalidField
  else if d.fw.mode = .init then some .modeRefused
  else if d.penLimited p r then some .penLimit
  else none

/-- A checked record is staged; the command completes at the epoch boundary (R188, R189). -/
def Dev.penStage (d : Dev) (h : Hdr) (p : Nat) (r : PenRec) : Dev :=
  let g := d.nextPenGen p
  let k := if d.penMoves p then 3000 + p else 0
  (d.stage p r g).onPens (fun x =>
    { x with done := x.done ++ [(k, { h := h, st := .success, dnr := false, res0 := g, res1 := 0 })] })

/-- PEN_MANAGE GET. -/
def Dev.penGet (d : Dev) (h : Hdr) (p len : Nat) : Dev :=
  if !d.isPf h.fn.val then d.failCmd h .invalidOpcode
  else if len ≠ 256 then d.failCmd h .invalidField
  else match d.pen p with
    | none => d.failCmd h .invalidField
    | some i =>
      (d.send h (penBytes p i)).complete h .success false i.gen

def execPenManageGet (h : Hdr) (p : PenN) (len : Nat) (s : State) : Host.Outcome State Fault Refusal :=
  mainDo s (fun d => d.penGet h p.val len)

/-- PEN_MANAGE ENABLE and DISABLE: a Disable in the epoch of an Enable runs, and the Enable is held (R195, R200). -/
def Dev.penEnable (d : Dev) (h : Hdr) (p : Nat) (en : Bool) : Dev :=
  if !d.isPf h.fn.val then d.failCmd h .invalidOpcode
  else match d.pen p with
    | none => d.failCmd h .invalidField
    | some i =>
      if d.fw.mode = .init then d.failCmd h .modeRefused else
      let on := en || d.pens.enNew.contains p
      let gen := if i.enabled = on then i.gen else d.nextPenGen p
      let d := d.onPens (fun x => { x with recs := SMap.put x.recs p { i with enabled := on, gen := gen } })
      let c : Cqe := { h := h, st := .success, dnr := false, res0 := 0, res1 := 0 }
      if en then
        let held := !d.bit (A.PEN_STAT p) 0
        (d.pctl p (d.bit (A.PEN_PCTL p) 1) true).onPens (fun x =>
          { x with heldEn := if held then x.heldEn.filter (· != p) ++ [p] else x.heldEn
                   enNew := x.enNew.filter (· != p) ++ [p], done := x.done ++ [(1000 + p, c)] })
      else
        let d := d.pctl p (d.bit (A.PEN_PCTL p) 1) false
        if d.bit (A.PEN_STAT p) 1 then d.onPens (fun x => { x with done := x.done ++ [(1 + p, c)] })
        else d.complete h .success

def execPenManageEnable (h : Hdr) (p : PenN) (s : State) : Host.Outcome State Fault Refusal :=
  mainDo s (fun d => d.penEnable h p.val true)

def execPenManageDisable (h : Hdr) (p : PenN) (s : State) : Host.Outcome State Fault Refusal :=
  mainDo s (fun d => d.penEnable h p.val false)

/-! PEN_MIGRATE (R198, R263). -/

/-- The checks that every PEN_MIGRATE action passes first, `bad` its parameter checks (R260, R263, R275). -/
def Dev.migCheck (d : Dev) (h : Hdr) (p : Nat) (bad : Bool) : Option Status :=
  if !d.isPf h.fn.val then some .invalidOpcode
  else if p = 0 ∨ bad then some .invalidField
  else if d.fw.mode = .init then some .modeRefused
  else none

/-- The pages of a Pen's windows. -/
def Dev.dlogPages (d : Dev) (p : Nat) : Nat :=
  (List.range 4).foldl (fun n w => if d.bit (A.PEN_DLOG_WIN p w) 0 then n + d.fld (A.PEN_DLOG_MAP p w) 31 0 else n) 0

/-- The bitmaps of a Pen's windows: first unit of 64 bytes, units. -/
def Dev.dlogMaps (d : Dev) (p : Nat) : List (Nat × Nat) :=
  ((List.range 4).filter (fun w => d.bit (A.PEN_DLOG_WIN p w) 0)).map (fun w =>
    (d.fld (A.PEN_DLOG_MAP p w) 63 32, (d.fld (A.PEN_DLOG_MAP p w) 31 0 + 511) / 512))

/-- The lowest place for a bitmap of n units beside those given, within the 128 MiB of a copy (R197). -/
def mapPlace (used : List (Nat × Nat)) (n : Nat) : Option Nat :=
  ((0 :: used.map (fun u => u.1 + u.2)).insertionSort (· ≤ ·)).find? (fun b =>
    decide (b + n ≤ 2 ^ 21) && !used.any (fun u => overlaps b n u.1 u.2))

/-- Places for the bitmaps of windows; none where the area has no room for them. -/
def mapPlaces : List Win → List (Nat × Nat) → Option (List Nat)
  | [], _ => some []
  | w :: l, used =>
    if w.valid then
      let n := (w.npages + 511) / 512
      match mapPlace used n with
      | some b => (mapPlaces l (used ++ [(b, n)])).map (fun r => b :: r)
      | none => none
    else (mapPlaces l used).map (fun r => 0 :: r)

/-- Clear a window's bits in one copy, by whole words of 32 bits as HARVEST returns them (R198, R263). -/
def Dev.dlogClear (d : Dev) (p w copy : Nat) : Dev :=
  let a := (d.dlogBit p w copy 0).1
  d.clearMem a (a + (d.fld (A.PEN_DLOG_MAP p w) 31 0 + 31) / 32 * 4)

/-- START_LOG; while logging is on it is out of sequence (R275); what the logging area has no room for is Pen Limit (R261). -/
def Dev.logStart (d : Dev) (h : Hdr) (p len : Nat) (ws : List Win) : Dev :=
  match d.migCheck h p (decide (len ≠ 64 ∨ ws.length ≠ 4) || ws.any (fun w => w.valid && decide (w.hbase % 4096 ≠ 0))) with
  | some st => d.failCmd h st
  | none =>
    let others := (List.range 256).filter (fun x => x != p && d.bit (A.PEN_DLOG_CTL x) 0)
    let pages := ws.foldl (fun n w => if w.valid then n + w.npages else n) 0
    if d.bit (A.PEN_DLOG_CTL p) 0 then d.failCmd h .cmdSeqError
    else if 2 ^ 30 < others.foldl (fun n x => n + d.dlogPages x) 0 + pages then d.failCmd h .penLimit
    else match mapPlaces ws (others.flatMap d.dlogMaps) with
    | none => d.failCmd h .penLimit
    | some places =>
      let d := d.each ((ws.zip places).zipIdx) (fun d x =>
        let d := d.setReg (A.PEN_DLOG_WIN p x.2) (x.1.1.hbase / 4096 * 4096 + (if x.1.1.valid then 1 else 0))
        let d := d.setReg (A.PEN_DLOG_MAP p x.2) (x.1.2 * 2 ^ 32 + x.1.1.npages)
        if x.1.1.valid then (d.dlogClear p x.2 0).dlogClear p x.2 1 else d)
      let d := d.dlogEn p true
      let d := d.onPens (fun x => { x with started := x.started.filter (· != p) ++ [p] })
      d.complete h .success false pages

def execStartLog (h : Hdr) (p : PenN) (len : Nat) (w : List Win) (s : State) : Host.Outcome State Fault Refusal :=
  mainDo s (fun d => d.logStart h p.val len w)

/-- On a bifurcated link HARVEST is for the port that carries the Pen's functions (R198). -/
def Dev.rightPort (d : Dev) (fn p : Nat) : Bool :=
  !d.board.bifurcated || decide ((fn = 128) ↔ ((List.range 128).any (fun f => decide (d.penOf (f + 128) = some p)) = true))

/-- HARVEST: swap, copy the frozen copy of the window, clear it, count (R198); while the peer is being declared
lost it ends with Pair Fenced (R200, R275). -/
def Dev.harvestWin (d : Dev) (h : Hdr) (p len w : Nat) : Dev :=
  let n := if d.bit (A.PEN_DLOG_WIN p w) 0 then d.fld (A.PEN_DLOG_MAP p w) 31 0 else 0
  match d.migCheck h p (decide (len < (n + 31) / 32 * 4) || !d.rightPort h.fn.val p) with
  | some st => d.failCmd h st
  | none =>
    if d.bit A.PAIR_STAT 7 ∧ d.pair.takeover then d.failCmd h .pairFenced
    else if p ∉ d.pens.started then d.failCmd h .cmdSeqError
    else
      let frozen := d.fld (A.PEN_DLOG_CTL p) 2 2
      let d := d.dlogSwap p
      let b := d.bytes (d.dlogBit p w frozen 0).1 ((n + 31) / 32 * 4)
      let cnt := b.foldl (fun s x => s + ones 8 x.toNat) 0
      let d := d.dlogClear p w frozen
      (d.send h b).complete h .success false cnt

def execHarvest (h : Hdr) (p : PenN) (len : Nat) (w : Fin 4) (s : State) : Host.Outcome State Fault Refusal :=
  mainDo s (fun d => d.harvestWin h p.val len w.val)

/-- QUIESCE: fetching stops; the command completes once every admitted command has. -/
def Dev.quiescePen (d : Dev) (h : Hdr) (p : Nat) : Dev :=
  match d.migCheck h p false with
  | some st => d.failCmd h st
  | none =>
    if p ∉ d.pens.started then d.failCmd h .cmdSeqError
    else
      let d := (d.setBit (A.PEN_PCTL p) 1 true).dropHeld p
      if d.penBusy p then
        d.onPens (fun x => { x with done := x.done ++ [(2000 + p, { h := h, st := .success, dnr := false, res0 := 0, res1 := 0 })] })
      else (d.setBit (A.PEN_STAT p) 4 true).complete h .success

def execQuiesce (h : Hdr) (p : PenN) (s : State) : Host.Outcome State Fault Refusal :=
  mainDo s (fun d => d.quiescePen h p.val)

/-- The record of a submission queue and of a completion queue (R263). -/
def sqBytes (d : Dev) (q : Sq) : List Byte :=
  leBytes 2 q.sqid ++ leBytes 2 q.cqid ++ [0, 0] ++ leBytes 2 0 ++ leBytes 8 q.base ++ leBytes 4 q.size ++
    leBytes 4 q.head ++ leBytes 4 q.tail ++
    leBytes 4 ((if q.inCmb then 1 else 0) + (if d.bit (A.COL_SQ q.q) 0 then 2 else 0))

def cqBytes (q : Cq) : List Byte :=
  leBytes 2 q.cqid ++ leBytes 2 0 ++ [1, (if q.phase then 1 else 0)] ++ leBytes 2 q.vector ++ leBytes 8 q.base ++
    leBytes 4 q.size ++ leBytes 4 q.head ++ leBytes 4 q.tail ++ leBytes 4 0

/-- READ_STATE. -/
def Dev.stateRead (d : Dev) (h : Hdr) (p len : Nat) : Dev :=
  let sq := d.host.sqs.filter (fun q => decide (d.penOf q.fn = some p) && decide (q.sqid ≠ 0))
  let cq := d.host.cqs.filter (fun q => decide (d.penOf q.fn = some p) && decide (q.cqid ≠ 0))
  match d.migCheck h p (decide (len ≠ 32 * (sq.length + cq.length))) with
  | some st => d.failCmd h st
  | none =>
    if !d.bit (A.PEN_STAT p) 4 then d.failCmd h .cmdSeqError
    else
      (d.send h (sq.flatMap (sqBytes d) ++ cq.flatMap cqBytes)).complete
        h .success false (sq.length + cq.length)

def execReadState (h : Hdr) (p : PenN) (len : Nat) (s : State) : Host.Outcome State Fault Refusal :=
  mainDo s (fun d => d.stateRead h p.val len)

/-- The lowest controller-wide index without a queue (R96). -/
def Dev.freeQ (d : Dev) : Option Nat := (List.range 4096).find? (fun i => !d.host.sqs.any (fun q => q.q == i && q.sqid != 0))

/-- Load a queue record into a function (R263). DESIGN CHOICE (assumption 149): the record carries no latency class, and the submission queue
gets class 3. -/
def Dev.loadQueue (d : Dev) (fn p : Nat) (r : QRec) : Dev :=
  if r.isCq then
    d.onHost (fun h => { h with cqs := h.cqs ++ [{ fn := fn, cqid := r.qid, size := r.size, vector := r.vector, base := r.base, head := r.head, tail := r.tail, phase := r.phase }] })
  else
    match d.freeQ with
    | none => d
    | some i =>
      let d := d.onHost (fun h => { h with sqs := h.sqs ++ [{ fn := fn, sqid := r.qid, cqid := r.cqid, q := i, size := r.size, inCmb := r.inCmb, base := r.base, cls := 3, head := r.head, tail := r.tail, halted := false }] })
      d.setReg (A.COL_SQ i) ((if r.colBound && r.inCmb then 1 else 0) + 3 * 2 + p * 8)

/-- WRITE_STATE. -/
def Dev.stateWrite (d : Dev) (h : Hdr) (p dst : Nat) (pairId : Bool) (qs : List QRec) : Dev :=
  let has := match d.pen p with
      | some i => if pairId then i.r.func1.getLsbD dst else i.r.func0.getLsbD dst
      | none => false
  match d.migCheck h p (!has) with
  | some st => d.failCmd h st
  | none =>
    let own := pairId == d.board.pairId
    if own && (d.host.sqs.any (fun q => q.fn == dst && q.sqid != 0) || d.host.cqs.any (fun q => q.fn == dst && q.cqid != 0)) then
      d.failCmd h .cmdSeqError
    else if own then (d.each qs (fun d r => d.loadQueue dst p r)).complete h .success false qs.length
    else (d.sendFrame (.wstate p dst qs)).complete h .success false qs.length

def execWriteState (h : Hdr) (p : PenN) (dst : FnN) (pairId : Bool) (qs : List QRec) (s : State) :
    Host.Outcome State Fault Refusal :=
  mainDo s (fun d => d.stateWrite h p.val dst.val pairId qs)

/-- RESUME and STOP_LOG. What waits unfetched is fetched by `Dev.refetch`. DESIGN CHOICE (assumption 152): a Quiesce that has not ended
when a Resume comes completes then. -/
def Dev.resumePen (d : Dev) (h : Hdr) (p : Nat) : Dev :=
  match d.migCheck h p false with
  | some st => d.failCmd h st
  | none => (((d.setBit (A.PEN_PCTL p) 1 false).setBit (A.PEN_STAT p) 4 false).finishPen (2000 + p)).complete h .success

def Dev.logStop (d : Dev) (h : Hdr) (p : Nat) : Dev :=
  match d.migCheck h p false with
  | some st => d.failCmd h st
  | none =>
    ((d.dlogEn p false).onPens (fun x => { x with started := x.started.filter (· != p) })).complete h .success

def execStopLog (h : Hdr) (p : PenN) (s : State) : Host.Outcome State Fault Refusal :=
  mainDo s (fun d => d.logStop h p.val)

end Sys2Proof.Machine
end

