-- ==== Sys2Proof/Machine/Mule.lean ====
section
/-! DEFINITION. The flash channel sequencers (R77, R82 to R85, R97 to R105, R111 to R122, R138): requests,
queues, suspension, Spur reads, and what the firmware does with a result. -/

namespace Sys2Proof.Machine

/-! Sequences (R113, R114). -/

/-- The sequence number of an operation. -/
def Dev.seqOf (d : Dev) (ch op : Nat) : Nat := d.fld (A.MULE_SEQMAP ch op) 7 0

/-- The header of the sequence of an operation. -/
def Dev.seqHdr (d : Dev) (ch op : Nat) : W64 := d.rd (A.MULE_SEQHDR ch (d.seqOf ch op))

/-- OPCLASS: 0 read, 1 program, 2 erase, 3 other. -/
def Dev.opClass (d : Dev) (ch op : Nat) : Nat := fldOf (d.seqHdr ch op) 62 61

/-- Program or erase. -/
def Dev.isPE (d : Dev) (ch op : Nat) : Bool := decide (d.opClass ch op = 1 ∨ d.opClass ch op = 2)

/-- EXP_US of an operation. -/
def Dev.expUs (d : Dev) (ch op : Nat) : Nat := fldOf (d.seqHdr ch op) 43 28

/-! Tables (R121, R128). -/


/-- The threshold class of a block (R121). -/
def Dev.classOf (d : Dev) (ch l lbn : Nat) : Nat :=
  (d.tblWord true ch (l * 2048 + lbn / 8)).toNat / 16 ^ (lbn % 8) % 16

/-! Busy LUNs and the cap (R82, R97, R138). -/

/-- The LUN is out of service: MULE_LUN STATE 6 (R117). -/
def Dev.lunOos (d : Dev) (ch l : Nat) : Bool := decide (d.fld (A.MULE_LUN ch l) 2 0 = 6)

/-- A LUN is in program or erase, a suspended one included. -/
def Dev.lunPE (d : Dev) (ch l : Nat) : Bool :=
  (match (d.lun ch l).run with | some q => d.isPE ch q.r.op.val | none => false) || (d.lun ch l).susp.isSome

/-- BUSYLUNS of MULE_STAT. -/
def Dev.busyLuns (d : Dev) (ch : Nat) : Nat := ((List.range 32).filter (d.lunPE ch)).length

/-- CAP; over 32 acts as 32. -/
def Dev.peCap (d : Dev) (ch : Nat) : Nat := Nat.min 32 (d.fld (A.MULE_PE_CAP ch) 5 0)

/-- EFF follows CAP and the thermal cap (R353). -/
def Dev.setCap (d : Dev) (ch : Nat) : Dev :=
  d.setFld (A.MULE_PE_CAP ch) 13 8 (Nat.min (d.peCap ch) (effCap (d.peCap ch) d.pctA))

/-- busy_remaining_us: what is left of the running or suspended program or erase (R101, R114). -/
def Dev.remUs (d : Dev) (ch l : Nat) : Nat :=
  let ln := d.lun ch l
  match ln.susp, ln.run with
  | some q, _ => d.expUs ch q.r.op.val - ln.ranUs
  | none, some q => if d.isPE ch q.r.op.val then d.expUs ch q.r.op.val - (ln.ranUs + (d.us - ln.runUs)) else 0
  | none, none => 0

/-- REM_US of MULE_LUN: of the running sequence, which is a read's own while a program or erase is suspended (R114). -/
def Dev.remRun (d : Dev) (ch l : Nat) : Nat :=
  let ln := d.lun ch l
  match ln.run with
  | some q => d.expUs ch q.r.op.val - ((if ln.susp.isSome then 0 else ln.ranUs) + (d.us - ln.runUs))
  | none => 0

/-- FL_WP_N of a channel is high: a program or erase sequence runs on it (R117, R139). -/
def Dev.flWpHigh (d : Dev) (ch : Nat) : Bool :=
  (List.range 32).any (fun l => match (d.lun ch l).run with | some q => d.isPE ch q.r.op.val | none => false)

/-- FL_CE_N of a target is asserted while a sequence runs on one of its LUNs (R116, R139). -/
def Dev.flCeLow (d : Dev) (ch t : Nat) : Bool :=
  (List.range (d.geomOf ch).2).any (fun l => (d.lun ch (t * (d.geomOf ch).2 + l)).run.isSome)

/-! Issue. -/

/-- The STATE code of a running sequence. -/
def stateOf (cls : Nat) : Nat := if cls = 1 then 2 else if cls = 2 then 3 else 1

/-- Count in MULE_CNT: 0 CW, 1 CORR, 2 SOFT, 3 UNC, 4 RETRY, 5 SUSP, 6 PFAIL, 7 EFAIL, 8 TMO. -/
def Dev.muleCnt (d : Dev) (ch i n : Nat) : Dev := d.count (A.MULE_CNT ch i) 64 n

/-- The steps of a sequence. -/
def Dev.steps (d : Dev) (ch op : Nat) : List W64 :=
  (List.range (fldOf (d.seqHdr ch op) 59 56 + 1)).map (fun s => d.rd (A.MULE_SEQ ch (d.seqOf ch op) s))

/-- The units that the sequence's ACC step waits for: none without one (R77, R115). -/
def Dev.accWant (d : Dev) (ch op : Nat) : Option Nat :=
  ((d.steps ch op).find? (fun w => decide (fldOf w 63 60 = 0xA))).map (fun w => fldOf w 47 32)

/-- A request is answered without a sequence: reported, and still to be taken up by who asked (R100, R104, R117). -/
def Dev.muleAns (d : Dev) (ch l : Nat) (q : QReq) (res : MResult) : Dev :=
  let m := mkDone q ch l res 0
  (d.report1 m).onMules (fun x => { x with fresh := x.fresh ++ [(q, m)] })

/-- Start a request on a LUN: with an ACC step the channel begins to accumulate (R77); a header that is
not valid ends with SEQFAULT (R116). A read that runs in a suspension shows its own sequence in MULE_LUN (R114, R138). -/
def Dev.start (d : Dev) (ch l : Nat) (q : QReq) : Dev :=
  let op := q.r.op.val
  if !bitOf (d.seqHdr ch op) 63 then d.muleAns ch l q .seqfault
  else
    let ln := d.lun ch l
    let d := d.setLun ch l { ln with run := some q, runUs := d.us, ranUs := if ln.susp.isSome then ln.ranUs else 0 }
    let d := if ln.susp.isSome then d.setFld (A.MULE_LUN ch l) 15 8 (d.seqOf ch op)
      else d.setReg (A.MULE_LUN ch l) (d.expUs ch op * 2 ^ 16 + d.seqOf ch op * 2 ^ 8 + stateOf (d.opClass ch op))
    match d.accWant ch op with
    | some n => d.onMules (fun m =>
        { m with acc := SMap.put m.acc ch { row := q.r.page, want := n, got := 0, p := [], q := [], lun := l } })
    | none => d

/-- A flush program while the latch is set (R97). -/
def Dev.isFlush (d : Dev) (q : QReq) : Bool := d.ploss && q.r.flush

/-- The time in ns by which a program is ordered (R84): for a member of a program group, when the oldest buffer entry that
the group releases was admitted; for any other one the deadline of its request (DEDUCED, assumption 115). -/
def Dev.progTime (d : Dev) (ch l : Nat) (q : QReq) : Nat :=
  match d.wr.groups.find? (fun g => decide (keyLbn g.row = q.r.lbn) &&
      d.inGroup (decide (2 ^ 23 ≤ g.row)) (keyGroup g.row) ch l) with
  | none => q.r.deadline
  | some g =>
    let nsx := match g.secs with | p :: _ => p.2.nsx | [] => 0
    let es := d.wr.entries.filter (fun e => e.nsx == nsx && e.acked && g.secs.any (fun p => decide (e.lba ≤ p.1) && decide (p.1 < e.lba + e.secs.length)))
    match es with
    | [] => q.r.deadline
    | e :: t => t.foldl (fun m x => Nat.min m x.t0) e.t0 * 5 / 8

/-- The free rows among which a row stands: those of units, of Fold, or of its zone pool (R53, R59, R80). -/
def Dev.freeRowsOf (d : Dev) (r : Row) : List Row :=
  let same := fun (x : Row) => x.seven == r.seven && x.group == r.group && x.lbn == r.lbn
  if d.media.uFree.any same then d.media.uFree
  else if d.wr.foldFree.any same then d.wr.foldFree ++ (d.octets.flatMap d.octetGroups).filterMap d.shareNext
  else d.pool r.seven

/-- The free pool needs a block within the next 100 ms (R84). DESIGN CHOICE (assumption 119): it does where none of the free
rows among which its row stands is erased. -/
def Dev.eraseUrgent (d : Dev) (ch l : Nat) (q : QReq) : Bool :=
  d.media.eraseQ.any (fun r => decide (r.lbn = q.r.lbn) && d.inGroup r.seven r.group ch l && (d.freeRowsOf r).all (·.dirty))

/-- The place of a program or erase in the firmware's order (R84): urgent erases, then programs by their time, then erases. -/
def Dev.peRank (d : Dev) (ch l : Nat) (q : QReq) : Nat × Nat :=
  if d.opClass ch q.r.op.val = 1 then (1, d.progTime ch l q) else if d.eraseUrgent ch l q then (0, 0) else (2, 0)

/-- One place goes before another. -/
def rankLt (a b : Nat × Nat) : Bool := decide (a.1 < b.1) || (decide (a.1 = b.1) && decide (a.2 < b.2))

/-- A program or erase of a LUN goes before another one in the firmware's order (R84). -/
def Dev.peBefore (d : Dev) (ch l : Nat) (a b : QReq) : Bool := rankLt (d.peRank ch l a) (d.peRank ch l b)

/-- The next program or erase of a LUN, in the firmware's order (R84). -/
def Dev.nextPE (d : Dev) (ch l : Nat) (queue : List QReq) : Option QReq :=
  (queue.filter (fun q => d.isPE ch q.r.op.val)).foldl (fun b q => match b with
    | none => some q
    | some x => if d.peBefore ch l q x then some q else some x) none

/-- A program or erase may start: under the cap and the flash-window flag, or as a flush program (R82,
R85). -/
def Dev.mayPE (d : Dev) (ch : Nat) (q : QReq) : Bool :=
  d.isFlush q || (decide (d.busyLuns ch < d.fld (A.MULE_PE_CAP ch) 13 8) && !d.fwFlag)

/-- The queued read that goes first: earliest deadline, ties to the lower requester ID (R97). -/
def nextRead : List QReq → Option QReq
  | [] => none
  | q :: t =>
    match nextRead t with
    | none => some q
    | some x =>
      if q.r.deadline < x.r.deadline ∨ (q.r.deadline = x.r.deadline ∧ q.r.rid ≤ x.r.rid) then some q else some x

/-- What a free LUN issues next (R97): 1 flush programs, 2 a program or erase eligible for 2 ms, 3 the
earliest read, 4 any other program or erase. -/
def Dev.pick (d : Dev) (ch l : Nat) (queue : List QReq) : Option QReq :=
  let pe := match d.nextPE ch l queue with
    | some q => if d.mayPE ch q then some q else none
    | none => none
  match queue.find? d.isFlush with
  | some q => some q
  | none =>
    let old := match pe with
      | some q => (match q.elig with | some t => decide (t + 2000000 ≤ d.ns) | none => false)
      | none => false
    if old then pe
    else match nextRead (queue.filter (fun q => !d.isPE ch q.r.op.val)) with
      | some q => some q
      | none => pe

/-- Stamp the next program or erase of a LUN with the time at which it became eligible; time held by the
cap or the flag does not count (R97). -/
def Dev.markElig (d : Dev) (ch l : Nat) : Dev :=
  let ln := d.lun ch l
  match d.nextPE ch l ln.queue with
  | none => d
  | some p =>
    let e := if d.mayPE ch p then (match p.elig with | some t => some t | none => some d.ns) else none
    d.setLun ch l { ln with queue := ln.queue.map (fun q => { q with elig := if q.id = p.id then e else none }) }

/-- The Mule issues sequences: its enable is in effect, the channel is owned and not being released, and PEER_FENCE_IN does
not float the channels (R34, R225). -/
def Dev.muleGoes (d : Dev) (ch : Nat) : Bool :=
  d.bit (A.MULE_STAT ch) 0 && !d.bit (A.MULE_STAT ch) 1 && d.owned ch && !bitOf d.pair.releasing ch && !d.fenceIn

/-- A read of a block whose erase is suspended on the LUN (R100). -/
def eraseTarget (d : Dev) (ch : Nat) (ln : Lun) (q : QReq) : Bool :=
  match ln.susp with
  | some e => decide (d.opClass ch e.r.op.val = 2) && decide (d.opClass ch q.r.op.val = 0) && decide (e.r.lbn = q.r.lbn)
  | none => false

/-- Issue the next request of a free LUN; a LUN with a suspended operation takes reads alone. -/
def Dev.issue1 (d : Dev) (ch l : Nat) : Dev :=
  let d := d.markElig ch l
  let ln := d.lun ch l
  if ln.run.isSome || d.lunOos ch l || !d.muleGoes ch then d
  else
    let p := if ln.susp.isSome then nextRead (ln.queue.filter (fun q => decide (d.opClass ch q.r.op.val = 0)))
      else d.pick ch l ln.queue
    match p with
    | none => d
    | some q =>
      let d := d.setLun ch l { ln with queue := ln.queue.filter (fun x => x.id != q.id) }
      if eraseTarget d ch ln q then d.muleAns ch l q .eraseTarget else d.start ch l q

/-- Issue until something runs or nothing is left. -/
def Dev.issueLun (d : Dev) (ch l : Nat) : Dev :=
  d.each (List.range ((d.lun ch l).queue.length + 1)) (fun d _ => d.issue1 ch l)

/-- The LUNs of a channel whose queues hold requests. -/
def Dev.queued (d : Dev) (ch : Nat) : List Nat := (List.range 32).filter (fun l => !(d.lun ch l).queue.isEmpty)

/-- Each waiting program or erase of a channel is eligible or not as the cap and the flag now stand (R97). -/
def Dev.markCh (d : Dev) (ch : Nat) : Dev := d.each (d.queued ch) (fun d l => d.markElig ch l)

/-- The LUNs of a channel with requests, in the firmware's order of what they program or erase next (R84); those that only read come
last. DESIGN CHOICE (assumption 119): of two that are equal the lower LUN. -/
def Dev.lunOrder (d : Dev) (ch : Nat) : List Nat :=
  let rank := fun l => match d.nextPE ch l (d.lun ch l).queue with | some q => d.peRank ch l q | none => (3, 0)
  ((d.queued ch).map (fun l => (l, rank l))).insertionSort (fun a b => !rankLt b.2 a.2) |>.map Prod.fst

/-- The LUNs of a channel with requests issue what they can: under the cap, in the firmware's order (R84, R97). -/
def Dev.issueCh (d : Dev) (ch : Nat) : Dev := (d.each (d.lunOrder ch) (fun d l => d.issueLun ch l)).markCh ch

/-- The cap or the flash-window flag has moved: every channel with requests follows (R97). -/
def Dev.issueAllCh (d : Dev) : Dev :=
  d.each ((d.mules.luns.filter (fun e => !e.2.queue.isEmpty)).map (fun e => e.1 / 32)).dedup Dev.issueCh

/-- The flash-window flag is set: what waited for its 2 ms waits for the flag now (R97). -/
def Dev.markAllCh (d : Dev) : Dev :=
  d.each ((d.mules.luns.filter (fun e => !e.2.queue.isEmpty)).map (fun e => e.1 / 32)).dedup Dev.markCh

/-! Suspension (R99). -/

/-- The limits register of an operation's class. -/
def Dev.suspReg (d : Dev) (ch op : Nat) : W64 :=
  if d.opClass ch op = 2 then d.rd (A.MULE_SUSP_ERS ch) else d.rd (A.MULE_SUSP_PRG ch)

/-- The longest time of the BUSY step with which the suspend window of a sequence ends, in µs; none: no BUSY step follows (R115). -/
def Dev.suspTill (d : Dev) (ch op : Nat) : Option Nat :=
  (((d.steps ch op).dropWhile (fun w => decide (fldOf w 63 60 ≠ 9))).find? (fun w => decide (fldOf w 63 60 = 6))).map (fun w => fldOf w 31 0)

/-- The sequence on a LUN stands between its SUSP step and the end of the next BUSY (R99, R115). DESIGN CHOICE (assumption 120): it
does, once it no longer waits in an ACC step, for as long as that BUSY may last; the bus cycles of the other steps count as none. -/
def Dev.suspReached (d : Dev) (ch l op : Nat) : Bool :=
  let ln := d.lun ch l
  (match d.accWant ch op, SMap.find d.mules.acc ch with
    | some _, some a => decide (a.lun ≠ l) || decide (a.want ≤ a.got)
    | _, _ => true) &&
  (match d.suspTill ch op with
    | some b => decide (ln.ranUs + (d.us - ln.runUs) ≤ b)
    | none => true)

/-- The running operation of a LUN may be suspended now. -/
def Dev.suspendOk (d : Dev) (ch l : Nat) : Bool :=
  let ln := d.lun ch l
  match ln.run with
  | none => false
  | some q =>
    let op := q.r.op.val
    let lim := d.suspReg ch op
    let n := d.fld (A.MULE_LUN ch l) 7 4
    d.isPE ch op && ln.susp.isNone && !q.r.flush && !d.ploss && !d.bit (A.MULE_STAT ch) 1 &&
      bitOf (d.seqHdr ch op) 60 && (d.steps ch op).any (fun w => decide (fldOf w 63 60 = 9)) &&
      decide (n < fldOf lim 3 0) && (decide (n = 0) || decide (fldOf lim 17 8 ≤ d.us - ln.runUs)) && d.suspReached ch l op

/-- Resume the suspended operation. -/
def Dev.resumeOp (d : Dev) (ch l : Nat) : Dev :=
  let ln := d.lun ch l
  match ln.susp, ln.run with
  | some q, none =>
    let d := d.setLun ch l { ln with run := some q, susp := none, reads := 0, runUs := d.us }
    (d.setFld (A.MULE_LUN ch l) 2 0 (stateOf (d.opClass ch q.r.op.val))).setFld (A.MULE_LUN ch l) 15 8 (d.seqOf ch q.r.op.val)
  | _, _ => d

/-- Suspend the running operation and issue reads (R99); where none of the queued ones is left to run, it resumes. -/
def Dev.suspend (d : Dev) (ch l : Nat) : Dev :=
  let ln := d.lun ch l
  match ln.run with
  | none => d
  | some q =>
    if d.suspendOk ch l then
      let d := d.setLun ch l { ln with run := none, susp := some q, reads := 0, runUs := d.us, ranUs := ln.ranUs + (d.us - ln.runUs) }
      let d := d.setFld (A.MULE_LUN ch l) 7 4 (d.fld (A.MULE_LUN ch l) 7 4 + 1)
      let d := d.setFld (A.MULE_LUN ch l) 2 0 (if d.opClass ch q.r.op.val = 2 then 5 else 4)
      let d := (d.muleCnt ch 5 1).issueLun ch l
      if (d.lun ch l).run.isNone then d.resumeOp ch l else d
    else d

/-- The suspension ends after MAXRD reads or at MAXHOLD: a read that runs ends first (R99). -/
def Dev.suspEnd (d : Dev) (ch l : Nat) : Dev :=
  let ln := d.lun ch l
  if ln.susp.isSome then
    if ln.run.isSome then d.setLun ch l { ln with reads := 255 } else d.resumeOp ch l
  else d


/-! Requests (R97, R113, R117). -/

/-- The target, LUN or LBN is beyond MULE_GEOM (R117); ops 9 and 11 name no block. -/
def Dev.outOfGeom (d : Dev) (ch l : Nat) (r : MuleReq) : Bool :=
  let luns := d.fld (A.MULE_GEOM ch) 5 4 + 1
  let tgts := Nat.min 8 (d.fld (A.MULE_GEOM ch) 3 0)
  decide (tgts * luns ≤ l) ||
    (decide (r.op.val ≠ 9) && decide (r.op.val ≠ 11) && decide (d.fld (A.MULE_GEOM ch) 21 8 ≤ r.lbn))

/-- The physical block of a request in a plane: after remap, or for a program the spare to which the plane block is being copied
(R128, R140). -/
def Dev.blkFor (d : Dev) (ch : Nat) (r : MuleReq) (plane : Nat) : Nat :=
  match (if d.opClass ch r.op.val = 1 then
      d.media.spareCopies.find? (fun c => c.ch == ch && c.l == r.lun.val && c.plane == plane && c.lbn == r.lbn) else none) with
  | some c => c.new
  | none => d.pblkOf ch r.lun.val plane r.lbn

/-- A request as queued: its block after remap, or as named where the remap is bypassed (R268), and the
start entry of its class (R121, R128). -/
def Dev.mkReq (d : Dev) (ch : Nat) (r : MuleReq) (pblk : Option Nat) : QReq :=
  { id := d.mules.nextId, r := r,
    pblk := match pblk with | some b => b | none => d.blkFor ch r r.plane.val,
    start := d.fld (A.MULE_SETMAP ch (d.classOf ch r.lun.val r.lbn)) 5 0, elig := none,
    pblks := (List.range 4).map (fun p => match pblk with | some b => b | none => d.blkFor ch r p) }

/-- The result that turns a request away (R34, R85, R117): none, and it is queued. -/
def Dev.refusal (d : Dev) (ch l : Nat) (r : MuleReq) : Option MResult :=
  if !d.owned ch then some .notOwned
  else if d.outOfGeom ch l r then some .addrRange
  else if d.lunOos ch l then some .timeout
  else if d.isPE ch r.op.val && d.fwFlag && !(d.ploss && r.flush) then some .tempHold
  else none

/-- Op 9 at once: what runs, or is suspended, in program or erase ends with ABORTED (R117); who asked for a read that it stops takes that
up. -/
def Dev.resetLun (d : Dev) (ch l : Nat) (q : QReq) : Dev :=
  let ln := d.lun ch l
  let pe := match ln.run with | some x => d.isPE ch x.r.op.val | none => false
  if pe || ln.susp.isSome then
    let d := match ln.run with
      | some x => if pe then d else d.onMules (fun m => { m with fresh := m.fresh ++ [(x, mkDone x ch l .aborted (d.us - ln.runUs))] })
      | none => d
    (d.endLun ch l .aborted).start ch l q
  else if ln.run.isNone then d.start ch l q
  else d.setLun ch l { ln with queue := q :: ln.queue }

/-- Put a request on its LUN: queued and issued, or answered with a result at once. -/
def Dev.enqueue (d : Dev) (ch l : Nat) (q : QReq) : Dev :=
  match d.refusal ch l q.r with
  | some res => d.muleAns ch l q res
  | none =>
    if q.r.op.val = 9 ∧ d.muleGoes ch then d.resetLun ch l q
    else
      let ln := d.lun ch l
      ((d.setLun ch l { ln with queue := ln.queue ++ [q] }).issueLun ch l).markCh ch

/-! Spur reads (R101 to R105). -/

/-- The stripe of a namespace: a conventional one is 14+2 (R57). -/
def Dev.nsSeven (d : Dev) (nsx : Nat) : Bool :=
  match d.media.nss.find? (fun n => n.nsx == nsx) with | some n => n.zoned && n.seven | none => false

/-- The channels of a group's other members, by position (R37). -/
def otherMembers (seven : Bool) (ch : Nat) : List Nat :=
  let w := members seven
  ((List.range w).map (fun p => ch / w * w + p)).filter (· != ch)

/-- THRESH_US, SPUR_EN, PCT and WIN of COL (R109). -/
def Dev.spurThr (d : Dev) : Nat := d.fld A.COL_SPUR_THR 15 0
def Dev.spurEn (d : Dev) : Bool := d.bit A.COL_CTL 1
def Dev.spurPct (d : Dev) : Nat := Nat.min 50 (d.fld A.COL_SPUR_BUD 6 0)
def Dev.spurWin (d : Dev) : Nat := Nat.max 16 (d.fld A.COL_SPUR_BUD 15 8)

/-- The charge of a member read of n codewords (R103), in ns. -/
def spurCharge (ncw : Nat) : Nat := 1280 * ncw

/-- What a channel has spent in the present window, in ns. -/
def Dev.spurUse (d : Dev) (ch : Nat) : Nat := SMap.get (fun _ => 0) d.mules.spurUsed ch

/-- Every chosen channel has the whole charge left. -/
def Dev.budgetOk (d : Dev) (chs : List Nat) (ncw : Nat) : Bool :=
  chs.all (fun c => decide (d.spurUse c + spurCharge ncw ≤ d.mules.spurBud))

/-- Charge the channels; COL_SPUR_USE shows the low 16 bits of what is spent (assumption 28). -/
def Dev.spurSpend (d : Dev) (chs : List Nat) (ncw : Nat) : Dev :=
  d.each chs (fun d c =>
    let u := d.spurUse c + spurCharge ncw
    (d.onMules (fun m => { m with spurUsed := SMap.set (fun _ => 0) m.spurUsed c u })).setFld (A.COL_SPUR_USE c) 15 0 u)

/-- A member read of a Spur read: the same place and deadline on another channel; it starts no Spur read
of its own (R102). -/
def Dev.memberReq (d : Dev) (c : Nat) (q : QReq) : QReq := d.mkReq c { q.r with spurOk := false } none

/-- Send member reads to channels; their request numbers. -/
def Dev.sendMembers (d : Dev) (chs : List Nat) (q : QReq) : Dev × List Nat :=
  chs.foldl (fun (s : Dev × List Nat) c =>
    let m := s.1.memberReq c q
    ((s.1.onMules (fun x => { x with nextId := x.nextId + 1 })).enqueue c q.r.lun.val m, s.2 ++ [m.id])) (d, [])

/-- The Pen of a namespace index. -/
def Dev.nsPen (d : Dev) (nsx : Nat) : Nat :=
  match d.media.nss.find? (fun n => n.nsx == nsx) with | some n => n.pen | none => 0

/-- Issue a Spur read in place of a direct one: member reads, the budget, the counters (R102, R103). -/
def Dev.spur (d : Dev) (ch l : Nat) (q : QReq) (chs : List Nat) : Dev :=
  let d := d.spurSpend chs q.r.ncw
  let s := d.sendMembers chs q
  let d := s.1.onMules (fun m => { m with spurs := m.spurs ++ [{ ch := ch, lun := l, q := q, ids := s.2, used := chs }] })
  (d.count A.COL_CNT_SPUR 64 1).penCount (d.nsPen q.r.nsx) 2

/-- What the decision rule finds (R101). -/
inductive SpurWay where
  | queue
  | spur (chs : List Nat)
  | deny
  | suspend
  deriving DecidableEq, Repr

/-- The direct read to which a Spur read falls back (R104): at the original deadline, and R99 applies in full. -/
def Dev.fallBack (d : Dev) (ch l : Nat) (q : QReq) : Dev :=
  let q := { q with r := { q.r with spurOk := false }, late := true }
  let late := decide (d.spurThr < d.remUs ch l) &&
    decide (q.r.deadline < d.ns + (d.remUs ch l + d.expUs ch q.r.op.val) * 1000) && d.suspendOk ch l
  let d := d.enqueue ch l q
  if late then (d.suspend ch l).penCount (d.nsPen q.r.nsx) 4 else d

/-- The rule of R101 after the budget has refused, or without a Spur read: suspend or queue. -/
def Dev.lateWay (d : Dev) (ch l : Nat) (q : QReq) : Bool :=
  decide (q.r.deadline < d.ns + (d.remUs ch l + d.expUs ch q.r.op.val) * 1000) && d.suspendOk ch l

/-- R101. -/
def Dev.spurRule (d : Dev) (ch l : Nat) (q : QReq) : SpurWay :=
  if d.remUs ch l ≤ d.spurThr then .queue
  else
    let seven := d.nsSeven q.r.nsx
    let need := dataMembers seven
    let set := (otherMembers seven ch).filter (fun c => decide (d.remUs c l ≤ d.spurThr) && d.owned c)
    let chosen := set.take need
    if d.spurEn ∧ q.r.cls.val < 3 ∧ need ≤ set.length ∧ q.r.spurOk then
      if d.budgetOk chosen q.r.ncw then .spur chosen
      else .deny
    else if d.lateWay ch l q then .suspend
    else .queue

/-- Act on a decision for a read that is not queued yet, or that has just been withdrawn. -/
def Dev.spurAct (d : Dev) (ch l : Nat) (q : QReq) : Dev :=
  match d.spurRule ch l q with
  | .queue => d.enqueue ch l q
  | .spur chs => d.spur ch l q chs
  | .suspend => (((d.enqueue ch l q).suspend ch l)).penCount (d.nsPen q.r.nsx) 4
  | .deny =>
    let d := (d.count A.COL_CNT_DENY 64 1).penCount (d.nsPen q.r.nsx) 5
    let late := d.lateWay ch l q
    let d := d.enqueue ch l q
    if late then (d.suspend ch l).penCount (d.nsPen q.r.nsx) 4 else d

/-- A request with its number reaches its Mule: reads behind a busy LUN pass the decision rule (R97, R101). -/
def Dev.submit (d : Dev) (ch l : Nat) (q : QReq) : Dev :=
  if d.opClass ch q.r.op.val = 0 ∧ q.r.spurOk ∧ (d.refusal ch l q.r).isNone then d.spurAct ch l q
  else d.enqueue ch l q

/-- A request of any unit (R97): from requester ID 4,096 on it is a background one, of class 3 (R95). -/
def Dev.request (d : Dev) (ch l : Nat) (r : MuleReq) (pblk : Option Nat) : Dev :=
  let q := d.mkReq ch { r with cls := if 4096 ≤ r.rid then 3 else r.cls } pblk
  (d.onMules (fun m => { m with nextId := m.nextId + 1 })).submit ch l q


/-- The rule is applied again to a waiting read: where it finds a Spur read, the direct one is withdrawn
in the same cycle; one that was issued stays (R98). -/
def Dev.redecide (d : Dev) (ch l id : Nat) : Dev :=
  let ln := d.lun ch l
  match ln.queue.find? (fun q => q.id == id && (q.r.spurOk || q.late)) with
  | none => d
  | some q =>
    match d.spurRule ch l q with
    | .spur chs =>
      (d.setLun ch l { ln with queue := ln.queue.filter (fun x => x.id != id) }).spur ch l q chs
    | .suspend => (d.suspend ch l).penCount (d.nsPen q.r.nsx) 4
    | .deny =>
      let d := (d.count A.COL_CNT_DENY 64 1).penCount (d.nsPen q.r.nsx) 5
      if d.lateWay ch l q then (d.suspend ch l).penCount (d.nsPen q.r.nsx) 4 else d
    | .queue => d


/-- A window starts: every USED_NS is 0, and the budget is PCT percent of WIN; a new COL_SPUR_BUD counts from
here (R103). -/
def Dev.spurWindow (d : Dev) : Dev :=
  let d := d.each (List.range 64) (fun d c => d.setReg (A.COL_SPUR_USE c) 0)
  d.onMules (fun m => { m with spurBud := d.spurWin * 1000 * d.spurPct / 100, spurUsed := [] })

def execSpurWindowStart (s : State) : Host.Outcome State Fault Refusal := mainDo s Dev.spurWindow

/-! Accumulation (R77). -/

/-- The bytes' top bits and the rest, of one LBA. -/
def gfTop : BitVec 32768 := BitVec.ofNat 32768 ((2 ^ 32768 - 1) / 255)

/-- Multiply every byte by 2 in GF(2^8) with the polynomial 0x11D. -/
def gfDouble (x : BitVec 32768) : BitVec 32768 :=
  ((x &&& ~~~ (gfTop <<< 7)) <<< 1) ^^^ (((x >>> 7) &&& gfTop) * 0x1D#32768)

/-- Multiply by 2 to a power. -/
def gfPow2 : Nat → BitVec 32768 → BitVec 32768
  | 0, x => x
  | n + 1, x => gfPow2 n (gfDouble x)

/-- Add two units LBA by LBA. -/
def xorUnits : List (BitVec 32768) → List (BitVec 32768) → List (BitVec 32768)
  | [], b => b
  | a, [] => a
  | x :: a, y :: b => (x ^^^ y) :: xorUnits a b

/-- A data unit reaches a parity Mule: accumulated, or dropped with a record (R77). -/
def Dev.unitIn (d : Dev) (ch row slot : Nat) (u : List LbaData) : Dev :=
  match SMap.find d.mules.acc ch with
  | some a =>
    if a.row = row ∧ a.got < a.want then
      let b : Acc := { a with got := a.got + 1, p := xorUnits a.p u, q := xorUnits a.q (u.map (gfPow2 slot)) }
      d.onMules (fun m => { m with acc := SMap.put m.acc ch b })
    else d.hwPost (0x0400 + ch) (Config.evCode 6) 5 (row + slot * 2 ^ 32)
  | none => d.hwPost (0x0400 + ch) (Config.evCode 6) 5 (row + slot * 2 ^ 32)

def execParityUnitDelivery (ch : Ch) (row slot : Nat) (u : List LbaData) (s : State) :
    Host.Outcome State Fault Refusal :=
  mainDo s (fun d => d.unitIn ch.val row slot u)

/-! The enable and the tables (R138). -/

/-- The running sequences of a channel. -/
def Dev.chRuns (d : Dev) (ch : Nat) : Bool :=
  (List.range 32).any (fun l => (d.lun ch l).run.isSome || (d.lun ch l).susp.isSome)

/-- MULE_CTL.EN: a clear with sequences running drains; an enable set meanwhile is held (R137). -/
def Dev.muleEn (d : Dev) (ch : Nat) (en : Bool) : Dev :=
  let d := d.setBit (A.MULE_CTL ch) 0 en
  let d := d.onMules (fun m => { m with heldEn := m.heldEn.filter (· != ch) })
  if en then
    if d.bit (A.MULE_STAT ch) 1 then d.onMules (fun m => { m with heldEn := m.heldEn ++ [ch] })
    else
      let d := d.setBit (A.MULE_STAT ch) 0 true
      d.each (List.range 32) (fun d l => d.issueLun ch l)
  else
    let run := d.chRuns ch
    if d.bit (A.MULE_STAT ch) 0 then (d.setBit (A.MULE_STAT ch) 0 false).setBit (A.MULE_STAT ch) 1 run else d


/-- The last running sequence of a channel has ended: a drain is over, a release is granted (R137, R225). -/
def Dev.chQuiet (d : Dev) (ch : Nat) : Dev :=
  if d.chRuns ch then d
  else
    let d := if d.bit (A.MULE_STAT ch) 1 then
        let d := d.setBit (A.MULE_STAT ch) 1 false
        if ch ∈ d.mules.heldEn then
          let d := (d.setBit (A.MULE_STAT ch) 0 true).onMules (fun m => { m with heldEn := m.heldEn.filter (· != ch) })
          d.each (List.range 32) (fun d l => d.issueLun ch l)
        else d
      else d
    if bitOf d.pair.releasing ch then
      let d := d.setBit A.PAIR_OWN ch false
      let d := d.onPair (fun p => { p with releasing := withBit p.releasing ch false })
      let d := d.sendFrame (.released (BitVec.twoPow 64 ch))
      let d := if bitOf d.pair.waitRel ch then
          (d.onPair (fun p => { p with waitRel := withBit p.waitRel ch false })).sendFrame (.grant (BitVec.twoPow 64 ch))
        else d
      if d.pair.releasing = 0 ∧ d.pair.tee ∧ d.settling then
        (d.setBit A.PAIR_FENCE 0 false).onPair (fun p => { p with guarded := false })
      else d
    else d

/-- INDEX of MULE_TBL_ADDR. -/
def Dev.tblIx (d : Dev) (ch : Nat) : Nat := d.fld (A.MULE_TBL_ADDR ch) 15 0

/-- TABLE of MULE_TBL_ADDR names the class table. -/
def Dev.tblCls (d : Dev) (ch : Nat) : Bool := decide (d.fld (A.MULE_TBL_ADDR ch) 31 30 = 1)

/-- AINC after an access of MULE_TBL_DATA. -/
def Dev.tblNext (d : Dev) (ch : Nat) : Dev :=
  if d.bit (A.MULE_TBL_ADDR ch) 29 then d.setFld (A.MULE_TBL_ADDR ch) 15 0 (d.tblIx ch + 1) else d

/-- A write to MULE_TBL_DATA (R128). -/
def Dev.tblWrite (d : Dev) (ch : Nat) (v : W32) : Dev := (d.setTbl (d.tblCls ch) ch (d.tblIx ch) v).tblNext ch

def execMuleTblDataWrite (ch : Ch) (v : W32) (s : State) : Host.Outcome State Fault Refusal :=
  regDo (A.MULE_TBL_DATA ch.val) s (fun d => d.tblWrite ch.val v)

end Sys2Proof.Machine
end

