-- ==== Sys2Proof/Machine/HostIo.lean ====
section
/-! DEFINITION. Reads and admission (R42, R89 to R109, R173, R190): the doorbell, Col, the firmware path's
reads, Compare and Verify, and what follows a Mule's result of a host read. -/

namespace Sys2Proof.Machine

/-! Serving LBAs (R43, R62, R173). -/

/-- A stored sector as the request for it finds it: its seal names the namespace, the LBA and, where the request names one, the
generation (R160), or it fails with the cause given. -/
def Sector.asked (s : Sector) (nsx lba : Nat) (gen : Option Nat) (e : ReadErr) : Except ReadErr (Option Sector) :=
  if s.nsx = nsx ∧ s.lba = lba ∧ (gen = none ∨ gen = some s.gen) then .ok (some s) else .error e

/-- The member block (channel, LUN) of a row at a position lies on a failed LUN, or no spare backs it (R132, R133). -/
def Dev.memberGone (d : Dev) (seven : Bool) (group lbn pos : Nat) : Bool :=
  let m := d.member seven group pos
  let k := m.1 * 32 + m.2
  d.media.failedLuns.contains k || d.media.dead.contains (k, lbn)

/-- The members of a row that are gone are more than its stripe can rebuild: one of 7+1, two of 14+2 (R133). -/
def Dev.rowBroken (d : Dev) (seven : Bool) (group lbn : Nat) : Bool :=
  decide ((if seven then 1 else 2) < ((List.range (members seven)).filter (d.memberGone seven group lbn)).length)

/-- The sector that a row holds at a place: a member that is gone is rebuilt where its row still can be (R133). Flash fails at the
Mule's seal check (R157, R160). `far`: the peer may have programmed the place; its data, where they are not known here, are free
(R241; assumption 153). -/
def Dev.rowSector (d : Dev) (seven : Bool) (group lbn o nsx lba : Nat) (gen : Option Nat) (far : Bool := false) :
    Except ReadErr (Option Sector) :=
  if d.memberGone seven group lbn (locate seven o).pos && d.rowBroken seven group lbn then .error .stripe
  else match SMap.find d.media.flash (d.zoneKey seven group lbn o) with
    | some s =>
      match s.asked nsx lba gen .seal with
      | .ok x => .ok x
      | .error e => if far then .ok (some (peerSector nsx lba (gen.getD 0))) else .error e
    | none => if far then .ok (some (peerSector nsx lba (gen.getD 0))) else .error .stripe

/-- The sector of a namespace LBA, in the order of R43: home location below FP, buffer, Fold; none: it
holds nothing. A Fold row that cannot be rebuilt makes the data of its zone from FP onward unreadable (R81). The buffer and Fold fail
at hop 11 (R157, R160). A unit whose row is not known here reads as the map last saw it. -/
def Dev.sectorAt (d : Dev) (n : Ns) (lba : Nat) : Except ReadErr (Option Sector) :=
  let later := fun (gen : Option Nat) => match d.buffered n.nsx lba with
    | some s => s.asked n.nsx lba gen .hop11
    | none =>
      if d.wr.fold.any (fun f => f.lost && decide (f.nsx = n.nsx) && decide (f.lba ≤ lba) && decide (lba < f.lba + f.secs.length))
      then .error .stripe
      else match d.folded n.nsx lba with
        | some s => s.asked n.nsx lba gen .hop11
        | none => .ok none
  if n.zoned then
    let zo := n.zoneOf lba
    let z := d.zd (n.base + zo.1)
    let zs := zo.1 * zsze n.seven
    if z.st = zEmpty then .ok none
    else if zo.2 < z.fp then
      d.rowSector n.seven z.group z.lbn zo.2 n.nsx lba (some z.zseq)
        (decide (zo.2 < SMap.get (fun _ => 0) d.media.far (n.base + zo.1)))
    else if d.wr.fold.any (fun f => f.lost && decide (f.nsx = n.nsx) && decide (zs ≤ f.lba) && decide (f.lba < zs + zsze n.seven)) &&
        (d.latest n.nsx lba).isSome then .error .stripe
    else later (some z.zseq)
  else
    match later none with
    | .ok none =>
      match SMap.find d.media.conv (convKey n.nsx lba) with
      | some e =>
        match SMap.find d.media.urow (unitKey n.nsx e.unit) with
        | some k => d.rowSector false (keyGroup k) (keyLbn k) e.ofs n.nsx lba none
        | none => e.sec.asked n.nsx lba none .seal
      | none => .ok none
    | r => r

/-- Why an LBA of a read fails (R173): an error of the media or a memory, a seal that marks lost data, or an error of
protection information. -/
inductive ReadFail where
  | err (e : ReadErr)
  | poison
  | pi (st : Status)
  deriving DecidableEq, Repr

/-- The status of a cause (R173). -/
def ReadFail.status : ReadFail → Status
  | .err .stripe => .stripeUnrec
  | .err _ => .unrecRead
  | .poison => .unrecRead
  | .pi st => st

/-- The number of a cause in the record of its run. DESIGN CHOICE (assumption 131). -/
def ReadFail.code : ReadFail → Nat
  | .err .stripe => 1 | .err .seal => 2 | .poison | .err .poison => 3 | .err .memory => 4 | .err .hop11 => 5
  | .pi st => if st = .guardErr then 6 else if st = .appErr then 7 else 8

/-- The key that an LBA of a read is decrypted with: what its message took from the slot, or else what the slot holds (R207). -/
def Dev.readKey (d : Dev) (n : Ns) (keys : List (Nat × Slot)) (i : Nat) : Option (BitVec 512) :=
  match keys.find? (fun k => k.1 == i) with
  | some (_, .key k _) => some k
  | some _ => none
  | none => if n.keyed then d.nsKey n else none

/-- The sector of an LBA of a read: what its member read brought from flash, or else what the namespace holds now. -/
def Dev.readSector (d : Dev) (n : Ns) (got : List (Nat × Option Sector)) (lba i : Nat) : Except ReadErr (Option Sector) :=
  match got.find? (fun g => g.1 == i) with
  | some (_, some s) => .ok (some s)
  | some (_, none) => .error .seal
  | none => d.sectorAt n lba

/-- One LBA of a read: seal, decryption, PI check, and PI stripped with PRACT = 1 (R160 to R163). -/
def Dev.readLba (d : Dev) (n : Ns) (c : RwCmd) (bad : List (Nat × ReadErr)) (keys : List (Nat × Slot)) (i : Nat)
    (got : List (Nat × Option Sector) := []) : Except ReadFail Lba :=
  let lba := c.slba + i
  match bad.find? (fun b => b.1 == i) with
  | some b => .error (if b.2 = .poison then .poison else .err b.2)
  | none =>
    match d.readSector n got lba i with
    | .error e => .error (.err e)
    | .ok none => .ok (stripPi n c (zeroLba n))
    | .ok (some s) =>
      if s.poison then .error .poison
      else
        let x : Lba := { s.d with data := decrypt (d.readKey n keys i) lba s.d.data }
        match piCheck n c false lba i x with
        | some st => .error (.pi st)
        | none => .ok (stripPi n c x)

/-- The LBAs of a read that were found good, with their offsets. -/
def goodOf (l : List (Nat × Except ReadFail Lba)) : List (Nat × Lba) :=
  l.filterMap (fun p => match p.2 with | .ok x => some (p.1, x) | .error _ => none)

/-- The failed LBAs with their causes. -/
def failsOf (l : List (Nat × Except ReadFail Lba)) : List (Nat × ReadFail) :=
  l.filterMap (fun p => match p.2 with | .ok _ => none | .error s => some (p.1, s))

/-- The runs of failed LBAs with one cause: first offset, length, cause (R173). -/
def failRuns : List (Nat × ReadFail) → List (Nat × Nat × ReadFail)
  | [] => []
  | (i, s) :: t =>
    match failRuns t with
    | (j, n, u) :: r => if j = i + 1 ∧ u = s then (i, n + 1, s) :: r else (i, 1, s) :: (j, n, u) :: r
    | [] => [(i, 1, s)]

/-- The read of every LBA of a command. -/
def Dev.readAll (d : Dev) (n : Ns) (c : RwCmd) (bad : List (Nat × ReadErr)) (keys : List (Nat × Slot) := [])
    (got : List (Nat × Option Sector) := []) : List (Nat × Except ReadFail Lba) :=
  (List.range c.nlb).map (fun i => (i, d.readLba n c bad keys i got))

/-- What a failed read leaves besides its status (R173): an Error Information entry, the media error
count, and a record for each run of LBAs with one cause. -/
def Dev.readErrors (d : Dev) (h : Hdr) (n : Ns) (c : RwCmd) (fs : List (Nat × ReadFail)) : Dev :=
  match fs with
  | [] => d
  | (i, f) :: _ =>
    let d := (d.addErr h.qid h.cid f.status.code (c.slba + i) c.nsid).onHost (fun x => { x with mediaErrs := x.mediaErrs + 1 })
    d.each (failRuns fs) (fun d r =>
      d.penPost n.pen (0x0D00 + h.fn.val % 256) (Config.evCode 7) 5 (c.slba + r.1 + r.2.1 * 2 ^ 64 + r.2.2.code * 2 ^ 96))

/-- What a read adds to the integrity counters (R272): hop 11 failures, seals that fail or are poisoned where the
data are taken, errors of protection information. -/
def Dev.readCounts (d : Dev) (fs : List (Nat × ReadFail)) : Dev :=
  let k := fun (x : ReadFail) => (fs.filter (fun f => decide (f.2 = x))).length
  (((((d.count2 200 (k (.err .hop11))).count2 176 (k (.err .seal))).count2 184 (k .poison)).count2 208 (k (.pi .guardErr))).count2
    216 (k (.pi .appErr))).count2 224 (k (.pi .refErr))

/-- The completion of a read: data for the good LBAs, the status of the lowest failed one. -/
def Dev.readOut (d : Dev) (h : Hdr) (n : Ns) (c : RwCmd) (bad : List (Nat × ReadErr)) (move : Bool) (keys : List (Nat × Slot) := [])
    (got : List (Nat × Option Sector) := []) : Dev :=
  let l := d.readAll n c bad keys got
  let fs := failsOf l
  let d := d.readCounts fs
  let d := if move && !d.host.stopped then
      let g := goodOf l
      let d := d.onHost (fun x => { x with out := x.out ++ [.lbas h g] })
      d.markPages h.fn.val ((c.pages.zipIdx.filter (fun p => g.any (fun x => x.1 == p.2))).map Prod.fst)
    else d
  match fs with
  | [] => d.complete h .success
  | (_, f) :: _ => (d.readErrors h n c fs).complete h f.status (d.dnr f.status)

/-- The map segments of a command's LBAs are read (R175). -/
def Dev.mapReads (d : Dev) (n : Ns) (c : RwCmd) : Dev :=
  if n.zoned then d else d.each (List.range c.nlb) (fun d i => d.mapRead n.nsx (c.slba + i))

/-- The checks of a read: an LBA range of one zone, a zone that is not Offline (R61, R62). -/
def Dev.readCheck (d : Dev) (h : Hdr) (c : RwCmd) (lim : Nat := 512) : Except Status Ns :=
  match d.nsOf c.nsid with
  | none => .error .invalidNsFormat
  | some n =>
    match d.rwCheck h c n lim with
    | some st => .error st
    | none =>
      if n.zoned then
        if (n.zoneOf c.slba).1 ≠ (n.zoneOf (c.slba + c.nlb - 1)).1 then .error .zoneBoundary
        else if (d.zd (n.base + (n.zoneOf c.slba).1)).st = zOff then .error .zoneOffline
        else .ok n
      else .ok n

/-- The LBAs that a memory error of a read names (R173, R174). -/
def memoryLbas (base : Nat) (bad : List (Nat × ReadErr)) : List Nat :=
  bad.filterMap (fun b => if b.2 = .memory then some (base + b.1) else none)

/-- The errors of a read after R174: an acknowledged buffer entry that reads back as uncorrectable is fetched from the
peer in DUO, and gets poison elsewhere. -/
def Dev.afterLoss (d : Dev) (n : Ns) (base : Nat) (bad : List (Nat × ReadErr)) : List (Nat × ReadErr) :=
  if d.fw.role = .duo then bad.filter (fun b => !(decide (b.2 = .memory) && d.inBuffer n.nsx (base + b.1))) else bad

/-- The LBAs of a read that stand in Fold alone and whose Fold row cannot be rebuilt (R81). -/
def Dev.foldBad (d : Dev) (n : Ns) (c : RwCmd) (bad : List (Nat × ReadErr)) : List Nat :=
  (bad.filterMap (fun b => if b.2 = .stripe ∧ b.1 < c.nlb then some (c.slba + b.1) else none)).filter (fun a =>
    (d.buffered n.nsx a).isNone && (d.folded n.nsx a).isSome &&
      (!n.zoned || decide ((d.zd (n.base + (n.zoneOf a).1)).fp ≤ (n.zoneOf a).2)))

/-- What the memory and Fold errors of a read leave behind (R81, R174); zone commands that waited for it go on (R46). -/
def Dev.readAfter (d : Dev) (s : Dev) (n : Ns) (c : RwCmd) (bad : List (Nat × ReadErr)) : Dev :=
  ((d.bufferLost n.nsx (memoryLbas c.slba bad)).loseFold n (s.foldBad n c bad)).pumpZones

/-- A Read on the firmware path (R18, R90, R174). -/
def Dev.readCmd (d : Dev) (h : Hdr) (c : RwCmd) (bad : List (Nat × ReadErr)) : Dev :=
  match d.readCheck h c with
  | .error st => (d.failIo h c 512 st).pumpZones
  | .ok n => ((d.mapReads n c).readOut h n c (d.afterLoss n c.slba bad) true).readAfter d n c bad

def execRead (h : Hdr) (c : RwCmd) (bad : List (Nat × ReadErr)) (s : State) : Host.Outcome State Fault Refusal :=
  ioDo h s (fun d => d.readCmd h c bad)

/-- Verify checks what a read would, and moves nothing (R256). -/
def Dev.verifyCmd (d : Dev) (h : Hdr) (c : RwCmd) (bad : List (Nat × ReadErr)) : Dev :=
  match d.readCheck h c 65536 with
  | .error st => (d.failIo h c 65536 st).pumpZones
  | .ok n => ((d.mapReads n c).readOut h n c (d.afterLoss n c.slba bad) false).readAfter d n c bad

def execVerify (h : Hdr) (c : RwCmd) (bad : List (Nat × ReadErr)) (s : State) : Host.Outcome State Fault Refusal :=
  ioDo h s (fun d => d.verifyCmd h c bad)

/-- Compare: the read must succeed, and the host's data and metadata equal it (R256). -/
def Dev.compareCmd (d : Dev) (h : Hdr) (c : RwCmd) (data : List Lba) (bad : List (Nat × ReadErr)) : Dev :=
  match d.readCheck h c with
  | .error st => (d.failIo h c 512 st).pumpZones
  | .ok n =>
    let d' := d.mapReads n c
    let l := d'.readAll n c (d.afterLoss n c.slba bad)
    match failsOf l with
    | (_, f) :: _ =>
      (((d'.readCounts (failsOf l)).readErrors h n c (failsOf l)).complete h f.status (d.dnr f.status)).readAfter d n c bad
    | [] =>
      let d := d'
      let same := if n.md = 0 then (goodOf l).map (fun p => p.2.data) == data.map (·.data)
        else (goodOf l).map (fun p => p.2) == data
      (d.complete h (if same then .success else .compareFail)).readAfter d n c bad

def execCompare (h : Hdr) (c : RwCmd) (l : List Lba) (bad : List (Nat × ReadErr)) (s : State) :
    Host.Outcome State Fault Refusal :=
  ioDo h s (fun d => d.compareCmd h c l bad)

/-! The firmware path and admission (R90, R190). -/

/-- The deadline target of a class in µs (R95, R185); the shipped defaults where the Pen has no record. -/
def Dev.target (d : Dev) (pen cls : Nat) : Nat :=
  match d.pen pen with
  | some i => if cls = 0 then i.r.tgt0 else if cls = 1 then i.r.tgt1 else if cls = 2 then i.r.tgt2 else i.r.tgt3
  | none => if cls = 0 then 200 else if cls = 1 then 1000 else if cls = 2 then 5000 else 20000

/-- An I/O opcode whose cost is charged to the write side; every other one is charged to reads. -/
def chargesWrite (o : Byte) : Bool :=
  decide (o = 0x00 ∨ o = 0x01 ∨ o = 0x04 ∨ o = 0x08 ∨ o = 0x09 ∨ o = 0x79 ∨ o = 0x7D)

/-- The cost of a command in sixteenths: 4 KiB a token, one token without data (R190). -/
def costOf (e : Sqe) : Nat :=
  if e.opc = 0x01 ∨ e.opc = 0x02 ∨ e.opc = 0x05 ∨ e.opc = 0x7D then e.rw.nlb * 16 else 16

/-- The I/O commands of R256; every other opcode is invalid. -/
def ioOpcode (o : Byte) : Bool :=
  decide (o = 0x00 ∨ o = 0x01 ∨ o = 0x02 ∨ o = 0x04 ∨ o = 0x05 ∨ o = 0x08 ∨ o = 0x09 ∨ o = 0x0C ∨ o = 0x12 ∨ o = 0x1D ∨ o = 0x79 ∨ o = 0x7A ∨ o = 0x7D)

/-- The device refuses the command on its form: it costs no token (R190). That is a namespace of another Pen or one that is not attached,
an LBA out of range, a read that crosses zones, a size over its limit, PRACT where R162 does not support it, an append not at a zone's
start, a command for the other kind of namespace, an opcode that R256 does not list. -/
def Dev.badForm (d : Dev) (h : Hdr) (e : Sqe) : Bool :=
  if !ioOpcode e.opc || e.fused then true
  else if e.opc = 0x00 ∧ e.rw.nsid = 0xFFFFFFFF then false
  else match d.nsOf e.rw.nsid with
  | none => true
  | some n =>
    let span := decide (e.rw.nlb = 0) || !praOk n e.rw || decide (n.lbas < e.rw.slba + e.rw.nlb)
    let two := n.zoned && decide ((n.zoneOf e.rw.slba).1 ≠ (n.zoneOf (e.rw.slba + e.rw.nlb - 1)).1)
    if d.penOf h.fn.val ≠ some n.pen ∨ !n.fns.contains h.fn.val then true
    else if e.opc = 0x01 then span || decide (512 < e.rw.nlb)
    else if e.opc = 0x02 ∨ e.opc = 0x05 then span || decide (512 < e.rw.nlb) || two
    else if e.opc = 0x7D then span || !n.zoned || decide (256 < e.rw.nlb) || decide ((n.zoneOf e.rw.slba).2 ≠ 0)
    else if e.opc = 0x0C then span || decide (65536 < e.rw.nlb) || two
    else if e.opc = 0x08 then span || decide (65536 < e.rw.nlb)
    else if e.opc = 0x04 then span || decide (65536 < e.rw.nlb) || n.zoned
    else if e.opc = 0x79 ∨ e.opc = 0x7A then !n.zoned
    else false

/-- A command of a queue waits for admission; its deadline counts from its doorbell, at tick t0 (R95). -/
def Dev.penCmd (d : Dev) (h : Hdr) (q : Nat) (e : Sqe) (t0 : Nat) (col : Bool) : PenCmd :=
  let cls := d.fld (A.COL_SQ q) 2 1
  let pen := d.fld (A.COL_SQ q) 10 3
  { seq := d.pens.seq, pen := pen, wr := chargesWrite e.opc, cls := cls,
    deadline := t0 * 5 / 8 + d.target pen cls * 1000, cost := costOf e, col := col, h := h, q := q, c := e.rw, t0 := t0
    descHit := e.descHit }

/-- Hand a command to the firmware path, with or without its tokens (R90), with its Pen and class. -/
def Dev.toFw (d : Dev) (h : Hdr) (q : Nat) (e : Sqe) (t0 : Nat) (admitted : Bool) (pen : Nat := 0) (cls : Nat := 3) : Dev :=
  d.onHost (fun x => { x with fw := x.fw ++ [{ h := h, q := q, e := e, t0 := t0, admitted := admitted, pen := pen, cls := cls }] })

/-- Tokens that Col took for a command that is refused return to its Pen, each to where it came from (R190). -/
def Dev.refund (d : Dev) (c : PenCmd) : Dev :=
  let debt := d.fld (A.PEN_DEBT c.pen) 15 0
  let rest := c.cost - c.c0Paid
  let d := d.onPens (fun x => { x with c0 := if c.c0Paid = 0 then x.c0
                                       else SMap.set (fun _ => 0) x.c0 c.pen (SMap.get (fun _ => 0) x.c0 c.pen + c.c0Paid) })
  (d.setFld (A.PEN_DEBT c.pen) 15 0 (debt - rest)).setFld (A.PEN_TOK c.pen) 15 0
    (Nat.min (d.fld (A.PEN_TOK c.pen) 15 0 + (rest - debt)) 0xFFFF)

/-- The Read entry of a Col command. -/
def readSqe (c : RwCmd) (cid : Nat) : Sqe :=
  { opc := 0x02, fused := false, cid := cid, rw := c, dptr := .prp, eccBad := false }

/-- Col hands an admitted read on, with its tokens; a refused one gives them back (R90, R190). -/
def Dev.colFallback (d : Dev) (c : PenCmd) : Dev :=
  let d := d.count A.COL_CNT_FB 64 1
  if d.badForm c.h (readSqe c.c c.h.cid) then (d.refund c).toFw c.h c.q (readSqe c.c c.h.cid) c.t0 false c.pen c.cls
  else d.toFw c.h c.q (readSqe c.c c.h.cid) c.t0 true c.pen c.cls

/-- The member reads of a Col read: cut at data-unit boundaries (R92): offset in the zone, LBAs. -/
def colSplit : Nat → Nat → Nat → List (Nat × Nat)
  | 0, _, _ => []
  | k + 1, o, n =>
    if n = 0 then []
    else
      let m := Nat.min n (16 - o % 16)
      (o, m) :: colSplit k (o + m) (n - m)

/-- The Mule request of a member read (R39, R113, R160). -/
def Dev.colReq (d : Dev) (n : Ns) (z : Zd) (c : PenCmd) (zs : Nat) (p : Nat × Nat) : Nat × MuleReq :=
  let q := locate n.seven p.1
  let m := d.member n.seven z.group q.pos
  (m.1,
    { op := ⟨q.row % 4, by omega⟩
      lun := ⟨m.2 % 32, by omega⟩
      lbn := z.lbn, page := q.row, plane := ⟨q.plane % 4, by omega⟩, cw := ⟨q.cw % 4, by omega⟩
      ncw := p.2, rid := c.q, deadline := c.deadline, cls := ⟨c.cls % 4, by omega⟩, flush := false
      spurOk := true, nsx := n.nsx, lba := zs + p.1, gen := BitVec.ofNat 32 z.zseq, data := [] })

/-- Stages 5 to 11 of R91 for a read that has its tokens (R42, R89 to R92). A descriptor that reads as uncorrectable hands the command
to the firmware path (R165, R173). -/
def Dev.colRun (d : Dev) (c : PenCmd) : Dev :=
  let k := c.c.nsid - 1
  let w := d.rd (A.COL_NS k)
  let seven := bitOf w 40
  let zi := c.c.slba / zsze seven
  let o := c.c.slba % zsze seven
  let ix := fldOf w 19 0 + zi
  let z := d.zd ix
  match d.nsOf c.c.nsid with
  | none => d.colFallback c
  | some n =>
    if !bitOf w 41 ∨ fldOf w 49 42 ≠ c.pen ∨ fldOf w 39 20 ≤ zi then d.colFallback c
    else if c.descHit = 2 then (d.count2 48 1).colFallback c
    else
    let d := if c.descHit = 1 then d.count2 40 1 else d
    if !(z.active || decide (z.st = zRO) || decide (z.st = zFull)) ∨ !z.colok ∨ z.fp < o + c.c.nlb ∨
        (n.keyed ∧ !d.slotOk n) then d.colFallback c
    else
      let rs := (colSplit 5 o c.c.nlb).map (d.colReq n z c (zi * zsze seven))
      let d := ((d.colSettle).count A.COL_CNT_FAST 64 1).penCount c.pen 0
      let first := d.mules.nextId
      let ids := (List.range rs.length).map (fun i => first + i)
      let qs := (rs.zip ids).map (fun x => (x.1.1, { d.mkReq x.1.1 x.1.2 none with id := x.2 }))
      let d := (d.onMules (fun m => { m with nextId := first + rs.length })).onHost (fun x =>
        { x with reads := x.reads ++ [{ h := c.h, q := c.q, c := c.c, nsx := n.nsx, pen := c.pen, cls := c.cls,
                                        slot := z.kslot, t0 := c.t0, ids := ids, failed := false }] })
      d.each qs (fun d x => d.submit x.1 x.2.r.lun.val x.2)

/-- What admission leads to: Col goes on at stage 5, a firmware-path command has its tokens. -/
def Dev.admitted (d : Dev) (c : PenCmd) : Dev :=
  if c.col then d.colRun c
  else d.onHost (fun x => { x with fw := x.fw.map (fun f => if f.h = c.h then { f with admitted := true } else f) })

/-- COMMAND_ADMISSION (R190). -/
def Dev.admission (d : Dev) (p : Nat) (wr : Bool) : Dev :=
  match d.penAdmit p wr with
  | (d, some c) => d.admitted c
  | (d, none) => d


/-! The doorbell (R89 to R91, R96, R176). -/

/-- Col takes doorbells: its enable is in effect, the device is in A0 and in a mode that R89 serves. -/
def Dev.colServes (d : Dev) : Bool :=
  d.bit A.COL_CTL 0 && decide (d.colStat = 1) && decide (d.tor.pwr = .on) &&
    (d.writable || decide (d.fw.mode = .readonly))

/-- The queue is in the CMB and bound to Col. -/
def Dev.colBound (d : Dev) (q : Sq) : Bool := q.inCmb && d.bit (A.COL_SQ q.q) 0

/-- The command's form is one that Col takes at stage 3. -/
def Dev.colForm (d : Dev) (e : Sqe) : Bool :=
  decide (e.opc = 0x02) && !e.fused && decide (1 ≤ e.rw.nlb) && decide (e.rw.nlb ≤ 64) &&
    decide (e.dptr ≠ .sglOther) &&
    (let sz := zsze (d.bit (A.COL_NS (e.rw.nsid - 1)) 40)
     decide (e.rw.slba / sz = (e.rw.slba + e.rw.nlb - 1) / sz))

/-- Put a command in its Pen's admission queue and admit what the tokens allow. -/
def Dev.ask (d : Dev) (h : Hdr) (q : Nat) (e : Sqe) (t0 : Nat) (col : Bool) : Dev :=
  let c := d.penCmd h q e t0 col
  (d.onPens (fun x => { x with wait := x.wait ++ [c], seq := x.seq + 1 })).admission c.pen c.wr

/-- A command of an I/O queue takes the firmware path without tokens: refused forms never ask (R190). -/
def Dev.fwPath (d : Dev) (h : Hdr) (q : Nat) (e : Sqe) (t0 : Nat) : Dev :=
  let bad := d.badForm h e
  let d := d.toFw h q e t0 false (d.fld (A.COL_SQ q) 10 3) (d.fld (A.COL_SQ q) 2 1)
  if bad then d else d.ask h q e t0 false

/-- A submission queue after a doorbell. -/
def Dev.sqTail (d : Dev) (q : Sq) (tail : Nat) (head : Nat) (halt : Bool) : Dev :=
  d.onHost (fun x =>
    { x with sqs := x.sqs.map (fun y => if y = q then { q with tail := tail, head := head, halted := halt } else y) })

/-- An entry of a queue is fetched (R89 to R91, R176); its doorbell came at tick t0. -/
def Dev.fetch (d : Dev) (fnn : FnN) (q : Sq) (tail : Nat) (e : Sqe) (t0 : Nat) : Dev :=
  let h : Hdr := { fn := fnn, qid := q.sqid, cid := e.cid }
  if q.halted then d.sqTail q tail q.head true
  else if q.inCmb ∧ e.eccBad then
    let d := (d.sqTail q tail q.head true).count2 64 1
    (d.addErr q.sqid q.head 0 0).aenTo [q.fn] 0 3 1
  else
    let d := d.sqTail q tail ((q.head + 1) % Nat.max 1 q.size) false
    if q.sqid = 0 then d.toFw h 4096 e t0 true
    else if d.colServes && d.colBound q && d.colForm e then d.ask h q.q e t0 true
    else (d.count A.COL_CNT_FB 64 1).fwPath h q.q e t0

/-- Fetching from a function's queues is stopped (R195, R198). -/
def Dev.quiesced (d : Dev) (fn : Nat) : Bool :=
  match d.penOf fn with | some p => d.bit (A.PEN_PCTL p) 1 | none => false

/-- One entry that waited unfetched is fetched, where its queue still stands. -/
def Dev.fetchHeld (d : Dev) (x : Nat × Nat × Nat × Sqe) : Dev :=
  match d.host.sqs.find? (fun q => q.fn == x.1 && q.sqid == x.2.1) with
  | some q => d.fetch ⟨q.fn % 256, by omega⟩ q q.tail x.2.2.2 x.2.2.1
  | none => d

/-- HOSTIF fetches entries of a function (R149, R195, R198): not while its Pen is quiesced, and none while the flush latch
is set. -/
def Dev.fetches (d : Dev) (fn : Nat) : Bool := !d.quiesced fn && !d.tor.latch

/-- The doorbell of a queue's tail, with the entry at its slot; entries that still wait unfetched come first. -/
def Dev.doorbell (d : Dev) (fn qid tail : Nat) (e : Sqe) (fnn : FnN) : Dev :=
  match d.host.sqs.find? (fun q => q.fn == fn && q.sqid == qid) with
  | none =>
    match d.penOf fn with
    | some p => d.hwPostTo [penLog p] (mkPost (0x0D00 + fn % 256) (Config.evCode 8) 2 (fn + qid * 2 ^ 16))
    | none => d.hwPostTo [] (mkPost (0x0D00 + fn % 256) (Config.evCode 8) 2 (fn + qid * 2 ^ 16))
  | some q =>
    if !d.fetches fn && !q.halted then
      d.onHost (fun x => { x with sqs := x.sqs.map (fun y => if y = q then { q with tail := tail, todo := q.todo ++ [(d.tick, e)] } else y) })
    else if q.todo = [] then d.fetch fnn q tail e d.tick
    else
      (d.onHost (fun x => { x with sqs := x.sqs.map (fun y => if y = q then { q with tail := tail, todo := [] } else y) })).each
        ((q.todo ++ [(d.tick, e)]).map (fun x => (q.fn, q.sqid, x))) Dev.fetchHeld

/-- Fetching from a Pen's queues restarts, but not while the flush latch is set (R149, R198). -/
def Dev.refetch (d : Dev) (p : Nat) : Dev :=
  if d.bit (A.PEN_PCTL p) 1 || d.tor.latch then d
  else
    let l := (d.host.sqs.filter (fun q => decide (d.penOf q.fn = some p))).flatMap (fun q => q.todo.map (fun e => (q.fn, q.sqid, e)))
    if l = [] then d
    else
      (d.onHost (fun x => { x with sqs := x.sqs.map (fun q => if d.penOf q.fn = some p then { q with todo := [] } else q) })).each l
        Dev.fetchHeld

/-- A write of PEN_PCTL: what QUIESCE kept unfetched follows once it is 0 (R195, R201). -/
def Dev.pctlWrite (d : Dev) (p : Nat) (quiesce en : Bool) : Dev := (d.pctl p quiesce en).refetch p


/-- RESUME of PEN_MIGRATE: what QUIESCE kept unfetched follows (R198). -/
def Dev.resumeAll (d : Dev) (h : Hdr) (p : Nat) : Dev :=
  if (d.migCheck h p false).isSome then d.resumePen h p else (d.resumePen h p).refetch p


/-! What follows a Mule's result (R90, R104, R120). -/

/-- The read of Col that waits for a request. -/
def Dev.colRead (d : Dev) (id : Nat) : Option ColRead := d.host.reads.find? (fun r => id ∈ r.ids)

/-- Replace a Col read. -/
def Dev.setRead (d : Dev) (r x : ColRead) : Dev :=
  d.onHost (fun y => { y with reads := y.reads.map (fun z => if z = r then x else z) })

/-- A read has ended for Col: its member reads that still run end without a command (R109). -/
def Dev.dropRead (d : Dev) (r : ColRead) : Dev :=
  d.onHost (fun y => { y with reads := y.reads.filter (fun z => z != r), strays := y.strays ++ r.ids })

/-- A Col read whose data have all come out of the cipher: they leave (R18, R92, R94, R107). -/
def Dev.readDone (d : Dev) (r : ColRead) : Dev :=
  match d.nsOf r.c.nsid with
  | none => (d.complete r.h .invalidNsFormat).dropRead r
  | some n => ((d.dropRead r).readOut r.h n r.c [] true r.keys r.got).histCount r.pen r.cls 0 r.t0

/-- Every LBA of a read has passed the cipher, with no member read left and none failed (R92); the NP code has no cluster (R3). -/
def Dev.readReady (d : Dev) (r : ColRead) : Bool :=
  r.ids.isEmpty && !r.failed &&
    (decide (d.board.code.val = 2) || (List.range r.c.nlb).all (fun i => r.keys.any (fun k => k.1 == i)))

/-- The LBAs of a member read that a SEAL or POISON result stands for (R161), with their offsets in the command and their cause: those
whose stored seal says so, or all where none does. -/
def Dev.sealBad (d : Dev) (r : ColRead) (n : Ns) (q : QReq) (cause : ReadErr) : List (Nat × ReadErr) :=
  let all := (List.range q.r.ncw).map (fun j => q.r.lba + j)
  let hit := all.filterMap (fun a => match d.sectorAt n a with
    | .error _ => some (a - r.c.slba, ReadErr.seal)
    | .ok (some s) => if s.poison then some (a - r.c.slba, ReadErr.poison) else none
    | .ok none => none)
  if hit = [] then all.map (fun a => (a - r.c.slba, cause)) else hit

/-- What flash holds at the places of a member read, in the block that its lookup gave it (R128): by the LBAs' offsets in the command. -/
def Dev.memberData (d : Dev) (ch : Nat) (r : ColRead) (q : QReq) : List (Nat × Option Sector) :=
  (List.range q.r.ncw).filterMap (fun j =>
    let k := q.r.plane.val * 4 + q.r.cw.val + j
    (SMap.find d.media.flash (flashKey ch q.r.lun.val ((q.pblks[k / 4]?).getD q.pblk) q.r.page (k / 4) (k % 4))).map (fun s =>
      (q.r.lba + j - r.c.slba,
        if s.nsx = q.r.nsx ∧ s.lba = q.r.lba + j ∧ (q.r.gen = 0xFFFFFFFF ∨ s.gen = q.r.gen.toNat) then some s else none)))

/-- The result of one member read (R90, R104, R161): the last good one sends the data to the cipher, or to the
host where there is none; a failed one leads to reconstruction. -/
def Dev.memberEnd (d : Dev) (ch : Nat) (r : ColRead) (q : QReq) (res : MResult) : Dev :=
  let id := q.id
  let x := { r with ids := r.ids.filter (· != id), got := if res = .pass then r.got ++ d.memberData ch r q else r.got }
  let d := d.setRead r x
  match res with
  | .pass => if d.readReady x then d.readDone x else d
  | .seal | .poison =>
    let d := d.count A.COL_CNT_FB 64 1
    match d.nsOf r.c.nsid with
    | some n => (((d.dropRead x).readOut r.h n r.c (d.sealBad r n q (if res = .poison then .poison else .seal)) true).histCount r.pen r.cls 1 r.t0).penCount r.pen 1
    | none => (d.complete r.h .unrecRead).dropRead x
  | .eraseTarget =>
    ((d.dropRead x).count A.COL_CNT_FB 64 1).toFw r.h r.q (readSqe r.c r.h.cid) r.t0 true r.pen r.cls
  | .notOwned => (d.failCmd r.h .pairFenced).dropRead x
  | .addrRange => ((d.fwPost (0x0400 + ch) (Config.evCode 9) 6 id).complete r.h .internal).dropRead x
  | _ => (if r.failed then d else d.count A.COL_CNT_FB 64 1).setRead x { x with failed := true }

/-- A member read's result; where it ended the read, zone commands that waited for it go on (R46). -/
def Dev.memberIn (d : Dev) (ch : Nat) (r : ColRead) (q : QReq) (res : MResult) : Dev := (d.memberEnd ch r q res).pumpZones

/-- READ_RECONSTRUCTION (R104, R120, R133): the firmware path rebuilds what failed; `bad` are the LBAs
that cannot be. A row read by reconstruction is scheduled for refresh. -/
def Dev.reconstruct (d : Dev) (h : Hdr) (bad : List (Nat × ReadErr)) : Dev :=
  match d.host.reads.find? (fun r => r.h == h) with
  | none => d
  | some r =>
    if !r.failed ∨ r.ids ≠ [] then d
    else match d.nsOf r.c.nsid with
      | none => (d.complete r.h .invalidNsFormat).dropRead r
      | some n =>
        let zi := (n.zoneOf r.c.slba).1
        let d := d.onMedia (fun m => { m with refreshQ := if (r.c.nsid, zi) ∈ m.refreshQ then m.refreshQ else m.refreshQ ++ [(r.c.nsid, zi)] })
        ((((d.dropRead r).readOut r.h n r.c bad true).histCount r.pen r.cls 1 r.t0).penCount r.pen 1).pumpZones

def execReadReconstruction (h : Hdr) (bad : List (Nat × ReadErr)) (s : State) : Host.Outcome State Fault Refusal :=
  mainDo s (fun d => d.reconstruct h bad)

end Sys2Proof.Machine
end

