-- ==== Sys2Proof/Machine/MuleEnd.lean ====
section
/-! DEFINITION. How Mule sequences end (R115 to R120), what the results lead to (R54, R104, R117, R131), and
LUNs that go out of service. -/

namespace Sys2Proof.Machine

/-! Walking a sequence (R115). -/

/-- What a walk has found so far: worst retry depth, iterations, those of hard decodes, corrected bits, the counts of codewords,
retries and soft decodes, the first decode failure if any, the plane mask; the retry entry in force, the FEAT steps passed and the
parameters last applied at each feature address (R116, R119); the codewords sent of each plane, each with whether the channel buffer
held it whole (R115, R157); what was done on the channel (R115); and the errors of the channel buffer that its code has corrected and
those that it cannot correct (R165, R173). -/
structure Walk where
  depth : Nat
  iters : Nat
  hards : Nat := 0
  corr : Nat
  cws : Nat
  corrSum : Nat
  retries : Nat
  soft : Nat
  dec : Option MResult
  mask : Option Nat
  entry : Nat := 0
  fsteps : List W64 := []
  feat : SMap (BitVec 32) := []
  sent : List (Nat × Bool) := []
  bus : List BusOp := []
  bufCorr : Nat := 0
  bufUnc : Nat := 0
  deriving DecidableEq, Repr

def Walk.zero : Walk :=
  { depth := 0, iters := 0, corr := 0, cws := 0, corrSum := 0, retries := 0, soft := 0, dec := none, mask := none }

/-- The entries of the ladder after the start, in order (R119): up to the last of the range, then from
its first. -/
def ladder (start lo hi : Nat) : List Nat :=
  (List.range (hi + 1 - start)).map (fun i => start + i) ++ (List.range (start - lo)).map (fun i => lo + i)

/-- The depth at which a hard decode passes: within MAXDEPTH retries (R119). -/
def ladderDepth (l : List Nat) (maxd : Nat) (e : Nat) : Option Nat :=
  match l.findIdx? (· == e) with
  | some i => if i ≤ maxd then some i else none
  | none => none

/-- The limits of decoding (R119): retries, whether soft decode follows, and the iterations of a hard and of a soft decode;
with them the identity of the first codeword of the request (R160). -/
structure DecLim where
  maxd : Nat
  softEn : Bool
  hardit : Nat
  softit : Nat
  nsx : Nat
  lba : Nat
  gen : W32

/-- A seal is as the request expects it of its codeword k: namespace, LBA, and generation where the request names one (R160). -/
def DecLim.fits (lim : DecLim) (k : Nat) (s : Seal) : Bool :=
  decide (s.nsx = lim.nsx) && decide (s.lba = lim.lba + k) && (decide (lim.gen = 0xFFFFFFFF) || decide (s.gen = lim.gen.toNat))

/-- The depth at which a codeword's hard decode passes (R119, R160): one fails that needs more than HARDIT iterations, whose SCRC does
not fit, or that the channel buffer spoils (R173). -/
def cwHard (l : List Nat) (lim : DecLim) (r : CwResp) : Option Nat :=
  match r.entry with
  | some e => if r.iters ≤ lim.hardit ∧ r.scrc ∧ r.buf ≠ 2 then ladderDepth l lim.maxd e else none
  | none => none

/-- A codeword's soft decode passes (R119, R160): within SOFTIT iterations, with an SCRC that fits, and not spoilt by the channel
buffer. -/
def cwSoftOk (lim : DecLim) (r : CwResp) : Bool := r.soft && r.scrc && decide (r.iters ≤ lim.softit) && decide (r.buf ≠ 2)

/-- The retries that a codeword takes: to the entry at which it decodes, or all that there are (R119). -/
def cwTries (l : List Nat) (lim : DecLim) (r : CwResp) : Nat := (cwHard l lim r).getD (Nat.min lim.maxd (l.length - 1))

/-- A failure of the walk: the first one stands. -/
def Walk.fails (w : Walk) (e : MResult) : Walk := { w with dec := some (w.dec.getD e) }

/-- A codeword's decode and its seal check (R119, R160). -/
def Walk.cw (l : List Nat) (lim : DecLim) (w : Walk) (r : CwResp) : Walk :=
  let fits := lim.fits w.cws r.sl
  let hard := cwHard l lim r
  let w := { w with cws := w.cws + 1, iters := Nat.max w.iters r.iters, depth := Nat.max w.depth (cwTries l lim r)
                    hards := Nat.max w.hards (if hard.isSome then r.iters else lim.hardit)
                    bufCorr := w.bufCorr + (if r.buf = 1 then 1 else 0), bufUnc := w.bufUnc + (if r.buf = 2 then 1 else 0) }
  let ok := fun (w : Walk) =>
    if !fits then w.fails .seal
    else if r.sl.poison then w.fails .poison
    else { w with corr := Nat.max w.corr r.corr, corrSum := w.corrSum + r.corr }
  if hard.isSome then ok w
  else if lim.softEn then
    let w := { w with soft := w.soft + 1 }
    if cwSoftOk lim r then ok w else w.fails .uncorr
  else w.fails .uncorr

/-- Where a walk stands: it has ended, or it waits for a response that has not come. -/
inductive WalkEnd where
  | done (r : MResult) (w : Walk)
  | waits (w : Walk)
  deriving DecidableEq, Repr

/-- What a walk has found when it has ended, or by the step at which it waits. -/
def WalkEnd.walk : WalkEnd → Walk
  | .done _ w => w
  | .waits w => w

/-- The place of a walk: step, the passes left of each LOOP that is entered, by its step, the current plane. DESIGN CHOICE
(assumption 121): the plane stays where a LOOP has led it. -/
structure WPos where
  s : Nat
  left : SMap Nat := []
  plane : Nat := 0
  deriving DecidableEq, Repr

/-- The parameters of a walk: its steps, the FEAT steps of a soft sense (op 10), the ladder, the place that it addresses, whether an ACC
step still waits, and the parameters of a FEAT step by entry and sense: 0 none, 1 above, 2 below (R115, R119). -/
structure WCtx where
  steps : List W64
  softFeats : List W64 := []
  ladder : List Nat
  lim : DecLim
  accOpen : Bool
  blk : Nat → Nat := fun _ => 0
  page : Nat := 0
  cw : Nat := 0
  sense : Nat := 0
  feat : Nat → Nat → W64 → BitVec 32

/-- A FEAT step: skipped where its parameters are those last applied to the LUN (R116). -/
def Walk.apply (w : Walk) (c : WCtx) (e sense : Nat) (x : W64) : Walk :=
  let a := fldOf x 39 32
  let par := c.feat e sense x
  if SMap.find w.feat a = some par then w
  else { w with feat := SMap.put w.feat a par, bus := w.bus ++ [.feat (BitVec.ofNat 8 (fldOf x 55 48)) a par] }

/-- A read again at another entry: its FEAT steps follow (R115, R119). -/
def Walk.retry (c : WCtx) (w : Walk) (e : Nat) : Walk :=
  w.fsteps.foldl (fun w x => w.apply c e c.sense x) { w with entry := e, bus := w.bus ++ [.retry e] }

/-- The two senses more of a soft decode, above an entry and below it, through op 10 (R119). -/
def Walk.senses (c : WCtx) (w : Walk) (e : Nat) : Walk :=
  let one := fun (w : Walk) (k : Nat) =>
    let w := c.softFeats.foldl (fun w x => w.apply c e k x) w
    { w with bus := w.bus ++ [.sense e (decide (k = 1))] }
  one (one w 1) 2

/-- A DIN step in a plane: the ladder is climbed as far as its codewords need, and soft senses follow for those that have not decoded
(R119). -/
def Walk.din (w : Walk) (c : WCtx) (plane bytes : Nat) (rs : List CwResp) : Walk :=
  let w := { w with bus := w.bus ++ [BusOp.read plane bytes] }
  let k := rs.foldl (fun k r => Nat.max k (cwTries c.ladder c.lim r)) 0
  let w := ((c.ladder.drop 1).take k).foldl (Walk.retry c) { w with retries := w.retries + k }
  let w := if c.lim.softEn then (rs.filter (fun r => (cwHard c.ladder c.lim r).isNone)).foldl (fun w r => Walk.senses c w r.best) w else w
  rs.foldl (Walk.cw c.ladder c.lim) w

/-- The bytes of a literal address: the named cycles of the step's low bytes (R115). -/
def litBytes (x : W64) : List Byte := (List.range (Nat.min 4 (fldOf x 35 32))).map (fun i => BitVec.ofNat 8 (fldOf x 31 0 / 256 ^ i))

/-- The LOOP around a step is in its last pass (R115): the first LOOP after it that jumps back to it or beyond. -/
def lastPass (steps : List W64) (p : WPos) : Bool :=
  match (List.range 16).find? (fun j => decide (p.s < j) && (match steps[j]? with
      | some x => decide (fldOf x 63 60 = 0xC) && decide (fldOf x 35 32 ≤ p.s)
      | none => false)) with
  | none => false
  | some j => match SMap.find p.left j, steps[j]? with
    | some n, _ => decide (n = 0)
    | none, some x => decide (fldOf x 3 0 = 0)
    | none, none => false

/-- A step that drives its byte, address cycles, or waits (R115). -/
def Walk.drive (w : Walk) (c : WCtx) (p : WPos) (x : W64) : Walk :=
  let k := fldOf x 63 60
  let n := fldOf x 35 32
  let plane := p.plane % 4
  let op : List BusOp :=
    if k = 1 then [.cmd (BitVec.ofNat 8 (if bitOf x 57 && lastPass c.steps p then fldOf x 39 32 else fldOf x 55 48))]
    else if k = 2 then
      (if fldOf x 39 36 = 0 then [.addr n (c.blk plane) c.page plane c.cw] else if fldOf x 39 36 = 1 then [.rowAddr n (c.blk plane) c.page plane]
       else if fldOf x 39 36 = 2 then [.litAddr (litBytes x)] else [.openAddr n])
    else if k = 5 then [.wait (fldOf x 31 0)]
    else if k = 0xB then [.ce (bitOf x 56)]
    else []
  { w with bus := w.bus ++ op }

/-- A DOUT step: its codewords leave the channel buffer for the plane (R115); those that its code cannot correct are not what they
should be (R157). -/
def Walk.dout (w : Walk) (plane bytes : Nat) (buf : Fin 3) : Walk :=
  { w with
    bus := w.bus ++ [.out plane bytes]
    sent := w.sent ++ List.replicate (bytes / 4608) (plane, decide (buf ≠ 2))
    bufCorr := w.bufCorr + (if buf = 1 then 1 else 0), bufUnc := w.bufUnc + (if buf = 2 then 1 else 0) }

/-- Walk the steps with the part's responses (R115, R116). A walk that its fuel does not bring to an end goes on. -/
def walk (c : WCtx) : Nat → WPos → List SeqResp → Walk → WalkEnd
  | 0, _, _, w => .waits w
  | f + 1, p, rs, w =>
    match c.steps[p.s]? with
    | none => .done .seqfault w
    | some x =>
      let nxt : WPos := { p with s := p.s + 1 }
      let k := fldOf x 63 60
      if k = 0 then .done (w.dec.getD .pass) w
      else if k = 4 then
        match rs with
        | .din l :: rs =>
          let n := Nat.max 1 (fldOf x 31 0 / 4608)
          if l.length < n then .waits w else walk c f nxt rs (w.din c (p.plane % 4) (fldOf x 31 0) (l.take n))
        | _ => .waits w
      else if k = 6 then
        match rs with
        | .busy ok :: rs =>
          let w := { w with bus := w.bus ++ [.ready (fldOf x 47 32)] }
          if ok then walk c f nxt rs w else .done .timeout w
        | _ => .waits w
      else if k = 7 then
        match rs with
        | .stat b :: rs =>
          let w := { w with bus := w.bus ++ [.stat (BitVec.ofNat 8 (fldOf x 55 48)) b] }
          let w := if bitOf x 57 then { w with mask := some (b.toNat / 2 % 16) } else w
          if b.toNat &&& fldOf x 47 40 = fldOf x 39 32 then walk c f nxt rs w
          else if bitOf x 56 then walk c f { p with s := fldOf x 3 0 } rs w
          else .done .fail w
        | _ => .waits w
      else if k = 3 then
        match rs with
        | .dout b :: rs => walk c f nxt rs (w.dout (p.plane % 4) (fldOf x 31 0) b)
        | rs => walk c f nxt rs (w.dout (p.plane % 4) (fldOf x 31 0) 0)
      else if k = 8 then walk c f nxt rs ({ w with fsteps := w.fsteps ++ [x] }.apply c w.entry c.sense x)
      else if k = 0xA then (if c.accOpen then .waits w else walk c f nxt rs w)
      else if k = 0xC then
        match SMap.find p.left p.s with
        | none => if fldOf x 3 0 = 0 then walk c f nxt rs w
          else walk c f { s := fldOf x 35 32, left := SMap.put p.left p.s (fldOf x 3 0 - 1), plane := p.plane + 1 } rs w
        | some 0 => walk c f { nxt with left := SMap.del p.left p.s } rs w
        | some (n + 1) => walk c f { s := fldOf x 35 32, left := SMap.put p.left p.s n, plane := p.plane + 1 } rs w
      else if 0xD ≤ k then .done .seqfault w
      else walk c f nxt rs (w.drive c p x)

/-- The offset that a retry entry gives a read level; level 0 has none (R115, R122). -/
def Dev.levelOf (d : Dev) (ch e v : Nat) : Nat :=
  if v = 0 then 0 else fldOf (d.rd (A.MULE_RETRY ch e + (v - 1) / 8 * 8)) ((v - 1) % 8 * 8 + 7) ((v - 1) % 8 * 8)

/-- The four parameters of a FEAT step for a read at an entry, the first in the low byte; in a soft sense FLAGS[0] puts SOFT_DELTA on
each level that is named, or takes it off (R115, R119). -/
def Dev.featOf (d : Dev) (ch e sense : Nat) (x : W64) : BitVec 32 :=
  let s := d.fld (A.MULE_LDPC_CFG ch) 23 16
  let delta := if bitOf x 56 && decide (sense = 1) then s else if bitOf x 56 && decide (sense = 2) then 256 - s else 0
  let par := fun v => if v = 0 then 0 else (d.levelOf ch e v + delta) % 256
  BitVec.ofNat 32 (par (fldOf x 15 12) + par (fldOf x 11 8) * 2 ^ 8 + par (fldOf x 7 4) * 2 ^ 16 + par (fldOf x 3 0) * 2 ^ 24)

/-- The physical block of a request in a plane, as its lookup gave it (R128). -/
def QReq.blk (q : QReq) (plane : Nat) : Nat := (q.pblks[plane]?).getD q.pblk

/-- The walk of the sequence that runs on a channel for a request. DESIGN CHOICE (assumption 120): a soft-sense read that is asked for as
such (op 10) senses above its entry. -/
def Dev.walkOf (d : Dev) (ch : Nat) (q : QReq) (rs : List SeqResp) : WalkEnd :=
  let op := q.r.op.val
  let last := d.fld (A.MULE_RETRY_CFG ch) 5 0
  let slc := decide (op = 4)
  let c : WCtx :=
    { steps := d.steps ch op
      softFeats := (d.steps ch 10).filter (fun x => decide (fldOf x 63 60 = 8))
      blk := q.blk, page := q.r.page, cw := q.r.cw.val, sense := if op = 10 then 1 else 0
      ladder := ladder q.start (if slc then last + 1 else 0) (if slc then 63 else last)
      lim := { maxd := d.fld (A.MULE_RETRY_CFG ch) 12 8, softEn := d.bit (A.MULE_LDPC_CFG ch) 15,
               hardit := d.fld (A.MULE_LDPC_CFG ch) 4 0, softit := d.fld (A.MULE_LDPC_CFG ch) 13 8
               nsx := q.r.nsx, lba := q.r.lba, gen := q.r.gen }
      feat := d.featOf ch
      accOpen := match SMap.find d.mules.acc ch with | some a => decide (a.got < a.want) | none => false }
  walk c ((rs.length + 1) * 65536) { s := 0, plane := q.r.plane.val } rs
    { Walk.zero with entry := q.start, feat := (d.lun ch q.r.lun.val).feat }

/-! What a result leads to. -/


/-- A program group stands on a member block. -/
def Dev.grpOn (d : Dev) (g : Grp) (ch l lbn : Nat) : Bool :=
  decide (keyLbn g.row = lbn) && d.inGroup (decide (2 ^ 23 ≤ g.row)) (keyGroup g.row) ch l

/-- The index of a program group in its row. -/
def Dev.grpIndex (d : Dev) (g : Grp) : Nat :=
  if g.ix < 2 ^ 20 then g.start / groupLbas (d.zd g.ix).seven else g.start % 2 ^ 18 / 896

/-- A copy under way programs a member block. -/
def Dev.copyOn (d : Dev) (r : Reloc) (ch l lbn : Nat) : Bool :=
  decide (r.dst.lbn = lbn) && d.inGroup r.dst.seven r.dst.group ch l

/-- A program has failed on a member block: the program groups of its row wait for the remap (R54, R78), a copy into it
does not commit (R140), a Fold program on it is made again elsewhere (R132), and a copy to a spare takes another spare, once the
retirement is asked for again (R132). -/
def Dev.markFailed (d : Dev) (ch l lbn : Nat) : Dev :=
  let d := (d.foldAgain ch l lbn).onMedia (fun m =>
    { m with spareCopies := m.spareCopies.filter (fun c => !(c.ch == ch && c.l == l && c.lbn == lbn)) })
  (d.onWr (fun w => { w with groups := w.groups.map (fun g => if d.grpOn g ch l lbn then { g with failed := true } else g) })).onMedia
    (fun m => { m with relocs := m.relocs.map (fun r => if d.copyOn r ch l lbn then { r with failed := true } else r) })

/-- A copy to a spare on a member block is under way. -/
def Dev.spareOn (d : Dev) (ch l lbn : Nat) : Bool := d.media.spareCopies.any (fun c => c.ch == ch && c.l == l && c.lbn == lbn)

/-- A member's program has passed: the program group whose word line it was, the copy into the row, or the Fold program, has one
fewer to go (R78, R79, R140). While a plane block is copied to a spare, what is programmed on the member block is that copy. -/
def Dev.markPassed (d : Dev) (ch l lbn page : Nat) : Dev :=
  if d.spareOn ch l lbn then
    d.onMedia (fun m => { m with spareCopies := m.spareCopies.map (fun c =>
      if c.ch = ch ∧ c.l = l ∧ c.lbn = lbn then { c with left := c.left - 1 } else c) })
  else
  let d := d.foldPassed ch l lbn page
  (d.onWr (fun w => { w with groups := w.groups.map (fun g =>
    if d.grpOn g ch l lbn ∧ d.grpIndex g = page / 4 then g.pass (ch, l) else g) })).onMedia
    (fun m => { m with relocs := m.relocs.map (fun r => if d.copyOn r ch l lbn then { r with left := r.left - 1 } else r) })

/-- The place of LBA i of a program: its number among the codewords of its block, over the planes (R118). -/
def progPlace (r : MuleReq) (i : Nat) : Nat := r.page * 16 + r.plane.val * 4 + r.cw.val + i

/-- LBA i of a program has been sent whole: the DOUT steps of its plane reach it, and the channel buffer held it (R115, R157). -/
def sentWhole (r : MuleReq) (sent : List (Nat × Bool)) (i : Nat) : Bool :=
  let p := progPlace r i / 4 % 4
  let nth := ((List.range i).filter (fun j => decide (progPlace r j / 4 % 4 = p))).length
  match (sent.filter (fun s => s.1 == p))[nth]? with
  | some s => s.2
  | none => false

/-- The sectors that a program sequence leaves, from its page, plane and codeword upward: those that its DOUT steps have sent (R115,
R118); an accumulating sequence leaves the parity that its Mule has formed: P at the row's P position, else Q (R39, R77). -/
def Dev.storeProgram (d : Dev) (ch l : Nat) (q : QReq) (sent : List (Nat × Bool)) : Dev :=
  let r := q.r
  match d.accWant ch r.op.val, SMap.find d.mules.acc ch with
  | some n, some a =>
    let seven := decide (n = 7)
    let u := if ch % members seven = parityPos seven r.page then a.p else a.q
    if sent.isEmpty then d
    else d.onMules (fun m => { m with parity := SMap.put m.parity (flashKey ch l (q.blk r.plane.val) r.page r.plane.val 0) u })
  | _, _ =>
    d.each (r.data.zipIdx.filter (fun x => sentWhole r sent x.2)) (fun d (x, i) =>
      let k := progPlace r i
      let s : Sector := { d := x, nsx := r.nsx, lba := r.lba + i, gen := r.gen.toNat, poison := false }
      d.onMedia (fun m => { m with flash := SMap.put m.flash (flashKey ch l (q.blk (k / 4 % 4)) (k / 16) (k / 4 % 4) (k % 4)) s }))

/-- An erase leaves nothing of its block in any plane (R128). -/
def Dev.storeErase (d : Dev) (ch l : Nat) (q : QReq) : Dev := d.wipeBlk ch l q.blk

/-- A free row after its erase: worn by one more cycle of the mode of the erase (R130). -/
def Row.erased (r : Row) : Row :=
  { r with dirty := false, dwell := 0, inSlc := false, wear := if r.inSlc then r.wear else r.wear + 1, slc := if r.inSlc then r.slc + 1 else r.slc }

/-- A member erase of a queued row has passed: with the last one the row is free, worn by one more cycle, and
the ERASE record is journaled: reason 1 after a release, 2 for a row that held no data (R130, R140; assumption 17). What waits
for the erase goes on (R53). An erase of a row that holds data is journaled too, with reason 0, and recovery will find that it broke the
order (R141). -/
def Dev.rowErased (d : Dev) (ch l lbn : Nat) : Dev :=
  match d.media.eraseQ.find? (fun r => decide (r.lbn = lbn) && d.inGroup r.seven r.group ch l) with
  | none =>
    match d.media.rows.find? (fun e => decide (keyLbn e.1 = lbn) && d.inGroup (decide (2 ^ 23 ≤ e.1)) (keyGroup e.1) ch l) with
    | some e => d.journal (.erase ch (groupCode (decide (2 ^ 23 ≤ e.1)) (keyGroup e.1)) lbn 0)
    | none => d
  | some r =>
    let k := rowKey r.seven r.group r.lbn
    let got := (d.media.erased.filter (fun e => e.1 == k && e.2 != ch)) ++ [(k, ch)]
    if got.length < members r.seven then
      d.onMedia (fun m => { m with erased := m.erased.filter (fun e => e.1 != k) ++ got })
    else
      let fresh := fun (x : Row) => if x.seven = r.seven ∧ x.group = r.group ∧ x.lbn = r.lbn then r.erased else x
      let d := if d.rowFree r then d else d.onMedia (fun m => { m with deadWear := m.deadWear + d.wearOf [r.erased] })
      let d := d.onMedia (fun m =>
        { m with
          erased := m.erased.filter (fun e => e.1 != k)
          eraseQ := m.eraseQ.filter (fun x => x != r)
          pool14 := m.pool14.map fresh, pool7 := m.pool7.map fresh, uFree := m.uFree.map fresh })
      let d := d.onWr (fun w => { w with foldFree := w.foldFree.map fresh })
      let g := groupCode r.seven r.group
      let reason := if (d.rowUse).freed.contains (g, r.lbn) then 1 else 2
      ((d.journal (.erase ch g r.lbn reason)).wearCheck).pumpOpens

/-- Schedule for refresh relocation (R127): the zone of a row, or the reclaim unit that holds an LBA (R120). -/
def Dev.wantRefresh (d : Dev) (nsx lba : Nat) : Dev :=
  let put := fun (k : Nat × Nat) => d.onMedia (fun m => { m with refreshQ := if k ∈ m.refreshQ then m.refreshQ else m.refreshQ ++ [k] })
  match d.media.nss.find? (fun n => n.nsx == nsx) with
  | some n =>
    if n.zoned then put (nsx + 1, lba / zsze n.seven)
    else match SMap.find d.media.conv (convKey nsx lba) with
      | some e => put (nsx + 1, e.unit)
      | none => d
  | none => d

/-! Findings on plane blocks (R131). -/

/-- The number of a plane block. -/
def blkKey (ch l plane lbn : Nat) : Nat := ((ch * 32 + l) * 4 + plane) * 16384 + lbn

/-- Findings on some planes of a block. -/
def Dev.addFinds (d : Dev) (ch l lbn : Nat) (planes : List Nat) (why : Finding) : Dev :=
  d.onMedia (fun m => { m with finds := m.finds ++ planes.map (fun p => (blkKey ch l p lbn, why, d.ns)) })

/-- A finding of R127 on a plane block: one for each programming of its row, for it is the row's relocation that the next one follows
(R131). -/
def Dev.refreshFind (d : Dev) (ch l lbn plane : Nat) : Dev :=
  let since := match d.media.rows.find? (fun e => decide (keyLbn e.1 = lbn) && d.inGroup (decide (2 ^ 23 ≤ e.1)) (keyGroup e.1) ch l) with
    | some e => d.ns - e.2.age * 60000000000
    | none => 0
  if d.media.finds.any (fun f => f.1 == blkKey ch l plane lbn && decide (f.2.1 = .refresh) && decide (since ≤ f.2.2)) then d
  else d.addFinds ch l lbn [plane] .refresh

/-- The planes that a mask names; 0xF names all (R117, R131). -/
def maskPlanes (mask : Nat) : List Nat := (List.range 4).filter (fun p => decide (mask / 2 ^ p % 2 = 1))

/-- What a completion shows of its block (R131): a failed or timed-out program or erase at once, a read that its stripe must
rebuild, the findings of R127, and times over half as long again as the part's longest. -/
def Dev.findings (d : Dev) (ch l : Nat) (q : QReq) (m : MDone) : Dev :=
  let lbn := q.r.lbn
  if 4096 ≤ q.r.rid ∧ d.opClass ch q.r.op.val = 0 ∧ q.blk q.r.plane.val ≠ d.pblkOf ch l q.r.plane.val lbn then d
  else match d.opClass ch q.r.op.val, m.res with
  | 1, .fail => d.addFinds ch l lbn (maskPlanes m.mask) .progFail
  | 1, .timeout => d.addFinds ch l lbn (List.range 4) .progFail
  | 2, .fail => d.addFinds ch l lbn (maskPlanes m.mask) .eraseFail
  | 2, .timeout => d.addFinds ch l lbn (List.range 4) .eraseFail
  | 1, .pass => if q.r.op.val = 5 ∧ 3 * d.board.tprogMaxUs < 2 * m.us then d.addFinds ch l lbn (List.range 4) .slowProg else d
  | 2, .pass => if 3 * d.board.tbersMaxUs < 2 * m.us then d.addFinds ch l lbn (List.range 4) .slowErase else d
  | 0, .uncorr => d.addFinds ch l lbn [q.r.plane.val] .uncorr
  | 0, .pass => if 3 ≤ m.depth ∨ m.soft then d.refreshFind ch l lbn q.r.plane.val else d
  | _, _ => d

/-- Goat leaves the rows of a block out until their next allocation, once a read of theirs has met a suspended erase (R137). -/
def Dev.skipRow (d : Dev) (ch l lbn : Nat) : Dev :=
  let ks := (d.media.rows.map Prod.fst).filter (fun k => decide (keyLbn k = lbn) && d.inGroup (decide (2 ^ 23 ≤ k)) (keyGroup k) ch l)
  d.onMedia (fun m => { m with skip := m.skip.filter (fun k => !ks.contains k) ++ ks })

/-- A background read on a plane block that has been retired since its lookup: nothing is made of what it read (R137). -/
def Dev.readStale (d : Dev) (ch l : Nat) (q : QReq) : Bool :=
  decide (4096 ≤ q.r.rid) && decide (d.opClass ch q.r.op.val = 0) && decide (q.blk q.r.plane.val ≠ d.pblkOf ch l q.r.plane.val q.r.lbn)

/-- What the shipped firmware and COL do with a completion: a Spur member, a host read, a failed program
(R54, R104, R120, R127); programs that an out-of-service LUN turns away wait for it (R131). -/
def Dev.consume (d : Dev) (ch l : Nat) (q : QReq) (m : MDone) : Dev :=
  let d := d.onHost (fun h => { h with strays := h.strays.filter (· != q.id) })
  let d := if ((m.res = .pass ∧ (3 ≤ m.depth ∨ m.soft)) ∨ m.res = .uncorr) ∧ !d.readStale ch l q then
      (if q.r.op.val = 4 then d.foldRelocate (fun r => decide (r.lbn = q.r.lbn) && d.inGroup true r.group ch l)
       else d.wantRefresh q.r.nsx q.r.lba)
    else d
  let d := match m.res with
    | .fail => if d.opClass ch q.r.op.val = 1 then d.markFailed ch l q.r.lbn else d
    | .timeout =>
      if d.opClass ch q.r.op.val ≠ 1 then d
      else if d.lunOos ch l then d.onMules (fun x => { x with oosWait := x.oosWait ++ [(ch, l, q.r)] })
      else d.markFailed ch l q.r.lbn
    | .pass =>
      if d.opClass ch q.r.op.val = 1 then d.markPassed ch l q.r.lbn q.r.page
      else if d.opClass ch q.r.op.val = 2 then (d.storeErase ch l q).rowErased ch l q.r.lbn
      else d
    | .eraseTarget => if 4096 ≤ q.r.rid then d.skipRow ch l q.r.lbn else d
    | _ => d
  match d.mules.spurs.find? (fun s => q.id ∈ s.ids) with
  | some s =>
    let s' := { s with ids := s.ids.filter (· != q.id) }
    let put := fun (d : Dev) (x : Spur) => d.onMules (fun y => { y with spurs := y.spurs.map (fun z => if z = s then x else z) })
    let drop := fun (d : Dev) => d.onMules (fun y => { y with spurs := y.spurs.filter (fun z => z != s) })
    match m.res with
    | .pass =>
      if s'.ids = [] then
        let d := drop d
        match d.colRead s.q.id with
        | some r => d.memberIn s.ch r s.q .pass
        | none => d.report1 (mkDone s.q s.ch s.lun .pass m.us)
      else put d s'
    | _ =>
      let seven := d.nsSeven s.q.r.nsx
      let spare := (otherMembers seven s.ch).find? (fun c =>
        !s.used.contains c && decide (d.remUs c s.lun ≤ d.spurThr) && d.owned c)
      match (if seven then none else spare) with
      | some c =>
        if d.budgetOk [c] s.q.r.ncw then
          let r := (d.spurSpend [c] s.q.r.ncw).sendMembers [c] s.q
          put r.1 { s' with ids := s'.ids ++ r.2, used := s.used ++ [c] }
        else ((drop d).penCount (d.nsPen s.q.r.nsx) 3).fallBack s.ch s.lun s.q
      | none => ((drop d).penCount (d.nsPen s.q.r.nsx) 3).fallBack s.ch s.lun s.q
  | none =>
    match d.colRead q.id with
    | some r => d.memberIn m.ch r q m.res
    | none => d

/-- The requesters take up completions that no sequence has ended (R100, R104): what follows may add others. -/
def Dev.takeUp : Nat → Dev → Dev
  | 0, d => d
  | k + 1, d =>
    match d.mules.fresh with
    | [] => d
    | (q, m) :: t => ((d.onMules (fun x => { x with fresh := t })).consume m.ch m.lun q m).takeUp k

/-- Meanings that may put requests to a Mule: completions that it gives at once are taken up. -/
def muleDo (s : State) (f : Dev → Dev) : Host.Outcome State Fault Refusal := mainDo s (fun d => (f d).takeUp 256)

def execMuleRequest (ch : Ch) (r : MuleReq) (s : State) : Host.Outcome State Fault Refusal :=
  muleDo s (fun d => d.request ch.val r.lun.val r none)

def execSpurRedecision (ch : Ch) (l : LunN) (id : Nat) (s : State) : Host.Outcome State Fault Refusal :=
  muleDo s (fun d => d.redecide ch.val l.val id)

def execSuspensionEnd (ch : Ch) (l : LunN) (s : State) : Host.Outcome State Fault Refusal :=
  muleDo s (fun d => d.suspEnd ch.val l.val)

def execMuleCtlEnWrite (ch : Ch) (en : Bool) (s : State) : Host.Outcome State Fault Refusal :=
  regDo (A.MULE_CTL ch.val) s (fun d => (d.muleEn ch.val en).takeUp 256)

def execCommandAdmission (p : PenN) (wr : Bool) (s : State) : Host.Outcome State Fault Refusal :=
  muleDo s (fun d => d.admission p.val wr)

def execSqTailDoorbell (fn : FnN) (qid tail : Nat) (e : Sqe) (s : State) : Host.Outcome State Fault Refusal :=
  muleDo s (fun d => d.doorbell fn.val qid tail e fn)

def execPenPctlWrite (p : PenN) (quiesce en : Bool) (s : State) : Host.Outcome State Fault Refusal :=
  regDo (A.PEN_PCTL p.val) s (fun d => (d.pctlWrite p.val quiesce en).takeUp 256)

def execResume (h : Hdr) (p : PenN) (s : State) : Host.Outcome State Fault Refusal :=
  muleDo s (fun d => d.resumeAll h p.val)

/-! LUNs out of service (R117, R129 to R133). -/

/-- An op 9 request of the Mule itself. -/
def Dev.op9 (d : Dev) (l : Nat) : QReq :=
  { id := d.mules.nextId
    r := { op := 9, lun := ⟨l % 32, by omega⟩, lbn := 0, page := 0, plane := 0, cw := 0, ncw := 0, rid := 4096, deadline := 0,
           cls := 3, flush := false, spurOk := false, nsx := 0, lba := 0, gen := 0, data := [] }
    pblk := 0, start := 0, elig := none }

/-- Run op 9 on a LUN at once. -/
def Dev.runOp9 (d : Dev) (ch l : Nat) : Dev :=
  let q := d.op9 l
  (d.onMules (fun m => { m with nextId := m.nextId + 1 })).resetLun ch l q

/-- Every zone whose row has a LUN as a member. -/
def Dev.zonesOnLun (d : Dev) (ch l : Nat) : List Nat :=
  d.zones (fun z => (z.active || decide (z.st = zFull)) && d.inGroup z.seven z.group ch l)

/-- The spares of a (LUN, plane): at most one to a remap entry (R129). -/
def Dev.sparesOf (d : Dev) : Nat := Nat.min 512 d.board.spares

/-- The good unused spares of a (LUN, plane): those that the maker has not marked, less those in use (R129, R134). -/
def Dev.sparesIn (d : Dev) (ch l plane : Nat) : Nat :=
  let bad := (d.board.badBlocks.filter (fun b =>
    decide (b.1 = ch) && decide (b.2.1 = l) && decide (b.2.2.1 = plane) && decide (d.board.nlb ≤ b.2.2.2))).length
  Nat.min 512 (d.board.spares - bad) - SMap.get (fun _ => 0) d.media.spareUse ((ch * 32 + l) * 4 + plane)

/-- The spares left over the controller (R135): those of every (LUN, plane), less what the maker has marked, what is in use, and what
lies on failed LUNs. -/
def Dev.sparesLeft (d : Dev) : Nat :=
  (List.range 64).foldl (fun n ch => n + (d.geomOf ch).1 * (d.geomOf ch).2 * 4 * d.sparesOf) 0 -
    (d.board.badBlocks.filter (fun b => decide (d.board.nlb ≤ b.2.2.2))).length - d.media.spareUse.foldl (fun n e => n + e.2) 0 -
    d.media.failedLuns.foldl (fun n k => (List.range 4).foldl (fun n p => n + d.sparesIn (k / 32) (k % 32) p) n) 0

/-- Available Spare: the spares left as a percentage of those that first configuration left; below 10 sets Critical Warning bit 0
(R135). -/
def Dev.spareCheck (d : Dev) : Dev :=
  if 0 < d.media.firstSpares ∧ 100 * d.sparesLeft / d.media.firstSpares < 10 then d.critical 0 else d

/-- Count an event of a channel's block in C3h, by its place there: 0 to 8 the histogram, 9 program and 10 erase fails,
11 blocks retired, 12 refresh relocations (R273). -/
def Dev.mediaStat (d : Dev) (ch k n : Nat) : Dev := d.onMules (fun m => { m with stats := bump m.stats (ch * 16 + k) n })

/-- A free row of the conventional namespaces has gone: a namespace of its home loses a free unit where the rows left no longer
cover the free units (R58, R132). DESIGN CHOICE (assumption 126): the namespace with the lowest index that has one. -/
def Dev.loseUnit (d : Dev) (home : Bool) : Dev :=
  let own := d.media.nss.filter (fun n => !n.zoned && n.home == home)
  if own.foldl (fun k n => k + n.freeRu) 0 ≤ (d.unitFree home).length then d
  else match own.find? (fun n => decide (0 < n.freeRu)) with
    | some n => (d.setNs { n with freeRu := n.freeRu - 1 }).protectCheck n.nsx
    | none => d

/-- The home on whose side of the split a 14+2 row lies (R231). -/
def Dev.rowHome (d : Dev) (r : Row) : Bool := if d.homeGroup d.board.pairId false r.group then d.board.pairId else !d.board.pairId

/-- Fold rows have lost a member: what a row that can no longer be rebuilt holds on members that are gone is lost (R81, R133), and
the rest is moved to other Fold rows. -/
def Dev.foldLose (d : Dev) (p : Row → Bool) : Dev :=
  let gone := fun (c : FoldCopy) (i : Nat) =>
    let u := c.unit + i / 16
    d.memberGone true (keyGroup c.row) (keyLbn c.row) ((u / 7 % 8 + 1 + u % 7) % 8)
  let lost := d.wr.fold.filter (fun c => p (d.rowOf true (keyGroup c.row) (keyLbn c.row)) && d.rowBroken true (keyGroup c.row) (keyLbn c.row))
  let d := d.each lost (fun d c =>
    match d.media.nss.find? (fun n => n.nsx == c.nsx) with
    | some n => d.loseFold n (((List.range c.secs.length).filter (gone c)).map (c.lba + ·))
    | none => d)
  d.foldRelocate p

/-- The firmware declares a LUN failed (R117, R129, R131 to R133): every plane block is retired, rows that use it
leave the pools, Opened and Closed zones on it go Read Only, Full ones are relocated. -/
def Dev.lunFails (d : Dev) (ch l : Nat) : Dev :=
  if ch * 32 + l ∈ d.media.failedLuns then d
  else
    let d := (d.fwPost (0x0400 + ch) (Config.evCode 10) 5 l).mediaStat ch 11 (4 * d.board.nlb)
    let zs := d.zonesOnLun ch l
    let keep := fun (r : Row) => !d.inGroup r.seven r.group ch l
    let units := d.media.uFree.filter (fun r => !keep r)
    let gone := (d.media.pool14 ++ d.media.pool7 ++ d.media.uFree ++ d.wr.foldFree).filter (fun r => !keep r && !d.media.eraseQ.any (fun x =>
      x.seven == r.seven && x.group == r.group && x.lbn == r.lbn))
    let d := d.onMedia (fun m => { m with deadWear := m.deadWear + d.wearOf gone })
    let d := d.onMules (fun x => { x with oosWait := x.oosWait.filter (fun x => !(x.1 == ch && x.2.1 == l)) })
    let d := d.onMedia (fun m =>
      { m with
        failedLuns := m.failedLuns ++ [ch * 32 + l], retired := m.retired + 4 * d.board.nlb
        oos := SMap.del m.oos (ch * 32 + l), spareCopies := m.spareCopies.filter (fun c => !(c.ch == ch && c.l == l))
        pool14 := m.pool14.filter keep, pool7 := m.pool7.filter keep, uFree := m.uFree.filter keep })
    let d := d.each units (fun d r => d.loseUnit (d.rowHome r))
    let d := (d.onWr (fun w => { w with foldFree := w.foldFree.filter keep })).foldLose (fun r => !keep r)
    let d := d.each (d.media.urow.filter (fun e => d.inGroup false (keyGroup e.2) ch l)) (fun d e =>
      let k := (e.1 / 2 ^ 21 + 1, e.1 % 2 ^ 21)
      d.onMedia (fun m => { m with refreshQ := if k ∈ m.refreshQ then m.refreshQ else m.refreshQ ++ [k] }))
    let d := d.each zs (fun d ix =>
      if (d.zd ix).active then d.readOnlyZone ix (d.zstart ix) else d.wantRefresh (d.zd ix).nsx (d.zstart ix))
    (((d.backing false).backing true).capacityCheck).spareCheck

/-- Op 9 has timed out: STATE 6; the fourth time within 1 h the LUN is failed (R117). DESIGN CHOICE (assumption 122): the
requests that its queue holds at that moment end with TIMEOUT, as the later ones do of which R117 speaks. -/
def Dev.outOfService (d : Dev) (ch l : Nat) : Dev :=
  let d := d.setReg (A.MULE_LUN ch l) 6
  let ln := d.lun ch l
  let d := d.setLun ch l (lunIdle 0)
  let d := d.each ln.queue (fun d q =>
    let m := mkDone q ch l .timeout 0
    (d.report1 m).consume ch l q m)
  let k := ch * 32 + l
  let fresh := (SMap.find d.media.oos k).isNone
  let d := if fresh then
      d.onMedia (fun m => { m with oos := SMap.put m.oos k 0, oosTimes := m.oosTimes ++ [(k, d.ns)] })
    else d
  let times := d.media.oosTimes.filter (fun t => decide (t.1 = k) && decide (d.ns < t.2 + 3600000000000))
  if 4 ≤ times.length then d.lunFails ch l else d

/-- Op 9 has passed on a LUN: it is in service, and the programs that waited for it are asked for again (R117, R131). -/
def Dev.backIn (d : Dev) (ch l : Nat) : Dev :=
  let ws := d.mules.oosWait.filter (fun x => x.1 == ch && x.2.1 == l)
  let d := d.onMedia (fun y => { y with oos := SMap.del y.oos (ch * 32 + l) })
  let d := d.onMules (fun x => { x with oosWait := x.oosWait.filter (fun x => !(x.1 == ch && x.2.1 == l)) })
  d.each ws (fun d x => d.request ch l x.2.2 none)

/-! The end of a sequence. -/

/-- The counters of a walk (R138). -/
def Dev.walkCounts (d : Dev) (ch : Nat) (w : Walk) : Dev :=
  let d := (d.muleCnt ch 0 w.cws).muleCnt ch 1 w.corrSum
  let d := (d.muleCnt ch 2 w.soft).muleCnt ch 4 w.retries
  if w.dec = some .uncorr then d.muleCnt ch 3 1 else d

/-- The failures of programs, erases and busy waits. -/
def Dev.failCounts (d : Dev) (ch op : Nat) (res : MResult) : Dev :=
  match res with
  | .fail => if d.opClass ch op = 1 then d.muleCnt ch 6 1 else if d.opClass ch op = 2 then d.muleCnt ch 7 1 else d
  | .timeout => d.muleCnt ch 8 1
  | _ => d

/-- The bucket of a read in the retry-depth histogram of C3h (R273). -/
def depthBucket (res : MResult) (w : Walk) : Nat :=
  if res = .uncorr then 8 else if 0 < w.soft then 7
  else if w.depth < 4 then w.depth else if w.depth < 8 then 4 else if w.depth < 16 then 5 else 6

/-- One more value of a kind of a channel: the latest 1,048,576 are kept (R273). -/
def Dev.sample (d : Dev) (ch kind v : Nat) : Dev :=
  d.onMules (fun m => { m with samples := SMap.put m.samples (ch * 4 + kind) ((v :: (SMap.find m.samples (ch * 4 + kind)).getD []).take 1048576) })

/-- What a completion adds to the media health of its channel and to the seal counters (R272, R273). -/
def Dev.mediaStats (d : Dev) (ch op : Nat) (res : MResult) (w : Walk) (us : Nat) : Dev :=
  let d := if w.cws = 0 then d else (d.mediaStat ch (depthBucket res w) 1).sample ch 0 w.hards
  let d := if res = .seal then d.count2 176 1 else if res = .poison then d.count2 184 1 else d
  let d := (d.count2 72 w.bufCorr).count2 80 w.bufUnc
  match d.opClass ch op, res with
  | 1, .pass => d.sample ch (if op = 6 then 2 else 1) us
  | 2, .pass => d.sample ch 3 us
  | 1, .fail | 1, .timeout => d.mediaStat ch 9 1
  | 2, .fail | 2, .timeout => d.mediaStat ch 10 1
  | _, _ => d

/-- A running sequence ends with a result: chip enable is deasserted, the completion is reported, and the
LUN goes on: op 9 after a TIMEOUT, the suspended operation, or the next request (R97, R99, R116, R117). -/
def Dev.finishSeq (d : Dev) (ch l : Nat) (res : MResult) (w : Walk) (us : Nat) : Dev :=
  let ln := d.lun ch l
  match ln.run with
  | none => d
  | some q =>
    let op := q.r.op.val
    let d := ((d.walkCounts ch w).failCounts ch op res).mediaStats ch op res w us
    let mask := if res = .fail then w.mask.getD 0xF else 0
    let m : MDone :=
      { id := q.id, ch := ch, lun := l, op := op, rid := q.r.rid, res := res, depth := w.depth,
        iters := w.iters, corr := w.corr, us := us, mask := mask, soft := decide (0 < w.soft) }
    let reads := if ln.susp.isSome then ln.reads + 1 else 0
    let d := d.setLun ch l { ln with run := none, reads := reads, feat := w.feat, bus := w.bus }
    let d := if ln.susp.isNone then d.setReg (A.MULE_LUN ch l) 0 else d
    let d := if res = .pass ∧ d.opClass ch op = 1 then d.storeProgram ch l q w.sent else d
    let d := ((d.report1 m).findings ch l q m).consume ch l q m
    let d := d.onMules (fun x =>
      { x with acc := match SMap.find x.acc ch with | some a => if a.lun = l then SMap.del x.acc ch else x.acc | none => x.acc })
    let d :=
      if res = .timeout then (if op = 9 then d.outOfService ch l else d.runOp9 ch l)
      else
        let d := if op = 9 ∧ res = .pass then d.backIn ch l else d
        if ln.susp.isSome then
          let lim := match ln.susp with | some s => fldOf (d.suspReg ch s.r.op.val) 7 4 | none => 0
          if Nat.max 1 lim ≤ reads then d.resumeOp ch l
          else
            let d := d.issueLun ch l
            if (d.lun ch l).run.isNone then d.resumeOp ch l else d
        else d
    ((d.issueCh ch).chQuiet ch).takeUp 256

/-- MULE_SEQUENCE_END: the sequence's steps with what the part showed (R115 to R117). -/
def Dev.sequenceEnd (d : Dev) (ch l : Nat) (rs : List SeqResp) (us : Nat) : Dev :=
  match (d.lun ch l).run with
  | none => d
  | some q =>
    match d.walkOf ch q rs with
    | .waits _ => d
    | .done res w => d.finishSeq ch l res w us

def execMuleSequenceEnd (ch : Ch) (l : LunN) (resp : List SeqResp) (us : Nat) (s : State) :
    Host.Outcome State Fault Refusal :=
  mainDo s (fun d => d.sequenceEnd ch.val l.val resp us)

/-- A BUSY step times out (R115). DESIGN CHOICE (assumption 120): the first step at which the sequence waits for the part. -/
def Dev.busyOut (d : Dev) (ch l : Nat) : Dev :=
  let ln := d.lun ch l
  let w := match ln.run with | some q => (d.walkOf ch q []).walk | none => Walk.zero
  d.finishSeq ch l .timeout w ((if ln.susp.isSome then 0 else ln.ranUs) + (d.us - ln.runUs))

def execBusyTimeout (ch : Ch) (l : LunN) (s : State) : Host.Outcome State Fault Refusal :=
  mainDo s (fun d => d.busyOut ch.val l.val)

/-- A request for op 9 (R117). -/
def Dev.resetReq (d : Dev) (ch l : Nat) : Dev :=
  let q := d.op9 l
  (d.onMules (fun m => { m with nextId := m.nextId + 1 })).enqueue ch l q

def execLunResetRequest (ch : Ch) (l : LunN) (s : State) : Host.Outcome State Fault Refusal :=
  muleDo s (fun d => d.resetReq ch.val l.val)

/-- RESTORE of MULE_LUN: an out-of-service LUN is idle again (R117). -/
def Dev.restoreLun (d : Dev) (ch l : Nat) : Dev :=
  if d.lunOos ch l then ((d.setReg (A.MULE_LUN ch l) 0).issueLun ch l).takeUp 256 else d

def execRestore (ch : Ch) (l : LunN) (s : State) : Host.Outcome State Fault Refusal :=
  regDo (A.MULE_LUN ch.val l.val) s (fun d => d.restoreLun ch.val l.val)

/-- The firmware's tries at 1 s, 10 s and 100 s: RESTORE and op 9; `pass` is how op 9 ends. The third
TIMEOUT fails the LUN (R117). -/
def Dev.restoreTry (d : Dev) (ch l : Nat) (pass : Bool) : Dev :=
  match SMap.find d.media.oos (ch * 32 + l) with
  | none => d
  | some n =>
    if pass then ((d.restoreLun ch l).backIn ch l).takeUp 256
    else
      let d := (d.muleCnt ch 8 1).onMedia (fun m => { m with oos := SMap.put m.oos (ch * 32 + l) (n + 1) })
      if 2 ≤ n then d.lunFails ch l else d

def execLunRestoreRetry (ch : Ch) (l : LunN) (pass : Bool) (s : State) : Host.Outcome State Fault Refusal :=
  mainDo s (fun d => d.restoreTry ch.val l.val pass)

end Sys2Proof.Machine
end

