-- ==== Sys2Proof/Machine/Relocate.lean ====
section
/-! DEFINITION. What the firmware does with the media in the background (R123 to R133, R140 to R148): the retention
model and the patrol, relocation, garbage collection, wear levelling, retirement, checkpoints. -/

namespace Sys2Proof.Machine

/-! The retention model (R123 to R126). -/


/-- The stripe, group and LBN of a row's key. -/
def keyRow (k : Nat) : Bool × Nat × Nat := (decide (2 ^ 23 ≤ k), k % 2 ^ 23 / 16384, k % 16384)

/-- A row with the class that the rule gives it. -/
def classed (t : List (List Nat)) (i : RowInfo) : RowInfo := { i with cls := rowClass t i }

/-- The class tables of a row's members after its class has moved (R121, R125). -/
def Dev.rowTable (d : Dev) (k old new : Nat) : Dev :=
  if new = old then d
  else
    let r := keyRow k
    d.each (d.rowLuns r.1 r.2.1) (fun d m => d.setClass m.1 m.2 r.2.2 new)

/-- One row changes, and its class where the rule moves it (R125). -/
def Dev.classRow (d : Dev) (k : Nat) (i : RowInfo) : Dev :=
  (d.onMedia (fun m => { m with rows := SMap.put m.rows k (classed d.retTable i) })).rowTable k i.cls (rowClass d.retTable i)

/-- Every row changes, and its class where the rule moves it. -/
def Dev.reclass (d : Dev) (f : Nat → RowInfo → RowInfo) : Dev :=
  (d.each d.media.rows (fun x e => x.rowTable e.1 e.2.cls (rowClass d.retTable (f e.1 e.2)))).onMedia (fun m =>
    { m with rows := d.media.rows.map (fun e => (e.1, classed d.retTable (f e.1 e.2))) })

/-- The samples of a row's channels (R122, R123). -/
def Dev.rowTf (d : Dev) (seven : Bool) (group : Nat) : List Int :=
  ((groupChannels seven group).filter (fun c => d.bit (A.THERM_TF (d.tfSensor c)) 16)).map (fun c => temp16 (d.rd (A.THERM_TF (d.tfSensor c))))

/-- A row after one minute's samples. -/
def sampleRow (i : RowInfo) (ts : List Int) : RowInfo :=
  let hot := i.hot || ts.any (fun t => decide (i.sweepMean + 60 < t))
  { i with tfSum := i.tfSum + ts.sum, tfN := i.tfN + ts.length, age := i.age + 1, hot := i.swept && hot }

/-- The end of a patrol period: a pass that has not read every row that was written before it began runs over (R127). -/
def Dev.passEnd (d : Dev) : Dev :=
  let d := d.onFw (fun f => { f with pass := f.pass + 1 })
  if d.fw.pass < d.media.policy.days * 1440 then d
  else
    let late := d.media.rows.any (fun e => !e.2.inPass && !d.media.skip.contains e.1 && decide (d.media.policy.days * 1440 ≤ e.2.age))
    let d := if late then
        (d.onMedia (fun m => { m with overruns := m.overruns + 1 })).fwPost 0x04FF (Config.evCode 11) 3 0
      else d
    let d := d.onMedia (fun m => { m with rows := m.rows.map (fun e => (e.1, { e.2 with inPass := false })) })
    (d.onFw (fun f => { f with pass := 0 })).onMedia (fun m => { m with passes := m.passes + 1 })

/-- TF_SAMPLE: every 60 s. -/
def Dev.minute (d : Dev) : Dev :=
  let d := d.reclass (fun k i => sampleRow i (d.rowTf (keyRow k).1 (keyRow k).2.1))
  let older := fun (r : Row) => if r.dirty then r else { r with dwell := r.dwell + 1 }
  let d := d.onMedia (fun m => { m with pool14 := m.pool14.map older, pool7 := m.pool7.map older, uFree := m.uFree.map older })
  let d := d.onWr (fun w => { w with foldFree := w.foldFree.map older })
  let d := if d.media.wall = 0 then d else d.onMedia (fun m => { m with wall := m.wall + 60000 })
  d.passEnd

def execTfSample (s : State) : Host.Outcome State Fault Refusal := mainDo s Dev.minute

/-- The zone that occupies a row. -/
def Dev.zoneAt (d : Dev) (seven : Bool) (group lbn : Nat) : Option Nat :=
  (d.zones (fun z => (z.active || decide (z.st = zFull) || decide (z.st = zRO)) && z.seven == seven &&
    z.group == group && z.lbn == lbn)).head?

/-- Schedule a row for refresh (R127): its zone, or the reclaim unit that stands on it; what a Fold row holds moves to other ones. -/
def Dev.refreshRow (d : Dev) (seven : Bool) (group lbn : Nat) : Dev :=
  match d.zoneAt seven group lbn with
  | some ix => d.wantRefresh (d.zd ix).nsx (d.zstart ix)
  | none =>
    match d.media.urow.find? (fun e => e.2 == rowKey seven group lbn) with
    | some e =>
      let k := (e.1 / 2 ^ 21 + 1, e.1 % 2 ^ 21)
      d.onMedia (fun m => { m with refreshQ := if k ∈ m.refreshQ then m.refreshQ else m.refreshQ ++ [k] })
    | none =>
      if seven && d.wr.foldRows.any (fun f => f.row.group == group && f.row.lbn == lbn) then
        d.foldRelocate (fun r => r.group == group && r.lbn == lbn)
      else d

/-- Goat's rate against its normal one: 4 times while rows of unknown age have not been swept (R126). -/
def Dev.goatRate (d : Dev) : Nat := if d.media.rows.any (fun e => e.2.unknown) then 4 else 1

/-- Goat reads a row next: not one that it leaves out (R137), no row of known age while one of unknown age has not been swept
(R126), and none while the flush latch is set (R151). -/
def Dev.goatTakes (d : Dev) (k : Nat) : Bool :=
  !d.tor.latch && !d.media.skip.contains k &&
    (d.goatRate == 1 || (match SMap.find d.media.rows k with | some i => i.unknown | none => false))

/-- A page asks for the refresh of its row (R120, R127). -/
def goatBad (f : GoatFind) : Bool := decide (3 ≤ f.depth) || f.soft || f.uncorr

/-- The findings of a patrol read on the plane blocks of a row (R131): of its pages, and of every block where the class has reached 12. -/
def Dev.patrolFinds (d : Dev) (group lbn : Nat) (seven : Bool) (best : Nat) (finds : List GoatFind) : Dev :=
  let d := d.each (finds.filter (fun f => goatBad f && decide (f.pos.val < members seven))) (fun d f =>
    let m := d.member seven group f.pos.val
    if f.uncorr then d.addFinds m.1 m.2 lbn [f.plane.val] .uncorr else d.refreshFind m.1 m.2 lbn f.plane.val)
  if 12 ≤ best then
    d.each (d.rowLuns seven group) (fun d m => d.each (List.range 4) (fun d p => d.refreshFind m.1 m.2 lbn p))
  else d

/-- The patrol reads and sweeps a row: `best` is the class with the fewest corrected bits, `finds` what it met on its pages (R124 to
R127, R131). -/
def Dev.patrol (d : Dev) (group lbn : Nat) (seven : Bool) (best : Nat) (finds : List GoatFind) : Dev :=
  let k := rowKey seven group lbn
  if !d.goatTakes k then d
  else
    let d := match SMap.find d.media.rows k with
      | none => d
      | some i =>
        d.classRow k
          { i with swept := true, meas := best % 16, hot := false, unknown := false, inPass := true
                   sweepMean := if i.tfN = 0 then 0 else i.tfSum / i.tfN }
    let d := d.patrolFinds group lbn seven best finds
    if finds.any goatBad ∨ 12 ≤ best then d.refreshRow seven group lbn else d

def execGoatPatrolRead (group lbn : Nat) (seven : Bool) (best : Nat) (finds : List GoatFind) (s : State) :
    Host.Outcome State Fault Refusal :=
  mainDo s (fun d => d.patrol group lbn seven best finds)

/-- 10 minutes after leaving INIT with no Timestamp: rows written before the power-off have an unknown age (R123, R125,
R126). -/
def Dev.ageUnknown (d : Dev) : Dev :=
  if d.host.tsSet then d
  else d.reclass (fun _ i => if i.old then { i with unknown := true, swept := false, inPass := false } else i)

/-- A row written before a power-off after some minutes off at 48 °C (R123): each minute counts as one sample of each of its
channels, as each minute on does. -/
def offRow (seven : Bool) (i : RowInfo) (n : Nat) : RowInfo :=
  if i.old then { i with tfSum := i.tfSum + 192 * (n * members seven), tfN := i.tfN + n * members seven, age := i.age + n } else i

/-- The host sets the Timestamp: within 10 minutes of leaving INIT the time off is known, and counted at 48 °C (R123). DESIGN
CHOICE (assumption 124): where no Timestamp had been set before the power-off the time off cannot be computed, and the ages stay
as they are, with no time off. -/
def Dev.setTime (d : Dev) (ms : Nat) : Dev :=
  let off := (ms - d.media.wall) / 60000
  let soon := decide ((d.tick - d.fw.liveAt) * 5 / 8 < 600000000000)
  let d := if !d.host.tsSet && soon && decide (d.media.wall ≠ 0) then
      d.reclass (fun k i => offRow (keyRow k).1 i off)
    else d
  (d.onMedia (fun m => { m with wall := ms })).onHost (fun h => { h with tsSet := true })

def execTimestampWindowExpiry (s : State) : Host.Outcome State Fault Refusal := mainDo s Dev.ageUnknown

/-! Relocation (R140 to R144). -/

/-- Take the row out of its pool. -/
def Dev.takeRow (d : Dev) (r : Row) : Dev := d.setPool r.seven ((d.pool r.seven).filter (fun x => x != r))

/-- The copy of a zone's row begins (R140 step 1, R144): every member program of the groups below FP has to pass before its
record. -/
def Dev.copyZone (d : Dev) (ix : Nat) (dst : Row) : Dev :=
  let z := d.zd ix
  let src : Row := d.rowOf z.seven z.group z.lbn
  let r : Reloc :=
    { nsx := z.nsx, zone := ix, conv := false, src := src, dst := dst, unit := 0, moved := []
      left := z.fp / groupLbas z.seven * members z.seven }
  (d.takeRow dst).onMedia (fun m => { m with relocs := m.relocs ++ [r] })

/-- The map entries that point into a reclaim unit. -/
def Dev.unitSectors (d : Dev) (nsx unit : Nat) : List (Nat × ConvEnt) :=
  d.media.conv.filter (fun e => e.1 / 2 ^ 40 == nsx && e.2.unit == unit)

/-- The place in a namespace's list of current units of the one that takes relocated data (R60). -/
def gcKey (nsx : Nat) : Nat := 2 ^ 32 + nsx

/-- Room for moved sectors: the place in the unit that takes relocated data now, or in a free one (R60). -/
def Dev.roomFor (d : Dev) (n : Ns) (k : Nat) : Dev × Option Nat :=
  let fresh := fun (_ : Unit) => match d.openUnit n with
    | (d, some u) => (d.onMedia (fun m => { m with curUnit := SMap.put m.curUnit (gcKey n.nsx) (u * 2 ^ 18 + k) }), some (u * 2 ^ 18))
    | (d, none) => (d, none)
  match SMap.find d.media.curUnit (gcKey n.nsx) with
  | some p =>
    if p % 2 ^ 18 + k ≤ 229376 then (d.onMedia (fun m => { m with curUnit := SMap.put m.curUnit (gcKey n.nsx) (p + k) }), some p)
    else fresh ()
  | none => fresh ()

/-- Host data leaves a unit that it had not filled: the handle takes a new one, and an FDP event says so (R59). -/
def Dev.closeUnit (d : Dev) (nsx unit : Nat) : Dev :=
  if (d.curUnits nsx).contains unit then
    (d.onMedia (fun m => { m with curUnit := m.curUnit.filter (fun e => !(e.1 / 128 == nsx && e.2 / 2 ^ 18 == unit)) })).onHost
      (fun x => { x with fdp := x.fdp ++ [0] })
  else d

/-- The row on which a unit stands. -/
def Dev.unitRow (d : Dev) (nsx unit : Nat) : Row :=
  let k := (SMap.find d.media.urow (unitKey nsx unit)).getD 0
  d.rowOf false (keyGroup k) (keyLbn k)

/-- The copy of a unit's valid sectors to a place of a unit begins (R140 step 1). -/
def Dev.copyInto (d : Dev) (n : Ns) (unit place : Nat) : Dev :=
  let d := d.closeUnit n.nsx unit
  let moved := d.unitSectors n.nsx unit
  let r : Reloc :=
    { nsx := n.nsx, zone := 0, conv := true, src := d.unitRow n.nsx unit, dst := d.unitRow n.nsx (place / 2 ^ 18), unit := unit
      moved := moved, left := (moved.length + 895) / 896 * 16, tgt := place / 2 ^ 18, at_ := place % 2 ^ 18 }
  d.onMedia (fun m => { m with relocs := m.relocs ++ [r] })

/-- A unit is being copied. -/
def Dev.unitMoves (d : Dev) (nsx unit : Nat) : Bool :=
  d.media.relocs.any (fun x => x.conv && x.nsx == nsx && (x.unit == unit || x.tgt == unit))

/-- A unit's valid sectors move, where there is room for them (R60, R142). -/
def Dev.copyUnit (d : Dev) (n : Ns) (unit : Nat) : Dev :=
  if d.unitMoves n.nsx unit ∨ (SMap.find d.media.units (unitKey n.nsx unit)).isNone then d
  else match d.roomFor n (d.unitSectors n.nsx unit).length with
    | (d, some t) => d.copyInto n unit t
    | (d, none) => d

/-- A row for a copy: never one that an Empty zone's backing needs (R53), so the pool first takes one more; a row that
awaits its erase is no target yet. -/
def Dev.copyRow (d : Dev) (seven : Bool) (nsx : Nat) (pick : Dev → Option Row) : Dev × Option Row :=
  let home := d.homeOf nsx
  let d := if (d.emptyAt home seven).length < (d.poolAt home seven).length then d else d.fillPool home seven
  if (d.poolAt home seven).length ≤ (d.emptyAt home seven).length then (d, none)
  else match pick d with
    | some r => if r.stale then (d.prepRow r, none) else (d, some r)
    | none => (d, none)

/-- A zone may be copied whole now (R144): it holds data, nothing copies it, and no program group of it is in flight. -/
def Dev.copyable (d : Dev) (ix : Nat) : Bool :=
  let z := d.zd ix
  (z.active || decide (z.st = zFull) || decide (z.st = zRO)) && !d.media.relocs.any (fun r => !r.conv && r.zone == ix) &&
    !d.wr.groups.any (fun g => g.ix == ix && !g.failed)

/-- REFRESH_RELOCATION (R127, R144): a zone's whole row, or a reclaim unit; none of a zone that waits for
a remap, none outside the flash window (R85), and none while the flush latch is set (R151). -/
def Dev.refresh (d : Dev) (nsid zone : Nat) : Dev :=
  if d.fwFlag || d.tor.latch then d
  else match d.nsOf nsid with
    | none => d
    | some n =>
      let d := d.onMedia (fun m => { m with refreshQ := m.refreshQ.filter (· != (nsid, zone)), refreshes := m.refreshes + 1 })
      if !n.zoned then d.copyUnit n zone
      else
        let ix := n.base + zone
        let z := d.zd ix
        if zone < n.nzones ∧ d.copyable ix then
          match d.copyRow z.seven z.nsx (fun d => d.bestRow z.seven z.nsx) with
          | (d, some r) => (d.each (groupChannels z.seven z.group) (fun d ch => d.mediaStat ch 12 1)).copyZone ix r
          | (d, none) => d
        else d

def execRefreshRelocation (nsid zone : Nat) (s : State) : Host.Outcome State Fault Refusal :=
  mainDo s (fun d => d.refresh nsid zone)

/-- The victim of garbage collection: the unit with the fewest valid sectors, not one that data fills or that is being
copied (R142). DESIGN CHOICE (assumption 125): the lowest unit of several with as few. -/
def Dev.victimUnit (d : Dev) (nsx : Nat) : Option (Nat × Nat) :=
  let cur := (SMap.find d.media.curUnit (gcKey nsx)).map (fun p => p / 2 ^ 18)
  ((d.media.units.filter (fun e => e.1 / 2 ^ 21 == nsx && some (e.1 % 2 ^ 21) != cur && !(d.curUnits nsx).contains (e.1 % 2 ^ 21) &&
      !d.unitMoves nsx (e.1 % 2 ^ 21))).map (fun e => (e.1 % 2 ^ 21, e.2))).foldl
    (fun b x => match b with | none => some x | some y => if x.2 < y.2 then some x else some y) none

/-- GARBAGE_COLLECTION (R142, R143): below half the reserve; what the copy of a unit frees it lets in once the copy has passed. -/
def Dev.gc (d : Dev) (nsid : Nat) : Dev :=
  match d.nsOf nsid with
  | none => d
  | some n =>
    if n.zoned ∨ n.reserve ≤ 2 * n.freeRu ∨ d.fwFlag ∨ d.tor.latch then d
    else match d.victimUnit n.nsx with
      | none => d.protectCheck n.nsx
      | some (u, valid) =>
        let d := d.copyUnit n u
        d.onMedia (fun m => { m with relocs := m.relocs.map (fun (r : Reloc) =>
          if r.conv ∧ r.nsx = n.nsx ∧ r.unit = u then { r with credit := 229376 - valid } else r) })

def execGarbageCollection (nsid : Nat) (s : State) : Host.Outcome State Fault Refusal :=
  mainDo s (fun d => d.gc nsid)

/-- The wear of the rows of a channel, in the parts of `equiv`: free ones, those of the flush area, written ones, and those that nothing
has held yet. -/
def Dev.chWear (d : Dev) (ch : Nat) : List Nat :=
  (if 0 < d.rowsLeft (ch / 16) then [0] else []) ++
  ((d.media.pool14 ++ d.media.pool7 ++ d.media.uFree ++ d.wr.foldFree ++ d.wr.flushRows).filter (fun r =>
      ch ∈ groupChannels r.seven r.group)).map (fun r => d.equiv r.wear r.slc) ++
    (d.media.rows.filter (fun e => ch ∈ groupChannels (keyRow e.1).1 (keyRow e.1).2.1)).map (fun e => d.equiv e.2.wear e.2.slc)

/-- The minutes since a row was programmed. -/
def Dev.rowAge (d : Dev) (k : Nat) : Nat := match SMap.find d.media.rows k with | some i => i.age | none => 0

/-- The coldest Full zone of a channel: the one whose row was programmed longest ago (assumption 20). -/
def Dev.coldest (d : Dev) (ch : Nat) : Option Nat :=
  let age := fun ix => d.rowAge (rowKey (d.zd ix).seven (d.zd ix).group (d.zd ix).lbn)
  (d.zones (fun z => decide (z.st = zFull) && decide (ch ∈ groupChannels z.seven z.group))).foldl
    (fun b x => match b with | none => some x | some y => if age y < age x then some x else some y) none

/-- The coldest reclaim unit of a channel that nothing fills or copies: its key and its row. -/
def Dev.coldUnit (d : Dev) (ch : Nat) : Option (Nat × Nat) :=
  (d.media.urow.filter (fun e => decide (ch ∈ groupChannels false (keyGroup e.2)) && !d.unitMoves (e.1 / 2 ^ 21) (e.1 % 2 ^ 21) &&
      !d.media.curUnit.any (fun c => c.2 / 2 ^ 18 == e.1 % 2 ^ 21 && (c.1 / 128 == e.1 / 2 ^ 21 || c.1 == gcKey (e.1 / 2 ^ 21))))).foldl
    (fun b x => match b with | none => some x | some y => if d.rowAge y.2 < d.rowAge x.2 then some x else some y) none

/-- The coldest reclaim unit moves into a unit on the most worn free row (R130). -/
def Dev.levelUnit (d : Dev) (k : Nat) : Dev :=
  match d.media.nss.find? (fun n => n.nsx == k / 2 ^ 21) with
  | none => d
  | some n =>
    let worst := ((d.unitFree n.home).filter (fun r => d.ownsGroup false r.group && !r.stale)).foldl
      (fun b r => match b with | none => some r | some x => if d.due x < d.due r then some r else some x) none
    match worst with
    | none => d
    | some r =>
      let x := d.unitOn n r
      x.1.copyInto n (k % 2 ^ 21) (x.2 * 2 ^ 18)

/-- WEAR_LEVELLING (R130): a spread over a tenth of the rated cycles moves the coldest Full zone or reclaim unit of the channel
into the most worn free row. -/
def Dev.level (d : Dev) (ch : Nat) : Dev :=
  let ws := d.chWear ch
  let hi := ws.foldl Nat.max 0
  let lo := ws.foldl Nat.min hi
  if 10 * (hi - lo) ≤ d.board.ratedQlc * d.board.ratedSlc ∨ d.fwFlag ∨ d.tor.latch then d
  else
    let zoneAge := fun ix => d.rowAge (rowKey (d.zd ix).seven (d.zd ix).group (d.zd ix).lbn)
    match d.coldest ch, d.coldUnit ch with
    | none, none => d
    | none, some u => d.levelUnit u.1
    | some ix, u =>
      if (match u with | some u => decide (zoneAge ix < d.rowAge u.2) | none => false) then
        (match u with | some u => d.levelUnit u.1 | none => d)
      else if !d.copyable ix then d
      else match d.copyRow (d.zd ix).seven (d.zd ix).nsx (fun d => d.worstRow (d.zd ix).seven (d.zd ix).nsx) with
        | (d, some r) => d.copyZone ix r
        | (d, none) => d

def execWearLevelling (ch : Ch) (s : State) : Host.Outcome State Fault Refusal := mainDo s (fun d => d.level ch.val)

/-- The sectors of a zone below FP stand in its new row too; the old row keeps its copies until its erase (R140). -/
def Dev.moveRow (d : Dev) (z : Zd) (group lbn : Nat) : Dev :=
  d.each (List.range z.fp) (fun d o =>
    match SMap.find d.media.flash (d.zoneKey z.seven z.group z.lbn o) with
    | some s => d.onMedia (fun m => { m with flash := SMap.put m.flash (d.zoneKey z.seven group lbn o) s })
    | none => d)

/-- The old row of a zone is queued for erase, once the reads that sampled its old descriptor have ended (R144). -/
def Dev.releaseRow (d : Dev) (ix : Nat) (r : Row) : Dev :=
  if d.readsOf ix then d.onMedia (fun m => { m with eraseHold := m.eraseHold ++ [(ix, r)] }) else d.queueErase r

/-- Commit a zone's move (R140 step 2, R144); the old row is queued for erase and, while it is whole, is free again then (R132). -/
def Dev.commitZone (d : Dev) (r : Reloc) : Dev :=
  let z := d.zd r.zone
  if z.nsx = r.nsx ∧ z.seven = r.src.seven ∧ z.group = r.src.group ∧ z.lbn = r.src.lbn ∧
      (z.active ∨ z.st = zFull ∨ z.st = zRO) then
    let d := d.moveRow z r.dst.group r.dst.lbn
    let d := d.journal (.relocZ z.nsx r.zone z.group z.lbn r.dst.group r.dst.lbn)
    let d := (d.setZd r.zone { z with group := r.dst.group, lbn := r.dst.lbn })
    let d := d.rowStart z.seven r.dst.group r.dst.lbn r.dst.wear r.dst.slc
    let d := (d.releaseRow r.zone r.src).onWr (fun w => { w with groups := w.groups.filter (fun g => !(g.failed && g.ix == r.zone)) })
    if d.rowDead r.src then d else d.setPool z.seven (d.pool z.seven ++ [r.src])
  else (d.queueErase r.dst).setPool r.dst.seven (d.pool r.dst.seven ++ [{ r.dst with dirty := true }])

/-- Commit a unit's move: an entry moves only if it still points into the source unit (R142); the source unit is released, and
its row queued for erase (R140). An FDP event says that data has moved (R59). Below a quarter of the reserve the LBAs copied let in host
writes (R143). -/
def Dev.commitUnit (d : Dev) (r : Reloc) : Dev :=
  match d.media.nss.find? (fun n => n.nsx == r.nsx) with
  | none => d
  | some n =>
    let d := d.journal (.relocC n.nsx r.unit [rowKey false r.dst.group r.dst.lbn] r.moved.length)
    let d := if r.credit = 0 ∨ n.reserve ≤ 4 * n.freeRu then d
      else d.onMedia (fun m =>
        { m with gcCredit := SMap.set (fun _ => 0) m.gcCredit n.nsx (SMap.get (fun _ => 0) m.gcCredit n.nsx + r.credit) })
    let held := r.moved.zipIdx.filter (fun e => match SMap.find d.media.conv e.1.1 with
      | some c => decide (c.unit = r.unit) && decide (c.sec = e.1.2.sec)
      | none => false)
    let place := fun (e : (Nat × ConvEnt) × Nat) => r.tgt * 2 ^ 18 + r.at_ + e.2
    let d := d.each held (fun d e => d.mapSector n.nsx (place e) (e.1.1 % 2 ^ 40) e.1.2.sec)
    let d := if d.unitSectors n.nsx r.unit = [] then d.freeUnit n.nsx r.unit else d
    let d := d.onMedia (fun m =>
      { m with nss := m.nss.map (fun x => if x.nsx = n.nsx ∧ 2 ≤ x.freeRu then { x with prot := false } else x) })
    let d := if r.moved.isEmpty then d else d.onHost (fun x => { x with fdp := x.fdp ++ [0x80] })
    let d := d.sendMap (held.map (fun e => (e.1.1, place e)))
    (d.protectCheck n.nsx).pump

/-- A copy may commit: every member program of it has passed (R140). -/
def Reloc.ready (r : Reloc) : Bool := decide (r.left = 0) && !r.failed


/-! Retirement (R131, R132). -/


/-- The remap entry for an LBN: the one in use, or the next free one. -/
def Dev.remapSlot (d : Dev) (ch l plane lbn used : Nat) : Nat :=
  match (List.range used).find? (fun j =>
      let w := d.tblWord false ch ((4 * l + plane) * 512 + j)
      w.getLsbD 31 && decide (natFld w.toNat 27 14 = lbn)) with
  | some j => j
  | none => used

/-- Refresh is wanted of every unit whose row a member block belongs to. -/
def Dev.refreshUnits (d : Dev) (ch l lbn : Nat) : Dev :=
  d.each (d.media.urow.filter (fun e => decide (keyLbn e.2 = lbn) && d.inGroup false (keyGroup e.2) ch l)) (fun d e =>
    d.refreshRow false (keyGroup e.2) lbn)


/-- The row of a member block loses its backing (R132): a zone goes Read Only or is relocated, a reclaim unit is relocated, Fold
and the pools shrink. -/
def Dev.loseRow (d : Dev) (ch l lbn : Nat) : Dev :=
  let zs := (d.zones (fun z => (z.active || decide (z.st = zFull) || decide (z.st = zRO)) && decide (z.lbn = lbn))).filter
    (fun ix => d.inGroup (d.zd ix).seven (d.zd ix).group ch l)
  let hit := fun (r : Row) => decide (r.lbn = lbn) && d.inGroup r.seven r.group ch l
  let gone := d.media.uFree.filter hit
  let lost := (d.media.pool14 ++ d.media.pool7 ++ d.media.uFree ++ d.wr.foldFree).filter (fun r => hit r && !d.media.eraseQ.any (fun x =>
    x.seven == r.seven && x.group == r.group && x.lbn == r.lbn))
  let d := d.onMedia (fun m => { m with deadWear := m.deadWear + d.wearOf lost })
  let d := d.onMedia (fun m =>
    { m with
      pool14 := m.pool14.filter (fun r => !hit r), pool7 := m.pool7.filter (fun r => !hit r), uFree := m.uFree.filter (fun r => !hit r)
      dead := m.dead ++ [(ch * 32 + l, lbn)] })
  let d := (d.onWr (fun w => { w with foldFree := w.foldFree.filter (fun r => !hit r) })).foldLose hit
  let d := d.each zs (fun d ix =>
    if (d.zd ix).active then d.readOnlyZone ix (d.zstart ix) else d.wantRefresh (d.zd ix).nsx (d.zstart ix))
  let d := d.refreshUnits ch l lbn
  let d := d.each gone (fun d r => d.loseUnit (d.rowHome r))
  (((d.backing false).backing true).capacityCheck).pumpOpens

/-- The findings of one kind on a plane block, from a time on. -/
def Dev.foundOf (d : Dev) (ch l plane lbn : Nat) (why : Finding) (since : Nat) : Nat :=
  (d.media.finds.filter (fun f => f.1 == blkKey ch l plane lbn && decide (f.2.1 = why) && decide (since ≤ f.2.2))).length

/-- The row of a member block holds data now. -/
def Dev.rowInUse (d : Dev) (ch l lbn : Nat) : Bool :=
  d.media.rows.any (fun e => decide (keyLbn e.1 = lbn) && d.inGroup (decide (2 ^ 23 ≤ e.1)) (keyGroup e.1) ch l)

/-- The erases of a member block, in the parts of `equiv`. -/
def Dev.blkWear (d : Dev) (ch l lbn : Nat) : Nat :=
  let free := (d.media.pool14 ++ d.media.pool7 ++ d.media.uFree ++ d.wr.foldFree ++ d.media.eraseQ).filter
    (fun r => decide (r.lbn = lbn) && d.inGroup r.seven r.group ch l)
  free.foldl (fun m r => Nat.max m (d.equiv r.wear r.slc)) 0

/-- A plane block is to be retired (R131): at once after a failed program or erase; after the relocation of its row where a read
had to be rebuilt, where the findings of R127 came twice within 30 days, or where programs were slow three times; at its next
erase where erases were slow three times or it has worn to twice the rated cycles. -/
def Dev.retireDue (d : Dev) (ch l plane lbn : Nat) : Bool :=
  let n := fun why since => d.foundOf ch l plane lbn why since
  decide (0 < n .progFail 0) || decide (0 < n .eraseFail 0) ||
    (!d.rowInUse ch l lbn &&
      (decide (0 < n .uncorr 0) || decide (2 ≤ n .refresh (d.ns - 2592000000000000)) || decide (3 ≤ n .slowProg 0) ||
        decide (3 ≤ n .slowErase 0) || decide (2 * d.board.ratedQlc * d.board.ratedSlc ≤ d.blkWear ch l lbn)))

/-- The good spares of a (LUN, plane), in order: those that the maker has not marked (R129). -/
def Dev.goodSpares (d : Dev) (ch l plane : Nat) : List Nat :=
  ((List.range d.board.spares).map (d.board.nlb + ·)).filter (fun b => !d.board.badBlocks.contains (ch, l, plane, b))

/-- A spare takes the place of a plane block, with what the block holds, copied or rebuilt; the block itself is never erased again and
keeps its contents (R128, R132, R140). -/
def Dev.toSpare (d : Dev) (ch l plane lbn new used : Nat) : Dev :=
  let old := d.pblkOf ch l plane lbn
  let j := d.remapSlot ch l plane lbn used
  let at_ := fun (k : Nat) => decide (k / 16384 / 16384 = ch * 32 + l) && decide (k / 16384 % 16384 = old) && decide (k / 4 % 4 = plane)
  let there := fun (k : Nat) => (ch * 32 + l) * 16384 * 16384 + new * 16384 + k % 16384
  let d := d.setTbl false ch ((4 * l + plane) * 512 + j) (BitVec.ofNat 32 (2 ^ 31 + lbn % 16384 * 2 ^ 14 + new % 16384))
  d.onMedia (fun m =>
    { m with
      spareUse := SMap.put m.spareUse ((ch * 32 + l) * 4 + plane) (used + 1)
      flash := (m.flash.filter (fun e => at_ e.1)).foldl (fun f e => SMap.put f (there e.1) e.2) m.flash })

/-- The programs that a copy of a plane block takes (R140): a word line at a time in QLC mode, a page in SLC mode. -/
def Dev.copyPrograms (d : Dev) (ch l plane lbn : Nat) : Nat :=
  let old := d.pblkOf ch l plane lbn
  let slc := d.media.rows.any (fun e => decide (e.2.cls = 15) && decide (keyLbn e.1 = lbn) && d.inGroup (decide (2 ^ 23 ≤ e.1)) (keyGroup e.1) ch l)
  let pages := (d.media.flash.filter (fun e => decide (e.1 / 16384 / 16384 = ch * 32 + l) && decide (e.1 / 16384 % 16384 = old) &&
    decide (e.1 / 4 % 4 = plane))).map (fun e => e.1 % 16384 / 16)
  ((if slc then pages else pages.map (· / 4)).dedup).length

/-- A spare that holds the block's data takes its place, and the record says so (R132, R140); the program groups and copies that had
failed there are programmed again on the new block (R54). -/
def Dev.remapTo (d : Dev) (ch l plane lbn new used : Nat) : Dev :=
  let old := d.pblkOf ch l plane lbn
  let d := d.toSpare ch l plane lbn new used
  let d := d.journal (.remap ch l plane lbn old new true)
  let d := d.onWr (fun w =>
    { w with groups := w.groups.map (fun (g : Grp) =>
      if g.failed && d.grpOn g ch l lbn then { g with failed := false, left := members (decide (2 ^ 23 ≤ g.row)), passed := [] } else g) })
  d.onMedia (fun m => { m with relocs := m.relocs.map (fun (r : Reloc) =>
    if r.failed && d.copyOn r ch l lbn then { r with failed := false, left := r.left + 1 } else r) })

/-- RELOCATION_COMMIT: the oldest copy that has passed, of a row or else of a plane block; none while the flush latch is set (R140,
R151). -/
def Dev.commitReloc (d : Dev) : Dev :=
  if d.tor.latch then d
  else match d.media.relocs.find? Reloc.ready with
    | some r =>
      let d := d.onMedia (fun m => { m with relocs := m.relocs.erase r })
      (if r.conv then d.commitUnit r else d.commitZone r).capacityCheck
    | none =>
      match d.media.spareCopies.find? (fun c => decide (c.left = 0)) with
      | some c =>
        let used := SMap.get (fun _ => 0) d.media.spareUse ((c.ch * 32 + c.l) * 4 + c.plane)
        (d.onMedia (fun m => { m with spareCopies := m.spareCopies.erase c })).remapTo c.ch c.l c.plane c.lbn c.new (used - 1)
      | none => d

def execRelocationCommit (s : State) : Host.Outcome State Fault Refusal := mainDo s Dev.commitReloc

/-- BLOCK_RETIREMENT: where a finding asks for it, a spare takes the block's place, once what the block holds has been copied to it, or
the row loses its backing (R131, R132, R140); none while the flush latch is set (R151), while its LUN is out of service (R131), or while
another block of its plane is being copied. -/
def Dev.retire (d : Dev) (ch l plane lbn : Nat) : Dev :=
  if !d.retireDue ch l plane lbn ∨ d.tor.latch ∨ (SMap.find d.media.oos (ch * 32 + l)).isSome ∨
      d.media.spareCopies.any (fun c => c.ch == ch && c.l == l && c.plane == plane) then d
  else
    let used := SMap.get (fun _ => 0) d.media.spareUse ((ch * 32 + l) * 4 + plane)
    let d := ((d.onMedia (fun m =>
      { m with retired := m.retired + 1, finds := m.finds.filter (fun f => f.1 != blkKey ch l plane lbn) })).mediaStat ch 11 1).fwPost
        (0x0400 + ch) (Config.evCode 12) 3 (lbn + plane * 2 ^ 16 + l * 2 ^ 24)
    let d := match (d.goodSpares ch l plane)[used]? with
      | some new =>
        if d.sparesOf ≤ used then d.loseRow ch l lbn
        else if d.copyPrograms ch l plane lbn = 0 then d.remapTo ch l plane lbn new used
        else d.onMedia (fun m =>
          { m with
            spareUse := SMap.put m.spareUse ((ch * 32 + l) * 4 + plane) (used + 1)
            spareCopies := m.spareCopies ++ [({ ch := ch, l := l, plane := plane, lbn := lbn, new := new, left := d.copyPrograms ch l plane lbn } : SpareCopy)] })
      | none => d.loseRow ch l lbn
    d.spareCheck

def execBlockRetirement (ch : Ch) (l : LunN) (plane : Fin 4) (lbn : Nat) (s : State) :
    Host.Outcome State Fault Refusal :=
  mainDo s (fun d => d.retire ch.val l.val plane.val lbn)

/-! Checkpoints and the flush area (R147, R148). -/

/-- The segments of the conventional map that hold an entry: namespace and number. -/
def Dev.mapSegs (d : Dev) : List (Nat × Nat) :=
  (d.media.conv.map (fun e => (e.1 / 2 ^ 40, e.1 % 2 ^ 40 / Config.mapSeg))).dedup

/-- The last checkpoint in bulk, of the namespaces of a test (R233, R241). -/
def Dev.ckptBulk (d : Dev) (p : Nat → Bool) : Dev :=
  d.sendFrame (.bulk bulkCkpt (.ckpt (d.media.ckptZt.filter (fun e => p (Zd.ofWord e.2).nsx))
    ((d.media.ckptMap.filter (fun e => p (e.1 / 2 ^ 40))).map (fun e => (e.1, e.2.unit * 2 ^ 18 + e.2.ofs)))))

/-- CHECKPOINT (R147, R283): the zone table, in the half of the region that does not hold the last one, the time-and-temperature
means, and the segments of the conventional map, in SLC rows of flash; each has its CKPT record. The records up to now need no
replay, and admission that the ring held goes on. DESIGN CHOICE (assumption 127): regions 0 zone table, 1 map, 2 means, 3 flush
rows; a segment's number in its namespace stands below 2^20; the place of a map segment on flash is a free value. -/
def Dev.checkpoint (d : Dev) : Dev :=
  let seqn := d.media.jseq
  let half := !d.media.ckptHalf
  let d := d.onMedia (fun m =>
    { m with ckptZt := m.zt, ckptMap := m.conv, ckptRows := m.rows, ckptSeq := m.jseq, ckptHalf := half, jhold := false })
  let d := d.journal (.ckpt 0 0 (if half then 0x1800000 else 0x2000000) seqn)
  let d := d.journal (.ckpt 2 0 0x2800000 seqn)
  let d := d.each d.mapSegs (fun d s => (d.journal (.ckpt 1 (s.1 * 2 ^ 20 + s.2 % 2 ^ 20) (Config.freeNat d.free) seqn)).draw)
  let d := if d.tees then
      let mine := fun (nsx : Nat) => decide (d.fw.role ≠ .duo) || d.homeOf nsx == d.board.pairId
      d.ckptBulk mine
    else d
  d.pump

def execCheckpoint (s : State) : Host.Outcome State Fault Refusal := mainDo s Dev.checkpoint

/-- The flush area is to be erased again before it has stood 7 days; nothing of it is in use outside INIT (R130, R148). Its rows are queued
for erase in SLC mode, and it is chosen again from erased ones, so that it is erased at all times. -/
def Dev.eraseFlushArea (d : Dev) : Dev :=
  if d.tor.latch ∨ !d.fw.replayed then d
  else
    let old := d.wr.flushRows.map (fun r => ({ r with dirty := true, inSlc := true } : Row))
    let d := d.each old Dev.queueErase
    (d.onWr (fun w => { w with flushRows := [], foldFree := w.foldFree ++ old })).chooseFlush

def execFlushAreaDwellExpiry (s : State) : Host.Outcome State Fault Refusal := mainDo s Dev.eraseFlushArea

end Sys2Proof.Machine
end

