-- ==== Sys2Proof/Machine/Recovery.lean ====
section
/-! DEFINITION. Recovery and replay (R153, R154), first configuration (R404), and entering SOLO (R29, R245). -/

namespace Sys2Proof.Machine

/-! Replay (R153 step 3). -/

/-- A zone table after a record; others leave it as it is. -/
def replayZt (zt : SMap (BitVec 128)) (r : JRec) : SMap (BitVec 128) :=
  let up := fun (ix : Nat) (f : Zd → Zd) => SMap.set zt0 zt ix (f (Zd.ofWord (SMap.get zt0 zt ix))).word
  match r.body with
  | .zopen nsx ix group lbn zseq seven =>
    up ix (fun z => { z with st := zImp, nsx := nsx, group := group, lbn := lbn, zseq := zseq, seven := seven, colok := true })
  | .stripe _ ix grp wp =>
    if ix < 2 ^ 20 ∧ 0 < (SMap.get zt0 zt ix).toNat then
      up ix (fun z => { z with fp := (grp + 1) * groupLbas z.seven, wp := Nat.max z.wp wp
                               st := if wp = zcap z.seven ∧ z.active then zFull else z.st })
    else zt
  | .zstate _ ix st wp => up ix (fun z => { z with st := st, wp := wp, colok := if st = zRO then false else z.colok })
  | .zreset _ ix zseq _ _ => up ix (fun z => { z with st := zEmpty, wp := 0, fp := 0, zseq := zseq, group := 0, lbn := 0 })
  | .relocZ _ ix _ _ g l => up ix (fun z => { z with group := g, lbn := l })
  | _ => zt

/-- The records that replay takes: those after the checkpoint, its own and the peer's (R153 step 3, R234). -/
def Dev.replays (d : Dev) : List JRec := d.media.journal.filter (fun r => decide (d.media.ckptSeq < r.seq))

/-- The program groups of a row, from the first on, whose every sector stands on flash with a seal of a zone (R118, R160). -/
def Dev.sealGroups (d : Dev) (seven : Bool) (group lbn nsx zs gen : Nat) : Nat :=
  let n := groupLbas seven
  let whole := fun (g : Nat) => (List.range n).all (fun i =>
    match SMap.find d.media.flash (d.zoneKey seven group lbn (g * n + i)) with
    | some s => decide (s.nsx = nsx ∧ s.lba = zs + g * n + i ∧ s.gen = gen)
    | none => false)
  ((List.range (zcap seven / n)).takeWhile whole).length

/-- The descriptor of a zone as the sector seals of the written rows give it (R118, R153 step 2): of the rows that claim its first LBA the
one with the later GEN, up to its last whole program group. DESIGN CHOICE (assumption 127): one that no row claims keeps the ZSEQ of the
checkpoint. -/
def Dev.sealZone (d : Dev) (n : Ns) (ix : Nat) : Zd :=
  let zs := (ix - n.base) * zsze n.seven
  let z := Zd.ofWord (SMap.get zt0 d.media.ckptZt ix)
  let claims := d.media.rows.filterMap (fun e =>
    let r := keyRow e.1
    if r.1 = n.seven then
      match SMap.find d.media.flash (d.zoneKey r.1 r.2.1 r.2.2 0) with
      | some s => if s.nsx = n.nsx ∧ s.lba = zs then some (r.2.1, r.2.2, s.gen) else none
      | none => none
    else none)
  let best := claims.foldl (fun b c => match b with
    | none => some c
    | some x => if laterGen c.2.2 x.2.2 then some c else some x) none
  match best with
  | none => { z with st := zEmpty, nsx := n.nsx, seven := n.seven, group := 0, lbn := 0, wp := 0, fp := 0 }
  | some (g, l, gen) =>
    let fp := d.sealGroups n.seven g l n.nsx zs gen * groupLbas n.seven
    { z with st := if fp = zcap n.seven then zFull else zClosed, nsx := n.nsx, seven := n.seven, group := g, lbn := l, wp := fp, fp := fp
             zseq := gen, colok := true, kslot := n.slot, pen := n.pen }

/-- The zone table of the last checkpoint, with the segments that fail their check rebuilt from seals (R153 step 2). DESIGN CHOICE
(assumption 127): a segment holds 256 descriptors, as a sector of the array does; the name 1,024 stands for the table. -/
def Dev.ztBase (d : Dev) (segs : List (Nat × Nat)) : SMap (BitVec 128) :=
  let hit := fun (ix : Nat) => segs.any (fun s => s.1 == 1024 && s.2 == ix / 256)
  if !segs.any (fun s => s.1 == 1024) then d.media.ckptZt
  else
    (d.media.nss.filter (·.zoned)).foldl (fun t n =>
      (((List.range n.nzones).map (n.base + ·)).filter hit).foldl (fun t ix => SMap.set zt0 t ix (d.sealZone n ix).word) t)
      (SMap.keep (fun ix => !hit ix) d.media.ckptZt)

/-- The live zone table: the checkpoint and the records after it, in SEQ order. -/
def Dev.replayed (d : Dev) (segs : List (Nat × Nat)) : SMap (BitVec 128) := d.replays.foldl replayZt (d.ztBase segs)

/-- Step 4 (R141): an ERASE of a row that a zone still had by the records before it, or one that no release led to, which is what its
reason 0 says (assumption 17). -/
def orderBad (sv : Nat → Bool) : RowUse → List JRec → Bool
  | _, [] => false
  | u, r :: t =>
    (match r.body with
      | .erase _ g l why => u.used.contains (g, l) || decide (why = 0)
      | _ => false) || orderBad sv (u.after sv r) t

/-- The rows that zones of the last checkpoint have. -/
def Dev.ckptUse (d : Dev) : RowUse :=
  { used := d.media.ckptZt.filterMap (fun e =>
      let z := Zd.ofWord e.2
      if z.active ∨ z.st = zFull ∨ z.st = zRO then some (groupCode z.seven z.group, z.lbn) else none)
    freed := [] }

/-- Step 4: what the ring shows by itself, and what it shows of the rows that the checkpoint has. -/
def Dev.orderBroken (d : Dev) : Bool :=
  orderBad d.zoneSeven { used := [], freed := [] } d.media.journal || orderBad d.zoneSeven d.ckptUse d.replays

/-- An entry of the map goes back to what it was before: the latest sector that it had, or what the checkpoint has of it (R147, R153). -/
def Dev.mapBack (d : Dev) (k : Nat) : Dev :=
  let before := (d.media.old.filter (fun o => o.1 == k)).foldl (fun b o => match b with
    | none => some o.2
    | some x => if laterGen o.2.sec.gen x.sec.gen then some o.2 else some x) none
  let now := SMap.find d.media.conv k
  let back := match before with | some e => some e | none => (SMap.find d.media.ckptMap k).filter (fun e => decide (some e ≠ now))
  d.onMedia (fun m =>
    { m with
      conv := match back with | some e => SMap.put m.conv k e | none => SMap.del m.conv k
      old := match before with | some e => m.old.erase (k, e) | none => m.old
      units := match back with
        | some e =>
          let u := unmapUnit m (k / 2 ^ 40) k
          SMap.put u (unitKey (k / 2 ^ 40) e.unit) ((SMap.find u (unitKey (k / 2 ^ 40) e.unit)).getD 0 + 1)
        | none => unmapUnit m (k / 2 ^ 40) k })

/-- A record that replay ignores has no effect: the map, Fold and the remap entries stand as they did before it (R153). -/
def Dev.undo (d : Dev) (r : JRec) : Dev :=
  match r.body with
  | .stripe nsx u grp _ =>
    if d.media.nss.any (fun n => n.nsx == nsx && !n.zoned) then
      d.each ((d.media.conv.filter (fun e => e.1 / 2 ^ 40 == nsx && e.2.unit == u && e.2.ofs / 896 == grp)).map Prod.fst) Dev.mapBack
    else d
  | .relocC nsx src rows _ =>
    let into := fun (e : ConvEnt) => match SMap.find d.media.urow (unitKey nsx e.unit) with | some k => rows.contains k | none => false
    d.each ((d.media.conv.filter (fun e => e.1 / 2 ^ 40 == nsx && into e.2 &&
      d.media.old.any (fun o => o.1 == e.1 && o.2.unit == src && decide (o.2.sec = e.2.sec)))).map Prod.fst) Dev.mapBack
  | .foldput nsx _ lba n row unit =>
    d.onWr (fun w => { w with fold := w.fold.filter (fun c =>
      !(c.nsx == nsx && decide (lba ≤ c.lba) && decide (c.lba < lba + n) && c.row == row && decide (unit ≤ c.unit))) })
  | .remap ch l plane lbn old _ _ =>
    match (d.remapPlaces ch l plane).find? (fun j =>
        let w := d.tblWord false ch ((4 * l + plane) * 512 + j)
        w.getLsbD 31 && decide (natFld w.toNat 27 14 = lbn)) with
    | some j => d.setTbl false ch ((4 * l + plane) * 512 + j)
        (if old = lbn then 0 else BitVec.ofNat 32 (2 ^ 31 + lbn % 16384 * 2 ^ 14 + old % 16384))
    | none => d
  | _ => d

/-- The records that step 1 ignores: from the first one that does not count on. -/
def Dev.ringLost (d : Dev) : List JRec := d.media.journal.dropWhile d.recordCounts

/-- Step 1: the records up to the first one that does not count; those after it are ignored. The ring goes on behind them, and
SEQ behind what the checkpoint covers. -/
def Dev.ringScan (d : Dev) : Dev :=
  let good := d.media.journal.takeWhile d.recordCounts
  if good = d.media.journal then d
  else d.onMedia (fun m =>
    { m with journal := good, jseq := Nat.max m.ckptSeq (match good.getLast? with | some r => r.seq | none => 0)
             ringHead := if good = [] then 0 else (m.ringHead / 128 + 1) * 128 % ringWords })

/-- Rows and zones agree after a replay that ignores records: a row that a zone has leaves the free rows, and a written row of no zone,
unit or Fold copy is queued for erase and free again (R153, R154). -/
def Dev.sweepRows (d : Dev) : Dev :=
  let has := fun (seven : Bool) (g l : Nat) => (d.zoneAt seven g l).isSome
  let free := fun (r : Row) => !has r.seven r.group r.lbn
  let lost := (d.media.rows.map Prod.fst).filter (fun k =>
    let r := keyRow k
    !has r.1 r.2.1 r.2.2 && !d.media.urow.any (fun e => e.2 == k) && !d.wr.foldRows.any (fun f => rowKey true f.row.group f.row.lbn == k) &&
      !d.media.eraseHold.any (fun e => rowKey e.2.seven e.2.group e.2.lbn == k))
  let d := d.onMedia (fun m => { m with pool14 := m.pool14.filter free, pool7 := m.pool7.filter free, eraseQ := m.eraseQ.filter free })
  d.each lost (fun d k =>
    let r := keyRow k
    let row := d.rowOf r.1 r.2.1 r.2.2
    let d := d.queueErase row
    if d.rowDead row || d.rowFree row then d else d.setPool r.1 (d.pool r.1 ++ [row]))

/-- Step 2: the means of the last checkpoint; rows written since then, whose ages and means it does not have, start again, as all do
where `lost` is set. Every row was written before the power-off (R123). -/
def Dev.loadMeans (d : Dev) (lost : Bool) : Dev :=
  let load := fun (e : Nat × RowInfo) => match (if lost then none else SMap.find d.media.ckptRows e.1) with
    | some c => (e.1, { c with wear := e.2.wear, slc := e.2.slc, old := true })
    | none => (e.1, { e.2 with tfSum := 0, tfN := 0, age := 0, swept := false, old := true })
  d.onMedia (fun m => { m with rows := m.rows.map load })

/-! The buffer (R153 step 5, R154). -/

/-- Restored entries: acknowledged, none held. -/
def restoredEntry (e : Entry) : Entry := { e with complete := true, mirrored := true, acked := true, held := false }

/-- The LBAs that a row of the flush holds (R151). -/
def flushRowLbas : Nat := 112

/-- The rows that a number of LBAs fills. -/
def flushRows (n : Nat) : Nat := (n + 111) / 112

/-- The LBAs of the entries of the flush area. -/
def entryLbas (l : List Entry) : Nat := l.foldl (fun k e => k + e.secs.length) 0

/-- The flash sector of the header of row r of the flush: the rows of the area take turns, one page after the other, and the header stands
in the first codeword on member position 0 (R148). -/
def Dev.headerKey (d : Dev) (r : Nat) : Option Nat :=
  match d.wr.flushRows[r % d.wr.flushRows.length]? with
  | none => none
  | some w =>
    let m := d.member true w.group 0
    some (flashKey m.1 m.2 (d.pblkOf m.1 m.2 0 w.lbn) (r / d.wr.flushRows.length) 0 0)

/-- A row of the flush has its header on flash (R153 step 5). -/
def Dev.headerStands (d : Dev) (r : Nat) : Bool :=
  match d.headerKey r with
  | some k => (SMap.find d.media.flash k).isSome
  | none => false

/-- The LBAs of the mirror entries of the flush area. -/
def mirLbas (l : List Mir) : Nat := l.foldl (fun k m => k + m.secs.length) 0

/-- An entry's part in rows that are present: k LBAs stand before it in the area. -/
def presentEntry (gone : List Nat) (k : Nat) (e : Entry) : List Entry :=
  gone.foldl (fun l r => l.flatMap (cutEntry e.nsx (e.lba + (112 * r - k)) (e.lba + (112 * r + 112 - k)))) [e]

/-- The entries of the flush area: none of the rows that are not present, and the sectors of rows that cannot be restored are
poisoned (R174). -/
def poisonRows (bad gone : List Nat) : Nat → List Entry → List Entry
  | _, [] => []
  | k, e :: t =>
    let secs := (e.secs.zipIdx).map (fun (s, i) => if (k + i) / flushRowLbas ∈ bad then { s with poison := true } else s)
    presentEntry gone k { e with secs := secs } ++ poisonRows bad gone (k + e.secs.length) t

/-- The pieces of a mirror entry left when [lo, hi) of a namespace is on flash. -/
def cutMir (nsx lo hi : Nat) (m : Mir) : List Mir :=
  if m.m.nsx ≠ nsx ∨ hi ≤ m.m.lba ∨ m.m.lba + m.secs.length ≤ lo then [m]
  else
    let l := m.secs.take (lo - m.m.lba)
    let r := m.secs.drop (hi - m.m.lba)
    (if l.isEmpty then [] else [{ m with secs := l }]) ++
      (if r.isEmpty then [] else [{ m with m := { m.m with lba := hi }, secs := r }])

/-- The peer's entries of the flush area, in the same way. -/
def poisonMirs (bad gone : List Nat) : Nat → List Mir → List Mir
  | _, [] => []
  | k, m :: t =>
    let secs := (m.secs.zipIdx).map (fun (s, i) => if (k + i) / flushRowLbas ∈ bad then { s with poison := true } else s)
    gone.foldl (fun l r => l.flatMap (cutMir m.m.nsx (m.m.lba + (112 * r - k)) (m.m.lba + (112 * r + 112 - k)))) [{ m with secs := secs }] ++
      poisonMirs bad gone (k + m.secs.length) t

/-- The rows that the flush area's entries fill. -/
def Dev.flushUsed (d : Dev) : Nat := flushRows (entryLbas d.wr.flushArea) + flushRows (mirLbas d.wr.flushPeer)

/-- The rows of the flush that are not present: those whose header does not decode, and those without one. -/
def Dev.flushGone (d : Dev) (gone : List Nat) : List Nat :=
  gone ++ (List.range d.flushUsed).filter (fun r => !d.headerStands r && !gone.contains r)

/-- The buffer from the flush area (R153 step 5): own rows, then the peer's, each numbered from the first row on. -/
def Dev.fromFlush (d : Dev) (bad gone : List Nat) : Dev :=
  let own := flushRows (entryLbas d.wr.flushArea)
  let rest := fun (l : List Nat) => (l.filter (fun r => decide (own ≤ r))).map (· - own)
  let es := (poisonRows bad gone 0 d.wr.flushArea).map restoredEntry
  let lost := bad ++ gone.filter (fun r => decide (r < d.wr.flushWas.sum) && !bad.contains r)
  let d := d.onWr (fun w =>
    { w with entries := es, mirror := poisonMirs (rest bad) (rest gone) 0 w.flushPeer, nextId := w.nextId + w.flushArea.length })
  d.each lost (fun d r => d.fwPost 0x0F00 (Config.evCode 15) 7 r)

/-- The programs of a group count as passed: its record may be written. -/
def Dev.groupWhole (d : Dev) (g : Grp) : Dev :=
  d.onWr (fun w => { w with groups := w.groups.map (fun x => if x = g then { x with left := 0 } else x) })

/-- An interrupted program group: one whose member programs have all passed is whole on flash; whether another is, is free
(assumption 2). A whole one gets its STRIPE record. Else the entries of a zone are programmed in a new row, to which the zone moves,
and those of a conventional namespace elsewhere. The move is a relocation of R144, whose copy has to pass before it commits (R140).
DESIGN CHOICE (assumption 128): where no row is free for the move, the zone waits for its relocation, and the group is not programmed
again in the old row. -/
def Dev.resolveGroup (d : Dev) (g : Grp) : Dev :=
  let whole := !g.failed && (decide (g.left = 0) || Config.freeBool d.free)
  let d := d.draw
  let gone := fun (d : Dev) => d.onWr (fun w => { w with groups := w.groups.filter (fun x => x != g) })
  if 2 ^ 20 ≤ g.ix then
    match d.media.nss.find? (fun n => n.nsx == g.ix - 2 ^ 20) with
    | some n => if whole then (d.groupWhole g).stripeConv n else gone d
    | none => gone d
  else
    let z := d.zd g.ix
    if whole ∧ g.start = z.fp then (d.groupWhole g).stripeZone g.ix (d.zstart g.ix)
    else
      let d := d.onWr (fun w => { w with groups := w.groups.map (fun x => if x = g then { x with failed := true } else x) })
      if d.media.relocs.any (fun r => !r.conv && r.zone == g.ix) then d
      else
        match d.copyRow z.seven z.nsx (fun d => d.bestRow z.seven z.nsx) with
        | (d, some r) => d.copyZone g.ix r
        | (d, none) => d.wantRefresh z.nsx (d.zstart g.ix)

/-- A recovered Opened or Closed zone (R154): the gap below acknowledged data is filled with zeros and
recorded range by range, WP moves past the highest restored LBA, the zone is Closed. -/
def Dev.settleZone (d : Dev) (ix : Nat) : Dev :=
  let z := d.zd ix
  match d.media.nss.find? (fun n => n.nsx == z.nsx) with
  | none => d
  | some n =>
    let zs := d.zstart ix
    let runs := d.ackedRuns z.nsx zs (zsze z.seven)
    let top := Nat.max z.wp (topEnd z.fp runs)
    let gs := gaps runs z.fp top
    let d := d.each gs (fun d o => d.fillZero n zs o z.zseq)
    let d := d.each (lbaRuns gs) (fun d r => d.fwPost 0x0F00 (Config.evCode 13) 4 (ix + r.1 * 2 ^ 32 + (r.2 - r.1) * 2 ^ 64))
    let full := decide (top = zcap z.seven)
    let d := d.setZd ix { z with wp := top, st := if full then zFull else zClosed }
    d.onWr (fun w => { w with resv := w.resv.filter (· != ix) ++ [ix] })

/-- The target unit of a copy that did not commit is left: its row is queued for erase, where nothing valid stands in it. -/
def Dev.dropTarget (d : Dev) (r : Reloc) : Dev :=
  let d := d.onMedia (fun m => { m with curUnit := m.curUnit.filter (fun e => !(e.1 == gcKey r.nsx && e.2 / 2 ^ 18 == r.tgt)) })
  if d.unitSectors r.nsx r.tgt = [] then d.freeUnit r.nsx r.tgt else d

/-- Relocations whose record was not journaled: the copy is discarded, and its blocks are queued for erase; a spare that was being filled
returns to the spares. A row whose move has its record, and whose erase waited for reads, is queued for erase (R154). -/
def Dev.dropRelocs (d : Dev) : Dev :=
  let rs := d.media.relocs
  let held := d.media.eraseHold
  let back := fun (u : SMap Nat) (c : SpareCopy) =>
    let k := (c.ch * 32 + c.l) * 4 + c.plane
    SMap.set (fun _ => 0) u k (SMap.get (fun _ => 0) u k - 1)
  let d := d.onMedia (fun m => { m with relocs := [], eraseHold := [], spareUse := m.spareCopies.foldl back m.spareUse, spareCopies := [] })
  let d := d.each held (fun d e => d.queueErase e.2)
  d.each rs (fun d r =>
    if r.conv then d.dropTarget r
    else (d.queueErase r.dst).setPool r.dst.seven (d.pool r.dst.seven ++ [{ r.dst with dirty := true }]))

/-! First configuration (R404). -/

/-- The Pen 0 record of R404. -/
def Dev.pen0 (d : Dev) : PenRec :=
  let f : BitVec 256 := 1 ||| (if d.board.bifurcated then BitVec.twoPow 256 128 else 0)
  { func0 := f, func1 := f, ioq := 4095, nsq := 1024, ksbase := 0, kscount := if d.board.code.val = 2 then 0 else 4096,
    cmbsh := 512, cmboff := 0, bufsh := 1024, hold := 2000, morq := 4096, marq := 16384, convq := 0xFFFFFFFF,
    tgt0 := 200, tgt1 := 1000, tgt2 := 5000, tgt3 := 20000, rdfloor := 0, wrfloor := 0, rdceil := 0xFFFF,
    wrceil := 0xFFFF, weight := 1, c0allow := 0 }

/-- A record's rates and shares as the PEN registers hold them (R188). -/
def Dev.loadPen (d : Dev) (p : Nat) (i : PenInfo) : Dev :=
  let d := d.setReg (A.PEN_RATE p) (i.r.rdfloor + i.r.wrfloor * 2 ^ 16 + i.r.rdceil * 2 ^ 32 + i.r.wrceil * 2 ^ 48)
  let d := d.setReg (A.PEN_SHARE p) (i.r.c0allow * 256 + i.r.weight * 2 ^ 24)
  let d := d.setReg (A.CIPHER_PENRANGE p) (i.r.ksbase + i.r.kscount * 2 ^ 16)
  if i.enabled then (d.setBit (A.PEN_PCTL p) 0 true).setBit (A.PEN_STAT p) 0 true else d

/-- The interface that VDDQ_FL asks for, NV-LPDDR4 or NV-DDR3, at its highest rate (R111, R112). -/
def Dev.setIf (d : Dev) (ch : Nat) : Dev :=
  (d.setFld (A.MULE_IFCFG ch) 1 0 (if d.board.lpddr then 2 else 1)).setFld (A.MULE_IFCFG ch) 15 4 (if d.board.lpddr then 3600 else 2400)

/-- The interface of a channel is trained at the present Tf (R111). -/
def Dev.train (d : Dev) (ch : Nat) : Dev :=
  d.onMedia (fun m => { m with trained := SMap.put m.trained ch (temp16 (d.rd (A.THERM_TF (d.tfSensor ch)))) })


/-- The firmware loads a channel's Mule tables, from the section of its flash part, and trains its interface (R111, R112,
R121, R137, R138, R399, R404 steps 2 and 3). -/
def Dev.loadMule (d : Dev) (ch : Nat) : Dev :=
  let d := d.setReg (A.MULE_GEOM ch) ((d.geomOf ch).1 + ((d.geomOf ch).2 - 1) * 16 + d.board.nlb * 256)
  let d := (d.setIf ch).train ch
  let d := d.each (List.range 16) (fun d c =>
    d.setReg (A.MULE_SETMAP ch c) (if c < 14 then 4 * c else if c = 14 then 55 else 56))
  let d := d.each d.board.muleRegs (fun d r => d.setReg (A.MULE ch + r.1) r.2)
  let d := (d.setReg (A.MULE_CTL ch) 1).setBit (A.MULE_STAT ch) 0 true
  let p := d.media.policy
  let d := d.setReg (A.MULE_SUSP_PRG ch) (p.pHold * 2 ^ 18 + p.pRun * 2 ^ 8 + p.pRd * 16 + p.pSusp)
  let d := d.setReg (A.MULE_SUSP_ERS ch) (p.eHold * 2 ^ 18 + p.eRun * 2 ^ 8 + p.eRd * 16 + p.eSusp)
  d.setCap ch

/-- A copy of a parameter page passes its CRC. PRESUMED (assumption 129): the CRC-16 of ONFI, over bytes 0 to 253, in bytes
254 and 255. -/
def pageGood (b : List Byte) : Bool :=
  let step := fun (c : Nat) => if c / 32768 % 2 = 1 then (c * 2 % 65536) ^^^ 0x8005 else c * 2 % 65536
  let byte := fun (c : Nat) (x : Byte) => step (step (step (step (step (step (step (step (c ^^^ (x.toNat * 256)))))))))
  decide ((b.take 254).foldl byte 0x4F4E = ofLe ((b.drop 254).take 2))

/-- A channel's part matches the section in use: the first copy of its parameter page that passes its CRC carries the
section's identity (R111, R404 step 2). A channel without pages of its own carries the part that the section describes. -/
def Dev.partMatches (d : Dev) (ch : Nat) : Bool :=
  match d.board.ppages.find? (fun p => p.1 == ch) with
  | none => true
  | some p => match p.2.find? pageGood with
    | some b => decide ((b.drop 32).take 32 = d.board.partId)
    | none => false

/-- Every channel's tables are loaded but those of a channel whose part matches no section, which stays disabled (R404);
what is not listed is an invalid remap entry and class 0. -/
def Dev.loadMules (d : Dev) : Dev :=
  let d := d.onMules (fun m => { m with loaded := List.range 64 })
  d.each ((List.range 64).filter d.partMatches) (fun d ch => d.loadMule ch)

/-- The factory's bad blocks below NLB are remapped to good spares, and a LUN with fewer than 8 spares left in a plane is taken out of
service (R129, R404 step 4). -/
def Dev.factoryBad (d : Dev) : Dev :=
  let d := d.each (d.board.badBlocks.filter (fun b => decide (b.2.2.2 < d.board.nlb))) (fun d b =>
    let used := SMap.get (fun _ => 0) d.media.spareUse ((b.1 * 32 + b.2.1) * 4 + b.2.2.1)
    match (d.goodSpares b.1 b.2.1 b.2.2.1)[used]? with
    | some new => if d.sparesOf ≤ used then d else
        (d.toSpare b.1 b.2.1 b.2.2.1 b.2.2.2 new used).journal (.remap b.1 b.2.1 b.2.2.1 b.2.2.2 b.2.2.2 new true)
    | none => d)
  let all := if d.board.spares < 8 then
      (List.range 64).flatMap (fun ch => (List.range ((d.geomOf ch).1 * (d.geomOf ch).2)).map (fun l => (ch, l)))
    else (d.board.badBlocks.map (fun b => (b.1, b.2.1))).dedup
  let d := d.each (all.filter (fun l => (List.range 4).any (fun p => decide (d.sparesIn l.1 l.2 p < 8)))) (fun d l => d.lunFails l.1 l.2)
  d.onMedia (fun m => { m with firstSpares := d.sparesLeft })

/-- COL_NS of a namespace (R109): VALID for a zoned one of a group that is Optimized here (R232). -/
def Dev.loadNs (d : Dev) (n : Ns) : Dev :=
  let served := if n.home = d.board.pairId then decide (d.pair.anaOwn ≠ 1) else decide (d.fw.role ≠ .duo ∧ d.pair.ana ≠ 1)
  d.setReg (A.COL_NS n.nsx) (n.base % 2 ^ 20 + (if n.zoned then n.nzones else 0) % 2 ^ 20 * 2 ^ 20 +
    (if n.seven then 2 ^ 40 else 0) + (if n.zoned ∧ served then 2 ^ 41 else 0) + n.pen * 2 ^ 42)

/-- COL_NS of every namespace follows the ANA states of the groups (R232). -/
def Dev.loadAll (d : Dev) : Dev := d.each d.media.nss (fun d n => d.loadNs n)

/-- The firmware's registers of COL: the enable, the media policy, the namespaces (R109, R267). -/
def Dev.loadCol (d : Dev) : Dev :=
  let p := d.media.policy
  let d := (d.setReg A.COL_CTL (if p.spurEn then 2 else 0)).colEn true
  ((d.setReg A.COL_SPUR_THR p.thresh).setReg A.COL_SPUR_BUD (p.win * 256 + p.pct)).loadAll

/-- A media policy is taken: it is kept, and COL and every Mule have its limits (R267). -/
def Dev.applyPolicy (d : Dev) (p : Policy) : Dev :=
  let d := (d.onMedia (fun m => { m with policy := p })).setBit A.COL_CTL 1 p.spurEn
  let d := (d.setReg A.COL_SPUR_THR p.thresh).setReg A.COL_SPUR_BUD (p.win * 256 + p.pct)
  d.each (List.range 64) (fun d ch =>
    (d.setReg (A.MULE_SUSP_PRG ch) (p.pHold * 2 ^ 18 + p.pRun * 2 ^ 8 + p.pRd * 16 + p.pSusp)).setReg (A.MULE_SUSP_ERS ch)
      (p.eHold * 2 ^ 18 + p.eRun * 2 ^ 8 + p.eRd * 16 + p.eSusp))

/-- The firmware reloads every slot from its exports, and the bypass slots (R212). -/
def Dev.loadKeys (d : Dev) : Dev :=
  let d := d.loadBypass
  match d.cipher.kwk with
  | none => d
  | some k =>
    d.each d.cipher.exports (fun d e =>
      match unwrapKey k e.2 with
      | some (x, a) => if halvesEqual x then d else d.setSlot e.1 (.key x a)
      | none => d)

/-- The scheduler's pool: every core (R213). -/
def Dev.loadPool (d : Dev) : Dev :=
  if d.board.code.val = 2 then d else
  let d := (d.setReg A.CIPHER_CTL 1).setBit A.CIPHER_STAT 0 true
  d.each (List.range 24) (fun d c =>
    ((d.setReg (A.CIPHER_CORE_CTL c) 1).setFld (A.CIPHER_CORE_STAT c) 0 0 1).setReg (A.CIPHER_LOCK c) 0x7F)

/-- R404: regions erased, Pen 0 written, spares counted, CKPT and INITDONE journaled. -/
def Dev.firstConfig (d : Dev) : Dev :=
  let d := d.onCirque (fun c => { c with words := SMap.keep (fun w => decide (w < 0xA8000)) c.words, cut := c.cut.filter (· < 0x1500) })
  let d := d.onCairn (fun c => { c with copied := [], logs := [] })
  let d := d.onPens (fun p => { p with recs := [(0, { r := d.pen0, gen := 1, enabled := true })] })
  let d := d.onMedia (fun m =>
    { m with
      journal := [], jseq := 0, ckptZt := [], ckptMap := [], ckptSeq := 0, zt := [], supply := [], spareUse := [], spareCopies := [], rows := []
      nss := [], lru := [], pool14 := [], pool7 := [], eraseQ := [], erased := [], relocs := [], conv := [], units := []
      curUnit := [], urow := [], uFree := [], gcCredit := [], ringHead := 0, ckptRows := [], old := [], skip := [], eraseHold := []
      dead := [], finds := [], failedLuns := [], firstSpares := 0 })
  (d.onWr (fun w =>
    { w with
      entries := [], mirror := [], fold := [], groups := [], resv := [], flushArea := [], flushPeer := [], flushValid := true
      foldRows := [], foldFree := [], foldGiven := [], foldJobs := [], flushRows := [], flushWas := [] })).factoryBad

/-! Leaving INIT. -/

/-- The mirrored entries of the peer become this controller's own (R29, R239, R245): entries without a
command, already acknowledged by the peer, with the seals that they came with (R159). A Pen that they take above its share waits (R183). -/
def Dev.adopt (d : Dev) : Dev :=
  let ms := (d.wr.mirror ++ d.wr.flushPeer).filter (·.complete)
  let mk := fun (m : Mir) (id : Nat) => match d.media.nss.find? (fun n => n.nsx == m.m.nsx) with
    | none => none
    | some n =>
      let zs := if n.zoned then m.m.lba / zsze n.seven * zsze n.seven else 0
      some ({ id := id, h := { fn := 0, qid := 0, cid := 0 }, q := peerQ, nsx := n.nsx, ofs := m.m.lba - zs, zone := zs,
              zoned := n.zoned, secs := m.secs, pen := m.m.pen, app := false, ilbrt := 0, fua := false, mseq := m.m.mseq,
              complete := true, mirrored := true, acked := true, held := false, t0 := d.tick } : Entry)
  let es := (ms.zipIdx.filterMap (fun (m, i) => mk m (d.wr.nextId + i)))
  let d := d.onWr (fun w => { w with entries := w.entries ++ es, nextId := w.nextId + ms.length, mirror := [], flushPeer := [] })
  let d := d.onPens (fun x => { x with aboveShare := (x.aboveShare ++ (es.map (·.pen)).filter (fun p => decide (d.share p < d.penOcc p))).dedup })
  d.each es (fun d e =>
    if e.zoned then
      match d.media.nss.find? (fun n => n.nsx == e.nsx) with
      | some n => d.advanceWp n e.zone
      | none => d
    else d)


/-- The namespaces of the other home come to this controller (R29, R239, R245): no free row is one that they use, their conventional
ones have their free units here, and their Empty zones the rows that back them (R53, R58, R231). -/
def Dev.takeSide (d : Dev) : Dev :=
  let used := d.usedRows
  let free := fun (r : Row) => !used.any (rowClash r)
  let d := d.onMedia (fun m => { m with pool14 := m.pool14.filter free, pool7 := m.pool7.filter free, uFree := m.uFree.filter free })
  let far := d.media.nss.filter (fun n => !n.zoned && d.peerHome n)
  let d := d.onMedia (fun m => { m with nss := m.nss.map (fun n => if !n.zoned && d.peerHome n then { n with freeRu := 0 } else n) })
  let d := d.each far (fun d n =>
    let k := capUnits n.gib + reserveUnits n.gib - (d.media.urow.filter (fun e => e.1 / 2 ^ 21 == n.nsx)).length
    let d := d.unitTake n.home k
    let k := Nat.min k (d.unitSpare n.home)
    (d.onMedia (fun m => { m with nss := m.nss.map (fun x => if x.nsx = n.nsx then { x with freeRu := k } else x) })).protectCheck n.nsx)
  (d.backing false).backing true

/-- SOLO is entered (R29): the namespaces of both homes are served (R245). -/
def Dev.enterSolo (d : Dev) : Dev :=
  let d := ((d.setRole .solo).setMode .solo).setTransit false
  (((d.adopt).takeSide.loadAll).renewFlush.capacityCheck).rdyCheck

/-- The firmware sets the base of the mirror area (R234): any GiB of DRAM. A free value (assumption 2). -/
def Dev.mirrorBase (d : Dev) : Dev :=
  if d.hasPair then (d.setReg A.PAIR_MIRBASE ((64 + Config.freeNat d.free % d.board.dramGib) * 2 ^ 30)).draw else d

/-- Steps 2 to 4 of R153: the map segments and means of the checkpoint, what ignored records had done undone, the zone table; `lost` are
the records that replay ignores, `segs` the segments that fail their check. -/
def Dev.replay (d : Dev) (lost : List JRec) (segs : List (Nat × Nat)) : Dev :=
  let d := d.each lost.reverse Dev.undo
  let d := (d.each segs (fun d s => d.rebuildSeg s.1 s.2)).loadMeans (segs.any (fun s => s.1 == 1025))
  let d := d.onMedia (fun m => { m with zt := d.replayed segs })
  (if lost = [] then d else d.sweepRows).reclass (fun _ i => i)

/-- Steps 5 and 6 of R153: the buffer from retained DRAM or from the flush area, and the interrupted operations. -/
def Dev.restore (d : Dev) (sealsOk : Bool) (bad gone : List Nat) : Dev :=
  let kept := sealsOk && decide (d.wr.entries ≠ [] ∨ d.wr.mirror ≠ [])
  let d := if kept then d.onWr (fun w => { w with entries := w.entries.map restoredEntry }) else d.fromFlush bad (d.flushGone gone)
  let d := d.onPair (fun p => { p with rest := (d.wr.entries.filter (fun e => decide (e.q ≠ peerQ))).map (fun e => (e.mseq, e.mseq)) })
  let d := d.dropRelocs
  let d := d.each d.wr.groups (fun d g => d.resolveGroup g)
  d.each (d.zones Zd.active) (fun d ix => d.settleZone ix)

/-- The flush rows that INITDONE counts as restored (R146): none where DRAM kept the buffer. -/
def Dev.rowsRestored (d : Dev) (sealsOk : Bool) (bad gone : List Nat) : Nat :=
  if sealsOk && decide (d.wr.entries ≠ [] ∨ d.wr.mirror ≠ []) then 0
  else ((List.range d.flushUsed).filter (fun r => !bad.contains r && !(d.flushGone gone).contains r)).length

/-- At INIT the firmware erases the sector of the last erase again, where that erase did not end (R282); what replay found in it has been
dealt with. -/
def Dev.eraseAgain (d : Dev) : Dev :=
  let sec := d.fld A.CIRQUE_ERS_LAST 26 12
  if d.bit A.CIRQUE_ERS_LAST 0 ∨ sec ∉ d.cirque.cut then d
  else
    let d := d.onCirque (fun c => { c with words := SMap.keep (fun w => w / 128 != sec) c.words, cut := c.cut.filter (· != sec) })
    let d := (d.setBit A.CIRQUE_ERS_LAST 0 true).count (A.CIRQUE_CNT 3) 64 1
    d.onMedia (fun m => { m with journal := m.journal.filter (fun r => ringSector (r.loc / 128) != sec) })

/-- RECOVERY, in INIT and once for each (R153, R154): `sealsOk` is how the seals of retained DRAM check, `bad` the flush rows that
are present and cannot be restored, `gone` those that are not present, `segs` the checkpoint segments that fail their check: of the map
of a namespace, of the zone table under the name 1,024, of the means under the name 1,025 (assumption 127). -/
def Dev.recover (d : Dev) (sealsOk : Bool) (bad gone : List Nat) (segs : List (Nat × Nat)) : Dev :=
  if d.fw.mode ≠ .init ∨ d.fw.replayed ∨ d.fw.cfgSlot = 2 ∨ !d.fw.calValid then d
  else
    let lost := d.ringLost
    let d := d.ringScan
    let fresh := decide (d.media.journal = [])
    let d := if fresh then d.firstConfig else d
    let d := ((((if d.cairnOn then d else d.loadLogs sealsOk).loadMules).loadPool).loadKeys).mirrorBase
    let d := d.each d.pens.recs (fun d e => d.loadPen e.1 e.2)
    let d := d.setBit A.PEN_CTL 0 true
    let viol := d.orderBroken
    let count := d.replays.length
    let d := (d.replay (if fresh then [] else lost) segs).onHost (fun h => { h with egCrit := d.media.worn })
    let d := if viol then d.fwPost 0x0F00 (Config.evCode 14) 7 0 else d
    let rows := d.rowsRestored sealsOk bad gone
    let d := ((d.restore sealsOk bad gone).eraseAgain).eraseFlush
    let d := if fresh then d.checkpoint else d
    let d := d.journal (.initdone count rows)
    let d := (d.loadCol).onFw (fun f => { f with replayed := true })
    if d.hasPair ∧ d.fenceIn then
      let d := d.onWr (fun w => { w with entries := [], mirror := [] })
      ((d.onFw (fun f => { f with fencedInit := true })).setTransit false).rdyCheck
    else if viol ∨ d.noCapacity then
      (((d.setRole .solo).setMode .readonly).setTransit false).rdyCheck
    else if !d.hasPair then d.enterSolo
    else d

def execRecovery (sealsOk : Bool) (badRows goneRows : List Nat) (badSegs : List (Nat × Nat)) (s : State) :
    Host.Outcome State Fault Refusal :=
  mainDo s (fun d => d.recover sealsOk badRows goneRows badSegs)

end Sys2Proof.Machine
end

