-- ==== Sys2Proof/Machine/OxChan.lean ====
section
/-! DEFINITION. The channels of Ox (R304 to R315): the shadow set, its checks, arbitration and how a channel stops. -/

namespace Sys2Proof.Machine

/-- Nothing in an active set. -/
def oxNone (_ : Nat) : OxSet := { cfg := 0, src := 0, dst := 0, idx := 0, len := 0, arg := 0 }

/-- The shadow set of a channel, as its registers hold it. -/
def Dev.oxShadow (d : Dev) (n : Nat) : OxSet :=
  { cfg := (d.rd (A.OX_CFG n)).toNat, src := (d.rd (A.OX_SRC n)).toNat, dst := (d.rd (A.OX_DST n)).toNat,
    idx := (d.rd (A.OX_IDX n)).toNat, len := d.fld (A.OX_LEN n) 27 0, arg := (d.rd (A.OX_PORTARG n)).toNat }

def Dev.oxAct (d : Dev) (n : Nat) : OxSet := SMap.get oxNone d.ox.act n

/-- The fields of OX_CFG (R315). -/
def OxSet.req (s : OxSet) : Nat := natFld s.cfg 7 0
def OxSet.esize (s : OxSet) : Nat := natFld s.cfg 22 8
def OxSet.mode (s : OxSet) : Nat := natFld s.cfg 24 23
def OxSet.portSrc (s : OxSet) : Bool := decide (s.cfg / 2 ^ 25 % 2 = 1)
def OxSet.core (s : OxSet) : Nat := natFld s.cfg 31 28
def OxSet.fullIe (s : OxSet) : Bool := decide (s.cfg / 2 ^ 26 % 2 = 1)
def OxSet.halfIe (s : OxSet) : Bool := decide (s.cfg / 2 ^ 27 % 2 = 1)

/-- The source, and the destination, is memory (R308). -/
def OxSet.srcMem (s : OxSet) : Bool := decide (s.req = 0) || !s.portSrc
def OxSet.dstMem (s : OxSet) : Bool := decide (s.req = 0) || s.portSrc

/-- A request line of R308. -/
def oxLine (r : Nat) : Bool := decide (r ≤ 4) || (decide (0x40 ≤ r) && decide (r < 0x80))

/-- Offset k of a channel's index table (R307). -/
def Dev.oxOffset (d : Dev) (s : OxSet) (k : Nat) : Nat := ofLe (d.loadBytes (s.idx + 4 * k) 4)

/-- The values that a GO accepts (R304, R307, R308, R315). -/
def Dev.oxGood (d : Dev) (s : OxSet) : Bool :=
  decide (s.src % 8 = 0) && decide (s.dst % 8 = 0) && decide (s.len % 8 = 0) && decide (8 ≤ s.len) &&
  oxLine s.req && decide (s.mode ≤ 1) &&
  (decide (s.mode = 0) ||
    (decide (s.esize % 8 = 0) && decide (8 ≤ s.esize) && decide (s.esize ≤ 4096) &&
      (List.range (s.len / s.esize)).all (fun k => decide (d.oxOffset s k % 8 = 0)))) &&
  (!s.srcMem || decide (s.src < 2 ^ 40)) && (!s.dstMem || decide (s.dst < 2 ^ 40)) &&
  (decide (s.req ≠ 1) || (decide (s.dst = A.CIRQUE_PFIFO) && !s.portSrc))

def Dev.oxState (d : Dev) (n : Nat) : Nat := d.fld (A.OX_STAT n) 2 0
def Dev.oxActive (d : Dev) : Bool := d.bit A.OX_GSTAT 0

/-- The address pair of the active set after `done` bytes: a port that does not count keeps its address. -/
def oxAddrs (s : OxSet) (done : Nat) : Nat × Nat :=
  (s.src + done, if s.req = 1 then s.dst else s.dst + done)

def Dev.oxShow (d : Dev) (n : Nat) (s : OxSet) (done : Nat) : Dev :=
  ((d.setReg (A.OX_DONE n) done).setReg (A.OX_ASRC n) (oxAddrs s done).1).setReg (A.OX_ADST n) (oxAddrs s done).2

/-- The armed shadow moves to the active set and the transfer starts (R305). -/
def Dev.oxStart (d : Dev) (n : Nat) : Dev :=
  let s := d.oxShadow n
  let d := d.onOx (fun o => { o with act := SMap.set oxNone o.act n s })
  ((d.setBit (A.OX_STAT n) 9 false).setFld (A.OX_STAT n) 2 0 1).oxShow n s 0

/-- CIRQUE asks for a word: its FIFO has room for one (R279). -/
def Dev.pfifoReq (d : Dev) : Bool :=
  d.bit A.CIRQUE_STAT 0 && !d.bit A.CIRQUE_STAT 3 && decide (d.cirque.fifo.length < 4)

/-- The line of a channel asks for a burst. -/
def Dev.oxAsks (d : Dev) (n : Nat) : Bool :=
  let r := (d.oxAct n).req
  decide (d.oxState n = 1) && !decide (n ∈ d.ox.stopping) &&
    (decide (r = 0) || (decide (r = 1) && d.pfifoReq) || decide (r ∈ d.ox.lines))

/-- The rank of a request line (R309). -/
def oxRank (r : Nat) : Nat := if r = 1 then 0 else if 0x40 ≤ r then 1 else if r = 0 then 5 else r

/-- The channel that arbitration grants (R309). -/
def Dev.oxBest (d : Dev) : Option Nat :=
  ((List.range 32).filter d.oxAsks).foldl (fun b n =>
    match b with
    | none => some n
    | some m => if oxRank (d.oxAct n).req < oxRank (d.oxAct m).req then some n else some m) none

/-- Ox grants one burst at a time; a peripheral's request is used up by it (R309). -/
def Dev.oxGrant (d : Dev) : Dev :=
  if d.oxActive && d.ox.flight.isEmpty then
    match d.oxBest with
    | some n => d.onOx (fun o => { o with flight := [n], lines := o.lines.filter (· != (d.oxAct n).req) })
    | none => d
  else d

/-- The interrupt of a channel. -/
def Dev.oxIrq (d : Dev) (n : Nat) (core : Nat) : Dev := d.irqTo core (0x0B00 + n)

/-- A channel stops in a state; WITHDRAWN is latched and interrupts (R306, R310). -/
def Dev.oxHalt (d : Dev) (n st : Nat) : Dev :=
  let d := (d.setFld (A.OX_STAT n) 2 0 st).onOx (fun o =>
    { o with stopping := o.stopping.filter (· != n), wdraw := o.wdraw.filter (· != n) })
  if st = 3 then (d.setBit A.OX_ERRST n true).oxIrq n (d.oxAct n).core else d

/-- A drain that is over lets a held enable in (R313); armed channels that never ran or are DONE start. -/
def Dev.oxEnable (d : Dev) : Dev :=
  let d := (d.setBit A.OX_GSTAT 0 true).onOx (fun o => { o with heldEn := false })
  let d := d.each ((List.range 32).filter (fun n => d.bit (A.OX_STAT n) 9 && decide (d.oxState n = 0 ∨ d.oxState n = 2)))
    (fun d n => d.oxStart n)
  d.oxGrant

/-- The burst in flight is over. -/
def Dev.oxFree (d : Dev) : Dev :=
  let d := d.onOx (fun o => { o with flight := [] })
  if d.bit A.OX_GSTAT 1 then
    let d := d.setBit A.OX_GSTAT 1 false
    if d.ox.heldEn then d.oxEnable else d
  else d.oxGrant

/-- A peripheral withdraws its request (R310): a burst already granted completes, other channels of the line stop
at once. -/
def Dev.oxWithdraw (d : Dev) (line : Nat) : Dev :=
  let d := d.onOx (fun o => { o with lines := o.lines.filter (· != line) })
  let ns := (List.range 32).filter (fun n => decide (d.oxState n = 1) && decide ((d.oxAct n).req = line))
  let d := d.each ns (fun d n =>
    if n ∈ d.ox.flight then d.onOx (fun o => { o with wdraw := o.wdraw.filter (· != n) ++ [n] })
    else d.oxHalt n 3)
  d.oxGrant

end Sys2Proof.Machine
end

