-- ==== Sys2Proof/Machine/CirqueArr.lean ====
section
/-! DEFINITION. The Cirque journal array (R277 to R291): programs, the PFIFO port, erases and their suspension, window
reads, the two rows, the enable. -/

namespace Sys2Proof.Machine

def Dev.cqActive (d : Dev) : Bool := d.bit A.CIRQUE_STAT 0

/-- The bank of a word. -/
def bankOf (w : Nat) : Nat := w / 2 ^ 19 % 8
/-- The sector of a word. -/
def sectorOf (w : Nat) : Nat := w / 128

/-- An access to another sector of a bank suspends the erase that runs there, at most 100 times (R280). -/
def Dev.cqAccess (d : Dev) (w : Nat) : Dev :=
  let b := bankOf w
  if d.fld (A.CIRQUE_ESTAT b) 1 0 = 1 ∧ ¬ d.erasing (sectorOf w) ∧ d.fld (A.CIRQUE_ESTAT b) 15 8 < 100
  then d.suspBank b 1 else d

/-- A drain that is over (R289). -/
def Dev.cqDrained (d : Dev) : Dev :=
  if d.bit A.CIRQUE_STAT 1 && d.cirque.esec.isEmpty && d.cirque.prog.isNone then
    let d := d.setBit A.CIRQUE_STAT 1 false
    if d.cirque.heldEn then (d.setBit A.CIRQUE_STAT 0 true).onCirque (fun c => { c with heldEn := false }) else d
  else d

/-! Programs (R278, R279). -/

/-- The result code of a verify that corrected `corr` bits. -/
def verifyResult (corr : Nat) : Nat := if corr ≤ 1 then 0 else if corr ≤ 3 then 1 else 2

/-- The program flag of a word: open where an erase of its sector was cut (R282). -/
def Dev.flagSet (d : Dev) (w : Nat) : Bool :=
  if sectorOf w ∈ d.cirque.cut then Config.freeBool d.free else (d.cqHeld w).isSome

/-- What refuses a program before it starts: 4 ERASING, 3 DOUBLE. -/
def Dev.progRefusal (d : Dev) (w : Nat) : Option Nat :=
  if d.erasing (sectorOf w) then some 4
  else if d.flagSet w then some 3
  else none

/-- A free value is used up where the word's flag was open. -/
def Dev.drawFlag (d : Dev) (w : Nat) : Dev := if sectorOf w ∈ d.cirque.cut then d.draw else d

/-- PADDR advances by one word. -/
def Dev.paddrNext (d : Dev) : Dev := d.setFld A.CIRQUE_PADDR 26 5 (d.fld A.CIRQUE_PADDR 26 5 + 1)

/-- The program engine is busy. -/
def Dev.cqBegin (d : Dev) (w : Nat) (x : BitVec 256) (fifo : Bool) : Dev :=
  ((d.cqAccess w).setBit A.CIRQUE_STAT 2 true).onCirque (fun c => { c with prog := some { word := w, data := x, fifo := fifo } })

/-- A register program ends with a result; DOUBLE, ERASING and RANGE return no corrected-bit count. -/
def Dev.pcmdEnd (d : Dev) (res : Nat) (corr : Option Nat) : Dev :=
  let d := (d.setBit A.CIRQUE_PCMD 12 false).setFld A.CIRQUE_PCMD 6 4 res
  let d := match corr with | some c => d.setFld A.CIRQUE_PCMD 11 8 c | none => d
  let d := if res = 3 then d.count (A.CIRQUE_CNT 4) 64 1 else d
  if d.bit A.CIRQUE_PCMD 1 then d.paddrNext else d

/-- A FIFO word ends: a bad result stops the FIFO, discards it and withdraws the request (R279). -/
def Dev.pfifoEnd (d : Dev) (res : Nat) : Dev :=
  let d := if res = 3 then d.count (A.CIRQUE_CNT 4) 64 1 else d
  let d := d.paddrNext
  if res ≤ 1 then d
  else
    let d := (d.setBit A.CIRQUE_STAT 3 true).onCirque (fun c => { c with fifo := [] })
    d.oxWithdraw 1

/-- The four words of PDATA as a code word. -/
def Dev.pdata (d : Dev) : BitVec 256 :=
  BitVec.ofNat 256 ((List.range 4).foldl (fun x i => x + (d.rd (A.CIRQUE_PDATA i)).toNat * 2 ^ (64 * i)) 0)

/-- The register program that waits. -/
def Dev.pcmdStart (d : Dev) : Dev :=
  let w := d.fld A.CIRQUE_PADDR 26 5
  match d.progRefusal w with
  | some r => (d.drawFlag w).pcmdEnd r none
  | none => (d.drawFlag w).cqBegin w d.pdata false

/-- The next words of the FIFO, as long as they are refused at once; `f` bounds them. -/
def Dev.pfifoStart (d : Dev) : Nat → Dev
  | 0 => d
  | f + 1 =>
    match d.cirque.fifo with
    | a :: b :: c :: e :: r =>
      let d := d.onCirque (fun q => { q with fifo := r })
      let w := d.fld A.CIRQUE_PADDR 26 5
      match d.progRefusal w with
      | some x => ((d.drawFlag w).pfifoEnd x).pfifoStart f
      | none => (d.drawFlag w).cqBegin w (BitVec.ofNat 256 (a.toNat + b.toNat * 2 ^ 64 + c.toNat * 2 ^ 128 + e.toNat * 2 ^ 192)) true
    | _ => d

/-- What the program engine takes next: a register program, then a FIFO word (R289). -/
def Dev.cqNext (d : Dev) : Dev :=
  if d.cirque.prog.isSome then d
  else
    let d := d.setBit A.CIRQUE_STAT 2 false
    let d := if d.bit A.CIRQUE_PCMD 12 then d.pcmdStart else d
    let d := if d.cirque.prog.isNone then d.pfifoStart (d.cirque.fifo.length / 4) else d
    d.cqDrained

/-- GO of CIRQUE_PCMD: while CIRQUE does not accept programs, or one written here is still busy, it is discarded. -/
def Dev.cqGo (d : Dev) (ainc : Bool) : Dev :=
  let busy := d.bit A.CIRQUE_PCMD 12
  let d := d.setBit A.CIRQUE_PCMD 1 ainc
  if d.cqActive && !busy then (d.setBit A.CIRQUE_PCMD 12 true).cqNext else d

def execCirqueProgramGo (ainc : Bool) (s : State) : Host.Outcome State Fault Refusal := regDo A.CIRQUE_PCMD s (fun d => d.cqGo ainc)

/-- A write to CIRQUE_PFIFO: four make a word (R279). -/
def Dev.pfifoPush (d : Dev) (x : W64) : Dev :=
  if d.cqActive && !d.bit A.CIRQUE_STAT 3 then (d.onCirque (fun c => { c with fifo := c.fifo ++ [x] })).cqNext else d

def execPfifoWrite (x : W64) (s : State) : Host.Outcome State Fault Refusal :=
  regDo A.CIRQUE_PFIFO s (fun d => (d.pfifoPush x).oxGrant)

/-- The sectors that the firmware retires: checkpoint region, event log, journal ring (R288). -/
def wearable (sector : Nat) : Bool := decide (0x1500 ≤ sector)

/-- Usable sectors of the ring. -/
def Dev.ringLeft (d : Dev) : Nat := 16384 - (d.cirque.retired.filter (fun x => decide (0x4000 ≤ x))).length

/-- A sector that wears is retired (R288). -/
def Dev.cqRetire (d : Dev) (sector : Nat) : Dev :=
  if wearable sector ∧ sector ∉ d.cirque.retired then
    let was := d.ringLeft
    let d := d.onCirque (fun c => { c with retired := c.retired ++ [sector] })
    if d.ringLeft < 12288 ∧ 12288 ≤ was then d.fwPost 0x0A00 (Config.evCode 17) 4 d.ringLeft else d
  else d

/-- A correction by a read or a verify (R290). -/
def Dev.cqCorr (d : Dev) (w corr : Nat) : Dev :=
  if corr = 0 then d
  else
    (d.count (A.CIRQUE_CNT 0) 64 corr).setReg A.CIRQUE_CORR_LAST (2 ^ 63 + corr * 2 ^ 32 + w % 2 ^ 22 * 32)

/-- A program and its verify end (R278): `corr` bits to correct, more than 3 uncorrectable. While an erase that may
no longer be suspended holds the bank the program waits. -/
def Dev.cqProgEnd (d : Dev) (corr : Nat) : Dev :=
  match d.cirque.prog with
  | none => d
  | some p =>
    if d.fld (A.CIRQUE_ESTAT (bankOf p.word)) 1 0 = 1 ∧ ¬ d.erasing (sectorOf p.word) then d
    else
      let lost := d.erasing (sectorOf p.word)
      let res := if lost then 4 else verifyResult corr
      let d := d.onCirque (fun c =>
        { c with prog := none, words := if lost then c.words else SMap.put c.words p.word p.data })
      let d := if lost then d else
        let d := d.count (A.CIRQUE_CNT 2) 64 1
        let d := if corr ≤ 3 then d.cqCorr p.word corr else d.count (A.CIRQUE_CNT 1) 64 1
        if 1 ≤ verifyResult corr then d.cqRetire (sectorOf p.word) else d
      let d := if p.fifo then d.pfifoEnd res else d.pcmdEnd res (if lost then none else some (Nat.min corr 15))
      (d.cqNext).oxGrant

def execCirqueProgramEnd (corr : Nat) (s : State) : Host.Outcome State Fault Refusal := mainDo s (fun d => d.cqProgEnd corr)

/-! Erases (R280 to R282). -/

/-- GO of CIRQUE_ECMD[b] (R280, R290): discarded with ERR where the address is of another bank, the bank has an erase,
or CIRQUE accepts none. -/
def Dev.cqErase (d : Dev) (b addr : Nat) : Dev :=
  let sec := addr / 4096 % 2 ^ 15
  let d := d.setFld (A.CIRQUE_ECMD b) 26 12 sec
  if sec / 4096 ≠ b ∨ d.fld (A.CIRQUE_ESTAT b) 1 0 ≠ 0 ∨ ¬ d.cqActive then d.setBit (A.CIRQUE_ESTAT b) 4 true
  else
    let d := (d.setFld (A.CIRQUE_ESTAT b) 1 0 1).setFld (A.CIRQUE_ESTAT b) 15 8 0
    let d := (d.setBit A.CIRQUE_STAT (8 + b) true).count (A.CIRQUE_CNT 3) 64 1
    let d := d.setReg A.CIRQUE_ERS_LAST (sec * 4096)
    d.onCirque (fun c => { c with esec := SMap.put c.esec b sec })

def execCirqueEraseGo (b : BankN) (addr : Nat) (s : State) : Host.Outcome State Fault Refusal :=
  regDo (A.CIRQUE_ECMD b.val) s (fun d => d.cqErase b.val addr)

/-- SUSP (R280): an erase that an access has suspended stays suspended until RESUME. -/
def Dev.cqSusp (d : Dev) (b : Nat) : Dev :=
  if d.fld (A.CIRQUE_ESTAT b) 1 0 = 1 ∧ d.fld (A.CIRQUE_ESTAT b) 15 8 < 100 then d.suspBank b 2
  else if d.fld (A.CIRQUE_ESTAT b) 1 0 = 2 ∧ SMap.get (fun _ => 0) d.cirque.why b = 1 then
    d.onCirque (fun c => { c with why := SMap.set (fun _ => 0) c.why b 2 })
  else d

def execCirqueEraseSuspend (b : BankN) (s : State) : Host.Outcome State Fault Refusal := regDo (A.CIRQUE_ECMD b.val) s (fun d => d.cqSusp b.val)

/-- An erase resumes that was suspended for a reason. -/
def Dev.cqResume (d : Dev) (b why : Nat) : Dev :=
  if d.fld (A.CIRQUE_ESTAT b) 1 0 = 2 ∧ SMap.get (fun _ => 0) d.cirque.why b = why then
    ((d.setFld (A.CIRQUE_ESTAT b) 1 0 1).setBit A.CIRQUE_STAT (16 + b) false).onCirque
      (fun c => { c with why := SMap.set (fun _ => 0) c.why b 0 })
  else d

def execCirqueEraseResume (b : BankN) (s : State) : Host.Outcome State Fault Refusal := regDo (A.CIRQUE_ECMD b.val) s (fun d => d.cqResume b.val 2)

/-- 2 µs without an access to the bank (R280). -/
def execCirqueIdleResume (b : BankN) (s : State) : Host.Outcome State Fault Refusal := mainDo s (fun d => d.cqResume b.val 1)

/-- The records of a sector go with its erase. -/
def Dev.eraseRecs (d : Dev) (sec : Nat) : Dev :=
  if sec < 0x4000 then d
  else d.onMedia (fun m => { m with journal := m.journal.filter (fun r => ringSector (r.loc / 128) != sec) })

/-- A sector after its erase: words and flags are cleared; one whose verify failed is in an unknown state. -/
def Cirque.erased (c : Cirque) (sec : Nat) (fail : Bool) : Cirque :=
  { c with words := SMap.keep (fun w => sectorOf w != sec) c.words
           cut := c.cut.filter (· != sec) ++ (if fail then [sec] else []) }

/-- An erase ends (R280, R282). -/
def Dev.cqEraseEnd (d : Dev) (b : Nat) (fail : Bool) : Dev :=
  match SMap.find d.cirque.esec b with
  | none => d
  | some sec =>
    if d.fld (A.CIRQUE_ESTAT b) 1 0 ≠ 1 then d
    else
      let d := (d.setFld (A.CIRQUE_ESTAT b) 1 0 0).setBit (A.CIRQUE_ESTAT b) 2 true
      let d := if fail then d.setBit (A.CIRQUE_ESTAT b) 3 true else d
      let d := d.setBit A.CIRQUE_STAT (8 + b) false
      let d := if d.fld A.CIRQUE_ERS_LAST 26 12 = sec then d.setBit A.CIRQUE_ERS_LAST 0 true else d
      let d := (d.onCirque (fun c => { c.erased sec fail with esec := SMap.del c.esec b })).eraseRecs sec
      d.cqDrained

def execCirqueEraseEnd (b : BankN) (fail : Bool) (s : State) : Host.Outcome State Fault Refusal :=
  mainDo s (fun d => d.cqEraseEnd b.val fail)

/-! Window reads (R277, R281). -/

/-- A read of a word through the window: `corr` bits to correct in a programmed word, more than 3 uncorrectable. The words
of a sector whose erase was cut read as they please. -/
def Dev.cqRead (d : Dev) (who : Reqr) (w corr : Nat) : Dev :=
  let a := 0x0100000000 + 32 * w
  match d.accessErr who a false with
  | some e => d.failAccess who a false e
  | none =>
    let d := d.cqAccess w
    if sectorOf w ∈ d.cirque.cut then
      let x := Config.cutWord d.free w
      let bad := Config.freeBool d.free
      let d := d.draw
      if bad then (d.count (A.CIRQUE_CNT 1) 64 1).failAccess who a false .uncorr
      else d.onCirque (fun c => { c with win := x })
    else if (d.cqHeld w).isSome then
      if corr ≤ 3 then (d.cqCorr w corr).onCirque (fun c => { c with win := d.cqWord w })
      else (d.count (A.CIRQUE_CNT 1) 64 1).failAccess who a false .uncorr
    else d.onCirque (fun c => { c with win := BitVec.allOnes 256 })

def execCirqueWindowRead (who : Reqr) (word corr : Nat) (s : State) : Host.Outcome State Fault Refusal :=
  mainDo s (fun d => d.cqRead who word corr)

/-! The two rows (R284, R285). -/

/-- A word of the OTP row as it stands: all ones where it was never programmed. -/
def Dev.otpWord (d : Dev) (w : Nat) : BitVec 256 := SMap.get (fun _ => BitVec.allOnes 256) d.cirque.otp w

/-- The four data words of a row word. -/
def Dev.setWords (d : Dev) (r : Nat → Nat) (x : BitVec 256) : Dev :=
  d.each (List.range 4) (fun d i => d.setReg (r i) (x.toNat / 2 ^ (64 * i) % 2 ^ 64))

/-- An OTP word as a register read shows it: the root secret never, the identity key until OTPHIDE (R284). -/
def Dev.otpShown (d : Dev) (w : Nat) : BitVec 256 :=
  if w = 2 ∨ ((w = 3 ∨ w = 4) ∧ d.bit A.CIRQUE_CTL 1) then 0 else d.otpWord w

def Dev.otpRd (d : Dev) (w : Nat) : Dev :=
  ((d.setReg A.CIRQUE_OTP_ADDR w).setFld A.CIRQUE_OTP_CMD 6 4 0).setWords A.CIRQUE_OTP_DATA (d.otpShown w)

def execOtpRead (w : Fin 64) (s : State) : Host.Outcome State Fault Refusal := regDo A.CIRQUE_OTP_CMD s (fun d => d.otpRd w.val)

/-- Words 0 to 13 are locked once word 0 holds a valid layout version (R284). -/
def Dev.otpLocked (d : Dev) (w : Nat) : Bool :=
  decide (w ≤ 13) && (SMap.find d.cirque.otp 0).isSome && decide (byteAt (d.otpWord 0) 0 + 256 * byteAt (d.otpWord 0) 1 = 1)

/-- The result of an OTP program. -/
def Dev.otpResult (d : Dev) (w corr : Nat) : Nat :=
  if d.otpLocked w then 5 else if (SMap.find d.cirque.otp w).isSome then 3 else verifyResult corr

/-- PROG of CIRQUE_OTP_CMD (R284): PDATA into word w. -/
def Dev.otpProg (d : Dev) (w corr : Nat) : Dev :=
  let d := d.setReg A.CIRQUE_OTP_ADDR w
  if !d.cqActive then d
  else
    let res := d.otpResult w corr
    let x := d.pdata
    let d := d.setFld A.CIRQUE_OTP_CMD 6 4 res
    if res ≤ 2 then
      let d := if corr ≤ 3 then d.count (A.CIRQUE_CNT 0) 64 corr else d.count (A.CIRQUE_CNT 1) 64 1
      (d.count (A.CIRQUE_CNT 2) 64 1).onCirque (fun c => { c with otp := SMap.put c.otp w x })
    else if res = 3 then d.count (A.CIRQUE_CNT 4) 64 1
    else d

def execOtpProgram (w : Fin 64) (corr : Nat) (s : State) : Host.Outcome State Fault Refusal := regDo A.CIRQUE_OTP_CMD s (fun d => d.otpProg w.val corr)

/-- A factory row word: zeros without the profile (R285). -/
def Dev.frowShown (d : Dev) (w : Nat) : BitVec 256 :=
  if d.board.compat then SMap.get (fun _ => BitVec.allOnes 256) d.cirque.frow w else 0

def Dev.frowRd (d : Dev) (w : Nat) : Dev :=
  (d.setReg A.CIRQUE_FROW_ADDR w).setWords A.CIRQUE_FROW_DATA (d.frowShown w)

def execFrowRead (w : Fin 32) (s : State) : Host.Outcome State Fault Refusal := regDo A.CIRQUE_FROW_ADDR s (fun d => d.frowRd w.val)

/-- OTPHIDE is set until the CIRQUE reset (R284). -/
def execOtphide (s : State) : Host.Outcome State Fault Refusal := regDo A.CIRQUE_CTL s (fun d => d.setBit A.CIRQUE_CTL 1 true)

/-- CIRQUE_CTL.EN (R289): a clear with erases running or suspended resumes them and drains; an enable set then is held. -/
def Dev.cqEn (d : Dev) (en : Bool) : Dev :=
  let d := d.setBit A.CIRQUE_CTL 0 en
  if en then
    if d.bit A.CIRQUE_STAT 1 then d.onCirque (fun c => { c with heldEn := true }) else d.setBit A.CIRQUE_STAT 0 true
  else
    let d := d.onCirque (fun c => { c with heldEn := false })
    let d := if d.cirque.esec.isEmpty && d.cirque.prog.isNone then d else d.setBit A.CIRQUE_STAT 1 true
    let d := d.setBit A.CIRQUE_STAT 0 false
    d.each (List.range 8) (fun d b => (d.cqResume b 1).cqResume b 2)

def execCirqueCtlEnWrite (en : Bool) (s : State) : Host.Outcome State Fault Refusal := regDo A.CIRQUE_CTL s (fun d => d.cqEn en)

end Sys2Proof.Machine
end

