-- ==== Sys2Proof/Machine/OxDma.lean ====
section
/-! DEFINITION. The commands of Ox (R304 to R315). -/

namespace Sys2Proof.Machine

/-- GO (R304, R305): the shadow is checked and armed; a channel that does not run loads it. -/
def Dev.oxArm (d : Dev) (n : Nat) : Dev :=
  let s := d.oxShadow n
  if !d.oxGood s then ((d.setBit (A.OX_STAT n) 10 true).setBit A.OX_ERRST n true).oxIrq n s.core
  else
    let d := d.setBit (A.OX_STAT n) 9 true
    if d.oxActive ∧ d.oxState n ≠ 1 then (d.oxStart n).oxGrant else d

def execOxGo (n : OxN) (s : State) : Host.Outcome State Fault Refusal := regDo (A.OX_CMD n.val) s (fun d => d.oxArm n.val)

/-- STOP (R313): at the next burst boundary, the shadow kept. -/
def Dev.oxStopCh (d : Dev) (n : Nat) : Dev :=
  if d.oxState n ≠ 1 then d
  else if n ∈ d.ox.flight then d.onOx (fun o => { o with stopping := o.stopping.filter (· != n) ++ [n] })
  else d.oxHalt n 5

def execOxStop (n : OxN) (s : State) : Host.Outcome State Fault Refusal := regDo (A.OX_CMD n.val) s (fun d => d.oxStopCh n.val)

/-- OX_CTL.EN (R313). -/
def Dev.oxEn (d : Dev) (en : Bool) : Dev :=
  let d := d.setBit A.OX_CTL 0 en
  if en then
    if d.bit A.OX_GSTAT 1 then d.onOx (fun o => { o with heldEn := true })
    else if d.oxActive then d else d.oxEnable
  else
    let d := d.onOx (fun o => { o with heldEn := false })
    let d := d.each (List.range 32) (fun d n => d.oxStopCh n)
    (d.setBit A.OX_GSTAT 0 false).setBit A.OX_GSTAT 1 (!d.ox.flight.isEmpty)

def execOxCtlEnWrite (en : Bool) (s : State) : Host.Outcome State Fault Refusal := regDo A.OX_CTL s (fun d => d.oxEn en)

/-- A peripheral asks for a burst (R308, R309). -/
def execPeripheralRequest (line : Byte) (s : State) : Host.Outcome State Fault Refusal :=
  mainDo s (fun d =>
    (d.onOx (fun o => if line.toNat ∈ o.lines then o else { o with lines := o.lines ++ [line.toNat] })).oxGrant)

def execRequestWithdrawal (line : Byte) (s : State) : Host.Outcome State Fault Refusal :=
  mainDo s (fun d => d.oxWithdraw line.toNat)

/-- The next burst of a channel: source, destination, bytes (R304, R307). A gather whose LEN is no whole number of elements ends within its
last one (DESIGN CHOICE, assumption 133). -/
def Dev.oxBurst (d : Dev) (s : OxSet) (done : Nat) : Nat × Nat × Nat :=
  let dst := (oxAddrs s done).2
  if s.mode = 1 then
    let e := done % s.esize
    let a := s.src + d.oxOffset s (done / s.esize) + e
    (a, dst, Nat.min (256 - a % 256) (Nat.min (s.esize - e) (s.len - done)))
  else
    let a := s.src + done
    (a, dst, Nat.min (256 - a % 256) (s.len - done))

/-- The region of R19 that holds an address, as the number of a row of its table. -/
def regionOf (a : Nat) : Nat :=
  if a < 0x40000 then 1
  else if 0x10000000 ≤ a ∧ a < 0x11000000 then 2
  else if 0x20000000 ≤ a ∧ a < 0x20200000 then 3
  else if isZt a then 4
  else if 0x40000000 ≤ a ∧ a < 0x42000000 then 5
  else if isWindow a then 6
  else if periBase ≤ a ∧ a < periBase + 0x1000000 then 7
  else if isDram a then 8 else 0

/-- The bus error that a code of R23 names. -/
def errOfCode (c : Nat) : Option BusErr :=
  match c with
  | 1 => some .gated | 2 => some .decode | 3 => some .uncorr | 4 => some .xreset | 5 => some .erasing
  | 6 => some .locked | 7 => some .prot | _ => none

/-- The place of an error in the order of R23. -/
def BusErr.rank : BusErr → Nat
  | .decode => 0 | .prot => 1 | .gated => 2 | .xreset => 3 | .locked => 4 | .erasing => 5 | .uncorr => 6

/-- The error that comes first in the order of R23; of two alike the one that stands first. -/
def firstErr : List (BusErr × Nat × Bool) → Option (BusErr × Nat × Bool)
  | [] => none
  | x :: r =>
    match firstErr r with
    | some y => if y.1.rank < x.1.rank then some y else some x
    | none => some x

/-- The first address of a burst at which Ox fails, and how. DEDUCED (assumption 133): it accesses registers by 8-byte words,
because every address and length of a transfer is a multiple of 8 (R304). -/
def Dev.oxRange (d : Dev) (n : OxN) (a len : Nat) (write : Bool) (hit : Hit := .none) : Option (BusErr × Nat) :=
  if regionOf a = 7 then
    (List.range ((len + 7) / 8)).findSome? (fun i => (d.accessErr (.ox n) (a + 8 * i) write hit).map (fun e => (e, a + 8 * i)))
  else d.rangeErr (.ox n) a len write hit

/-- The bytes of a gather's index table that are fetched before a burst: a batch of 64 offsets, or those that are left (R307). -/
def oxBatch (s : OxSet) (done : Nat) : Nat :=
  if s.mode = 1 ∧ done % (64 * s.esize) = 0 then 4 * Nat.min 64 ((s.len - done + s.esize - 1) / s.esize) else 0

/-- The error of fetching the entries of a gather's index table before a burst (R22, R23, R307). -/
def Dev.oxIdxErr (d : Dev) (n : OxN) (s : OxSet) (done : Nat) : Option (BusErr × Nat × Bool) :=
  (d.rangeErr (.ox n) (s.idx + 4 * (done / s.esize)) (oxBatch s done) false).map (fun x => (x.1, x.2, false))

/-- An element address lies beyond the region of the source (R307). -/
def oxBeyond (s : OxSet) (src len : Nat) : Bool :=
  decide (s.mode = 1) && s.srcMem && decide (regionOf (src + len - 1) ≠ regionOf s.src)

/-- The error of a burst: of the source, a gather beyond its region among them (R307), of the destination, or as the fabric
reports it; of several the first in the order of R23 (R311). The answer is the error, its address and whether it was a store; `hit` is what
the read of the source meets on its way. -/
def Dev.oxError (d : Dev) (n : OxN) (s : OxSet) (src dst len : Nat) (err : Option (Fin 8 × W64)) (hit : Hit) :
    Option (BusErr × Nat × Bool) :=
  let beyond := if oxBeyond s src len then some (BusErr.decode, src, false) else none
  let rd := (if s.srcMem then d.oxRange n src len false hit else none).map (fun x => (x.1, x.2, false))
  let wr := (if s.dstMem then d.oxRange n dst len true else none).map (fun x => (x.1, x.2, true))
  let fabric := match err with
    | some (c, a) => (errOfCode c.val).map (fun e => (e, a.toNat % 2 ^ 40, !decide (src ≤ a.toNat ∧ a.toNat < src + len)))
    | none => none
  firstErr ([beyond, rd, wr, fabric].filterMap id)

/-- The 64-bit words that bytes make. -/
def words64 : List Byte → List W64
  | a :: b :: c :: e :: f :: g :: h :: i :: r => BitVec.ofNat 64 (ofLe [a, b, c, e, f, g, h, i]) :: words64 r
  | _ => []

/-- The bytes of a burst reach their destination (R308). What a Mule port takes goes into its channel buffer; its parity
delivery is a command of its own. -/
def Dev.oxDeliver (d : Dev) (s : OxSet) (dst : Nat) (b : List Byte) : Dev :=
  if s.req = 1 ∨ (s.dstMem ∧ dst = A.CIRQUE_PFIFO) then d.each (words64 b) (fun d x => d.pfifoPush x)
  else if s.dstMem then d.storeBytes dst b
  else if s.req = 3 then
    let fn : FnN := ⟨s.arg % 256, by omega⟩
    (d.markPages fn.val [dst / 4096]).onHost (fun h =>
      { h with out := h.out ++ [.bytes { fn := fn, qid := 0, cid := 0 } b] })
  else if s.req = 4 then d.sendFrame (.bulk (s.arg % 256) (.bytes b))
  else d

/-- HALF and FULL (R306). -/
def Dev.oxEvents (d : Dev) (n : Nat) (s : OxSet) (old done : Nat) (full : Bool) : Dev :=
  let half := decide (2 * old < s.len) && decide (s.len ≤ 2 * done)
  let d := if half then
      let d := d.setBit A.OX_INTST (2 * n) true
      if s.halfIe then d.oxIrq n s.core else d
    else d
  if full && decide (done = s.len) then
    let d := d.setBit A.OX_INTST (2 * n + 1) true
    if s.fullIe then d.oxIrq n s.core else d
  else d

/-- What the channel does after a burst (R305, R310, R313). -/
def Dev.oxAfter (d : Dev) (n : Nat) (s : OxSet) (done : Nat) : Dev :=
  if n ∈ d.ox.wdraw then d.oxHalt n 3
  else if n ∈ d.ox.stopping then d.oxHalt n 5
  else if done = s.len then (if d.bit (A.OX_STAT n) 9 then d.oxStart n else d.setFld (A.OX_STAT n) 2 0 2)
  else d

/-- A burst completes (R306, R311). `moved` is what a port source gave, `hit` what the read of a source in memory meets (R165, R168). -/
def Dev.oxDone (d : Dev) (n : OxN) (err : Option (Fin 8 × W64)) (moved : List Byte) (hit : Hit) : Dev :=
  if d.ox.flight ≠ [n.val] then d
  else
    let s := d.oxAct n.val
    let old := d.fld (A.OX_DONE n.val) 27 0
    let b := d.oxBurst s old
    let bad := match d.oxIdxErr n s old with
      | some e => some e
      | none => d.oxError n s b.1 b.2.1 b.2.2 err hit
    match bad with
    | some (e, a, w) =>
      let keep := if oxBeyond s b.1 b.2.2 then old / s.esize * s.esize else old
      let d := (d.setReg (A.OX_DONE n.val) keep).failAccess (.ox n) a w e (if w then .none else hit)
      let d := d.onOx (fun o => { o with stopping := o.stopping.filter (· != n.val), wdraw := o.wdraw.filter (· != n.val) })
      (d.oxIrq n.val s.core).oxFree
    | none =>
      let data := if s.srcMem then d.loadBytes b.1 b.2.2 else (List.range b.2.2).map (fun i => moved.getD i 0)
      let d := d.touchRange (s.idx + 4 * (old / s.esize)) (oxBatch s old)
      let d := if s.srcMem then d.touchRange b.1 b.2.2 hit else d
      let d := d.oxDeliver s b.2.1 data
      let done := old + b.2.2
      let d := (d.oxShow n.val s done).oxEvents n.val s old done (!decide (n.val ∈ d.ox.wdraw))
      (d.oxAfter n.val s done).oxFree

def execOxBurstComplete (n : OxN) (err : Option (Fin 8 × W64)) (moved : List Byte) (hit : Hit) (s : State) :
    Host.Outcome State Fault Refusal :=
  mainDo s (fun d => d.oxDone n err moved hit)

end Sys2Proof.Machine
end

