-- ==== Sys2Proof/Machine/HenDram.lean ====
section
/-! DEFINITION. The DRAM scrubber and DRAMC's test port (R166 to R172). -/

namespace Sys2Proof.Machine


def execHenCtlEnWrite (v : BitVec 3) (s : State) : Host.Outcome State Fault Refusal := regDo A.HEN_CTL s (fun d => d.henCtl v)

/-- The last burst that Hen walks: HEN_LIMIT, within the installed DRAM (R169). -/
def Dev.henLast (d : Dev) : Nat := Nat.min (d.rd A.HEN_LIMIT).toNat (0x1000000000 + d.board.dramGib * 2 ^ 30 - 64)

/-- Hen reads a burst of the installed DRAM only (R169). -/
def Dev.henWalks (d : Dev) (p : Nat) : Bool := isDram p && decide (p ≤ d.henLast)

/-- Hen moves on; the end of a pass counts it and starts again (R169). -/
def Dev.henStep (d : Dev) (ms : Nat) : Dev :=
  let p := (d.rd A.HEN_PTR).toNat
  if p < d.henLast then d.setReg A.HEN_PTR (p + 64)
  else
    let d := (d.wr64 A.HEN_PTR (d.rd A.HEN_BASE)).count A.HEN_PASS 32 1
    (d.setReg A.HEN_PASS_MS (ms % 2 ^ 32)).onDram (fun m => { m with passCorr := [] })

/-- An uncorrectable burst (R169). -/
def Dev.henUnc (d : Dev) (p : Nat) : Dev :=
  let d := (d.onDram (fun m => { m with bad := m.bad.filter (· != p) ++ [p] })).dramUnc p
  let d := d.count A.HEN_CNT_UNC 64 1
  let d := if d.bit A.HEN_UNC_ADDR 63 then d else d.setReg A.HEN_UNC_ADDR (2 ^ 63 + p)
  let d := (d.setBit A.HEN_STAT 2 true).hwPost 0x0C00 3 5 p
  let d := d.irq 0x0C00
  if d.bit A.HEN_CTL 1 then
    ((d.setBit A.HEN_CTL 0 false).setBit A.HEN_STAT 0 false).onDram (fun m => { m with heldEn := false })
  else d

/-- A corrected burst (R169). -/
def Dev.henCorr (d : Dev) (p v : Nat) : Dev :=
  let d := (d.corrected p v).count A.HEN_CNT_CORR 64 1
  if d.bit A.HEN_CTL 2 then
    match d.burstAt p with
    | .corr _ x | .clean x => (d.dramFresh p).setBytes p ((List.range 64).map (fun k => BitVec.ofNat 8 (byteAt x k)))
    | .unc => d
  else d

/-- The drain is over. -/
def Dev.henDrained (d : Dev) : Dev :=
  if d.bit A.HEN_STAT 1 then
    let d := d.setBit A.HEN_STAT 1 false
    if d.dram.heldEn then (d.setBit A.HEN_STAT 0 true).onDram (fun m => { m with heldEn := false }) else d
  else d

/-- Hen reads a burst (R169): `devs` are the devices that fail in it, `ms` how long the pass has taken. -/
def Dev.henRead (d : Dev) (devs : List (Fin 10)) (ms : Nat) : Dev :=
  if !d.bit A.HEN_STAT 0 && !d.bit A.HEN_STAT 1 then d
  else
    let p := (d.rd A.HEN_PTR).toNat
    let d := if d.armed p || !d.henWalks p then d
      else match d.burstWith p devs with
        | .clean _ => d
        | .corr v _ => d.henCorr p v
        | .unc => d.henUnc p
    (d.henStep ms).henDrained

def execHenBurst (devs : List (Fin 10)) (ms : Nat) (s : State) : Host.Outcome State Fault Refusal :=
  mainDo s (fun d => d.henRead devs ms)

/-! The test port (R171). -/

/-- The test data and check bytes. -/
def Dev.testData (d : Dev) : BitVec 512 :=
  BitVec.ofNat 512 ((List.range 8).foldl (fun x i => x + (d.rd (A.DRAMC_TESTDATA i)).toNat * 2 ^ (64 * i)) 0)
def Dev.testChk (d : Dev) : BitVec 128 :=
  BitVec.ofNat 128 ((d.rd (A.DRAMC_TESTCHK 0)).toNat + (d.rd (A.DRAMC_TESTCHK 1)).toNat * 2 ^ 64)

/-- OP WRITE: ignored unless ARM is 1. A burst whose check bytes fit is a good burst. -/
def Dev.testWrite (d : Dev) : Dev :=
  let d := d.setFld A.DRAMC_ECCTEST 2 1 1
  if !d.bit A.DRAMC_ECCTEST 4 then d
  else
    let a := (d.rd A.DRAMC_TESTADDR).toNat
    let x := d.testData
    let c := d.testChk
    if c = symbolCheck a x then
      (d.dramFresh a).setBytes a ((List.range 64).map (fun k => BitVec.ofNat 8 (byteAt x k)))
    else d.onDram (fun m =>
      { m with raw := SMap.put m.raw a x, chk := SMap.set (fun _ => 0) m.chk a c, bad := m.bad.filter (· != a) })

def execDramcEcctestWrite (s : State) : Host.Outcome State Fault Refusal := regDo A.DRAMC_ECCTEST s Dev.testWrite

/-- OP READRAW: the burst as it is stored. What stands in a burst that failed on its own is open (assumption 2). -/
def Dev.testRead (d : Dev) : Dev :=
  let d := d.setFld A.DRAMC_ECCTEST 2 1 2
  if !d.bit A.DRAMC_ECCTEST 4 then d
  else
    let a := (d.rd A.DRAMC_TESTADDR).toNat
    let own := decide (a ∈ d.dram.bad)
    let x : BitVec 512 := if own then Config.free512 d.free
      else match SMap.find d.dram.raw a with | some x => x | none => d.burstMem a
    let c : BitVec 128 := if own then (Config.free512 (d.free + 1)).setWidth 128
      else match SMap.find d.dram.raw a with
        | some _ => SMap.get (fun _ => 0) d.dram.chk a
        | none => symbolCheck a (d.burstMem a)
    let d := if own then d.draw.draw else d
    let d := d.each (List.range 8) (fun d i => d.setReg (A.DRAMC_TESTDATA i) (x.toNat / 2 ^ (64 * i) % 2 ^ 64))
    d.each (List.range 2) (fun d j => d.setReg (A.DRAMC_TESTCHK j) (c.toNat / 2 ^ (64 * j) % 2 ^ 64))

def execDramcEcctestReadraw (s : State) : Host.Outcome State Fault Refusal := regDo A.DRAMC_ECCTEST s Dev.testRead

end Sys2Proof.Machine
end

