-- ==== Sys2Proof/Machine/Sha.lean ====
section
/-! DEFINITION. SHA-384 as FIPS 180-4 defines it (R392), HMAC-SHA-384, and the counter-mode KDF of SP 800-108 over it (R210,
R230). PRESUMED: the manual names them and prints none of them (assumption 144). -/

namespace Sys2Proof.Machine

/-- The round constants 0 to 19. -/
def sha512K0 : List W64 :=
  [0x428a2f98d728ae22, 0x7137449123ef65cd, 0xb5c0fbcfec4d3b2f, 0xe9b5dba58189dbbc, 0x3956c25bf348b538,
   0x59f111f1b605d019, 0x923f82a4af194f9b, 0xab1c5ed5da6d8118, 0xd807aa98a3030242, 0x12835b0145706fbe,
   0x243185be4ee4b28c, 0x550c7dc3d5ffb4e2, 0x72be5d74f27b896f, 0x80deb1fe3b1696b1, 0x9bdc06a725c71235,
   0xc19bf174cf692694, 0xe49b69c19ef14ad2, 0xefbe4786384f25e3, 0x0fc19dc68b8cd5b5, 0x240ca1cc77ac9c65]

/-- The round constants 20 to 39. -/
def sha512K1 : List W64 :=
  [0x2de92c6f592b0275, 0x4a7484aa6ea6e483, 0x5cb0a9dcbd41fbd4, 0x76f988da831153b5, 0x983e5152ee66dfab,
   0xa831c66d2db43210, 0xb00327c898fb213f, 0xbf597fc7beef0ee4, 0xc6e00bf33da88fc2, 0xd5a79147930aa725,
   0x06ca6351e003826f, 0x142929670a0e6e70, 0x27b70a8546d22ffc, 0x2e1b21385c26c926, 0x4d2c6dfc5ac42aed,
   0x53380d139d95b3df, 0x650a73548baf63de, 0x766a0abb3c77b2a8, 0x81c2c92e47edaee6, 0x92722c851482353b]

/-- The round constants 40 to 59. -/
def sha512K2 : List W64 :=
  [0xa2bfe8a14cf10364, 0xa81a664bbc423001, 0xc24b8b70d0f89791, 0xc76c51a30654be30, 0xd192e819d6ef5218,
   0xd69906245565a910, 0xf40e35855771202a, 0x106aa07032bbd1b8, 0x19a4c116b8d2d0c8, 0x1e376c085141ab53,
   0x2748774cdf8eeb99, 0x34b0bcb5e19b48a8, 0x391c0cb3c5c95a63, 0x4ed8aa4ae3418acb, 0x5b9cca4f7763e373,
   0x682e6ff3d6b2b8a3, 0x748f82ee5defb2fc, 0x78a5636f43172f60, 0x84c87814a1f0ab72, 0x8cc702081a6439ec]

/-- The round constants 60 to 79. -/
def sha512K3 : List W64 :=
  [0x90befffa23631e28, 0xa4506cebde82bde9, 0xbef9a3f7b2c67915, 0xc67178f2e372532b, 0xca273eceea26619c,
   0xd186b8c721c0c207, 0xeada7dd6cde0eb1e, 0xf57d4f7fee6ed178, 0x06f067aa72176fba, 0x0a637dc5a2c898a6,
   0x113f9804bef90dae, 0x1b710b35131c471b, 0x28db77f523047d84, 0x32caab7b40c72493, 0x3c9ebe0a15c9bebc,
   0x431d67c49c100d4c, 0x4cc5d4becb3e42b6, 0x597f299cfc657e2a, 0x5fcb6fab3ad6faec, 0x6c44198c4a475817]


def sha512K : List W64 := sha512K0 ++ sha512K1 ++ sha512K2 ++ sha512K3

def rotr64 (x : W64) (n : Nat) : W64 := x.rotateRight n

/-- The number that bytes spell with the first one highest. -/
def ofBe (l : List Byte) : Nat := l.foldl (fun x b => x * 256 + b.toNat) 0

/-- The n low bytes of a number, the highest first. -/
def beBytes (n x : Nat) : List Byte := (leBytes n x).reverse

/-- The message schedule: w holds the last 16 words, the oldest first; n further words follow. -/
def shaSchedule : Nat → List W64 → List W64
  | 0, w => w
  | n + 1, w =>
    let a := w.getD 1 0
    let b := w.getD 14 0
    let s0 := rotr64 a 1 ^^^ rotr64 a 8 ^^^ (a >>> 7)
    let s1 := rotr64 b 19 ^^^ rotr64 b 61 ^^^ (b >>> 6)
    w.headD 0 :: shaSchedule n (w.tail ++ [w.headD 0 + s0 + w.getD 9 0 + s1])

/-- The working variables of a round. -/
structure ShaVars where
  a : W64
  b : W64
  c : W64
  d : W64
  e : W64
  f : W64
  g : W64
  h : W64
  deriving DecidableEq, Repr

/-- One round, with its constant and word. -/
def shaRound (v : ShaVars) (kw : W64 × W64) : ShaVars :=
  let s1 := rotr64 v.e 14 ^^^ rotr64 v.e 18 ^^^ rotr64 v.e 41
  let ch := (v.e &&& v.f) ^^^ (~~~ v.e &&& v.g)
  let t1 := v.h + s1 + ch + kw.1 + kw.2
  let s0 := rotr64 v.a 28 ^^^ rotr64 v.a 34 ^^^ rotr64 v.a 39
  let maj := (v.a &&& v.b) ^^^ (v.a &&& v.c) ^^^ (v.b &&& v.c)
  { a := t1 + (s0 + maj), b := v.a, c := v.b, d := v.c, e := v.d + t1, f := v.e, g := v.f, h := v.g }

def ShaVars.add (x y : ShaVars) : ShaVars :=
  { a := x.a + y.a, b := x.b + y.b, c := x.c + y.c, d := x.d + y.d, e := x.e + y.e, f := x.f + y.f, g := x.g + y.g, h := x.h + y.h }

/-- One block of 128 bytes. -/
def shaBlock (v : ShaVars) (m : List Byte) : ShaVars :=
  let w := (List.range 16).map (fun i => BitVec.ofNat 64 (ofBe ((m.drop (8 * i)).take 8)))
  v.add ((sha512K.zip (shaSchedule 64 w)).foldl shaRound v)

/-- The blocks of a padded message; n bounds their number. -/
def shaBlocks : Nat → ShaVars → List Byte → ShaVars
  | 0, v, _ => v
  | n + 1, v, m => if m.isEmpty then v else shaBlocks n (shaBlock v (m.take 128)) (m.drop 128)

/-- A message with its padding and its length. -/
def shaPad (m : List Byte) : List Byte :=
  m ++ [0x80] ++ List.replicate ((239 - m.length % 128) % 128) 0 ++ beBytes 16 (8 * m.length)

/-- The initial values of SHA-384. -/
def sha384Init : ShaVars :=
  { a := 0xcbbb9d5dc1059ed8, b := 0x629a292a367cd507, c := 0x9159015a3070dd17, d := 0x152fecd8f70e5939
    e := 0x67332667ffc00b31, f := 0x8eb44a8768581511, g := 0xdb0c2e0d64f98fa7, h := 0x47b5481dbefa4fa4 }

/-- SHA-384: 48 bytes. -/
def sha384 (m : List Byte) : List Byte :=
  let p := shaPad m
  let v := shaBlocks (p.length / 128) sha384Init p
  [v.a, v.b, v.c, v.d, v.e, v.f].flatMap (fun x => beBytes 8 x.toNat)

/-- HMAC-SHA-384 (FIPS 198-1). -/
def hmac384 (key m : List Byte) : List Byte :=
  let k := if 128 < key.length then sha384 key else key
  let k := k ++ List.replicate (128 - k.length) 0
  sha384 (k.map (· ^^^ 0x5C) ++ sha384 (k.map (· ^^^ 0x36) ++ m))

/-- The first 256 bits of the counter-mode KDF of SP 800-108. DESIGN CHOICE (assumption 144): a 32-bit counter, an empty context and a
32-bit length, which the standard leaves to its user. -/
def kdf256 (key label : List Byte) : BitVec 256 :=
  BitVec.ofNat 256 (ofLe ((hmac384 key (beBytes 4 1 ++ label ++ [0] ++ beBytes 4 256)).take 32))

/-- The characters of the two labels: DX9712-KWK (R210) and DX9712-PWK (R230). -/
def kwkLabel : List Byte := [0x44, 0x58, 0x39, 0x37, 0x31, 0x32, 0x2D, 0x4B, 0x57, 0x4B]
def pwkLabel : List Byte := [0x44, 0x58, 0x39, 0x37, 0x31, 0x32, 0x2D, 0x50, 0x57, 0x4B]

end Sys2Proof.Machine
end

