-- ==== Sys2Proof/Machine/CipherCl.lean ====
section
/-! DEFINITION. The cipher cluster (R203 to R223): key operations, messages and their scheduler, locks, direct jobs, saved
contexts, alarms. -/

namespace Sys2Proof.Machine

/-! Key operations (R206, R207, R210, R211). -/

def Dev.cipherAlarmed (d : Dev) : Bool := d.bit A.CIPHER_STAT 1

/-- The attribute block of CIPHER_KATTR (R209). -/
def Dev.kattr (d : Dev) : BitVec 128 :=
  BitVec.ofNat 128 ((d.rd (A.CIPHER_KATTR 0)).toNat + (d.rd (A.CIPHER_KATTR 1)).toNat * 2 ^ 64)

/-- CIPHER_KIN as a number. -/
def Dev.kin (d : Dev) : Nat :=
  (List.range 11).foldl (fun x i => x + (SMap.get (fun _ => (0 : BitVec 64)) d.cipher.kin i).toNat * 2 ^ (64 * i)) 0

/-- The selected wrap key, where it is ready (R210): KWK, or PWK once loaded. -/
def Dev.wrapKw (d : Dev) (pwk : Bool) : Option (BitVec 256) :=
  if pwk then
    if d.bit A.CIPHER_STAT 3 then
      some (BitVec.ofNat 256 ((List.range 4).foldl (fun x i =>
        x + (SMap.get (fun _ => (0 : BitVec 64)) d.cipher.pwk i).toNat * 2 ^ (64 * i)) 0))
    else none
  else d.cipher.kwk

/-- The end of every key operation: the result, and CIPHER_KIN cleared. -/
def Dev.kopEnd (d : Dev) (res : Nat) : Dev := (d.setFld A.CIPHER_KOP 15 12 res).onCipher (fun c => { c with kin := [] })

/-- The slot field of CIPHER_KOP as written. -/
def Dev.kopSlot (d : Dev) (slot : Nat) : Dev := d.setFld A.CIPHER_KOP 27 16 slot

/-- CIPHER_KOUT. -/
def Dev.setKout (d : Dev) (x : BitVec 704) : Dev :=
  d.each (List.range 11) (fun d i => d.setReg (A.CIPHER_KOUT i) (x.toNat / 2 ^ (64 * i) % 2 ^ 64))

/-- A key as the generator gives it: halves redrawn until unequal (R211). Where the first draw has equal halves, the second half
becomes any other value. -/
def freshKey (free : Nat) : BitVec 512 :=
  let k := Config.drbgKey free
  if halvesEqual k then k ^^^ BitVec.ofNat 512 ((1 + Config.freeNat free % (2 ^ 256 - 1)) * 2 ^ 256) else k

/-- GENERATE. -/
def Dev.kopGenerate (d : Dev) (slot : Nat) : Dev :=
  let d := d.kopSlot slot
  if d.cipherAlarmed then d.kopEnd 1
  else ((d.setSlot slot (.key (freshKey d.free) d.kattr)).draw).kopEnd 0

def execGenerate (slot : SlotN) (s : State) : Host.Outcome State Fault Refusal :=
  regDo A.CIPHER_KOP s (fun d => d.kopGenerate slot.val)

/-- LOAD_CLEAR. -/
def Dev.kopLoadClear (d : Dev) (slot : Nat) : Dev :=
  let d := d.kopSlot slot
  let k := BitVec.ofNat 512 d.kin
  if d.cipherAlarmed then d.kopEnd 1
  else if halvesEqual k then d.kopEnd 2
  else (d.setSlot slot (.key k d.kattr)).kopEnd 0

def execLoadClear (slot : SlotN) (s : State) : Host.Outcome State Fault Refusal :=
  regDo A.CIPHER_KOP s (fun d => d.kopLoadClear slot.val)

/-- LOAD_WRAPPED. DESIGN CHOICE (assumption 146): equal halves, which R204 refuses at every load, give KEYEQ, as R211 lists it for
LOAD_CLEAR. -/
def Dev.kopLoadWrapped (d : Dev) (slot : Nat) (pwk : Bool) : Dev :=
  let d := (d.kopSlot slot).setBit A.CIPHER_KOP 8 pwk
  if d.cipherAlarmed then d.kopEnd 1
  else match d.wrapKw pwk with
    | none => d.kopEnd 5
    | some kw =>
      match unwrapKey kw (BitVec.ofNat 704 d.kin) with
      | none => d.kopEnd 3
      | some (k, a) =>
        if halvesEqual k then d.kopEnd 2
        else if d.inPenRange (byteAt a 1) slot then (d.setSlot slot (.key k a)).kopEnd 0
        else d.kopEnd 4

def execLoadWrapped (slot : SlotN) (pwk : Bool) (s : State) : Host.Outcome State Fault Refusal :=
  regDo A.CIPHER_KOP s (fun d => d.kopLoadWrapped slot.val pwk)

/-- EXPORT_WRAPPED: in an alarm CIPHER_KOUT reads 0 (R221). DESIGN CHOICE (assumption 146): an empty slot gives EMPTY though the wrap
key is not ready either. -/
def Dev.kopExport (d : Dev) (slot : Nat) (pwk : Bool) : Dev :=
  let d := (d.kopSlot slot).setBit A.CIPHER_KOP 8 pwk
  if d.cipherAlarmed then (d.setKout 0).kopEnd 1
  else match d.slot slot with
    | .key k _ =>
      match d.wrapKw pwk with
      | none => d.kopEnd 5
      | some kw => (d.setKout (wrapKey kw k d.kattr)).kopEnd 0
    | _ => d.kopEnd 6

/-- ZERO. -/
def Dev.kopZero (d : Dev) (slot : Nat) : Dev := ((d.kopSlot slot).setSlot slot .empty).kopEnd 0

def execZero (slot : SlotN) (s : State) : Host.Outcome State Fault Refusal :=
  regDo A.CIPHER_KOP s (fun d => d.kopZero slot.val)

/-- LOAD_BYPASS. -/
def Dev.kopBypass (d : Dev) (slot : Nat) : Dev := ((d.kopSlot slot).setSlot slot .bypass).kopEnd 0

def execLoadBypass (slot : SlotN) (s : State) : Host.Outcome State Fault Refusal :=
  regDo A.CIPHER_KOP s (fun d => d.kopBypass slot.val)

/-- OP 0x7 to 0xF: nothing starts, CIPHER_KIN is cleared, RESULT is BADOP (R211). -/
def Dev.kopBad (d : Dev) (op : Nat) : Dev := if 7 ≤ op then d.kopEnd 7 else d

def execKopUndefined (op : BitVec 4) (s : State) : Host.Outcome State Fault Refusal :=
  regDo A.CIPHER_KOP s (fun d => d.kopBad op.toNat)

/-! Messages and their scheduler (R208, R213, R215, R216). -/

def coreIdle (_ : Nat) : CCore := { run := none, since := 0, susp := none, ctx := none }

def Dev.ccore (d : Dev) (c : Nat) : CCore := SMap.get coreIdle d.cipher.cores c

def Dev.setCcore (d : Dev) (c : Nat) (x : CCore) : Dev :=
  let d := d.onCipher (fun q => { q with cores := SMap.set coreIdle q.cores c x })
  d.setBit (A.CIPHER_CORE_STAT c) 2 x.susp.isSome

/-- A core is in the pool. -/
def Dev.pooled (d : Dev) (c : Nat) : Bool := d.bit (A.CIPHER_CORE_STAT c) 0

/-- Start a message on a core, which loads its key from the slot (R207). -/
def Dev.startMsg (d : Dev) (c : Nat) (m : CMsg) : Dev :=
  d.setCcore c { d.ccore c with run := some m, since := d.tick, mkey := d.slot m.slot.val }

/-- The blocks that a running message has left: one block a CRY cycle, two FAB cycles (R204, R216). -/
def Dev.blocksLeft (d : Dev) (c : Nat) (m : CMsg) : Nat := m.blocks - (d.tick - (d.ccore c).since) / 2

/-- The lowest free core of the pool. -/
def Dev.freeCore (d : Dev) : Option Nat := (List.range 24).find? (fun c => d.pooled c && (d.ccore c).run.isNone)

/-- The order of victims (R216): class, blocks left, core. -/
def Dev.victimBefore (d : Dev) (a b : Nat × CMsg) : Bool :=
  if a.2.cls.val ≠ b.2.cls.val then decide (b.2.cls.val < a.2.cls.val)
  else decide (d.blocksLeft b.1 b.2 < d.blocksLeft a.1 a.2)

/-- The victim of a class 0 read. -/
def Dev.cipherVictim (d : Dev) : Option (Nat × CMsg) :=
  let cs := (List.range 24).filterMap (fun c =>
    match (d.ccore c).run with
    | some m => if d.pooled c && (d.ccore c).susp.isNone && decide (m.cls.val ≠ 0) then some (c, m) else none
    | none => none)
  cs.foldl (fun b x => match b with
    | none => some x
    | some y => if d.victimBefore x y then some x else some y) none

/-- The firmware's completion of a refused message: its status, and the record (R208). A read leaves Col, a write is
never acknowledged (R69). -/
def Dev.refuseMsg (d : Dev) (m : CMsg) (range : Bool) : Dev :=
  let d := d.noteRefused m.pen.val m.slot.val range
  let st := if range then Status.internal else .nsNotReady
  match d.host.reads.find? (fun r => r.h == m.cmd) with
  | some r =>
    ((((d.dropRead r).count A.COL_CNT_FB 64 1).toFw r.h r.q (readSqe r.c r.h.cid) r.t0 true r.pen r.cls).complete r.h st).pumpZones
  | none =>
    match d.wr.entries.find? (fun e => decide (e.h = m.cmd) && !e.acked && decide (e.q ≠ peerQ)) with
    | some e => d.failEntry e st
    | none => d.complete m.cmd st

/-- The waiting message that comes next: by class, then by arrival (R213). -/
def nextMsg (q : List CMsg) : Option CMsg :=
  q.foldl (fun b m => match b with
    | none => some m
    | some x => if m.cls.val < x.cls.val then some m else some x) none

/-- A message leaves the queue. -/
def Dev.unqueue (d : Dev) (m : CMsg) : Dev := d.onCipher (fun q => { q with queue := q.queue.filter (fun x => x != m) })

/-- A class 0 read takes a victim's core (R216). -/
def Dev.suspendFor (d : Dev) (m : CMsg) (c : Nat) (v : CMsg) : Dev :=
  let x := d.ccore c
  (d.setCcore c { x with run := some m, since := d.tick, mkey := d.slot m.slot.val
                         susp := some { v with blocks := d.blocksLeft c v }, skey := x.mkey }).count A.CIPHER_CNT_SUSP 64 1

/-- Give waiting messages to cores (R213, R216); `f` bounds their number: the next one to a free core; where none is free, the class 0
read that has waited longest to a victim's. A message whose slot has been emptied, or has left its Pen's range, is refused (R208). -/
def Dev.cipherPump (d : Dev) : Nat → Dev
  | 0 => d
  | f + 1 =>
    if !d.bit A.CIPHER_STAT 0 then d
    else match d.freeCore with
      | some c =>
        match nextMsg d.cipher.queue with
        | none => d
        | some m =>
          let d := d.unqueue m
          (if !d.inPenRange m.pen.val m.slot.val then d.refuseMsg m true
           else if d.slot m.slot.val = .empty then d.refuseMsg m false
           else d.startMsg c m).cipherPump f
      | none =>
        match d.cipher.queue.find? (fun m => m.read && decide (m.cls.val = 0)), d.cipherVictim with
        | some m, some (c, v) =>
          let d := d.unqueue m
          (if !d.inPenRange m.pen.val m.slot.val then d.refuseMsg m true
           else if d.slot m.slot.val = .empty then d.refuseMsg m false
           else d.suspendFor m c v).cipherPump f
        | _, _ => d

/-- The scheduler takes up what waits. -/
def Dev.cipherGo (d : Dev) : Dev := d.cipherPump d.cipher.queue.length

/-- A message arrives: range and slot are checked, then it has a core, suspends a victim, or waits. -/
def Dev.message (d : Dev) (m : CMsg) : Dev :=
  if !d.inPenRange m.pen.val m.slot.val then d.refuseMsg m true
  else if d.slot m.slot.val = .empty then d.refuseMsg m false
  else (d.onCipher (fun q => { q with queue := q.queue ++ [m] })).cipherGo

/-- An enabled core that nobody holds is in the pool (R215). -/
def Dev.poolIn (d : Dev) (c : Nat) : Dev :=
  if d.bit (A.CIPHER_CORE_CTL c) 0 && decide (d.fld (A.CIPHER_LOCK c) 6 0 = 0) && !d.bit (A.CIPHER_CORE_STAT c) 1 then
    (d.setBit (A.CIPHER_CORE_STAT c) 0 true).setReg (A.CIPHER_LOCK c) 0x7F
  else d

/-- A draining core that has finished leaves the pool, and an enable set meanwhile takes effect (R215). -/
def Dev.drained (d : Dev) (c : Nat) : Dev :=
  if d.bit (A.CIPHER_CORE_STAT c) 1 && (d.ccore c).run.isNone then
    ((d.setBit (A.CIPHER_CORE_STAT c) 1 false).setReg (A.CIPHER_LOCK c) 0).poolIn c
  else d

/-! Alarms (R219, R220). -/

/-- The messages that cores run or hold suspended. -/
def Dev.coreMsgs (d : Dev) : List CMsg := d.cipher.cores.flatMap (fun x => x.2.run.toList ++ x.2.susp.toList)

/-- Zeroization (R220, R221): slots, KWK, PWK, key schedules, suspended states and CTXBUF are cleared; running messages and jobs, and
suspended messages, end with ALARM. -/
def Dev.zeroize (d : Dev) : Dev :=
  let ended := d.coreMsgs
  let d := d.each (List.range 24) (fun d c =>
    let d := d.each (List.range 7) (fun d k => d.setReg (A.CIPHER_CTXBUF c k) 0)
    let d := d.setBit (A.CIPHER_CORE_STAT c) 2 false
    if d.fld (A.CIPHER_JOB_STAT c) 2 0 = 1 then d.setFld (A.CIPHER_JOB_STAT c) 2 0 3 else d)
  let d := d.onCipher (fun c =>
    { c with slots := [], genAll := (c.genAll + 1) % 65536, kwk := none, pwk := [], cores := [], alarmed := c.alarmed ++ ended })
  (d.setFld A.CIPHER_STAT 3 2 0).each (List.range 24) Dev.drained

/-- The hardware side of an alarm (R219, R220): its bit holds and the keys go. On the NP code the
cluster is fused off (R3). -/
def Dev.alarmHw (d : Dev) (n : Nat) : Dev :=
  if d.board.code.val = 2 then d else
  ((d.zeroize).setBit A.CIPHER_ALARM n true).setBit A.CIPHER_STAT 1 true

/-- The namespace of an index has a key. -/
def Dev.keyedNsx (d : Dev) (nsx : Nat) : Bool := d.media.nss.any (fun x => x.keyed && decide (x.nsx = nsx))

/-- The I/O commands to encrypted namespaces that are in hand beside the entries of the buffer: reads, writes that wait, commands of
the firmware path and those that wait for admission. -/
def Dev.keyedCmds (d : Dev) : List Hdr :=
  ((d.host.reads.filter (fun r => d.keyedNsx r.nsx)).map (·.h) ++ (d.wr.waiting.filter (fun w => d.keyedNsx (w.c.nsid - 1))).map (·.h) ++
    (d.host.fw.filter (fun f => decide (f.q < 4096) && d.keyedNsx (f.e.rw.nsid - 1))).map (·.h) ++
    (d.pens.wait.filter (fun c => d.keyedNsx (c.c.nsid - 1))).map (·.h)).dedup

/-- Every command to an encrypted namespace completes with Namespace Not Ready (R220): a write that is not acknowledged fails by R69. -/
def Dev.failKeyed (d : Dev) : Dev :=
  let es := d.wr.entries.filter (fun e => !e.acked && decide (e.q ≠ peerQ) && d.keyedNsx e.nsx)
  let d := d.each es (fun d e => if d.wr.entries.any (fun x => x.id == e.id) then d.failEntry e .nsNotReady else d)
  let l := d.keyedCmds
  let keep := fun (h : Hdr) => !decide (h ∈ l)
  let d := d.completeAll l .nsNotReady false
  let d := d.onHost (fun h =>
    { h with reads := h.reads.filter (fun r => keep r.h)
             strays := h.strays ++ (h.reads.filter (fun r => !keep r.h)).flatMap (·.ids) })
  let d := d.onWr (fun w =>
    { w with waiting := w.waiting.filter (fun x => keep x.h), flushes := w.flushes.filter (fun x => keep x.h)
             opens := w.opens.filter (fun x => keep x.1), zwait := w.zwait.filter (fun x => keep x.2.1) })
  d.onPens (fun p => { p with wait := p.wait.filter (fun c => keep c.h) })

/-- The firmware side of an alarm (R220): logged, bypass slots reloaded, every command to an encrypted namespace failed until the
next INIT. DESIGN CHOICE (assumption 136): a message of a bypass slot that the alarm has ended is sent again, and waiting messages of
key slots go with their commands. -/
def Dev.alarmFw (d : Dev) (n : Nat) : Dev :=
  if d.board.code.val = 2 then d else
  let d := d.fwPost 0x0800 (Config.evCode 1) 6 (2 ^ n)
  let l := bypassSlots d.media.nss
  let d := d.loadBypass
  let d := d.onCipher (fun c => { c with alarmed := [], queue := (c.alarmed ++ c.queue).filter (fun m => l.contains m.slot.val) })
  (d.onFw (fun f => { f with alarmed := true })).failKeyed

/-- The firmware takes up the alarms that came while it did not run (R220). -/
def Dev.alarmLate (d : Dev) : Dev :=
  if d.bit A.CIPHER_STAT 1 && !d.fw.alarmed then
    d.each ((List.range 6).filter (fun n => d.bit A.CIPHER_ALARM n)) (fun d n => d.alarmFw n)
  else d

/-- A core may join the pool, and takes up what waits. -/
def Dev.joinPool (d : Dev) (c : Nat) : Dev := (d.poolIn c).cipherGo

/-- The LBAs of a message that has ended have come out of the cipher, with the key that it took; after the last of them the read's data
leave (R92, R207). -/
def Dev.msgOut (d : Dev) (m : CMsg) (key : Slot) : Dev :=
  match d.host.reads.find? (fun r => m.read && r.h == m.cmd && !r.failed) with
  | none => d
  | some r =>
    let x := { r with keys := r.keys ++ (List.range ((m.blocks + 255) / 256)).map (fun i => (m.ofs + i, key)) }
    let d := d.setRead r x
    if d.readReady x then (d.readDone x).pumpZones else d

/-- A message ends (R216): its LBAs are out, a suspended message resumes, the next one starts. -/
def Dev.messageEnd (d : Dev) (c : Nat) : Dev :=
  let x := d.ccore c
  match x.run with
  | none => d
  | some m =>
    let d := d.setCcore c { x with run := x.susp, mkey := x.skey, since := d.tick, susp := none, skey := .empty }
    ((d.msgOut m x.mkey).drained c).cipherGo

def execCipherMessageEnd (c : CipherN) (s : State) : Host.Outcome State Fault Refusal :=
  mainDo s (fun d => d.messageEnd c.val)

/-- CIPHER_CORE_CTL.EN (R215). -/
def Dev.coreEn (d : Dev) (c : Nat) (en : Bool) : Dev :=
  let d := d.setBit (A.CIPHER_CORE_CTL c) 0 en
  if en then (if d.pooled c then d else d.joinPool c)
  else if d.pooled c then
    (((d.setBit (A.CIPHER_CORE_STAT c) 0 false).setBit (A.CIPHER_CORE_STAT c) 1 true).drained c).cipherGo
  else d

def execCipherCoreEnWrite (c : CipherN) (en : Bool) (s : State) : Host.Outcome State Fault Refusal :=
  regDo (A.CIPHER_CORE_CTL c.val) s (fun d => d.coreEn c.val en)

/-- A write to OWNER (R213): only where it is 0, or by the owner. -/
def Dev.lockWrite (d : Dev) (c owner who : Nat) : Dev :=
  let o := d.fld (A.CIPHER_LOCK c) 6 0
  if o = 0 ∨ o = who + 1 then (d.setReg (A.CIPHER_LOCK c) owner).joinPool c else d

def execCipherLockWrite (c : CipherN) (owner : BitVec 7) (who : CoreN) (s : State) : Host.Outcome State Fault Refusal :=
  busDo who (A.CIPHER_LOCK c.val) s (fun d => d.lockWrite c.val owner.toNat who.val)

/-! Direct jobs (R213, R214, R217). -/

def Dev.jobResult (d : Dev) (c : Nat) : Nat := d.fld (A.CIPHER_JOB_STAT c) 2 0

/-- The tweak of a new job's first block. -/
def Dev.jobTweak (d : Dev) (slot du : Nat) : BitVec 128 :=
  match d.slot slot with | .key k _ => tweak0 k du | _ => 0

/-- The chaining state that a new job starts from, by JOB and JOB_DU. -/
def Dev.newCtx (d : Dev) (c : Nat) : Ctx :=
  let slot := d.fld (A.CIPHER_JOB c) 15 4
  let du := (d.rd (A.CIPHER_JOB_DU c)).toNat
  { dec := d.bit (A.CIPHER_JOB c) 2, slot := slot, slotgen := d.slotGen slot, blk := 0, du := du,
    tval := d.jobTweak slot du, len := d.fld (A.CIPHER_JOB c) 31 16 }

/-- GO (R222): starts a job, or continues a restored context. DESIGN CHOICE (assumption 147): a length below 2 blocks, which R204 does not
support, starts nothing. -/
def Dev.jobGo (d : Dev) (c : Nat) : Dev :=
  if d.jobResult c = 1 then d
  else
    let x := match (d.ccore c).ctx with | some k => if (d.ccore c).restored then k else d.newCtx c | none => d.newCtx c
    if x.len < 2 then d
    else if d.cipherAlarmed then d.setFld (A.CIPHER_JOB_STAT c) 2 0 3
    else if d.slot x.slot = .empty then d.setFld (A.CIPHER_JOB_STAT c) 2 0 4
    else
      (d.setCcore c { d.ccore c with ctx := some x, key := d.slot x.slot, restored := false }).setReg (A.CIPHER_JOB_STAT c) (x.blk * 65536 + 1)

/-- Blocks [x.blk, upto) of a job, from JOB_SRC to JOB_DST, under the key that it took at GO: SRC and DST stand for the data unit's
first block. -/
def Dev.jobMove (d : Dev) (c : Nat) (x : Ctx) (upto : Nat) : Dev :=
  let src := (d.rd (A.CIPHER_JOB_SRC c)).toNat + 16 * x.blk
  let dst := (d.rd (A.CIPHER_JOB_DST c)).toNat + 16 * x.blk
  let n := upto - x.blk
  let b := d.loadBytes src (16 * n)
  match (d.ccore c).key with
  | .key k _ =>
    (d.touchRange src (16 * n)).storeBytes dst (leBytes (16 * n) (ofBlocks (xtsRun x.dec k x.tval (blocksOf n (ofLe b)))))
  | _ => d.storeBytes dst b

/-- A job's chaining state some blocks on. -/
def Ctx.at (x : Ctx) (blk : Nat) : Ctx := { x with blk := blk, tval := tweakAfter (blk - x.blk) x.tval }

/-- The error of a job's own accesses: what it is, its address, its direction and its block; of the two the one of the earlier block, and
in one block that of the read. -/
def Dev.jobErr (d : Dev) (c : Nat) (x : Ctx) : Option (BusErr × Nat × Bool × Nat) :=
  let n := 16 * (x.len - x.blk)
  let src := (d.rd (A.CIPHER_JOB_SRC c)).toNat + 16 * x.blk
  let dst := (d.rd (A.CIPHER_JOB_DST c)).toNat + 16 * x.blk
  let who : Reqr := .core ⟨(d.fld (A.CIPHER_LOCK c) 6 0 - 1) % 16, by omega⟩ true
  let r := (d.rangeErr who src n false).map (fun p => (p.1, p.2, false, x.blk + (p.2 - src) / 16))
  let w := (d.rangeErr who dst n true).map (fun p => (p.1, p.2, true, x.blk + (p.2 - dst) / 16))
  match r, w with
  | some a, some b => if b.2.2.2 < a.2.2.2 then some b else some a
  | some a, none => some a
  | none, b => b

/-- A direct job ends (R222): done, or with the bus error of an access, at the block that met it; nothing where none runs. -/
def Dev.jobEnd (d : Dev) (c : Nat) (err : Option (Fin 8)) : Dev :=
  match (d.ccore c).ctx with
  | none => d
  | some x =>
    if d.jobResult c ≠ 1 then d
    else
      let own := match d.jobErr c x with
        | some e => some e
        | none => (err.bind (fun e => errOfCode e.val)).map (fun e => (e, (d.rd (A.CIPHER_JOB_SRC c)).toNat + 16 * x.blk, false, x.blk))
      match own with
      | some (e, a, w, b) =>
        let d := d.jobMove c x b
        let who : Reqr := .core ⟨(d.fld (A.CIPHER_LOCK c) 6 0 - 1) % 16, by omega⟩ true
        let t := targetOf a
        let d := d.hwPost (t.1 * 256 + t.2) e.code e.sev (a % 2 ^ 40 + reqrNum who * 2 ^ 64 + (if w then 2 ^ 80 else 0))
        (d.setCcore c { d.ccore c with ctx := none }).setReg (A.CIPHER_JOB_STAT c) (b % 65536 * 65536 + 5)
      | none =>
        let d := d.jobMove c x x.len
        (d.setCcore c { d.ccore c with ctx := none }).setReg (A.CIPHER_JOB_STAT c) (x.len % 65536 * 65536 + 2)

def execCipherJobEnd (c : CipherN) (err : Option (Fin 8)) (s : State) : Host.Outcome State Fault Refusal :=
  mainDo s (fun d => d.jobEnd c.val err)

/-- A running job is cut at a block boundary that the manual leaves open (assumption 2), and its chaining state is lost
(R213, R220). -/
def Dev.jobCut (d : Dev) (c : Nat) : Dev :=
  match (d.ccore c).ctx with
  | none => d
  | some x =>
    if d.jobResult c ≠ 1 then d
    else
      let n := x.blk + Config.freeNat d.free % (x.len - x.blk + 1)
      let d := (d.jobMove c x n).draw
      (d.setCcore c { d.ccore c with ctx := none }).setFld (A.CIPHER_JOB_STAT c) 31 16 n

/-- Every running job is cut. -/
def Dev.jobsCut (d : Dev) : Dev := d.each (List.range 24) (fun d c => d.jobCut c)

/-- STOP (R217, R222): at a block boundary that the manual leaves open (assumption 2); past the last block the job is
done. -/
def Dev.jobStop (d : Dev) (c : Nat) : Dev :=
  match (d.ccore c).ctx with
  | none => d
  | some x =>
    if d.jobResult c ≠ 1 then d
    else
      let at_ := x.blk + 1 + Config.freeNat d.free % Nat.max 1 (x.len - x.blk)
      let d := d.draw
      if x.len ≤ at_ then d.jobEnd c none
      else
        let d := d.jobMove c x at_
        (d.setCcore c { d.ccore c with ctx := some (x.at at_) }).setReg (A.CIPHER_JOB_STAT c) (at_ % 65536 * 65536 + 7)

def execCipherJobStop (c : CipherN) (who : CoreN) (s : State) : Host.Outcome State Fault Refusal :=
  busDo who (A.CIPHER_JOB c.val) s (fun d => d.jobStop c.val)

/-! Saved contexts (R217, R218). -/

/-- The 48 bytes of a context as a number (R217). -/
def Ctx.word (x : Ctx) : Nat :=
  ofLe ([0x01, if x.dec then 1 else 0] ++ leBytes 2 x.slot ++ leBytes 2 x.slotgen ++ leBytes 2 x.blk ++ leBytes 8 x.du ++
    leBytes 16 x.tval.toNat ++ leBytes 2 x.len)

/-- A context from its 48 bytes; none for a version that is not 0x01. -/
def ctxOfWord (w : Nat) : Option Ctx :=
  if natFld w 7 0 ≠ 1 then none
  else some { dec := decide (natFld w 8 8 = 1), slot := natFld w 31 16, slotgen := natFld w 47 32, blk := natFld w 63 48,
              du := natFld w 127 64, tval := BitVec.ofNat 128 (natFld w 255 128), len := natFld w 271 256 }

def Dev.ctxBuf (d : Dev) (c n : Nat) : Nat :=
  (List.range n).foldl (fun x k => x + (d.rd (A.CIPHER_CTXBUF c k)).toNat * 2 ^ (64 * k)) 0

def Dev.setCtxBuf (d : Dev) (c n x : Nat) : Dev :=
  d.each (List.range n) (fun d k => d.setReg (A.CIPHER_CTXBUF c k) (x / 2 ^ (64 * k) % 2 ^ 64))

def Dev.ctxEnd (d : Dev) (c res : Nat) : Dev := d.setFld (A.CIPHER_CTXOP c) 7 4 res

/-- What a save writes: the chaining state with the generation that its slot has at the save (R217); without one, what the manual does not
state (assumption 2). -/
def Dev.savedCtx (d : Dev) (c : Nat) : Nat :=
  match (d.ccore c).ctx with
  | some x => ({ x with slotgen := d.slotGen x.slot } : Ctx).word
  | none => Config.freeNat d.free % 2 ^ 384

/-- Save in the clear. DESIGN CHOICE (assumption 146): in an alarm a save ends with ALARMED, and while the job runs with NOTSTOPPED, the
results that R218 names for a restore. -/
def Dev.ctxSave (d : Dev) (c : Nat) : Dev :=
  if d.cipherAlarmed then d.ctxEnd c 3
  else if d.jobResult c = 1 then d.ctxEnd c 4
  else ((d.setCtxBuf c 6 (d.savedCtx c)).draw).ctxEnd c 0

def execSaveClear (c : CipherN) (who : CoreN) (s : State) : Host.Outcome State Fault Refusal :=
  busDo who (A.CIPHER_CTXOP c.val) s (fun d => d.ctxSave c.val)

/-- Save wrapped under KWK; while KWK is not ready what is written is open (assumption 2). -/
def Dev.ctxSaveW (d : Dev) (c : Nat) : Dev :=
  if d.cipherAlarmed then d.ctxEnd c 3
  else if d.jobResult c = 1 then d.ctxEnd c 4
  else
    let x := match d.cipher.kwk with
      | some k => ofSemis (kwWrap k (semis 6 (d.savedCtx c)))
      | none => Config.freeNat d.free % 2 ^ 448
    ((d.setCtxBuf c 7 x).draw).ctxEnd c 0

def execSaveWrapped (c : CipherN) (who : CoreN) (s : State) : Host.Outcome State Fault Refusal :=
  busDo who (A.CIPHER_CTXOP c.val) s (fun d => d.ctxSaveW c.val)

/-- A context is taken into a core, or refused with the core unchanged (R218). DESIGN CHOICE (assumption 146): where several results hold,
the first of ALARMED, NOTSTOPPED, BADCTX and STALE is given. -/
def Dev.ctxTake (d : Dev) (c : Nat) (x : Option Ctx) : Dev :=
  if d.cipherAlarmed then d.ctxEnd c 3
  else if d.jobResult c = 1 then d.ctxEnd c 4
  else match x with
    | none => d.ctxEnd c 1
    | some k => if k.slotgen ≠ d.slotGen k.slot then d.ctxEnd c 2
      else (d.setCcore c { d.ccore c with ctx := some k, restored := true }).ctxEnd c 0

def execRestoreClear (c : CipherN) (who : CoreN) (s : State) : Host.Outcome State Fault Refusal :=
  busDo who (A.CIPHER_CTXOP c.val) s (fun d => d.ctxTake c.val (ctxOfWord (d.ctxBuf c.val 6)))

/-- The wrapped context of CTXBUF, opened under KWK. DESIGN CHOICE (assumption 146): while KWK is not ready it does not open, and the restore
ends with BADCTX. -/
def Dev.ctxOpened (d : Dev) (c : Nat) : Option Ctx :=
  match d.cipher.kwk with
  | none => none
  | some k => (kwUnwrap k (semis 7 (d.ctxBuf c 7))).bind (fun p => ctxOfWord (ofSemis p))

def execRestoreWrapped (c : CipherN) (who : CoreN) (s : State) : Host.Outcome State Fault Refusal :=
  busDo who (A.CIPHER_CTXOP c.val) s (fun d => d.ctxTake c.val (d.ctxOpened c.val))

/-- OP 5 to 15 (R218). OP 0 does nothing. -/
def Dev.ctxBad (d : Dev) (c op : Nat) : Dev := if 5 ≤ op then d.ctxEnd c 5 else d

def execCtxopUndefined (c : CipherN) (who : CoreN) (op : BitVec 4) (s : State) : Host.Outcome State Fault Refusal :=
  busDo who (A.CIPHER_CTXOP c.val) s (fun d => d.ctxBad c.val op.toNat)

/-! Alarms (R219, R220). -/

/-- An alarm while the main domain runs, and what follows (R220): jobs are cut, messages of bypass slots go on. -/
def Dev.alarmAll (d : Dev) (n : Nat) : Dev := ((((d.jobsCut).alarmHw n).alarmFw n).cipherGo).pumpZones

def execCipherAlarmSet (s : State) : Host.Outcome State Fault Refusal := regDo A.CIPHER_ALARM_SET s (fun d => d.alarmAll 0)

/-- A key operation, a job or a message reads a slot: an uncorrectable error of the slot SRAM is an alarm first (R219). -/
def Dev.slotRead (d : Dev) (ecc : Bool) : Dev := if ecc then d.alarmAll 4 else d

def execExportWrapped (slot : SlotN) (pwk ecc : Bool) (s : State) : Host.Outcome State Fault Refusal :=
  regDo A.CIPHER_KOP s (fun d => (d.slotRead ecc).kopExport slot.val pwk)

def execCipherJobGo (c : CipherN) (who : CoreN) (ecc : Bool) (s : State) : Host.Outcome State Fault Refusal :=
  busDo who (A.CIPHER_JOB c.val) s (fun d => (d.slotRead ecc).jobGo c.val)

/-- CIPHER_MESSAGE; `ecc`: the slot that it reads has an uncorrectable error (R219). A message whose command that alarm has failed is
gone with it. -/
def execCipherMessage (m : CMsg) (ecc : Bool) (s : State) : Host.Outcome State Fault Refusal :=
  mainDo s (fun d =>
    if d.board.code.val = 2 then d
    else if ecc then
      let d := d.alarmAll 4
      if d.slot m.slot.val = .empty then d else d.message m
    else d.message m)

/-- KWK_DERIVATION (R210): KWK is the KDF's output for the root secret; root words that read as all ones leave KWKOK 0; one that fails its
ECC is an alarm. -/
def Dev.deriveKwk (d : Dev) (eccBad : Bool) : Dev :=
  if d.board.code.val = 2 then d
  else if eccBad then d.alarmAll 5
  else if d.otpWord 2 = BitVec.allOnes 256 ∨ d.cipherAlarmed then d
  else (d.onCipher (fun c => { c with kwk := some (kdf256 (leBytes 32 (d.otpWord 2).toNat) kwkLabel) })).setBit A.CIPHER_STAT 2 true

def execKwkDerivation (eccBad : Bool) (s : State) : Host.Outcome State Fault Refusal := mainDo s (fun d => d.deriveKwk eccBad)

/-- The main rails are on though the main domain does not run: in S1, in a wake from it whether it goes on or has failed, and in a clock
failure. -/
def Dev.railsOn (d : Dev) : Bool :=
  decide (d.tor.pwr = .s1) || (decide (d.tor.pwr = .waking ∨ d.tor.pwr = .wakeFailed) && decide (d.tor.saved = .s1)) ||
    (d.tor.clkFail && decide (d.tor.pwr = .on))

/-- An alarm of the hardware (R219, R220): the keys go though nothing runs; the firmware acts once it runs again. -/
def Dev.alarmSeen (d : Dev) (n : Nat) : Dev :=
  if d.tor.mainOn then d.alarmAll n else if d.railsOn then (d.jobsCut).alarmHw n else d

def execVmonAlarm (s : State) : Host.Outcome State Fault Refusal := aonDo s (fun d => d.alarmSeen 1)

def execDebugAlarm (s : State) : Host.Outcome State Fault Refusal := aonDo s (fun d => d.alarmSeen 3)

end Sys2Proof.Machine
end

