-- ==== Sys2Proof/Machine/P384.lean ====
section
/-! DEFINITION. The curve P-384 with ECDSA and ECDH over it (R230, R392), as FIPS 186-4 and SP 800-56A define them. PRESUMED: the
manual names them and prints none of them (assumption 144). -/

namespace Sys2Proof.Machine

/-- The field prime. -/
def p384 : Nat := 2 ^ 384 - 2 ^ 128 - 2 ^ 96 + 2 ^ 32 - 1
/-- The order of the base point. -/
def n384 : Nat :=
  0xffffffffffffffffffffffffffffffffffffffffffffffffc7634d81f4372ddf581a0db248b0a77aecec196accc52973
/-- The coefficient b; a is −3. -/
def b384 : Nat :=
  0xb3312fa7e23ee7e4988e056be3f82d19181d9c6efe8141120314088f5013875ac656398d8a2ed19d2a85c8edd3ec2aef
def gx384 : Nat :=
  0xaa87ca22be8b05378eb1c71ef320ad746e1d3b628ba79b9859f741e082542a385502f25dbf55296c3a545e3872760ab7
def gy384 : Nat :=
  0x3617de4a96262c6f5d9e98bf9292dc29f8f41dbd289a147ce9da3113b5f0b8c00a60b1ce1d7e819d7a431d7c90ea0e5f

/-- A power modulo m, by the n low bits of the exponent. -/
def powMod (m : Nat) : Nat → Nat → Nat → Nat
  | 0, _, _ => 1
  | n + 1, x, e => (if e % 2 = 1 then x else 1) * powMod m n (x * x % m) (e / 2) % m

/-- The inverse modulo a prime. -/
def invMod (m x : Nat) : Nat := powMod m 384 (x % m) (m - 2)

/-- A difference modulo m. -/
def subMod (m x y : Nat) : Nat := (x % m + (m - y % m)) % m

/-- A point as x / z², y / z³; z = 0 is the point at infinity. -/
structure EcPoint where
  x : Nat
  y : Nat
  z : Nat
  deriving DecidableEq, Repr

def ecZero : EcPoint := { x := 1, y := 1, z := 0 }
def ecBase : EcPoint := { x := gx384, y := gy384, z := 1 }

/-- A point doubled, with a = −3. -/
def ecDouble (q : EcPoint) : EcPoint :=
  let m := p384
  let zz := q.z * q.z % m
  let yy := q.y * q.y % m
  let s := 4 * q.x * yy % m
  let t := 3 * (subMod m q.x zz * ((q.x + zz) % m)) % m
  let x := subMod m (t * t) (2 * s)
  { x := x, y := subMod m (t * subMod m s x) (8 * yy * yy), z := 2 * q.y * q.z % m }

/-- Two points added. -/
def ecAdd (q r : EcPoint) : EcPoint :=
  let m := p384
  if q.z = 0 then r
  else if r.z = 0 then q
  else
    let u1 := q.x * (r.z * r.z % m) % m
    let u2 := r.x * (q.z * q.z % m) % m
    let s1 := q.y * (r.z * r.z % m * r.z % m) % m
    let s2 := r.y * (q.z * q.z % m * q.z % m) % m
    if u1 = u2 then (if s1 = s2 then ecDouble q else ecZero)
    else
      let h := subMod m u2 u1
      let k := subMod m s2 s1
      let hh := h * h % m
      let hhh := hh * h % m
      let v := u1 * hh % m
      let x := subMod m (subMod m (k * k) hhh) (2 * v)
      { x := x, y := subMod m (k * subMod m v x) (s1 * hhh), z := q.z * r.z % m * h % m }

/-- The multiple of a point by the n low bits of a number. -/
def ecMul : Nat → Nat → EcPoint → EcPoint
  | 0, _, _ => ecZero
  | n + 1, e, q => let r := ecMul n (e / 2) (ecDouble q); if e % 2 = 1 then ecAdd q r else r

/-- The affine coordinates of a point. -/
def EcPoint.affine (q : EcPoint) : Nat × Nat :=
  let i := invMod p384 q.z
  (q.x * (i * i % p384) % p384, q.y * (i * i % p384 * i % p384) % p384)

/-- The coordinates name a point of the curve. -/
def onCurve (x y : Nat) : Bool :=
  decide (x < p384) && decide (y < p384) && decide (y * y % p384 = (x * x * x + (p384 - 3) * x + b384) % p384)

/-- A point from its uncompressed form: 0x04, x and y, each with its highest byte first (assumption 144). -/
def ecOfBytes (b : List Byte) : Option EcPoint :=
  let x := ofBe ((b.drop 1).take 48)
  let y := ofBe ((b.drop 49).take 48)
  if b.head? = some 4 ∧ b.length = 97 ∧ onCurve x y then some { x := x, y := y, z := 1 } else none

def ecToBytes (q : EcPoint) : List Byte := 4 :: (beBytes 48 q.affine.1 ++ beBytes 48 q.affine.2)

/-- ECDSA verification of a 48-byte digest; a signature is r and s, each with its highest byte first. -/
def ecdsaVerify (pub digest sig : List Byte) : Bool :=
  let r := ofBe (sig.take 48)
  let s := ofBe ((sig.drop 48).take 48)
  match ecOfBytes pub with
  | none => false
  | some q =>
    if r = 0 ∨ n384 ≤ r ∨ s = 0 ∨ n384 ≤ s ∨ sig.length ≠ 96 then false
    else
      let w := invMod n384 s
      let t := ecAdd (ecMul 384 (ofBe digest * w % n384) ecBase) (ecMul 384 (r * w % n384) q)
      decide (t.z ≠ 0) && decide (t.affine.1 % n384 = r)

/-- ECDSA signature of a 48-byte digest under a private key, with the secret number k. -/
def ecdsaSign (priv k : Nat) (digest : List Byte) : List Byte :=
  let r := (ecMul 384 k ecBase).affine.1 % n384
  beBytes 48 r ++ beBytes 48 (invMod n384 k * (ofBe digest + r * priv) % n384)

/-- The public key of a private key. -/
def ecPub (priv : Nat) : List Byte := ecToBytes (ecMul 384 priv ecBase)

/-- The shared secret of ECDH: the x coordinate of the product; none where the peer's value names no point of the curve, or the product is
the point at infinity. -/
def ecdh (priv : Nat) (pub : List Byte) : Option (List Byte) :=
  (ecOfBytes pub).bind (fun q =>
    let t := ecMul 384 priv q
    if t.z = 0 then none else some (beBytes 48 t.affine.1))

end Sys2Proof.Machine
end

