-- ==== Sys2Proof/Machine/PairLink.lean ====
section
/-! DEFINITION. The Saddle link, the pair pins, ownership of channels and the mirror (R224 to R254). -/

namespace Sys2Proof.Machine

/-! Frames in (R249 to R252). -/

/-- The 32-bit sequence nearest to a counter that a peer names, as that counter. -/
def near (base : Nat) (w : W32) : Nat := base - (base + 2 ^ 32 - w.toNat % 2 ^ 32) % 2 ^ 32

/-- A drain of the link that is over (R246, R253). -/
def Dev.linkDrained (d : Dev) : Dev :=
  if d.bit A.PAIR_STAT 2 && d.pair.replay.isEmpty then
    let d := d.setBit A.PAIR_STAT 2 false
    if d.pair.heldEn then (d.setFld A.PAIR_STAT 1 0 1).onPair (fun p => { p with heldEn := false })
    else d.setFld A.PAIR_STAT 1 0 0
  else d

/-- ACKSEQ of a received frame: replay, releases, a drain that is over (R235, R251); writes that waited for a full replay
buffer are tried again (R236). -/
def Dev.gotAck (d : Dev) (ack : W32) : Dev :=
  let e := (d.ackFrames (near d.pair.txSeq ack)).linkDrained
  if d.replayFull then e.pump else e

/-- One NAK for a gap (R251). -/
def Dev.nakGap (d : Dev) : Dev :=
  if d.pair.gap then d
  else (d.onPair (fun p => { p with gap := true })).sendFrame (.nak d.pair.rxSeq)

/-- A replayed frame arrives: applied where it is the next one, discarded where it is out of order (R251). -/
def Dev.rx (d : Dev) (f : FrameHdr) (act : Dev → Dev) : Dev :=
  if !d.linkUp then d
  else
    let d := (d.count (A.PAIR_CNT 1) 64 1).gotAck f.ackseq
    let ahead := (f.fseq.toNat + 2 ^ 32 - d.pair.rxSeq % 2 ^ 32) % 2 ^ 32
    if ahead = 1 then act (d.onPair (fun p => { p with rxSeq := p.rxSeq + 1, gap := false }))
    else if ahead = 0 ∨ 2 ^ 31 ≤ ahead then d
    else d.nakGap

/-- A frame that is not replayed arrives. -/
def Dev.rxOther (d : Dev) (act : Dev → Dev) : Dev :=
  if d.linkUp then act (d.count (A.PAIR_CNT 1) 64 1) else d

/-- IDLE. -/
def execIdle (ackseq : W32) (s : State) : Host.Outcome State Fault Refusal :=
  mainDo s (fun d => d.rxOther (fun d => d.gotAck ackseq))

/-- A frame fails FEC or CRC (R251, R253). -/
def Dev.badFrame (d : Dev) (fec : Bool) : Dev :=
  if d.linkUp then (d.count (A.PAIR_CNT (if fec then 4 else 5)) 64 1).nakGap else d

def execFrameCrcFailure (fec : Bool) (s : State) : Host.Outcome State Fault Refusal := mainDo s (fun d => d.badFrame fec)

/-- Every frame of the replay buffer is sent again. -/
def Dev.resend (d : Dev) : Dev :=
  if d.linkUp then
    (d.count (A.PAIR_CNT 6) 64 d.pair.replay.length).onPair (fun p => { p with out := p.out ++ p.replay.map Prod.snd })
  else d

/-- NAK (R250, R251): frames from ACKSEQ + 1 again, and the latest MACK. -/
def execNak (ackseq : W32) (s : State) : Host.Outcome State Fault Refusal :=
  mainDo s (fun d => d.rxOther (fun d =>
    ((d.gotAck ackseq).resend).sendFrame (.mack (d.rd A.PAIR_MSEQ_RX).toNat)))

/-- 5 µs without ACK progress (R251); a link that drains gives its frames up then (R246, assumption 24). -/
def Dev.replayOut (d : Dev) : Dev :=
  if d.bit A.PAIR_STAT 2 then (d.onPair (fun p => { p with replay := [] })).linkDrained else d.resend

def execReplayTimeout (s : State) : Host.Outcome State Fault Refusal := mainDo s Dev.replayOut

/-! Ownership (R225). -/

/-- An ANA change notice to the host (R232). -/
def Dev.anaNotice (d : Dev) : Dev := d.aen 2 3 0x0C

/-- The channels of this controller's side of the split (R231). -/
def Dev.ownSide (d : Dev) : W64 := if d.board.pairId then ~~~ d.pair.split else d.pair.split

/-- op 9 on LUNs, named as channel × 32 + LUN. -/
def Dev.bringIdle (d : Dev) (l : List Nat) : Dev :=
  d.each l (fun d k => (d.onMules (fun m => { m with nextId := m.nextId + 1 })).enqueue (k / 32) (k % 32) (d.op9 (k % 32)))

/-- Channels come to this controller (R225): op 9 brings the LUNs to idle that it left mid-operation there (R227), and in a takeover a LUN
of every target (R239 step 8). -/
def Dev.takeCh (d : Dev) (m : W64) : Dev :=
  let new := m &&& ~~~ d.rd A.PAIR_OWN
  let d := d.wr64 A.PAIR_OWN (d.rd A.PAIR_OWN ||| m)
  let targets := if d.pair.takeover then
      ((List.range 64).filter (bitOf new)).flatMap (fun ch => (List.range (d.geomOf ch).1).map (fun t => ch * 32 + t * (d.geomOf ch).2))
    else []
  let l := (d.mules.left.filter (fun k => bitOf m (k / 32)) ++ targets).dedup
  (d.onMules (fun x => { x with left := x.left.filter (fun k => !bitOf m (k / 32)) })).bringIdle l

/-- Claims of channels (R225): sent while the link is up; granted at once where this controller's fence has stood
for its guard. -/
def Dev.claimCh (d : Dev) (m : W64) : Dev :=
  let new := m &&& ~~~ d.rd A.PAIR_OWN
  if d.pair.guarded && d.fenceOut && !d.fenceIn then d.takeCh new
  else (d.wr64 A.PAIR_PEND (d.rd A.PAIR_PEND ||| new)).sendFrame (.claim new)

def execPairClaimWrite (m : W64) (s : State) : Host.Outcome State Fault Refusal :=
  regDo A.PAIR_CLAIM s (fun d => d.claimCh m)

/-- Releases: a channel with a running sequence is released when that ends. -/
def Dev.relCh (d : Dev) (m : W64) : Dev :=
  let new := m &&& d.rd A.PAIR_OWN
  let d := d.onPair (fun p => { p with releasing := p.releasing ||| new })
  d.each ((List.range 64).filter (bitOf new)) (fun d ch => d.chQuiet ch)

def execPairRelWrite (m : W64) (s : State) : Host.Outcome State Fault Refusal := regDo A.PAIR_REL s (fun d => d.relCh m)

/-- A CLAIM arrives (R225): DENY for an owned channel, GRANT for one neither owned nor claimed; a claim of a channel
that is being released waits for the release; crossed claims go to PAIR_ID 0. -/
def Dev.gotClaim (d : Dev) (m : W64) : Dev :=
  let own := d.rd A.PAIR_OWN
  let pend := d.rd A.PAIR_PEND
  let wait := m &&& own &&& d.pair.releasing
  let no := m &&& own &&& ~~~ d.pair.releasing
  let cross := m &&& ~~~ own &&& pend
  let yes := m &&& ~~~ own &&& ~~~ pend
  let d := d.onPair (fun p => { p with waitRel := p.waitRel ||| wait })
  let lose := if d.board.pairId then cross else 0
  let d := (d.wr64 A.PAIR_PEND (pend &&& ~~~ lose)).wr64 A.PAIR_TIE (d.rd A.PAIR_TIE ||| lose)
  let d := if yes ||| lose = 0 then d else d.sendFrame (.grant (yes ||| lose))
  if no = 0 then d else d.sendFrame (.deny no)

def execClaim (f : FrameHdr) (m : W64) (s : State) : Host.Outcome State Fault Refusal :=
  mainDo s (fun d => d.rx f (fun d => d.gotClaim m))

/-- RELEASED: the channel is free; a claim of it that waits has its GRANT from the peer after it (R246). -/
def execReleased (f : FrameHdr) (_m : W64) (s : State) : Host.Outcome State Fault Refusal :=
  mainDo s (fun d => d.rx f id)

/-! DUO entered, and left (R29, R232, R241). -/

/-- The open PAIR_CONTROL request ends: a host's command completes with DEVSTAT in RES0 (R264). A group that a request given up had
put into Change is Optimized again (R232). -/
def Dev.endReq (d : Dev) (st : Status) : Dev :=
  match d.pair.req with
  | none => d
  | some r =>
    let back := decide (st ≠ .success) && decide (d.pair.ana ≠ 0 ∨ d.pair.anaOwn ≠ 0)
    let d := (d.onPair (fun p => { p with req := none, tee := false, ana := 0, anaOwn := 0 })).setTransit false
    let d := if back then (d.loadAll).anaNotice else d
    match r.h with
    | some h => if st = .success then d.complete h .success false d.devstat else d.failCmd h st
    | none => d

/-- The own half of the mirror becomes this controller's entries, the rest stays; its entries of the other home become
mirror (R241, phase 3). -/
def Dev.followChannels (d : Dev) : Dev :=
  let theirs := fun (nsx : Nat) => decide (d.homeOf nsx ≠ d.board.pairId)
  let keep := d.wr.mirror.filter (fun m => theirs m.m.nsx)
  let give := d.wr.entries.filter (fun e => theirs e.nsx && e.acked)
  let mk := fun (e : Entry) =>
    ({ m := { mseq := e.mseq, nsx := e.nsx, lba := e.lba, n := e.secs.length, pen := e.pen }
       secs := e.secs, complete := true } : Mir)
  let d := (d.onWr (fun w => { w with mirror := w.mirror.filter (fun m => !theirs m.m.nsx) })).adopt
  let d := d.removeEntries (fun e => give.any (fun x => x.id == e.id))
  d.onWr (fun w => { w with mirror := keep ++ give.map mk })

/-- No free row of this controller is one that a zone or a unit of the peer has taken, and no reservation is for a zone of the peer (R50,
R232). -/
def Dev.giveSide (d : Dev) : Dev :=
  let used := d.usedRows
  let free := fun (r : Row) => !used.any (rowClash r)
  let d := d.onMedia (fun m => { m with pool14 := m.pool14.filter free, pool7 := m.pool7.filter free, uFree := m.uFree.filter free })
  d.onWr (fun w => { w with resv := w.resv.filter (fun ix => d.homeOf (d.zd ix).nsx == d.board.pairId) })

/-- DUO is entered; the peer is lost no more: the firmware clears LOST, so that a later loss fences again (R228; DEDUCED,
assumption 156). -/
def Dev.enterDuo (d : Dev) : Dev :=
  let d := (d.followChannels).giveSide
  let d := d.onFw (fun f => { f with fencedInit := false })
  let d := (d.onPair (fun p => { p with paired := true, entrySent := false, peerFlushed := false })).setRole .duo
  let d := (((d.setBit A.PAIR_STAT 7 false).setMode .duo).setTransit false).rdyCheck
  let d := ((d.setBit A.PAIR_CTL 2 true).setBit A.PAIR_CTL 3 true).setBit A.PAIR_CTL 4 true
  let d := (d.loadAll).anaNotice
  ((d.endReq .success).renewFlush).capacityCheck

/-- The handshake's last step is over where every claim is granted (R230). -/
def Dev.duoIfOwned (d : Dev) : Dev :=
  if d.pair.entrySent && decide (d.fw.mode = .init) && decide (d.ownSide &&& ~~~ d.rd A.PAIR_OWN = 0) then d.enterDuo else d

/-- GRANT (R225). -/
def Dev.gotGrant (d : Dev) (m : W64) : Dev :=
  let g := m &&& d.rd A.PAIR_PEND
  let d := (d.wr64 A.PAIR_PEND (d.rd A.PAIR_PEND &&& ~~~ g)).takeCh g
  d.duoIfOwned

def execGrant (f : FrameHdr) (m : W64) (s : State) : Host.Outcome State Fault Refusal :=
  mainDo s (fun d => d.rx f (fun d => d.gotGrant m))

/-- DENY (R225); in the handshake DUO is not entered, and the pair log has it (R230). -/
def Dev.gotDeny (d : Dev) (m : W64) : Dev :=
  let g := m &&& d.rd A.PAIR_PEND
  let d := (d.wr64 A.PAIR_DENY (d.rd A.PAIR_DENY ||| g)).wr64 A.PAIR_PEND (d.rd A.PAIR_PEND &&& ~~~ g)
  if d.pair.entrySent ∧ d.fw.mode = .init then
    (d.onPair (fun p => { p with entrySent := false })).pairPost 0x0900 (Config.evCode 20) 5 g.toNat
  else d

def execDeny (f : FrameHdr) (m : W64) (s : State) : Host.Outcome State Fault Refusal :=
  mainDo s (fun d => d.rx f (fun d => d.gotDeny m))

/-- After GUARD_US of its own fence, with PEER_FENCE_IN low, every pending claim is granted; the firmware that waits to
enter SOLO enters it then (R225, R228). -/
def Dev.guardOver (d : Dev) : Dev :=
  if !d.fenceOut || d.fenceIn then d
  else
    let d := (d.takeCh (d.rd A.PAIR_PEND)).setReg A.PAIR_PEND 0
    let d := d.onPair (fun p => { p with guarded := true })
    if d.fw.mode = .init ∧ d.fw.replayed ∧ ¬ d.fw.fencedInit ∧ d.rd A.PAIR_OWN = BitVec.allOnes 64 then d.enterSolo else d

def execFenceGuardExpiry (s : State) : Host.Outcome State Fault Refusal := mainDo s Dev.guardOver

/-- PAIR_FENCE.OUT (R228). -/
def Dev.setFence (d : Dev) (out : Bool) : Dev :=
  (d.setBit A.PAIR_FENCE 0 out).onPair (fun p => { p with guarded := p.guarded && out })

def execPairFenceWrite (out : Bool) (s : State) : Host.Outcome State Fault Refusal :=
  regDo A.PAIR_FENCE s (fun d => d.setFence out)

/-! The alive watchdog and heartbeats (R229, R237). -/

/-- PAIR_KICK restarts the watchdog; with ALIVE set it clears WDOG_EXP (R253). -/
def Dev.kickDog (d : Dev) : Dev :=
  let d := d.onPair (fun p => { p with kicked := true })
  if d.bit A.PAIR_CTL 4 then d.setBit A.PAIR_STAT 5 false else d

def execPairKick (s : State) : Host.Outcome State Fault Refusal := regDo A.PAIR_KICK s Dev.kickDog

def execAliveWatchdogExpiry (s : State) : Host.Outcome State Fault Refusal :=
  mainDo s (fun d => (d.setBit A.PAIR_STAT 5 true).onPair (fun p => { p with kicked := false }))

/-- Heartbeats go out every 10 µs (R237, R250). -/
def Dev.sendHb (d : Dev) : Dev :=
  if d.bit A.PAIR_CTL 3 && !d.bit A.PAIR_STAT 5 && d.linkUp then
    (d.onPair (fun p => { p with hbSeq := p.hbSeq + 1 })).sendFrame
      (.hb (d.pair.hbSeq + 1) (d.devstat % 65536) (d.occ / 1048576) d.wr.bceil (d.rd A.PAIR_MSEQ_RX).toNat)
  else d

def execHeartbeatSend (s : State) : Host.Outcome State Fault Refusal := mainDo s Dev.sendHb

/-- The occupancy limit moves with the peer's ceiling (R72, R73). -/
def Dev.setPeerCeil (d : Dev) (mib : Nat) : Dev :=
  let d := d.onWr (fun w => { w with peerCeil := mib })
  if d.limit < d.occ then d.drainTails else (d.pump).flushCheck

/-- A valid heartbeat (R237): HB_MISS is 0 again, and SPLIT with it; the peer's ceiling is as it says. -/
def Dev.gotHb (d : Dev) (seq : W32) (bceil : W16) : Dev :=
  let d := (d.setFld A.PAIR_STAT 15 8 0).setBit A.PAIR_STAT 6 false
  (d.setReg A.PAIR_HBSEQ seq.toNat).setPeerCeil bceil.toNat

def execHb (seq : W32) (_devstat _occ bceil : W16) (_mseqRx : W64) (s : State) : Host.Outcome State Fault Refusal :=
  mainDo s (fun d => d.rxOther (fun d => d.gotHb seq bceil))

/-- Creates that the peer was to perform end with Namespace Not Ready: their frames, or its answers, are lost (R231; DESIGN CHOICE,
assumption 137). -/
def Dev.dropCreates (d : Dev) : Dev :=
  (d.completeAll d.pair.creates .nsNotReady false).onPair (fun p => { p with creates := [] })

/-- The firmware's side of a declared loss (R29, R239, R241): TRANSIT, the peer's group in Change, the claims; a handback
under way is given up. -/
def Dev.takeoverStart (d : Dev) : Dev :=
  let duo := decide (d.fw.role = .duo) && (decide (d.fw.mode = .duo) || decide (d.fw.mode = .readonly))
  let d := d.dropCreates
  if duo then
    let d := (d.setTransit true).onPair (fun p => { p with takeover := true })
    (d.anaNotice).claimCh (BitVec.allOnes 64)
  else if d.pair.tee then
    let d := d.setFence true
    (d.claimCh (BitVec.allOnes 64)).endReq .pairFenced
  else d

/-- The peer is declared lost (R228, R237): LOST is latched; with AUTOFENCE, PAIR_ID 0 fences at once, PAIR_ID 1 after
100 µs. -/
def Dev.declareLost (d : Dev) : Dev :=
  let fresh := !d.bit A.PAIR_STAT 7
  let d := (d.setBit A.PAIR_STAT 7 true).setBit A.PAIR_STAT 6 false
  if !fresh then d
  else
    let d := d.onPair (fun p => { p with lastLost := d.ns })
    let d := if d.bit A.PAIR_CTL 2 then
        (if d.board.pairId then d.onPair (fun p => { p with fenceDue := true }) else d.setFence true)
      else d
    d.takeoverStart

/-- Both conditions of R237, or SPLIT (R238). -/
def Dev.lossCheck (d : Dev) : Dev :=
  if d.fld A.PAIR_STAT 15 8 < 50 then d
  else if d.pair.aliveLow then d.declareLost
  else if d.aliveIn then d.setBit A.PAIR_STAT 6 true
  else d

/-- A window ends without a heartbeat (R237). -/
def Dev.hbMiss (d : Dev) : Dev := (d.setFld A.PAIR_STAT 15 8 (Nat.min 255 (d.fld A.PAIR_STAT 15 8 + 1))).lossCheck

def execHeartbeatWindowMiss (s : State) : Host.Outcome State Fault Refusal :=
  mainDo s (fun d => if d.hasPair then d.hbMiss else d)

/-- PEER_ALIVE_IN has been low for 1 µs. -/
def Dev.aliveFell (d : Dev) : Dev :=
  let d := d.onPins (fun p => { p with aliveIn := false })
  if d.hasPair && d.tor.mainOn then (d.onPair (fun p => { p with aliveLow := true })).lossCheck else d

def execPeerAliveInLow (s : State) : Host.Outcome State Fault Refusal := aonDo s Dev.aliveFell

/-- PAIR_ID 1's automatic fence, only if PEER_FENCE_IN is still low (R228). -/
def Dev.delayedFence (d : Dev) : Dev :=
  if d.pair.fenceDue then
    let d := d.onPair (fun p => { p with fenceDue := false })
    if d.fenceIn then d else d.setFence true
  else d

def execAutofenceDelayExpiry (s : State) : Host.Outcome State Fault Refusal := mainDo s Dev.delayedFence

/-- A program group of the peer's zone at FP that is without its STRIPE record (R239): whether one was under way is free where the
zone's acknowledged data fill it (assumption 128); it is resolved by R154. -/
def Dev.foundGroup (d : Dev) (ix : Nat) : Dev :=
  let z := d.zd ix
  let n := groupLbas z.seven
  if z.wp < z.fp + n then d
  else
    let under := Config.freeBool d.free
    let d := d.draw
    match (if under then d.gather z.nsx (d.zstart ix + z.fp) n else none) with
    | none => d
    | some secs =>
      let g : Grp := { ix := ix, start := z.fp, left := members z.seven, failed := false, secs := secs, row := rowKey z.seven z.group z.lbn }
      (d.onWr (fun w => { w with groups := w.groups ++ [g] })).resolveGroup g

/-- The peer's zones that hold data above FP. -/
def Dev.peerZones (d : Dev) : List Nat :=
  d.zones (fun z => (z.active || decide (z.st = zFull)) && decide (z.fp < zcap z.seven) && decide (d.homeOf z.nsx ≠ d.board.pairId))

/-- SURVIVOR is entered (R29, R66, R239): the peer's training values in its Mules, entries and records adopted with the drain's reserve of
R191, the peer's program groups without a record resolved, waiting writes acknowledged, the peer's group Optimized; the Release that led
here completes. -/
def Dev.survive (d : Dev) : Dev :=
  if d.pair.takeover ∧ d.rd A.PAIR_OWN = BitVec.allOnes 64 then
    let d := (d.setRole .survivor).onPair (fun p =>
      { p with takeover := false, takeovers := p.takeovers + 1, lastTakeUs := (d.ns - p.lastLost) / 1000, peerFlushed := false, ana := 0 })
    let d := d.onMedia (fun m => { m with trained := d.pair.peerTrain.foldl (fun t e => SMap.put t e.1 e.2) m.trained })
    let d := if d.fw.mode = .duo then d.setMode .survivor else d
    let d := d.setTransit false
    let d := d.onWr (fun w =>
      { w with entries := w.entries.map (fun e => { e with mirrored := true }), rels := [] })
    let d := (d.adopt).takeSide
    let zs := d.peerZones
    let d := d.onWr (fun w => { w with resv := w.resv.filter (fun ix => !zs.contains ix) ++ zs })
    let d := d.each zs (fun d ix => d.foundGroup ix)
    let d := if d.wr.entries.any (fun e => e.q == peerQ) then d.setFld A.PEN_RSV 31 16 320 else d
    let d := ((((d.loadAll).ackAll).anaNotice).pump).endReq .success
    d.renewFlush.capacityCheck
  else d

def execSurvivorEntry (s : State) : Host.Outcome State Fault Refusal := mainDo s Dev.survive

/-- The pair's ALIVE and HB_EN go in one write (R229). -/
def Dev.standDown (d : Dev) : Dev := (d.setBit A.PAIR_CTL 4 false).setBit A.PAIR_CTL 3 false

/-- Unacknowledged writes of a kind end together with one status, later ones of their zones among them (R69, R238, R252). -/
def Dev.failWrites (d : Dev) (p : Entry → Bool) (st : Status) : Dev :=
  let gone := d.wr.entries.filter (fun e => !e.acked && p e)
  (d.removeEntries (fun e => !e.acked && p e)).completeAll (gone.map (·.h)) st false

/-- 10 ms of SPLIT (R238): PAIR_ID 1 fails its unacknowledged writes and stands down. -/
def Dev.splitOut (d : Dev) : Dev :=
  if d.board.pairId ∧ d.bit A.PAIR_STAT 6 then
    let d := d.completeAll (d.wr.waiting.map (·.h)) .nsNotReady false
    let d := d.onWr (fun w => { w with waiting := [] })
    (d.failWrites (fun _ => true) .nsNotReady).standDown
  else d

def execSplitTimeout (s : State) : Host.Outcome State Fault Refusal := mainDo s Dev.splitOut

/-! The fence input and PEER_ALIVE_IN rising (R227, R228, R240). -/

/-- PEER_FENCE_IN rises. -/
def Dev.fenceRose (d : Dev) : Dev :=
  let d := d.onPins (fun p => { p with fenceIn := true })
  if !d.hasPair then d
  else
    let d := d.fenceActs
    let d := d.onPair (fun p => { p with guarded := false, releasing := 0, waitRel := 0 })
    if !d.tor.mainOn then d
    else if decide (d.fw.role = .duo) && (decide (d.fw.mode = .duo) || decide (d.fw.mode = .readonly)) then
      (((d.onPair (fun p => { p with takeover := false })).fencedReturn).endReq .pairFenced).anaNotice
    else if d.fw.mode = .init ∧ d.fw.replayed then
      let d := d.onWr (fun w => { w with entries := [], mirror := [] })
      ((d.onFw (fun f => { f with fencedInit := true })).setTransit false).rdyCheck
    else d

def execPeerFenceInRise (s : State) : Host.Outcome State Fault Refusal := aonDo s Dev.fenceRose

/-- PEER_FENCE_IN falls: in the last phase of a handback the returning controller claims its side (R241). -/
def Dev.fenceFell (d : Dev) : Dev :=
  let d := d.onPins (fun p => { p with fenceIn := false })
  if d.hasPair && d.tor.mainOn && d.fw.fencedInit && d.pair.req.isSome then d.claimCh d.ownSide else d

def execPeerFenceInFall (s : State) : Host.Outcome State Fault Refusal := aonDo s Dev.fenceFell

/-! The handshake (R230). -/

/-- The pair protocol version of the running image: PROTO of its header (R390). -/
def Dev.proto (d : Dev) : Nat := ofLe (d.loadBytes (0x0100000000 + d.fw.runSlot * 0x800000 + 32) 4)

/-- This controller's HELLO. -/
def Dev.ownHello (d : Dev) (restart : Bool) : Hello :=
  let geom := fun (ch : Nat) => BitVec.ofNat 32 (d.rd (A.MULE_GEOM ch)).toNat
  { code := d.board.code.val, stepping := 0xB0, pairId := d.board.pairId, geom := geom 0, proto := d.proto, restart := restart,
    odd := ((List.range 64).filter (fun ch => decide (geom ch ≠ geom 0))).map (fun ch => (ch, geom ch)) }

/-- HELLO and what follows go out once the link is trained and PEER_UP is 1. -/
def Dev.sayHello (d : Dev) (restart : Bool) : Dev :=
  if d.peerUp then d.sendFrame (.hello (d.ownHello restart)) else d

/-- PEER_ALIVE_IN rises (R28, R237, R238). -/
def Dev.aliveRose (d : Dev) : Dev :=
  let was := d.aliveIn
  let d := d.onPins (fun p => { p with aliveIn := true })
  if d.hasPair && d.tor.mainOn then
    let d := d.onPair (fun p => { p with aliveLow := false })
    let d := if 50 ≤ d.fld A.PAIR_STAT 15 8 then d.setBit A.PAIR_STAT 6 true else d
    if was ∨ d.fw.mode = .duo then d else d.sayHello true
  else d

def execPeerAliveInRise (s : State) : Host.Outcome State Fault Refusal := aonDo s Dev.aliveRose

/-- PAIR_CTL (R246, R248, R253): EN starts training; a cleared one drains, and an EN set then is held. -/
def Dev.pairCtl (d : Dev) (v : W32) : Dev :=
  let d := d.setReg A.PAIR_CTL (v.toNat &&& 0xFF001D)
  if v.getLsbD 0 then
    if d.bit A.PAIR_STAT 2 then d.onPair (fun p => { p with heldEn := true })
    else if d.fld A.PAIR_STAT 1 0 = 0 then d.setFld A.PAIR_STAT 1 0 1
    else d
  else
    let d := d.onPair (fun p => { p with heldEn := false })
    if d.fld A.PAIR_STAT 1 0 = 0 then d else (d.setBit A.PAIR_STAT 2 true).linkDrained

def execPairCtlEnWrite (v : W32) (s : State) : Host.Outcome State Fault Refusal :=
  regDo A.PAIR_CTL s (fun d => d.pairCtl v)

/-- Training ends: the link is up where all 8 lanes have locked (R247, R248); claims that waited go out. -/
def Dev.trained (d : Dev) (lanes : List (Bool × Byte)) : Dev :=
  if d.fld A.PAIR_STAT 1 0 ≠ 1 then d
  else
    let d := d.each (List.range 8) (fun d l =>
      let x := lanes.getD l (false, 0)
      d.setReg (A.PAIR_LANE l) ((if x.1 then 256 else 0) + x.2.toNat))
    if (List.range 8).all (fun l => (lanes.getD l (false, 0)).1) then
      let d := d.setFld A.PAIR_STAT 1 0 2
      let d := if d.rd A.PAIR_PEND = 0 then d else d.sendFrame (.claim (d.rd A.PAIR_PEND))
      d.sayHello true
    else d

def execLinkTrainingComplete (lanes : List (Bool × Byte)) (s : State) : Host.Outcome State Fault Refusal :=
  mainDo s (fun d => if d.hasPair then d.trained lanes else d)

/-- A retrain starts (R248). -/
def execLinkRetrain (s : State) : Host.Outcome State Fault Refusal :=
  mainDo s (fun d => if d.linkUp then (d.setFld A.PAIR_STAT 1 0 3).count (A.PAIR_CNT 7) 64 1 else d)

/-- It ends: what the replay buffer holds goes out, and the latest MACK. -/
def Dev.retrained (d : Dev) : Dev :=
  if d.fld A.PAIR_STAT 1 0 = 3 then
    (((d.setFld A.PAIR_STAT 1 0 2).resend).sendFrame (.mack (d.rd A.PAIR_MSEQ_RX).toNat)).pump
  else d

def execRetrainComplete (s : State) : Host.Outcome State Fault Refusal := mainDo s Dev.retrained

/-- Step 1 holds (R230): unequal PAIR_IDs, everything else the same. -/
def Dev.helloFits (d : Dev) (h : Hello) : Bool :=
  let o := d.ownHello false
  decide (h.code = o.code) && decide (h.stepping = o.stepping) && (h.pairId != o.pairId) && decide (h.geom = o.geom) &&
    decide (h.odd = o.odd) && decide (h.proto = o.proto)

/-- A slot's key goes to the peer wrapped under PWK (R212, R230). -/
def Dev.sendKey (d : Dev) (slot : Nat) : Dev :=
  match d.slot slot, d.wrapKw true with
  | .key k a, some kw => d.sendFrame (.bulk bulkKey (.key slot (wrapKey kw k a)))
  | _, _ => d

/-- A key of the peer (R212): loaded into the same slot, and kept under this controller's KWK. -/
def Dev.gotKey (d : Dev) (slot : Nat) (blob : BitVec 704) : Dev :=
  match d.wrapKw true with
  | none => d
  | some kw =>
    match unwrapKey kw blob with
    | none => d
    | some (k, a) =>
      if d.cipherAlarmed || halvesEqual k || !d.inPenRange (byteAt a 1) slot then d
      else
        let d := d.setSlot slot (.key k a)
        match d.cipher.kwk with
        | some w => d.onCipher (fun c => { c with exports := SMap.put c.exports slot (wrapKey w k a) })
        | none => d

/-- Step 3 (R230): the ceiling, the training values of the own side's channels, the Pen records, the keys, and the MSEQ ranges of the
entries that the last recovery restored. -/
def Dev.stepThree (d : Dev) : Dev :=
  let d := d.sendFrame (.bceil d.wr.bceil)
  let d := d.sendFrame (.bulk bulkTrain (.train (d.media.trained.filter (fun e => bitOf d.ownSide e.1))))
  let d := d.sendFrame (.bulk bulkPens (.pens (d.pens.recs.map (fun e => (e.1, e.2.r, e.2.gen)))))
  let d := d.each (d.cipher.exports.map Prod.fst) (fun d s => d.sendKey s)
  d.sendFrame (.restored d.pair.rest)

/-- A restart of FSEQ without a declared loss (R252): the replay buffers go, writes without a MACK fail, and a mirror
entry without its valid mark goes. DEDUCED (assumption 157): the peer's MSEQ starts again too, so that MACK can name its next entries. -/
def Dev.fseqRestart (d : Dev) : Dev :=
  let d := d.onPair (fun p => { p with replay := [], mseqNew := true })
  if d.bit A.PAIR_STAT 7 then d
  else
    ((d.onPair (fun p => { p with cur := none })).dropCreates).failWrites (fun e => !e.mirrored) .nsNotReady

/-- The identity private key (R284): words 3 and 4 of the OTP row, which the firmware has read before it sets OTPHIDE. -/
def Dev.idKey (d : Dev) : Nat := (d.otpWord 3).toNat + (d.otpWord 4).toNat % 2 ^ 128 * 2 ^ 256

/-- Step 2, this controller's part (R230): a new private key, kept for the answer, its public value, and that value's signature. The two
secret numbers are free. -/
def Dev.sendKeyx (d : Dev) : Dev :=
  let priv := 1 + Config.freeNat d.free % (n384 - 1)
  let k := 1 + Config.freeNat (d.free + 1) % (n384 - 1)
  let pub := ecPub priv
  ((({ d with free := d.free + 2 } : Dev).onPair (fun p => { p with ephem := priv })).sendFrame
    (.keyx (ofLe pub) (ofLe (ecdsaSign d.idKey k (sha384 pub)))))

/-- HELLO (R230 step 1, R252). -/
def Dev.gotHello (d : Dev) (f : FrameHdr) (h : Hello) : Dev :=
  let d := if h.restart then d.fseqRestart else d
  let d := d.onPair (fun p =>
    { p with rxSeq := f.fseq.toNat, gap := false, hello := some h, pwkOk := false, bceilOk := false, restored := none, peerFlushed := false })
  if !d.helloFits h then
    (d.onPair (fun p => { p with hello := none })).pairPost 0x0900 (Config.evCode 21) 6 (h.code + h.proto * 2 ^ 32)
  else if d.board.code.val = 2 then d.stepThree
  else
    d.sendKeyx

def execHello (f : FrameHdr) (h : Hello) (s : State) : Host.Outcome State Fault Refusal :=
  mainDo s (fun d =>
    if d.linkUp then
      if h.restart then (d.count (A.PAIR_CNT 1) 64 1).gotHello f h else d.rx f (fun d => d.gotHello f h)
    else d)

/-- The pair wrapping key that a public value of the peer leads to (R230): the KDF's output for the shared secret; none where the value
names no point of the curve, or none was sent. -/
def Dev.pairKeyOf (d : Dev) (pub : Nat) : Option (BitVec 256) :=
  if d.pair.ephem = 0 then none else (ecdh d.pair.ephem (leBytes 97 pub)).map (fun z => kdf256 z pwkLabel)

/-- KEYX (R230 step 2): PWK is derived and loaded, or the handshake stops. DESIGN CHOICE (assumption 144): a public value without a shared
secret fails the step as a bad signature does. -/
def Dev.gotKeyx (d : Dev) (pub sig : Nat) : Dev :=
  if d.board.code.val = 2 ∨ d.pair.hello = none then d
  else
    match (if Config.sigOk pub sig then d.pairKeyOf pub else none) with
    | none => (d.onPair (fun p => { p with hello := none })).pairPost 0x0900 (Config.evCode 21) 6 0
    | some k =>
      let d := d.onCipher (fun c =>
        { c with pwk := (List.range 4).foldl (fun m i => SMap.set (fun _ => 0) m i (BitVec.ofNat 64 (k.toNat / 2 ^ (64 * i)))) c.pwk })
      ((d.setBit A.CIPHER_STAT 3 true).onPair (fun p => { p with pwkOk := true })).stepThree

def execKeyx (f : FrameHdr) (pub sig : Nat) (s : State) : Host.Outcome State Fault Refusal :=
  mainDo s (fun d => d.rx f (fun d => d.gotKeyx pub sig))

/-- BCEIL (R72). -/
def execBceil (f : FrameHdr) (mib : W16) (s : State) : Host.Outcome State Fault Refusal :=
  mainDo s (fun d => d.rx f (fun d => (d.onPair (fun p => { p with bceilOk := true })).setPeerCeil mib.toNat))

/-- FLUSH_DONE (R150, R155): the mirrored entries need no flush here; those that a flush under way has not yet programmed are
skipped. A free value (assumption 2): how many it has programmed. -/
def Dev.gotFlushDone (d : Dev) : Dev :=
  let d := d.onPair (fun p => { p with peerFlushed := true })
  if d.tor.latch && !d.wr.flushPeer.isEmpty then
    (d.onWr (fun w => { w with flushPeer := w.flushPeer.take (Config.freeNat d.free) })).draw
  else d

def execFlushDone (f : FrameHdr) (s : State) : Host.Outcome State Fault Refusal :=
  mainDo s (fun d => d.rx f Dev.gotFlushDone)

/-- RESTORED (R154): mirror entries in the ranges go; the rest are sent back. -/
def Dev.gotRestored (d : Dev) (rs : List (Nat × Nat)) : Dev :=
  let has := fun (m : Mir) => rs.any (fun r => decide (r.1 ≤ m.m.mseq) && decide (m.m.mseq ≤ r.2))
  let d := d.onPair (fun p => { p with restored := some rs })
  let d := d.onWr (fun w => { w with mirror := w.mirror.filter (fun m => !has m) })
  d.each (d.wr.mirror.filter (·.complete)) (fun d m => d.sendFrame (.bulk bulkEntry (.entry m.m (m.secs.map mirSec))))

def execRestored (f : FrameHdr) (ranges : List (Nat × Nat)) (s : State) : Host.Outcome State Fault Refusal :=
  mainDo s (fun d => d.rx f (fun d => d.gotRestored ranges))

/-- The bulk copy of namespaces, descriptors and conventional maps (R230 step 4, R232, R241 phase 1). -/
def Dev.bulkState (d : Dev) (p : Nat → Bool) : Dev :=
  let ds := d.media.zt.filter (fun e => p (Zd.ofWord e.2).nsx)
  let cs := (d.media.conv.filter (fun e => p (e.1 / 2 ^ 40))).map (fun e => (e.1, e.2.unit * 2 ^ 18 + e.2.ofs))
  let d := d.sendFrame (.bulk bulkNs (.nss (d.media.nss.filter (fun n => p n.nsx))))
  (d.sendFrame (.bulk bulkDesc (.desc ds))).sendFrame (.bulk bulkMap (.cmap cs))

/-- What this controller knows of its namespaces has changed: the peer learns it, in DUO of those of the own home, in a handback of all
(R232, R241). -/
def Dev.shareNss (d : Dev) : Dev :=
  if d.tees then
    d.sendFrame (.bulk bulkNs (.nss (d.media.nss.filter (fun n => decide (d.fw.role ≠ .duo) || n.home == d.board.pairId))))
  else d

/-- The peer's Pen records: the higher GEN wins (R230 step 3). -/
def Dev.takeRecs (d : Dev) (recs : List (Nat × PenRec × Nat)) : Dev :=
  d.each recs (fun d x =>
    let own := match d.pen x.1 with | some i => i.gen | none => 0
    if own < x.2.2 then
      let i : PenInfo := { r := x.2.1, gen := x.2.2, enabled := match d.pen x.1 with | some i => i.enabled | none => false }
      (d.onPens (fun p => { p with recs := SMap.put p.recs x.1 i })).loadPen x.1 i
    else d)

/-- Steps 1 to 3 are complete. -/
def Dev.stepsDone (d : Dev) : Bool :=
  (match d.pair.hello with | some h => d.helloFits h | none => false) &&
    (decide (d.board.code.val = 2) || d.pair.pwkOk) && d.pair.bceilOk && d.pair.restored.isSome

/-- The whole pair log goes to the peer, in age order (R297). -/
def Dev.sendPairLog (d : Dev) : Dev :=
  d.each (Log.ordered pairLog (d.log pairLog)) (fun d r => d.sendFrame (.bulk 0x0C (.pairRec r.post r.time r.rep)))

/-- PAIR_HANDSHAKE (R230): with steps 1 to 3 complete, the records, the pair log (R297), the bulk copy and
the claims. A fenced controller stops
after step 3 (R241). -/
def Dev.handshake (d : Dev) (recs : List (Nat × PenRec × Nat)) : Dev :=
  if !d.peerUp || !d.fw.replayed || !d.stepsDone then d
  else
    let d := (d.takeRecs recs).sendPairLog
    if d.fw.mode ≠ .init ∨ d.fenceIn then d
    else
      let d := d.bulkState (fun nsx => d.homeOf nsx == d.board.pairId)
      ((d.onPair (fun p => { p with entrySent := true })).claimCh d.ownSide).duoIfOwned

def execPairHandshake (recs : List (Nat × PenRec × Nat)) (s : State) : Host.Outcome State Fault Refusal :=
  mainDo s (fun d => d.handshake recs)

/-- PEER_ABSENT_TIMEOUT (R29, R228): the fence and every claim; SOLO follows at the end of the guard. -/
def Dev.peerAbsent (d : Dev) : Dev :=
  if d.hasPair ∧ d.fw.mode = .init ∧ d.fw.replayed ∧ ¬ d.fenceIn ∧ ¬ d.peerUp ∧ ¬ d.fw.fencedInit then
    let d := (d.setFence true).claimCh (BitVec.allOnes 64)
    if d.rd A.PAIR_OWN = BitVec.allOnes 64 then d.enterSolo else d
  else d

def execPeerAbsentTimeout (s : State) : Host.Outcome State Fault Refusal := mainDo s Dev.peerAbsent

/-! The mirror (R233 to R236). -/

/-- MHDR: an entry begins; after a restart of the link PAIR_MSEQ_RX stands below its MSEQ (R234, R252). -/
def Dev.mhdrOf (d : Dev) (m : MirHdr) : Dev :=
  let d := if d.pair.mseqNew then d.setReg A.PAIR_MSEQ_RX (m.mseq - 1) else d
  d.onPair (fun p => { p with cur := some { m := m, secs := [], complete := false }, mseqNew := false })

def execMhdr (f : FrameHdr) (m : MirHdr) (s : State) : Host.Outcome State Fault Refusal :=
  mainDo s (fun d => d.rx f (fun d => d.mhdrOf m))

/-- MDATA. -/
def execMdata (f : FrameHdr) (x : MirSec) (s : State) : Host.Outcome State Fault Refusal :=
  mainDo s (fun d => d.rx f (fun d => d.onPair (fun p =>
    { p with cur := p.cur.map (fun c => { c with secs := c.secs ++ [secOf x] }) })))

/-- The body of a mirror entry as it stands in DRAM: 4,128 bytes for each LBA, its data, its metadata and its seal (R236). -/
def Dev.mirBytes (d : Dev) (c : Mir) : List Byte :=
  match d.media.nss.find? (fun n => n.nsx == c.m.nsx) with
  | some n => c.secs.flatMap (fun s =>
      let md := n.mdBytes s.d.md
      lbaBytes s.d.data ++ (md ++ List.replicate (16 - md.length) 0) ++ sealBytes n s false)
  | none => []

/-- A mirror entry is written to the mirror area at PAIR_MIRBASE (R234). A free value (assumption 2): its place in the area. -/
def Dev.putMir (d : Dev) (c : Mir) : Dev :=
  let base := (d.rd A.PAIR_MIRBASE).toNat
  let b := d.mirBytes c
  if isDram base then (d.storeBytes (base + Config.freeNat d.free % (2 ^ 30 - b.length)) b).draw else d

/-- A conventional write counter stands behind the GENs that the mirror has brought (R159). -/
def Dev.wctrAfter (d : Dev) (c : Mir) : Dev :=
  d.onMedia (fun m => { m with nss := m.nss.map (fun n =>
    if n.nsx = c.m.nsx ∧ !n.zoned then
      c.secs.foldl (fun (n : Ns) s => if laterGen (nextGen s.gen) n.wctr then { n with wctr := nextGen s.gen } else n) n
    else n) })

/-- MEND (R234): with the valid mark 0xA5 the entry is complete and stands in the mirror area, PAIR_MSEQ_RX advances, and MACK goes
back. -/
def Dev.mendOf (d : Dev) (mseq : W64) (vmark : Byte) : Dev :=
  match d.pair.cur with
  | none => d
  | some c =>
    let d := d.onPair (fun p => { p with cur := none })
    if vmark ≠ 0xA5 ∨ c.m.mseq ≠ mseq.toNat then d
    else
      let d := ((d.putMir c).wctrAfter c).onWr (fun w => { w with mirror := w.mirror ++ [{ c with complete := true }] })
      let d := if (d.rd A.PAIR_MSEQ_RX).toNat + 1 = mseq.toNat then d.wr64 A.PAIR_MSEQ_RX mseq else d
      d.sendFrame (.mack (d.rd A.PAIR_MSEQ_RX).toNat)

def execMend (f : FrameHdr) (mseq : W64) (vmark : Byte) (s : State) : Host.Outcome State Fault Refusal :=
  mainDo s (fun d => d.rx f (fun d => d.mendOf mseq vmark))

/-- MACK (R65, R234): entries up to the MSEQ are confirmed and acknowledged. -/
def Dev.gotMack (d : Dev) (mseq : Nat) : Dev :=
  let d := d.setReg A.PAIR_MSEQ_ACK (Nat.max (d.rd A.PAIR_MSEQ_ACK).toNat mseq)
  let d := d.onWr (fun w => { w with entries := w.entries.map (fun e =>
    if e.mseq ≤ mseq then { e with mirrored := true } else e) })
  (d.ackAll).pump

def execMack (ackseq : W32) (mseq : W64) (s : State) : Host.Outcome State Fault Refusal :=
  mainDo s (fun d => d.rxOther (fun d => (d.gotAck ackseq).gotMack mseq.toNat))

/-- The mirrored sectors of [lo, hi) of a namespace, each with its LBA. -/
def Dev.mirSecs (d : Dev) (nsx lo hi : Nat) : List (Nat × Sector) :=
  d.wr.mirror.flatMap (fun m =>
    if m.m.nsx ≠ nsx then []
    else ((m.secs.zipIdx).map (fun (x, i) => (m.m.lba + i, x))).filter (fun p => decide (lo ≤ p.1) && decide (p.1 < hi)))

/-- What a mirrored record places on flash leaves the mirror (R234). -/
def Dev.applyRec (d : Dev) (b : JBody) : Dev :=
  let drop := fun (d : Dev) (nsx lo hi : Nat) => d.onWr (fun w => { w with mirror := w.mirror.flatMap (cutMir nsx lo hi) })
  match b with
  | .stripe nsx ix grp _ =>
    match d.media.nss.find? (fun n => n.nsx == nsx) with
    | none => d
    | some n =>
      if !n.zoned then d
      else
        let z := d.zd ix
        let zs := (ix - n.base) * zsze n.seven
        let lo := zs + grp * groupLbas n.seven
        let hi := lo + groupLbas n.seven
        let d := d.each (d.mirSecs nsx lo hi) (fun d s => d.onMedia (fun m =>
          { m with flash := SMap.put m.flash (d.zoneKey n.seven z.group z.lbn (s.1 - zs)) s.2 }))
        drop d nsx lo hi
  | .foldput nsx _ lba n row unit =>
    let d := d.each (d.mirSecs nsx lba (lba + n)) (fun d s => d.onWr (fun w =>
      { w with fold := w.fold ++ [{ nsx := nsx, lba := s.1, secs := [s.2], burst := false, lost := false, row := row
                                    unit := unit + (s.1 - lba) / 16 }] }))
    drop d nsx lba (lba + n)
  | .relocZ _ ix group lbn g l =>
    let z := d.zd ix
    d.each (List.range z.fp) (fun d o =>
      match SMap.find d.media.flash (d.zoneKey z.seven group lbn o) with
      | some s => d.onMedia (fun m => { m with flash := SMap.put m.flash (d.zoneKey z.seven g l o) s })
      | none => d)
  | .zreset nsx ix _ _ _ =>
    match d.media.nss.find? (fun n => n.nsx == nsx) with
    | some n => drop d nsx ((ix - n.base) * zsze n.seven) ((ix - n.base + 1) * zsze n.seven)
    | none => d
  | _ => d

/-- JREC (R233, R234): journaled here with FLAGS bit 1, then applied. -/
def Dev.gotRec (d : Dev) (r : JRec) : Dev :=
  let x := d.nextRec r.flushed true r.body
  (d.putJ x).applyRec r.body

def execJrec (f : FrameHdr) (r : JRec) (s : State) : Host.Outcome State Fault Refusal :=
  mainDo s (fun d => d.rx f (fun d => d.gotRec r))

/-- Descriptors of the peer go into this controller's own table (R232); below their FP the peer has programmed the rows. -/
def Dev.gotDescs (d : Dev) (l : List (Nat × BitVec 128)) : Dev :=
  d.onMedia (fun m =>
    { m with
      zt := l.foldl (fun t e => SMap.set zt0 t e.1 e.2) m.zt
      far := l.foldl (fun t e => SMap.set (fun _ => 0) t e.1 (Zd.ofWord e.2).fp) m.far })

/-- ZDESC (R233). -/
def execZdesc (f : FrameHdr) (l : List (Nat × BitVec 128)) (s : State) : Host.Outcome State Fault Refusal :=
  mainDo s (fun d => d.rx f (fun d => d.gotDescs l))

/-- The source unit of the move that the last of the peer's records for a namespace commits; none: the last one places new data (R142,
R234; assumption 21). -/
def Dev.moveOf (d : Dev) (nsx : Nat) : Option Nat :=
  (d.media.journal.reverse.findSome? (fun r =>
    if !r.peer then none
    else match r.body with
      | .relocC n src _ _ => if n = nsx then some (some src) else none
      | .stripe n .. => if n = nsx then some none else none
      | _ => none)).getD none

/-- An LBA of the peer's conventional map stands at a place from now on; the unit there is known by its number. -/
def Dev.farSector (d : Dev) (nsx p lba : Nat) (s : Sector) : Dev :=
  let u := p / 2 ^ 18
  let d := d.onMedia (fun m =>
    { m with urow := if (SMap.find m.urow (unitKey nsx u)).isSome then m.urow else SMap.put m.urow (unitKey nsx u) u })
  d.mapSector nsx p lba s

/-- An LBA that the peer's map holds no more: no copy of it stays here. -/
def Dev.farUnmap (d : Dev) (k : Nat) : Dev :=
  let nsx := k / 2 ^ 40
  let lba := k % 2 ^ 40
  let d := (d.onMedia (fun m => { m with units := unmapUnit m nsx k, conv := SMap.del m.conv k })).dropFold nsx lba (lba + 1)
  d.onWr (fun w => { w with mirror := w.mirror.flatMap (cutMir nsx lba (lba + 1)) })

/-- An LBA of the peer's map whose data no frame brought here: they are free, and so is their GEN (assumption 153). -/
def Dev.farUnknown (d : Dev) (nsx p lba : Nat) : Dev :=
  (d.farSector nsx p lba (peerSector nsx lba (Config.freeNat d.free % 2 ^ 32))).draw

/-- Map entries of the peer: the key of an LBA, and its place or none. With new data the sector is the mirrored one, which leaves the
mirror; with a move it is the one that the map has, where that still stands in the source unit (R142, R234). -/
def Dev.gotMap (d : Dev) (l : List (Nat × Nat)) : Dev :=
  d.each l (fun d e =>
    let nsx := e.1 / 2 ^ 40
    let lba := e.1 % 2 ^ 40
    if e.2 = noPlace then d.farUnmap e.1
    else
      match d.moveOf nsx, SMap.find d.media.conv e.1 with
      | some src, some c => if c.unit = src then d.farSector nsx e.2 lba c.sec else d
      | some _, none => d
      | none, _ =>
        match (d.mirSecs nsx lba (lba + 1)).getLast? with
        | some s =>
          (d.farSector nsx e.2 lba s.2).onWr (fun w => { w with mirror := w.mirror.flatMap (cutMir nsx lba (lba + 1)) })
        | none => d.farUnknown nsx e.2 lba)

/-- The conventional map as a copy in bulk (R230 step 4): places alone; an LBA that stands where it stood has its data. -/
def Dev.gotCmap (d : Dev) (l : List (Nat × Nat)) : Dev :=
  d.each l (fun d e => match SMap.find d.media.conv e.1 with
    | some c => if c.unit * 2 ^ 18 + c.ofs = e.2 then d else d.farUnknown (e.1 / 2 ^ 40) e.2 (e.1 % 2 ^ 40)
    | none => d.farUnknown (e.1 / 2 ^ 40) e.2 (e.1 % 2 ^ 40))

/-- MAP (R233). -/
def execMap (f : FrameHdr) (l : List (Nat × Nat)) (s : State) : Host.Outcome State Fault Refusal :=
  mainDo s (fun d => d.rx f (fun d => d.gotMap l))

/-- An entry that the peer sends back (R154): a restored entry of this controller. -/
def Dev.takeBack (d : Dev) (m : MirHdr) (x : List MirSec) : Dev :=
  let keep := d.wr.mirror
  let d := (d.onWr (fun w => { w with mirror := [{ m := m, secs := x.map secOf, complete := true }] })).adopt
  d.onWr (fun w => { w with mirror := keep })

/-- A record of the peer's pair log (R297): written as a new record where this one's pair log does not hold it, compared
whole. -/
def Dev.gotPairRec (d : Dev) (p : Post) (time rep : Nat) : Dev :=
  let g := d.log pairLog
  if g.recs.any (fun r => decide (r.post = p ∧ r.time = time ∧ r.rep = rep)) then d
  else d.setLog pairLog (Log.add pairLog g { post := p, time := time, logs := [] } rep)


end Sys2Proof.Machine
end

