-- ==== Sys2Proof/Machine/PairCtl.lean ====
section
/-! DEFINITION. PAIR_CONTROL: Join, Release, Handback and Go Solo, the PHASE message and the phases (R241 to R244, R264). -/

namespace Sys2Proof.Machine

/-- A host command of PAIR_CONTROL may come from a physical function only; on the AS code, and while TRANSIT is 1, every
action is refused (R2, R32, R260). -/
def Dev.pairBusy (d : Dev) : Bool := !d.hasPair || d.fw.transit

/-- The peer is in INIT (fenced): this controller fences it, the link is up, and steps 1 to 3 of R230 are done. -/
def Dev.peerFenced (d : Dev) : Bool := d.fenceOut && d.peerUp && d.stepsDone

/-- This controller is in INIT (fenced). -/
def Dev.isFenced (d : Dev) : Bool := decide (d.fw.mode = .init) && d.fw.fencedInit

/-- The Empty zones of a home and stripe type, which rows of its pool must back (R53). -/
def Dev.emptyOf (d : Dev) (home seven : Bool) : Nat :=
  (d.zones (fun z => decide (z.st = zEmpty) && (z.seven == seven) && (d.homeOf z.nsx == home))).length

/-- Some namespace has rows on both sides of the split, or off its home's side (R242): rows of zones with data, of reclaim units, or
pooled rows that its Empty zones need. -/
def Dev.straddles (d : Dev) : Bool :=
  d.media.zt.any (fun e =>
    let z := Zd.ofWord e.2
    (z.active || decide (z.st = zFull) || decide (z.st = zRO)) && !d.homeGroup (d.homeOf z.nsx) z.seven z.group) ||
  d.media.urow.any (fun e => !d.homeGroup (d.homeOf (e.1 / 2 ^ 21)) (decide (2 ^ 23 ≤ e.2)) (keyGroup e.2)) ||
  [false, true].any (fun home => [false, true].any (fun seven =>
    decide (((d.pool seven).filter (fun r => d.homeGroup home seven r.group)).length < d.emptyOf home seven)))

/-- A Join exceeds the limits of R51. -/
def Dev.joinLimited (d : Dev) : Bool :=
  decide (262144 < (d.zones (fun z => decide (z.st ≠ zNone))).length) || decide (2048 < (d.zones Zd.opened).length) ||
    decide (8192 < (d.zones Zd.active).length)

/-- The transition is in the table of R29, seen from the controller that has the request. -/
def Dev.pairLegal (d : Dev) (a : PairAct) : Bool :=
  match a with
  | .join => (decide (d.fw.mode = .solo) && d.peerFenced && !d.joinLimited && !d.straddles) || (d.isFenced && d.stepsDone)
  | .handback => (decide (d.fw.mode = .survivor) && d.peerFenced) || (d.isFenced && d.stepsDone)
  | .release _ => decide (d.fw.mode = .duo)
  | .goSolo => decide (d.fw.mode = .survivor) || (d.isFenced && d.stepsDone)
  | .refuse => false

/-- The channels of the peer's home. -/
def Dev.peerSide (d : Dev) : W64 := ~~~ d.ownSide

/-- Go Solo (R244): the peer's namespaces are rehomed, with a Namespace Attribute Changed event for each; their Empty zones need backing on
this side now (R53, R231). -/
def Dev.soloNow (d : Dev) : Dev :=
  let moved := d.media.nss.filter (fun n => d.peerHome n)
  let d := d.onMedia (fun m => { m with nss := m.nss.map (fun n => { n with home := d.board.pairId }) })
  let d := d.each moved (fun d n => d.aenTo (d.penFns n.pen) 2 0 4)
  let d := (d.setRole .solo).setMode .solo
  let d := ((d.backing false).backing true).capacityCheck
  let d := d.sendFrame (.phase .goSolo)
  (d.endReq .success).setTransit false

/-- The controller that is to stop has no entry left and no admitted command: it releases its channels, and once they are released
it stands down (R243). -/
def Dev.stopNow (d : Dev) : Dev :=
  if d.wr.entries = [] ∧ d.openCmds = [] then
    let d := d.relCh (d.rd A.PAIR_OWN)
    if d.rd A.PAIR_OWN = 0 then d.standDown else d
  else d

/-- A request begins at this controller (R241 to R244). -/
def Dev.beginPair (d : Dev) (a : PairAct) : Dev :=
  match a with
  | .join | .handback =>
    if d.isFenced then d
    else
      let d := d.onPair (fun p => { p with tee := true, mark := d.wr.nextId })
      (d.bulkState (fun _ => true)).ckptBulk (fun _ => true)
  | .release one =>
    if one = d.board.pairId then
      (((d.onPair (fun p => { p with anaOwn := 1 })).loadAll).anaNotice).stopNow
    else ((d.onPair (fun p => { p with ana := 1 })).loadAll).anaNotice
  | .goSolo => if d.fw.mode = .survivor then d.soloNow else d
  | .refuse => d

/-- A PAIR_CONTROL action by a host (R32, R260, R264). -/
def Dev.pairControl (d : Dev) (h : Hdr) (a : PairAct) : Dev :=
  if !d.isPf h.fn.val then d.failCmd h .invalidOpcode
  else if d.pairBusy ∨ ¬ d.pairLegal a then d.failCmd h .modeRefused
  else
    let d := (d.onPair (fun p => { p with req := some { h := some h, a := a, ph := 1 } })).setTransit true
    (d.sendFrame (.phase a)).beginPair a

def execJoin (h : Hdr) (s : State) : Host.Outcome State Fault Refusal := mainDo s (fun d => d.pairControl h .join)

def execRelease (h : Hdr) (one : Bool) (s : State) : Host.Outcome State Fault Refusal :=
  mainDo s (fun d => d.pairControl h (.release one))

def execHandback (h : Hdr) (s : State) : Host.Outcome State Fault Refusal := mainDo s (fun d => d.pairControl h .handback)

def execGoSolo (h : Hdr) (s : State) : Host.Outcome State Fault Refusal := mainDo s (fun d => d.pairControl h .goSolo)

/-- PHASE (R264): the peer's request, or at the fenced controller the end of a Go Solo. Of two that cross, the one of
PAIR_ID 0 proceeds. A request that this controller cannot begin, such as a Join that R242 refuses, is answered so, and the other's
command completes with Mode Refused (assumption 137). -/
def Dev.gotPhase (d : Dev) (a : PairAct) : Dev :=
  match d.pair.req with
  | some r =>
    if a = .refuse then d.endReq .modeRefused
    else if r.a = .goSolo ∧ a = .goSolo ∧ d.isFenced then d.endReq .success
    else if d.board.pairId then
      let d := d.endReq .modeRefused
      let d := (d.onPair (fun p => { p with req := some { h := none, a := a, ph := 1 } })).setTransit true
      d.beginPair a
    else d
  | none =>
    if a = .refuse ∨ (a = .goSolo ∧ d.isFenced) then d
    else if d.pairBusy ∨ ¬ d.pairLegal a then d.sendFrame (.phase .refuse)
    else
      let d := (d.onPair (fun p => { p with req := some { h := none, a := a, ph := 1 } })).setTransit true
      d.beginPair a

def execPhase (f : FrameHdr) (a : PairAct) (s : State) : Host.Outcome State Fault Refusal :=
  mainDo s (fun d => d.rx f (fun d => d.gotPhase a))

/-- The next phase. -/
def Dev.setPhase (d : Dev) (n : Nat) : Dev := d.onPair (fun p => { p with req := p.req.map (fun r => { r with ph := n }) })

/-- The entries that were admitted before the first phase have been released (R241). -/
def Dev.settled (d : Dev) : Bool := d.wr.entries.all (fun e => decide (d.pair.mark ≤ e.id))

/-- Admitted commands of the returning controller's group are still open: reads, and writes that are not acknowledged (R241). -/
def Dev.handBusy (d : Dev) : Bool :=
  d.host.reads.any (fun r => decide (d.homeOf r.nsx ≠ d.board.pairId)) ||
    d.wr.entries.any (fun e => !e.acked && decide (d.homeOf e.nsx ≠ d.board.pairId))

/-- HANDBACK_PHASE_END (R241): copy, settle, hand over, DUO; for a Release, the drain of the controller that stops. A phase whose
condition does not hold yet goes on: the entries admitted before the first one, then the admitted commands of the returning
controller's group; its writes that still wait at admission end with its Change state. -/
def Dev.phaseEnd (d : Dev) : Dev :=
  match d.pair.req with
  | none => d
  | some r =>
    match r.a with
    | .join | .handback =>
      if r.ph = 1 then d.setPhase 2
      else if r.ph = 2 then
        if d.isFenced then (if d.fenceIn then d.setPhase 3 else (d.setPhase 3).claimCh d.ownSide)
        else if !d.settled then d
        else
          let d := ((((d.setPhase 3).onPair (fun p => { p with ana := 1 })).loadAll).anaNotice).pump
          if d.handBusy then d else d.relCh d.peerSide
      else if d.isFenced then
        (if d.ownSide &&& ~~~ d.rd A.PAIR_OWN = 0 then d.enterDuo else d)
      else if d.handBusy then d
      else
        let d := d.relCh d.peerSide
        if d.rd A.PAIR_OWN &&& d.peerSide = 0 then (d.setFence false).enterDuo else d
    | .release one => if one = d.board.pairId then d.stopNow else d
    | .goSolo => d
    | .refuse => d

def execHandbackPhaseEnd (s : State) : Host.Outcome State Fault Refusal := mainDo s Dev.phaseEnd

end Sys2Proof.Machine
end

