-- ==== Sys2Proof/Machine/Queues.lean ====
section
/-! DEFINITION. Functions and queues (R26, R27, R96, R179, R186, R195, R256, R257, R301): CC.EN, resets of a
function, queue creation and deletion, Abort, event requests, the Controller Memory Buffer, WINPAGE. -/

namespace Sys2Proof.Machine

/-! Sectors of Cirque. -/

/-- Erase a run of sectors. -/
def Dev.cqWipeRange (d : Dev) (lo n : Nat) : Dev :=
  d.onCirque (fun c =>
    { c with
      words := SMap.keep (fun w => !(decide (lo * 128 ≤ w) && decide (w < (lo + n) * 128))) c.words
      cut := c.cut.filter (fun s => !(decide (lo ≤ s) && decide (s < lo + n))) })

/-! CC.EN and resets of a function. -/

/-- The queues of a function go, with what waits in them. -/
def Dev.dropQueues (d : Dev) (fn : Nat) : Dev :=
  let d := d.onHost (fun h =>
    { h with
      sqs := h.sqs.filter (fun q => q.fn != fn), cqs := h.cqs.filter (fun q => q.fn != fn)
      aers := h.aers.filter (fun x => x.fn.val != fn), aenPend := h.aenPend.filter (fun x => x.1 != fn)
      fw := h.fw.filter (fun f => f.admitted || f.h.fn.val != fn) })
  d.onPens (fun p => { p with wait := p.wait.filter (fun c => c.h.fn.val != fn) })

/-- A write of CC.EN (R179, R195): a function bound to no Pen ignores it; clearing it resets the controller. -/
def Dev.ccEn (d : Dev) (fn : Nat) (en : Bool) : Dev :=
  if (d.penOf fn).isNone then d
  else if en then
    let d := d.onHost (fun h => { h with en := h.en.filter (· != fn) ++ [fn] })
    if d.pens.fnDrain.any (fun x => x.1 == fn) then
      d.onPens (fun p => { p with fnDrain := p.fnDrain.map (fun x => if x.1 = fn then (fn, true) else x) })
    else d.rdyCheck
  else
    (d.dropQueues fn).onHost (fun h => { h with en := h.en.filter (· != fn), rdy := h.rdy.filter (· != fn) })

def execCcEnWrite (fn : FnN) (en : Bool) (s : State) : Host.Outcome State Fault Refusal :=
  mainDo s (fun d => d.ccEn fn.val en)


/-- Function Level Reset of a virtual function, or its VF Enable cleared (R195): admission ends, writes held under
R86 end at once, admitted commands complete, then the queues go. A physical function is reset at once. -/
def Dev.flr (d : Dev) (fn : Nat) : Dev :=
  let d := d.onHost (fun h =>
    { h with en := h.en.filter (· != fn), rdy := h.rdy.filter (· != fn), hregs := SMap.keep (fun k => k % 2 ^ 32 / 65536 != fn) h.hregs })
  if d.isPf fn then d.dropQueues fn
  else
    let d := d.onPens (fun p => { p with wait := p.wait.filter (fun c => c.h.fn.val != fn) })
    let held := d.wr.entries.filter (fun e => e.h.fn.val == fn && e.held && !e.acked && e.q != peerQ)
    let d := d.each held (fun d e => if d.wr.entries.any (fun x => x.id == e.id) then d.failEntry e .tempHold else d)
    if d.fnBusy fn then
      d.onPens (fun p => { p with fnDrain := p.fnDrain.filter (fun x => x.1 != fn) ++ [(fn, false)] })
    else d.dropQueues fn

def execFunctionLevelReset (fn : FnN) (s : State) : Host.Outcome State Fault Refusal :=
  mainDo s (fun d => d.flr fn.val)

/-- A hot reset resets every controller inside HOSTIF, and no domain (R326). -/
def Dev.hotReset (d : Dev) : Dev :=
  (d.each (d.host.en ++ d.host.sqs.map (·.fn) ++ d.host.cqs.map (·.fn)).dedup Dev.dropQueues).onHost (fun h =>
    { h with en := [], rdy := [], hregs := [] })

def execPcieHotReset (s : State) : Host.Outcome State Fault Refusal := mainDo s Dev.hotReset

/-! I/O queues (R96, R186, R256, R257). -/

/-- The I/O queue identifiers that a function may use (R186, R257). -/
def Dev.qidMax (d : Dev) (fn : Nat) : Nat := if d.isPf fn then 4095 else 1536

/-- The IOQ quota of a Pen. -/
def Dev.ioq (d : Dev) (p : Nat) : Nat := match d.pen p with | some i => i.r.ioq | none => 0

/-- I/O queues of a Pen in use. -/
def Dev.sqsOf (d : Dev) (p : Nat) : Nat :=
  (d.host.sqs.filter (fun q => decide (q.sqid ≠ 0) && decide (d.penOf q.fn = some p))).length
def Dev.cqsOf (d : Dev) (p : Nat) : Nat :=
  (d.host.cqs.filter (fun q => decide (q.cqid ≠ 0) && decide (d.penOf q.fn = some p))).length

/-- The bytes of a Pen's partition of the Controller Memory Buffer, and where it starts (R182). -/
def Dev.cmbSize (d : Dev) (p : Nat) : Nat := match d.pen p with | some i => i.r.cmbsh * 65536 | none => 0
def Dev.cmbOff (d : Dev) (p : Nat) : Nat := match d.pen p with | some i => i.r.cmboff * 65536 | none => 0

/-- Create I/O Submission Queue: its checks. -/
def Dev.sqCheck (d : Dev) (fn p : Nat) (a : SqArg) : Option Status :=
  if a.sqid = 0 ∨ d.qidMax fn < a.sqid ∨ d.host.sqs.any (fun q => q.fn == fn && q.sqid == a.sqid) then some .invalidQueue
  else if a.size < 2 ∨ 65536 < a.size then some .queueSize
  else if a.inCmb ∧ d.cmbSize p < a.base + a.size * 64 then some .queueSize
  else if !d.host.cqs.any (fun q => q.fn == fn && q.cqid == a.cqid && q.cqid != 0) then some .cqInvalid
  else if d.ioq p ≤ d.sqsOf p then some .penLimit
  else none

/-- Create I/O Submission Queue: the lowest free index, its binding, its latency class and its Pen (R95, R96). -/
def Dev.sqCreate (d : Dev) (h : Hdr) (a : SqArg) : Dev :=
  match d.penOf h.fn.val with
  | none => d.failCmd h .internal
  | some p =>
    match d.sqCheck h.fn.val p a with
    | some st => d.failCmd h st
    | none =>
      match d.freeQ with
      | none => d.failCmd h .penLimit
      | some i =>
        let x : Sq :=
          { fn := h.fn.val, sqid := a.sqid, cqid := a.cqid, q := i, size := a.size, inCmb := a.inCmb, base := a.base,
            cls := a.cls.val, head := 0, tail := 0, halted := false }
        let d := d.onHost (fun y => { y with sqs := y.sqs ++ [x] })
        (d.setReg (A.COL_SQ i) ((if a.col && a.inCmb then 1 else 0) + a.cls.val * 2 + p * 8)).complete h .success

def execCreateIoSubmissionQueue (h : Hdr) (a : SqArg) (s : State) : Host.Outcome State Fault Refusal :=
  mainDo s (fun d => d.sqCreate h a)

/-- Create I/O Completion Queue: host memory only; 16 vectors for each function (R186, R256). -/
def Dev.cqCreate (d : Dev) (h : Hdr) (a : CqArg) : Dev :=
  match d.penOf h.fn.val with
  | none => d.failCmd h .internal
  | some p =>
    if a.cqid = 0 ∨ d.qidMax h.fn.val < a.cqid ∨ d.host.cqs.any (fun q => q.fn == h.fn.val && q.cqid == a.cqid) then
      d.failCmd h .invalidQueue
    else if a.size < 2 ∨ 65536 < a.size then d.failCmd h .queueSize
    else if a.inCmb then d.failCmd h .invalidField
    else if 16 ≤ a.vector then d.failCmd h .invalidVector
    else if d.ioq p ≤ d.cqsOf p then d.failCmd h .penLimit
    else
      let x : Cq :=
        { fn := h.fn.val, cqid := a.cqid, size := a.size, vector := a.vector, base := a.base, head := 0, tail := 0, phase := true }
      (d.onHost (fun y => { y with cqs := y.cqs ++ [x] })).complete h .success

def execCreateIoCompletionQueue (h : Hdr) (a : CqArg) (s : State) : Host.Outcome State Fault Refusal :=
  mainDo s (fun d => d.cqCreate h a)

/-- Delete I/O Submission Queue: commands not yet admitted are aborted, the index is freed (R96). -/
def Dev.sqDelete (d : Dev) (h : Hdr) (sqid : Nat) : Dev :=
  match d.host.sqs.find? (fun q => q.fn == h.fn.val && q.sqid == sqid && q.sqid != 0) with
  | none => d.failCmd h .invalidQueue
  | some q =>
    let ws := d.pens.wait.filter (fun c => c.h.fn == h.fn && c.h.qid == sqid)
    let d := d.completeAll (ws.map (·.h)) .aborted false
    let d := d.onPens (fun p => { p with wait := p.wait.filter (fun c => !(c.h.fn == h.fn && c.h.qid == sqid)) })
    let d := d.onHost (fun y => { y with sqs := y.sqs.filter (fun x => x != q) })
    (d.setReg (A.COL_SQ q.q) (regReset (A.COL_SQ q.q)).toNat).complete h .success

def execDeleteIoSubmissionQueue (h : Hdr) (sqid : Nat) (s : State) : Host.Outcome State Fault Refusal :=
  mainDo s (fun d => d.sqDelete h sqid)

/-- Delete I/O Completion Queue: not while a submission queue uses it. -/
def Dev.cqDelete (d : Dev) (h : Hdr) (cqid : Nat) : Dev :=
  match d.host.cqs.find? (fun q => q.fn == h.fn.val && q.cqid == cqid && q.cqid != 0) with
  | none => d.failCmd h .invalidQueue
  | some q =>
    if d.host.sqs.any (fun x => x.fn == h.fn.val && x.cqid == cqid && x.sqid != 0) then d.failCmd h .invalidDeletion
    else (d.onHost (fun y => { y with cqs := y.cqs.filter (fun x => x != q) })).complete h .success

def execDeleteIoCompletionQueue (h : Hdr) (cqid : Nat) (s : State) : Host.Outcome State Fault Refusal :=
  mainDo s (fun d => d.cqDelete h cqid)

/-! Abort and event requests. -/

/-- Abort of a command not yet admitted by PEN; bit 0 of the result tells that nothing was aborted (R256). -/
def Dev.abortCmd (d : Dev) (h : Hdr) (sqid cid : Nat) : Dev :=
  match d.pens.wait.find? (fun c => c.h.fn == h.fn && c.h.qid == sqid && c.h.cid == cid) with
  | none => d.complete h .success false 1
  | some c =>
    let d := (d.complete c.h .aborted).onPens (fun p => { p with wait := p.wait.filter (fun x => x.seq != c.seq) })
    d.complete h .success false 0

def execAbort (h : Hdr) (sqid cid : Nat) (s : State) : Host.Outcome State Fault Refusal :=
  mainDo s (fun d => d.abortCmd h sqid cid)

/-- Asynchronous Event Request: 16 at most are outstanding on a controller; an event that waits completes one at
once (R257), but not while posting is stopped (R149). -/
def Dev.aer (d : Dev) (h : Hdr) : Dev :=
  if 16 ≤ (d.host.aers.filter (fun x => x.fn == h.fn)).length then d.failCmd h .aerLimit
  else
    match (if d.host.stopped then none else d.host.aenPend.find? (fun x => x.1 == h.fn.val)) with
    | some (f, t, i, l) =>
      (d.onHost (fun x => { x with aenPend := x.aenPend.erase (f, t, i, l), out := x.out ++ [.aen t i l] })).complete h .success false
        (t + i * 256 + l * 65536)
    | none => d.onHost (fun x => { x with aers := x.aers ++ [h] })

def execAsynchronousEventRequest (h : Hdr) (s : State) : Host.Outcome State Fault Refusal :=
  mainDo s (fun d => d.aer h)

/-! The Controller Memory Buffer and WINPAGE. -/

/-- HOSTIF serves a function: in the running main domain, and in ROM recovery the physical function (R397). -/
def Dev.servesBar (d : Dev) (fn : Nat) : Bool := d.tor.mainOn || (decide (d.tor.pwr = .romRecovery) && d.isPf fn)

/-- The bus address of the Controller Memory Buffer (R19). -/
def cmbBase : Nat := 0x40000000

/-- The size of BAR4: the whole buffer, or the aperture of a virtual function (R26, R27). -/
def Dev.bar4Size (d : Dev) (fn : Nat) : Nat := if d.isPf fn then 0x2000000 else 0x200000

/-- A host access to a byte of BAR4 (R26, R27): a physical function sees the whole buffer, a virtual function its Pen's
partition within its aperture; beyond it a read returns zeros, a write is discarded, and the Pen's log gains a record. One that
meets a bus error ends with Completer Abort (R24). -/
def Dev.cmbAccess (d : Dev) (fn off : Nat) (wr : Option Byte) (hit : Hit) : Dev :=
  let pen := d.penOf fn
  let who : Reqr := .host ⟨fn % 256, by omega⟩
  let base := if d.isPf fn then 0 else match pen with | some p => d.cmbOff p | none => 0
  let size := if d.isPf fn then 0x2000000 else match pen with | some p => d.cmbSize p | none => 0
  let a := cmbBase + base + off
  if d.bar4Size fn ≤ off then d
  else if off < size then
    match d.accessErr who a wr.isSome hit with
    | some e => d.failAccess who a wr.isSome e hit
    | none =>
      match wr with
      | some b => (d.sramCorr a hit).setByte a b
      | none => (d.sramCorr a hit).onHost (fun h => { h with rdval := BitVec.ofNat 64 (d.byte a).toNat })
  else
    let d := match pen with
      | some p => d.hwPostTo [penLog p] (mkPost (0x0D00 + fn % 256) (Config.evCode 22) 2 (fn + off * 2 ^ 16))
      | none => d
    match wr with
    | some _ => d
    | none => d.onHost (fun h => { h with rdval := 0 })

def execCmbHostAccess (fn : FnN) (off : Nat) (wr : Option Byte) (hit : Hit) (s : State) : Host.Outcome State Fault Refusal :=
  aonDo s (fun d => if d.servesBar fn.val then d.cmbAccess fn.val off wr hit else d)

/-- A function may read a log (R299): a physical function every one, a virtual function its own Pen's. -/
def Dev.mayRead (d : Dev) (fn l : Nat) : Bool :=
  logExists l && (d.isPf fn || decide (d.penOf fn = some l ∧ l < 256))

/-- A host write of WINPAGE, in BAR2, which only physical functions have (R26, R27, R301). -/
def Dev.winpage (d : Dev) (fn : Nat) (v : W32) : Dev :=
  if d.isPf fn && d.mayRead fn (v.toNat % 65536) then d.onHost (fun h => { h with winpage := v &&& 0x1FFFFF }) else d

def execWinpageWrite (fn : FnN) (v : W32) (s : State) : Host.Outcome State Fault Refusal :=
  mainDo s (fun d => d.winpage fn.val v)

end Sys2Proof.Machine
end

