-- ==== Sys2Proof/Machine/Sideband.lean ====
section
/-! DEFINITION. The sideband (R358 to R373): addresses, Tor packets that the always-on domain answers
itself, I3C, MCTP control and the NVMe-MI commands without host state. What the part answers stands in
`tor.reply`; an empty reply is a NACK or silence. -/

namespace Sys2Proof.Machine

/-- Answer on the sideband. -/
def Dev.answer (d : Dev) (b : List Byte) : Dev := d.onTor (fun t => { t with reply := b })

/-- The state byte of TOR_STATUS (R366). -/
def Dev.torState (d : Dev) : Nat :=
  match d.tor.pwr with
  | .on => 0 | .off => 0 | .s1 => 1 | .s2 => 2 | .s3 => 3 | .waking => 4 | .wakeFailed => 5
  | .thermalOff => 6 | .romRecovery => 7

/-- DEVSTAT as last mirrored (R366). -/
def Dev.mirrored (d : Dev) : Nat := if d.tor.mainOn then d.devstat else d.tor.devstat.toNat

/-- Clear alert sources; SB_ALERT_N goes high when no enabled one is left (R370). -/
def Dev.clearAlerts (d : Dev) (mask : Nat) : Dev :=
  let d := d.wr64 A.SB_ALERTSRC (d.rd A.SB_ALERTSRC &&& ~~~ (BitVec.ofNat 64 mask))
  if d.alertLive then d else d.onPins (fun p => { p with alertN := false })

/-- The data of a TOR_STATUS reply (R366). -/
def Dev.torStatusData (d : Dev) : List Byte :=
  leBytes 4 (d.rd A.TOR_STAT).toNat ++ leBytes 4 d.mirrored ++ leBytes 1 d.torState ++
    leBytes 1 (d.fld A.SB_ADDR 7 0) ++ leBytes 1 (d.fld A.SB_DADDR 7 0) ++
    leBytes 1 ((if d.pins.enumIn then 1 else 0) + (if d.bit A.SB_ENUM 1 then 2 else 0)
      + (if d.faultN then 4 else 0) + (if d.board.sbMode then 8 else 0)) ++
    leBytes 1 (d.fld A.SB_ALERTSRC 4 0)

/-- A Tor packet's status codes (R365). -/
def torOk : Nat := 0
def torBusy : Nat := 1
def torBadOpcode : Nat := 2
def torBadLength : Nat := 3
def torBadParam : Nat := 4
def torRefused : Nat := 5
def torNotAvailable : Nat := 6

/-- Which states an opcode is answered in with its own effect (R369): none to go on, or the status. -/
def Dev.torMainNeeds (d : Dev) (sleep : Bool) : Option Nat :=
  match d.tor.pwr with
  | .on => none
  | .s1 | .s2 | .s3 => if sleep then some torRefused else some torNotAvailable
  | .waking => some torBusy
  | _ => some torRefused

/-- The unit's address: the assigned one, or 0x3A (R358). -/
def Dev.sbAddr (d : Dev) : Nat := if d.bit A.SB_ADDR 7 then d.fld A.SB_ADDR 6 0 else 0x3A

/-- The unit acknowledges its static address (R360). -/
def Dev.sbAcks (d : Dev) : Bool := d.bit A.SB_ADDR 7 || d.pins.enumIn

/-- The unit answers at an address: its static one, or as an I3C target (R358, R360). -/
def Dev.listens (d : Dev) : Bool := d.sbAcks || d.bit A.SB_STAT 3

/-- The frame of every Tor packet (R360, R363 to R365): a unit without an address and with ENUM_IN low
acknowledges nothing; a bad PEC is NACKed and executes nothing; in S3 the
first byte is NACKed until OSC16 runs; a repeated OPCODE and SEQ gets the stored reply. -/
def Dev.torPacket (d : Dev) (pec : Bool) (op : Nat) (seq : Byte)
    (body : Dev → Dev × Nat × List Byte) : Dev :=
  if d.tor.pwr = .off then d
  else if !d.listens then d.answer []
  else if !d.tor.osc16 then
    ((d.onTor (fun t => { t with osc16 := true })).answer []).count (A.SB_CNT 3) 64 1
  else if !pec then ((d.answer []).count (A.SB_CNT 2) 64 1).count (A.SB_CNT 3) 64 1
  else
    let d := d.count (A.SB_CNT 0) 64 1
    match d.tor.last with
    | some l =>
      if l.op = BitVec.ofNat 8 op ∧ l.seq = seq then d.answer l.reply
      else
        let r := body d
        let b := BitVec.ofNat 8 (3 + r.2.2.length) :: BitVec.ofNat 8 op :: seq :: BitVec.ofNat 8 r.2.1 :: r.2.2
        (r.1.answer b).onTor (fun t => { t with last := some { op := BitVec.ofNat 8 op, seq := seq, reply := b } })
    | none =>
      let r := body d
      let b := BitVec.ofNat 8 (3 + r.2.2.length) :: BitVec.ofNat 8 op :: seq :: BitVec.ofNat 8 r.2.1 :: r.2.2
      (r.1.answer b).onTor (fun t => { t with last := some { op := BitVec.ofNat 8 op, seq := seq, reply := b } })

/-- TOR_STATUS (R366). -/
def Dev.torStatusBody (ps : List Byte) (d : Dev) : Dev × Nat × List Byte :=
  match ps with
  | [] => (d, torOk, d.torStatusData)
  | [b] =>
    ((if b.getLsbD 0 then d.clearAlerts (d.fld A.SB_ALERTSRC 4 0) else d), torOk, d.torStatusData)
  | _ => (d, torBadLength, [])

def execTorStatus (pec : Bool) (seq : Byte) (ps : List Byte) (s : State) : Host.Outcome State Fault Refusal :=
  aonDo s (fun d => d.torPacket pec 0x01 seq (Dev.torStatusBody ps))

/-- The restart after a thermal shutdown (R355): the wake of R343 from S3. -/
def Dev.thermalRestart (d : Dev) : Dev :=
  let d := d.onPins (fun p => { p with gpio14 := true, gpio15 := true })
  let d := d.onTor (fun t => { t with waitEv := false })
  d.startWake .thermalOff

/-- TOR_WAKE (R367). -/
def Dev.torWakeBody (ps : List Byte) (d : Dev) : Dev × Nat × List Byte :=
  if ps ≠ [] then (d, torBadLength, []) else
  match d.tor.pwr with
  | .on | .s1 | .s2 | .s3 | .waking => (d.wakeSource 2, torOk, [])
  | .wakeFailed => (d.retryWake, torOk, [])
  | .thermalOff => if d.tor.waitEv then (d.thermalRestart, torOk, []) else (d, torRefused, [])
  | _ => (d, torOk, [])

def execTorWake (pec : Bool) (seq : Byte) (ps : List Byte) (s : State) : Host.Outcome State Fault Refusal :=
  aonDo s (fun d => d.torPacket pec 0x02 seq (Dev.torWakeBody ps))

/-- TOR_FAULT_READ (R366). -/
def Dev.torFaultBody (ps : List Byte) (d : Dev) : Dev × Nat × List Byte :=
  match ps with
  | [b] =>
    let f := d.rd A.TOR_FAULT
    let d' := if b.getLsbD 0 then d.wr64 A.TOR_FAULT 0 else d
    (d', torOk, leBytes 4 f.toNat ++ leBytes 4 (d.rd A.TOR_STAT).toNat ++
      leBytes 4 (d.rd A.CLK_FAIL).toNat ++ leBytes 4 (d.rd A.THERM_SDINFO).toNat)
  | _ => (d, torBadLength, [])

def execTorFaultRead (pec : Bool) (seq : Byte) (ps : List Byte) (s : State) :
    Host.Outcome State Fault Refusal :=
  aonDo s (fun d => d.torPacket pec 0x04 seq (Dev.torFaultBody ps))

/-- The addresses that TOR_ADDR_SET refuses (R362). -/
def badSbAddr (a : Nat) : Bool :=
  decide (a ≤ 0x08) || decide (a = 0x0C) || decide (a = 0x3A) || decide (a = 0x61) || decide (0x78 ≤ a)

/-- TOR_ADDR_SET (R362, R366): the new address holds once the transaction has ended. -/
def Dev.torAddrBody (ps : List Byte) (d : Dev) : Dev × Nat × List Byte :=
  match ps with
  | [a, c] =>
    if c.getLsbD 0 then ((d.setReg A.SB_ADDR 0).setBit A.SB_ENUM 1 false, torOk, [])
    else if a.getLsbD 7 || badSbAddr (a.toNat % 128) then (d, torBadParam, [])
    else (d.setReg A.SB_ADDR (0x80 + a.toNat % 128), torOk, [])
  | _ => (d, torBadLength, [])

def execTorAddrSet (pec : Bool) (seq : Byte) (ps : List Byte) (s : State) :
    Host.Outcome State Fault Refusal :=
  aonDo s (fun d => d.torPacket pec 0x05 seq (Dev.torAddrBody ps))

/-- TOR_CHAIN_PASS (R367). -/
def Dev.torChainBody (ps : List Byte) (d : Dev) : Dev × Nat × List Byte :=
  match ps with
  | [b] =>
    if 1 < b.toNat then (d, torBadParam, [])
    else if !d.bit A.SB_ADDR 7 then (d, torRefused, [])
    else (d.setBit A.SB_ENUM 1 (b.getLsbD 0), torOk, [])
  | _ => (d, torBadLength, [])

def execTorChainPass (pec : Bool) (seq : Byte) (ps : List Byte) (s : State) :
    Host.Outcome State Fault Refusal :=
  aonDo s (fun d => d.torPacket pec 0x06 seq (Dev.torChainBody ps))

/-- The data of TOR_TEMP_READ: sensor 0 alone while the main domain is off (R348, R366). -/
def Dev.torTemps (d : Dev) : List Byte :=
  let jv := fun j => d.bit (A.THERM_TJ j) 16 && (d.tor.mainOn || decide (j = 0))
  let fv := fun k => d.bit (A.THERM_TF k) 16 && d.tor.mainOn
  let valid := (List.range 8).foldl (fun n j => if jv j then n + 2 ^ j else n) 0 +
    (List.range 16).foldl (fun n k => if fv k then n + 2 ^ (8 + k) else n) 0
  leBytes 3 valid ++
    (List.range 8).flatMap (fun j => leBytes 2 (if jv j then d.fld (A.THERM_TJ j) 15 0 else 0)) ++
    (List.range 16).flatMap (fun k => leBytes 2 (if fv k then d.fld (A.THERM_TF k) 15 0 else 0))

def Dev.torTempBody (ps : List Byte) (d : Dev) : Dev × Nat × List Byte :=
  if ps = [] then (d, torOk, d.torTemps) else (d, torBadLength, [])

def execTorTempRead (pec : Bool) (seq : Byte) (ps : List Byte) (s : State) :
    Host.Outcome State Fault Refusal :=
  aonDo s (fun d => d.torPacket pec 0x07 seq (Dev.torTempBody ps))

/-- TOR_EVENT_TAIL (R366, R367, R369): the last records of the device log, whole, oldest first. -/
def Dev.torTailBody (ps : List Byte) (d : Dev) : Dev × Nat × List Byte :=
  match ps with
  | [b] =>
    match d.torMainNeeds false with
    | some st => ((if st = torNotAvailable then d.wakeSource 2 else d), st, [])
    | none =>
      if d.tor.clkFail then (d, torNotAvailable, [])
      else if b.toNat = 0 ∨ 7 < b.toNat then (d, torBadParam, [])
      else
        let rs := (d.log devLog).ordered devLog
        let tail := rs.drop (rs.length - b.toNat)
        (d, torOk, leBytes 1 tail.length ++ leBytes 4 (d.log devLog).drops ++ tail.flatMap recBytes)
  | _ => (d, torBadLength, [])

def execTorEventTail (pec : Bool) (seq : Byte) (ps : List Byte) (s : State) :
    Host.Outcome State Fault Refusal :=
  aonDo s (fun d => d.torPacket pec 0x08 seq (Dev.torTailBody ps))

/-- An opcode that R366 does not define (R365). -/
def execTorUndefinedOpcode (pec : Bool) (op seq : Byte) (s : State) : Host.Outcome State Fault Refusal :=
  aonDo s (fun d => d.torPacket pec op.toNat seq (fun d => (d, torBadOpcode, [])))

/-! The bus. -/

/-- The bus interface is reset: what was about to be sent is dropped; the stored reply stays (R359). -/
def execSmbusTimeout (s : State) : Host.Outcome State Fault Refusal := aonDo s (fun d => d.answer [])

/-- The Alert Response Address: the unit that holds SB_ALERT_N low answers and releases it (R370). -/
def Dev.alertResponse (d : Dev) : Dev :=
  if d.pins.alertN && d.sbAcks then
    (d.answer [BitVec.ofNat 8 (d.sbAddr * 2)]).onPins (fun p => { p with alertN := false })
  else d.answer []

def execAlertResponseAddress (s : State) : Host.Outcome State Fault Refusal := aonDo s Dev.alertResponse

/-- ENUM_IN after its filter (R360, R372). -/
def execEnumInChange (level : Bool) (s : State) : Host.Outcome State Fault Refusal :=
  aonDo s (fun d => (d.onPins (fun p => { p with enumIn := level })).setBit A.SB_ENUM 0 level)

/-- The clockless matcher (R342): it compares the assigned address, or 0x3A, and the dynamic one; a
match starts OSC16; traffic that needs the main domain starts a wake. -/
def Dev.addressMatch (d : Dev) (addr : Nat) (needMain : Bool) : Dev :=
  if (d.sbAcks && decide (addr = d.sbAddr)) || (d.bit A.SB_DADDR 7 && decide (addr = d.fld A.SB_DADDR 6 0)) then
    let d := d.onTor (fun t => { t with osc16 := true })
    if needMain then d.wakeSource 2 else d
  else d

def execSidebandAddressMatch (addr : BitVec 7) (needMain : Bool) (s : State) :
    Host.Outcome State Fault Refusal :=
  aonDo s (fun d => d.addressMatch addr.toNat needMain)

/-! I3C common command codes: ignored where CFG_SBMODE is 0 (R358). -/

/-- The alert of the sources that are set, in the role that the unit has now (R370). -/
def Dev.realert (d : Dev) : Dev := if d.alertLive then d.signalAlert else d

/-- Take a dynamic address: the unit is an I3C target from then on, and signals alerts as one (R358, R370). -/
def Dev.takeDa (d : Dev) (da : Nat) : Dev :=
  let was := d.bit A.SB_STAT 3
  let d := (d.setReg A.SB_DADDR (0x80 + da % 128)).setBit A.SB_STAT 3 true
  if was then d else d.realert

/-- Run a common command code where the strap allows it. -/
def Dev.ccc (d : Dev) (f : Dev → Dev) : Dev := if d.board.sbMode then f d else d

/-- Run a directed code of an I3C target. -/
def Dev.i3c (d : Dev) (f : Dev → Dev) : Dev := if d.board.sbMode && d.bit A.SB_STAT 3 then f d else d

def execEntdaa (da : BitVec 7) (s : State) : Host.Outcome State Fault Refusal :=
  aonDo s (fun d => d.ccc (fun d => if d.bit A.SB_DADDR 7 then d else d.takeDa da.toNat))

def execSetdasa (da : BitVec 7) (s : State) : Host.Outcome State Fault Refusal :=
  aonDo s (fun d => d.ccc (fun d => if d.bit A.SB_DADDR 7 || !d.sbAcks then d else d.takeDa da.toNat))

def execSetaasa (s : State) : Host.Outcome State Fault Refusal :=
  aonDo s (fun d => d.ccc (fun d => if d.bit A.SB_DADDR 7 then d else d.takeDa d.sbAddr))

def execSetnewda (da : BitVec 7) (s : State) : Host.Outcome State Fault Refusal :=
  aonDo s (fun d => d.i3c (fun d => d.takeDa da.toNat))

def execRstdaa (s : State) : Host.Outcome State Fault Refusal :=
  aonDo s (fun d => d.ccc (fun d =>
    let was := d.bit A.SB_STAT 3
    let d := ((d.setReg A.SB_DADDR 0).setBit A.SB_STAT 3 false).onTor (fun t => { t with ibi := none })
    if was then d.realert else d))

def execEnec (ev : Byte) (s : State) : Host.Outcome State Fault Refusal :=
  aonDo s (fun d => d.i3c (fun d =>
    if ev.getLsbD 0 then
      let was := d.tor.i3cEvents
      let d := d.onTor (fun t => { t with i3cEvents := true })
      if was then d else d.realert
    else d))

def execDisec (ev : Byte) (s : State) : Host.Outcome State Fault Refusal :=
  aonDo s (fun d => d.i3c (fun d =>
    if ev.getLsbD 0 then d.onTor (fun t => { t with i3cEvents := false }) else d))

/-- The provisional ID (R359). -/
def Dev.pid (d : Dev) : Nat := 0x2B1 * 2 ^ 33 + 2 ^ 32 + d.board.fuse.toNat

def execGetpid (s : State) : Host.Outcome State Fault Refusal :=
  aonDo s (fun d => d.i3c (fun d => d.answer (leBytes 6 d.pid).reverse))

def execGetbcr (s : State) : Host.Outcome State Fault Refusal :=
  aonDo s (fun d => d.i3c (fun d => d.answer [0x06]))

def execGetdcr (s : State) : Host.Outcome State Fault Refusal :=
  aonDo s (fun d => d.i3c (fun d => d.answer [0x00]))

/-- GETSTATUS: the manual does not state the two status bytes; they are free (assumption 2). -/
def execGetstatus (s : State) : Host.Outcome State Fault Refusal :=
  aonDo s (fun d => d.i3c (fun d => (d.answer (leBytes 2 (Config.freeNat d.free))).draw))

def execGetmrl (s : State) : Host.Outcome State Fault Refusal :=
  aonDo s (fun d => d.i3c (fun d => d.answer (leBytes 2 d.tor.mrl).reverse))

def execGetmwl (s : State) : Host.Outcome State Fault Refusal :=
  aonDo s (fun d => d.i3c (fun d => d.answer (leBytes 2 d.tor.mwl).reverse))

def execSetmrl (n : W16) (s : State) : Host.Outcome State Fault Refusal :=
  aonDo s (fun d => d.i3c (fun d => d.onTor (fun t => { t with mrl := Nat.min n.toNat 255 })))

def execSetmwl (n : W16) (s : State) : Host.Outcome State Fault Refusal :=
  aonDo s (fun d => d.i3c (fun d => d.onTor (fun t => { t with mwl := Nat.min n.toNat 255 })))

/-! MCTP and NVMe-MI (R368, R369). -/

/-- An MCTP packet: answered in A0 and A1 with SB_CTL.EN set, NACKed without it; elsewhere discarded, and in S1 to S3 a wake
starts, in S3 once OSC16 runs (R342, R369). -/
def Dev.mctp (d : Dev) (f : Dev → Dev) : Dev :=
  if !d.listens then d.answer [] else
  match d.tor.pwr with
  | .on =>
    if d.tor.mainOn && d.bit A.SB_STAT 0 then f (d.count (A.SB_CNT 1) 64 1)
    else (d.answer []).count (A.SB_CNT 3) 64 1
  | .s3 =>
    if d.tor.osc16 then (d.answer []).wakeSource 2
    else ((d.onTor (fun t => { t with osc16 := true })).answer []).count (A.SB_CNT 3) 64 1
  | .s1 | .s2 => (d.answer []).wakeSource 2
  | _ => d.answer []

/-- The completion codes of MCTP control and of NVMe-MI that the model uses (assumption 14). -/
def mctpBadData : Byte := 0x02
def miBadParam : Byte := 0x04

def execSetEndpointId (eid : Byte) (s : State) : Host.Outcome State Fault Refusal :=
  aonDo s (fun d => d.mctp (fun d =>
    if eid = 0x00 ∨ eid = 0xFF then d.answer [mctpBadData]
    else (d.setReg A.SB_EID eid.toNat).answer [0, 0, eid, 0]))

def execGetEndpointId (s : State) : Host.Outcome State Fault Refusal :=
  aonDo s (fun d => d.mctp (fun d => d.answer [0, BitVec.ofNat 8 (d.fld A.SB_EID 7 0), 0, 0]))

/-- The version numbers are not stated (assumption 2). -/
def execGetMctpVersionSupport (s : State) : Host.Outcome State Fault Refusal :=
  aonDo s (fun d => d.mctp (fun d => (d.answer (0 :: 1 :: leBytes 4 (Config.freeNat d.free))).draw))

def execGetMessageTypeSupport (s : State) : Host.Outcome State Fault Refusal :=
  aonDo s (fun d => d.mctp (fun d => d.answer [0, 2, 0x00, 0x04]))

/-- The contents of the NVMe-MI data structures are not stated (assumption 2). -/
def execReadNvmeMiDataStructure (ty : Byte) (s : State) : Host.Outcome State Fault Refusal :=
  aonDo s (fun d => d.mctp (fun d => (d.answer (0 :: ty :: leBytes 32 (Config.freeNat d.free))).draw))

/-- Tj as the composite temperature in whole degrees (R350, R368). -/
def Dev.compositeC (d : Dev) : Int := temp16 (d.rd A.THERM_TJMAX) / 4

/-- The composite temperature in kelvin. -/
def Dev.compositeK (d : Dev) : Nat := (d.compositeC + 273).toNat

def execNvmSubsystemHealthStatusPoll (s : State) : Host.Outcome State Fault Refusal :=
  aonDo s (fun d => d.mctp (fun d =>
    d.answer ([0, 0, 0, 0, 0, ~~~ d.host.crit, BitVec.ofInt 8 d.compositeC])))

def execControllerHealthStatusPoll (s : State) : Host.Outcome State Fault Refusal :=
  aonDo s (fun d => d.mctp (fun d =>
    d.answer ([0, 0, 0, 0] ++ leBytes 2 (if d.host.rdy = [] then 0 else 1) ++ leBytes 2 d.compositeK ++ [d.host.crit])))

/-- The configuration that NVMe-MI holds: 1 SMBus frequency, 2 health status change, 3 MCTP
transmission unit, 64 bytes at first (R368). -/
def miDefault (id : Nat) : BitVec 32 := if id = 3 then 64 else if id = 1 then 1 else 0

def execConfigurationGet (id : Byte) (s : State) : Host.Outcome State Fault Refusal :=
  aonDo s (fun d => d.mctp (fun d =>
    if id.toNat = 0 ∨ 3 < id.toNat then d.answer [miBadParam]
    else d.answer (0 :: leBytes 4 (SMap.get miDefault d.tor.miCfg id.toNat).toNat)))

def execConfigurationSet (id : Byte) (v : W32) (s : State) : Host.Outcome State Fault Refusal :=
  aonDo s (fun d => d.mctp (fun d =>
    if id.toNat = 0 ∨ 3 < id.toNat ∨ (id.toNat = 3 ∧ (v.toNat < 64 ∨ 250 < v.toNat)) then d.answer [miBadParam]
    else (d.onTor (fun t => { t with miCfg := SMap.set miDefault t.miCfg id.toNat v })).answer [0]))

def execVpdRead (s : State) : Host.Outcome State Fault Refusal :=
  aonDo s (fun d => d.mctp (fun d => d.answer (0 :: (d.board.vpd ++ List.replicate 256 0).take 256)))

end Sys2Proof.Machine
end

