-- ==== Sys2Proof/Machine/AdminData.lean ====
section
/-! DEFINITION. Identify, log pages and features (R51, R107, R108, R232, R256 to R258, R269 to R274, R334, R350). The places
of fields that are NVMe's own follow that specification (assumption 25); bytes that neither gives are free. -/

namespace Sys2Proof.Machine

/-! Pages. -/

/-- A page with fields laid over it: each at its byte. -/
def overlay (b : List Byte) : List (Nat × List Byte) → List Byte
  | [] => b
  | (o, x) :: t => overlay ((b.take o ++ x ++ b.drop (o + x.length)).take b.length) t

/-- n zero bytes. -/
def zeros (n : Nat) : List Byte := List.replicate n 0

/-- n bytes that the manual does not state (assumption 2). -/
def Dev.openBytes (d : Dev) (n : Nat) : List Byte := leBytes n (Config.freeNat d.free)

/-! Identify. -/

/-- The ordering code as 16 bytes of ASCII (R258). -/
def orderCode (code : Nat) : List Byte :=
  [0x44, 0x58, 0x39, 0x37, 0x31, 0x32, 0x2D] ++
    (if code = 0 then [0x41, 0x50] else if code = 1 then [0x41, 0x53] else [0x4E, 0x50]) ++ [0x2D, 0x42, 0x30] ++
    List.replicate 4 0x20

/-- Bit flags from the lowest. -/
def flagByte (l : List Bool) : Nat := l.foldr (fun b n => (if b then 1 else 0) + 2 * n) 0

/-- The vendor area of Identify Controller, from byte 3072 (R258). -/
def Dev.vendorArea (d : Dev) : List Byte :=
  orderCode d.board.code.val ++ [0xB0] ++
    leBytes 1 (flagByte [d.hasPair, decide (d.board.code.val ≠ 2), d.board.compat, d.board.bifurcated, d.board.pairId]) ++
    leBytes 1 d.fw.mode.code ++ [0] ++ leBytes 4 d.wr.bceil ++ leBytes 4 d.descPool ++ leBytes 2 d.openPool ++
    leBytes 2 d.activePool ++ leBytes 2 256 ++ leBytes 2 (if d.board.code.val = 2 then 0 else 4096) ++ [0x3F, 0x7F]

/-- The controller ID of a function (R232). -/
def ctrlId (pairId : Bool) (fn : Nat) : Nat := 256 * (if pairId then 1 else 0) + fn + 1

/-- The container of a slot: its first word in Cirque (R401). -/
def slotBase (slot : Nat) : Nat :=
  if slot = 0 then 0 else if slot = 1 then 0x40000 else if slot = 2 then 0x80000 else 0x88000

/-- FWREV of a slot's container: header bytes 23 to 16 (R390). -/
def Dev.fwRev (d : Dev) (slot : Nat) : Nat := (d.cqWord (slotBase slot)).toNat / 2 ^ 128 % 2 ^ 64

/-- A power state descriptor (R334): power in its unit, whether the unit is 0.1 mW, NOPS, the latencies. -/
def psd (mp : Nat) (small nops : Bool) (en ex : Nat) : List Byte :=
  leBytes 2 mp ++ [0] ++ leBytes 1 (flagByte [small, nops]) ++ leBytes 4 en ++ leBytes 4 ex

def psTable : List (List Byte) :=
  [psd 5500 false false 0 0, psd 4000 false false 0 0, psd 450 false true 300 200, psd 25 false true 20000 5000,
    psd 36 true true 20000 1500000]

/-- Identify Controller (CNS 01h). -/
def Dev.idCtrl (d : Dev) (fn : Nat) : List Byte :=
  overlay (d.openBytes 4096)
    ([(0, leBytes 2 0x1C5D), (64, leBytes 8 (d.fwRev d.fw.runSlot)), (77, [9]), (78, leBytes 2 (ctrlId d.board.pairId fn)),
      (80, [0, 0, 2, 0]), (256, leBytes 2 0x3E), (258, [7]), (259, [15]), (260, [0x08]), (261, [6]), (262, [63]), (263, [4]),
      (266, leBytes 2 368), (268, leBytes 2 388), (328, leBytes 4 (if d.board.code.val = 2 then 2 else 3)), (342, [1]), (512, [0x66]),
      (513, [0x44]), (516, leBytes 4 1024), (522, leBytes 2 0), (525, [0]), (526, leBytes 2 0), (528, leBytes 2 0),
      (532, leBytes 2 0)] ++
      (psTable.zipIdx.map (fun p => (2048 + 32 * p.2, p.1))) ++
      [(3072, d.vendorArea), (3110, zeros 986)])

/-- The ANA group of a namespace: 1 for a home at PAIR_ID 0, 2 at PAIR_ID 1 (R232). -/
def Ns.anaGrp (n : Ns) : Nat := if n.home then 2 else 1

/-- The LBA format of a namespace (R257). -/
def Ns.fmtIx (n : Ns) : Nat := if n.md = 0 then 0 else if n.md = 8 then 1 else 2

/-- Identify Namespace (CNS 00h and 11h). -/
def Dev.idNs (d : Dev) (n : Ns) : List Byte :=
  let cap := if n.zoned then n.nzones * zcap n.seven else n.lbas
  overlay (d.openBytes 4096)
    [(0, leBytes 8 n.lbas), (8, leBytes 8 cap), (25, [2]), (26, leBytes 1 (n.fmtIx + (if n.ext then 16 else 0))), (27, [3]), (28, [0x1F]),
      (29, leBytes 1 (n.pi + (if n.piFirst then 8 else 0))), (92, leBytes 4 n.anaGrp), (99, leBytes 1 (if n.prot then 1 else 0)),
      (102, leBytes 2 ((if d.board.pairId then 1 else 0) + 1)), (128, [0, 0, 12, 0]), (132, [8, 0, 12, 0]),
      (136, [16, 0, 12, 0])]

/-- The pools that a namespace reports: those of its controller in SOLO and DUO, which a takeover does not change (R51). -/
def Dev.openShown (d : Dev) : Nat := if d.fw.role = .solo then 4096 else 2048
def Dev.activeShown (d : Dev) : Nat := if d.fw.role = .solo then 16384 else 8192

/-- The zoned namespace's own data (CNS 05h): ZOC, OZCS, MAR and MOR of R51, ZSZE and ZDES. -/
def Dev.idZns (d : Dev) (n : Ns) : List Byte :=
  overlay (d.openBytes 4096)
    ([(0, leBytes 2 0), (2, leBytes 2 0), (4, leBytes 4 (Nat.min (d.marq n.pen) d.activeShown - 1)),
      (8, leBytes 4 (Nat.min (d.morq n.pen) d.openShown - 1))] ++
      (List.range 3).map (fun i => (2816 + 16 * i, leBytes 8 (zsze n.seven) ++ [0])))

/-- The namespaces that a function may see: those of its Pen, all for a physical function. -/
def Dev.seen (d : Dev) (fn : Nat) (n : Ns) : Bool := d.isPf fn || decide (d.penOf fn = some n.pen)

/-- A list of NSIDs above one, ascending. -/
def nsList (l : List Ns) (nsid : Nat) : List Byte :=
  let ids := ((l.map (fun n => n.nsx + 1)).filter (fun i => nsid < i)).insertionSort (· ≤ ·)
  ((ids.take 1024).flatMap (leBytes 4) ++ zeros 4096).take 4096

/-- A controller list. -/
def ctrlList (l : List Nat) : List Byte := (leBytes 2 l.length ++ l.flatMap (leBytes 2) ++ zeros 4096).take 4096

/-- The data of an Identify, by CNS (R256). -/
def Dev.idData (d : Dev) (fn : Nat) (cns : Nat) (nsid : Nat) : Except Status (List Byte) :=
  let here := d.media.nss.filter (fun n => n.fns.contains fn)
  let all := d.media.nss.filter (d.seen fn)
  let one := fun (l : List Ns) (f : Ns → List Byte) => match l.find? (fun n => n.nsx + 1 == nsid) with
    | some n => .ok (f n)
    | none => if nsid = 0 ∨ 1024 < nsid then .error .invalidNsFormat else .ok (zeros 4096)
  if cns = 0x00 then one here d.idNs
  else if cns = 0x01 then .ok (d.idCtrl fn)
  else if cns = 0x02 ∨ cns = 0x07 then .ok (nsList here nsid)
  else if cns = 0x03 then
    one here (fun n => overlay (zeros 4096) [(0, [4, 1, 0, 0, (if n.zoned then 2 else 0)]), (5, [2, 16, 0, 0]), (9, d.openBytes 16)])
  else if cns = 0x05 then one here (fun n => if n.zoned then d.idZns n else d.openBytes 4096)
  else if cns = 0x06 then .ok (overlay (zeros 4096) [(0, [8])])
  else if cns = 0x08 then
    one here (fun n => overlay (d.openBytes 4096)
      [(4, leBytes 4 n.anaGrp), (8, leBytes 1 (if n.prot then 1 else 0)), (12, leBytes 2 ((if d.board.pairId then 1 else 0) + 1))])
  else if cns = 0x10 then .ok (nsList all nsid)
  else if cns = 0x11 then one all d.idNs
  else if cns = 0x12 then one all (fun n => ctrlList ((n.fns.map (ctrlId d.board.pairId)).insertionSort (· ≤ ·)))
  else if cns = 0x13 then
    .ok (ctrlList (((List.range 256).map (ctrlId false)) ++ (if d.fw.role = .solo ∧ !d.pair.paired ∧ !d.board.pairId then [] else (List.range 256).map (ctrlId true))))
  else if cns = 0x1C then .ok (overlay (zeros 4096) [(0, leBytes 8 5)])
  else .error .invalidField

/-- IDENTIFY. -/
def Dev.identifyCmd (d : Dev) (h : Hdr) (cns nsid : Nat) : Dev :=
  match d.idData h.fn.val cns nsid with
  | .error st => d.failCmd h st
  | .ok b => (d.draw).reply h b

def execIdentify (h : Hdr) (cns : Byte) (nsid : Nat) (s : State) : Host.Outcome State Fault Refusal :=
  mainDo s (fun d => d.identifyCmd h cns.toNat nsid)

/-! Log pages. -/

/-- The Pen that a page reports: a virtual function's own, the selected one on a physical function (R269). -/
def Dev.pagePen (d : Dev) (fn lsi : Nat) : Option Nat :=
  if d.isPf fn then (if lsi < 256 then some lsi else none) else d.penOf fn

/-- Log page C0h (R270). -/
def Dev.pageC0 (d : Dev) (p : Nat) : List Byte :=
  let st := d.rd (A.PEN_STAT p)
  let r := d.pen p
  let q := fun (f : PenRec → Nat) => match r with | some i => f i.r | none => 0
  let nss := d.media.nss.filter (fun n => n.pen == p)
  let held := (d.wr.entries.filter (fun e => e.pen == p && e.held && !e.acked)).length
  leBytes 2 1 ++ leBytes 1 p ++ leBytes 1 (flagByte [bitOf st 0, bitOf st 1, bitOf st 3, bitOf st 4, bitOf st 2]) ++
    leBytes 4 (match r with | some i => i.gen | none => 0) ++ leBytes 4 d.wr.bceil ++ leBytes 4 (d.limit / 1048576) ++
    leBytes 4 (d.share p / 1048576) ++ leBytes 4 (d.penOcc p / 1048576) ++ leBytes 8 held ++
    leBytes 2 (d.sqsOf p) ++ leBytes 2 (d.ioq p) ++ leBytes 2 nss.length ++ leBytes 2 (q PenRec.nsq) ++
    leBytes 2 (d.openOf p) ++ leBytes 2 (d.morq p) ++ leBytes 2 (d.activeOf p) ++ leBytes 2 (d.marq p) ++
    leBytes 4 ((nss.filter (fun n => !n.zoned)).foldl (fun n x => n + x.gib) 0) ++ leBytes 4 (q PenRec.convq) ++
    leBytes 8 (SMap.get (fun _ => 0) d.pens.rdTok p / 16) ++ leBytes 8 (SMap.get (fun _ => 0) d.pens.wrTok p / 16) ++
    leBytes 8 (SMap.get (fun _ => 0) d.pens.cutEps p) ++ leBytes 4 (SMap.get (fun _ => 0) d.pens.episodes p) ++ zeros 44

/-- Eight bytes of a register. -/
def Dev.reg8 (d : Dev) (a : Nat) : List Byte := leBytes 8 (d.rd a).toNat

/-- PAIR_STAT with its live input bits (R253). -/
def Dev.pairStat (d : Dev) : W64 := withBit (withBit (d.rd A.PAIR_STAT) 4 d.aliveIn) 3 d.fenceIn

/-- Log page C1h (R271). -/
def Dev.pageC1 (d : Dev) : List Byte :=
  leBytes 2 1 ++ leBytes 2 d.devstat ++ leBytes 4 d.pairStat.toNat ++ d.reg8 A.PAIR_OWN ++ d.reg8 A.PAIR_PEND ++
    d.reg8 A.PAIR_DENY ++ d.reg8 A.PAIR_TIE ++ d.reg8 A.PAIR_MSEQ_TX ++ d.reg8 A.PAIR_MSEQ_ACK ++ d.reg8 A.PAIR_MSEQ_RX ++
    leBytes 4 (d.rd A.PAIR_HBSEQ).toNat ++ leBytes 4 d.wr.peerCeil ++ leBytes 4 d.pair.takeovers ++
    leBytes 4 d.pair.lastTakeUs ++ leBytes 8 d.pair.lastLost ++ zeros 8 ++
    (List.range 8).flatMap (fun i => d.reg8 (A.PAIR_CNT i)) ++
    (List.range 8).flatMap (fun l => leBytes 4 (d.rd (A.PAIR_LANE l)).toNat) ++ zeros 64

/-- The registers behind C2h, by byte offset. -/
def c2Regs : List (Nat × Nat) :=
  [(104, A.CIRQUE_CNT 0), (112, A.CIRQUE_CNT 1), (136, A.DRAMC_UNC_CNT), (144, A.HEN_PASS), (152, A.HEN_CNT_CORR),
    (160, A.HEN_CNT_UNC)]

/-- LBAs whose seal marks them poisoned now. -/
def Dev.poisonedNow (d : Dev) : Nat :=
  (d.media.flash.filter (fun e => e.2.poison)).length +
    (d.media.conv.filter (fun e => e.2.sec.poison && (SMap.find d.media.urow (unitKey (e.1 / 2 ^ 40) e.2.unit)).isNone)).length +
    d.wr.entries.foldl (fun n e => n + (e.secs.filter (·.poison)).length) 0

/-- A counter of C2h since the last clear. -/
def Dev.c2Val (d : Dev) (o : Nat) : Nat :=
  if o = 168 then (d.rd A.HEN_PASS_MS).toNat
  else if o = 192 then d.poisonedNow
  else match c2Regs.find? (fun r => r.1 == o) with
    | some r => (d.rd r.2).toNat - SMap.get (fun _ => 0) d.host.c2base o
    | none => SMap.get (fun _ => 0) d.host.c2 o

/-- Log page C2h (R272). -/
def Dev.pageC2 (d : Dev) : List Byte :=
  leBytes 2 1 ++ zeros 6 ++ (List.range 28).flatMap (fun i => leBytes 8 (d.c2Val (8 + 8 * i))) ++ zeros 24 ++
    (List.range 80).flatMap (fun i =>
      leBytes 4 ((d.rd (A.DRAMC_DEVCORR i)).toNat - SMap.get (fun _ => 0) d.host.c2base (256 + 4 * i)))

/-- C2h is cleared: each counter counts from its present value (R269). -/
def Dev.clearC2 (d : Dev) : Dev :=
  let base := c2Regs.foldl (fun m r => SMap.set (fun _ => 0) m r.1 (d.rd r.2).toNat) ([] : SMap Nat)
  let base := (List.range 80).foldl (fun m i => SMap.set (fun _ => 0) m (256 + 4 * i) (d.rd (A.DRAMC_DEVCORR i)).toNat) base
  d.onHost (fun h => { h with c2 := [], c2base := base, clearedC2 := d.ns })

/-- Fewest spares in any (LUN, plane) of some channels (R134). -/
def Dev.fewest (d : Dev) (chs : List Nat) : Nat :=
  chs.foldl (fun m ch => (List.range ((d.geomOf ch).1 * (d.geomOf ch).2 * 4)).foldl (fun m k => Nat.min m (d.sparesIn ch (k / 4) (k % 4))) m)
    d.sparesOf

/-- The mean of the kept values of a kind, times a unit. -/
def Dev.meanOf (d : Dev) (ch kind unit : Nat) : Nat :=
  match SMap.find d.mules.samples (ch * 4 + kind) with
  | some l => if l = [] then 0 else l.sum * unit / l.length
  | none => 0

/-- A channel's block of C3h (R273). -/
def Dev.chanHealth (d : Dev) (ch : Nat) : List Byte :=
  if !d.owned ch then zeros 128
  else
    let st := fun k => SMap.get (fun _ => 0) d.mules.stats (ch * 16 + k)
    (List.range 9).flatMap (fun k => leBytes 8 (st k)) ++ leBytes 2 (d.meanOf ch 0 256) ++ [1, 0] ++
      leBytes 4 (d.meanOf ch 1 1) ++ leBytes 4 (d.meanOf ch 2 1) ++ leBytes 4 (d.meanOf ch 3 1) ++ leBytes 4 (st 9) ++
      leBytes 4 (st 10) ++ leBytes 2 (d.fewest [ch]) ++
      leBytes 2 (((List.range 32).filter (d.lunOos ch)).length) ++ leBytes 4 (st 11) ++ leBytes 4 (st 12) ++ zeros 20

/-- Progress of the present patrol pass, per mille. -/
def Dev.passProgress (d : Dev) : Nat :=
  if d.media.rows = [] then 0 else (d.media.rows.filter (fun e => e.2.inPass)).length * 1000 / d.media.rows.length

/-- Log page C3h (R273). -/
def Dev.pageC3 (d : Dev) : List Byte :=
  leBytes 2 1 ++ leBytes 2 64 ++ leBytes 1 d.media.policy.days ++ zeros 1 ++ leBytes 2 d.passProgress ++
    leBytes 4 d.media.passes ++ leBytes 4 d.media.overruns ++ leBytes 4 d.media.refreshes ++
    leBytes 4 (d.fewest (List.range 64)) ++ zeros 40 ++ (List.range 64).flatMap d.chanHealth ++
    (List.range 1024).flatMap (fun x => leBytes 2 (match d.media.nss.find? (fun n => n.nsx == x) with
      | some n => if n.zoned then 0xFFFF else n.freeRu
      | none => 0xFFFF))

/-- A counter of C4h for some Pens, saturating (R108). -/
def sumSat (m : SMap Nat) (ks : List Nat) : Nat :=
  Nat.min (2 ^ 64 - 1) (ks.foldl (fun n k => n + SMap.get (fun _ => 0) m k) 0)

/-- Log page C4h of some Pens (R108). -/
def Dev.pageC4 (d : Dev) (pen : Nat) (ps : List Nat) : List Byte :=
  let clr := ps.foldl (fun n p => Nat.max n (SMap.get (fun _ => 0) d.host.clearedC4 p)) 0
  leBytes 2 1 ++ leBytes 2 12 ++ leBytes 2 66 ++ leBytes 1 pen ++ zeros 1 ++ leBytes 8 clr ++
    (List.range 6).flatMap (fun i => leBytes 8 (sumSat d.host.cnt (ps.map (fun p => p * 8 + i)))) ++
    (List.range 792).flatMap (fun k => leBytes 8 (sumSat d.host.hist (ps.map (fun p => p * 1024 + k))))

/-- C4h of some Pens is cleared by a function, with its record (R108). -/
def Dev.clearC4 (d : Dev) (fn : Nat) (ps : List Nat) : Dev :=
  let d := d.onHost (fun h =>
    { h with
      cnt := SMap.keep (fun k => !ps.contains (k / 8)) h.cnt, hist := SMap.keep (fun k => !ps.contains (k / 1024)) h.hist
      clearedC4 := ps.foldl (fun m p => SMap.set (fun _ => 0) m p d.ns) h.clearedC4 })
  d.fwPost (0x0D00 + fn % 256) (Config.evCode 23) 2 fn

/-- The header of log page C5h (R274). -/
def Dev.logHeader (d : Dev) (l returned : Nat) : List Byte :=
  let g := d.log l
  leBytes 2 1 ++ leBytes 2 l ++ leBytes 2 returned ++ zeros 2 ++ leBytes 4 (logCap l) ++ leBytes 4 g.recs.length ++
    leBytes 4 g.drops ++ zeros 4 ++ leBytes 8 g.cleared

/-- Log page C5h: the tail, as much as the transfer holds, at most 127 records (R274). -/
def Dev.pageC5 (d : Dev) (l len : Nat) : List Byte :=
  let rs := Log.ordered l (d.log l)
  let k := Nat.min (Nat.min 127 ((len - 32) / 32)) rs.length
  d.logHeader l k ++ (rs.drop (rs.length - k)).flatMap recBytes

/-- The Error Information log (01h): 64 entries. -/
def Dev.page01 (d : Dev) : List Byte :=
  let e := fun (x : ErrInfo) => overlay (d.openBytes 64)
    [(0, leBytes 8 x.count), (8, leBytes 2 x.sqid), (10, leBytes 2 x.cid), (12, leBytes 2 (2 * x.st)), (16, leBytes 8 x.lba),
      (24, leBytes 4 x.nsid)]
  (d.host.errLog.flatMap e ++ zeros 4096).take 4096

/-- Available Spare: what is left of the spares of first configuration, in per cent (R135). -/
def Dev.spareLeft (d : Dev) : Nat :=
  if d.media.firstSpares = 0 then 100
  else 100 * d.sparesLeft / d.media.firstSpares

/-- SMART / Health Information (02h): warnings, temperatures, spares and wear, media errors (R135, R350). -/
def Dev.page02 (d : Dev) : List Byte :=
  overlay (d.openBytes 512)
    ([(0, leBytes 1 d.host.crit.toNat), (1, leBytes 2 d.compositeK), (3, leBytes 1 d.spareLeft), (4, [10]),
      (5, leBytes 1 d.pctUsed), (6, leBytes 1 (if d.host.egCrit then 4 else 0)), (160, leBytes 16 d.host.mediaErrs),
      (176, leBytes 16 d.host.errCount)] ++
      (List.range 8).map (fun j => (200 + 2 * j, leBytes 2 (temp16 (d.rd (A.THERM_TJ j)) / 4 + 273).toNat)))

/-- Firmware Slot Information (03h): the slot that runs (R401, R403). -/
def Dev.page03 (d : Dev) : List Byte :=
  overlay (zeros 512)
    ([(0, leBytes 1 (d.fw.runSlot + 1))] ++ (List.range 4).map (fun i => (8 + 8 * i, leBytes 8 (d.fwRev i))))

/-- Changed Namespace List (04h). -/
def Dev.page04 (d : Dev) : List Byte :=
  let l := (d.host.changedNs.dedup).insertionSort (· ≤ ·)
  ((if 1024 < l.length then leBytes 4 0xFFFFFFFF else l.flatMap (leBytes 4)) ++ zeros 4096).take 4096

/-- The admin and I/O opcodes of R256, C0h to C6h among them. -/
def adminOpcs : List Nat :=
  [0x00, 0x01, 0x02, 0x04, 0x05, 0x06, 0x08, 0x09, 0x0A, 0x0C, 0x0D, 0x10, 0x11, 0x14, 0x15, 0x19, 0x1A, 0x80, 0x84, 0xC0,
    0xC1, 0xC2, 0xC3, 0xC4, 0xC5, 0xC6]
def ioOpcs : List Nat := [0x00, 0x01, 0x02, 0x04, 0x05, 0x08, 0x09, 0x0C, 0x79, 0x7A, 0x7D]

/-- Commands Supported and Effects (05h): a supported command is marked; its effects are not stated. -/
def Dev.page05 (d : Dev) : List Byte :=
  let e := fun (l : List Nat) (k i : Nat) =>
    leBytes 4 (if l.contains i then Config.freeNat d.free / 2 ^ (32 * (k + i)) % 2 ^ 31 * 2 + 1 else 0)
  (List.range 256).flatMap (e adminOpcs 0) ++ (List.range 256).flatMap (e ioOpcs 256) ++ zeros 2048

/-- Device Self-test (06h). -/
def Dev.page06 (d : Dev) : List Byte :=
  (leBytes 1 (match d.host.selfTest with | some t => t.1 | none => 0) ++ zeros 3 ++
    (d.host.stResults.take 20).flatMap (fun r => leBytes 1 (r.1 * 16 + r.2) ++ (d.openBytes 27)) ++ zeros 564).take 564

/-- Endurance Group Information (09h). -/
def Dev.page09 (d : Dev) : List Byte :=
  overlay (d.openBytes 512)
    [(0, leBytes 1 (if d.host.egCrit then 4 else 0)), (3, leBytes 1 d.spareLeft), (4, [10]), (5, leBytes 1 d.pctUsed)]

/-- The ANA state of a home's group, as NVMe numbers it (R232). -/
def Dev.anaState (d : Dev) (home : Bool) : Nat :=
  if d.fw.mode = .init ∨ d.fw.mode = .service then 3
  else if home ≠ d.board.pairId then
    if d.pair.takeover ∨ d.pair.ana = 1 then 0xF
    else if d.fw.role = .duo then 3 else 1
  else if d.pair.anaOwn = 1 then 0xF else 1

/-- Asymmetric Namespace Access (0Ch). -/
def Dev.page0C (d : Dev) : List Byte :=
  let g := fun (home : Bool) =>
    let ids := (d.media.nss.filter (fun n => n.home == home)).map (fun n => n.nsx + 1)
    leBytes 4 (if home then 2 else 1) ++ leBytes 4 ids.length ++ d.openBytes 8 ++ leBytes 1 (d.anaState home) ++ zeros 15 ++
      (ids.insertionSort (· ≤ ·)).flatMap (leBytes 4)
  d.openBytes 8 ++ leBytes 2 2 ++ zeros 6 ++ g false ++ g true

/-- The FDP pages 20h to 23h: one configuration of one reclaim group, 128 handles of type Initially Isolated and
reclaim units of 896 MiB; the handles; the statistics; the events (R59). -/
def Dev.pageFdp (d : Dev) (lid : Nat) : List Byte :=
  if lid = 0x20 then
    leBytes 2 0 ++ [0, 0] ++ leBytes 4 592 ++ zeros 8 ++ leBytes 2 576 ++ [0x80, 0] ++ leBytes 4 1 ++ leBytes 2 128 ++
      leBytes 2 127 ++ leBytes 4 1024 ++ leBytes 8 939524096 ++ leBytes 4 0 ++ zeros 36 ++
      (List.range 128).flatMap (fun _ => [1, 0, 0, 0])
  else if lid = 0x21 then leBytes 2 128 ++ zeros 6 ++ d.openBytes 1024
  else if lid = 0x22 then d.openBytes 64
  else leBytes 4 d.host.fdp.length ++ zeros 60 ++ d.host.fdp.flatMap (fun e => overlay (d.openBytes 64) [(0, leBytes 1 e)])

/-- Changed Zone List (BFh) of a namespace (R53). -/
def Dev.pageBF (d : Dev) (n : Ns) : List Byte :=
  let l := ((d.media.changed.filter (fun c => c.1 == n.nsx)).map Prod.snd).dedup
  ((if 511 < l.length then leBytes 2 0xFFFF ++ zeros 6
    else leBytes 2 l.length ++ zeros 6 ++ l.flatMap (fun ix => leBytes 8 (d.zstart ix))) ++ zeros 4096).take 4096

/-- The Pens whose C4h counters a request reads (R108). -/
def Dev.c4Pens (d : Dev) (fn lsi : Nat) : Option (Nat × List Nat) :=
  if d.isPf fn ∧ lsi = 0xFFFF then some (0xFF, List.range 256)
  else match d.pagePen fn lsi with
    | some p => some (p, [p])
    | none => none

/-- The page that a Get Log Page returns (R256, R269). -/
def Dev.logPage (d : Dev) (fn lid nsid lsi len : Nat) : Except Status (List Byte) :=
  if lid = 0x01 then .ok d.page01
  else if lid = 0x02 then .ok d.page02
  else if lid = 0x03 then .ok d.page03
  else if lid = 0x04 then .ok d.page04
  else if lid = 0x05 then .ok d.page05
  else if lid = 0x06 then .ok d.page06
  else if lid = 0x09 then .ok d.page09
  else if lid = 0x0C then .ok d.page0C
  else if 0x20 ≤ lid ∧ lid ≤ 0x23 then .ok (d.pageFdp lid)
  else if lid = 0xBF then
    match d.nsOf nsid with
    | some n => if n.zoned ∧ d.seen fn n then .ok (d.pageBF n) else .error .invalidField
    | none => .error .invalidNsFormat
  else if lid = 0xC0 then
    match d.pagePen fn lsi with | some p => .ok (d.pageC0 p) | none => .error .invalidField
  else if lid = 0xC4 then
    match d.c4Pens fn lsi with | some p => .ok (d.pageC4 p.1 p.2) | none => .error .invalidField
  else if lid = 0xC5 then
    match (if d.isPf fn then some lsi else d.penOf fn) with
    | some l => if logExists l then .ok (d.pageC5 l len) else .error .invalidField
    | none => .error .invalidField
  else if !d.isPf fn then .error .invalidLogPage
  else if lid = 0xC1 then .ok d.pageC1
  else if lid = 0xC2 then .ok d.pageC2
  else if lid = 0xC3 then .ok d.pageC3
  else .error .invalidLogPage

/-- What reading a page does: C2h and C4h are cleared when asked, the lists of changes are taken unless RAE keeps
the event. -/
def Dev.pageEffects (d : Dev) (fn lid nsid lsi : Nat) (clear rae : Bool) : Dev :=
  if lid = 0xC2 ∧ clear then d.clearC2
  else if lid = 0xC4 ∧ clear then
    match d.c4Pens fn lsi with | some p => d.clearC4 fn p.2 | none => d
  else if lid = 0x04 ∧ !rae then d.onHost (fun h => { h with changedNs := [] })
  else if lid = 0xBF ∧ !rae then d.onMedia (fun m => { m with changed := m.changed.filter (fun c => c.1 + 1 != nsid) })
  else d

/-- GET_LOG_PAGE. -/
def Dev.getLog (d : Dev) (h : Hdr) (lid nsid lsi : Nat) (clear rae : Bool) (off len : Nat) : Dev :=
  match d.logPage h.fn.val lid nsid lsi len with
  | .error st => d.failCmd h st
  | .ok b =>
    if b.length < off then d.failCmd h .invalidField
    else ((d.draw).reply h ((b.drop off).take len)).pageEffects h.fn.val lid nsid lsi clear rae

def execGetLogPage (h : Hdr) (lid : Byte) (nsid lsi : Nat) (clear rae : Bool) (off len : Nat) (s : State) :
    Host.Outcome State Fault Refusal :=
  mainDo s (fun d => d.getLog h lid.toNat nsid lsi clear rae off len)

/-! Features. -/

/-- The features of R256. -/
def featOk (fid : Nat) : Bool :=
  [0x01, 0x02, 0x04, 0x05, 0x07, 0x08, 0x09, 0x0A, 0x0B, 0x0C, 0x0E, 0x11, 0x1D].contains fid

/-- The key of a feature of a function; the temperature thresholds are kept by sensor and kind. -/
def featKey (fn fid sel : Nat) : Nat := fn * 65536 + fid * 256 + sel

/-- The sensor and kind of a Temperature Threshold value. -/
def tempSel (v : Nat) : Nat := v / 65536 % 64

/-- Number of Queues: what the Pen's quota leaves of submission and of completion queues, within the function's limit (R186). -/
def Dev.queueCount (d : Dev) (fn : Nat) : Nat :=
  match d.penOf fn with
  | some p =>
    (Nat.min (d.qidMax fn) (d.ioq p - d.sqsOf p) - 1) + (Nat.min (d.qidMax fn) (d.ioq p - d.cqsOf p) - 1) * 65536
  | none => 0

/-- The states that allow the sleep states (R333). -/
def Dev.maySleep (d : Dev) : Bool :=
  decide (d.fw.mode = .solo) || (decide (d.fw.mode = .readonly) && decide (d.fw.role = .solo))

/-- A power state is selected (R334): PS1 lowers every Mule's cap, PS0 restores it, and what the cap held goes on (R97). -/
def Dev.setPs (d : Dev) (ps : Nat) : Dev :=
  let d := d.onTor (fun t => { t with ps := ps })
  let cap := if ps = 1 then 16 else 28
  if ps ≤ 1 then (d.each (List.range 64) (fun d ch => (d.setFld (A.MULE_PE_CAP ch) 5 0 cap).setCap ch)).issueAllCh.takeUp 256 else d

/-- SET_FEATURES. -/
def Dev.setFeat (d : Dev) (h : Hdr) (fid v : Nat) : Dev :=
  let fn := h.fn.val
  let store := fun (d : Dev) (sel : Nat) =>
    d.onHost (fun x => { x with feats := SMap.set (fun _ => 0) x.feats (featKey fn fid sel) (BitVec.ofNat 64 v) })
  if !featOk fid then d.failCmd h .invalidField
  else if fid = 0x02 then
    let ps := v % 32
    if 4 < ps then d.failCmd h .invalidField
    else if 2 ≤ ps ∧ !d.maySleep then d.failCmd h .modeRefused
    else ((store d 0).setPs ps).complete h .success
  else if fid = 0x05 ∧ v / 65536 % 2 = 1 then d.failCmd h .invalidField
  else if fid = 0x07 then d.complete h .success false (d.queueCount fn)
  else if fid = 0x0E then (d.setTime (v % 2 ^ 48)).complete h .success
  else if fid = 0x04 then
    (d.onHost (fun x =>
      { x with feats := SMap.set (fun _ => 0) x.feats (featKey fn fid (tempSel v)) (BitVec.ofNat 64 (v % 2 ^ 32 + 2 ^ 32)) })).complete h .success
  else (store d 0).complete h .success

def execSetFeatures (h : Hdr) (fid : Byte) (v : W64) (s : State) : Host.Outcome State Fault Refusal :=
  mainDo s (fun d => d.setFeat h fid.toNat v.toNat)

/-- GET_FEATURES: the value set; the power state, the queue count and the Timestamp as they stand. -/
def Dev.getFeat (d : Dev) (h : Hdr) (fid : Nat) : Dev :=
  let v := (SMap.get (fun _ => 0) d.host.feats (featKey h.fn.val fid 0)).toNat
  if !featOk fid then d.failCmd h .invalidField
  else if fid = 0x02 then d.complete h .success false d.tor.ps
  else if fid = 0x07 then d.complete h .success false (d.queueCount h.fn.val)
  else if fid = 0x0E then d.reply h (leBytes 6 d.media.wall ++ [(if d.host.tsSet then 2 else 0), 0])
  else d.complete h .success false (v % 2 ^ 32)

def execGetFeatures (h : Hdr) (fid : Byte) (s : State) : Host.Outcome State Fault Refusal :=
  mainDo s (fun d => d.getFeat h fid.toNat)

/-! Commands of NVMe-MI and those that R256 does not list. -/

/-- An NVMe command that R256 does not list completes with the status that its case requires. -/
def execUnsupportedCommand (h : Hdr) (why : Unsup) (s : State) : Host.Outcome State Fault Refusal :=
  mainDo s (fun d => d.failCmd h (match why with
    | .opcode => .invalidOpcode | .field => .invalidField | .logPage => .invalidLogPage))

end Sys2Proof.Machine
end

