-- ==== Sys2Proof/Machine/NsAdmin.lean ====
section
/-! DEFINITION. Namespaces (R3, R51, R53, R57, R58, R180, R206, R212, R220, R231, R256): create, delete, attach, format,
sanitize; device self-test and directives. -/

namespace Sys2Proof.Machine

/-! Rows and homes (R231). -/

/-- The channel sets of a home. -/
def Dev.setsOf (d : Dev) (home : Bool) : List Nat := (List.range 4).filter (fun s => d.homeGroup home false s)

/-- The free rows of a home: not given out, in the pools, or left by deleted reclaim units; a 7+1 row is half of one. -/
def Dev.freeRows (d : Dev) (home : Bool) : Nat :=
  (d.setsOf home).foldl (fun n s => n + d.rowsLeft s) 0 + (d.poolAt home false).length + (d.poolAt home true).length / 2 +
    d.unitSpare home

/-- The home of a new namespace (R231). -/
def Dev.chooseHome (d : Dev) (grp : Nat) : Option Bool :=
  if grp = 1 then some false
  else if grp = 2 then some true
  else if grp = 0 then
    let own := d.board.pairId
    if d.fw.role = .duo then some own
    else if d.freeRows own < d.freeRows (!own) then some (!own) else some own
  else none

/-- The rows that a home can still give. -/
def Dev.supplyOf (d : Dev) (home : Bool) : Nat := (d.setsOf home).foldl (fun n s => n + d.rowsLeft s) 0

/-- The rows of a pool, on a home's side, that back no Empty zone. -/
def Dev.poolSpare (d : Dev) (home seven : Bool) : Nat := (d.poolAt home seven).length - (d.emptyAt home seven).length

/-- A home's pool takes free rows until n of it back no Empty zone (R53). -/
def Dev.poolRows (d : Dev) (home seven : Bool) (n : Nat) : Dev :=
  d.each (List.range n) (fun d _ => if n ≤ d.poolSpare home seven then d else d.fillPool home seven)

/-! Key slots (R206, R212). -/

/-- A slot of a range that no namespace holds, has been given or is named in `taken`. -/
def Dev.freeSlotIn (d : Dev) (base count : Nat) (taken : List Nat) : Option Nat :=
  ((List.range count).map (fun k => base + k)).find? (fun s =>
    !(d.media.nss.map (·.slot) ++ d.pens.moves.map (·.slot) ++ taken).contains s)

/-- The slots of a Pen that hold nothing. -/
def Dev.freeSlot (d : Dev) (p : Nat) : Option Nat :=
  match d.pen p with
  | some i => d.freeSlotIn i.r.ksbase i.r.kscount []
  | none => none

/-- The bypass slot of a Pen (R206): that of its unencrypted namespaces, and of those on their way to it; `taken`: what the change under way
moves. -/
def Dev.bypassOf (d : Dev) (p : Nat) (taken : List NsMove := []) : Option Nat :=
  match d.media.nss.find? (fun n => n.pen == p && !n.keyed) with
  | some n => some n.slot
  | none => ((d.pens.moves ++ taken).find? (fun m => m.pen == p && d.media.nss.any (fun x => x.nsx == m.nsx && !x.keyed))).map (·.slot)

/-- The slot for a new namespace; on the NP code there are none (R3). -/
def Dev.slotFor (d : Dev) (p : Nat) (keyed : Bool) : Option Nat :=
  if d.board.code.val = 2 then some 0
  else if keyed then d.freeSlot p
  else match d.bypassOf p with | some s => some s | none => d.freeSlot p

/-- The attribute block of a namespace's key (R209). DESIGN CHOICE (assumption 146): the shipped firmware's KEYID is 0. -/
def nsAttr (pen nsx : Nat) : BitVec 128 := BitVec.ofNat 128 (1 + pen * 256 + nsx * 65536)

/-- In DUO the peer gets the key of a slot (R212). -/
def Dev.shareKey (d : Dev) (slot : Nat) : Dev := if d.fw.role = .duo then d.sendKey slot else d

/-- GENERATE a namespace's key and keep its export under KWK (R212); in an alarm GENERATE does nothing (R220). -/
def Dev.makeKey (d : Dev) (slot pen nsx : Nat) : Dev :=
  if d.cipherAlarmed then d
  else
    let k := freshKey d.free
    let d := (d.setSlot slot (.key k (nsAttr pen nsx))).draw
    match d.cipher.kwk with
    | some w => d.onCipher (fun c => { c with exports := SMap.put c.exports slot (wrapKey w k (nsAttr pen nsx)) })
    | none => d

/-- Load the Pen's bypass slot, where it is not loaded yet (R206). -/
def Dev.loadBypassSlot (d : Dev) (slot : Nat) : Dev :=
  if d.board.code.val = 2 ∨ d.slot slot = .bypass then d else d.setSlot slot .bypass

/-- The slot of a namespace that goes: its key is zeroed and its export erased; a bypass slot goes with the Pen's
last unencrypted namespace (R206). -/
def Dev.dropSlot (d : Dev) (n : Ns) : Dev :=
  if d.board.code.val = 2 then d
  else if n.keyed then (d.setSlot n.slot .empty).onCipher (fun c => { c with exports := SMap.del c.exports n.slot })
  else if d.media.nss.any (fun x => x.pen == n.pen && !x.keyed && x.nsx != n.nsx) ||
      d.pens.moves.any (fun m => m.slot == n.slot && m.nsx != n.nsx) then d
  else d.setSlot n.slot .empty

/-! Moves to another Pen (R189, R212). -/

/-- The slot that a namespace takes in a Pen whose new record is `r`: for a key a free one of the range, else the bypass slot of
the Pen; `taken`: what this change has given already. -/
def Dev.moveSlot (d : Dev) (p : Nat) (r : PenRec) (taken : List NsMove) (n : Ns) : Option Nat :=
  let free := d.freeSlotIn r.ksbase r.kscount (taken.map (·.slot))
  if d.board.code.val = 2 then some 0
  else if n.keyed then free
  else match d.bypassOf p taken with
    | some s => some s
    | none => free

/-- The namespaces that a change moves into a Pen, with their slots, or why they cannot move; those of the Pen itself stay, and those on
their way somewhere are for `Dev.penSet` to refuse. DESIGN CHOICE (assumption 135). -/
def Dev.movePlan (d : Dev) (p : Nat) (r : PenRec) : List Nat → List NsMove → Except Status (List NsMove)
  | [], acc => .ok acc
  | x :: l, acc =>
    match d.nsOf x with
    | none => .error .invalidNsFormat
    | some n =>
      if n.pen = p ∨ d.moving n.nsx ∨ acc.any (fun m => m.nsx == n.nsx) then d.movePlan p r l acc
      else if n.keyed ∧ d.fw.alarmed then .error .nsNotReady
      else if r.nsq ≤ (d.media.nss.filter (fun y => y.pen == p)).length + (d.movesTo p).length + acc.length then .error .penLimit
      else match d.moveSlot p r acc n with
        | none => .error .penLimit
        | some s =>
          let ixs := ((List.range n.nzones).map (n.base + ·)).filter (fun ix => (d.zd ix).colok)
          d.movePlan p r l (acc ++ [{ nsx := n.nsx, pen := p, slot := s, ixs := ixs }])

/-- Steps 1 and 2: the key, with the new Pen in its attributes, goes into the new slot, and COLOK is cleared. -/
def Dev.startMove (d : Dev) (m : NsMove) : Dev :=
  match d.media.nss.find? (fun n => n.nsx == m.nsx) with
  | none => d
  | some n =>
    let d := if d.board.code.val = 2 then d
      else match d.slot n.slot with
        | .key k _ => (d.setSlot m.slot (.key k (nsAttr m.pen n.nsx))).shareKey m.slot
        | _ => d.loadBypassSlot m.slot
    let d := d.each m.ixs (fun d ix => d.setZd ix { d.zd ix with colok := false })
    d.onPens (fun x => { x with moves := x.moves ++ [m] })

/-- The wait of step 2, and no message under the old slot is left, nor a write at admission that `Dev.underOld` would not know again: the
namespace can change its Pen. -/
def Dev.moveReady (d : Dev) (m : NsMove) : Bool :=
  !d.wr.waiting.any (fun w => decide (w.c.nsid = m.nsx + 1) && !d.host.fw.any (fun f => f.h == w.h)) &&
  let old := fun (x : CMsg) => d.media.nss.any (fun n => n.nsx == m.nsx && n.slot == x.slot.val)
  !d.host.reads.any (fun r => r.nsx == m.nsx) && !d.cipher.queue.any old &&
    (List.range 24).all (fun c => !((d.ccore c).run.any old || (d.ccore c).susp.any old))

/-- Steps 3 to 5: the descriptors and COL_NS have the new Pen and slot, COLOK is set again, the export is the new one, and the
old slot is zeroed. What the firmware path has admitted finishes under the old Pen. -/
def Dev.finishMove (d : Dev) (m : NsMove) : Dev :=
  match d.media.nss.find? (fun n => n.nsx == m.nsx) with
  | none => d
  | some n =>
    let d := d.each ((List.range n.nzones).map (n.base + ·)) (fun d ix =>
      let z := d.zd ix
      let ck := Zd.ofWord (SMap.get zt0 d.media.ckptZt ix)
      (d.setZd ix { z with pen := m.pen, kslot := m.slot
                           colok := m.ixs.contains ix && (z.active || decide (z.st = zFull)) }).onMedia (fun q =>
        { q with ckptZt := SMap.set zt0 q.ckptZt ix { ck with pen := m.pen, kslot := m.slot }.word }))
    let d := match d.slot m.slot, d.cipher.kwk with
      | .key k a, some w => d.onCipher (fun c => { c with exports := SMap.put c.exports m.slot (wrapKey w k a) })
      | _, _ => d
    let d := d.dropSlot n
    let d := d.onHost (fun x => { x with fw := x.fw.map (fun f =>
      if f.admitted ∧ f.e.rw.nsid = n.nsx + 1 ∧ d.penOf f.h.fn.val = some n.pen then { f with oldPen := some n.pen } else f) })
    let n' := { n with pen := m.pen, slot := m.slot }
    (((d.setNs n').loadNs n').onPens (fun x => { x with moves := x.moves.filter (fun y => y.nsx != m.nsx) })).shareNss

/-- At a boundary the namespaces on their way to a Pen change over once all of them can, and the Pen's record with them (R189). -/
def Dev.switchMoves (d : Dev) : Dev :=
  d.each ((d.pens.moves.map (·.pen)).dedup) (fun d p =>
    let ms := d.pens.moves.filter (fun m => m.pen == p)
    if ms.all d.moveReady then
      let d := d.each ms (fun d m => d.finishMove m)
      let d := d.each (d.pens.staged.filter (fun s => s.1 == p)) (fun d s => d.stageRegs p s.2.1)
      d.onPens (fun x => { x with done := x.done.map (fun y => if y.1 = 3000 + p then (0, y.2) else y) })
    else d)

def execEpochBoundary (s : State) : Host.Outcome State Fault Refusal :=
  mainDo s (fun d => (d.switchMoves.epoch).onPair (fun p => { p with polNow := false }))

/-- PEN_MANAGE SET (R187 to R189): `mv` the namespaces, by NSID, that move into the Pen; the Command Sequence Error of R187 comes after its
Pen Limit rows. -/
def Dev.penSet (d : Dev) (h : Hdr) (p len : Nat) (r : PenRec) (mv : List Nat) : Dev :=
  match d.penSetStatus h p len r with
  | some st => d.failCmd h st
  | none =>
    match d.movePlan p r mv [] with
    | .error st => d.failCmd h st
    | .ok ms =>
      if d.movesBusy p r ∨ mv.any (fun x => d.moving (x - 1)) then d.failCmd h .cmdSeqError
      else (d.each ms (fun d m => d.startMove m)).penStage h p r

def execPenManageSet (h : Hdr) (p : PenN) (len : Nat) (r : PenRec) (mv : List Nat) (s : State) :
    Host.Outcome State Fault Refusal :=
  mainDo s (fun d => d.penSet h p.val len r mv)

/-! Create. -/

/-- Zone descriptors of a home in use. -/
def Dev.descUsed (d : Dev) (home : Bool) : Nat :=
  (d.media.nss.filter (fun n => n.zoned && (n.home == home || d.fw.role ≠ .duo))).foldl (fun s n => s + n.nzones) 0

/-- The lowest run of descriptors without a namespace. -/
def Dev.descBase (d : Dev) (k : Nat) : Option Nat :=
  let rs := d.media.nss.filter (·.zoned)
  ((0 :: rs.map (fun n => n.base + n.nzones)).insertionSort (· ≤ ·)).find? (fun b =>
    decide (b + k ≤ 524288) && !rs.any (fun n => overlaps b k n.base n.nzones))

/-- The metadata bytes, guard width and format of an LBA format. -/
def fmtMd (f : Nat) : Nat := if f = 0 then 0 else if f = 1 then 8 else 16

/-- Every channel that this controller owns has the same targets and LUNs per target (R37). -/
def Dev.sameGeom (d : Dev) : Bool :=
  let gs := ((List.range 64).filter d.owned).map d.geomOf
  d.board.stdGeom && gs.all (fun g => some g == gs.head?)

/-- The parameter checks of a create (R3, R37, R162, R231). -/
def Dev.nsBad (d : Dev) (a : NsArg) : Bool :=
  decide (2 < a.anagrp) || (decide (a.fmt.val = 0) && decide (a.piType.val ≠ 0)) ||
    (decide (d.board.code.val = 2) && a.keyed) || (a.zoned && (!d.sameGeom || decide (a.nzones = 0))) ||
    (!a.zoned && decide (a.gib = 0)) || (d.pen a.pen.val).isNone

/-- The map space of conventional namespaces (R57): 0.8 TiB for each GiB of DRAM beyond 8. -/
def Dev.convOver (d : Dev) (gib : Nat) : Bool :=
  let used := (d.media.nss.filter (fun n => !n.zoned)).foldl (fun s n => s + n.gib) 0
  decide ((d.board.dramGib - 8) * 8192 < (used + gib) * 10)

/-- CONVQ of a Pen; 0xFFFF_FFFF is no limit (R404). -/
def Dev.convqOver (d : Dev) (p gib : Nat) : Bool :=
  match d.pen p with
  | some i => decide (i.r.convq ≠ 0xFFFFFFFF) &&
      decide (i.r.convq < (d.media.nss.filter (fun n => !n.zoned && n.pen == p)).foldl (fun s n => s + n.gib) 0 + gib)
  | none => true

/-- The other checks of a create, and what it takes: NSX, slot and descriptor base. -/
def Dev.nsRoom (d : Dev) (a : NsArg) (home : Bool) : Except Status (Nat × Nat × Nat) :=
  let p := a.pen.val
  let nsq := match d.pen p with | some i => i.r.nsq | none => 0
  if a.keyed ∧ d.fw.alarmed then .error .nsNotReady
  else if nsq ≤ (d.media.nss.filter (fun n => n.pen == p)).length + (d.movesTo p).length ∨ (!a.zoned ∧ d.convqOver p a.gib) then .error .penLimit
  else match d.slotFor p a.keyed with
    | none => .error .penLimit
    | some slot =>
      match (List.range 1024).find? (fun x => !d.media.nss.any (fun n => n.nsx == x)) with
      | none => .error .nsidUnavailable
      | some x =>
        if a.zoned then
          match d.descBase a.nzones with
          | none => .error .nsCapacity
          | some b =>
            if d.descPool < d.descUsed home + a.nzones ∨ (d.poolRows home a.seven a.nzones).poolSpare home a.seven < a.nzones then
              .error .nsCapacity
            else .ok (x, slot, b)
        else
          let need := capUnits a.gib + reserveUnits a.gib - d.unitSpare home
          if d.convOver a.gib ∨ d.supplyOf home < need then .error .nsCapacity else .ok (x, slot, 0)

/-- The namespace of a create. -/
def nsOfArg (a : NsArg) (home : Bool) (x slot b : Nat) : Ns :=
  { nsx := x, zoned := a.zoned, seven := a.zoned && a.seven, base := b, nzones := if a.zoned then a.nzones else 0
    gib := if a.zoned then 0 else a.gib, md := fmtMd a.fmt.val, g64 := decide (a.fmt.val = 3), pi := a.piType.val
    home := home, pen := a.pen.val, slot := slot, keyed := a.keyed, fns := [], wctr := 0
    freeRu := if a.zoned then 0 else capUnits a.gib + reserveUnits a.gib
    reserve := if a.zoned then 0 else reserveUnits a.gib, prot := false, directive := false, piFirst := a.piFirst, ext := a.ext }

/-- The descriptor of an Empty zone of a new namespace (R40). -/
def emptyZd (n : Ns) : Zd :=
  { st := zEmpty, seven := n.seven, colok := false, group := 0, lbn := 0, wp := 0, fp := 0, nsx := n.nsx, kslot := n.slot,
    pen := n.pen, zseq := 0 }

/-- A change of a namespace is listed and told to hosts that see it: those of its Pen. -/
def Dev.nsChanged (d : Dev) (nsid pen : Nat) : Dev :=
  (d.onHost (fun h => { h with changedNs := h.changedNs ++ [nsid] })).aenTo (d.penFns pen) 2 0 4

/-- Make a namespace: its key or bypass slot, its rows, its Empty zones, its place in Col. -/
def Dev.nsMake (d : Dev) (a : NsArg) (home : Bool) (x slot b : Nat) : Dev :=
  let n := nsOfArg a home x slot b
  let d := if a.zoned then d else d.unitTake home (capUnits a.gib + reserveUnits a.gib)
  let d := d.onMedia (fun m => { m with nss := m.nss ++ [n] })
  let d := if a.keyed then d.makeKey slot n.pen x else d.loadBypassSlot slot
  let d := if a.zoned then
      let d := d.poolRows home a.seven a.nzones
      d.each (List.range a.nzones) (fun d i => (d.setZd (b + i) (emptyZd n)).onMedia (fun m =>
        { m with ckptZt := SMap.set zt0 m.ckptZt (b + i) (emptyZd n).word }))
    else d
  (d.loadNs n).capacityCheck

/-- A create on this controller's side: its key goes to the peer (R212), and what it made (R232). -/
def Dev.nsHere (d : Dev) (a : NsArg) (home : Bool) (x slot b : Nat) : Dev :=
  let d := d.nsMake a home x slot b
  (if a.keyed then d.shareKey slot else d).shareNss

/-- NAMESPACE_CREATE: NSID in the result; in DUO one for the peer's home is carried there and performed there, and the command waits for
the answer (R231). DESIGN CHOICE (assumption 137): while the link is not up such a create fails with Namespace Not Ready. -/
def Dev.nsCreate (d : Dev) (h : Hdr) (a : NsArg) : Dev :=
  if !d.isPf h.fn.val then d.failCmd h .invalidOpcode
  else if d.nsBad a then d.failCmd h .invalidField
  else match d.chooseHome a.anagrp with
    | none => d.failCmd h .invalidField
    | some home =>
      if d.fw.role = .duo ∧ home ≠ d.board.pairId then
        if d.linkUp then (d.sendFrame (.bulk bulkNs (.nscreate a))).onPair (fun p => { p with creates := p.creates ++ [h] })
        else d.failCmd h .nsNotReady
      else
        match d.nsRoom a home with
        | .error st => d.failCmd h st
        | .ok (x, slot, b) => (d.nsHere a home x slot b).complete h .success false (x + 1)

def execNamespaceCreate (h : Hdr) (a : NsArg) (s : State) : Host.Outcome State Fault Refusal :=
  mainDo s (fun d => d.nsCreate h a)

/-! Delete and attach. -/

/-- Everything that the buffer, Fold and the groups hold of a namespace goes. -/
def Dev.dropData (d : Dev) (n : Ns) : Dev :=
  let gone := d.wr.entries.filter (fun e => e.nsx == n.nsx && !e.acked)
  let d := d.removeEntries (fun e => e.nsx == n.nsx)
  let d := d.completeAll (gone.map (·.h)) .aborted false
  let ixOf := fun (g : Grp) => if n.zoned then decide (n.base ≤ g.ix) && decide (g.ix < n.base + n.nzones) else g.ix == 2 ^ 20 + n.nsx
  (d.onWr (fun w =>
    { w with
      fold := w.fold.filter (fun f => f.nsx != n.nsx)
      foldJobs := w.foldJobs.filter (fun j => j.copy.nsx != n.nsx)
      groups := w.groups.filter (fun g => !ixOf g) })).foldTidy

/-- The map of a conventional namespace is emptied: its units hold nothing any more, and their rows are queued for erase. -/
def Dev.dropMap (d : Dev) (n : Ns) : Dev :=
  let us := (d.media.units.filter (fun e => e.1 / 2 ^ 21 == n.nsx)).map (fun e => e.1 % 2 ^ 21)
  let ks := (d.media.conv.filter (fun e => e.1 / 2 ^ 40 == n.nsx)).map Prod.fst
  let d := d.onMedia (fun m =>
    { m with
      conv := SMap.keep (fun k => k / 2 ^ 40 != n.nsx) m.conv, old := m.old.filter (fun e => e.1 / 2 ^ 40 != n.nsx)
      curUnit := m.curUnit.filter (fun e => e.1 / 128 != n.nsx && e.1 != gcKey n.nsx), gcCredit := SMap.del m.gcCredit n.nsx
      relocs := m.relocs.filter (fun r => !(r.conv && r.nsx == n.nsx)), refreshQ := m.refreshQ.filter (fun k => k.1 != n.nsx + 1) })
  let d := d.each us (fun d u => d.freeUnit n.nsx u)
  let d := d.onMedia (fun m =>
    { m with nss := m.nss.map (fun x => if x.nsx = n.nsx then { x with prot := x.prot && decide (x.freeRu < 2) } else x) })
  d.sendMap (ks.map (fun k => (k, noPlace)))

/-- Every zone of a namespace is emptied: written ones are reset, Read Only ones go Offline. -/
def Dev.emptyNs (d : Dev) (n : Ns) : Dev :=
  if n.zoned then
    d.each (List.range n.nzones) (fun d i =>
      let zs := i * zsze n.seven
      if (d.zd (n.base + i)).st = zRO then (d.zOffline (n.base + i) zs).1
      else if (d.zd (n.base + i)).active ∨ (d.zd (n.base + i)).st = zFull then d.resetZone (n.base + i) zs
      else d)
  else d.dropMap n

/-- A namespace goes: its data, zones, rows and slot. -/
def Dev.nsGone (d : Dev) (n : Ns) : Dev :=
  let d := (d.dropData n).emptyNs n
  let d := d.dropSlot n
  let d := d.each (d.pens.moves.filter (fun m => m.nsx == n.nsx)) (fun d m =>
    (d.dropSlot { n with pen := m.pen, slot := m.slot }).onPens (fun x => { x with moves := x.moves.filter (fun y => y.nsx != n.nsx) }))
  let d := if n.zoned then
      d.each (List.range n.nzones) (fun d i => (d.onMedia (fun m =>
        { m with zt := SMap.set zt0 m.zt (n.base + i) 0, ckptZt := SMap.set zt0 m.ckptZt (n.base + i) 0 })))
    else d
  let d := d.onMedia (fun m => { m with nss := m.nss.filter (fun x => x.nsx != n.nsx), changed := m.changed.filter (fun c => c.1 != n.nsx) })
  (((d.setReg (A.COL_NS n.nsx) 0).nsChanged (n.nsx + 1) n.pen).capacityCheck).shareNss

/-- NAMESPACE_DELETE: one, or every one. -/
def Dev.nsDelete (d : Dev) (h : Hdr) (nsid : Nat) : Dev :=
  if !d.isPf h.fn.val then d.failCmd h .invalidOpcode
  else if nsid = 0xFFFFFFFF then (d.each d.media.nss (fun d n => d.nsGone n)).complete h .success
  else match d.nsOf nsid with
    | none => d.failCmd h .invalidNsFormat
    | some n =>
      match d.anaStatus n with
      | some st => d.failCmd h st
      | none => (d.nsGone n).complete h .success

def execNamespaceDelete (h : Hdr) (nsid : Nat) (s : State) : Host.Outcome State Fault Refusal :=
  mainDo s (fun d => d.nsDelete h nsid)

/-- NAMESPACE_ATTACHMENT: only to functions of the namespace's Pen (R180). -/
def Dev.nsAttach (d : Dev) (h : Hdr) (attach : Bool) (nsid : Nat) (fns : List Nat) : Dev :=
  if !d.isPf h.fn.val then d.failCmd h .invalidOpcode
  else match d.nsOf nsid with
    | none => d.failCmd h .invalidNsFormat
    | some n =>
      if fns = [] ∨ fns.any (fun f => decide (d.penOf f ≠ some n.pen)) then d.failCmd h .ctrlListInvalid
      else if attach ∧ fns.any (fun f => n.fns.contains f) then d.failCmd h .alreadyAttached
      else if !attach ∧ fns.any (fun f => !n.fns.contains f) then d.failCmd h .notAttached
      else
        let l := if attach then n.fns ++ fns else n.fns.filter (fun f => !fns.contains f)
        (((d.setNs { n with fns := l }).nsChanged nsid n.pen).shareNss).complete h .success

def execNamespaceAttachment (h : Hdr) (attach : Bool) (nsid : Nat) (fns : List FnN) (s : State) :
    Host.Outcome State Fault Refusal :=
  mainDo s (fun d => d.nsAttach h attach nsid (fns.map (·.val)))

/-! Format and Sanitize. -/

/-- The key of a namespace is replaced and its old export erased (R212). -/
def Dev.rekey (d : Dev) (n : Ns) : Dev := if n.keyed then (d.makeKey n.slot n.pen n.nsx).shareKey n.slot else d

/-- FORMAT_NVM (R256): Secure Erase 000b and 001b empty the namespace, 010b replaces its key as well. -/
def Dev.format (d : Dev) (h : Hdr) (nsid ses fmt pi : Nat) (piFirst ext : Bool) : Dev :=
  match d.nsOf nsid with
  | none => d.failCmd h .invalidNsFormat
  | some n =>
    if !d.seen h.fn.val n then d.failCmd h .invalidNsFormat
    else if 2 < ses ∨ 3 < fmt ∨ (fmt = 0 ∧ pi ≠ 0) ∨ (ses = 2 ∧ (d.board.code.val = 2 ∨ !n.keyed)) then d.failCmd h .invalidField
    else match d.anaStatus n with
      | some st => d.failCmd h st
      | none =>
        if n.keyed ∧ d.fw.alarmed then d.failCmd h .nsNotReady
        else
          let d := (d.dropData n).emptyNs n
          let d := if ses = 2 then d.rekey n else d
          let n' := match d.nsOf nsid with | some x => x | none => n
          let d := d.setNs { n' with md := fmtMd fmt, g64 := decide (fmt = 3), pi := pi, piFirst := piFirst, ext := ext }
          ((((d.nsChanged nsid n.pen).capacityCheck).capacityBack).shareNss).complete h .success

def execFormatNvm (h : Hdr) (nsid : Nat) (ses : Nat) (fmt : Nat) (piType : Fin 4) (piFirst ext : Bool) (s : State) :
    Host.Outcome State Fault Refusal :=
  mainDo s (fun d => d.format h nsid ses fmt piType.val piFirst ext)

/-- SANITIZE (R256): Block Erase 2 empties every namespace; Crypto Erase 4 replaces every key too. -/
def Dev.sanitizeAll (d : Dev) (h : Hdr) (act : Nat) : Dev :=
  if (act ≠ 2 ∧ act ≠ 4) ∨ (act = 4 ∧ d.board.code.val = 2) then d.failCmd h .invalidField
  else
    let d := d.each d.media.nss (fun d n => (d.dropData n).emptyNs n)
    let d := if act = 4 then d.each d.media.nss (fun d n => d.rekey n) else d
    ((d.capacityCheck).capacityBack).complete h .success

def execSanitize (h : Hdr) (act : Nat) (s : State) : Host.Outcome State Fault Refusal :=
  mainDo s (fun d => d.sanitizeAll h act)

/-! Device Self-test and directives. -/

/-- DEVICE_SELF_TEST: 1 short, 2 extended, Fh aborts the one under way (R256). -/
def Dev.selfTestCmd (d : Dev) (h : Hdr) (stc : Nat) : Dev :=
  if stc = 0xF then
    let d := match d.host.selfTest with
      | some t => d.onHost (fun x => { x with selfTest := none, stResults := (t.1, 1) :: x.stResults })
      | none => d
    d.complete h .success
  else if stc ≠ 1 ∧ stc ≠ 2 then d.failCmd h .invalidField
  else if d.host.selfTest.isSome then d.failCmd h .selfTestBusy
  else (d.onHost (fun x => { x with selfTest := some (stc, d.tick) })).complete h .success

def execDeviceSelfTest (h : Hdr) (stc : Nat) (s : State) : Host.Outcome State Fault Refusal :=
  mainDo s (fun d => d.selfTestCmd h stc)

/-- A self-test ends: a short one after 2 min, an extended one after a patrol period, the bounds of R256. -/
def Dev.selfTestTick (d : Dev) : Dev :=
  match d.host.selfTest with
  | none => d
  | some t =>
    let secs := if t.1 = 1 then 120 else d.media.policy.days * 86400
    if secs * 1600000000 ≤ d.tick - t.2 then d.onHost (fun x => { x with selfTest := none, stResults := (t.1, 0) :: x.stResults })
    else d

/-- DIRECTIVE_SEND: Identify enables or disables Data Placement on a namespace; Streams is not supported (R256). -/
def Dev.dirSend (d : Dev) (h : Hdr) (dtype doper nsid : Nat) (enable : Bool) : Dev :=
  match d.nsOf nsid with
  | none => d.failCmd h .invalidNsFormat
  | some n =>
    if !d.seen h.fn.val n then d.failCmd h .invalidNsFormat
    else if dtype ≠ 0 ∨ doper ≠ 1 then d.failCmd h .invalidField
    else (d.setNs { n with directive := enable }).complete h .success

def execDirectiveSend (h : Hdr) (dtype doper nsid : Nat) (enable : Bool) (s : State) :
    Host.Outcome State Fault Refusal :=
  mainDo s (fun d => d.dirSend h dtype doper nsid enable)

/-- DIRECTIVE_RECEIVE: Identify returns which directives are supported and enabled: Identify and Data Placement. -/
def Dev.dirReceive (d : Dev) (h : Hdr) (dtype doper nsid : Nat) : Dev :=
  match d.nsOf nsid with
  | none => d.failCmd h .invalidNsFormat
  | some n =>
    if !d.seen h.fn.val n then d.failCmd h .invalidNsFormat
    else if dtype ≠ 0 ∨ doper ≠ 1 then d.failCmd h .invalidField
    else d.reply h (overlay (zeros 4096) [(0, [5]), (32, [if n.directive then 5 else 1])])

def execDirectiveReceive (h : Hdr) (dtype doper nsid : Nat) (s : State) : Host.Outcome State Fault Refusal :=
  mainDo s (fun d => d.dirReceive h dtype doper nsid)

end Sys2Proof.Machine
end

