-- ==== Sys2Proof/Machine/Thermal.lean ====
section
/-! DEFINITION. Temperature sensing and thermal control (R85, R348 to R357): the conversions, the warning, the throttle,
the flash window, the thermal curve. -/

namespace Sys2Proof.Machine


/-! Junction sensors (R348, R350, R351). -/

/-- A value in kelvin has crossed a Temperature Threshold (R350): over, or under. -/
def thrCrossed (v : Nat) (old new : Int) : Bool :=
  let th : Int := (v % 65536 : Nat)
  if natFld v 21 20 = 0 then decide (old < th) && decide (th ≤ new)
  else if natFld v 21 20 = 1 then decide (th < old) && decide (new ≤ th)
  else false

/-- Each crossing of a threshold that a function has set raises the event of that function (R350): sensor 0 is the composite,
1 to 8 the junction sensors. -/
def Dev.thrEvents (d : Dev) (sensor : Nat) (old new : Int) : Dev :=
  let hit := d.host.feats.filter (fun e => decide (e.1 / 256 % 256 = 4) && decide (natFld e.2.toNat 19 16 = sensor) &&
    thrCrossed e.2.toNat old new)
  d.each hit (fun d e => d.aenOne (e.1 / 65536) 1 1 2)

/-- A reading in whole kelvin. -/
def kelvin (t : Int) : Int := t / 4 + 273

/-- WARN (R350): set at 95 °C, cleared below 92 °C. The firmware reports it and takes the report back. -/
def Dev.warnUpdate (d : Dev) (hot : Nat) (tj : Int) : Dev :=
  if 380 ≤ tj ∧ ¬ d.bit A.THERM_STAT 1 then
    (((d.setBit A.THERM_STAT 1 true).critical 1).fwPost (0x0300 + hot) 1 4 (code16 tj)).alert 1
  else if tj < 368 ∧ d.bit A.THERM_STAT 1 then (d.setBit A.THERM_STAT 1 false).uncritical 1
  else d

/-- A is updated (R351), and with it THROTTLE and the cap of every Mule at once (R353). -/
def Dev.throttleUpdate (d : Dev) (tj : Int) : Dev :=
  let a := nextA d.pctA d.curve tj (4 * d.fld A.THERM_HYST 3 0)
  if a = d.pctA then d
  else
    let d := (d.setFld A.THERM_PCT 6 0 a).setBit A.THERM_STAT 2 (decide (a < 100))
    (d.each (List.range 64) (fun d ch => d.setCap ch)).issueAllCh

/-- A junction reading, its offset applied (R348, R357). -/
def Dev.tjReading (d : Dev) (j : Nat) (milli : Int) : Int := quarters milli + signed 8 (d.fld (A.THERM_JOFF j) 7 0)

/-- A junction sensor converts: in the main domain every one, while it is off sensor 0 alone (R348). -/
def Dev.junction (d : Dev) (j : Nat) (milli : Int) : Dev :=
  let t := d.tjReading j milli
  if !d.tor.mainOn then
    if j = 0 ∧ d.tor.pwr ≠ .off then d.setReg (A.THERM_TJ 0) (2 ^ 16 + code16 t) else d
  else
    let was := d.rd (A.THERM_TJ j)
    let top := d.hottest
    let d := d.setReg (A.THERM_TJ j) (2 ^ 16 + code16 t)
    let (hot, tj) := d.hottest.getD (j, t)
    let d := d.setReg A.THERM_TJMAX (hot * 2 ^ 16 + code16 tj)
    let d := d.warnUpdate hot tj
    let d := if bitOf was 16 then d.thrEvents (j + 1) (kelvin (temp16 was)) (kelvin t) else d
    let d := match top with | some p => d.thrEvents 0 (kelvin p.2) (kelvin tj) | none => d
    d.throttleUpdate tj

def execJunctionConversion (j : Fin 8) (milli : Int) (s : State) : Host.Outcome State Fault Refusal :=
  aonDo s (fun d => d.junction j.val milli)

/-! Flash case sensors (R85 to R87, R348, R349). -/

/-- The flag clears: held entries are acknowledged in admission order, the temperature route out of READONLY opens, and
the Mules start what waits (R29, R85, R86). -/
def Dev.flagClears (d : Dev) : Dev :=
  let d := d.unhold
  let d := d.onFw (fun f => { f with readonlyTemp := false })
  (d.capacityBack).issueAllCh

/-- The flash-window flag is evaluated (R85). -/
def Dev.flagUpdate (d : Dev) : Dev :=
  let new := d.nextFwFlag
  let was := d.fwFlag
  let d := d.setBit A.THERM_STAT 4 new
  if was && !new then d.flagClears else if new then d.markAllCh else d

/-- The channels of a Tf sensor whose interface was last trained 10 °C or more from its reading: the firmware trains them
again (R111). -/
def Dev.retrain (d : Dev) (k : Nat) : Dev :=
  let t := temp16 (d.rd (A.THERM_TF k))
  let far := (List.range 64).filter (fun ch => decide (d.tfSensor ch = k) &&
    (match SMap.find d.media.trained ch with | some t0 => decide (40 ≤ (t - t0).natAbs) | none => false))
  d.each far Dev.train

/-- A TEMP_EXT conversion (R348, R349): an enabled input outside −20 to 125 °C is faulty. -/
def Dev.flashCase (d : Dev) (k code : Nat) (milli : Int) : Dev :=
  let q := quarters milli
  let fault := d.bit A.THERM_EXTEN k && (decide (q < -80) || decide (500 < q))
  let t := q + signed 8 (d.fld (A.THERM_EXTOFF k) 7 0)
  let d := d.setReg (A.THERM_TF k) (code % 1024 * 2 ^ 18 + (if fault then 2 ^ 17 else 0) + 2 ^ 16 + code16 t)
  let any := (List.range 16).any (fun i => d.bit A.THERM_EXTEN i && d.bit (A.THERM_TF i) 17)
  ((d.setBit A.THERM_STAT 3 any).flagUpdate).retrain k

def execFlashCaseConversion (k : Fin 16) (code : BitVec 10) (milli : Int) (s : State) :
    Host.Outcome State Fault Refusal :=
  mainDo s (fun d => d.flashCase k.val code.toNat milli)

/-- A write to THERM_CURVE or THERM_HYST (R356): A is not recomputed before the next conversion. -/
def Dev.curveWrite (d : Dev) (hyst : Bool) (i : Nat) (v : W32) : Dev :=
  if hyst then d.setReg A.THERM_HYST (v.toNat % 16) else d.setReg (A.THERM_CURVE i) (v.toNat &&& 0xFF7F)

def execThermCurveWrite (hyst : Bool) (i : Fin 16) (v : W32) (s : State) : Host.Outcome State Fault Refusal :=
  regDo (if hyst then A.THERM_HYST else A.THERM_CURVE i.val) s (fun d => d.curveWrite hyst i.val v)

end Sys2Proof.Machine
end

