-- ==== Sys2Proof/Machine/BoardConfig.lean ====
section
/-! DEFINITION. The sections of a configuration container (R399) and the values of the calibration set (R286), and what the
firmware takes from them. -/

namespace Sys2Proof.Machine

/-- The number in n bytes from byte o. -/
def leAt (b : List Byte) (o n : Nat) : Nat := ofLe ((b.drop o).take n)

/-- Field o of section entry i of a container, n bytes (R391). -/
def sectFld (b : List Byte) (i o n : Nat) : Nat := leAt b (128 + 32 * i + o) n
def nSect (b : List Byte) : Nat := leAt b 15 1
def sectOfs (b : List Byte) (i : Nat) : Nat := sectFld b i 0 4
def sectLen (b : List Byte) (i : Nat) : Nat := sectFld b i 4 4
def sectLoad (b : List Byte) (i : Nat) : Nat := sectFld b i 8 8
def sectKind (b : List Byte) (i : Nat) : Nat := sectFld b i 16 1
def sectExec (b : List Byte) (i : Nat) : Bool := decide (sectFld b i 17 1 % 2 = 1)

/-- The bytes that section i has in the container: zero-fill has none. -/
def sectStored (b : List Byte) (i : Nat) : Nat := if sectKind b i = 3 then 0 else sectLen b i

/-- The sections of a container that carry a tag, each as its bytes (R399). -/
def tagged (b : List Byte) (tag : Nat) : List (List Byte) :=
  ((List.range (nSect b)).map (fun i => (b.drop (sectOfs b i)).take (sectStored b i))).filter (fun x => decide (leAt x 0 4 = tag))

/-- The tags of R399, the first character in byte 0. -/
def tagBrd : Nat := 0x30445242
def tagPrt : Nat := 0x30545250
def tagCrv : Nat := 0x30565243

/-- The board's values from a "BRD0" section. DESIGN CHOICE (assumption 138): where each stands, and its unit. -/
def Board.withBrd (o : Board) (x : List Byte) : Board :=
  { o with
    iTestMa := leAt x 4 2, vMinMv := leAt x 6 2, etaPm := leAt x 8 2, testGpio := leAt x 10 1, divider := leAt x 11 1
    tfSensors := (List.range 64).map (fun c => leAt x (12 + c) 1 % 16), thermExt := leAt x 76 2
    bifurcated := decide (leAt x 78 1 % 2 = 1), vpd := (x.drop 80).take 256 }

/-- The registers that a "PRT0" section gives: the sequences, SEQMAP, the retry entries, SETMAP and QLC_LAST. -/
def prtRegs (x : List Byte) : List (Nat × Nat) :=
  (List.range (leAt x 108 4)).map (fun i => (leAt x (112 + 12 * i) 4 % 2 ^ 16, leAt x (116 + 12 * i) 8))

/-- The flash part's values from a "PRT0" section. DESIGN CHOICE (assumption 138): where each stands, and its unit. -/
def Board.withPrt (o : Board) (x : List Byte) : Board :=
  { o with
    partId := (x.drop 4).take 32, luns := leAt x 36 1, nlb := leAt x 38 2, ratedQlc := leAt x 40 4, ratedSlc := leAt x 44 4
    tprogSlcUs := leAt x 48 2
    retTable := (List.range 7).map (fun a => (List.range 4).map (fun t => leAt x (50 + 8 * a + 2 * t) 2)), muleRegs := prtRegs x }

/-- The thermal curve and hysteresis of a "CRV0" section: the temperature and percentage of each point, and HYST. DESIGN
CHOICE (assumption 138): where each stands. -/
def Board.withCrv (o : Board) (x : List Byte) : Board := { o with curve := (List.range 33).map (fun i => leAt x (4 + i) 1) }

/-- The identity of the parts that are fitted, as the first good copy of a parameter page gives it (R404 step 2). -/
def Board.fitted (o : Board) (good : List Byte → Bool) : Option (List Byte) :=
  o.ppages.findSome? (fun p => (p.2.find? good).map (fun b => (b.drop 32).take 32))

/-- The values of the configuration container in use: of its "BRD0" and "CRV0" sections, and of the "PRT0" section of the
part that is fitted; of the first one where no page tells the part (R399). -/
def Board.configured (o : Board) (b : List Byte) : Board :=
  let prt := match o.fitted pageGood with
    | none => (tagged b tagPrt).head?
    | some i => (tagged b tagPrt).find? (fun x => decide ((x.drop 4).take 32 = i))
  let o := match (tagged b tagBrd).head? with | some x => o.withBrd x | none => o
  let o := match prt with | some x => o.withPrt x | none => o
  match (tagged b tagCrv).head? with | some x => o.withCrv x | none => o

/-! What goes into registers. -/

/-- The curve, the hysteresis and the external sensors (R349, R352, R357). -/
def Dev.loadTherm (d : Dev) : Dev :=
  let c := d.board.curve
  let d := if c = [] then d else
    (d.each (List.range 16) (fun d i => d.curveWrite false i (BitVec.ofNat 32 (c.getD (2 * i) 0 * 256 + c.getD (2 * i + 1) 0)))).curveWrite
      true 0 (BitVec.ofNat 32 (c.getD 32 0))
  d.setReg A.THERM_EXTEN d.board.thermExt

/-- A timing or training register of DRAMC (R171). -/
def isTiming (a : Nat) : Bool := decide (A.DRAMC_ECCSTAT + 0x8000 ≤ a) && decide (a < A.DRAMC_ECCSTAT + 0x10000)

/-- What a timing or training register was loaded with; it is held as the difference from that. -/
def Dev.timing (d : Dev) (a : Nat) : W64 :=
  match d.dram.seeds with
  | some n => if isTiming a then BitVec.ofNat 64 (Config.calValue n a % 2 ^ 32) else 0
  | none => 0

/-- The set as the firmware uses it: under the profile a DX8 field that reads as all ones is taken from the factory row (R285). DESIGN CHOICE
(assumption 139): the DX8 fields are 4 bytes each. -/
def Dev.calUsed (d : Dev) (set : List Byte) : List Byte :=
  if d.board.compat then
    let row := (List.range 32).flatMap (fun w => leBytes 32 (SMap.get (fun _ => BitVec.allOnes 256) d.cirque.frow w).toNat)
    (List.range 256).flatMap (fun i =>
      let x := (set.drop (4 * i)).take 4
      if x = [0xFF, 0xFF, 0xFF, 0xFF] then (row.drop (4 * i)).take 4 else x) ++ set.drop 1024
  else set

/-- The values of the calibration set: the DDR5 timing of DRAMC, and the offsets of the sensors (R171, R286, R357). A free value
(assumption 139): where the timing stands in the set; DESIGN CHOICE (assumption 139): the offsets stand from byte 1,024 on. -/
def Dev.loadCal (d : Dev) (raw : List Byte) : Dev :=
  let set := d.calUsed raw
  let n := ofLe set
  let d := d.onDram (fun m => { m with seeds := some n })
  let d := { d with regs := SMap.keep (fun a => !isTiming a) d.regs }
  let d := d.each (List.range 8) (fun d j => d.setReg (A.THERM_JOFF j) (leAt set (1024 + j) 1))
  d.each (List.range 16) (fun d k => d.setReg (A.THERM_EXTOFF k) (leAt set (1032 + k) 1))

end Sys2Proof.Machine
end

