-- ==== Sys2Proof/Machine/Boot.lean ====
section
/-! DEFINITION. The boot ROM and the start of the firmware (R390 to R400): containers and their checks, the choice of
an image, the boot information block, the configuration image. -/

namespace Sys2Proof.Machine

/-! Containers (R390 to R392). A container is the list of its bytes. -/


/-- n bytes of the array from a word on. -/
def Dev.cqBytes (d : Dev) (w n : Nat) : List Byte :=
  ((List.range ((n + 31) / 32)).flatMap (fun i => leBytes 32 (d.cqWord (w + i)).toNat)).take n


/-- Section i lies in the container, after the ones before it: table order, no overlap (R391). -/
def sectBounds (b : List Byte) (i : Nat) : Bool :=
  decide (1 ≤ sectKind b i) && decide (sectKind b i ≤ 3) &&
    (decide (sectKind b i = 3) ||
      (decide (sectOfs b i % 32 = 0) && decide (1024 ≤ sectOfs b i) && decide (sectOfs b i + sectLen b i ≤ leAt b 8 4) &&
        (List.range i).all (fun k => decide (sectKind b k = 3) || decide (sectOfs b k + sectLen b k ≤ sectOfs b i))))

/-- The greatest length of a container (R390). -/
def maxLen (cfg : Bool) : Nat := if cfg then 0x0FF000 else 0x7FF000

/-- MAGIC, FMTVER, TYPE, TOTLEN and the section bounds (R394 step 4). -/
def formatOk (b : List Byte) (cfg : Bool) : Bool :=
  decide (leAt b 0 4 = 0x43484354) && decide (leAt b 4 2 = 1) && decide (leAt b 6 1 = if cfg then 2 else 1) &&
    decide (leAt b 8 4 ≤ maxLen cfg) && decide (1 ≤ nSect b) && decide (nSect b ≤ 16) && decide (leAt b 12 1 ≤ 32) &&
    (List.range (nSect b)).all (sectBounds b)

/-- Every LOAD range lies in hub SRAM below the boot information block. -/
def loadOk (b : List Byte) : Bool :=
  (List.range (nSect b)).all (fun i => decide (0x10000000 ≤ sectLoad b i) && decide (sectLoad b i + sectLen b i ≤ 0x10FFFF00))

/-- ENTRY lies in a section with EXEC set. -/
def entryOk (b : List Byte) : Bool :=
  (List.range (nSect b)).any (fun i => sectExec b i && decide (sectLoad b i ≤ leAt b 24 8) &&
    decide (leAt b 24 8 < sectLoad b i + sectLen b i))

/-- STEPPING and the CODES bit of the fused ordering code. -/
def Dev.codeOk (d : Dev) (b : List Byte) : Bool :=
  decide (leAt b 13 1 = 0xB0) && decide (leAt b 14 1 / 2 ^ d.board.code.val % 2 = 1)

/-- PUBKEY is accepted (R392): its hash stands in OTP for KEYIDX, and the key is not revoked. -/
def Dev.keyOk (d : Dev) (b : List Byte) : Bool :=
  let k := leAt b 7 1
  let hash := (d.otpWord (9 + 2 * k)).toNat + (d.otpWord (10 + 2 * k)).toNat % 2 ^ 128 * 2 ^ 256
  decide (k ≤ 1) && decide (hash ≠ 2 ^ 384 - 1) && decide (ofLe (sha384 ((b.drop 640).take 97)) = hash) &&
    !(d.otpWord 13).getLsbD k

/-- The programmed words among OTP words 16 to 47 (R284). -/
def Dev.otpSvn (d : Dev) : Nat := ((List.range 32).filter (fun k => (SMap.find d.cirque.otp (16 + k)).isSome)).length

/-- SIG verifies over the header bytes 0 to 767 and every section's bytes (R392). -/
def signedOk (b : List Byte) : Bool :=
  let body := (List.range (nSect b)).flatMap (fun i => (b.drop (sectOfs b i)).take (sectStored b i))
  ecdsaVerify ((b.drop 640).take 97) (sha384 (b.take 768 ++ body)) ((b.drop 768).take 96)

/-- The reject code of R395 for a container; 0: it passes. Configuration containers have no load, ENTRY or rollback check
(R401, R402). An ENTRY outside its section counts as a load range (assumption 26). -/
def Dev.reject (d : Dev) (b : List Byte) (cfg : Bool) : Nat :=
  if !formatOk b cfg then 3
  else if !cfg ∧ !(loadOk b && entryOk b) then 4
  else if !d.codeOk b then 5
  else if !d.keyOk b then 6
  else if !cfg ∧ leAt b 12 1 < d.otpSvn then 7
  else if !signedOk b then 8
  else 0

/-! The choice of an image (R393, R394). -/

/-- The container of a slot: its header, and all of it where the length is in bounds. -/
def Dev.slotBytes (d : Dev) (slot : Nat) : List Byte :=
  let h := d.cqBytes (slotBase slot) 1024
  if leAt h 8 4 ≤ maxLen (2 ≤ slot) then d.cqBytes (slotBase slot) (Nat.max 1024 (leAt h 8 4)) else h

/-- The first ATTEMPT word that is still erased. -/
def Dev.freeAttempt (d : Dev) (slot : Nat) : Option Nat :=
  (List.range 64).find? (fun k => (SMap.find d.cirque.words (recBase slot + 32 + k)).isNone)

/-- A slot is on trial: no CONFIRM carries its COMMITNO. -/
def Dev.onTrial (d : Dev) (slot : Nat) : Bool :=
  match d.activation slot with | some (_, n) => !d.confirmedAs slot n | none => false

/-- Why step 3 skips a slot: 1 no activation, 2 attempts exhausted, 0 not at all. -/
def Dev.skip (d : Dev) (slot : Nat) : Nat :=
  match d.activation slot with
  | none => 1
  | some (_, n) => if d.onTrial slot ∧ (3 ≤ d.attempts slot n ∨ (d.freeAttempt slot).isNone) then 2 else 0

/-- The COMMITNO of a slot's activation. -/
def Dev.commitOf (d : Dev) (slot : Nat) : Nat := match d.activation slot with | some (_, n) => n | none => 0

/-- The slots in the order in which the ROM tries them: the higher COMMITNO first. -/
def Dev.slotOrder (d : Dev) : List Nat := if d.commitOf 0 < d.commitOf 1 then [1, 0] else [0, 1]

/-- The candidate of step 3. -/
def Dev.candidate (d : Dev) : Option Nat := d.slotOrder.find? (fun s => d.skip s = 0)

/-- The reject code of a slot as steps 3 and 4 find it. -/
def Dev.slotCode (d : Dev) (slot : Nat) : Nat :=
  if d.skip slot ≠ 0 then d.skip slot else d.reject (d.slotBytes slot) false

/-- The slot that boots, and the reject code of each slot. -/
def Dev.romPick (d : Dev) : Option Nat × Nat × Nat :=
  match d.slotOrder with
  | a :: b :: _ =>
    let ca := d.slotCode a
    let cb := if ca = 0 then (if d.skip b = 0 then 0 else d.skip b) else d.slotCode b
    let codes := if a = 0 then (ca, cb) else (cb, ca)
    if ca = 0 then (some a, codes) else if cb = 0 then (some b, codes) else (none, codes)
  | _ => (none, 0, 0)

/-! Loading (R394, R395). -/

/-- The copy of the container's sections into hub SRAM. -/
def Dev.loadSections (d : Dev) (b : List Byte) : Dev :=
  d.each (List.range (nSect b)) (fun d i =>
    if sectKind b i = 3 then d.clearMem (sectLoad b i) (sectLoad b i + sectLen b i)
    else d.storeBytes (sectLoad b i) ((b.drop (sectOfs b i)).take (sectLen b i)))

/-- The boot information block (R395). -/
def Dev.bootBlock (d : Dev) (slot : Nat) (trial : Bool) (codes : Nat × Nat) (resume : Nat) : List Byte :=
  let n := d.commitOf slot
  leBytes 1 slot ++ leBytes 1 (if trial then 1 else 0) ++ leBytes 1 (d.attempts slot n) ++ leBytes 1 (codes.1 + 16 * codes.2) ++
    leBytes 4 n ++ leBytes 1 d.otpSvn ++ leBytes 1 ((if d.board.boot then 1 else 0) + (if d.board.compat then 2 else 0)) ++
    leBytes 2 (d.rd A.CLK_RSTCAUSE).toNat ++ leBytes 1 resume ++ zeros 243

/-- The ROM writes the block and enters the image. -/
def Dev.putBlock (d : Dev) (b : List Byte) : Dev := (d.setBytes 0x10FFFF00 b).onGate (fun g => { g with bootInfo := b })

/-- Steps 4 to 7 for a slot that has passed: the copy, the ATTEMPT word of a slot on trial, the block. -/
def Dev.romEnter (d : Dev) (slot : Nat) (codes : Nat × Nat) (resume : Nat) : Dev :=
  let trial := d.onTrial slot
  let n := d.commitOf slot
  let d := d.loadSections (d.slotBytes slot)
  let d := if trial then
      match d.freeAttempt slot with
      | some k => d.cqSet (recBase slot + 32 + k) (recWordOf atmpMagic n)
      | none => d
    else d
  let d := d.putBlock (d.bootBlock slot trial codes resume)
  d.onFw (fun f => { f with runSlot := slot, trial := trial, commitNo := n, confirmed := !trial })

/-! The start of the firmware (R398 steps 4 and 5, R400). -/

/-- The configuration slot in use (R400): 0 for A, 1 for B, 2 where both fail. -/
def Dev.pickConfig (d : Dev) : Nat :=
  let ok := fun s => (d.activation s).isSome && decide (d.reject (d.slotBytes s) true = 0)
  if ok 2 && ok 3 then (if d.commitOf 2 < d.commitOf 3 then 1 else 0)
  else if ok 2 then 0 else if ok 3 then 1 else 2

/-- The clocks of every block and Mule, the cores, and the enables of the blocks that INIT needs (R323, R398); Hen's follows at the end
of INIT (R169). -/
def Dev.fwClocks (d : Dev) : Dev :=
  let d := (d.setReg A.CLK_EN 0x7FF).setReg A.CLK_ENSTAT (0x7FF * 2 ^ 16)
  let d := (d.setReg A.CLK_EN_MULE (2 ^ 64 - 1)).setReg A.CLK_ON_MULE (2 ^ 64 - 1)
  let d := d.setReg A.CLK_CORE_RUN 0xFFFF
  let d := ((d.cqEn true).setBit A.CIRQUE_CTL 1 true).oxEn true
  (d.setReg A.SB_CTL 1).setBit A.SB_STAT 0 true

/-- The bytes of the calibration set, 64 KiB at array offset 0x120_0000 (R283, R286). -/
def Dev.calBytes (d : Dev) : List Byte := d.cqBytes 0x90000 65536

/-- The set's CRC-32, held in its last 4 bytes, fits (R287). -/
def calGood (b : List Byte) : Bool := decide (crc32 (b.take 65532) = leAt b 65532 4)

/-- The configuration in use gives the board's values (R399); where neither slot passes, the device does not leave INIT. -/
def Dev.configure (d : Dev) (cfg : Nat) : Dev :=
  if cfg = 2 then d.fwPost 0x0F00 (Config.evCode 25) 7 0
  else ({ d with board := d.board.configured (d.slotBytes (2 + cfg)) }).loadTherm

/-- The firmware starts: it rebuilds the device log, reports a rollback (R403), chooses the configuration (R399, R400), sets the logging area (R197), checks
the calibration set and takes its values (R286, R287), and takes service boot (R29). -/
def Dev.fwStart (d : Dev) : Dev :=
  let d := (d.fwClocks).rebuildLog
  let other := 1 - d.fw.runSlot
  let d := if d.fw.commitNo < d.commitOf other then d.fwPost 0x0F00 (Config.evCode 24) 5 (d.commitOf other) else d
  let cfg := d.pickConfig
  let d := d.onFw (fun f => { f with cfgSlot := cfg })
  let d := d.configure cfg
  let d := d.setReg A.PEN_DLOG_BASE (0x1000000000 + Config.dlogPlace % (d.board.dramGib * 4) * 2 ^ 28)
  let set := d.calBytes
  let d := d.onFw (fun f => { f with calValid := calGood set })
  let d := if calGood set then d.loadCal set else d.fwPost 0x0F00 (Config.evCode 26) 7 0
  if d.board.boot then ((d.setMode .service).setTransit false).alarmAll 0 else d

/-- The flow of R394: the image is entered and its firmware starts, or ROM recovery (R397). -/
def Dev.romFlow (d : Dev) : Dev :=
  let d := (d.setReg A.CLK_EN 0x214).setReg A.CLK_ENSTAT (0x214 * 2 ^ 16)
  match d.romPick with
  | (some s, codes) => (d.romEnter s codes 0).fwStart
  | (none, _) => (d.onTor (fun t => { t with pwr := .romRecovery, mainOn := false })).alert 0

/-! ROM recovery (R397). -/

/-- The sectors of a slot are erased (R401). -/
def Dev.eraseSlot (d : Dev) (slot : Nat) : Dev := d.cqWipeRange (slotBase slot / 128) (if slot < 2 then 2048 else 256)

/-- The words of a byte list. -/
def wordsOf : Nat → List Byte → List (BitVec 256)
  | 0, _ => []
  | n + 1, b => if b = [] then [] else BitVec.ofNat 256 (ofLe ((b ++ List.replicate 32 0xFF).take 32)) :: wordsOf n (b.drop 32)

/-- A container is programmed into an erased slot. -/
def Dev.progSlot (d : Dev) (slot : Nat) (b : List Byte) : Dev :=
  d.each (wordsOf b.length b).zipIdx (fun d p => d.cqSet (slotBase slot + p.2) p.1)

/-- The highest COMMITNO that the two records of a kind carry. -/
def Dev.topCommit (d : Dev) (slot : Nat) : Nat :=
  if slot < 2 then Nat.max (d.commitOf 0) (d.commitOf 1) else Nat.max (d.commitOf 2) (d.commitOf 3)

/-- A main-domain reset that keeps what the live inputs and clocks show. -/
def Dev.reset1 (d : Dev) (keepDram : Bool) : Dev :=
  let live := d.fld A.CLK_STAT 7 2
  let d := d.mainReset keepDram
  let d := d.setFld A.CLK_STAT 7 2 live
  let d := d.each (List.range 4) (fun d i => d.setBit (A.CLK_PLL i) 0 (decide (live / 2 ^ i % 2 = 1)))
  (d.setBit A.SB_ENUM 0 d.pins.enumIn).onTor (fun t => { t with mainOn := false })

/-- The container in the Controller Memory Buffer: its header, and all of it where the length is in bounds. -/
def Dev.cmbContainer (d : Dev) : List Byte :=
  let h := d.bytes cmbBase 1024
  if leAt h 8 4 ≤ maxLen false then d.bytes cmbBase (Nat.max 1024 (leAt h 8 4)) else h

/-- The host asks the ROM to load the container of the Controller Memory Buffer. -/
def Dev.romLoad (d : Dev) (v : W32) : Dev :=
  if d.tor.pwr ≠ .romRecovery ∨ v ≠ 0x43484354 then d
  else
    let b := d.cmbContainer
    let code := d.reject b false
    if code ≠ 0 then d.onTor (fun t => { t with romCode := code })
    else
      let n := d.topCommit 0 + 1
      let d := ((d.eraseSlot 0).progSlot 0 b).cqSet (recBase 0) (recWordOf actvMagic n)
      (d.reset1 false).onTor (fun t => { t with pwr := .on, romCode := 0 })

def execRomRecoveryLoad (v : W32) (s : State) : Host.Outcome State Fault Refusal := aonDo s (fun d => d.romLoad v)

end Sys2Proof.Machine
end

