-- ==== Sys2Proof/Machine/Clocks.lean ====
section
/-! DEFINITION. Clocks, clock gating and block resets (R316 to R332). -/

namespace Sys2Proof.Machine

/-! Clock source failure and its end. -/

/-- A clock source failure (R320): 1 the crystal, 2 to 5 a PLL. A further one changes nothing more. -/
def Dev.clockFail (d : Dev) (cause : Nat) : Dev :=
  if d.tor.clkFail then d else
  let d := ((d.forceSafe).jobsCut).alarmHw 2
  let d := d.setReg A.CLK_FAIL (2 ^ 31 + cause * 2 ^ 24)
  let d := d.setBit A.TOR_FAULT 0 true
  let d := if cause = 1 then d.setFld A.TOR_STAT 11 0 (2 * 256 + 2)
    else d.setFld A.TOR_STAT 11 0 (3 * 256 + (cause - 1))
  let d := (d.mainOff d.tor.pwr).onTor (fun t => { t with clkFail := true, failTicks := 0 })
  d.alert 0

/-- The firmware checks the seal of every write buffer entry after a failure (R322): whether the
unrefreshed DRAM kept one is open (assumption 2), and a failed one carries poison, but in DUO it is
fetched from the peer's mirror (R174). -/
def sealCheckEntries (free : Nat) : List Entry → List Entry
  | [] => []
  | e :: r =>
    (if Config.freeBool free then
      { e with secs := e.secs.map (fun s => { s with poison := true }) } else e)
      :: sealCheckEntries (free + 1) r

/-- The firmware's actions when the clocks return (R322). -/
def Dev.clockRecovery (d : Dev) : Dev :=
  let d := d.fwPost 0x0100 1 6 ((d.rd A.CLK_FAIL).toNat % 2 ^ 27)
  let n := d.wr.entries.length
  let failed := (List.range n).any (fun i => Config.freeBool (d.free + i))
  let d := if failed && decide (d.fw.role ≠ .duo) then
      ((d.onWr (fun w => { w with entries := sealCheckEntries d.free w.entries })).fwPost 0x0600
        (Config.evCode 3) 6 0).critical 2
    else d
  let d := { d with free := d.free + n }
  let d := d.wr64 A.HEN_PTR (d.rd A.HEN_BASE)
  let d := (if d.fw.alarmed then d.alarmFw 2 else d.alarmLate).pumpZones
  if d.fenceIn && (decide (d.fw.mode = .duo) || (decide (d.fw.mode = .readonly) && decide (d.fw.role = .duo)))
  then d.fencedReturn else d

/-- FAB cycles as OSC16 cycles, saturating in 24 bits (R331). -/
def oscDur (t : Nat) : Nat := Nat.min (t / 100) 0xFFFFFF

/-- FAB cycles as X32K ticks. -/
def x32kTicks (t : Nat) : Nat := t * 32768 / 1600000000

/-- The main clocks restart (R321): pins released, FAULT_N released, CAIRN_TIME advanced. -/
def Dev.clockRestart (d : Dev) : Dev :=
  let d := d.setFld A.CLK_FAIL 23 0 (oscDur d.tor.failTicks)
  let d := d.releasePins
  let d := d.setFld A.TOR_STAT 11 0 0
  let d := { d with tick := d.tick + d.tor.failTicks }
  let on := decide (d.tor.pwr = .on)
  let d := d.onTor (fun t => { t with clkFail := false, failTicks := 0, mainOn := on })
  let d := (d.setBit A.CLK_STAT 1 true).irq 0x0100
  if on then d.clockRecovery else d

/-- The seal check at a wake (R338): `bad` names the banks that do not match, `corr` counts the words corrected. -/
def Dev.sealCheck (d : Dev) (bad corr : Nat) : Dev :=
  let mask := d.fld A.PWR_RET_MASK 7 0
  let failed := bad &&& mask
  let d := (d.setReg A.PWR_SEALRES (mask * 256 + failed)).count2 24 corr
  if failed = 0 then d else d.setBit A.TOR_FAULT 4 true

/-- The records of the failed banks (R338). -/
def Dev.sealPosts (d : Dev) : Dev :=
  d.each (List.range 8) (fun d b =>
    if d.bit A.PWR_SEALRES b then d.hwPost 0x0201 0x20 5 b else d)

/-- A sleep ends: its length and the state are recorded, CAIRN_TIME advances (R336, R346). -/
def Dev.sleepEnds (d : Dev) (last : Nat) : Dev :=
  let d := d.setReg A.TOR_STAT 0
  let d := d.setFld A.PWR_STAT 6 4 last
  let d := d.setReg A.PWR_SLEPT (x32kTicks d.tor.failTicks % 2 ^ 48)
  { d with tick := d.tick + d.tor.failTicks }

/-- The firmware restores what it stopped before the sleep, each register with its status (R336, R340). -/
def Dev.resumeBlocks (d : Dev) : Dev :=
  let d := d.each d.fw.sleepRegs (fun d p => d.wr64 p.1 p.2)
  d.onFw (fun f => { f with sleepRegs := [] })

/-- S1 resumes when its PLLs have locked (R343). -/
def Dev.resumeS1 (d : Dev) : Dev :=
  let d := d.sleepEnds 1
  let d := d.onTor (fun t => { t with pwr := .on, saved := .off, mainOn := true, failTicks := 0, ps := 0 })
  ((d.onPins (fun p => { p with ckeLow := false })).resumeBlocks).alarmLate

/-- All four PLLs are locked (R317). -/
def Dev.allLocked (d : Dev) : Bool := decide (d.fld A.CLK_STAT 5 2 = 15)

/-- PLL i locks; `bad` are the banks whose seal does not match, `corr` the words that the check corrects (R318, R321, R338, R343). -/
def Dev.pllLocks (d : Dev) (i : Nat) (bad corr : Nat) : Dev :=
  if d.bit A.CLK_STAT 6 && (d.tor.clkFail || decide (d.tor.pwr = .waking) || decide (d.tor.pwr = .on)) then
    let d := (d.setBit A.CLK_STAT (2 + i) true).setBit (A.CLK_PLL i) 0 true
    let d := if d.tor.pwr = .waking ∧ d.fld A.TOR_STAT 11 8 ≠ 3
      then d.setReg A.TOR_STAT (2 * 4096 + 3 * 256 + 16) else d
    if d.allLocked then
      let d := if d.tor.clkFail then d.clockRestart else d
      if d.tor.pwr = .waking then
        if d.tor.saved = .s1 then d.resumeS1
        else if d.tor.saved = .s2 ∨ d.tor.saved = .s3 then d.sealCheck bad corr
        else d
      else d
    else d
  else d

/-- A count window ends (R318, R319); a crystal more than 10% from nominal, which FAB and CRY follow, is an alarm (R219; assumption 148). -/
def Dev.countWindow (d : Dev) (osc xtal : Nat) : Dev :=
  if !d.tor.osc16 then d else
  let d := (d.setReg A.CLK_XCNT32K osc).setReg A.CLK_XCNT25 xtal
  let was := d.bit A.CLK_STAT 7
  let okO := decide (14844 ≤ osc) && decide (osc ≤ 16406)
  let r32 := if okO then Nat.min 4 (d.tor.x32Run + 1) else 0
  let okX := was && decide (24390 ≤ xtal) && decide (xtal ≤ 24438)
  let r25 := if okX then Nat.min 8 (d.tor.x25Run + 1) else 0
  let d := if d.tor.mainOn && !(decide (21973 ≤ xtal) && decide (xtal ≤ 26855)) then d.alarmSeen 2 else d
  let d := d.onTor (fun t => { t with x32Run := r32, x25Run := r25 })
  let d := if r32 = 4 then d.setBit A.CLK_STAT 7 true else d
  let d := if r25 = 8 then d.setBit A.CLK_STAT 6 true else d
  let d := if d.tor.mainOn && !(decide (24170 ≤ xtal) && decide (xtal ≤ 24658)) then
      (d.setBit A.CLK_STAT 8 true).fwPost 0x0100 3 4 xtal else d
  if d.tor.pwr = .waking then
    if d.bit A.CLK_STAT 6 then
      (if d.fld A.TOR_STAT 11 8 < 3 then d.setReg A.TOR_STAT (2 * 4096 + 3 * 256 + 16) else d)
    else if d.fld A.TOR_STAT 11 8 = 1 then d.setReg A.TOR_STAT (2 * 4096 + 2 * 256 + 16)
    else d
  else d

def execX32kCountWindow (osc xtal : W16) (s : State) : Host.Outcome State Fault Refusal :=
  aonDo s (fun d => d.countWindow osc.toNat xtal.toNat)

/-- No X32K edge for 64 µs (R319). -/
def Dev.x32kLost (d : Dev) : Dev :=
  let d := d.setBit A.CLK_STAT 7 false
  let d := d.onTor (fun t =>
    { t with x32Run := 0, x25Run := if d.bit A.CLK_STAT 6 then t.x25Run else 0 })
  if d.tor.mainOn then d.fwPost 0x0100 4 5 0 else d

def execX32kEdgeTimeout (s : State) : Host.Outcome State Fault Refusal := aonDo s Dev.x32kLost

/-- The crystal stops (R320): a failure where a main clock runs from it. The PLLs have no reference any more, and lock again once it has
returned (R318, R322). -/
def Dev.crystalLost (d : Dev) : Dev :=
  let d := (d.setBit A.CLK_STAT 6 false).onTor (fun t => { t with x25Run := 0 })
  if d.tor.mainOn || decide (d.tor.pwr = .s1) || (decide (d.tor.pwr = .waking) && decide (d.tor.saved = .s1)) then
    (d.clockFail 1).each (List.range 4) (fun d i => (d.setBit A.CLK_STAT (2 + i) false).setBit (A.CLK_PLL i) 0 false)
  else d

def execXtal25MissingEdge (s : State) : Host.Outcome State Fault Refusal := aonDo s Dev.crystalLost

/-- PLL i loses lock (R320). -/
def Dev.pllLost (d : Dev) (i : Nat) : Dev :=
  let d := (d.setBit A.CLK_STAT (2 + i) false).setBit (A.CLK_PLL i) 0 false
  let d := d.setFld (A.CLK_PLL i) 31 16 (d.fld (A.CLK_PLL i) 31 16 + 1)
  if d.tor.mainOn || (decide (d.tor.pwr = .s1 ∨ (d.tor.pwr = .waking ∧ d.tor.saved = .s1)) && decide (i = 1)) then d.clockFail (2 + i) else d

def execPllLossOfLock (i : Fin 4) (s : State) : Host.Outcome State Fault Refusal :=
  aonDo s (fun d => d.pllLost i.val)

/-- Every 100 µs a PLL without lock is restarted (R321): until it reports lock, nothing is seen of it. -/
def execPllRestart (_i : Fin 4) (s : State) : Host.Outcome State Fault Refusal := aonDo s id

/-! Block resets (R328). -/

/-- What a block holds beside its registers, after its reset. With PAIR_OWN go the flash outputs, but on the AS code (R224). -/
def Dev.resetState (d : Dev) (b : Nat) : Dev :=
  match b with
  | 4 => d.onCairn (fun c => { c with fifo := [], wait := [], heldEn := false })
  | 6 => d.onCirque Cirque.cutAll
  | 8 => d.onOx (fun _ => Ox.cold)
  | 9 => d.onCipher (fun c => { Cipher.cold with exports := c.exports })
  | 10 => d.onMules (fun m => { m with spurBud := 12800, spurUsed := [] })
  | 11 =>
    let d := if d.board.code.val = 1 then d else d.floatAll
    d.onPair (fun p => { Pair.cold with split := p.split, paired := p.paired })
  | 12 => d.onPens (fun p => { p with wait := [], c0 := [], spareRd := 0, spareWr := 0, heldEn := [], enNew := [], episode := false })
  | 13 => d.onHost (fun h =>
      { h with
        en := [], rdy := [], sqs := [], cqs := [], aers := [], aenPend := [], stopped := false, winpage := 0x100, rdval := 0, ca := false
        linkUp := false, hregs := [] })
  | 7 => d.onDram (fun m => { Dram.cold with chk := m.chk, raw := m.raw, bad := m.bad })
  | _ => d

/-- The block that serves an address: of its registers, or of the memory that it owns (R20, R323). -/
def serves (a : Nat) : Option Nat :=
  if periBase ≤ a ∧ a < periBase + 0x1000000 then some (blockOf a)
  else if isWindow a then some 6
  else if isZt a then some 10
  else if 0x40000000 ≤ a ∧ a < 0x42000000 then some 13
  else if isDram a then some 7 else none

/-- The block that a request line belongs to (R308). -/
def lineBlock (r : Nat) : Option Nat :=
  match r with
  | 1 => some 6 | 2 => some 9 | 3 => some 13 | 4 => some 11
  | r => if 0x40 ≤ r ∧ r < 0x80 then some (16 + (r - 0x40)) else none

/-- How the reset of a block meets the burst that a channel has next: the address at the block, and whether it is a store
(R329). DESIGN CHOICE (assumption 133): of a port that has no address of its own, the first address of its block's registers. -/
def Dev.oxMeets (d : Dev) (n b : Nat) : Option (Nat × Bool) :=
  let s := d.oxAct n
  let x := d.oxBurst s (d.fld (A.OX_DONE n) 27 0)
  if s.srcMem ∧ serves x.1 = some b then some (x.1, false)
  else if s.dstMem ∧ serves x.2.1 = some b then some (x.2.1, true)
  else if lineBlock s.req = some b then some (periBase + b * 0x10000, !s.portSrc)
  else none

/-- A channel whose burst meets the reset stops in BUSERR with XRESET (R311, R329). -/
def Dev.oxXreset (d : Dev) (n b : Nat) : Dev :=
  match (if h : n < 32 then (d.oxMeets n b).map (fun m => ((⟨n, h⟩ : OxN), m)) else none) with
  | some (c, a, w) =>
    let d := (d.failAccess (.ox c) a w .xreset).onOx (fun o =>
      { o with stopping := o.stopping.filter (· != n), wdraw := o.wdraw.filter (· != n) })
    let d := d.oxIrq n (d.oxAct n).core
    if n ∈ d.ox.flight then d.oxFree else d
  | none => d

/-- Another block than Ox is reset: the burst in flight toward it ends with XRESET, and of PAIR every transfer to its data port
(R252, R329); the requests of the block are gone. -/
def Dev.oxCut (d : Dev) (b : Nat) : Dev :=
  let hit := (List.range 32).filter (fun n => decide (n ∈ d.ox.flight) ||
    (decide (b = 11) && decide (d.oxState n = 1) && decide ((d.oxAct n).req = 4)))
  let d := d.onOx (fun o => { o with lines := o.lines.filter (fun r => decide (lineBlock r ≠ some b)) })
  d.each hit (fun d n => d.oxXreset n b)

/-- A block reset: transfers toward it end, registers to their Reset values, Tor fields kept; a THERM reset leaves the
flash-window flag as it was, and A is 100 for every Mule at once (R353, R356). -/
def Dev.blockReset (d : Dev) (b : Nat) : Dev :=
  let flag := d.fwFlag
  let d := if b = 8 then d else d.oxCut b
  let d := (d.resetBlock b).resetState b
  if b = 3 then
    ((d.setBit A.THERM_STAT 4 flag).each (List.range 64) (fun d ch => d.setCap ch)).issueAllCh
  else d

/-- A reset of Mule ch. -/
def Dev.muleReset (d : Dev) (ch : Nat) : Dev :=
  let d := (d.oxCut (16 + ch)).abortChannels (fun c => c == ch)
  let d := d.onMules (fun m =>
    { m with luns := SMap.keep (fun k => k / 32 != ch) m.luns, heldEn := m.heldEn.filter (· != ch)
             remap := SMap.keep (fun k => k / 2 ^ 16 != ch) m.remap, cls := SMap.keep (fun k => k / 2 ^ 16 != ch) m.cls
             acc := SMap.del m.acc ch, loaded := m.loaded.filter (· != ch) })
  d.resetBlock (16 + ch)

/-- The peripheral block index of a bit of CLK_EN and CLK_BRST (R331). -/
def clkBlock (n : Nat) : Nat :=
  match n with
  | 0 => 4 | 1 => 5 | 2 => 6 | 3 => 7 | 4 => 8 | 5 => 9 | 6 => 10 | 7 => 11 | 8 => 12 | 9 => 13
  | 10 => 14 | _ => 3

/-! Clock enables (R323 to R325). -/

/-- A clock starts; a reset that was held is applied first (R328). -/
def Dev.clockOn (d : Dev) (n : Nat) : Dev :=
  let d := if bitOf d.gate.heldRst n then
    (d.onGate (fun g => { g with heldRst := withBit g.heldRst n false })).blockReset (clkBlock n) else d
  (d.setBit A.CLK_ENSTAT n false).setBit A.CLK_ENSTAT (16 + n) true

def Dev.muleClockOn (d : Dev) (ch : Nat) : Dev :=
  let d := if bitOf d.gate.heldMule ch then
    (d.onGate (fun g => { g with heldMule := withBit g.heldMule ch false })).muleReset ch else d
  (d.setBit A.CLK_DRAIN_MULE ch false).setBit A.CLK_ON_MULE ch true

/-- One enable bit is written (R325). -/
def Dev.setEn (d : Dev) (n : Nat) (v : Bool) : Dev :=
  let was := d.bit A.CLK_EN n
  let d := d.setBit A.CLK_EN n v
  if v && !was then
    if d.bit A.CLK_ENSTAT n then d else d.clockOn n
  else if !v && was then
    (if d.bit A.CLK_ENSTAT (16 + n) then d.setBit A.CLK_ENSTAT n true else d)
  else d

def Dev.setMuleEn (d : Dev) (ch : Nat) (v : Bool) : Dev :=
  let was := d.bit A.CLK_EN_MULE ch
  let d := d.setBit A.CLK_EN_MULE ch v
  if v && !was then
    if d.bit A.CLK_DRAIN_MULE ch then d else d.muleClockOn ch
  else if !v && was then
    (if d.bit A.CLK_ON_MULE ch then d.setBit A.CLK_DRAIN_MULE ch true else d)
  else d

/-- A write to CLK_EN or CLK_EN_MULE (R325). -/
def Dev.clkEn (d : Dev) (mule : Bool) (v : W64) : Dev :=
  if mule then d.each (List.range 64) (fun d ch => d.setMuleEn ch (bitOf v ch))
  else d.each (List.range 11) (fun d n => d.setEn n (bitOf v n))

def execClkEnWrite (mule : Bool) (v : W64) (s : State) : Host.Outcome State Fault Refusal :=
  mainDo s (fun d => d.clkEn mule v)

/-- The block of a clock bit is idle (the table of R325). -/
def Dev.idle (d : Dev) (n : Nat) : Bool :=
  match n with
  | 0 => decide (d.fld A.CAIRN_STAT 1 0 = 0)
  | 1 => decide (d.fld A.HEN_STAT 1 0 = 0)
  | 2 => decide (d.fld A.CIRQUE_STAT 1 0 = 0)
  | 3 => d.pins.ckeLow
  | 4 => decide (d.fld A.OX_GSTAT 1 0 = 0)
  | 5 => (List.range 24).all (fun c => decide (d.fld (A.CIPHER_CORE_STAT c) 1 0 = 0))
  | 6 => decide (d.colStat = 0)
  | 7 => !d.bit A.PAIR_CTL 0 && !d.bit A.PAIR_STAT 2
  | 8 => !d.bit A.PEN_CTL 0 && (List.range 256).all (fun p => !d.bit (A.PEN_STAT p) 1)
  | 9 => !d.host.linkUp
  | _ => true

def Dev.muleIdle (d : Dev) (ch : Nat) : Bool := decide (d.fld (A.MULE_STAT ch) 1 0 = 0)

/-- A shutdown ends: the clock stops, and starts again where an enable was held (R325). -/
def Dev.clockStops (d : Dev) (n : Nat) : Dev :=
  if d.bit A.CLK_ENSTAT n && d.idle n then
    let d := (d.setBit A.CLK_ENSTAT n false).setBit A.CLK_ENSTAT (16 + n) false
    if d.bit A.CLK_EN n then d.clockOn n else d
  else d

def Dev.muleClockStops (d : Dev) (ch : Nat) : Dev :=
  if d.bit A.CLK_DRAIN_MULE ch && d.muleIdle ch then
    let d := (d.setBit A.CLK_DRAIN_MULE ch false).setBit A.CLK_ON_MULE ch false
    if d.bit A.CLK_EN_MULE ch then d.muleClockOn ch else d
  else d

def execBlockClockStop (b : ClkBlk) (s : State) : Host.Outcome State Fault Refusal :=
  mainDo s (fun d => match b with
    | .blk n => d.clockStops n.val
    | .mule ch => d.muleClockStops ch.val)

/-- Automatic gating of an enabled block while AGATE is 1 (R324). -/
def Dev.autoGate (d : Dev) (b : ClkBlk) : Dev :=
  if d.bit A.CLK_CTL 0 then
    match b with
    | .blk n => if d.bit A.CLK_ENSTAT (16 + n.val) then
        d.onGate (fun g => { g with auto := withBit g.auto n.val true }) else d
    | .mule ch => if d.bit A.CLK_ON_MULE ch.val then
        d.onGate (fun g => { g with autoMule := withBit g.autoMule ch.val true }) else d
  else d

def execAutoClockGate (b : ClkBlk) (s : State) : Host.Outcome State Fault Refusal :=
  mainDo s (fun d => d.autoGate b)

/-- A request ungates a block that gated itself (R324). -/
def Dev.autoUngate (d : Dev) (b : ClkBlk) : Dev :=
  match b with
  | .blk n => d.onGate (fun g => { g with auto := withBit g.auto n.val false })
  | .mule ch => d.onGate (fun g => { g with autoMule := withBit g.autoMule ch.val false })

def execAutoClockUngate (b : ClkBlk) (s : State) : Host.Outcome State Fault Refusal :=
  mainDo s (fun d => d.autoUngate b)

/-- A write to CLK_BRST or CLK_BRST_MULE: a gated block's reset is held (R328). -/
def Dev.brst (d : Dev) (mule : Bool) (v : W64) : Dev :=
  if mule then
    d.each ((List.range 64).filter (bitOf v)) (fun d ch =>
      if d.bit A.CLK_ON_MULE ch then d.muleReset ch
      else d.onGate (fun g => { g with heldMule := withBit g.heldMule ch true }))
  else
    d.each ((List.range 12).filter (bitOf v)) (fun d n =>
      if n = 11 ∨ d.bit A.CLK_ENSTAT (16 + n) then d.blockReset (clkBlock n)
      else d.onGate (fun g => { g with heldRst := withBit g.heldRst n true }))

def execClkBrst (mule : Bool) (v : W64) (s : State) : Host.Outcome State Fault Refusal :=
  mainDo s (fun d => d.brst mule v)

/-- A control core is reset: its cipher locks are released and its jobs stop with ABORT (R213). -/
def Dev.coreReset (d : Dev) (n : Nat) : Dev :=
  let d := d.onCores (fun c =>
    { syn := SMap.del c.syn n, irqs := c.irqs.filter (fun i => i.1 != n), trap := SMap.del c.trap n })
  d.each (List.range 24) (fun d c =>
    if d.fld (A.CIPHER_LOCK c) 6 0 = n + 1 then
      let d := if d.jobResult c = 1 then (d.jobCut c).setFld (A.CIPHER_JOB_STAT c) 2 0 6 else d
      (d.setReg (A.CIPHER_LOCK c) 0).joinPool c
    else d)

/-- A write to CLK_CORE_RUN: bit 0 ignores a 0; a core whose bit falls is reset (R331). -/
def Dev.coreRun (d : Dev) (v : W16) : Dev :=
  let old := d.rd A.CLK_CORE_RUN
  let d := d.setReg A.CLK_CORE_RUN (v.toNat ||| 1)
  d.each ((List.range 16).filter (fun n => n != 0 && bitOf old n && !v.getLsbD n)) (fun d n => d.coreReset n)

def execClkCoreRunWrite (v : W16) (s : State) : Host.Outcome State Fault Refusal :=
  mainDo s (fun d => d.coreRun v)

end Sys2Proof.Machine
end

