-- ==== Sys2Proof/Machine/Flush.lean ====
section
/-! DEFINITION. The power-loss flush and the events that start it (R149 to R155, R389). -/

namespace Sys2Proof.Machine

/-- A LUN's running or suspended operation is one that op 9 stops (R151): any erase, and on the LUNs of the flush area a
program too. -/
def Dev.flushStops (d : Dev) (ch l : Nat) : Bool :=
  let hit := fun (q : Option QReq) => match q with
    | some r => decide (d.opClass ch r.r.op.val = 2) || (d.flushLun ch l && decide (d.opClass ch r.r.op.val = 1))
    | none => false
  hit (d.lun ch l).run || hit (d.lun ch l).susp

/-- op 9 on those LUNs: what it stops ends with ABORTED (R117, R151). -/
def Dev.flushResets (d : Dev) : Dev :=
  d.each ((d.mules.luns.map Prod.fst).filter (fun k => d.flushStops (k / 32) (k % 32))) (fun d k => d.runOp9 (k / 32) (k % 32))

/-- The entries that the flush writes in its first order: complete, and not held (R150). -/
def Dev.flushOwn (d : Dev) : List Entry := d.wr.entries.filter (fun e => e.complete && !e.held)

/-- The entries of the peer that it writes next: in DUO, until the peer has sent FLUSH_DONE. -/
def Dev.flushMir (d : Dev) : List Mir :=
  if d.fw.role = .duo ∧ ¬ d.pair.peerFlushed then d.wr.mirror.filter (·.complete) else []

/-- A controller flushes nothing while it owns no channel, or stands in INIT with the flush area not yet erased by recovery, or
fenced (R150, R155). -/
def Dev.flushes (d : Dev) : Bool :=
  (decide (d.fw.mode ≠ .init) || (d.fw.replayed && !d.fw.fencedInit)) && decide (d.ownWord ≠ 0)

/-- The flush (R149 to R151): the latch, op 9, FLUSH_BEGIN with the rows of the area, and the own entries, then the peer's, on
their way to it. -/
def Dev.flushStart (d : Dev) : Dev :=
  let d := (d.setLatch).flushResets
  let d := (d.setBit A.PWR_STAT 3 false).onTor (fun t => { t with sleepReq := 0 })
  if d.flushes then
    let own := d.flushOwn
    let mir := d.flushMir
    let d := d.journal (.flushBegin (d.wr.flushRows.map (fun r => rowKey true r.group r.lbn)) own.length mir.length d.wr.bceil)
    d.onWr (fun w => { w with flushArea := own, flushPeer := mir, flushWas := [], flushValid := false })
  else d

/-- PWR latches a power loss while the main domain runs (R149, R389). -/
def Dev.lossLatched (d : Dev) : Dev :=
  let was := d.tor.latch
  let d := (d.setBit A.PWR_STAT 7 true).onTor (fun t => { t with perstFlush := false })
  if was then d else d.flushStart

/-- PWR_LOSS_N falls (R29, R149, R337): in S1 the PLLs restart and the flush begins; in S2 and S3 Tor records it; while
the clocks are stopped by a failure no flush runs (R322). -/
def Dev.pwrLoss (d : Dev) : Dev :=
  let d := d.onPins (fun p => { p with pwrLoss := true })
  match d.tor.pwr with
  | .s1 => if d.tor.clkFail then d else
      ((d.each (List.range 4) (fun d i => (d.setBit A.CLK_STAT (2 + i) true).setBit (A.CLK_PLL i) 0 true)).resumeS1).lossLatched
  | .s2 | .s3 => d.setBit A.TOR_FAULT 3 true
  | .on => if d.tor.mainOn then d.lossLatched else d
  | _ => d

def execPwrLossNAssert (s : State) : Host.Outcome State Fault Refusal := aonDo s Dev.pwrLoss

/-- A main rail out of tolerance for 2 µs in A0, with PWR_LOSS_N high (R389). -/
def execMainRailOutOfTolerance (s : State) : Host.Outcome State Fault Refusal :=
  mainDo s (fun d => if d.pins.pwrLoss then d else d.lossLatched)

/-- The safe state of R151: the Mules disabled, the flash pins deselected and write protected. -/
def Dev.safeState (d : Dev) : Dev :=
  let d := d.each (List.range 64) (fun d ch => (d.setBit (A.MULE_CTL ch) 0 false).setFld (A.MULE_STAT ch) 1 0 0)
  d.onPins (fun p => { p with forced := true })

/-- The parts of entries, as namespace, first LBA and count, that lie at [lo, hi) of the LBAs that they make one after another;
k LBAs stand before them. -/
def rowParts (lo hi : Nat) : Nat → List (Nat × Nat × Nat) → List (Nat × Nat × Nat)
  | _, [] => []
  | k, (x, a, n) :: t =>
    let f := Nat.max k lo
    let g := Nat.min (k + n) hi
    (if f < g then [(x, a + (f - k), g - f)] else []) ++ rowParts lo hi (k + n) t

/-- The headers of the rows that entries fill, 112 LBAs each: the entries of each row and their places (R148). DESIGN CHOICE
(assumption 140): three fields of 8 bytes each for an entry, the namespace index, the LBA and the count. -/
def rowHeaders (l : List (Nat × Nat × Nat)) : List (List Byte) :=
  (List.range (flushRows (l.foldl (fun k e => k + e.2.2) 0))).map (fun r =>
    (rowParts (flushRowLbas * r) (flushRowLbas * (r + 1)) 0 l).flatMap (fun e => leBytes 8 e.1 ++ leBytes 8 e.2.1 ++ leBytes 8 e.2.2))

/-- The row headers of the flush: own rows first, then the peer's (R150). -/
def Dev.flushHeaders (d : Dev) : List (List Byte) :=
  rowHeaders (d.wr.flushArea.map (fun e => (e.nsx, e.lba, e.secs.length))) ++
    rowHeaders (d.wr.flushPeer.map (fun m => (m.m.nsx, m.m.lba, m.secs.length)))

/-- The CRC-32 over all row headers (R146). -/
def Dev.headerCrc (d : Dev) : Nat := crc32 d.flushHeaders.flatten

/-- The header of a row as a sector. DESIGN CHOICE (assumption 140): its seal names namespace index 1,023, the number of the row and
generation 0. -/
def headerSec (b : List Byte) (r : Nat) : Sector :=
  { d := { data := BitVec.ofNat 32768 (ofLe b), md := { guard := 0, app := 0, ref := 0, rest := 0 } }, nsx := 1023, lba := r, gen := 0, poison := false }

/-- The rows of the flush have been programmed: each stands with its header in its first codeword (R148). -/
def Dev.putHeaders (d : Dev) : Dev :=
  d.each d.flushHeaders.zipIdx (fun d x =>
    match d.headerKey x.2 with
    | some k => d.onMedia (fun m => { m with flash := SMap.put m.flash k (headerSec x.1 x.2) })
    | none => d)

/-- After SHUTDOWN the part is off; where main power stands, it resets into INIT, and after PERST_N with DRAM held in
self-refresh (R29, R152, R155). -/
def Dev.afterFlush (d : Dev) : Dev :=
  if d.pins.pwrLoss then ((d.mainOff .off).reset1 false).onPins (fun p => { p with gpio14 := false, gpio15 := false })
  else
    let perst := d.tor.perstFlush
    let d := (d.mainOff .on).reset1 perst
    if perst then d.setBit A.CLK_RSTCAUSE 2 true else d

/-- The last flush program has passed (R150, R151): FLUSH_END with what the rows hold, FLUSH_DONE to the peer, SHUTDOWN, the
safe state. `risen`: PWR_LOSS_N has risen since (R155). -/
def Dev.flushEnds (d : Dev) (risen : Bool) : Dev :=
  if !d.tor.latch then d
  else
    let d := if risen then d.onPins (fun p => { p with pwrLoss := false }) else d
    let d := if d.flushes then
        let own := flushRows (entryLbas d.wr.flushArea)
        let peer := flushRows (mirLbas d.wr.flushPeer)
        let d := ((d.putHeaders).journal (.flushEnd (own + peer) d.headerCrc)).onWr (fun w => { w with flushWas := [own, peer] })
        if d.fw.role = .duo then d.sendFrame .flushDone else d
      else d
    let d := (d.closeRecord).journal (.shutdown (if d.tor.perstFlush then 1 else 0))
    (d.safeState).afterFlush

def execFlushComplete (risen : Bool) (s : State) : Host.Outcome State Fault Refusal := mainDo s (fun d => d.flushEnds risen)

/-- The first n LBAs of entries. -/
def firstLbas : Nat → List Entry → List Entry
  | _, [] => []
  | n, e :: t => if n = 0 then [] else { e with secs := e.secs.take n } :: firstLbas (n - e.secs.length) t

/-- The first n LBAs of mirror entries. -/
def firstMirs : Nat → List Mir → List Mir
  | _, [] => []
  | n, m :: t => if n = 0 then [] else { m with secs := m.secs.take n } :: firstMirs (n - m.secs.length) t

/-- A hardware shutdown ends a flush under way at once: what recovery finds is a number of whole rows (R155). A free value
(assumption 2): how many were written. -/
def Dev.flushCut (d : Dev) : Dev :=
  if d.tor.latch && d.flushes then
    let k := Config.freeNat d.free
    let own := flushRows (entryLbas d.wr.flushArea)
    ((d.onWr (fun w =>
      { w with flushArea := firstLbas (flushRowLbas * k) w.flushArea, flushPeer := firstMirs (flushRowLbas * (k - own)) w.flushPeer })).putHeaders).draw
  else d

/-! PERST_N (R29, R152, R342). -/

/-- PERST_N acts in the running main domain: the flush first, which an earlier flush already is (R152, R155). In ROM
recovery the main domain resets at once. -/
def Dev.perstActs (d : Dev) : Dev :=
  if d.tor.pwr = .romRecovery then
    ((d.reset1 false).onTor (fun t => { t with pwr := .on })).setBit A.CLK_RSTCAUSE 2 true
  else if d.tor.latch then d
  else (d.onTor (fun t => { t with perstFlush := true })).flushStart

/-- PERST_N is asserted: in S1 and S2 it wakes where it is enabled, and acts once the main domain runs. -/
def Dev.perstOn (d : Dev) : Dev :=
  let d := d.onPins (fun p => { p with perst := true })
  match d.tor.pwr with
  | .s1 | .s2 => d.wakeSource 1
  | .on => if d.tor.mainOn then (d.onHost (fun h => { h with linkUp := false })).perstActs else d
  | .romRecovery => d.perstActs
  | _ => d

def execPerstNAssert (s : State) : Host.Outcome State Fault Refusal :=
  aonDo s (fun d => if d.tor.pwr = .off then d else d.perstOn)

/-- What waited on the pins while the main domain stood still acts now (R29, R342, R389). -/
def Dev.pinsAct (d : Dev) : Dev :=
  if d.tor.mainOn && !d.tor.latch then
    if d.pins.pwrLoss then d.lossLatched else if d.pins.perst then d.perstActs else d
  else d

def execPllLock (i : Fin 4) (bad : BitVec 8) (corr : Nat) (s : State) : Host.Outcome State Fault Refusal :=
  aonDo s (fun d =>
    let was := d.tor.mainOn
    let d := d.pllLocks i.val bad.toNat corr
    if was then d else if d.tor.mainOn then (d.issueAllCh).pinsAct else d)

end Sys2Proof.Machine
end

