-- ==== Sys2Proof/Machine/Power.lean ====
section
/-! DEFINITION. Power-on, the sleep states and their wakes, the hardware thermal shutdown (R29, R326, R327, R333 to R345,
R354, R355, R380, R381, R396). -/

namespace Sys2Proof.Machine

/-! Power-on (R326, R380, R381). -/

/-- A register map in which every register, the always-on ones too, is at its reset value, but for the cause and the clock
status of a power-on. -/
def coldRegs : SMap (BitVec 64) := SMap.set regReset (SMap.set regReset [] A.CLK_STAT 0) A.CLK_RSTCAUSE 1

/-- VDD_AON comes up (R381 steps 1 and 2): Tor resets with everything that it keeps, the main domain resets at once, the
rails are switched on and the wake steps begin. -/
def Dev.aonPowerOn (d : Dev) : Dev :=
  let d := (d.mainReset false).clearMem 0x20000000 0x20200000
  let d := { d with regs := coldRegs, tor := { Tor.cold with pwr := .waking, mainOn := false, x32Run := 0, x25Run := 0 } }
  let d := d.each (List.range 4) (fun d i => d.setBit (A.CLK_PLL i) 0 false)
  let d := d.onPins (fun p =>
    { p with gpio14 := true, gpio15 := true, wakeN := false, alertN := false, testGpio := false, forced := true, ckeLow := true
             pwrLoss := false })
  (d.setBit A.SB_ENUM 0 d.pins.enumIn).setReg A.TOR_STAT (2 * 4096 + 1 * 256 + 1 * 16)

def execVddAonPowerOn (s : State) : Host.Outcome State Fault Refusal := aonDo s Dev.aonPowerOn

/-- In S3 the LDO collapses: a power-on of Tor (R341). -/
def execTorBrownOut (s : State) : Host.Outcome State Fault Refusal :=
  aonDo s (fun d => if d.tor.pwr = .s3 then d.aonPowerOn else d)

/-- The wake goes on to the crystals, or to the PLLs where both sources are qualified (R343). -/
def Dev.railsUp (d : Dev) : Dev :=
  if d.fld A.TOR_STAT 11 8 ≤ 1 then
    d.setReg A.TOR_STAT (2 * 4096 + (if d.fld A.CLK_STAT 7 6 = 3 then 3 else 2) * 256 + 1 * 16)
  else d

/-- Every main rail is within tolerance: in a wake its first step is over; otherwise main power comes on, and the part
enters INIT with the Cirque contents (R29, R326). -/
def Dev.mainPower (d : Dev) : Dev :=
  match d.tor.pwr with
  | .s1 | .s2 | .s3 | .wakeFailed | .thermalOff => d
  | .waking =>
    if d.tor.saved = .off then ((d.reset1 false).setBit A.CLK_RSTCAUSE 1 true).railsUp else d.railsUp
  | .on | .off | .romRecovery =>
    let d := ((d.mainOff .waking).reset1 false).onTor (fun t => { t with saved := .off, clkFail := false })
    let d := d.each (List.range 4) (fun d i => (d.setBit A.CLK_STAT (2 + i) false).setBit (A.CLK_PLL i) 0 false)
    let d := d.onPins (fun p => { p with gpio14 := true, gpio15 := true, pwrLoss := false })
    ((d.setBit A.CLK_RSTCAUSE 1 true).setReg A.TOR_STAT 0).railsUp

def execMainPowerOn (s : State) : Host.Outcome State Fault Refusal := aonDo s Dev.mainPower

/-! Entering a sleep state (R335 to R337). -/

/-- The address of a retention bank (R19). -/
def bankBase (b : Nat) : Nat := 0x20000000 + b * 0x40000

/-- PWR seals the selected banks under a new ENTRY_GEN; the others lose power (R338). -/
def Dev.sealBanks (d : Dev) : Dev :=
  let d := d.count A.PWR_ENTRY_GEN 32 1
  let gen := (d.rd A.PWR_ENTRY_GEN).toNat
  d.each (List.range 8) (fun d b =>
    if d.bit A.PWR_RET_MASK b then d.setReg (A.TOR_SEAL b) (gen * 2 ^ 32 + crc32c (d.bytes (bankBase b) 0x40000))
    else d.clearMem (bankBase b) (bankBase b + 0x40000))

/-- PLL i is stopped. -/
def Dev.pllOff (d : Dev) (i : Nat) : Dev := (d.setBit A.CLK_STAT (2 + i) false).setBit (A.CLK_PLL i) 0 false

/-- The part is asleep in a state. -/
def Dev.asleep (d : Dev) (p : Pwr) : Dev :=
  let d := (d.mainOff p).setReg A.TOR_STAT (1 * 4096)
  (d.setFld A.PWR_STAT 3 2 0).onTor (fun t => { t with failTicks := 0, sleepReq := 0 })

/-- The hardware steps after GO (R336): S1 stops three PLLs; S2 seals the banks and drops the main rails; S3 drops
VDD_DDR too; its wake is a full INIT (R33). Other requests enter nothing. -/
def Dev.enterSleep (d : Dev) (req : Nat) : Dev :=
  if req = 1 then
    let d := d.each [0, 2, 3] Dev.pllOff
    (d.onPins (fun p => { p with ckeLow := true })).asleep .s1
  else if req = 2 then
    let d := (d.sealBanks).each (List.range 4) Dev.pllOff
    (d.onPins (fun p => { p with ckeLow := true, gpio15 := false })).asleep .s2
  else if req = 3 then
    let d := ((d.sealBanks).asleep .s3).each (List.range 4) Dev.pllOff
    let d := d.setFld A.CLK_STAT 7 6 0
    let d := d.onTor (fun t => { t with osc16 := false, x32Run := 0, x25Run := 0 })
    d.onPins (fun p => { p with ckeLow := true, gpio14 := false, gpio15 := false })
  else d

/-- The entry completes; a wake that came during it starts at once (R337, R345). -/
def Dev.goSleep (d : Dev) (req : Nat) : Dev :=
  let pend := d.bit A.PWR_STAT 2
  let d := d.enterSleep req
  if pend ∧ (d.tor.pwr = .s1 ∨ d.tor.pwr = .s2 ∨ d.tor.pwr = .s3) then d.startWake d.tor.pwr else d

/-- A write of GO to PWR_CTL (R336); while the flush latch is set no entry runs (R337). -/
def Dev.pwrGo (d : Dev) (req : Nat) : Dev :=
  let d := d.setFld A.PWR_CTL 2 0 req
  if d.tor.latch then d else d.goSleep req

def execPwrCtlGo (req : BitVec 3) (s : State) : Host.Outcome State Fault Refusal :=
  regDo A.PWR_CTL s (fun d => d.pwrGo req.toNat)

/-! The firmware's steps before GO (R335, R336). -/

/-- Keep what some registers hold for the wake. -/
def Dev.saveRegs (d : Dev) (l : List Nat) : Dev :=
  d.onFw (fun f => { f with sleepRegs := f.sleepRegs ++ l.map (fun a => (a, d.rd a)) })

/-- No command is outstanding: none open, none waiting for admission. -/
def Dev.noCommand (d : Dev) : Bool := d.openCmds.isEmpty && d.pens.wait.isEmpty

/-- The Mules are told to stop, once. -/
def Dev.stopMules (d : Dev) : Dev :=
  d.each ((List.range 64).filter (fun ch => d.bit (A.MULE_CTL ch) 0)) (fun d ch =>
    (d.saveRegs [A.MULE_CTL ch, A.MULE_STAT ch]).muleEn ch false)

/-- Every DRAINING is clear. -/
def Dev.quiet (d : Dev) : Bool :=
  decide (d.colStat = 0) && !d.bit A.HEN_STAT 1 && (List.range 64).all (fun ch => !d.bit (A.MULE_STAT ch) 1)

/-- The entry goes on where it may: the buffer is empty for S2 and S3, the Mules have stopped, the resume record of bank 0
stands, for S3 no bank is selected (R339), and GO is written. -/
def Dev.sleepCheck (d : Dev) : Dev :=
  let req := d.tor.sleepReq
  if req = 0 ∨ ¬ d.tor.mainOn ∨ d.tor.latch then d
  else if 2 ≤ req ∧ ¬ (d.wr.entries.isEmpty ∧ d.wr.groups.isEmpty) then d
  else
    let d := d.stopMules
    if !d.quiet then d
    else
      let d := if 2 ≤ req then d.onTor (fun t => { t with resume := some { commitNo := d.fw.commitNo, inBank7 := true } }) else d
      let d := if req = 3 then d.setReg A.PWR_RET_MASK 0 else d
      d.pwrGo req

/-- The firmware begins the entry into S1, S2 or S3: Hen and Col stop, for S2 and S3 admission stops and the buffer drains
to flash. -/
def Dev.sleepBegin (d : Dev) (req : Nat) : Dev :=
  if d.tor.sleepReq ≠ 0 ∨ d.tor.latch then d
  else
    let d := (d.setBit A.PWR_STAT 3 true).onTor (fun t => { t with sleepReq := req })
    let d := d.saveRegs [A.HEN_CTL, A.HEN_STAT, A.COL_CTL, A.COL_STAT]
    let d := (d.henCtl ((BitVec.ofNat 3 (d.rd A.HEN_CTL).toNat) &&& 6)).colEn false
    let d := if 2 ≤ req then ((d.saveRegs [A.PEN_CTL]).setBit A.PEN_CTL 0 false).drainTails else d
    d.sleepCheck

/-- The link has entered L1.2: the firmware enters the selected S1 or S2; PS4 behaves as PS3 until the L2/L3 handshake
(R335). -/
def Dev.l12 (d : Dev) : Dev :=
  if d.maySleep && d.noCommand then
    if d.tor.ps = 2 then d.sleepBegin 1 else if d.tor.ps = 3 ∨ d.tor.ps = 4 then d.sleepBegin 2 else d
  else d

def execLinkL12Entry (s : State) : Host.Outcome State Fault Refusal := mainDo s Dev.l12

/-- PME_Turn_Off and the L2/L3 Ready handshake: PS4 enters S3 (R335). -/
def Dev.pmeOff (d : Dev) : Dev := if d.maySleep && d.noCommand && decide (d.tor.ps = 4) then d.sleepBegin 3 else d

def execPmeTurnOffHandshake (s : State) : Host.Outcome State Fault Refusal := mainDo s Dev.pmeOff

/-- TOR_SLEEP (R366, R367). -/
def Dev.torSleepBody (ps : List Byte) (d : Dev) : Dev × Nat × List Byte :=
  match d.torMainNeeds true with
  | some st => (d, st, [])
  | none =>
    match ps with
    | [b] =>
      if b ≠ 2 ∧ b ≠ 3 then (d, torBadParam, [])
      else if !d.tor.mainOn || !d.maySleep then (d, torRefused, [])
      else (d.sleepBegin b.toNat, torOk, [])
    | _ => (d, torBadLength, [])

def execTorSleep (pec : Bool) (seq : Byte) (ps : List Byte) (s : State) : Host.Outcome State Fault Refusal :=
  aonDo s (fun d => d.torPacket pec 0x03 seq (Dev.torSleepBody ps))

/-! Wakes (R342 to R344). -/

/-- An event that leaves WAKE_FAILED (R344), or that a third thermal trip waits for (R355). -/
def Dev.hostCalls (d : Dev) (n : Nat) : Dev :=
  match d.tor.pwr with
  | .wakeFailed => d.retryWake
  | .thermalOff => if d.tor.waitEv then d.thermalRestart else d
  | _ => d.wakeSource n

/-- WAKE_IN rises. -/
def execWakeInRise (s : State) : Host.Outcome State Fault Refusal :=
  aonDo s (fun d => (d.onPins (fun p => { p with wakeIn := true })).hostCalls 0)

/-- PERST_N is deasserted (R342, R381): WAKE_N is released, the link trains. -/
def Dev.perstOff (d : Dev) : Dev :=
  let d := d.onPins (fun p => { p with perst := false, wakeN := false })
  if d.tor.mainOn then d.onHost (fun h => { h with linkUp := true })
  else match d.tor.pwr with
    | .s3 | .wakeFailed | .thermalOff => d.hostCalls 1
    | _ => d

def execPerstNDeassert (s : State) : Host.Outcome State Fault Refusal := aonDo s Dev.perstOff

/-- The host asserts CLKREQ_N for L1.2 exit. -/
def execClkreqNAssert (s : State) : Host.Outcome State Fault Refusal := aonDo s (fun d => d.wakeSource 3)

/-- PWR_TIMER reaches its count; 0 is off (R346). -/
def execPwrTimerExpiry (s : State) : Host.Outcome State Fault Refusal :=
  aonDo s (fun d => if d.rd A.PWR_TIMER = 0 then d else d.wakeSource 4)

/-- What the pause before a retry undoes (R343): the crystal's counts, or the locks. -/
def Dev.stepPause (d : Dev) (step : Nat) : Dev :=
  if step = 2 then (d.setBit A.CLK_STAT 6 false).onTor (fun t => { t with x25Run := 0 })
  else if step = 3 then d.each (if d.tor.saved = .s1 then [0, 2, 3] else [0, 1, 2, 3]) Dev.pllOff
  else d

/-- A wake step times out: three retries, then WAKE_FAILED. -/
def Dev.stepTimeout (d : Dev) (cause : Nat) : Dev :=
  if d.tor.pwr ≠ .waking then d
  else
    let n := d.fld A.TOR_STAT 7 4
    let d := d.setFld A.TOR_STAT 3 0 cause
    if 4 ≤ n then d.wakeFail
    else (d.setFld A.TOR_STAT 7 4 (n + 1)).stepPause (d.fld A.TOR_STAT 11 8)

def execWakeStepTimeout (cause : BitVec 4) (s : State) : Host.Outcome State Fault Refusal :=
  aonDo s (fun d => d.stepTimeout cause.toNat)

/-! The release of the main reset (R327, R394 to R396). -/

/-- A retention bank has passed the check of this wake (R338). -/
def Dev.bankOk (d : Dev) (b : Nat) : Bool := d.bit A.PWR_SEALRES (8 + b) && !d.bit A.PWR_SEALRES b

/-- Bank 6 has failed: its counters start afresh at the wake (R339). -/
def Dev.countersCheck (d : Dev) : Dev :=
  if d.bankOk 6 then d
  else
    (d.onHost (fun h =>
      { h with hist := [], cnt := [], clearedC4 := (List.range 256).foldl (fun m p => SMap.set (fun _ => 0) m p d.ns) [] })).clearC2

/-- The firmware resumes after S2: it keeps its mode, restores what it stopped, and Hen starts a pass (R33, R339,
R340). -/
def Dev.resumeS2 (d : Dev) : Dev := ((d.countersCheck).resumeBlocks).wr64 A.HEN_PTR (d.rd A.HEN_BASE)

/-- The resume of R396: 1 direct, 2 by a cold load, 0 not at all. -/
def Dev.resumeKind (d : Dev) (regionOk : Bool) : Nat :=
  match d.tor.resume with
  | none => 0
  | some r =>
    match d.candidate with
    | none => 0
    | some s =>
      if !d.bankOk 0 || !d.bankOk 4 || decide (d.commitOf s ≠ r.commitNo) then 0
      else if d.bankOk 7 && regionOk && r.inBank7 then 1
      else if d.slotCode s = 0 then 2 else 0

/-- The record of an image region that fails its seal, as that of its bank, number 7 (R339, R340). -/
def Dev.regionPost (d : Dev) (regionOk : Bool) : Dev := if regionOk then d else d.hwPost 0x0201 0x20 5 7

/-- The ROM tries a resume, and otherwise the wake becomes a full INIT. -/
def Dev.wakeS2 (d : Dev) (regionOk : Bool) : Dev :=
  match d.resumeKind regionOk, d.candidate with
  | 1, some s => (d.putBlock (d.bootBlock s d.fw.trial (0, 0) 1)).resumeS2
  | 2, some s =>
    let f := d.fw
    (((d.romEnter s (0, 0) 2).onFw (fun x => { x with confirmed := f.confirmed })).resumeS2).regionPost regionOk
  | _, _ => ((d.reset1 false).onTor (fun t => { t with mainOn := true })).romFlow

/-- The clocks are qualified and locked (R318, R327). -/
def Dev.clocksGood (d : Dev) : Bool := decide (d.fld A.CLK_STAT 7 2 = 63) && !d.tor.clkFail

/-- The main reset is held and may be released: after a power-on, a reset, or a wake from S2, S3 or a shutdown. -/
def Dev.mayRelease (d : Dev) : Bool :=
  !d.tor.mainOn && d.clocksGood &&
    (decide (d.tor.pwr = .on) || (decide (d.tor.pwr = .waking) && decide (d.tor.saved ≠ .s1)))

/-- The cause that a wake adds (R331). -/
def Dev.wakeCause (d : Dev) : Dev :=
  match d.tor.saved with
  | .s2 | .s3 => (d.setBit A.CLK_RSTCAUSE 4 true)
  | .thermalOff => (d.setBit A.CLK_RSTCAUSE 5 true)
  | _ => d

/-- The main reset is released (R327); `regionOk` is how the seals of the image region check. -/
def Dev.mainRelease (d : Dev) (regionOk : Bool) : Dev :=
  if !d.mayRelease then d
  else
    let from_ := d.tor.saved
    let d := d.wakeCause
    let d := if from_ = .s2 then d.sleepEnds 2 else if from_ = .s3 then d.sleepEnds 3 else d.setReg A.TOR_STAT 0
    let d := (d.releasePins).onTor (fun t => { t with pwr := .on, saved := .off, mainOn := true, failTicks := 0, ps := 0 })
    let d := if from_ = .s3 then (d.reset1 false).onTor (fun t => { t with mainOn := true }) else d
    let d := if from_ = .s2 then d.wakeS2 regionOk else d.romFlow
    let d := d.onHost (fun h => { h with linkUp := !d.pins.perst })
    let d := if from_ = .s2 ∨ from_ = .s3 then d.sealPosts else d
    if d.pins.pwrLoss then d.lossLatched
    else if from_ = .s2 ∧ d.pins.perst then d.pinsAct else d

def execMainResetRelease (regionOk : Bool) (s : State) : Host.Outcome State Fault Refusal :=
  aonDo s (fun d => d.mainRelease regionOk)

/-! The hardware thermal shutdown (R354, R355). -/

/-- A trip (R354): the safe states, the rails off, the latches; nothing of the main domain is kept. -/
def Dev.trip (d : Dev) (sensor : Nat) (temp : W16) : Dev :=
  if d.tor.pwr = .off then d
  else
    let n := Nat.min (d.fld A.THERM_SDINFO 7 0 + 1) 255
    let d := d.setReg A.THERM_SDINFO (temp.toNat * 2 ^ 16 + sensor * 2 ^ 8 + n)
    let d := (((d.flushCut).forceSafe).setBit A.TOR_FAULT 1 true).alert 0
    let d := d.onPins (fun p => { p with gpio14 := false, gpio15 := false, testGpio := false })
    let d := (d.mainOff .thermalOff).reset1 false
    let d := d.each (List.range 4) Dev.pllOff
    d.onTor (fun t =>
      { t with clkFail := false, failTicks := 0, tripSec := 0, waitEv := false, trips := (0 :: t.trips).take 3 })

def execHardwareThermalShutdown (sensor : Fin 8) (temp : W16) (s : State) : Host.Outcome State Fault Refusal :=
  aonDo s (fun d => d.trip sensor.val temp)

/-- FAB cycles in a second. -/
def fabHz : Nat := 1600000000

/-- The last three trips lie within 1 h (R355): ages in FAB cycles, the latest trip first. -/
def thirdTrip (l : List Nat) : Bool :=
  match l with
  | a :: _ :: c :: _ => decide (c - a ≤ 3600 * fabHz)
  | _ => false

/-- Once a second (R355): after 10 s and below 90 °C the part restarts, or after a third trip waits for the host. -/
def Dev.restartCheck (d : Dev) (temp : W16) : Dev :=
  if d.tor.pwr ≠ .thermalOff then d
  else
    let d := d.onTor (fun t => { t with tripSec := t.tripSec + 1, trips := t.trips.map (· + fabHz) })
    if 10 ≤ d.tor.tripSec ∧ signed 16 temp.toNat < 360 then
      if thirdTrip d.tor.trips then d.onTor (fun t => { t with waitEv := true }) else d.thermalRestart
    else d

def execThermalRestartCheck (temp : W16) (s : State) : Host.Outcome State Fault Refusal :=
  aonDo s (fun d => d.restartCheck temp)

end Sys2Proof.Machine
end

