-- ==== Sys2Proof/Machine/RegAccess.lean ====
section
/-! DEFINITION. Register accesses of every kind (R12, R13, R21 to R25): what each register with an effect of its own
does when it is written, what a register reads as, and the clearing of read-to-clear fields. -/

namespace Sys2Proof.Machine

/-! Writes. The address of a block's register is given as its offset there. -/

/-- The index in an array of registers: its first address, stride and length. -/
def ixOf (base st n a : Nat) : Option Nat :=
  if base ≤ a ∧ (a - base) % st = 0 ∧ (a - base) / st < n then some ((a - base) / st) else none

/-- CLK and PWR. -/
def Dev.writeClk (d : Dev) (a : Nat) (v : W64) : Dev :=
  if a = A.CLK_EN then d.clkEn false v
  else if a = A.CLK_EN_MULE then d.clkEn true v
  else if a = A.CLK_BRST then d.brst false v
  else if a = A.CLK_BRST_MULE then d.brst true v
  else if a = A.CLK_CORE_RUN then d.coreRun (v.setWidth 16)
  else if a = A.PWR_CTL then
    if v.getLsbD 3 then d.pwrGo (fldOf v 2 0) else d.plainWrite a v
  else d.plainWrite a v

/-- CAIRN (R302). -/
def Dev.writeCairn (d : Dev) (a : Nat) (v : W64) : Dev :=
  if a = A.CAIRN_CTL then d.cairnEn (v.getLsbD 0)
  else if a = A.CAIRN_POST_CMD then
    d.postGo (d.rd A.CAIRN_POST_HDR) (d.rd (A.CAIRN_POST_PAR 0)) (d.rd (A.CAIRN_POST_PAR 1)) (v.setWidth 32)
  else if a = A.CAIRN_CLR then
    let d := d.plainWrite a v
    if v.getLsbD 31 then d.clearLog (fldOf v 15 0) (d.fld A.CAIRN_CLR_WHO 23 0) else d
  else if a = A.CAIRN_HPAGE then d.onHost (fun h => { h with winpage := v.setWidth 32 &&& 0x1FFFFF })
  else d.plainWrite a v

/-- CIRQUE (R290). In the verify of an OTP program the number of bits to correct is open (assumption 2). -/
def Dev.writeCirque (d : Dev) (a : Nat) (v : W64) : Dev :=
  if a = A.CIRQUE_CTL then
    (if v.getLsbD 1 then d.setBit A.CIRQUE_CTL 1 true else d).cqEn (v.getLsbD 0)
  else if a = A.CIRQUE_PCMD then
    if v.getLsbD 0 then d.cqGo (v.getLsbD 1) else d.plainWrite a v
  else if a = A.CIRQUE_PFIFO then (d.pfifoPush v).oxGrant
  else if a = A.CIRQUE_OTP_CMD then
    let w := d.fld A.CIRQUE_OTP_ADDR 5 0
    if v.getLsbD 0 then d.otpRd w
    else if v.getLsbD 1 then (d.otpProg w (Config.freeNat d.free)).draw
    else d
  else if a = A.CIRQUE_FROW_ADDR then d.frowRd (fldOf v 4 0)
  else match ixOf (A.CIRQUE_ECMD 0) 4 8 a with
    | some b =>
      let d := d.plainWrite a v
      let d := if v.getLsbD 31 then d.cqErase b (fldOf v 26 0) else d
      let d := if v.getLsbD 30 then d.cqSusp b else d
      if v.getLsbD 29 then d.cqResume b 2 else d
    | none => d.plainWrite a v

/-- DRAMC (R171). A timing register is held as the difference from what it was loaded with. -/
def Dev.writeDramc (d : Dev) (a : Nat) (v : W64) : Dev :=
  let d := d.plainWrite a (v ^^^ d.timing a)
  if a = A.DRAMC_ECCTEST ∧ v.getLsbD 0 then
    if fldOf v 2 1 = 1 then d.testWrite else if fldOf v 2 1 = 2 then d.testRead else d
  else d

/-- OX (R305, R313, R315): a write to a shadow register of an armed channel is discarded with SHWR_ERR. -/
def Dev.writeOx (d : Dev) (a : Nat) (v : W64) : Dev :=
  if a = A.OX_CTL then d.oxEn (v.getLsbD 0)
  else if a < A.OX_CFG 0 then d.plainWrite a v
  else
    let n := (a - A.OX_CFG 0) / 0x80
    let o := (a - A.OX_CFG 0) % 0x80
    if o < 0x2C then
      if d.bit (A.OX_STAT n) 9 then d.setBit (A.OX_STAT n) 11 true else d.plainWrite a v
    else if o = 0x2C then
      let d := if v.getLsbD 0 then d.oxArm n else d
      if v.getLsbD 1 then d.oxStopCh n else d
    else d.plainWrite a v

/-- A key operation (R211): OP 0 starts nothing. -/
def Dev.kop (d : Dev) (v : W64) : Dev :=
  let slot := fldOf v 27 16
  let pwk := v.getLsbD 8
  let d := d.setFld A.CIPHER_KOP 27 16 slot
  let d := d.setBit A.CIPHER_KOP 8 pwk
  match fldOf v 3 0 with
  | 0 => d
  | 1 => d.kopGenerate slot
  | 2 => d.kopLoadClear slot
  | 3 => d.kopLoadWrapped slot pwk
  | 4 => d.kopExport slot pwk
  | 5 => d.kopZero slot
  | 6 => d.kopBypass slot
  | n => d.kopBad n

/-- A context operation (R218): OP 0 does nothing. -/
def Dev.ctxop (d : Dev) (c : Nat) (v : W64) : Dev :=
  match fldOf v 3 0 with
  | 0 => d
  | 1 => d.ctxSave c
  | 2 => d.ctxSaveW c
  | 3 => d.ctxTake c (ctxOfWord (d.ctxBuf c 6))
  | 4 => d.ctxTake c (d.ctxOpened c)
  | n => d.ctxBad c n

/-- The registers of a cipher core (R222). -/
def Dev.writeCcore (d : Dev) (who : Reqr) (c o a : Nat) (v : W64) : Dev :=
  match o with
  | 0x00 => d.coreEn c (v.getLsbD 0)
  | 0x08 => d.lockWrite c (fldOf v 6 0) (ownerCode who - 1)
  | 0x0C =>
    let d := d.plainWrite a v
    let d := if v.getLsbD 0 then d.jobGo c else d
    if v.getLsbD 1 then d.jobStop c else d
  | 0x2C => d.ctxop c v
  | _ => d.plainWrite a v

/-- CIPHER (R222). DESIGN CHOICE (assumption 146): PWK is ready once its four words are written, and in an alarm a write of one changes nothing. -/
def Dev.writeCipher (d : Dev) (who : Reqr) (a : Nat) (v : W64) : Dev :=
  if A.CIPHER_CORE_CTL 0 ≤ a then
    d.writeCcore who ((a - A.CIPHER_CORE_CTL 0) / 128) ((a - A.CIPHER_CORE_CTL 0) % 128) a v
  else if a = A.CIPHER_CTL then
    let d := d.plainWrite a v
    (d.setBit A.CIPHER_STAT 0 (v.getLsbD 0)).cipherGo
  else if a = A.CIPHER_ALARM_SET then (if v.getLsbD 0 then d.alarmAll 0 else d)
  else if a = A.CIPHER_KOP then d.kop v
  else match ixOf (A.CIPHER_PWK 0) 8 4 a with
    | some i =>
      if d.cipherAlarmed then d
      else
        let d := d.onCipher (fun c => { c with pwk := SMap.put c.pwk i v })
        d.setBit A.CIPHER_STAT 3 (decide (d.cipher.pwk.length = 4))
    | none =>
      match ixOf (A.CIPHER_KIN 0) 8 11 a with
      | some i => d.onCipher (fun c => { c with kin := SMap.set (fun _ => 0) c.kin i v })
      | none => d.plainWrite a v

/-- PAIR (R253). -/
def Dev.writePair (d : Dev) (a : Nat) (v : W64) : Dev :=
  if a = A.PAIR_CTL then d.pairCtl (v.setWidth 32)
  else if a = A.PAIR_FENCE then d.setFence (v.getLsbD 0)
  else if a = A.PAIR_KICK then (if v.getLsbD 0 then d.kickDog else d)
  else if a = A.PAIR_CLAIM then d.claimCh v
  else if a = A.PAIR_REL then d.relCh v
  else d.plainWrite a v

/-- PEN (R195, R197, R201). -/
def Dev.writePen (d : Dev) (a : Nat) (v : W64) : Dev :=
  match ixOf (A.PEN_PCTL 0) 4 256 a with
  | some p => (d.pctlWrite p (v.getLsbD 1) (v.getLsbD 0)).takeUp 256
  | none =>
    match ixOf (A.PEN_DLOG_CTL 0) 4 256 a with
    | some p =>
      let d := d.dlogEn p (v.getLsbD 0)
      if v.getLsbD 1 then d.dlogSwap p else d
    | none => d.plainWrite a v

/-- SIDEBAND (R370, R372): the alert follows the sources and enables. -/
def Dev.writeSb (d : Dev) (a : Nat) (v : W64) : Dev :=
  let live := d.alertLive
  let d := d.plainWrite a v
  if a = A.SB_CTL then d.setBit A.SB_STAT 0 (v.getLsbD 0)
  else if a = A.SB_ALERTEN ∨ a = A.SB_ALERTSRC then
    if !d.alertLive then d.onPins (fun p => { p with alertN := false })
    else if !live then d.signalAlert
    else d
  else d

/-- The registers that a Mule does not take while ACTIVE or DRAINING (R137): IFCFG, GEOM, SEQMAP, headers and
steps. -/
def seqRegister (o : Nat) : Bool :=
  decide (o = 0x08) || decide (o = 0x0C) || (decide (0x20 ≤ o) && decide (o < 0x30)) ||
    (decide (0x1000 ≤ o) && decide (o < 0x1800)) || decide (0x8000 ≤ o)

/-- MULE[ch] (R137, R138). -/
def Dev.writeMule (d : Dev) (ch o a : Nat) (v : W64) : Dev :=
  if seqRegister o then
    if d.bit (A.MULE_STAT ch) 0 || d.bit (A.MULE_STAT ch) 1 then d.setBit (A.MULE_STAT ch) 2 true
    else d.plainWrite a v
  else if o = 0 then (d.muleEn ch (v.getLsbD 0)).takeUp 256
  else if o = 0x10 then (((d.plainWrite a v).setCap ch).issueCh ch).takeUp 256
  else if o = 0x204 then d.tblWrite ch (v.setWidth 32)
  else match ixOf 0x100 4 32 o with
    | some l => if v.getLsbD 3 then d.restoreLun ch l else d
    | none => d.plainWrite a v

/-- A write of a register by a requester that may make it: the block of R20 decides. While the flush latch is set COL_CTL.EN
stays 0 (R149). -/
def Dev.writeReg (d : Dev) (who : Reqr) (a : Nat) (v : W64) : Dev :=
  match blockOf a with
  | 0 => d.writeClk a v
  | 1 => d.writeClk a v
  | 4 => d.writeCairn a v
  | 5 => if a = A.HEN_CTL then d.henCtl (v.setWidth 3) else d.plainWrite a v
  | 6 => d.writeCirque a v
  | 7 => d.writeDramc a v
  | 8 => d.writeOx a v
  | 9 => d.writeCipher who a v
  | 10 => if a = A.COL_CTL then (d.colEn (v.getLsbD 0 && !d.tor.latch)).setBit A.COL_CTL 1 (v.getLsbD 1) else d.plainWrite a v
  | 11 => d.writePair a v
  | 12 => d.writePen a v
  | 14 => d.writeSb a v
  | n => if 16 ≤ n ∧ n < 80 then d.writeMule (n - 16) (a - A.MULE (n - 16)) a v else d.plainWrite a v

/-- A number of a given size as bytes in memory. -/
def Dev.storeWord (d : Dev) (a : Nat) (v : W64) : Dev := d.storeBytes a (leBytes 8 v.toNat)

/-! Accesses of a host (R26, R27). DESIGN CHOICE (assumption 141): the address of such an access names the BAR in bits [39:32],
0, 2 or 4, or 0xFF for the configuration space, and the offset in bits [31:0]. PRESUMED (assumption 142): the places of the
registers that NVMe and PCIe lay out. -/

/-- HOSTIF answers: its clock runs, and no reset or parity failure of the fabric meets the access (R23, R24, R165). -/
def Dev.hostErr (d : Dev) (hit : Hit) : Option BusErr :=
  if !d.bit A.CLK_ENSTAT 25 then some .gated else if hit = .xreset then some .xreset
  else if hit = .fabric then some .uncorr else none

/-- The address of an access to HOSTIF, in its block of the peripheral region (R20). -/
def hostAddr (off : Nat) : Nat := periBase + 0xD0000 + off % 0x10000

/-- HOSTIF serves a requester: in ROM recovery the physical function alone (R397). -/
def Dev.servesReq (d : Dev) (who : Reqr) : Bool :=
  match who with
  | .host fn => d.servesBar fn.val
  | _ => d.tor.mainOn

/-- Where the byte at an offset of the Cairn window lies in DRAM: slot 2,048 × BASE and on of the log that WINPAGE selects; none
beyond the log's capacity (R300, R301). -/
def Dev.windowAt (d : Dev) (off : Nat) : Option Nat :=
  let l := d.host.winpage.toNat % 65536
  let s := 2048 * (d.host.winpage.toNat / 65536 % 32) + (off - 0x10000) / 32
  if s < logCap l then some ((d.rd A.CAIRN_BASE).toNat + slotOfs l s + off % 32) else none

/-- The first byte of the SR-IOV capability in the configuration space of a physical function, after the ARI capability at 0x100. DESIGN
CHOICE (assumption 142): the spec gives the places of neither. -/
def sriovCap : Nat := 0x140

/-- The virtual functions of a physical function's port (R186, R255). -/
def Dev.vfsOf (d : Dev) (fn : Nat) : List Nat :=
  if d.board.bifurcated then (List.range 127).map (fn + 1 + ·) else (List.range 255).map (1 + ·)

/-- The key of a byte of a function's configuration space among the registers that hosts write. -/
def configKey (fn off : Nat) : Nat := 2 ^ 32 + fn * 65536 + off

/-- A byte of the ARI and SR-IOV capabilities (R186): InitialVFs, TotalVFs, First VF Offset and VF Stride; VF Enable and NumVFs as the host
has written them; no VF Migration. -/
def Dev.sriovByte (d : Dev) (fn off : Nat) : Option Byte :=
  let held := fun (o : Nat) => some (SMap.get memDefault d.host.hregs (configKey fn o))
  if 0x100 ≤ off ∧ off < 0x108 then (leBytes 4 0x1401000E ++ leBytes 4 0)[off - 0x100]?
  else if off < sriovCap then none
  else
    let o := off - sriovCap
    if o < 8 then (leBytes 4 0x00010010 ++ leBytes 4 2)[o]?
    else if o = 8 ∨ o = 9 ∨ o = 0x10 ∨ o = 0x11 then held off
    else if o < 0xC then some 0
    else if o < 0x10 then (leBytes 2 (d.vfsOf fn).length ++ leBytes 2 (d.vfsOf fn).length)[o - 0xC]?
    else if o < 0x14 then (leBytes 2 fn)[o - 0x12]?
    else if o < 0x18 then (leBytes 2 1 ++ leBytes 2 1)[o - 0x14]?
    else none

/-- A byte of the configuration space of a function (R4, R186): Vendor ID, Device ID and Revision ID, and a physical function's
capabilities. -/
def Dev.configByte (d : Dev) (fn off : Nat) : Option Byte :=
  match off with
  | 0 => some 0x5D | 1 => some 0x1C | 2 => some 0x12 | 3 => some 0x97 | 8 => some 0xB0
  | o => if d.isPf fn then d.sriovByte fn o else none

/-- A host writes the configuration space (R186, R195): VF Enable, whose clearing resets the port's virtual functions, and while it is 0
NumVFs. -/
def Dev.configWrite (d : Dev) (fn off : Nat) (v : W64) : Dev :=
  let put := fun (d : Dev) (o x : Nat) => d.onHost (fun h => { h with hregs := SMap.set memDefault h.hregs (configKey fn o) (BitVec.ofNat 8 x) })
  let on := (SMap.get memDefault d.host.hregs (configKey fn (sriovCap + 8))).getLsbD 0
  if !d.isPf fn then d
  else if off = sriovCap + 8 then
    let d := put d off (v.toNat % 256 &&& 0x19)
    if on && !v.getLsbD 0 then d.each (d.vfsOf fn) Dev.flr else d
  else if off = sriovCap + 0x10 ∧ !on ∧ v.toNat % 65536 ≤ (d.vfsOf fn).length then
    put (put d off (v.toNat % 256)) (off + 1) (v.toNat / 256 % 256)
  else d

/-- The bytes of BAR0 that hold what a host writes: CC, AQA, ASQ and ACQ, at the places of NVMe. -/
def isBar0Rw (off : Nat) : Bool := (decide (0x14 ≤ off) && decide (off < 0x18)) || (decide (0x24 ≤ off) && decide (off < 0x38))

/-- A byte with bit 0 as given. -/
def withByteBit (b : Byte) (x : Bool) : Byte := (b &&& 0xFE) ||| (if x then 1 else 0)

/-- A host writes an NVMe register of BAR0 beside CC.EN (R26): the interrupt mask is set at INTMS and cleared at INTMC; ASQ and ACQ have
8 bytes, the others 4. -/
def Dev.writeBar0 (d : Dev) (fn off : Nat) (v : W64) : Dev :=
  let key := fn * 65536
  let put := fun (d : Dev) (o : Nat) (b : Byte) => d.onHost (fun h => { h with hregs := SMap.set memDefault h.hregs (key + o) b })
  if off = 0xC ∨ off = 0x10 then
    d.each (List.range 4) (fun d i =>
      let old := SMap.get memDefault d.host.hregs (key + 0xC + i)
      let x := BitVec.ofNat 8 (v.toNat / 2 ^ (8 * i))
      put d (0xC + i) (if off = 0xC then old ||| x else old &&& ~~~ x))
  else if isBar0Rw off ∧ off % 4 = 0 then
    d.each (List.range (if 0x28 ≤ off ∧ off % 8 = 0 then 8 else 4)) (fun d i => put d (off + i) (BitVec.ofNat 8 (v.toNat / 2 ^ (8 * i))))
  else d

/-- CSTS of a function: RDY, and CFS in ROM recovery (R179, R397); the bits above them are `x`. -/
def Dev.cstsByte (d : Dev) (fn x : Nat) : Byte :=
  BitVec.ofNat 8 ((if fn ∈ d.host.rdy then 1 else 0) + (if d.tor.pwr = .romRecovery then 2 else 0) + x % 64 * 4)

/-- A byte of BAR0 (R26, R27, R256, R257): CAP with MQES, round robin, DSTRD, the page sizes of 4 to 64 KiB and the Controller Memory
Buffer, VS of NVMe 2.0, the interrupt mask, CC, CSTS, AQA, ASQ, ACQ, CMBLOC and CMBSZ in 4 KiB units, and the reserved offsets of a
virtual function; `x` gives the bits of a byte that are open. -/
def Dev.bar0Byte (d : Dev) (fn off x : Nat) : Option Byte :=
  if off = 0 ∨ off = 1 then some 0xFF
  else if off = 2 then some (BitVec.ofNat 8 (x % 2))
  else if off = 4 then some (BitVec.ofNat 8 (x % 16 * 16))
  else if off = 6 then some 0x40
  else if off = 7 then some (BitVec.ofNat 8 (x % 2 + 2 + x / 2 % 64 * 4))
  else if 8 ≤ off ∧ off < 0xC then (leBytes 4 0x20000)[off - 8]?
  else if 0xC ≤ off ∧ off < 0x14 then some (SMap.get memDefault d.host.hregs (fn * 65536 + 0xC + off % 4))
  else if off = 0x14 then some (withByteBit (SMap.get memDefault d.host.hregs (fn * 65536 + off)) (decide (fn ∈ d.host.en)))
  else if off = 0x1C then some (d.cstsByte fn x)
  else if isBar0Rw off then some (SMap.get memDefault d.host.hregs (fn * 65536 + off))
  else if 0x38 ≤ off ∧ off < 0x3C then (leBytes 4 4)[off - 0x38]?
  else if 0x3C ≤ off ∧ off < 0x40 then
    let size := if d.isPf fn then 0x2000000 else match d.penOf fn with | some p => d.cmbSize p | none => 0
    (leBytes 4 (size + 1 + x % 8 * 4))[off - 0x3C]?
  else if !d.isPf fn && decide (0x4008 ≤ off) && decide (off < 0x8000) then some 0
  else none

/-- A byte of BAR2 of a physical function (R26, R28, R301, R397): DEVSTAT, WINPAGE, the reject code, the Cairn window. -/
def Dev.bar2Byte (d : Dev) (off : Nat) : Option Byte :=
  if off < 4 then (leBytes 4 d.devstat)[off]?
  else if 0x100 ≤ off ∧ off < 0x104 then (leBytes 4 d.host.winpage.toNat)[off - 0x100]?
  else if 0x204 ≤ off ∧ off < 0x208 then (leBytes 4 d.tor.romCode)[off - 0x204]?
  else if 0x10000 ≤ off ∧ off < 0x100000 then some (match d.windowAt off with | some a => d.loadByte a | none => 0)
  else none

/-- A byte that a host reads; none where the manual gives it no value. In ROM recovery only the configuration space, CSTS and
the offsets of the recovery are served (R397). -/
def Dev.hostByte (d : Dev) (fn bar off x : Nat) : Option Byte :=
  if bar = 0xFF then d.configByte fn off
  else if d.tor.pwr = .romRecovery then
    (if bar = 0 ∧ off = 0x1C then d.bar0Byte fn off x else if bar = 2 ∧ 0x200 ≤ off ∧ off < 0x208 then d.bar2Byte off else none)
  else if bar = 0 then d.bar0Byte fn off x
  else if bar = 2 ∧ d.isPf fn then d.bar2Byte off
  else none

/-- The bus error of the 8 bytes of the Cairn window from an offset on. -/
def Dev.windowErr (d : Dev) (fn : FnN) (off : Nat) (hit : Hit) : Option (BusErr × Nat) :=
  if 0x10000 ≤ off ∧ off < 0x100000 then
    (List.range 8).findSome? (fun i => (d.windowAt (off + i)).bind (fun a => (d.accessErr (.host fn) a false hit).map (fun e => (e, a))))
  else none

/-- What a read through the Cairn window meets in DRAM is counted (R168). -/
def Dev.windowTouch (d : Dev) (off : Nat) (hit : Hit) : Dev :=
  if 0x10000 ≤ off ∧ off < 0x100000 then
    match d.windowAt off with
    | some a => d.touchRange a 8 hit
    | none => d
  else d

/-- A host reads 8 bytes of a BAR or of the configuration space; of BAR4 the byte at the offset. A free value (assumption 2):
a byte to which the manual gives no value. -/
def Dev.hostRead (d : Dev) (fn : FnN) (bar off : Nat) (hit : Hit) : Dev :=
  if bar = 4 then d.cmbAccess fn.val off none hit
  else match d.hostErr hit with
    | some e => d.failAccess (.host fn) (hostAddr off) false e hit
    | none =>
      match (if bar = 2 ∧ d.isPf fn.val then d.windowErr fn off hit else none) with
      | some (e, a) => d.failAccess (.host fn) a false e hit
      | none =>
        let d := if bar = 2 ∧ d.isPf fn.val then d.windowTouch off hit else d
        let b := (List.range 8).map (fun i =>
          (d.hostByte fn.val bar (off + i) (Config.freeNat (d.free + i))).getD (BitVec.ofNat 8 (Config.freeNat (d.free + i))))
        { d with free := d.free + 8, host := { d.host with rdval := BitVec.ofNat 64 (ofLe b) } }

/-- A completion queue's head doorbell. -/
def Dev.cqHead (d : Dev) (fn cqid head : Nat) : Dev :=
  d.onHost (fun h => { h with cqs := h.cqs.map (fun q => if q.fn = fn ∧ q.cqid = cqid then { q with head := head % Nat.max 1 q.size } else q) })

/-- A host writes to the configuration space or to a BAR: CC, the head doorbells, WINPAGE, the load of ROM recovery; of BAR4 the byte at the offset. A tail
doorbell is the command SQ_TAIL_DOORBELL, which brings the entry with it. -/
def Dev.hostWrite (d : Dev) (fn : FnN) (bar off : Nat) (v : W64) (hit : Hit) : Dev :=
  if bar = 4 then d.cmbAccess fn.val off (some (v.setWidth 8)) hit
  else match d.hostErr hit with
    | some e => d.failAccess (.host fn) (hostAddr off) true e hit
    | none =>
      if bar = 0xFF then d.configWrite fn.val off v
      else if bar = 2 ∧ d.isPf fn.val then
        (if off = 0x100 ∧ d.tor.mainOn then d.winpage fn.val (v.setWidth 32)
         else if off = 0x200 then d.romLoad (v.setWidth 32) else d)
      else if bar = 0 ∧ d.tor.mainOn then
        (if off = 0x14 then (d.writeBar0 fn.val off v).ccEn fn.val (v.getLsbD 0)
         else if off < 0x1000 then d.writeBar0 fn.val off v
         else if 0x1000 ≤ off ∧ off < (if d.isPf fn.val then 0x9000 else 0x4008) ∧ off % 8 = 4 then
           d.cqHead fn.val ((off - 0x1000) / 8) (v.toNat % 65536)
         else d)
      else d

/-- A write by a requester (R12, R21 to R25): to a register, to the memory at the address, or to a BAR (R26, R27). -/
def Dev.writeAccess (d : Dev) (who : Reqr) (a : Nat) (v : W64) (hit : Hit := .none) : Dev :=
  match who with
  | .host fn => d.hostWrite fn (a / 2 ^ 32) (a % 2 ^ 32) v hit
  | _ =>
    match d.accessErr who a true hit with
    | some e => d.failAccess who a true e hit
    | none =>
      let d := d.cacheCount who hit
      if (regAt a).isSome then d.writeReg who a v else (d.sramCorr a hit).storeWord a v

/-- Meanings for an access of a requester: HOSTIF serves hosts, and the main domain the others. -/
def reqDo (who : Reqr) (s : State) (f : Dev → Dev) : Host.Outcome State Fault Refusal :=
  aonDo s (fun d => if d.servesReq who then f d else d)

def execRegisterWrite (who : Reqr) (a : Addr) (v : W64) (hit : Hit) (s : State) : Host.Outcome State Fault Refusal :=
  reqDo who s (fun d => d.writeAccess who a.toNat v hit)

/-! Reads. -/

/-- Registers whose fields follow their sources: what they show beside what is held. -/
def Dev.shownMule (d : Dev) (ch o : Nat) (v : W64) : W64 :=
  if o = 0x04 then withFld (d.muleStat ch) 15 8 (d.busyLuns ch)
  else if o = 0x204 then ((d.tblWord (d.tblCls ch) ch (d.tblIx ch)).setWidth 64)
  else match ixOf 0x100 4 32 o with
    | some l => withFld v 31 16 (d.remRun ch l)
    | none => v

/-- What a register reads as, WO fields apart (R12). -/
def Dev.shown (d : Dev) (a : Nat) : W64 :=
  let v := d.rd a
  if isTiming a then v ^^^ d.timing a
  else if a = A.CAIRN_STAT then withBit v 2 (decide (64 ≤ d.cairn.fifo.length))
  else if a = A.CAIRN_TIME then BitVec.ofNat 64 d.ns
  else if a = A.CAIRN_POST_CMD then withBit v 30 (!d.cairn.wait.isEmpty)
  else if a = A.CAIRN_HPAGE then d.host.winpage.setWidth 64
  else if a = A.CIRQUE_STAT then withBit v 24 d.board.compat
  else if a = A.COL_STAT then BitVec.ofNat 64 d.colStat
  else if a = A.PAIR_STAT then d.pairStat
  else if a = A.SB_STAT then withBit v 2 d.board.sbMode
  else if a = A.SB_PID then BitVec.ofNat 64 d.pid
  else if a = A.SB_ENUM then withBit v 0 d.pins.enumIn
  else if 16 ≤ blockOf a ∧ blockOf a < 80 then d.shownMule (blockOf a - 16) (a - A.MULE (blockOf a - 16)) v
  else v

/-- What a read returns: WO fields read 0. -/
def Dev.readVal (d : Dev) (a : Nat) : W64 :=
  match regAt a with
  | some (r, _) => d.shown a &&& ~~~ (BitVec.ofNat 64 r.wo)
  | none => 0

/-- What a read does beside: RC fields clear, MULE_TBL_DATA steps its index. -/
def Dev.afterRead (d : Dev) (a : Nat) : Dev :=
  match regAt a with
  | some (r, _) =>
    let d := if r.rc = 0 then d else d.wr64 a (d.rd a &&& ~~~ (BitVec.ofNat 64 r.rc))
    if 16 ≤ blockOf a ∧ blockOf a < 80 ∧ a - A.MULE (blockOf a - 16) = 0x204 then d.tblNext (blockOf a - 16) else d
  | none => d

/-- The value that the last access returned. -/
def Dev.setRdval (d : Dev) (v : W64) : Dev := d.onHost (fun h => { h with rdval := v })

/-- A read by a requester (R12, R23 to R25): of a register, of the memory at the address, or of a BAR (R26, R27). -/
def Dev.readAccess (d : Dev) (who : Reqr) (a : Nat) (hit : Hit := .none) : Dev :=
  match who with
  | .host fn => d.hostRead fn (a / 2 ^ 32) (a % 2 ^ 32) hit
  | _ =>
    match d.accessErr who a false hit with
    | some e => d.failAccess who a false e hit
    | none =>
      let d := d.cacheCount who hit
      if (regAt a).isSome then (d.afterRead a).setRdval (d.readVal a)
      else (d.touchRange a 8 hit).setRdval (BitVec.ofNat 64 (ofLe (d.loadBytes a 8)))

/-- A read of BUSERR_SYN by M-mode code on its core returns and clears it (R25). -/
def Dev.readSyn (d : Dev) (who : Reqr) : Dev :=
  match who with
  | .core n true =>
    (d.onCores (fun c => { c with syn := SMap.set (fun _ => 0) c.syn n.val 0 })).setRdval
      (SMap.get (fun _ => 0) d.cores.syn n.val)
  | _ => d

def execReadClearRegister (who : Reqr) (r : RcReg) (hit : Hit) (s : State) : Host.Outcome State Fault Refusal :=
  reqDo who s (fun d => match r with
    | .reg a => d.readAccess who a.toNat hit
    | .busErrSyn => d.readSyn who)

end Sys2Proof.Machine
end

