-- ==== Sys2Proof/Machine/Vendor.lean ====
section
/-! DEFINITION. Vendor admin commands (R259 to R268): CAL_ACCESS, EVENT_ACCESS, MEDIA_POLICY, SERVICE_DIAG, and the
admin commands that NVMe-MI tunnels (R368). -/

namespace Sys2Proof.Machine

/-! The order of checks (R260, R275). -/

/-- A vendor command of physical functions: the function, the form, and INIT. GET actions are taken in INIT. -/
def Dev.vendor (d : Dev) (h : Hdr) (bad get : Bool) (f : Dev → Dev) : Dev :=
  if !d.isPf h.fn.val then d.failCmd h .invalidOpcode
  else if bad then d.failCmd h .invalidField
  else if !get ∧ d.fw.mode = .init then d.failCmd h .modeRefused
  else f d

/-- One that is accepted in SERVICE only (R265, R268). -/
def Dev.inService (d : Dev) (h : Hdr) (bad : Bool) (f : Dev → Dev) : Dev :=
  d.vendor h bad false (fun d => if d.fw.mode ≠ .service then d.failCmd h .modeRefused else f d)

/-! CAL_ACCESS (R265, R285 to R287). The set is 16 segments of 4 KiB. -/

/-- The layout version of INFO: that of the forerunner under the profile (R285). -/
def Dev.calLayout (d : Dev) : Nat := if d.board.compat then 0x0008 else 0x0100

/-- The 16 bytes of INFO. -/
def Dev.calInfoBytes (d : Dev) : List Byte :=
  leBytes 4 65536 ++ leBytes 2 d.calLayout ++ zeros 2 ++ leBytes 4 d.fw.calCommits ++
    [if d.board.compat then 1 else 0, 0, 0, 0]

/-- INFO. -/
def Dev.calInfo (d : Dev) (h : Hdr) (len : Nat) : Dev :=
  d.vendor h (decide (len ≠ 16)) false (fun d => d.reply h d.calInfoBytes)

def execCalInfo (h : Hdr) (len : Nat) (s : State) : Host.Outcome State Fault Refusal :=
  mainDo s (fun d => d.calInfo h len)

/-- The factory row, 1 KiB. -/
def Dev.frowBytes (d : Dev) : List Byte := (List.range 32).flatMap (fun w => leBytes 32 (d.frowShown w).toNat)

/-- Segment i of the set as Cirque holds it. -/
def Dev.calSegment (d : Dev) (i : Nat) : List Byte := d.cqBytes (0x90000 + 128 * i) 4096

/-- A newly measured set (R405): the values are open, the sensor offsets are 0 (assumption 139), and the CRC-32 stands in the last 4
bytes (R287). -/
def measuredSet (k : Nat) : List Byte :=
  let b := leBytes 1024 (Config.freeNat k) ++ zeros 24 ++ leBytes 64484 (Config.freeNat (k + 1))
  b ++ leBytes 4 (crc32 b)

/-- READ: a segment, or under the profile the factory row; in SERVICE with no valid set, a segment of a newly measured
one (R405). DESIGN CHOICE (assumption 139): a READ of segment 0 measures, and the other segments are of the set measured last. -/
def Dev.calRead (d : Dev) (h : Hdr) (seg len : Nat) (factory : Bool) : Dev :=
  let bad := if factory then !(d.board.compat && decide (len = 1024)) else !(decide (len = 4096) && decide (seg < 16))
  d.vendor h bad false (fun d =>
    if factory then d.reply h d.frowBytes
    else if d.fw.mode = .service ∧ d.fw.calValid = false then
      let k := if seg = 0 then d.free else d.fw.measured.getD d.free
      { (d.reply h (((measuredSet k).drop (4096 * seg)).take 4096)).onFw (fun f => { f with measured := some k }) with free := d.free + 2 }
    else d.reply h (d.calSegment seg))

def execCalRead (h : Hdr) (seg len : Nat) (factory : Bool) (s : State) : Host.Outcome State Fault Refusal :=
  mainDo s (fun d => d.calRead h seg len factory)

/-- OPEN. -/
def Dev.calOpen (d : Dev) (h : Hdr) (p0 : W32) : Dev :=
  d.vendor h (decide (p0 ≠ 0x43414C21)) false (fun d =>
    if d.fw.calOpen then d.failCmd h .calSeq
    else (d.onFw (fun f => { f with calOpen := true, calSet := [] })).complete h .success)

def execCalOpen (h : Hdr) (p0 : W32) (s : State) : Host.Outcome State Fault Refusal :=
  mainDo s (fun d => d.calOpen h p0)

/-- WRITE: a segment is staged in hub SRAM. -/
def Dev.calWrite (d : Dev) (h : Hdr) (seg : Nat) (b : List Byte) : Dev :=
  d.vendor h (decide (b.length ≠ 4096) || decide (16 ≤ seg)) false (fun d =>
    if !d.fw.calOpen then d.failCmd h .calSeq
    else (d.onFw (fun f => { f with calSet := SMap.put f.calSet seg (BitVec.ofNat 32768 (ofLe b)) })).complete h .success)

def execCalWrite (h : Hdr) (seg : Nat) (b : List Byte) (s : State) : Host.Outcome State Fault Refusal :=
  mainDo s (fun d => d.calWrite h seg b)

/-- The staged set: all of it, where every segment has been written. -/
def Dev.stagedSet (d : Dev) : Option (List Byte) :=
  if (List.range 16).all (fun i => (SMap.find d.fw.calSet i).isSome) then
    some ((List.range 16).flatMap (fun i => leBytes 4096 (SMap.get (fun _ => (0 : BitVec 32768)) d.fw.calSet i).toNat))
  else none

/-- The set's 16 sectors are erased and the staged set is programmed (R286). -/
def Dev.calProgram (d : Dev) (b : List Byte) : Dev :=
  let d := d.cqWipeRange (0x90000 / 128) 16
  d.each (wordsOf b.length b).zipIdx (fun d p => d.cqSet (0x90000 + p.2) p.1)

/-- COMMIT. -/
def Dev.calCommit (d : Dev) (h : Hdr) (crc : W32) : Dev :=
  d.inService h false (fun d =>
    if !d.fw.calOpen then d.failCmd h .calSeq
    else match d.stagedSet with
      | none => d.failCmd h .calSeq
      | some b =>
        if crc32 b ≠ crc.toNat then d.failCmd h .calSeq
        else
          let d := (d.calProgram b).onFw (fun f => { f with calOpen := false, calSet := [], calCommits := f.calCommits + 1 })
          d.complete h .success)

def execCalCommit (h : Hdr) (crc : W32) (s : State) : Host.Outcome State Fault Refusal :=
  mainDo s (fun d => d.calCommit h crc)

/-- ABANDON. -/
def Dev.calAbandon (d : Dev) (h : Hdr) : Dev :=
  d.vendor h false false (fun d => (d.onFw (fun f => { f with calOpen := false, calSet := [] })).complete h .success)

def execAbandon (h : Hdr) (s : State) : Host.Outcome State Fault Refusal := mainDo s (fun d => d.calAbandon h)

/-! EVENT_ACCESS (R266, R299): every function, on the logs that it may read. -/

/-- INFO. -/
def Dev.eventInfo (d : Dev) (h : Hdr) (l len : Nat) : Dev :=
  if !d.mayRead h.fn.val l ∨ len ≠ 32 then d.failCmd h .invalidField else d.reply h (d.logHeader l 0)

def execEventInfo (h : Hdr) (log len : Nat) (s : State) : Host.Outcome State Fault Refusal :=
  mainDo s (fun d => d.eventInfo h log len)

/-- The records of a log from an index, oldest first, as many as a transfer holds. -/
def Dev.logRecords (d : Dev) (l first len : Nat) : List LogRec := ((Log.ordered l (d.log l)).drop first).take (len / 32)

/-- READ. -/
def Dev.eventRead (d : Dev) (h : Hdr) (l first len : Nat) : Dev :=
  if !d.mayRead h.fn.val l ∨ len % 32 ≠ 0 then d.failCmd h .invalidField
  else
    let rs := d.logRecords l first len
    (d.send h (rs.flatMap recBytes)).complete h .success false rs.length

def execEventRead (h : Hdr) (log first len : Nat) (s : State) : Host.Outcome State Fault Refusal :=
  mainDo s (fun d => d.eventRead h log first len)

/-- CLEAR: the requester of the clear record is the function, with its controller's PAIR_ID (R299). -/
def Dev.eventClear (d : Dev) (h : Hdr) (l : Nat) : Dev :=
  if !d.mayRead h.fn.val l then d.failCmd h .invalidField
  else (d.clearLog l (h.fn.val + (if d.board.pairId then 2 ^ 16 else 0))).complete h .success

def execEventClear (h : Hdr) (log : Nat) (s : State) : Host.Outcome State Fault Refusal :=
  mainDo s (fun d => d.eventClear h log)

/-! MEDIA_POLICY (R267). -/

/-- The 64 bytes of a policy. -/
def policyBytes (p : Policy) : List Byte :=
  leBytes 2 1 ++ leBytes 1 p.days ++ [if p.spurEn then 1 else 0] ++ leBytes 4 p.burstGib ++ leBytes 2 p.thresh ++
    leBytes 1 p.pct ++ leBytes 1 p.win ++ leBytes 2 p.pHold ++ leBytes 2 p.pRun ++ leBytes 1 p.pRd ++ leBytes 1 p.pSusp ++
    leBytes 2 p.eHold ++ leBytes 2 p.eRun ++ leBytes 1 p.eRd ++ leBytes 1 p.eSusp ++ zeros 40

/-- The limits of suspension of one operation class. -/
def limitsOk (hold run rd susp : Nat) : Bool :=
  decide (10 ≤ hold ∧ hold ≤ 1023) && decide (run ≤ 1023) && decide (1 ≤ rd ∧ rd ≤ 15) && decide (susp ≤ 15)

/-- The ranges of R267. -/
def policyOk (p : Policy) : Bool :=
  decide (1 ≤ p.days ∧ p.days ≤ 30) && decide (p.burstGib ≤ Nat.max 8 Config.foldGib) && decide (1 ≤ p.thresh ∧ p.thresh ≤ 65535) &&
    decide (p.pct ≤ 50) && decide (16 ≤ p.win ∧ p.win ≤ 255) && limitsOk p.pHold p.pRun p.pRd p.pSusp &&
    limitsOk p.eHold p.eRun p.eRd p.eSusp

/-- GET. -/
def Dev.policyGet (d : Dev) (h : Hdr) (len : Nat) : Dev :=
  d.vendor h (decide (len ≠ 64)) true (fun d => d.reply h (policyBytes d.media.policy))

def execMediaPolicyGet (h : Hdr) (len : Nat) (s : State) : Host.Outcome State Fault Refusal :=
  mainDo s (fun d => d.policyGet h len)

/-- SET: both controllers of a pair take it. -/
def Dev.policySet (d : Dev) (h : Hdr) (len : Nat) (p : Policy) : Dev :=
  d.vendor h (decide (len ≠ 64) || !policyOk p) false (fun d =>
    let d := if d.fw.role = .duo then (d.sendFrame (.bulk bulkPolicy (.policy p))).onPair (fun x => { x with polNow := true }) else d
    (d.applyPolicy p).complete h .success)

def execMediaPolicySet (h : Hdr) (len : Nat) (p : Policy) (s : State) : Host.Outcome State Fault Refusal :=
  mainDo s (fun d => d.policySet h len p)

/-! SERVICE_DIAG (R268). -/

/-- An access that ends with a bus error: Internal Error, with its code in RES0. -/
def Dev.diagError (d : Dev) (h : Hdr) (who : Reqr) (a : Nat) (write : Bool) (e : BusErr) (hit : Hit := .none) : Dev :=
  (d.failAccess who a write e hit).complete h .internal false e.code

/-- The requester of the register accesses: core 0 in M-mode. -/
def diagCore : Reqr := .core 0 true

/-- REG_READ. -/
def Dev.diagRead (d : Dev) (h : Hdr) (a len : Nat) : Dev :=
  d.inService h (decide (len ≠ 8)) (fun d =>
    match d.accessErr diagCore a false with
    | some e => d.diagError h diagCore a false e
    | none =>
      if (regAt a).isSome then (d.afterRead a).reply h (leBytes 8 (d.readVal a).toNat)
      else (d.touchRange a 8).reply h (d.loadBytes a 8))

def execRegRead (h : Hdr) (a : Addr) (len : Nat) (s : State) : Host.Outcome State Fault Refusal :=
  mainDo s (fun d => d.diagRead h a.toNat len)

/-- REG_WRITE. -/
def Dev.diagWrite (d : Dev) (h : Hdr) (a : Nat) (v : W64) : Dev :=
  d.inService h false (fun d =>
    match d.accessErr diagCore a true with
    | some e => d.diagError h diagCore a true e
    | none => (if (regAt a).isSome then d.writeReg diagCore a v else d.storeWord a v).complete h .success)

def execRegWrite (h : Hdr) (a : Addr) (v : W64) (s : State) : Host.Outcome State Fault Refusal :=
  mainDo s (fun d => d.diagWrite h a.toNat v)

/-- The Ox channel that the firmware uses is its own choice (assumption 2). -/
def Dev.diagOx (d : Dev) : Reqr := .ox ⟨Config.freeNat d.free % 32, by omega⟩

/-- A length that MEM_READ and MEM_WRITE take. -/
def memLenBad (len : Nat) : Bool := decide (len = 0) || decide (len % 4 ≠ 0) || decide (1048576 < len)

/-- MEM_READ. -/
def Dev.diagMemRead (d : Dev) (h : Hdr) (a len : Nat) (hit : Hit) : Dev :=
  d.inService h (memLenBad len) (fun d =>
    let who := d.diagOx
    let d := d.draw
    match d.rangeErr who a len false hit with
    | some (e, x) => d.diagError h who x false e hit
    | none => (d.touchRange a len hit).reply h (d.loadBytes a len))

def execMemRead (h : Hdr) (a : Addr) (len : Nat) (hit : Hit) (s : State) : Host.Outcome State Fault Refusal :=
  mainDo s (fun d => d.diagMemRead h a.toNat len hit)

/-- MEM_WRITE. -/
def Dev.diagMemWrite (d : Dev) (h : Hdr) (a : Nat) (b : List Byte) : Dev :=
  d.inService h (memLenBad b.length) (fun d =>
    let who := d.diagOx
    let d := d.draw
    match d.rangeErr who a b.length true with
    | some (e, x) => d.diagError h who x true e
    | none => (d.storeBytes a b).complete h .success)

def execMemWrite (h : Hdr) (a : Addr) (b : List Byte) (s : State) : Host.Outcome State Fault Refusal :=
  mainDo s (fun d => d.diagMemWrite h a.toNat b)

/-- A number for each Mule result: the manual names the results of R117 and gives them no codes (assumption 8). -/
def MResult.num : MResult → Nat
  | .pass => 0 | .fail => 1 | .uncorr => 2 | .seal => 3 | .poison => 4 | .timeout => 5 | .seqfault => 6 | .eraseTarget => 7
  | .addrRange => 8 | .notOwned => 9 | .tempHold => 10 | .aborted => 11

/-- The logical block that a physical one stands for on a LUN, where one does. -/
def Dev.lbnOf (d : Dev) (ch l pblk : Nat) : Option Nat :=
  if d.pblkOf ch l 0 pblk = pblk ∧ pblk < d.fld (A.MULE_GEOM ch) 21 8 then some pblk
  else (List.range (d.fld (A.MULE_GEOM ch) 21 8)).find? (fun b => decide (d.pblkOf ch l 0 b = pblk))

/-- What turns a FLASH_OP away: it names a physical block, so the block range of MULE_GEOM does not apply. -/
def Dev.flashRefusal (d : Dev) (ch l op : Nat) : Option MResult :=
  if !d.owned ch then some .notOwned
  else if Nat.min 8 (d.fld (A.MULE_GEOM ch) 3 0) * (d.fld (A.MULE_GEOM ch) 5 4 + 1) ≤ l then some .addrRange
  else if d.lunOos ch l then some .timeout
  else if d.isPE ch op && d.fwFlag then some .tempHold
  else none

/-- The request of a FLASH_OP. -/
def Dev.flashReq (d : Dev) (ch : Nat) (l : LunN) (op : Fin 16) (pblk page : Nat) : QReq :=
  d.mkReq ch
    { op := op, lun := l, lbn := (d.lbnOf ch l.val pblk).getD 0, page := page, plane := 0, cw := 0, ncw := 1, rid := 4096,
      deadline := 0, cls := 3, flush := false, spurOk := false, nsx := 0, lba := 0, gen := 0, data := [] }
    (some pblk)

/-- A FLASH_OP may run at once: the LUN is idle, the Mule issues sequences, and the cap leaves room for a program or erase
(R138, R139); op 9 runs on one that is in program, in erase or suspended too (R117). -/
def Dev.flashFree (d : Dev) (ch : Nat) (l : LunN) (op : Fin 16) (q : QReq) : Bool :=
  ((d.lun ch l.val).run.isNone || (decide (op.val = 9) && d.lunPE ch l.val)) && d.muleGoes ch && (!d.isPE ch op.val || d.mayPE ch q)

/-- The sequence of a FLASH_OP on an idle LUN, with what the part shows; a step without a response times out. One on a
block that stands for no logical one leaves the records of mapped blocks alone. -/
def Dev.flashRun (d : Dev) (ch : Nat) (l : LunN) (op : Fin 16) (pblk page : Nat) (rs : List SeqResp) : Dev × MResult :=
  let q := d.flashReq ch l op pblk page
  let mapped := (d.lbnOf ch l.val pblk).isSome
  let keep := d.media
  let d := d.onMules (fun m => { m with nextId := m.nextId + 1 })
  let d := if op.val = 9 then d.resetLun ch l.val q else d.start ch l.val q
  if (d.lun ch l.val).run ≠ some q then (d, .seqfault)
  else
    let e := match d.walkOf ch q rs with | .done r w => (r, w) | .waits w => (.timeout, w)
    let d := d.finishSeq ch l.val e.1 e.2 0
    (if mapped then d else d.onMedia (fun m =>
      { keep with oos := m.oos, oosTimes := m.oosTimes, failedLuns := m.failedLuns, flash := m.flash }), e.1)

/-- The raw page of a physical block in its four planes, 73,728 bytes (R118, R268). A free value (assumption 103): the bytes of a
place that holds no sector. -/
def Dev.rawPage (d : Dev) (ch l pblk page : Nat) (slc : Bool) : List Byte :=
  (List.range 16).flatMap (fun k =>
    match (SMap.find d.media.flash (flashKey ch l pblk page (k / 4) (k % 4))).bind (fun s =>
        (d.media.nss.find? (fun n => n.nsx == s.nsx)).map (fun n => codeword n s slc)) with
    | some b => b
    | none => leBytes 4608 (Config.freeNat (d.free + k)))

/-- FLASH_OP: the Mule's result in RES0, and for a read the raw page. DESIGN CHOICE (assumption 93): one that would have to wait
for its LUN, its Mule or the cap ends with TIMEOUT. -/
def Dev.flashOp (d : Dev) (h : Hdr) (ch : Nat) (l : LunN) (op : Fin 16) (pblk page : Nat) (rs : List SeqResp) : Dev :=
  d.inService h (decide (16384 ≤ pblk) || decide (1024 ≤ page)) (fun d =>
    let r := match d.flashRefusal ch l.val op.val with
      | some x => (d, x)
      | none =>
        if d.flashFree ch l op (d.flashReq ch l op pblk page) then d.flashRun ch l op pblk page rs else (d, .timeout)
    let d := r.1
    let d := if d.opClass ch op.val = 0 ∧ r.2 = .pass then
        let b := d.rawPage ch l.val pblk page (decide (op.val = 4))
        { (d.send h b) with free := d.free + 16 }
      else d
    d.complete h .success false (Config.evCode (200 + r.2.num)))

def execFlashOp (h : Hdr) (ch : Ch) (lun : LunN) (op : Fin 16) (pblk page : Nat) (resp : List SeqResp) (s : State) :
    Host.Outcome State Fault Refusal :=
  mainDo s (fun d => d.flashOp h ch.val lun op pblk page resp)

/-- Admin commands that have not completed: those that wait for the firmware, for a Pen, or for the pair. -/
def Dev.adminWaits (d : Dev) (h : Hdr) : Bool :=
  d.host.fw.any (fun f => decide (f.q = 4096) && f.h != h) || d.pens.done.any (fun c => c.2.h != h) ||
    (match d.pair.req with | some r => r.h.isSome | none => false)

/-- RESET completes, and the device enters INIT with what Cirque holds (R29). -/
def Dev.diagReset (d : Dev) (h : Hdr) : Dev :=
  let d := (d.complete h .success).reset1 false
  (d.onTor (fun t => { t with pwr := .on })).setBit A.CLK_RSTCAUSE 3 true

/-- A RESET that has waited acts once no other admin command is outstanding. -/
def Dev.resetCheck (d : Dev) : Dev :=
  match d.fw.resetReq with
  | some h => if d.adminWaits h then d else d.diagReset h
  | none => d

/-- RESET. -/
def Dev.serviceReset (d : Dev) (h : Hdr) : Dev :=
  d.inService h false (fun d => (d.onFw (fun f => { f with resetReq := some h })).resetCheck)

def execServiceDiagReset (h : Hdr) (s : State) : Host.Outcome State Fault Refusal := mainDo s (fun d => d.serviceReset h)

/-! Admin commands over NVMe-MI (R368): the rights of a physical function. -/

/-- The reply of a tunnelled command: the MI status, the dwords of the completion, the data (assumption 14). -/
def miReply (st : Status) (res0 : Nat) (b : List Byte) : List Byte :=
  zeros 4 ++ leBytes 4 res0 ++ leBytes 4 0 ++ leBytes 4 (st.code * 2 ^ 17) ++ b

/-- What a tunnelled command answers. -/
def Dev.miData (d : Dev) (c : MiAdmin) : List Byte :=
  match c with
  | .identify cns nsid => match d.idData 0 cns nsid with | .ok b => miReply .success 0 b | .error st => miReply st 0 []
  | .getLogPage lid lsi off len =>
    match d.logPage 0 lid 0xFFFFFFFF lsi len with
    | .ok b => if b.length < off then miReply .invalidField 0 [] else miReply .success 0 ((b.drop off).take len)
    | .error st => miReply st 0 []
  | .getFeatures fid =>
    if !featOk fid then miReply .invalidField 0 []
    else if fid = 0x02 then miReply .success d.tor.ps []
    else if fid = 0x07 then miReply .success (d.queueCount 0) []
    else if fid = 0x0E then miReply .success 0 (leBytes 6 d.media.wall ++ [if d.host.tsSet then 2 else 0, 0])
    else miReply .success ((SMap.get (fun _ => 0) d.host.feats (featKey 0 fid 0)).toNat % 2 ^ 32) []
  | .eventInfo l => if d.mayRead 0 l then miReply .success 0 (d.logHeader l 0) else miReply .invalidField 0 []
  | .eventRead l first n =>
    if d.mayRead 0 l then
      let rs := d.logRecords l first (32 * n)
      miReply .success rs.length (rs.flatMap recBytes)
    else miReply .invalidField 0 []
  | .other _ => miReply .invalidOpcode 0 []

def execMiTunnelledAdminCommand (c : MiAdmin) (s : State) : Host.Outcome State Fault Refusal :=
  aonDo s (fun d => d.mctp (fun d => (d.answer (d.miData c)).draw))

end Sys2Proof.Machine
end

