-- ==== Sys2Proof/Machine/Firmware.lean ====
section
/-! DEFINITION. Updating firmware and configuration (R401, R402): Firmware Image Download and Firmware Commit. -/

namespace Sys2Proof.Machine

/-- Bytes of a download take their place in the staged container. -/
def stageBytes (m : SMap Byte) (o : Nat) : List Byte → SMap Byte
  | [] => m
  | b :: t => stageBytes (SMap.set (fun _ => 0) m o b) (o + 1) t

/-- Firmware Image Download: up to the longest container (R390, R401). -/
def Dev.download (d : Dev) (h : Hdr) (off : Nat) (b : List Byte) : Dev :=
  if !d.isPf h.fn.val then d.failCmd h .invalidOpcode
  else if maxLen false < off + b.length then d.failCmd h .invalidField
  else (d.onFw (fun f => { f with dl := stageBytes f.dl off b })).complete h .success

def execFirmwareImageDownload (h : Hdr) (off : Nat) (b : List Byte) (s : State) : Host.Outcome State Fault Refusal :=
  mainDo s (fun d => d.download h off b)

/-- n staged bytes from the first on. -/
def Dev.staged (d : Dev) (n : Nat) : List Byte := (List.range n).map (fun i => SMap.get (fun _ => (0 : Byte)) d.fw.dl i)

/-- The staged container: its header, and all of it where the length is in bounds. -/
def Dev.stagedContainer (d : Dev) (cfg : Bool) : List Byte :=
  let h := d.staged 1024
  if leAt h 8 4 ≤ maxLen cfg then d.staged (Nat.max 1024 (leAt h 8 4)) else h

/-- A slot that no commit may rewrite: the running one, or the configuration slot in use (R401). -/
def Dev.slotInUse (d : Dev) (slot : Nat) : Bool := decide (slot = d.fw.runSlot) || decide (slot = 2 + d.fw.cfgSlot)

/-- Before slot 1 or 2 is erased, the anti-rollback count rises to the SVN of a confirmed running image (R402). What the
words that count are programmed with is open (assumption 2). -/
def Dev.raiseSvn (d : Dev) : Dev :=
  if d.fw.confirmed then
    let svn := leAt (d.cqBytes (slotBase d.fw.runSlot) 1024) 12 1
    d.each ((List.range (Nat.min svn 32)).filter (fun k => (SMap.find d.cirque.otp (16 + k)).isNone)) (fun d k =>
      let x := BitVec.ofNat 256 (Config.freeNat d.free)
      (d.onCirque (fun c => { c with otp := SMap.put c.otp (16 + k) x })).draw)
  else d

/-- The check, the erase and the program of a slot; `act`: with ACTIVATE[0]. -/
def Dev.commitImage (d : Dev) (h : Hdr) (slot : Nat) (act : Bool) (st : Status) : Dev :=
  let cfg := decide (2 ≤ slot)
  let b := d.stagedContainer cfg
  if d.slotInUse slot then d.failCmd h .invalidSlot
  else if d.reject b cfg ≠ 0 then d.failCmd h .invalidImage
  else
    let n := d.topCommit slot + 1
    let d := if cfg then d else d.raiseSvn
    let d := (d.eraseSlot slot).progSlot slot b
    let d := if act then d.cqSet (recBase slot) (recWordOf actvMagic n) else d
    d.failCmd h st

/-- The first ACTIVATE word of a slot that is still erased. -/
def Dev.freeActivate (d : Dev) (slot : Nat) : Option Nat :=
  (List.range 32).find? (fun k => (SMap.find d.cirque.words (recBase slot + k)).isNone)

/-- Action 010b: the slot's next free ACTIVATE word. -/
def Dev.activate (d : Dev) (h : Hdr) (slot : Nat) : Dev :=
  match d.freeActivate slot with
  | some k =>
    if d.reject (d.slotBytes slot) (2 ≤ slot) ≠ 0 then d.failCmd h .invalidImage
    else (d.cqSet (recBase slot + k) (recWordOf actvMagic (d.topCommit slot + 1))).complete h .success
  | none => d.failCmd h .invalidImage

/-- Firmware Commit: slots 1 to 4 are the images A and B and the configurations A and B. -/
def Dev.commit (d : Dev) (h : Hdr) (action slot : Nat) : Dev :=
  if !d.isPf h.fn.val then d.failCmd h .invalidOpcode
  else if 3 < action then d.failCmd h .invalidField
  else if slot = 0 ∨ 4 < slot then d.failCmd h .invalidSlot
  else if action = 0 then d.commitImage h (slot - 1) false .success
  else if action = 1 then d.commitImage h (slot - 1) true .success
  else if action = 2 then d.activate h (slot - 1)
  else d.commitImage h (slot - 1) true .needsReset

def execFirmwareCommit (h : Hdr) (action slot : Nat) (s : State) : Host.Outcome State Fault Refusal :=
  mainDo s (fun d => d.commit h action slot)

end Sys2Proof.Machine
end

