-- ==== Sys2Proof/Machine/PairNs.lean ====
section
/-! DEFINITION. What BULK frames bring (R250): bulk copies, and what crosses the pair about namespaces and queues (R198, R231, R232). -/

namespace Sys2Proof.Machine

/-- A create for this controller's home that the peer's host gave (R231): performed here, and answered. -/
def Dev.carriedCreate (d : Dev) (a : NsArg) : Dev :=
  match (if d.fw.role = .duo then d.nsRoom a d.board.pairId else .error .nsNotReady) with
  | .error st => d.sendFrame (.bulk bulkNs (.nsdone st 0))
  | .ok (x, slot, b) => (d.nsHere a d.board.pairId x slot b).sendFrame (.bulk bulkNs (.nsdone .success (x + 1)))

/-- The peer has performed the oldest create that went to it, or says why not (R231). -/
def Dev.createDone (d : Dev) (st : Status) (nsid : Nat) : Dev :=
  match d.pair.creates with
  | [] => d
  | h :: t =>
    let d := d.onPair (fun p => { p with creates := t })
    if st = .success then d.complete h .success false nsid else d.failCmd h st

/-- Namespaces of the peer's home as the peer has them, or to a fenced controller all (R232, R241): they are known here, with
COL_NS VALID 0, and those that the peer no longer has are not. -/
def Dev.gotNss (d : Dev) (l : List Ns) : Dev :=
  let mine := d.media.nss.filter (fun n => !d.fw.fencedInit && n.home == d.board.pairId)
  let gone := d.media.nss.filter (fun n => !(mine ++ l).any (fun x => x.nsx == n.nsx))
  let d := d.onMedia (fun m => { m with nss := mine ++ l })
  let d := d.each gone (fun d n =>
    let d := d.onMedia (fun m =>
      { m with
        zt := (List.range n.nzones).foldl (fun t i => SMap.set zt0 t (n.base + i) 0) m.zt
        conv := SMap.keep (fun k => k / 2 ^ 40 != n.nsx) m.conv, units := SMap.keep (fun k => k / 2 ^ 21 != n.nsx) m.units
        urow := SMap.keep (fun k => k / 2 ^ 21 != n.nsx) m.urow })
    d.setReg (A.COL_NS n.nsx) 0)
  d.loadAll

/-- The map segments of the peer's last checkpoint, of the LBAs that the map here holds (R147, R233). -/
def Dev.gotCkptMap (d : Dev) (l : List (Nat × Nat)) : Dev :=
  let take := fun (t : SMap ConvEnt) (e : Nat × Nat) => match SMap.find d.media.conv e.1 with
    | some c => SMap.put t e.1 { c with unit := e.2 / 2 ^ 18, ofs := e.2 % 2 ^ 18 }
    | none => SMap.del t e.1
  d.onMedia (fun m => { m with ckptMap := l.foldl take m.ckptMap })

/-- The peer's media policy (R267). Of two that were set on both controllers in one epoch that of PAIR_ID 1 is the later one (R275). -/
def Dev.peerPolicy (d : Dev) (p : Policy) : Dev := if d.board.pairId && d.pair.polNow then d else d.applyPolicy p

/-- BULK (R250): copies in bulk, checkpoint segments, training values, Pen records, entries sent back, pair-log records, keys, namespaces,
queues; bytes wait at Ox's port (R308). -/
def Dev.gotBulk (d : Dev) (b : BulkData) : Dev :=
  match b with
  | .ckpt zt m => (d.onMedia (fun x => { x with ckptZt := zt.foldl (fun t e => SMap.set zt0 t e.1 e.2) x.ckptZt })).gotCkptMap m
  | .desc l => d.gotDescs l
  | .cmap l => d.gotCmap l
  | .entry m x => d.takeBack m x
  | .pairRec p time rep => d.gotPairRec p time rep
  | .policy p => d.peerPolicy p
  | .key slot blob => d.gotKey slot blob
  | .train l => d.onPair (fun p => { p with peerTrain := l.foldl (fun t e => SMap.put t e.1 e.2) [] })
  | .pens l => d.takeRecs l
  | .nss l => d.gotNss l
  | .nscreate a => d.carriedCreate a
  | .nsdone st nsid => d.createDone st nsid
  | .wstate p dst qs => d.each qs (fun d r => d.loadQueue dst p r)
  | .bytes _ => (d.onOx (fun o => if 4 ∈ o.lines then o else { o with lines := o.lines ++ [4] })).oxGrant

def execBulk (f : FrameHdr) (_stream : Byte) (_off : W32) (b : BulkData) (s : State) : Host.Outcome State Fault Refusal :=
  mainDo s (fun d => d.rx f (fun d => d.gotBulk b))

end Sys2Proof.Machine
end

