-- ==== Sys2Proof/Machine/Dispatch.lean ====
section
/-! DEFINITION. The effect of each command: one arm for each constructor, a direct call of its meaning. -/

namespace Sys2Proof.Machine

def exec (i : Instr) (s : State) : Host.Outcome State Fault Refusal :=
  match i with
  | .vddAonPowerOn => Sys2Proof.Machine.execVddAonPowerOn s
  | .mainPowerOn => Sys2Proof.Machine.execMainPowerOn s
  | .mainResetRelease regionOk => Sys2Proof.Machine.execMainResetRelease regionOk s
  | .romRecoveryLoad v => Sys2Proof.Machine.execRomRecoveryLoad v s
  | .perstNAssert => Sys2Proof.Machine.execPerstNAssert s
  | .perstNDeassert => Sys2Proof.Machine.execPerstNDeassert s
  | .pwrLossNAssert => Sys2Proof.Machine.execPwrLossNAssert s
  | .flushComplete risen => Sys2Proof.Machine.execFlushComplete risen s
  | .mainRailOutOfTolerance => Sys2Proof.Machine.execMainRailOutOfTolerance s
  | .torBrownOut => Sys2Proof.Machine.execTorBrownOut s
  | .hardwareThermalShutdown sensor temp => Sys2Proof.Machine.execHardwareThermalShutdown sensor temp s
  | .thermalRestartCheck temp => Sys2Proof.Machine.execThermalRestartCheck temp s
  | .x32kCountWindow osc xtal => Sys2Proof.Machine.execX32kCountWindow osc xtal s
  | .x32kEdgeTimeout => Sys2Proof.Machine.execX32kEdgeTimeout s
  | .xtal25MissingEdge => Sys2Proof.Machine.execXtal25MissingEdge s
  | .pllLossOfLock pll => Sys2Proof.Machine.execPllLossOfLock pll s
  | .pllRestart idx => Sys2Proof.Machine.execPllRestart idx s
  | .pllLock idx bad corr => Sys2Proof.Machine.execPllLock idx bad corr s
  | .clkEnWrite mule v => Sys2Proof.Machine.execClkEnWrite mule v s
  | .blockClockStop b => Sys2Proof.Machine.execBlockClockStop b s
  | .autoClockGate b => Sys2Proof.Machine.execAutoClockGate b s
  | .autoClockUngate b => Sys2Proof.Machine.execAutoClockUngate b s
  | .clkBrst mule v => Sys2Proof.Machine.execClkBrst mule v s
  | .clkCoreRunWrite v => Sys2Proof.Machine.execClkCoreRunWrite v s
  | .pwrCtlGo req => Sys2Proof.Machine.execPwrCtlGo req s
  | .linkL12Entry => Sys2Proof.Machine.execLinkL12Entry s
  | .pmeTurnOffHandshake => Sys2Proof.Machine.execPmeTurnOffHandshake s
  | .wakeInRise => Sys2Proof.Machine.execWakeInRise s
  | .sidebandAddressMatch addr needMain => Sys2Proof.Machine.execSidebandAddressMatch addr needMain s
  | .clkreqNAssert => Sys2Proof.Machine.execClkreqNAssert s
  | .pwrTimerExpiry => Sys2Proof.Machine.execPwrTimerExpiry s
  | .wakeStepTimeout cause => Sys2Proof.Machine.execWakeStepTimeout cause s
  | .junctionConversion j milli => Sys2Proof.Machine.execJunctionConversion j milli s
  | .flashCaseConversion k code milli => Sys2Proof.Machine.execFlashCaseConversion k code milli s
  | .thermCurveWrite hyst idx v => Sys2Proof.Machine.execThermCurveWrite hyst idx v s
  | .torStatus pec seq ps => Sys2Proof.Machine.execTorStatus pec seq ps s
  | .torWake pec seq ps => Sys2Proof.Machine.execTorWake pec seq ps s
  | .torSleep pec seq ps => Sys2Proof.Machine.execTorSleep pec seq ps s
  | .torFaultRead pec seq ps => Sys2Proof.Machine.execTorFaultRead pec seq ps s
  | .torAddrSet pec seq ps => Sys2Proof.Machine.execTorAddrSet pec seq ps s
  | .torChainPass pec seq ps => Sys2Proof.Machine.execTorChainPass pec seq ps s
  | .torTempRead pec seq ps => Sys2Proof.Machine.execTorTempRead pec seq ps s
  | .torEventTail pec seq ps => Sys2Proof.Machine.execTorEventTail pec seq ps s
  | .smbusTimeout => Sys2Proof.Machine.execSmbusTimeout s
  | .alertResponseAddress => Sys2Proof.Machine.execAlertResponseAddress s
  | .enumInChange level => Sys2Proof.Machine.execEnumInChange level s
  | .entdaa da => Sys2Proof.Machine.execEntdaa da s
  | .setdasa da => Sys2Proof.Machine.execSetdasa da s
  | .setaasa => Sys2Proof.Machine.execSetaasa s
  | .setnewda da => Sys2Proof.Machine.execSetnewda da s
  | .rstdaa => Sys2Proof.Machine.execRstdaa s
  | .enec ev => Sys2Proof.Machine.execEnec ev s
  | .disec ev => Sys2Proof.Machine.execDisec ev s
  | .getpid => Sys2Proof.Machine.execGetpid s
  | .getbcr => Sys2Proof.Machine.execGetbcr s
  | .getdcr => Sys2Proof.Machine.execGetdcr s
  | .getstatus => Sys2Proof.Machine.execGetstatus s
  | .getmrl => Sys2Proof.Machine.execGetmrl s
  | .getmwl => Sys2Proof.Machine.execGetmwl s
  | .setmrl n => Sys2Proof.Machine.execSetmrl n s
  | .setmwl n => Sys2Proof.Machine.execSetmwl n s
  | .setEndpointId eid => Sys2Proof.Machine.execSetEndpointId eid s
  | .getEndpointId => Sys2Proof.Machine.execGetEndpointId s
  | .getMctpVersionSupport => Sys2Proof.Machine.execGetMctpVersionSupport s
  | .getMessageTypeSupport => Sys2Proof.Machine.execGetMessageTypeSupport s
  | .readNvmeMiDataStructure ty => Sys2Proof.Machine.execReadNvmeMiDataStructure ty s
  | .nvmSubsystemHealthStatusPoll => Sys2Proof.Machine.execNvmSubsystemHealthStatusPoll s
  | .controllerHealthStatusPoll => Sys2Proof.Machine.execControllerHealthStatusPoll s
  | .configurationGet id => Sys2Proof.Machine.execConfigurationGet id s
  | .configurationSet id v => Sys2Proof.Machine.execConfigurationSet id v s
  | .vpdRead => Sys2Proof.Machine.execVpdRead s
  | .miTunnelledAdminCommand c => Sys2Proof.Machine.execMiTunnelledAdminCommand c s
  | .pairCtlEnWrite v => Sys2Proof.Machine.execPairCtlEnWrite v s
  | .linkTrainingComplete lanes => Sys2Proof.Machine.execLinkTrainingComplete lanes s
  | .linkRetrain => Sys2Proof.Machine.execLinkRetrain s
  | .retrainComplete => Sys2Proof.Machine.execRetrainComplete s
  | .heartbeatSend => Sys2Proof.Machine.execHeartbeatSend s
  | .hb seq devstat occ bceil mseqRx => Sys2Proof.Machine.execHb seq devstat occ bceil mseqRx s
  | .heartbeatWindowMiss => Sys2Proof.Machine.execHeartbeatWindowMiss s
  | .peerAliveInLow => Sys2Proof.Machine.execPeerAliveInLow s
  | .survivorEntry => Sys2Proof.Machine.execSurvivorEntry s
  | .autofenceDelayExpiry => Sys2Proof.Machine.execAutofenceDelayExpiry s
  | .fenceGuardExpiry => Sys2Proof.Machine.execFenceGuardExpiry s
  | .peerFenceInRise => Sys2Proof.Machine.execPeerFenceInRise s
  | .aliveWatchdogExpiry => Sys2Proof.Machine.execAliveWatchdogExpiry s
  | .pairKick => Sys2Proof.Machine.execPairKick s
  | .pairFenceWrite out => Sys2Proof.Machine.execPairFenceWrite out s
  | .splitTimeout => Sys2Proof.Machine.execSplitTimeout s
  | .pairClaimWrite m => Sys2Proof.Machine.execPairClaimWrite m s
  | .pairRelWrite m => Sys2Proof.Machine.execPairRelWrite m s
  | .claim f m => Sys2Proof.Machine.execClaim f m s
  | .grant f m => Sys2Proof.Machine.execGrant f m s
  | .deny f m => Sys2Proof.Machine.execDeny f m s
  | .released f m => Sys2Proof.Machine.execReleased f m s
  | .hello f h => Sys2Proof.Machine.execHello f h s
  | .keyx f pub sig => Sys2Proof.Machine.execKeyx f pub sig s
  | .bceil f mib => Sys2Proof.Machine.execBceil f mib s
  | .flushDone f => Sys2Proof.Machine.execFlushDone f s
  | .restored f ranges => Sys2Proof.Machine.execRestored f ranges s
  | .phase f a => Sys2Proof.Machine.execPhase f a s
  | .pairHandshake recs => Sys2Proof.Machine.execPairHandshake recs s
  | .mhdr f m => Sys2Proof.Machine.execMhdr f m s
  | .mdata f d => Sys2Proof.Machine.execMdata f d s
  | .mend f mseq vmark => Sys2Proof.Machine.execMend f mseq vmark s
  | .mack ackseq mseq => Sys2Proof.Machine.execMack ackseq mseq s
  | .jrec f r => Sys2Proof.Machine.execJrec f r s
  | .zdesc f l => Sys2Proof.Machine.execZdesc f l s
  | .map f l => Sys2Proof.Machine.execMap f l s
  | .bulk f stream off d => Sys2Proof.Machine.execBulk f stream off d s
  | .nak ackseq => Sys2Proof.Machine.execNak ackseq s
  | .replayTimeout => Sys2Proof.Machine.execReplayTimeout s
  | .handbackPhaseEnd => Sys2Proof.Machine.execHandbackPhaseEnd s
  | .peerAbsentTimeout => Sys2Proof.Machine.execPeerAbsentTimeout s
  | .readonlyTemperatureTimeout => Sys2Proof.Machine.execReadonlyTemperatureTimeout s
  | .sqTailDoorbell fn qid tail e => Sys2Proof.Machine.execSqTailDoorbell fn qid tail e s
  | .commandAdmission p wr => Sys2Proof.Machine.execCommandAdmission p wr s
  | .spurRedecision ch l id => Sys2Proof.Machine.execSpurRedecision ch l id s
  | .spurWindowStart => Sys2Proof.Machine.execSpurWindowStart s
  | .read h c bad => Sys2Proof.Machine.execRead h c bad s
  | .write h c d => Sys2Proof.Machine.execWrite h c d s
  | .writeAck id => Sys2Proof.Machine.execWriteAck id s
  | .zoneAppend h c d => Sys2Proof.Machine.execZoneAppend h c d s
  | .writeZeroes h c dealloc => Sys2Proof.Machine.execWriteZeroes h c dealloc s
  | .flush h nsid => Sys2Proof.Machine.execFlush h nsid s
  | .compare h c d bad => Sys2Proof.Machine.execCompare h c d bad s
  | .verify h c bad => Sys2Proof.Machine.execVerify h c bad s
  | .datasetManagement h nsid dealloc ranges => Sys2Proof.Machine.execDatasetManagement h nsid dealloc ranges s
  | .writeUncorrectable h c => Sys2Proof.Machine.execWriteUncorrectable h c s
  | .openZone h z => Sys2Proof.Machine.execOpenZone h z s
  | .closeZone h z => Sys2Proof.Machine.execCloseZone h z s
  | .finishZone h z => Sys2Proof.Machine.execFinishZone h z s
  | .resetZone h z => Sys2Proof.Machine.execResetZone h z s
  | .offlineZone h z => Sys2Proof.Machine.execOfflineZone h z s
  | .reportZones h nsid slba n partialRep => Sys2Proof.Machine.execReportZones h nsid slba n partialRep s
  | .createIoSubmissionQueue h a => Sys2Proof.Machine.execCreateIoSubmissionQueue h a s
  | .createIoCompletionQueue h a => Sys2Proof.Machine.execCreateIoCompletionQueue h a s
  | .deleteIoSubmissionQueue h sqid => Sys2Proof.Machine.execDeleteIoSubmissionQueue h sqid s
  | .deleteIoCompletionQueue h cqid => Sys2Proof.Machine.execDeleteIoCompletionQueue h cqid s
  | .identify h cns nsid => Sys2Proof.Machine.execIdentify h cns nsid s
  | .getLogPage h lid nsid lsi clear rae off len => Sys2Proof.Machine.execGetLogPage h lid nsid lsi clear rae off len s
  | .abort h sqid cid => Sys2Proof.Machine.execAbort h sqid cid s
  | .asynchronousEventRequest h => Sys2Proof.Machine.execAsynchronousEventRequest h s
  | .setFeatures h fid v => Sys2Proof.Machine.execSetFeatures h fid v s
  | .getFeatures h fid => Sys2Proof.Machine.execGetFeatures h fid s
  | .namespaceCreate h a => Sys2Proof.Machine.execNamespaceCreate h a s
  | .namespaceDelete h nsid => Sys2Proof.Machine.execNamespaceDelete h nsid s
  | .namespaceAttachment h attach nsid fns => Sys2Proof.Machine.execNamespaceAttachment h attach nsid fns s
  | .firmwareImageDownload h off b => Sys2Proof.Machine.execFirmwareImageDownload h off b s
  | .firmwareCommit h action slot => Sys2Proof.Machine.execFirmwareCommit h action slot s
  | .formatNvm h nsid ses fmt piType piFirst ext => Sys2Proof.Machine.execFormatNvm h nsid ses fmt piType piFirst ext s
  | .sanitize h act => Sys2Proof.Machine.execSanitize h act s
  | .deviceSelfTest h stc => Sys2Proof.Machine.execDeviceSelfTest h stc s
  | .directiveSend h dtype doper nsid enable => Sys2Proof.Machine.execDirectiveSend h dtype doper nsid enable s
  | .directiveReceive h dtype doper nsid => Sys2Proof.Machine.execDirectiveReceive h dtype doper nsid s
  | .ccEnWrite fn en => Sys2Proof.Machine.execCcEnWrite fn en s
  | .functionLevelReset fn => Sys2Proof.Machine.execFunctionLevelReset fn s
  | .pcieHotReset => Sys2Proof.Machine.execPcieHotReset s
  | .cmbHostAccess fn off wr hit => Sys2Proof.Machine.execCmbHostAccess fn off wr hit s
  | .winpageWrite fn v => Sys2Proof.Machine.execWinpageWrite fn v s
  | .penManageSet h p len r mv => Sys2Proof.Machine.execPenManageSet h p len r mv s
  | .penManageGet h p len => Sys2Proof.Machine.execPenManageGet h p len s
  | .penManageEnable h p => Sys2Proof.Machine.execPenManageEnable h p s
  | .penManageDisable h p => Sys2Proof.Machine.execPenManageDisable h p s
  | .startLog h p len w => Sys2Proof.Machine.execStartLog h p len w s
  | .harvest h p len w => Sys2Proof.Machine.execHarvest h p len w s
  | .quiesce h p => Sys2Proof.Machine.execQuiesce h p s
  | .readState h p len => Sys2Proof.Machine.execReadState h p len s
  | .writeState h p dst pairId qs => Sys2Proof.Machine.execWriteState h p dst pairId qs s
  | .resume h p => Sys2Proof.Machine.execResume h p s
  | .stopLog h p => Sys2Proof.Machine.execStopLog h p s
  | .join h => Sys2Proof.Machine.execJoin h s
  | .release h one => Sys2Proof.Machine.execRelease h one s
  | .handback h => Sys2Proof.Machine.execHandback h s
  | .goSolo h => Sys2Proof.Machine.execGoSolo h s
  | .calInfo h len => Sys2Proof.Machine.execCalInfo h len s
  | .calRead h seg len factory => Sys2Proof.Machine.execCalRead h seg len factory s
  | .calOpen h p0 => Sys2Proof.Machine.execCalOpen h p0 s
  | .calWrite h seg b => Sys2Proof.Machine.execCalWrite h seg b s
  | .calCommit h crc => Sys2Proof.Machine.execCalCommit h crc s
  | .abandon h => Sys2Proof.Machine.execAbandon h s
  | .eventInfo h log len => Sys2Proof.Machine.execEventInfo h log len s
  | .eventRead h log first len => Sys2Proof.Machine.execEventRead h log first len s
  | .eventClear h log => Sys2Proof.Machine.execEventClear h log s
  | .mediaPolicyGet h len => Sys2Proof.Machine.execMediaPolicyGet h len s
  | .mediaPolicySet h len p => Sys2Proof.Machine.execMediaPolicySet h len p s
  | .regRead h a len => Sys2Proof.Machine.execRegRead h a len s
  | .regWrite h a v => Sys2Proof.Machine.execRegWrite h a v s
  | .memRead h a len hit => Sys2Proof.Machine.execMemRead h a len hit s
  | .memWrite h a b => Sys2Proof.Machine.execMemWrite h a b s
  | .flashOp h ch lun op pblk page resp => Sys2Proof.Machine.execFlashOp h ch lun op pblk page resp s
  | .serviceDiagReset h => Sys2Proof.Machine.execServiceDiagReset h s
  | .zoneIdleTimeout nsid zone => Sys2Proof.Machine.execZoneIdleTimeout nsid zone s
  | .ingressInterval => Sys2Proof.Machine.execIngressInterval s
  | .programGroupIssue nsid zone bad => Sys2Proof.Machine.execProgramGroupIssue nsid zone bad s
  | .stripeCompletion nsid zone => Sys2Proof.Machine.execStripeCompletion nsid zone s
  | .folding nsid zone bad => Sys2Proof.Machine.execFolding nsid zone bad s
  | .bufferCeilingRecompute milliV => Sys2Proof.Machine.execBufferCeilingRecompute milliV s
  | .holdupMeasurementStart => Sys2Proof.Machine.execHoldupMeasurementStart s
  | .holdupSample milliV us => Sys2Proof.Machine.execHoldupSample milliV us s
  | .holdupRechargeComplete milliV => Sys2Proof.Machine.execHoldupRechargeComplete milliV s
  | .writeHoldTimeout => Sys2Proof.Machine.execWriteHoldTimeout s
  | .temperatureHoldExpiry id => Sys2Proof.Machine.execTemperatureHoldExpiry id s
  | .muleRequest ch r => Sys2Proof.Machine.execMuleRequest ch r s
  | .parityUnitDelivery ch row slot d => Sys2Proof.Machine.execParityUnitDelivery ch row slot d s
  | .busyTimeout ch l => Sys2Proof.Machine.execBusyTimeout ch l s
  | .muleSequenceEnd ch l resp us => Sys2Proof.Machine.execMuleSequenceEnd ch l resp us s
  | .lunResetRequest ch l => Sys2Proof.Machine.execLunResetRequest ch l s
  | .restore ch l => Sys2Proof.Machine.execRestore ch l s
  | .lunRestoreRetry ch l pass => Sys2Proof.Machine.execLunRestoreRetry ch l pass s
  | .suspensionEnd ch l => Sys2Proof.Machine.execSuspensionEnd ch l s
  | .muleCtlEnWrite ch en => Sys2Proof.Machine.execMuleCtlEnWrite ch en s
  | .muleTblDataWrite ch v => Sys2Proof.Machine.execMuleTblDataWrite ch v s
  | .readReconstruction h bad => Sys2Proof.Machine.execReadReconstruction h bad s
  | .goatPatrolRead group lbn seven best finds => Sys2Proof.Machine.execGoatPatrolRead group lbn seven best finds s
  | .tfSample => Sys2Proof.Machine.execTfSample s
  | .refreshRelocation nsid zone => Sys2Proof.Machine.execRefreshRelocation nsid zone s
  | .garbageCollection nsid => Sys2Proof.Machine.execGarbageCollection nsid s
  | .wearLevelling ch => Sys2Proof.Machine.execWearLevelling ch s
  | .blockRetirement ch l plane lbn => Sys2Proof.Machine.execBlockRetirement ch l plane lbn s
  | .relocationCommit => Sys2Proof.Machine.execRelocationCommit s
  | .checkpoint => Sys2Proof.Machine.execCheckpoint s
  | .recovery sealsOk badRows goneRows badSegs => Sys2Proof.Machine.execRecovery sealsOk badRows goneRows badSegs s
  | .cirqueProgramGo ainc => Sys2Proof.Machine.execCirqueProgramGo ainc s
  | .cirqueProgramEnd corr => Sys2Proof.Machine.execCirqueProgramEnd corr s
  | .pfifoWrite d => Sys2Proof.Machine.execPfifoWrite d s
  | .cirqueEraseGo b addr => Sys2Proof.Machine.execCirqueEraseGo b addr s
  | .cirqueEraseSuspend b => Sys2Proof.Machine.execCirqueEraseSuspend b s
  | .cirqueEraseResume b => Sys2Proof.Machine.execCirqueEraseResume b s
  | .cirqueEraseEnd b fail => Sys2Proof.Machine.execCirqueEraseEnd b fail s
  | .cirqueIdleResume b => Sys2Proof.Machine.execCirqueIdleResume b s
  | .cirqueWindowRead who word corr => Sys2Proof.Machine.execCirqueWindowRead who word corr s
  | .otpRead w => Sys2Proof.Machine.execOtpRead w s
  | .otpProgram w corr => Sys2Proof.Machine.execOtpProgram w corr s
  | .frowRead w => Sys2Proof.Machine.execFrowRead w s
  | .otphide => Sys2Proof.Machine.execOtphide s
  | .cirqueCtlEnWrite en => Sys2Proof.Machine.execCirqueCtlEnWrite en s
  | .oxGo n => Sys2Proof.Machine.execOxGo n s
  | .oxStop n => Sys2Proof.Machine.execOxStop n s
  | .oxCtlEnWrite en => Sys2Proof.Machine.execOxCtlEnWrite en s
  | .oxBurstComplete n err moved hit => Sys2Proof.Machine.execOxBurstComplete n err moved hit s
  | .peripheralRequest line => Sys2Proof.Machine.execPeripheralRequest line s
  | .requestWithdrawal line => Sys2Proof.Machine.execRequestWithdrawal line s
  | .cairnPostGo hdr p0 p1 cmd core => Sys2Proof.Machine.execCairnPostGo hdr p0 p1 cmd core s
  | .hardwarePost p pen => Sys2Proof.Machine.execHardwarePost p pen s
  | .cairnSlotWrite => Sys2Proof.Machine.execCairnSlotWrite s
  | .cairnClrGo log who => Sys2Proof.Machine.execCairnClrGo log who s
  | .cairnCtlEnWrite en => Sys2Proof.Machine.execCairnCtlEnWrite en s
  | .deviceLogRecordClose => Sys2Proof.Machine.execDeviceLogRecordClose s
  | .henCtlEnWrite v => Sys2Proof.Machine.execHenCtlEnWrite v s
  | .henBurst devs ms => Sys2Proof.Machine.execHenBurst devs ms s
  | .dramcEcctestWrite => Sys2Proof.Machine.execDramcEcctestWrite s
  | .dramcEcctestReadraw => Sys2Proof.Machine.execDramcEcctestReadraw s
  | .generate slot => Sys2Proof.Machine.execGenerate slot s
  | .loadClear slot => Sys2Proof.Machine.execLoadClear slot s
  | .loadWrapped slot pwk => Sys2Proof.Machine.execLoadWrapped slot pwk s
  | .exportWrapped slot pwk ecc => Sys2Proof.Machine.execExportWrapped slot pwk ecc s
  | .zero slot => Sys2Proof.Machine.execZero slot s
  | .loadBypass slot => Sys2Proof.Machine.execLoadBypass slot s
  | .kopUndefined op => Sys2Proof.Machine.execKopUndefined op s
  | .saveClear c who => Sys2Proof.Machine.execSaveClear c who s
  | .saveWrapped c who => Sys2Proof.Machine.execSaveWrapped c who s
  | .restoreClear c who => Sys2Proof.Machine.execRestoreClear c who s
  | .restoreWrapped c who => Sys2Proof.Machine.execRestoreWrapped c who s
  | .ctxopUndefined c who op => Sys2Proof.Machine.execCtxopUndefined c who op s
  | .cipherJobGo c who ecc => Sys2Proof.Machine.execCipherJobGo c who ecc s
  | .cipherJobStop c who => Sys2Proof.Machine.execCipherJobStop c who s
  | .cipherJobEnd c err => Sys2Proof.Machine.execCipherJobEnd c err s
  | .cipherLockWrite c owner who => Sys2Proof.Machine.execCipherLockWrite c owner who s
  | .cipherCoreEnWrite c en => Sys2Proof.Machine.execCipherCoreEnWrite c en s
  | .cipherMessage m ecc => Sys2Proof.Machine.execCipherMessage m ecc s
  | .cipherMessageEnd c => Sys2Proof.Machine.execCipherMessageEnd c s
  | .cipherAlarmSet => Sys2Proof.Machine.execCipherAlarmSet s
  | .vmonAlarm => Sys2Proof.Machine.execVmonAlarm s
  | .debugAlarm => Sys2Proof.Machine.execDebugAlarm s
  | .kwkDerivation eccBad => Sys2Proof.Machine.execKwkDerivation eccBad s
  | .epochBoundary => Sys2Proof.Machine.execEpochBoundary s
  | .breakEpisodeEnd => Sys2Proof.Machine.execBreakEpisodeEnd s
  | .penPctlWrite p quiesce en => Sys2Proof.Machine.execPenPctlWrite p quiesce en s
  | .penDrainEnd p => Sys2Proof.Machine.execPenDrainEnd p s
  | .swap p => Sys2Proof.Machine.execSwap p s
  | .dlogEnWrite p en => Sys2Proof.Machine.execDlogEnWrite p en s
  | .readClearRegister who r hit => Sys2Proof.Machine.execReadClearRegister who r hit s
  | .registerWrite who a v hit => Sys2Proof.Machine.execRegisterWrite who a v hit s
  | .peerFenceInFall => Sys2Proof.Machine.execPeerFenceInFall s
  | .peerAliveInRise => Sys2Proof.Machine.execPeerAliveInRise s
  | .idle ackseq => Sys2Proof.Machine.execIdle ackseq s
  | .frameCrcFailure fec => Sys2Proof.Machine.execFrameCrcFailure fec s
  | .flushAreaDwellExpiry => Sys2Proof.Machine.execFlushAreaDwellExpiry s
  | .timestampWindowExpiry => Sys2Proof.Machine.execTimestampWindowExpiry s
  | .torUndefinedOpcode pec op seq => Sys2Proof.Machine.execTorUndefinedOpcode pec op seq s
  | .unsupportedCommand h why => Sys2Proof.Machine.execUnsupportedCommand h why s

end Sys2Proof.Machine
end

