-- ==== Sys2Proof/Machine/Tick.lean ====
section
/-! DEFINITION. What time alone does (assumption 30): one FAB cycle, which a step takes while no command waits. -/

namespace Sys2Proof.Machine

/-- Time in whole milliseconds at a tick count. -/
def msOf (t : Nat) : Nat := t * 5 / 8 / 1000000

/-- A FAB cycle of the running main domain: the time counters, and what waits for time or for quiet. -/
def Dev.fabCycle (d : Dev) : Dev :=
  let ms := decide (msOf d.tick ≠ msOf (d.tick + 1))
  let d := { d with tick := d.tick + 1 }
  let d := if ms && d.bit A.THERM_STAT 2 then d.count A.THERM_THROT_MS 32 1 else d
  ((d.selfTestTick).sleepCheck).resetCheck

/-- The trips of R355 grow older; while the part is off after one, THERMAL_RESTART_CHECK counts the seconds itself. -/
def Dev.ageTrips (d : Dev) : Dev :=
  if d.tor.pwr = .thermalOff ∨ d.tor.trips = [] then d
  else d.onTor (fun t => { t with trips := t.trips.map (· + 1) })

/-- One FAB cycle, whatever runs. -/
def Dev.advance (d : Dev) : Dev :=
  let d := d.ageTrips
  if d.tor.mainOn then d.fabCycle
  else match d.tor.pwr with
    | .off | .thermalOff => d
    | .romRecovery => { d with tick := d.tick + 1 }
    | _ => d.onTor (fun t => { t with failTicks := t.failTicks + 1 })

/-- What a step does while no command waits. -/
def idleStep (s : State) : Host.Outcome State Fault Refusal := .next { s with dev := s.dev.advance }

end Sys2Proof.Machine
end

