-- ==== Sys2Proof/Safety.lean ====
section
/-! DEFINITION. The terms in which claims are stated: when a command acts, what it leaves alone, and the form that every
reachable state has. -/

namespace Sys2Proof

open Machine

/-- The main domain is powered, clocked and out of reset. -/
def Running (s : State) : Prop := s.dev.tor.mainOn = true

/-- No zone command and no released row waits for reads to end (R46, R144). -/
def NoReadWait (d : Dev) : Prop := d.wr.zwait = [] ∧ d.media.eraseHold = []

/-- No job runs on a cipher core. -/
def NoJob (d : Dev) : Prop := ∀ c, c < 24 → d.jobResult c ≠ 1

/-- Every completion that a Mule gave without a sequence has been taken up. -/
def TakenUp (d : Dev) : Prop := d.mules.fresh = []

/-- M-mode code on a core reaches a register with a store: no bus error of R23. -/
def Reaches (n : CoreN) (a : Nat) (s : State) : Prop := Running s ∧ s.dev.accessErr (.core n true) a true = none

/-- The same for core 0. -/
def Reach (a : Nat) (s : State) : Prop := Reaches 0 a s

/-- The parts of the device beside registers and memory. -/
inductive Part where
  | pins | tor | cores | gate | cirque | ox | cairn | cipher | pens | host | media | wr | mules | pair | dram | fw | tick
  | free
  deriving DecidableEq, Repr

/-- Cirque is the same, but that where a record was journaled sectors of the ring ahead of it may have been erased (R283). -/
def CirqueSame (a b : Dev) : Prop :=
  b.cirque = a.cirque ∨
    (a.media.jseq < b.media.jseq ∧ b.cirque = { a.cirque with words := b.cirque.words, cut := b.cirque.cut } ∧
      (∀ w, ¬ (0x4000 * 128 ≤ w ∧ w < 0x8000 * 128) → SMap.find b.cirque.words w = SMap.find a.cirque.words w) ∧
      (∀ x ∈ b.cirque.cut, x ∈ a.cirque.cut) ∧ ∀ x ∈ a.cirque.cut, ¬ (0x4000 ≤ x ∧ x < 0x8000) → x ∈ b.cirque.cut)

/-- A part is the same in two devices. -/
def Part.same (p : Part) (a b : Dev) : Prop :=
  match p with
  | .pins => b.pins = a.pins
  | .tor => b.tor = a.tor
  | .cores => b.cores = a.cores
  | .gate => b.gate = a.gate
  | .cirque => CirqueSame a b
  | .ox => b.ox = a.ox
  | .cairn => b.cairn = a.cairn
  | .cipher => b.cipher = a.cipher
  | .pens => b.pens = a.pens
  | .host => b.host = a.host
  | .media => b.media = a.media
  | .wr => b.wr = a.wr
  | .mules => b.mules = a.mules
  | .pair => b.pair = a.pair
  | .dram => b.dram = a.dram
  | .fw => b.fw = a.fw
  | .tick => b.tick = a.tick
  | .free => b.free = a.free

/-- The frame: only the listed parts and registers may differ between two devices. Memory and the board are the same. -/
def Frame (parts : List Part) (regs : List Nat) (a b : Dev) : Prop :=
  b.board = a.board ∧ (∀ p, p ∉ parts → p.same a b) ∧ (∀ r, r ∉ regs → b.rd r = a.rd r) ∧ (∀ x, b.byte x = a.byte x)

/-- The same, with the memory of a range left open. -/
def FrameMem (parts : List Part) (regs : List Nat) (lo hi : Nat) (a b : Dev) : Prop :=
  b.board = a.board ∧ (∀ p, p ∉ parts → p.same a b) ∧ (∀ r, r ∉ regs → b.rd r = a.rd r) ∧
    (∀ x, ¬ (lo ≤ x ∧ x < hi) → b.byte x = a.byte x)

/-- The function belongs to no Pen whose host writes are logged (R196). -/
def NotLogging (fn : FnN) (d : Dev) : Prop := ∀ p, d.penOf fn.val = some p → d.bit (A.PEN_DLOG_CTL p) 0 = false

/-- The frame of a command of a function: HOSTIF marks dirty pages in memory where the function's Pen logs them. -/
def FrameHost (fn : FnN) (parts : List Part) (regs : List Nat) (a b : Dev) : Prop :=
  b.board = a.board ∧ (∀ p, p ∉ parts → p.same a b) ∧ (∀ r, r ∉ regs → b.rd r = a.rd r) ∧
    (NotLogging fn a → ∀ x, b.byte x = a.byte x)

/-- The part has sent this to the host, and nothing else. -/
def Sent (a b : Dev) (l : List HostOut) : Prop := b.host.out = a.host.out ++ l

/-- The completion entry of a command with a status and no more. -/
def cqeOf (h : Hdr) (st : Status) : HostOut := .cqe { h := h, st := st, dnr := false, res0 := 0, res1 := 0 }

/-- A firmware post to the device log and its unit log is queued at the end (R292, R295). -/
def Recorded (a b : Dev) (src code sev param : Nat) : Prop :=
  a.cairnOn = true → a.cairn.fifo.length < 64 →
    b.cairn.fifo = a.cairn.fifo ++ [{ post := mkPost src code sev param, time := a.ns, logs := [unitLog (src % 65536), devLog] }]

/-- A clock source failure of a cause has taken effect (R320). -/
def ClockStopped (cause : Nat) (b : Dev) : Prop :=
  b.tor.mainOn = false ∧ b.tor.clkFail = true ∧ b.rd A.CLK_FAIL = BitVec.ofNat 64 (2 ^ 31 + cause * 2 ^ 24) ∧
    b.bit A.TOR_FAULT 0 = true ∧ b.pins.forced = true ∧ b.pins.ckeLow = true ∧ b.faultN = true ∧ b.aliveOut = false

/-- The registers that zeroization writes (R220). -/
def zeroRegs : List Nat :=
  [A.CIPHER_ALARM, A.CIPHER_STAT] ++ (List.range 24).flatMap (fun c =>
    [A.CIPHER_CORE_STAT c, A.CIPHER_LOCK c, A.CIPHER_JOB_STAT c] ++ (List.range 7).map (A.CIPHER_CTXBUF c))

/-- The PLL registers. -/
def pllRegs : List Nat := (List.range 4).map A.CLK_PLL

/-- The main domain was reset: registers at their Reset values but for the always-on bits, flash and Cirque's rows kept. -/
def WasReset (regs : List Nat) (a b : Dev) : Prop :=
  b.board = a.board ∧ (∀ r, r ∉ regs → b.rd r = blockResetVal r (a.rd r)) ∧ b.media.flash = a.media.flash ∧
    b.media.journal = a.media.journal ∧ b.cirque.otp = a.cirque.otp ∧ b.cirque.words = a.cirque.cutAll.words ∧ b.tick = 0

/-- VDD_AON has come up: everything but flash, Cirque and the board is as at power-on, and the first wake step runs
(R326, R341, R381). -/
def AonReset (a b : Dev) : Prop :=
  b.board = a.board ∧ b.tor.pwr = .waking ∧ b.tor.saved = .off ∧ b.tor.mainOn = false ∧ b.rd A.TOR_STAT = 0x2110 ∧
    b.rd A.CLK_RSTCAUSE = 1 ∧ b.pins.gpio14 = true ∧ b.pins.gpio15 = true ∧ b.bit A.SB_ENUM 0 = a.pins.enumIn ∧
    (∀ r, r ∉ [A.CLK_STAT, A.CLK_RSTCAUSE, A.TOR_STAT, A.SB_ENUM] ++ pllRegs → b.rd r = regReset r) ∧
    (∀ x, b.byte x = 0) ∧ b.media.flash = a.media.flash ∧ b.cirque.otp = a.cirque.otp ∧
    b.cirque.words = a.cirque.cutAll.words

/-- The registers of the LUNs that have work, and of every bank of Cirque. -/
def lunRegs (d : Dev) : List Nat := d.mules.luns.map (fun e => A.MULE_LUN (e.1 / 32) (e.1 % 32))
def bankRegs : List Nat := (List.range 8).map A.CIRQUE_ESTAT

/-- The flush latch is set and has acted (R149, R150): admission and posting stop, Col and every Cirque erase stop, and the
entries that the flush writes are fixed. -/
def Latched (a b : Dev) : Prop :=
  b.tor.latch = true ∧ b.host.stopped = true ∧ b.bit A.COL_CTL 0 = false ∧
    (∀ k, k < 8 → b.fld (A.CIRQUE_ESTAT k) 1 0 ≠ 1) ∧ (a.flushes = true → b.wr.flushArea = a.flushOwn ∧ b.wr.flushValid = false)

/-- The registers that the flush latch writes. -/
def latchRegs (d : Dev) : List Nat :=
  [A.COL_CTL, A.COL_STAT, A.CIRQUE_STAT, A.CIRQUE_CNT 5, A.PWR_STAT, A.PAIR_CNT 0] ++ bankRegs ++ lunRegs d

/-- A wake source n that acts in the present state (R342). -/
def Wakes (n : Nat) (d : Dev) : Prop :=
  ((d.tor.pwr = .s1 ∨ d.tor.pwr = .s2) ∧ n ≠ 1 ∧ d.bit A.PWR_WAKEEN n = true) ∨ (d.tor.pwr = .s3 ∧ (n = 0 ∨ n = 2))

/-- The wake of a source has begun from the state that was left (R342, R343): WAKING, attempt 1 of a step. -/
def Waking (n : Nat) (a b : Dev) : Prop :=
  b.tor.pwr = .waking ∧ b.tor.saved = a.tor.pwr ∧ b.rd A.PWR_WAKESRC = BitVec.ofNat 64 (2 ^ n) ∧
    b.fld A.TOR_STAT 15 12 = 2 ∧ b.fld A.TOR_STAT 7 4 = 1

/-- A Tor packet that Tor takes and executes: it has power and its clock, the unit acknowledges an address, the PEC is good,
it is no repeat (R360, R363, R364). -/
def TorTakes (pec : Bool) (op : Nat) (seq : Byte) (d : Dev) : Prop :=
  d.tor.pwr ≠ .off ∧ d.listens = true ∧ d.tor.osc16 = true ∧ pec = true ∧
    ∀ l, d.tor.last = some l → ¬ (l.op = BitVec.ofNat 8 op ∧ l.seq = seq)

/-- The reply of a Tor packet, which is kept for a repeat (R363, R364): count, OPCODE, SEQ, STATUS, data. -/
def Replied (d : Dev) (op : Nat) (seq : Byte) (st : Nat) (data : List Byte) : Prop :=
  let b := BitVec.ofNat 8 (3 + data.length) :: BitVec.ofNat 8 op :: seq :: BitVec.ofNat 8 st :: data
  d.tor.reply = b ∧ d.tor.last = some { op := BitVec.ofNat 8 op, seq := seq, reply := b }

/-- An I3C target with a dynamic address (R358). -/
def I3cTarget (d : Dev) : Prop := d.board.sbMode = true ∧ d.bit A.SB_STAT 3 = true

/-- MCTP packets are answered (R360, R369). -/
def MctpOn (s : State) : Prop := Running s ∧ s.dev.listens = true ∧ s.dev.tor.pwr = .on ∧ s.dev.bit A.SB_STAT 0 = true

/-- The frame of what may complete commands of any function: memory is left alone where no Pen logs its host writes. -/
def FrameLog (parts : List Part) (regs : List Nat) (a b : Dev) : Prop :=
  b.board = a.board ∧ (∀ p, p ∉ parts → p.same a b) ∧ (∀ r, r ∉ regs → b.rd r = a.rd r) ∧
    ((∀ p, a.bit (A.PEN_DLOG_CTL p) 0 = false) → ∀ x, b.byte x = a.byte x)

/-- Only the listed parts and registers may differ; memory is left open. -/
def FrameParts (parts : List Part) (regs : List Nat) (a b : Dev) : Prop :=
  b.board = a.board ∧ (∀ p, p ∉ parts → p.same a b) ∧ (∀ r, r ∉ regs → b.rd r = a.rd r)

/-! The pair. -/

/-- No write waits for room in the replay buffer (R236). -/
def NoTeeWait (d : Dev) : Prop := d.replayFull = false ∨ d.wr.waiting = []

/-- A replayed frame arrives as the next one (R251). -/
def InOrder (f : FrameHdr) (s : State) : Prop :=
  Running s ∧ s.dev.linkUp = true ∧ f.fseq = BitVec.ofNat 32 (s.dev.pair.rxSeq + 1) ∧ NoTeeWait s.dev

/-- The link does not drain. -/
def Steady (d : Dev) : Prop := d.bit A.PAIR_STAT 2 = false

/-- The counters of frames sent and received, and the link's status. -/
def rxRegs : List Nat := [A.PAIR_CNT 0, A.PAIR_CNT 1, A.PAIR_STAT]

/-- A frame was taken as the next one. -/
def Taken (a b : Dev) : Prop := b.pair.rxSeq = a.pair.rxSeq + 1 ∧ b.pair.gap = false

/-- The firmware has posted to the pair log (R292, R295). -/
def PairRecorded (a b : Dev) (src code sev param : Nat) : Prop :=
  a.cairnOn = true → a.cairn.fifo.length < 64 →
    b.cairn.fifo = a.cairn.fifo ++ [{ post := mkPost src code sev param, time := a.ns, logs := [unitLog (src % 65536), pairLog] }]

/-- The device serves in DUO, or in READONLY with ROLE = DUO. -/
def InDuo (d : Dev) : Prop := d.fw.role = .duo ∧ (d.fw.mode = .duo ∨ d.fw.mode = .readonly)

/-- COL_NS of every namespace that this controller knows. -/
def colNsRegs (d : Dev) : List Nat := d.media.nss.map (fun n => A.COL_NS n.nsx)

/-- No LUN of the channels of a mask was left mid-operation, and no takeover is under way: op 9 is not needed there (R227, R239). -/
def NoneLeft (m : W64) (d : Dev) : Prop := d.pair.takeover = false ∧ ∀ k ∈ d.mules.left, bitOf m (k / 32) = false

/-- The peer has been declared lost (R228, R231, R237, R239, R241): creates that went to it end. -/
def LossDeclared (a b : Dev) : Prop :=
  b.bit A.PAIR_STAT 7 = true ∧ b.bit A.PAIR_STAT 6 = false ∧
    (a.bit A.PAIR_STAT 7 = true → FrameLog [.pins, .pair] [A.PAIR_STAT] a b) ∧
    (a.bit A.PAIR_STAT 7 = false →
      b.pair.lastLost = a.ns ∧ b.pair.creates = [] ∧
      (a.host.stopped = false → ∀ h ∈ a.pair.creates, cqeOf h .nsNotReady ∈ b.host.out) ∧
      (a.bit A.PAIR_CTL 2 = true → (a.board.pairId = false → b.bit A.PAIR_FENCE 0 = true) ∧ (a.board.pairId = true → b.pair.fenceDue = true)) ∧
      (InDuo a → b.fw.transit = true ∧ b.pair.takeover = true ∧ b.rd A.PAIR_OWN ||| b.rd A.PAIR_PEND = BitVec.allOnes 64 ∧
        (a.pair.guarded = false →
          FrameLog [.pins, .pair, .fw, .host] [A.PAIR_STAT, A.PAIR_FENCE, A.PAIR_OWN, A.PAIR_PEND, A.PAIR_CNT 0] a b)) ∧
      (¬ InDuo a → a.pair.tee = true → a.pair.req ≠ none → b.pair.req = none ∧ b.fw.transit = false ∧ b.fw.mode = a.fw.mode ∧
        b.bit A.PAIR_FENCE 0 = true ∧ b.rd A.PAIR_OWN ||| b.rd A.PAIR_PEND = BitVec.allOnes 64) ∧
      (¬ InDuo a → a.pair.tee = false →
        FrameLog ([.pins, .pair] ++ (if a.pair.creates = [] then [] else [.host])) [A.PAIR_STAT, A.PAIR_FENCE] a b))

/-- DUO has been entered (R29, R230, R241). -/
def DuoEntered (b : Dev) : Prop :=
  b.fw.role = .duo ∧ (b.fw.mode = .duo ∨ b.fw.mode = .readonly) ∧ b.pair.paired = true ∧ b.fw.fencedInit = false ∧
    b.bit A.PAIR_CTL 2 = true ∧ b.bit A.PAIR_CTL 3 = true ∧ b.bit A.PAIR_CTL 4 = true

/-- A PAIR_CONTROL request is open, and TRANSIT is 1 (R264). -/
def PairOpen (h : Option Hdr) (a : PairAct) (b : Dev) : Prop :=
  b.pair.req = some { h := h, a := a, ph := 1 } ∧ b.fw.transit = true

/-- A physical function gives an action that the mode allows (R29, R264). -/
def PairMay (h : Hdr) (a : PairAct) (s : State) : Prop :=
  Running s ∧ s.dev.isPf h.fn.val = true ∧ s.dev.pairBusy = false ∧ s.dev.pairLegal a = true

/-! Host reads and admission. -/

/-- The main domain runs, and HOSTIF posts completions (R149). -/
def Posting (s : State) : Prop := Running s ∧ s.dev.host.stopped = false

/-- An I/O command is carried out: it does not wait for its Pen's tokens any more (R17). -/
def Io (h : Hdr) (s : State) : Prop := Posting s ∧ s.dev.waitsTokens h = false

/-- No burst of a segment of a conventional map is uncorrectable in DRAM (R175). -/
def SegsGood (nsx : Nat) (d : Dev) : Prop :=
  ∀ seg a, Config.mapAddr nsx seg / 64 * 64 ≤ a → a < Config.mapAddr nsx seg + 5 * Config.mapSeg → d.burstAt a ≠ .unc

/-- The map of a namespace reads well; a zoned one has none. -/
def MapGood (n : Ns) (d : Dev) : Prop := n.zoned = true ∨ SegsGood n.nsx d

/-- An entry of the conventional map is as given, and the others as they were. -/
def Mapped (k : Nat) (e : Option ConvEnt) (a b : Dev) : Prop :=
  SMap.find b.media.conv k = e ∧ ∀ j, j ≠ k → SMap.find b.media.conv j = SMap.find a.media.conv j

/-- A read, Compare or Verify that passes its checks on a namespace. -/
def ReadOn (h : Hdr) (c : RwCmd) (n : Ns) (s : State) : Prop :=
  Io h s ∧ s.dev.readCheck h c = .ok n ∧ NoReadWait s.dev ∧ MapGood n s.dev

/-- A Pen's tokens cover a cost in a direction without debt (R190). -/
def HasTokens (p : Nat) (wr : Bool) (cost : Nat) (d : Dev) : Prop :=
  d.bit A.PEN_CTL 0 = true ∧ d.penActive p = true ∧
    (if wr then d.fld (A.PEN_DEBT p) 31 16 else d.fld (A.PEN_DEBT p) 15 0) = 0 ∧
    0 < (if wr then d.fld (A.PEN_TOK p) 31 16 else d.fld (A.PEN_TOK p) 15 0) ∧
    cost ≤ (if wr then d.fld (A.PEN_TOK p) 31 16 else d.fld (A.PEN_TOK p) 15 0)

/-- Col serves a read of a queue (R42, R89, R90). -/
def ColTakes (q : Sq) (e : Sqe) (n : Ns) (d : Dev) : Prop :=
  let w := d.rd (A.COL_NS (e.rw.nsid - 1))
  let size := zsze (bitOf w 40)
  let z := d.zd (fldOf w 19 0 + e.rw.slba / size)
  d.colServes = true ∧ d.colBound q = true ∧ d.colForm e = true ∧ d.nsOf e.rw.nsid = some n ∧ bitOf w 41 = true ∧
    fldOf w 49 42 = d.fld (A.COL_SQ q.q) 10 3 ∧ e.rw.slba / size < fldOf w 39 20 ∧
    (z.active = true ∨ z.st = zRO ∨ z.st = zFull) ∧ z.colok = true ∧ e.rw.slba % size + e.rw.nlb ≤ z.fp ∧
    (n.keyed = true → d.slotOk n = true)

/-- Col does not take an entry of a queue: it hands it to the firmware path (R89, R90). -/
def NotCol (q : Sq) (e : Sqe) (d : Dev) : Prop := d.colServes = false ∨ d.colBound q = false ∨ d.colForm e = false

/-- Every Mule that a read of Col needs takes its part: it runs at once, or stands in an empty queue behind what runs (R91, R97,
R101, R117). -/
def MembersGo (c : PenCmd) (n : Ns) (z : Zd) (zs o : Nat) (d : Dev) : Prop :=
  ∀ p ∈ colSplit 5 o c.c.nlb,
    let x := d.colReq n z c zs p
    d.refusal x.1 x.2.lun.val x.2 = none ∧ bitOf (d.seqHdr x.1 x.2.op.val) 63 = true ∧ d.opClass x.1 x.2.op.val = 0 ∧
      d.remUs x.1 x.2.lun.val ≤ d.spurThr ∧ (d.lun x.1 x.2.lun.val).susp = none ∧ (d.lun x.1 x.2.lun.val).queue = []

/-- The submission queue that a doorbell names; it takes the entry. -/
def DoorbellTo (fn : FnN) (qid : Nat) (e : Sqe) (q : Sq) (s : State) : Prop :=
  Running s ∧ TakenUp s.dev ∧ s.dev.fetches fn.val = true ∧
    s.dev.host.sqs.find? (fun x => x.fn == fn.val && x.sqid == qid) = some q ∧ q.halted = false ∧ q.todo = [] ∧
    ¬ (q.inCmb = true ∧ e.eccBad = true)

/-- The queue after the doorbell. -/
def TailMoved (q : Sq) (tail : Nat) (b : Dev) : Prop :=
  { q with tail := tail, head := (q.head + 1) % Nat.max 1 q.size, halted := false } ∈ b.host.sqs

/-- The registers of the Mules and of Col's Spur logic that a read request may change. -/
def muleRegs : List Nat :=
  [A.COL_CNT_SPUR, A.COL_CNT_DENY] ++ (List.range 64).flatMap (fun ch =>
    [A.COL_SPUR_USE ch] ++ (List.range 32).map (A.MULE_LUN ch) ++ (List.range 9).map (A.MULE_CNT ch))

/-! Writes. -/

/-- A write of data that passes the checks before its place and room, while the device serves writes (R30, R87, R180, R232,
R256). -/
def WriteOn (h : Hdr) (c : RwCmd) (n : Ns) (data : List Lba) (s : State) : Prop :=
  Io h s ∧ s.dev.nsOf c.nsid = some n ∧ s.dev.rwCheck h c n = none ∧ data.length = c.nlb ∧
    s.dev.fw.mode ≠ .readonly

/-- The write has room, in DUO a link and room in the replay buffer, garbage collection does not hold it, and no command of its
zone waits (R46, R71, R72, R143, R183, R236). -/
def Fits (c : RwCmd) (n : Ns) (d : Dev) : Prop :=
  d.room n.pen (c.nlb * 4096) = true ∧ (d.fw.role = .duo → d.linkUp = true ∧ d.replayFull = false) ∧ d.gcHolds n c.nlb = false ∧
    (n.zoned = true → d.zoneHeld n (n.zoneOf c.slba).1 = false)

/-- No buffered copy of these LBAs is lost to its reading: in DUO the peer's copy stands in, else none is buffered (R174). -/
def NoBufferLoss (nsx : Nat) (lbas : List Nat) (d : Dev) : Prop := d.fw.role = .duo ∨ lbas.filter (d.inBuffer nsx) = []

/-- What errors of memory that a data path meets leave behind besides (R171): the registers in which DRAMC shows them, and the free
value of their place. -/
def lossParts (lbas : List Nat) : List Part := if lbas = [] then [] else [.free]
def lossRegs (lbas : List Nat) : List Nat :=
  if lbas = [] then [] else [A.DRAMC_ECCSTAT, A.DRAMC_UNC_ADDR, A.DRAMC_UNC_CNT]

/-- The buffered copy of an LBA is lost (R174): every acknowledged entry carries POISON there, and Critical Warning bit 2 is
set. -/
def BufferPoisoned (nsx a : Nat) (x y : Dev) : Prop :=
  y.wr.entries = x.wr.entries.map (fun e => if e.nsx = nsx ∧ e.acked = true then e.poisonAt [a] else e) ∧
    y.host.crit.getLsbD 2 = true

/-- A write stands in the buffer: complete, not acknowledged, held where the flash-window flag is set, and where the peer
keeps a copy sent to it (R64, R65, R86, R233). -/
def Admitted (a b : Dev) (h : Hdr) (n : Ns) (lba : Nat) (app : Bool) (secs : List Sector) : Prop :=
  ∃ e, b.wr.entries = a.wr.entries ++ [e] ∧ e.id = a.wr.nextId ∧ b.wr.nextId = a.wr.nextId + 1 ∧ e.h = h ∧ e.nsx = n.nsx ∧
    e.lba = lba ∧ e.zoned = n.zoned ∧ e.app = app ∧ e.secs = secs ∧ e.pen = n.pen ∧ e.complete = true ∧ e.acked = false ∧
    e.mirrored = decide (a.fw.role ≠ .duo) ∧ e.held = a.fwFlag ∧ b.wr.waiting = a.wr.waiting ∧ b.wr.fold = a.wr.fold ∧
    b.wr.groups = a.wr.groups ∧ b.wr.flushes = a.wr.flushes ∧
    b.pens.aboveShare = a.pens.aboveShare.filter (· != n.pen) ∧
    (a.tees = false → b.pair = a.pair ∧ b.rd A.PAIR_MSEQ_TX = a.rd A.PAIR_MSEQ_TX ∧ b.rd (A.PAIR_CNT 0) = a.rd (A.PAIR_CNT 0)) ∧
    (a.tees = true → a.linkUp = true →
      e.mseq = (a.rd A.PAIR_MSEQ_TX).toNat + 1 ∧ b.rd A.PAIR_MSEQ_TX = a.rd A.PAIR_MSEQ_TX + 1 ∧
      b.pair.out = a.pair.out ++ .mhdr { mseq := e.mseq, nsx := n.nsx, lba := lba, n := secs.length, pen := n.pen } ::
        (secs.map .mdata ++ [.mend e.mseq]))

/-- The registers that a mirrored write changes. -/
def teeRegs : List Nat := [A.PAIR_MSEQ_TX, A.PAIR_CNT 0]

/-- The zone that a write names: its descriptor index and its start LBA. -/
def zoneAt (n : Ns) (c : RwCmd) : Nat × Nat := (n.base + (n.zoneOf c.slba).1, (n.zoneOf c.slba).1 * zsze n.seven)

/-- The last record of the journal has this body. -/
def Journaled (b : Dev) (r : JBody) : Prop := b.media.journal.getLast?.map (·.body) = some r

/-- A zone command on one zone that passes its checks (R61, R180, R232, R256). -/
def ZoneOn (h : Hdr) (a : ZoneArg) (n : Ns) (s : State) : Prop :=
  Io h s ∧ a.all = false ∧ s.dev.zoneCheck h a.nsid a.slba false = .ok n ∧ s.dev.wr.zwait = []

/-- A physical function gives a command in SERVICE (R265, R268). -/
def Service (h : Hdr) (s : State) : Prop := Posting s ∧ s.dev.isPf h.fn.val = true ∧ s.dev.fw.mode = .service

/-- Every Ox channel reaches a range without a bus error. -/
def Clear (a n : Nat) (write : Bool) (d : Dev) : Prop := ∀ c : OxN, d.rangeErr (.ox c) a n write = none

/-! The Mules. -/

/-- Nothing is queued, running or suspended on a LUN. -/
def LunFree (ch l : Nat) (d : Dev) : Prop :=
  (d.lun ch l).run = none ∧ (d.lun ch l).susp = none ∧ (d.lun ch l).queue = []

/-- One sequence runs on a LUN, and there is nothing else. -/
def LunRuns (ch l : Nat) (q : QReq) (d : Dev) : Prop :=
  (d.lun ch l).run = some q ∧ (d.lun ch l).susp = none ∧ (d.lun ch l).queue = []

/-- The header of an operation's sequence is valid (R116). -/
def SeqValid (ch op : Nat) (d : Dev) : Prop := bitOf (d.seqHdr ch op) 63 = true

/-- MULE_LUN of a LUN on which an operation's sequence has just begun (R138). -/
def lunBegun (ch op : Nat) (d : Dev) : W64 :=
  BitVec.ofNat 64 (d.expUs ch op * 2 ^ 16 + d.seqOf ch op * 2 ^ 8 + stateOf (d.opClass ch op))

/-- The channel neither drains nor is being released. -/
def Settled (ch : Nat) (d : Dev) : Prop := d.bit (A.MULE_STAT ch) 1 = false ∧ bitOf d.pair.releasing ch = false

/-- The request serves no Spur read and no read of Col. -/
def Alone (q : QReq) (d : Dev) : Prop :=
  d.mules.spurs.find? (fun s => q.id ∈ s.ids) = none ∧ d.colRead q.id = none

/-- The command ends the sequence of a request with a result. -/
def Ends (ch : Ch) (l : LunN) (q : QReq) (res : MResult) (w : Walk) (us : Nat) (i : Instr) (d : Dev) : Prop :=
  (∃ rs, i = .muleSequenceEnd ch l rs us ∧ d.walkOf ch.val q rs = .done res w) ∨
    (i = .busyTimeout ch l ∧ res = .timeout ∧ w = (d.walkOf ch.val q []).walk ∧
      us = (d.lun ch.val l.val).ranUs + (d.us - (d.lun ch.val l.val).runUs))

/-- The counters of a channel's Mule. -/
def cntRegs (ch : Nat) : List Nat := (List.range 9).map (A.MULE_CNT ch)

/-! The cipher cluster. -/

/-- A key operation has ended with a result: CIPHER_KIN is cleared, and the slots but for one are as they were (R211). -/
def KeyOp (slot res : Nat) (a b : Dev) : Prop :=
  b.fld A.CIPHER_KOP 15 12 = res ∧ b.fld A.CIPHER_KOP 27 16 = slot ∧ b.cipher.kin = [] ∧ b.cipher.kwk = a.cipher.kwk ∧
    b.cipher.pwk = a.cipher.pwk ∧ ∀ n, n ≠ slot → b.slot n = a.slot n ∧ b.slotGen n = a.slotGen n

/-- The same, with every slot as it was. -/
def KeyRefused (slot res : Nat) (a b : Dev) : Prop :=
  KeyOp slot res a b ∧ b.slot slot = a.slot slot ∧ b.slotGen slot = a.slotGen slot

/-- The slot was loaded or cleared: its generation has gone up (R207). -/
def KeyLoaded (slot : Nat) (x : Slot) (a b : Dev) : Prop :=
  KeyOp slot 0 a b ∧ b.slot slot = x ∧ b.slotGen slot = (a.slotGen slot + 1) % 65536

/-- An alarm of a cause holds: every key and chaining state is gone, bypass slots apart, and no message runs but theirs
(R219, R220). -/
def AlarmHolds (n : Nat) (a b : Dev) : Prop :=
  b.bit A.CIPHER_ALARM n = true ∧ b.cipherAlarmed = true ∧ b.fld A.CIPHER_STAT 3 2 = 0 ∧ b.cipher.kwk = none ∧ b.cipher.pwk = [] ∧
    (∀ c, (b.ccore c).ctx = none ∧ ∀ m, (b.ccore c).run = some m → m.slot.val ∈ bypassSlots a.media.nss) ∧
    (∀ x, b.slot x = if x ∈ bypassSlots a.media.nss then .bypass else .empty) ∧ b.fw.alarmed = true ∧
    (∀ c k, c < 24 → k < 7 → b.rd (A.CIPHER_CTXBUF c k) = 0) ∧ (∀ c, c < 24 → a.jobResult c = 1 → b.jobResult c = 3) ∧
    (∀ r, r ∈ b.host.reads → r ∈ a.host.reads ∧ ¬ ∃ x, x ∈ a.media.nss ∧ x.keyed = true ∧ x.nsx = r.nsx)

/-- Source and destination of a job lie in hub SRAM (R19). -/
def JobInHub (c : Nat) (x : Ctx) (d : Dev) : Prop :=
  x.blk ≤ x.len ∧
    0x10000000 ≤ (d.rd (A.CIPHER_JOB_SRC c)).toNat ∧ (d.rd (A.CIPHER_JOB_SRC c)).toNat + 16 * x.len ≤ 0x11000000 ∧
    0x10000000 ≤ (d.rd (A.CIPHER_JOB_DST c)).toNat ∧ (d.rd (A.CIPHER_JOB_DST c)).toNat + 16 * x.len ≤ 0x11000000

/-- Blocks [lo, hi) of a job have been written to its destination (R204, R214). -/
def JobWritten (c : Nat) (x : Ctx) (hi : Nat) (a b : Dev) : Prop :=
  let src := (a.rd (A.CIPHER_JOB_SRC c)).toNat + 16 * x.blk
  let dst := (a.rd (A.CIPHER_JOB_DST c)).toNat + 16 * x.blk
  let n := hi - x.blk
  (∀ k t, (a.ccore c).key = .key k t → ∀ i, i < 16 * n →
    b.byte (dst + i) = (leBytes (16 * n) (ofBlocks (xtsRun x.dec k x.tval (blocksOf n (ofLe (a.bytes src (16 * n))))))).getD i 0) ∧
  ((a.ccore c).key = .bypass → ∀ i, i < 16 * n → b.byte (dst + i) = a.byte (src + i))

/-! Register accesses. -/

/-- The address decodes to nothing: outside every region of R19, DRAM above what is installed, or a hole in the peripheral
region (R21). -/
def Undecoded (a : Nat) (d : Dev) : Prop :=
  (∀ r, r ∈ [(0x0, 0x40000), (0x10000000, 0x11000000), (0x20000000, 0x20200000), (0x30000000, 0x30800000), (0x40000000, 0x42000000),
      (0x0100000000, 0x0108000000), (0x0200000000, 0x0201000000), (0x1000000000, 0x3000000000)] → ¬ (r.1 ≤ a ∧ a < r.2)) ∨
  (0x1000000000 + d.board.dramGib * 2 ^ 30 ≤ a ∧ a < 0x3000000000) ∨
  (0x0200000000 ≤ a ∧ a < 0x0201000000 ∧ regAt a = none)

/-- A bus error at a control core: the record, and the syndrome of that core (R23 to R25). -/
def CoreFault (n : CoreN) (a : Nat) (write : Bool) (e : BusErr) (x y : Dev) : Prop :=
  Recorded x y ((targetOf a).1 * 256 + (targetOf a).2) e.code e.sev (a % 2 ^ 40 + (0x8000 + n.val) * 2 ^ 64) ∧
    SMap.get (fun _ => 0) y.cores.syn n.val = synAfter (SMap.get (fun _ => 0) x.cores.syn n.val) a write e ∧
    SMap.get (fun _ => 0) y.cores.trap n.val = (if write then 7 else 5) ∧
    (∀ m, m ≠ n.val → SMap.get (fun _ => 0) y.cores.syn m = SMap.get (fun _ => 0) x.cores.syn m)

/-- The PAIR_CONTROL action names a transition of the table of R29 that this controller, or the survivor for one in INIT
(fenced), can make. -/
def PairRow (a : PairAct) (d : Dev) : Prop :=
  match a with
  | .join => (d.fw.mode = .solo ∧ d.peerFenced = true) ∨ d.isFenced = true
  | .handback => (d.fw.mode = .survivor ∧ d.peerFenced = true) ∨ d.isFenced = true
  | .release _ => d.fw.mode = .duo
  | .goSolo => d.fw.mode = .survivor ∨ d.isFenced = true
  | .refuse => False

/-- The command answers a next state, and the device then is as said. -/
def Gives (i : Instr) (s : State) (p : Dev → Prop) : Prop :=
  ∃ t, exec i s = .next t ∧ t.pending = s.pending ∧ p t.dev

/-- Every sparse map of registers and memory is in its canonical form: equal contents are equal data. -/
def Canon (d : Dev) : Prop := SMap.wf regReset d.regs = true ∧ memWf d.mem = true

/-- The fuses, straps and board facts that no configuration image declares (R378, R399): what an image gives reads as 0 here. -/
def fixedBoard (o : Board) : Board :=
  { o with
    iTestMa := 0, vMinMv := 0, etaPm := 0, testGpio := 0, divider := 0, tfSensors := [], thermExt := 0, bifurcated := false, vpd := []
    partId := [], luns := 0, nlb := 0, ratedQlc := 0, ratedSlc := 0, tprogSlcUs := 0, retTable := [], muleRegs := [], curve := [] }

/-- The checkpoint covers no record beyond the last one (R147). -/
def JournalOk (d : Dev) : Prop := d.media.ckptSeq ≤ d.media.jseq

/-- What every step keeps: the fuses, straps and board facts, the canonical form, the order of checkpoint and journal, and every
OTP word that has been programmed (R284). -/
def Sound (b : Board) (otp : SMap (BitVec 256)) (s : State) : Prop :=
  fixedBoard s.dev.board = b ∧ Canon s.dev ∧ JournalOk s.dev ∧
    ∀ w x, SMap.find otp w = some x → SMap.find s.dev.cirque.otp w = some x

end Sys2Proof
end

