-- ==== Sys2Proof/WellFormed.lean ====
section
/-! DEFINITION. Which commands the outside can send: every number fits its field, and lists have the lengths that the
manual gives their carriers. No meaning asks for it; a statement may. -/

namespace Sys2Proof

/-- Queue and command identifiers have 16 bits. -/
def wfHdr (h : Hdr) : Bool := decide (h.qid < 65536) && decide (h.cid < 65536)

/-- The fields of a read or write: NLB is zero-based in 16 bits, so 1 to 65,536 LBAs. -/
def wfRw (c : RwCmd) : Bool :=
  decide (c.nsid < 2 ^ 32) && decide (c.slba < 2 ^ 64) && decide (1 ≤ c.nlb) && decide (c.nlb ≤ 65536) && decide (c.pid < 65536)

/-- LBAs that fail on the way, each once. -/
def wfBad (l : List (Nat × ReadErr)) : Bool := decide (l.map Prod.fst).Nodup

/-- A submission entry. -/
def wfSqe (e : Sqe) : Bool := decide (e.cid < 65536) && wfRw e.rw

/-- A Mule request: block and page within the flash parts (R1), a codeword count of a page. -/
def wfReq (r : MuleReq) : Bool :=
  decide (r.lbn < 16384) && decide (r.page < 1024) && decide (r.ncw ≤ 16) && decide (r.rid < 65536) && decide (r.nsx < 1024) &&
    decide (r.lba < 2 ^ 40)

/-- A queue to be created has at least two entries. -/
def wfSq (a : SqArg) : Bool := decide (a.sqid < 65536) && decide (a.cqid < 65536) && decide (2 ≤ a.size) && decide (a.size ≤ 65536)
def wfCq (a : CqArg) : Bool := decide (a.cqid < 65536) && decide (2 ≤ a.size) && decide (a.size ≤ 65536) && decide (a.vector < 65536)

/-- A Zone Management Send. -/
def wfZone (z : ZoneArg) : Bool := decide (z.nsid < 2 ^ 32) && decide (z.slba < 2 ^ 64)

/-- The header of a mirror entry. -/
def wfMir (m : MirHdr) : Bool := decide (m.mseq < 2 ^ 64) && decide (m.nsx < 1024) && decide (m.lba < 2 ^ 40) && decide (m.pen < 256)

/-- A journal record's sequence number has 8 bytes (R145). -/
def wfRec (r : JRec) : Bool := decide (r.seq < 2 ^ 64)

/-- The fields of a Pen record fit their bytes (R185). -/
def wfPen (r : PenRec) : Bool :=
  [r.ioq, r.nsq, r.ksbase, r.kscount, r.cmbsh, r.cmboff, r.bufsh, r.hold, r.morq, r.marq, r.rdfloor, r.wrfloor, r.rdceil,
    r.wrceil, r.c0allow].all (fun x => decide (x < 65536)) &&
  [r.convq, r.tgt0, r.tgt1, r.tgt2, r.tgt3].all (fun x => decide (x < 2 ^ 32)) && decide (r.weight < 256)

/-- The fields of a media policy fit their bytes (R267). -/
def wfPolicy (p : Policy) : Bool :=
  [p.thresh, p.pHold, p.pRun, p.eHold, p.eRun].all (fun x => decide (x < 65536)) &&
  [p.days, p.pct, p.win, p.pRd, p.pSusp, p.eRd, p.eSusp].all (fun x => decide (x < 256)) && decide (p.burstGib < 2 ^ 32)

/-- A message to the cipher cluster names a data unit of at least two blocks (R204, R222). -/
def wfMsg (m : CMsg) : Bool := decide (2 ≤ m.blocks) && decide (m.blocks ≤ 65535)

/-- The fields of a sector seal fit theirs (R158). -/
def wfSeal (x : Seal) : Bool := decide (x.nsx < 1024) && decide (x.lba < 2 ^ 40) && decide (x.gen < 2 ^ 32)

/-- What a sequence step meets: a DIN step has at most the codewords of a page (R115), a codeword at most its bits corrected. -/
def wfResp (r : SeqResp) : Bool :=
  match r with
  | .din l => decide (l.length ≤ 16) &&
      l.all (fun x => wfSeal x.sl && decide (x.best < 64) && (match x.entry with | some e => decide (e < 64) | none => true))
  | _ => true

/-- What a BULK frame carries fits the fields of its stream. -/
def wfBulk (b : BulkData) : Bool :=
  match b with
  | .entry m l => wfMir m && l.all (fun x => wfSeal x.sl)
  | .policy p => wfPolicy p
  | .pens l => l.all (fun x => decide (x.1 < 256) && wfPen x.2.1)
  | _ => true

/-- The command is one that the outside can send. -/
def Instr.wf (i : Instr) : Bool :=
  match i with
  | .torStatus _ _ ps => decide (ps.length ≤ 252)
  | .torWake _ _ ps => decide (ps.length ≤ 252)
  | .torSleep _ _ ps => decide (ps.length ≤ 252)
  | .torFaultRead _ _ ps => decide (ps.length ≤ 252)
  | .torAddrSet _ _ ps => decide (ps.length ≤ 252)
  | .torChainPass _ _ ps => decide (ps.length ≤ 252)
  | .torTempRead _ _ ps => decide (ps.length ≤ 252)
  | .torEventTail _ _ ps => decide (ps.length ≤ 252)
  | .linkTrainingComplete lanes => decide (lanes.length = 8)
  | .keyx _ pub sig => decide (pub < 2 ^ 776) && decide (sig < 2 ^ 768)
  | .mhdr _ m => wfMir m
  | .jrec _ r => wfRec r
  | .mdata _ x => wfSeal x.sl
  | .bulk _ _ _ b => wfBulk b
  | .pairHandshake recs => recs.all (fun x => decide (x.1 < 256) && wfPen x.2.1)
  | .pllLock _ _ corr => decide (corr < 2 ^ 20)
  | .zdesc _ l => decide (l.length ≤ 12) && l.all (fun x => decide (x.1 < 2 ^ 19))
  | .map _ l => decide (l.length ≤ 25)
  | .sqTailDoorbell _ qid tail e => decide (qid < 65536) && decide (tail < 65536) && wfSqe e
  | .read h c bad => wfHdr h && wfRw c && wfBad bad && bad.all (fun x => decide (x.1 < c.nlb))
  | .write h c d => wfHdr h && wfRw c && decide (d.length = c.nlb)
  | .zoneAppend h c d => wfHdr h && wfRw c && decide (d.length = c.nlb)
  | .writeZeroes h c _ => wfHdr h && wfRw c
  | .flush h nsid => wfHdr h && decide (nsid < 2 ^ 32)
  | .compare h c d bad => wfHdr h && wfRw c && decide (d.length = c.nlb) && wfBad bad && bad.all (fun x => decide (x.1 < c.nlb))
  | .verify h c bad => wfHdr h && wfRw c && wfBad bad && bad.all (fun x => decide (x.1 < c.nlb))
  | .datasetManagement h nsid _ ranges => wfHdr h && decide (nsid < 2 ^ 32) && decide (ranges.length ≤ 256)
  | .writeUncorrectable h c => wfHdr h && wfRw c
  | .openZone h z => wfHdr h && wfZone z
  | .closeZone h z => wfHdr h && wfZone z
  | .finishZone h z => wfHdr h && wfZone z
  | .resetZone h z => wfHdr h && wfZone z
  | .offlineZone h z => wfHdr h && wfZone z
  | .reportZones h nsid slba n _ => wfHdr h && decide (nsid < 2 ^ 32) && decide (slba < 2 ^ 64) && decide (n < 2 ^ 32)
  | .createIoSubmissionQueue h a => wfHdr h && wfSq a
  | .createIoCompletionQueue h a => wfHdr h && wfCq a
  | .deleteIoSubmissionQueue h sqid => wfHdr h && decide (sqid < 65536)
  | .deleteIoCompletionQueue h cqid => wfHdr h && decide (cqid < 65536)
  | .identify h _ nsid => wfHdr h && decide (nsid < 2 ^ 32)
  | .getLogPage h _ nsid lsi _ _ off len => wfHdr h && decide (nsid < 2 ^ 32) && decide (lsi < 65536) && decide (off < 2 ^ 64) && decide (len < 2 ^ 34)
  | .abort h sqid cid => wfHdr h && decide (sqid < 65536) && decide (cid < 65536)
  | .asynchronousEventRequest h => wfHdr h
  | .setFeatures h _ _ => wfHdr h
  | .getFeatures h _ => wfHdr h
  | .namespaceCreate h _ => wfHdr h
  | .namespaceDelete h nsid => wfHdr h && decide (nsid < 2 ^ 32)
  | .namespaceAttachment h _ nsid _ => wfHdr h && decide (nsid < 2 ^ 32)
  | .firmwareImageDownload h off b => wfHdr h && decide (off < 2 ^ 32) && decide (b.length ≤ 2 ^ 23)
  | .firmwareCommit h action slot => wfHdr h && decide (action < 8) && decide (slot < 8)
  | .formatNvm h nsid ses fmt _ _ _ => wfHdr h && decide (nsid < 2 ^ 32) && decide (ses < 8) && decide (fmt < 16)
  | .sanitize h act => wfHdr h && decide (act < 8)
  | .deviceSelfTest h stc => wfHdr h && decide (stc < 16)
  | .directiveSend h dtype doper nsid _ => wfHdr h && decide (dtype < 256) && decide (doper < 256) && decide (nsid < 2 ^ 32)
  | .directiveReceive h dtype doper nsid => wfHdr h && decide (dtype < 256) && decide (doper < 256) && decide (nsid < 2 ^ 32)
  | .cmbHostAccess _ off _ _ => decide (off < 2 ^ 32)
  | .penManageSet h _ len r mv => wfHdr h && decide (len < 2 ^ 32) && wfPen r && mv.all (fun x => decide (x < 2 ^ 32))
  | .penManageGet h _ len => wfHdr h && decide (len < 2 ^ 32)
  | .penManageEnable h _ => wfHdr h
  | .penManageDisable h _ => wfHdr h
  | .startLog h _ len w => wfHdr h && decide (len < 2 ^ 32) && decide (w.length = 4)
  | .harvest h _ len _ => wfHdr h && decide (len < 2 ^ 32)
  | .quiesce h _ => wfHdr h
  | .readState h _ len => wfHdr h && decide (len < 2 ^ 32)
  | .writeState h _ _ _ _ => wfHdr h
  | .resume h _ => wfHdr h
  | .stopLog h _ => wfHdr h
  | .join h => wfHdr h
  | .release h _ => wfHdr h
  | .handback h => wfHdr h
  | .goSolo h => wfHdr h
  | .calInfo h len => wfHdr h && decide (len < 2 ^ 32)
  | .calRead h seg len _ => wfHdr h && decide (seg < 2 ^ 32) && decide (len < 2 ^ 32)
  | .calOpen h _ => wfHdr h
  | .calWrite h seg b => wfHdr h && decide (seg < 2 ^ 32) && decide (b.length ≤ 4096)
  | .calCommit h _ => wfHdr h
  | .abandon h => wfHdr h
  | .eventInfo h log len => wfHdr h && decide (log < 65536) && decide (len < 2 ^ 32)
  | .eventRead h log first len => wfHdr h && decide (log < 65536) && decide (first < 2 ^ 32) && decide (len < 2 ^ 32)
  | .eventClear h log => wfHdr h && decide (log < 65536)
  | .mediaPolicyGet h len => wfHdr h && decide (len < 2 ^ 32)
  | .mediaPolicySet h len p => wfHdr h && decide (len < 2 ^ 32) && wfPolicy p
  | .regRead h _ len => wfHdr h && decide (len < 2 ^ 32)
  | .regWrite h _ _ => wfHdr h
  | .memRead h _ len _ => wfHdr h && decide (len < 2 ^ 32)
  | .memWrite h _ b => wfHdr h && decide (b.length < 2 ^ 32)
  | .flashOp h _ _ _ pblk page resp => wfHdr h && decide (pblk < 16384) && decide (page < 1024) && decide (resp.length ≤ 512) && resp.all wfResp
  | .serviceDiagReset h => wfHdr h
  | .zoneIdleTimeout nsid zone => decide (nsid < 2 ^ 32) && decide (zone < 2 ^ 20)
  | .programGroupIssue nsid zone bad => decide (nsid < 2 ^ 32) && decide (zone < 2 ^ 20) && decide bad.Nodup
  | .stripeCompletion nsid zone => decide (nsid < 2 ^ 32) && decide (zone < 2 ^ 20)
  | .folding nsid zone bad => decide (nsid < 2 ^ 32) && decide (zone < 2 ^ 20) && wfBad bad
  | .bufferCeilingRecompute milliV => decide (milliV < 2 ^ 16)
  | .holdupSample milliV us => decide (milliV < 2 ^ 16) && decide (us < 2 ^ 32)
  | .holdupRechargeComplete milliV => decide (milliV < 2 ^ 16)
  | .muleRequest _ r => wfReq r
  | .parityUnitDelivery _ row slot d => decide (row < 2 ^ 16) && decide (slot < 16) && decide (d.length ≤ 16)
  | .muleSequenceEnd _ _ resp us => decide (resp.length ≤ 512) && resp.all wfResp && decide (us < 2 ^ 32)
  | .readReconstruction h bad => wfHdr h && wfBad bad
  | .goatPatrolRead group lbn _ best finds => decide (group < 2 ^ 16) && decide (lbn < 16384) && decide (best < 64) &&
      decide (finds.length ≤ 65536) && finds.all (fun f => decide (f.depth < 64))
  | .refreshRelocation nsid zone => decide (nsid < 2 ^ 32) && decide (zone < 2 ^ 20)
  | .garbageCollection nsid => decide (nsid < 2 ^ 32)
  | .blockRetirement _ _ _ lbn => decide (lbn < 16384)
  | .cirqueProgramEnd corr => decide (corr < 2560)
  | .cirqueEraseGo _ addr => decide (addr < 2 ^ 27)
  | .cirqueWindowRead _ word corr => decide (word < 2 ^ 22) && decide (corr < 2560)
  | .otpProgram _ corr => decide (corr < 2560)
  | .oxBurstComplete _ _ moved _ => decide (moved.length ≤ 256)
  | .henBurst _ ms => decide (ms < 2 ^ 32)
  | .cipherMessage m _ => wfMsg m
  | .unsupportedCommand h _ => wfHdr h
  | .vddAonPowerOn | .mainPowerOn | .mainResetRelease _ | .romRecoveryLoad _ | .perstNAssert
  | .perstNDeassert | .pwrLossNAssert | .flushComplete _ | .mainRailOutOfTolerance | .torBrownOut
  | .hardwareThermalShutdown _ _ | .thermalRestartCheck _ | .x32kCountWindow _ _ | .x32kEdgeTimeout
  | .xtal25MissingEdge | .pllLossOfLock _ | .pllRestart _ | .clkEnWrite _ _
  | .blockClockStop _ | .autoClockGate _ | .autoClockUngate _ | .clkBrst _ _ | .clkCoreRunWrite _
  | .pwrCtlGo _ | .linkL12Entry | .pmeTurnOffHandshake | .wakeInRise | .sidebandAddressMatch _ _
  | .clkreqNAssert | .pwrTimerExpiry | .wakeStepTimeout _ | .junctionConversion _ _
  | .flashCaseConversion _ _ _ | .thermCurveWrite _ _ _ | .smbusTimeout | .alertResponseAddress
  | .enumInChange _ | .entdaa _ | .setdasa _ | .setaasa | .setnewda _ | .rstdaa | .enec _ | .disec _
  | .getpid | .getbcr | .getdcr | .getstatus | .getmrl | .getmwl | .setmrl _ | .setmwl _ | .setEndpointId _
  | .getEndpointId | .getMctpVersionSupport | .getMessageTypeSupport | .readNvmeMiDataStructure _
  | .nvmSubsystemHealthStatusPoll | .controllerHealthStatusPoll | .configurationGet _ | .configurationSet _ _
  | .vpdRead | .miTunnelledAdminCommand _ | .pairCtlEnWrite _ | .linkRetrain | .retrainComplete
  | .heartbeatSend | .hb _ _ _ _ _ | .heartbeatWindowMiss | .peerAliveInLow | .survivorEntry
  | .autofenceDelayExpiry | .fenceGuardExpiry | .peerFenceInRise | .aliveWatchdogExpiry | .pairKick
  | .pairFenceWrite _ | .splitTimeout | .pairClaimWrite _ | .pairRelWrite _ | .claim _ _ | .grant _ _
  | .deny _ _ | .released _ _ | .hello _ _ | .bceil _ _ | .flushDone _ | .restored _ _ | .phase _ _
  | .mend _ _ _ | .mack _ _ | .nak _ | .replayTimeout
  | .handbackPhaseEnd | .peerAbsentTimeout | .readonlyTemperatureTimeout | .commandAdmission _ _
  | .spurRedecision _ _ _ | .spurWindowStart | .writeAck _ | .ccEnWrite _ _ | .functionLevelReset _
  | .pcieHotReset | .winpageWrite _ _ | .ingressInterval | .holdupMeasurementStart | .writeHoldTimeout
  | .temperatureHoldExpiry _ | .busyTimeout _ _ | .lunResetRequest _ _ | .restore _ _
  | .lunRestoreRetry _ _ _ | .suspensionEnd _ _ | .muleCtlEnWrite _ _ | .muleTblDataWrite _ _ | .tfSample
  | .wearLevelling _ | .relocationCommit | .checkpoint | .recovery _ _ _ _ | .cirqueProgramGo _ | .pfifoWrite _
  | .cirqueEraseSuspend _ | .cirqueEraseResume _ | .cirqueEraseEnd _ _ | .cirqueIdleResume _ | .otpRead _
  | .frowRead _ | .otphide | .cirqueCtlEnWrite _ | .oxGo _ | .oxStop _ | .oxCtlEnWrite _
  | .peripheralRequest _ | .requestWithdrawal _ | .cairnPostGo _ _ _ _ _ | .hardwarePost _ _
  | .cairnSlotWrite | .cairnClrGo _ _ | .cairnCtlEnWrite _ | .deviceLogRecordClose | .henCtlEnWrite _
  | .dramcEcctestWrite | .dramcEcctestReadraw | .generate _ | .loadClear _ | .loadWrapped _ _
  | .exportWrapped _ _ _ | .zero _ | .loadBypass _ | .kopUndefined _ | .saveClear _ _ | .saveWrapped _ _
  | .restoreClear _ _ | .restoreWrapped _ _ | .ctxopUndefined _ _ _ | .cipherJobGo _ _ _ | .cipherJobStop _ _
  | .cipherJobEnd _ _ | .cipherLockWrite _ _ _ | .cipherCoreEnWrite _ _ | .cipherMessageEnd _
  | .cipherAlarmSet | .vmonAlarm | .debugAlarm | .kwkDerivation _ | .epochBoundary | .breakEpisodeEnd
  | .penPctlWrite _ _ _ | .penDrainEnd _ | .swap _ | .dlogEnWrite _ _ | .readClearRegister _ _ _
  | .registerWrite _ _ _ _ | .peerFenceInFall | .peerAliveInRise | .idle _ | .frameCrcFailure _
  | .flushAreaDwellExpiry | .timestampWindowExpiry | .torUndefinedOpcode _ _ _ => true

end Sys2Proof
end

