-- ==== Sys2Proof/Certificates/Slice0/Obligations.lean ====
section
/-! DEFINITION. The statements for the provers. -/

open Sys2Proof
open Sys2Proof.Machine hiding Frame

/-! Clocks and resets (R316 to R331). -/

/-- R318, R319: the counts of a window and what they qualify. -/
def Obligations.ClockQualification : Prop :=
  (∀ s osc xtal, s.dev.tor.osc16 = true →
    Gives (.x32kCountWindow osc xtal) s (fun d =>
      d.rd A.CLK_XCNT32K = BitVec.ofNat 64 osc.toNat ∧ d.rd A.CLK_XCNT25 = BitVec.ofNat 64 xtal.toNat ∧
      d.tor.x32Run = (if 14844 ≤ osc.toNat ∧ osc.toNat ≤ 16406 then Nat.min 4 (s.dev.tor.x32Run + 1) else 0) ∧
      d.tor.x25Run = (if s.dev.bit A.CLK_STAT 7 = true ∧ 24390 ≤ xtal.toNat ∧ xtal.toNat ≤ 24438
        then Nat.min 8 (s.dev.tor.x25Run + 1) else 0) ∧
      (d.bit A.CLK_STAT 7 = true ↔ s.dev.bit A.CLK_STAT 7 = true ∨ d.tor.x32Run = 4) ∧
      (d.bit A.CLK_STAT 6 = true ↔ s.dev.bit A.CLK_STAT 6 = true ∨ d.tor.x25Run = 8) ∧
      (Running s → xtal.toNat < 24170 ∨ 24658 < xtal.toNat → d.bit A.CLK_STAT 8 = true) ∧
      (21973 ≤ xtal.toNat ∧ xtal.toNat ≤ 26855 ∨ ¬ Running s →
        (Running s → xtal.toNat < 24170 ∨ 24658 < xtal.toNat → Recorded s.dev d 0x0100 3 4 xtal.toNat) ∧
        Frame [.tor, .cairn] [A.CLK_XCNT32K, A.CLK_XCNT25, A.CLK_STAT, A.TOR_STAT] s.dev d) ∧
      (Running s → s.dev.board.code.val ≠ 2 → xtal.toNat < 21973 ∨ 26855 < xtal.toNat →
        s.dev.cipher.queue = [] → s.dev.cipher.cores = [] → AlarmHolds 2 s.dev d))) ∧
  (∀ s, Gives .x32kEdgeTimeout s (fun d =>
      d.bit A.CLK_STAT 7 = false ∧ d.tor.x32Run = 0 ∧ (Running s → Recorded s.dev d 0x0100 4 5 0) ∧
      Frame [.tor, .cairn] [A.CLK_STAT] s.dev d)) ∧
  (∀ s i, Gives (.pllRestart i) s (fun d => d = s.dev))

/-- R320: a clock source failure, and R321: the clocks return when the last PLL locks. -/
def Obligations.ClockFailure : Prop :=
  (∀ s, Running s → s.dev.tor.clkFail = false →
    Gives .xtal25MissingEdge s (fun d =>
      ClockStopped 1 d ∧ d.bit A.CLK_STAT 6 = false ∧ (s.dev.board.code ≠ 2 → d.cipher.slots = []) ∧
      (∀ i : Fin 4, d.bit A.CLK_STAT (2 + i.val) = false ∧ d.bit (A.CLK_PLL i.val) 0 = false) ∧
      (NoJob s.dev → Frame [.pins, .tor, .host, .cipher]
        (zeroRegs ++ pllRegs ++ [A.CLK_FAIL, A.CLK_STAT, A.PAIR_STAT, A.SB_ALERTSRC, A.TOR_FAULT, A.TOR_STAT]) s.dev d))) ∧
  (∀ s i, Running s → s.dev.tor.clkFail = false →
    Gives (.pllLossOfLock i) s (fun d =>
      ClockStopped (2 + i.val) d ∧ d.bit A.CLK_STAT (2 + i.val) = false ∧ d.bit (A.CLK_PLL i.val) 0 = false ∧
      d.fld (A.CLK_PLL i.val) 31 16 = (s.dev.fld (A.CLK_PLL i.val) 31 16 + 1) % 2 ^ 16 ∧
      (s.dev.board.code ≠ 2 → d.cipher.slots = []) ∧
      (NoJob s.dev → Frame [.pins, .tor, .host, .cipher]
        (zeroRegs ++ [A.CLK_FAIL, A.CLK_STAT, A.CLK_PLL i.val, A.PAIR_STAT, A.SB_ALERTSRC, A.TOR_FAULT, A.TOR_STAT]) s.dev d))) ∧
  (∀ s i bad corr, s.dev.tor.clkFail = true → s.dev.tor.pwr = .on → ¬ Running s → s.dev.bit A.CLK_STAT 6 = true →
    (∀ k : Fin 4, k ≠ i → s.dev.bit A.CLK_STAT (2 + k.val) = true) → s.dev.wr.entries = [] → s.dev.host.reads = [] →
    s.dev.mules.luns = [] → s.dev.wr.waiting = [] → NoReadWait s.dev → s.dev.pins.fenceIn = false → s.dev.pins.perst = false →
    s.dev.pins.pwrLoss = false →
    Gives (.pllLock i bad corr) s (fun d =>
      d.tor.mainOn = true ∧ d.tor.clkFail = false ∧ d.pins.forced = false ∧ d.faultN = false ∧ d.bit A.CLK_STAT 1 = true ∧
      d.bit A.CLK_STAT (2 + i.val) = true ∧ (0, 0x0100) ∈ d.cores.irqs ∧
      d.fld A.CLK_FAIL 23 0 = Nat.min (s.dev.tor.failTicks / 100) 0xFFFFFF ∧ d.tick = s.dev.tick + s.dev.tor.failTicks ∧
      d.rd A.HEN_PTR = s.dev.rd A.HEN_BASE ∧
      Frame [.pins, .tor, .cores, .cairn, .cipher, .fw, .tick]
        [A.CLK_FAIL, A.CLK_STAT, A.CLK_PLL i.val, A.TOR_STAT, A.HEN_PTR] s.dev d))

/-- R323 to R325, R328, R331: clock enables, automatic gating, block resets, the cores. -/
def Obligations.ClockGating : Prop :=
  (∀ s v, Running s → s.dev.gate.heldRst = 0 →
    Gives (.clkEnWrite false v) s (fun d =>
      (∀ n, n < 11 →
        d.bit A.CLK_EN n = bitOf v n ∧
        (bitOf v n = true → s.dev.bit A.CLK_EN n = false → s.dev.bit A.CLK_ENSTAT n = false → d.bit A.CLK_ENSTAT (16 + n) = true) ∧
        (bitOf v n = false → s.dev.bit A.CLK_EN n = true → s.dev.bit A.CLK_ENSTAT (16 + n) = true →
          d.bit A.CLK_ENSTAT n = true ∧ d.bit A.CLK_ENSTAT (16 + n) = true)) ∧
      Frame [] [A.CLK_EN, A.CLK_ENSTAT] s.dev d)) ∧
  (∀ s v, Running s → s.dev.gate.heldMule = 0 →
    Gives (.clkEnWrite true v) s (fun d =>
      (∀ c, c < 64 →
        d.bit A.CLK_EN_MULE c = bitOf v c ∧
        (bitOf v c = true → s.dev.bit A.CLK_EN_MULE c = false → s.dev.bit A.CLK_DRAIN_MULE c = false → d.bit A.CLK_ON_MULE c = true) ∧
        (bitOf v c = false → s.dev.bit A.CLK_EN_MULE c = true → s.dev.bit A.CLK_ON_MULE c = true →
          d.bit A.CLK_DRAIN_MULE c = true ∧ d.bit A.CLK_ON_MULE c = true)) ∧
      Frame [] [A.CLK_EN_MULE, A.CLK_DRAIN_MULE, A.CLK_ON_MULE] s.dev d)) ∧
  (∀ s n, Running s → s.dev.bit A.CLK_ENSTAT n.val = true → s.dev.idle n.val = true → s.dev.bit A.CLK_EN n.val = false →
    Gives (.blockClockStop (.blk n)) s (fun d =>
      d.bit A.CLK_ENSTAT n.val = false ∧ d.bit A.CLK_ENSTAT (16 + n.val) = false ∧ Frame [] [A.CLK_ENSTAT] s.dev d)) ∧
  (∀ s ch, Running s → s.dev.bit A.CLK_DRAIN_MULE ch.val = true → s.dev.muleIdle ch.val = true → s.dev.bit A.CLK_EN_MULE ch.val = false →
    Gives (.blockClockStop (.mule ch)) s (fun d =>
      d.bit A.CLK_DRAIN_MULE ch.val = false ∧ d.bit A.CLK_ON_MULE ch.val = false ∧
      Frame [] [A.CLK_DRAIN_MULE, A.CLK_ON_MULE] s.dev d)) ∧
  (∀ s ch, Running s → s.dev.bit A.CLK_CTL 0 = true → s.dev.bit A.CLK_ON_MULE ch.val = true →
    Gives (.autoClockGate (.mule ch)) s (fun d => bitOf d.gate.autoMule ch.val = true ∧ Frame [.gate] [] s.dev d)) ∧
  (∀ s n, Running s → s.dev.bit A.CLK_CTL 0 = true → s.dev.bit A.CLK_ENSTAT (16 + n.val) = true →
    Gives (.autoClockGate (.blk n)) s (fun d => bitOf d.gate.auto n.val = true ∧ Frame [.gate] [] s.dev d)) ∧
  (∀ s n, Running s → Gives (.autoClockUngate (.blk n)) s (fun d => bitOf d.gate.auto n.val = false ∧ Frame [.gate] [] s.dev d)) ∧
  (∀ s ch, Running s →
    Gives (.autoClockUngate (.mule ch)) s (fun d => bitOf d.gate.autoMule ch.val = false ∧ Frame [.gate] [] s.dev d))

/-- R328, R331, R213: the reset of one clocked block, and of a control core. -/
def Obligations.BlockResets : Prop :=
  (∀ s n, Running s → Canon s.dev → n < 11 → s.dev.bit A.CLK_ENSTAT (16 + n) = true →
    s.dev.ox.flight = [] → (n = 7 → ∀ k, k < 32 → s.dev.oxState k ≠ 1) →
    Gives (.clkBrst false (BitVec.twoPow 64 n)) s (fun d =>
      (∀ r, blockOf r = clkBlock n → d.rd r = blockResetVal r (s.dev.rd r)) ∧
      (∀ r, blockOf r ≠ clkBlock n → d.rd r = s.dev.rd r) ∧ (∀ x, d.byte x = s.dev.byte x) ∧ d.board = s.dev.board ∧
      (∀ p, p ∉ [Part.cairn, .cirque, .dram, .ox, .cipher, .mules, .pair, .pens, .host] → p.same s.dev d) ∧
      (n = 3 → d.dram.chk = s.dev.dram.chk ∧ d.dram.raw = s.dev.dram.raw ∧ d.dram.bad = s.dev.dram.bad) ∧
      (n = 9 → d.host.sqs = [] ∧ d.host.cqs = [] ∧ d.host.reads = s.dev.host.reads ∧ d.host.fw = s.dev.host.fw))) ∧
  (∀ s, Running s → s.dev.ox.flight = [] → s.dev.mules.luns = [] →
    Gives (.clkBrst false (BitVec.twoPow 64 11)) s (fun d =>
      (∀ r, blockOf r = 3 → r ≠ A.THERM_STAT → d.rd r = blockResetVal r (s.dev.rd r)) ∧ d.fwFlag = s.dev.fwFlag ∧
      (∀ ch, ch < 64 → d.fld (A.MULE_PE_CAP ch) 13 8 = s.dev.peCap ch) ∧
      (∀ r, blockOf r ≠ 3 → (∀ ch, ch < 64 → r ≠ A.MULE_PE_CAP ch) → d.rd r = s.dev.rd r) ∧
      (∀ x, d.byte x = s.dev.byte x) ∧ d.board = s.dev.board ∧ ∀ p, p ∉ [Part.ox] → p.same s.dev d)) ∧
  (∀ s n k a w, Running s → n < 11 → s.dev.bit A.CLK_ENSTAT (16 + n) = true → clkBlock n ≠ 8 → s.dev.ox.flight = [k] → k < 32 →
    n ≠ 7 → s.dev.oxMeets k (clkBlock n) = some (a, w) →
    Gives (.clkBrst false (BitVec.twoPow 64 n)) s (fun d =>
      d.oxState k = 4 ∧ d.fld (A.OX_STAT k) 8 6 = BusErr.xreset.code ∧ d.rd (A.OX_BERR k) = BitVec.ofNat 64 a ∧
      d.bit A.OX_ERRST k = true)) ∧
  (∀ s (ch : Ch), Running s → Canon s.dev → s.dev.bit A.CLK_ON_MULE ch.val = true → s.dev.ox.flight = [] →
    Gives (.clkBrst true (BitVec.twoPow 64 ch.val)) s (fun d =>
      (∀ r, blockOf r = 16 + ch.val → d.rd r = regReset r) ∧ (∀ r, blockOf r ≠ 16 + ch.val → d.rd r = s.dev.rd r) ∧
      (∀ x, d.byte x = s.dev.byte x) ∧ d.board = s.dev.board ∧ (∀ p, p ∉ [Part.mules, .ox] → p.same s.dev d) ∧
      (∀ l : LunN, (s.dev.lun ch.val l.val).run ≠ none → ch.val * 32 + l.val ∈ d.mules.left) ∧
      ∀ l : LunN, d.lun ch.val l.val = { run := none, susp := none, queue := [], reads := 0, runUs := 0 })) ∧
  (∀ s n, Running s → n < 11 → s.dev.bit A.CLK_ENSTAT (16 + n) = false →
    Gives (.clkBrst false (BitVec.twoPow 64 n)) s (fun d => bitOf d.gate.heldRst n = true ∧ Frame [.gate] [] s.dev d)) ∧
  (∀ s v, Running s →
    Gives (.clkCoreRunWrite v) s (fun d =>
      d.rd A.CLK_CORE_RUN = BitVec.ofNat 64 (v.toNat ||| 1) ∧
      (∀ n c, 0 < n → n < 16 → c < 24 → bitOf (s.dev.rd A.CLK_CORE_RUN) n = true → v.getLsbD n = false →
        s.dev.fld (A.CIPHER_LOCK c) 6 0 = n + 1 →
        (s.dev.bit (A.CIPHER_CORE_CTL c) 0 = false → d.rd (A.CIPHER_LOCK c) = 0) ∧
        (s.dev.bit (A.CIPHER_CORE_CTL c) 0 = true → s.dev.bit (A.CIPHER_CORE_STAT c) 1 = false → d.rd (A.CIPHER_LOCK c) = 0x7F)) ∧
      (NoJob s.dev → s.dev.cipher.queue = [] →
        Frame [.cores] ([A.CLK_CORE_RUN] ++ (List.range 24).flatMap (fun c => [A.CIPHER_LOCK c, A.CIPHER_CORE_STAT c])) s.dev d))) ∧
  (∀ s n c x, Running s → 0 < n → n < 16 → c < 24 → s.dev.rd A.CLK_CORE_RUN = BitVec.ofNat 64 (1 ||| 2 ^ n) →
    s.dev.fld (A.CIPHER_LOCK c) 6 0 = n + 1 → (∀ k, k < 24 → k ≠ c → s.dev.fld (A.CIPHER_LOCK k) 6 0 ≠ n + 1) →
    s.dev.bit (A.CIPHER_CORE_CTL c) 0 = false → s.dev.jobResult c = 1 → (s.dev.ccore c).ctx = some x → JobInHub c x s.dev →
    Gives (.clkCoreRunWrite 1) s (fun d =>
      d.jobResult c = 6 ∧ (d.ccore c).ctx = none ∧ d.rd (A.CIPHER_LOCK c) = 0 ∧
      ∃ m, x.blk ≤ m ∧ m ≤ x.len ∧ (m < 65536 → d.fld (A.CIPHER_JOB_STAT c) 31 16 = m) ∧ JobWritten c x m s.dev d))

/-! Power, resets, flush, sleep (R29, R149 to R155, R326 to R345, R354, R355, R389 to R397). -/

/-- R326, R341, R354, R355, R381: power-on, brown-out, the hardware thermal shutdown and the restart after it. -/
def Obligations.PowerOn : Prop :=
  (∀ s, Gives .vddAonPowerOn s (AonReset s.dev)) ∧
  (∀ s, s.dev.tor.pwr = .s3 → Gives .torBrownOut s (AonReset s.dev)) ∧
  (∀ s, s.dev.tor.pwr = .off ∨ s.dev.tor.pwr = .on ∨ s.dev.tor.pwr = .romRecovery →
    Gives .mainPowerOn s (fun d =>
      d.tor.pwr = .waking ∧ d.tor.saved = .off ∧ d.tor.mainOn = false ∧ d.pins.gpio14 = true ∧ d.pins.gpio15 = true ∧
      d.bit A.CLK_RSTCAUSE 1 = true ∧ d.fw.mode = .init ∧
      d.rd A.TOR_STAT = BitVec.ofNat 64 (0x2010 + (if s.dev.fld A.CLK_STAT 7 6 = 3 then 3 else 2) * 256) ∧
      WasReset ([A.CLK_STAT, A.CLK_RSTCAUSE, A.TOR_STAT, A.SB_ENUM] ++ pllRegs) s.dev d)) ∧
  (∀ s sensor temp, s.dev.tor.pwr ≠ .off →
    Gives (.hardwareThermalShutdown sensor temp) s (fun d =>
      d.tor.pwr = .thermalOff ∧ d.tor.mainOn = false ∧ d.faultN = true ∧ d.bit A.TOR_FAULT 1 = true ∧
      d.pins.gpio14 = false ∧ d.pins.gpio15 = false ∧
      d.rd A.THERM_SDINFO = BitVec.ofNat 64
        (temp.toNat * 2 ^ 16 + sensor.val * 2 ^ 8 + Nat.min (s.dev.fld A.THERM_SDINFO 7 0 + 1) 255) ∧
      WasReset ([A.CLK_STAT, A.TOR_FAULT, A.THERM_SDINFO, A.SB_ALERTSRC, A.SB_ENUM] ++ pllRegs) s.dev d)) ∧
  (∀ s temp, s.dev.tor.pwr = .thermalOff → 9 ≤ s.dev.tor.tripSec → signed 16 temp.toNat < 360 →
    thirdTrip (s.dev.tor.trips.map (· + 1600000000)) = false →
    Gives (.thermalRestartCheck temp) s (fun d =>
      d.tor.pwr = .waking ∧ d.tor.saved = .thermalOff ∧ d.rd A.TOR_STAT = 0x2110 ∧ d.pins.gpio14 = true ∧ d.pins.gpio15 = true ∧
      Frame [.pins, .tor] [A.TOR_STAT] s.dev d)) ∧
  (∀ s temp, s.dev.tor.pwr = .thermalOff → 9 ≤ s.dev.tor.tripSec → signed 16 temp.toNat < 360 →
    thirdTrip (s.dev.tor.trips.map (· + 1600000000)) = true →
    Gives (.thermalRestartCheck temp) s (fun d => d.tor.pwr = .thermalOff ∧ d.tor.waitEv = true ∧ Frame [.tor] [] s.dev d)) ∧
  (∀ s temp, s.dev.tor.pwr = .thermalOff → s.dev.tor.tripSec < 9 ∨ 360 ≤ signed 16 temp.toNat →
    Gives (.thermalRestartCheck temp) s (fun d =>
      d.tor.pwr = .thermalOff ∧ d.tor.tripSec = s.dev.tor.tripSec + 1 ∧ Frame [.tor] [] s.dev d))

/-- R327, R394, R396, R397: the release of the main reset into ROM recovery or into the resume of S2, and the image that the
host gives the ROM. -/
def Obligations.ResetRelease : Prop :=
  (∀ s b, s.dev.tor.mainOn = false → s.dev.clocksGood = true →
    s.dev.tor.pwr = .on ∨ s.dev.tor.pwr = .waking → s.dev.tor.saved = .off → s.dev.romPick.1 = none → s.dev.pins.pwrLoss = false →
    Gives (.mainResetRelease b) s (fun d =>
      d.tor.pwr = .romRecovery ∧ d.tor.mainOn = false ∧ d.faultN = true ∧ d.pins.forced = false ∧
      d.rd A.CLK_EN = 0x214 ∧ d.rd A.TOR_STAT = 0 ∧
      Frame [.pins, .tor, .host] [A.TOR_STAT, A.CLK_EN, A.CLK_ENSTAT, A.SB_ALERTSRC] s.dev d)) ∧
  (∀ s b, s.dev.tor.mainOn = false → s.dev.clocksGood = true → s.dev.tor.pwr = .waking → s.dev.tor.saved = .s2 →
    s.dev.resumeKind b = 1 → (∀ p ∈ s.dev.fw.sleepRegs, 5 ≤ blockOf p.1) → s.dev.pins.pwrLoss = false → s.dev.pins.perst = false →
    Gives (.mainResetRelease b) s (fun d =>
      d.tor.pwr = .on ∧ d.tor.mainOn = true ∧ d.fw.mode = s.dev.fw.mode ∧ d.bit A.CLK_RSTCAUSE 4 = true ∧
      d.fld A.PWR_STAT 6 4 = 2 ∧ d.tick = s.dev.tick + s.dev.tor.failTicks ∧ d.pins.forced = false ∧
      (d.byte 0x10FFFF0C).toNat = 1 ∧
      FrameMem [.pins, .tor, .gate, .host, .fw, .cairn, .tick]
        ([A.TOR_STAT, A.CLK_RSTCAUSE, A.PWR_STAT, A.PWR_SLEPT, A.HEN_PTR, A.CAIRN_HWDROP] ++ s.dev.fw.sleepRegs.map Prod.fst)
        0x10FFFF00 0x11000000 s.dev d)) ∧
  (∀ s, s.dev.tor.pwr = .romRecovery →
    Gives (.romRecoveryLoad 0x43484354) s (fun d =>
      let code := s.dev.reject s.dev.cmbContainer false
      d.tor.romCode = code ∧
      (code = 0 → d.tor.pwr = .on ∧ d.tor.mainOn = false ∧
        (s.dev.cirque.esec = [] → s.dev.cirque.prog = none →
          d.recWord 0 0 actvMagic = some ((s.dev.topCommit 0 + 1) % 2 ^ 32))) ∧
      (code ≠ 0 → Frame [.tor] [] s.dev d)))

/-- R29, R149 to R152, R389: what starts the flush, what it fixes, and its end. -/
def Obligations.PowerLossFlush : Prop :=
  (∀ s, Running s → s.dev.tor.pwr = .on → s.dev.tor.latch = false →
    Gives .pwrLossNAssert s (fun d =>
      Latched s.dev d ∧ d.pins.pwrLoss = true ∧ d.bit A.PWR_STAT 7 = true ∧ d.tor.perstFlush = false ∧
      Frame [.pins, .tor, .host, .cirque, .mules, .wr, .media, .pair] (latchRegs s.dev) s.dev d)) ∧
  (∀ s, s.dev.tor.pwr = .s2 ∨ s.dev.tor.pwr = .s3 →
    Gives .pwrLossNAssert s (fun d => d.bit A.TOR_FAULT 3 = true ∧ d.pins.pwrLoss = true ∧ Frame [.pins] [A.TOR_FAULT] s.dev d)) ∧
  (∀ s, Running s → s.dev.pins.pwrLoss = false → s.dev.tor.latch = false →
    Gives .mainRailOutOfTolerance s (fun d =>
      Latched s.dev d ∧ d.bit A.PWR_STAT 7 = true ∧ Frame [.tor, .host, .cirque, .mules, .wr, .media, .pair] (latchRegs s.dev) s.dev d)) ∧
  (∀ s, Running s → s.dev.tor.pwr = .on → s.dev.tor.latch = false →
    Gives .perstNAssert s (fun d =>
      Latched s.dev d ∧ d.pins.perst = true ∧ d.host.linkUp = false ∧ d.tor.perstFlush = true ∧
      Frame [.pins, .tor, .host, .cirque, .mules, .wr, .media, .pair] (latchRegs s.dev) s.dev d)) ∧
  (∀ s, Running s →
    Gives .perstNDeassert s (fun d =>
      d.pins.perst = false ∧ d.pins.wakeN = false ∧ d.host.linkUp = true ∧ Frame [.pins, .host] [] s.dev d)) ∧
  (∀ s, Running s → s.dev.tor.latch = true →
    ∀ risen, Gives (.flushComplete risen) s (fun d =>
      d.tor.latch = false ∧ d.tor.mainOn = false ∧ d.fw.mode = .init ∧ d.pins.forced = true ∧
      (d.wr.flushArea = s.dev.wr.flushArea ∧ d.wr.flushPeer = s.dev.wr.flushPeer) ∧
      (s.dev.flushes = true →
        d.wr.flushWas = [flushRows (entryLbas s.dev.wr.flushArea), flushRows (mirLbas s.dev.wr.flushPeer)]) ∧
      (∃ r, d.media.journal.getLast? = some r ∧ r.flushed = true ∧ r.peer = false ∧
        r.body = .shutdown (if s.dev.tor.perstFlush then 1 else 0)) ∧
      (s.dev.pins.pwrLoss = true → risen = false → d.tor.pwr = .off ∧ d.pins.gpio14 = false ∧ d.pins.gpio15 = false) ∧
      (s.dev.pins.pwrLoss = false ∨ risen = true →
        d.tor.pwr = .on ∧ d.pins.pwrLoss = false ∧ (s.dev.tor.perstFlush = true → d.bit A.CLK_RSTCAUSE 2 = true)) ∧
      (∀ r, r ∉ [A.CLK_STAT, A.CLK_RSTCAUSE, A.SB_ENUM] ++ pllRegs → d.rd r = blockResetVal r (s.dev.rd r)) ∧
      d.media.flash = s.dev.media.flash))

/-- R335 to R338: the entry steps after GO. -/
def Obligations.SleepEntry : Prop :=
  (∀ s, Reach A.PWR_CTL s → s.dev.tor.latch = false → s.dev.bit A.PWR_STAT 2 = false →
    Gives (.pwrCtlGo 1) s (fun d =>
      d.tor.pwr = .s1 ∧ d.tor.mainOn = false ∧ d.pins.ckeLow = true ∧ d.rd A.TOR_STAT = 0x1000 ∧
      (∀ i, i ∈ [0, 2, 3] → d.bit A.CLK_STAT (2 + i) = false) ∧ d.bit A.CLK_STAT 3 = s.dev.bit A.CLK_STAT 3 ∧
      Frame [.pins, .tor] ([A.PWR_CTL, A.PWR_STAT, A.CLK_STAT, A.TOR_STAT] ++ pllRegs) s.dev d)) ∧
  (∀ s, Reach A.PWR_CTL s → s.dev.tor.latch = false → s.dev.bit A.PWR_STAT 2 = false →
    Gives (.pwrCtlGo 2) s (fun d =>
      let gen := ((s.dev.rd A.PWR_ENTRY_GEN).toNat + 1) % 2 ^ 32
      d.tor.pwr = .s2 ∧ d.tor.mainOn = false ∧ d.pins.ckeLow = true ∧ d.pins.gpio15 = false ∧
      d.pins.gpio14 = s.dev.pins.gpio14 ∧ d.rd A.TOR_STAT = 0x1000 ∧ d.rd A.PWR_ENTRY_GEN = BitVec.ofNat 64 gen ∧
      (∀ b, b < 8 → s.dev.bit A.PWR_RET_MASK b = true →
        d.rd (A.TOR_SEAL b) = BitVec.ofNat 64 (gen * 2 ^ 32 + crc32c (s.dev.bytes (bankBase b) 0x40000)) ∧
        ∀ x, bankBase b ≤ x → x < bankBase (b + 1) → d.byte x = s.dev.byte x) ∧
      (∀ b, b < 8 → s.dev.bit A.PWR_RET_MASK b = false → ∀ x, bankBase b ≤ x → x < bankBase (b + 1) → d.byte x = 0) ∧
      FrameMem [.pins, .tor] ([A.PWR_CTL, A.PWR_STAT, A.CLK_STAT, A.TOR_STAT, A.PWR_ENTRY_GEN] ++ pllRegs ++ (List.range 8).map A.TOR_SEAL)
        (bankBase 0) (bankBase 8) s.dev d)) ∧
  (∀ s, Reach A.PWR_CTL s → s.dev.tor.latch = false → s.dev.bit A.PWR_STAT 2 = false →
    Gives (.pwrCtlGo 3) s (fun d =>
      d.tor.pwr = .s3 ∧ d.tor.mainOn = false ∧ d.tor.osc16 = false ∧ d.pins.gpio14 = false ∧ d.pins.gpio15 = false ∧
      d.fld A.CLK_STAT 7 2 = 0)) ∧
  (∀ s v, Reach A.PWR_CTL s → s.dev.tor.pwr = .on → v = 0 ∨ 4 ≤ v.toNat →
    Gives (.pwrCtlGo v) s (fun d => d.fld A.PWR_CTL 2 0 = v.toNat ∧ Frame [] [A.PWR_CTL] s.dev d)) ∧
  (∀ s, Running s → s.dev.maySleep = true → s.dev.noCommand = true → s.dev.tor.sleepReq = 0 → s.dev.tor.latch = false →
    s.dev.tor.ps = 2 → s.dev.fld A.HEN_STAT 1 0 = 0 → (∀ ch, ch < 64 → s.dev.fld (A.MULE_STAT ch) 1 0 = 0) →
    s.dev.bit A.PWR_STAT 2 = false →
    Gives .linkL12Entry s (fun d => d.tor.pwr = .s1 ∧ d.tor.mainOn = false ∧ d.pins.ckeLow = true ∧ d.wr.entries = s.dev.wr.entries)) ∧
  (∀ s, Running s → s.dev.maySleep = true → s.dev.noCommand = true → s.dev.tor.sleepReq = 0 → s.dev.tor.latch = false →
    s.dev.tor.ps = 4 → s.dev.wr.entries = [] → s.dev.wr.groups = [] → s.dev.media.lru = [] → s.dev.media.nss = [] →
    s.dev.fld A.HEN_STAT 1 0 = 0 → (∀ ch, ch < 64 → s.dev.fld (A.MULE_STAT ch) 1 0 = 0) → s.dev.bit A.PWR_STAT 2 = false →
    Gives .pmeTurnOffHandshake s (fun d =>
      d.tor.pwr = .s3 ∧ d.tor.mainOn = false ∧ d.pins.gpio14 = false ∧ d.pins.gpio15 = false ∧ d.rd A.PWR_RET_MASK = 0))

/-- R342 to R345: the wake sources, a step that times out, WAKE_FAILED. -/
def Obligations.WakeSources : Prop :=
  (∀ s, Wakes 0 s.dev →
    Gives .wakeInRise s (fun d => Waking 0 s.dev d ∧ d.pins.wakeIn = true ∧
      (s.dev.tor.pwr = .s3 → d.pins.wakeN = true) ∧ Frame [.pins, .tor] [A.PWR_WAKESRC, A.TOR_STAT] s.dev d)) ∧
  (∀ s, Wakes 3 s.dev →
    Gives .clkreqNAssert s (fun d => Waking 3 s.dev d ∧ Frame [.pins, .tor] [A.PWR_WAKESRC, A.TOR_STAT] s.dev d)) ∧
  (∀ s, Wakes 4 s.dev → s.dev.rd A.PWR_TIMER ≠ 0 →
    Gives .pwrTimerExpiry s (fun d => Waking 4 s.dev d ∧ Frame [.pins, .tor] [A.PWR_WAKESRC, A.TOR_STAT] s.dev d)) ∧
  (∀ s (addr : BitVec 7), Wakes 2 s.dev →
    (if s.dev.bit A.SB_ADDR 7 then addr.toNat = s.dev.fld A.SB_ADDR 6 0 else s.dev.pins.enumIn = true ∧ addr = 0x3A) →
    Gives (.sidebandAddressMatch addr true) s (fun d =>
      Waking 2 s.dev d ∧ d.tor.osc16 = true ∧ Frame [.pins, .tor] [A.PWR_WAKESRC, A.TOR_STAT] s.dev d)) ∧
  (∀ s (addr : BitVec 7),
    (if s.dev.bit A.SB_ADDR 7 then addr.toNat = s.dev.fld A.SB_ADDR 6 0 else s.dev.pins.enumIn = true ∧ addr = 0x3A) →
    Gives (.sidebandAddressMatch addr false) s (fun d => d.tor.osc16 = true ∧ d.tor.pwr = s.dev.tor.pwr ∧ Frame [.tor] [] s.dev d)) ∧
  (∀ s cause, s.dev.tor.pwr = .waking → s.dev.fld A.TOR_STAT 7 4 < 4 →
    Gives (.wakeStepTimeout cause) s (fun d =>
      d.tor.pwr = .waking ∧ d.fld A.TOR_STAT 7 4 = s.dev.fld A.TOR_STAT 7 4 + 1 ∧ d.fld A.TOR_STAT 3 0 = cause.toNat ∧
      d.fld A.TOR_STAT 11 8 = s.dev.fld A.TOR_STAT 11 8 ∧ Frame [.tor] ([A.TOR_STAT, A.CLK_STAT] ++ pllRegs) s.dev d)) ∧
  (∀ s cause, s.dev.tor.pwr = .waking → 4 ≤ s.dev.fld A.TOR_STAT 7 4 →
    Gives (.wakeStepTimeout cause) s (fun d =>
      d.tor.pwr = .wakeFailed ∧ d.tor.mainOn = false ∧ d.fld A.TOR_STAT 15 12 = 3 ∧ d.bit A.TOR_FAULT 2 = true ∧
      d.faultN = true ∧ d.bit A.SB_ALERTSRC 2 = true ∧ d.bit A.SB_ALERTSRC 0 = true ∧
      (s.dev.tor.saved ≠ .s1 → d.pins.gpio15 = false) ∧ d.pins.gpio14 = s.dev.pins.gpio14 ∧
      Frame [.pins, .tor] [A.TOR_STAT, A.TOR_FAULT, A.SB_ALERTSRC] s.dev d))

/-! Thermal control (R85, R348 to R357). -/

/-- R348, R350, R351, R353, R356: a junction conversion, the throttle percentage, WARN, and writes of the curve. -/
def Obligations.ThermalConversion : Prop :=
  (∀ s j milli, Running s →
    Gives (.junctionConversion j milli) s (fun d =>
      d.rd (A.THERM_TJ j.val) = BitVec.ofNat 64 (2 ^ 16 + code16 (quarters milli + signed 8 (s.dev.fld (A.THERM_JOFF j.val) 7 0))) ∧
      (∃ hot tj, d.hottest = some (hot, tj) ∧ d.rd A.THERM_TJMAX = BitVec.ofNat 64 (hot * 2 ^ 16 + code16 tj) ∧
        d.pctA = nextA s.dev.pctA s.dev.curve tj (4 * s.dev.fld A.THERM_HYST 3 0) ∧
        (380 ≤ tj → d.bit A.THERM_STAT 1 = true) ∧ (tj < 368 → d.bit A.THERM_STAT 1 = false) ∧
        (368 ≤ tj → tj < 380 → d.bit A.THERM_STAT 1 = s.dev.bit A.THERM_STAT 1)) ∧
      (d.pctA ≠ s.dev.pctA → d.bit A.THERM_STAT 2 = decide (d.pctA < 100) ∧
        ∀ ch, ch < 64 → d.fld (A.MULE_PE_CAP ch) 13 8 = Nat.min (s.dev.peCap ch) (effCap (s.dev.peCap ch) d.pctA)) ∧
      Frame [.cairn, .host, .mules, .pins, .tor]
        ([A.THERM_TJ j.val, A.THERM_TJMAX, A.THERM_PCT, A.THERM_STAT, A.SB_ALERTSRC] ++ (List.range 64).map A.MULE_PE_CAP ++ lunRegs s.dev)
        s.dev d)) ∧
  (∀ s milli, ¬ Running s → s.dev.tor.pwr ≠ .off →
    Gives (.junctionConversion 0 milli) s (fun d =>
      d.rd (A.THERM_TJ 0) = BitVec.ofNat 64 (2 ^ 16 + code16 (quarters milli + signed 8 (s.dev.fld (A.THERM_JOFF 0) 7 0))) ∧
      Frame [] [A.THERM_TJ 0] s.dev d)) ∧
  (∀ s i v, Reach (A.THERM_CURVE i.val) s →
    Gives (.thermCurveWrite false i v) s (fun d =>
      d.rd (A.THERM_CURVE i.val) = BitVec.ofNat 64 (v.toNat &&& 0xFF7F) ∧ d.pctA = s.dev.pctA ∧
      Frame [] [A.THERM_CURVE i.val] s.dev d)) ∧
  (∀ s i v, Reach A.THERM_HYST s →
    Gives (.thermCurveWrite true i v) s (fun d =>
      d.rd A.THERM_HYST = BitVec.ofNat 64 (v.toNat % 16) ∧ d.pctA = s.dev.pctA ∧ Frame [] [A.THERM_HYST] s.dev d))

/-- R85, R349: a conversion of a flash case input and the flash-window flag. -/
def Obligations.FlashWindow : Prop :=
  ∀ s k code milli, Running s →
    Gives (.flashCaseConversion k code milli) s (fun d =>
      let q := quarters milli
      let fault := s.dev.bit A.THERM_EXTEN k.val && (decide (q < -80) || decide (500 < q))
      d.rd (A.THERM_TF k.val) = BitVec.ofNat 64 (code.toNat * 2 ^ 18 + (if fault then 2 ^ 17 else 0) + 2 ^ 16 +
        code16 (q + signed 8 (s.dev.fld (A.THERM_EXTOFF k.val) 7 0))) ∧
      d.bit A.THERM_STAT 3 = (List.range 16).any (fun i => d.bit A.THERM_EXTEN i && d.bit (A.THERM_TF i) 17) ∧
      d.fwFlag = (if (List.range 16).any (fun i => caseOutside (d.bit A.THERM_EXTEN i) (d.rd (A.THERM_TF i))) then true
        else if (List.range 16).all (fun i => caseInside (d.bit A.THERM_EXTEN i) (d.rd (A.THERM_TF i))) then false
        else s.dev.fwFlag) ∧
      (s.dev.fwFlag = false ∨ d.fwFlag = true → Frame [] [A.THERM_TF k.val, A.THERM_STAT] s.dev d))

/-! The sideband (R342, R358 to R372). -/

/-- R366, R367: the Tor packets that read. -/
def Obligations.TorReads : Prop :=
  (∀ s pec seq, TorTakes pec 0x01 seq s.dev →
    Gives (.torStatus pec seq []) s (fun d =>
      Replied d 0x01 seq 0 (leBytes 4 (s.dev.rd A.TOR_STAT).toNat ++ leBytes 4 s.dev.mirrored ++ leBytes 1 s.dev.torState ++
        leBytes 1 (s.dev.fld A.SB_ADDR 7 0) ++ leBytes 1 (s.dev.fld A.SB_DADDR 7 0) ++
        leBytes 1 ((if s.dev.pins.enumIn then 1 else 0) + (if s.dev.bit A.SB_ENUM 1 then 2 else 0) +
          (if s.dev.faultN then 4 else 0) + (if s.dev.board.sbMode then 8 else 0)) ++ leBytes 1 (s.dev.fld A.SB_ALERTSRC 4 0)) ∧
      Frame [.tor] [A.SB_CNT 0] s.dev d)) ∧
  (∀ s pec seq, TorTakes pec 0x04 seq s.dev →
    Gives (.torFaultRead pec seq [0x01]) s (fun d =>
      Replied d 0x04 seq 0 (leBytes 4 (s.dev.rd A.TOR_FAULT).toNat ++ leBytes 4 (s.dev.rd A.TOR_STAT).toNat ++
        leBytes 4 (s.dev.rd A.CLK_FAIL).toNat ++ leBytes 4 (s.dev.rd A.THERM_SDINFO).toNat) ∧
      d.rd A.TOR_FAULT = 0 ∧ Frame [.tor] [A.SB_CNT 0, A.TOR_FAULT] s.dev d)) ∧
  (∀ s pec seq, TorTakes pec 0x07 seq s.dev →
    Gives (.torTempRead pec seq []) s (fun d =>
      (∃ data, Replied d 0x07 seq 0 data ∧ data.length = 51 ∧
        (Running s → ∀ j, j < 8 → s.dev.bit (A.THERM_TJ j) 16 = true →
          ofLe ((data.drop (3 + 2 * j)).take 2) = s.dev.fld (A.THERM_TJ j) 15 0)) ∧
      Frame [.tor] [A.SB_CNT 0] s.dev d)) ∧
  (∀ s pec seq (n : Byte), TorTakes pec 0x08 seq s.dev → s.dev.tor.pwr = .on → s.dev.tor.clkFail = false → 1 ≤ n.toNat → n.toNat ≤ 7 →
    Gives (.torEventTail pec seq [n]) s (fun d =>
      (∃ tail, tail <:+ (s.dev.log devLog).ordered devLog ∧
        tail.length = Nat.min n.toNat ((s.dev.log devLog).ordered devLog).length ∧
        Replied d 0x08 seq 0 (leBytes 1 tail.length ++ leBytes 4 (s.dev.log devLog).drops ++ tail.flatMap recBytes)) ∧
      Frame [.tor] [A.SB_CNT 0] s.dev d)) ∧
  (∀ s pec seq op, TorTakes pec op.toNat seq s.dev →
    Gives (.torUndefinedOpcode pec op seq) s (fun d => Replied d op.toNat seq 2 [] ∧ Frame [.tor] [A.SB_CNT 0] s.dev d))

/-- R362, R366, R367, R371: the Tor packets that act. -/
def Obligations.TorActions : Prop :=
  (∀ s pec seq, TorTakes pec 0x02 seq s.dev → Wakes 2 s.dev →
    Gives (.torWake pec seq []) s (fun d =>
      Replied d 0x02 seq 0 [] ∧ Waking 2 s.dev d ∧
      Frame [.pins, .tor] [A.SB_CNT 0, A.PWR_WAKESRC, A.TOR_STAT] s.dev d)) ∧
  (∀ s pec seq, TorTakes pec 0x02 seq s.dev → s.dev.tor.pwr = .on → s.dev.bit A.PWR_STAT 3 = false →
    Gives (.torWake pec seq []) s (fun d => Replied d 0x02 seq 0 [] ∧ d.tor.pwr = .on ∧ Frame [.tor] [A.SB_CNT 0] s.dev d)) ∧
  (∀ s pec seq, TorTakes pec 0x03 seq s.dev → s.dev.tor.pwr = .on → Running s → s.dev.maySleep = true →
    s.dev.tor.sleepReq = 0 → s.dev.tor.latch = false →
    Gives (.torSleep pec seq [0x02]) s (fun d =>
      Replied d 0x03 seq 0 [] ∧ (d.tor.pwr = .s2 ∨ d.tor.pwr = .waking ∨ (d.tor.sleepReq = 2 ∧ d.bit A.PWR_STAT 3 = true)) ∧
      d.board = s.dev.board ∧ ∀ p, p ∈ [Part.cores, .gate, .cirque, .ox, .cairn, .cipher, .pens, .host] → p.same s.dev d)) ∧
  (∀ s pec seq b, TorTakes pec 0x03 seq s.dev → s.dev.tor.pwr = .on → s.dev.maySleep = false → b = 0x02 ∨ b = 0x03 →
    Gives (.torSleep pec seq [b]) s (fun d => Replied d 0x03 seq 5 [] ∧ Frame [.tor] [A.SB_CNT 0] s.dev d)) ∧
  (∀ s pec seq (a : Byte), TorTakes pec 0x05 seq s.dev → a.toNat < 128 → badSbAddr a.toNat = false →
    Gives (.torAddrSet pec seq [a, 0]) s (fun d =>
      Replied d 0x05 seq 0 [] ∧ d.rd A.SB_ADDR = BitVec.ofNat 64 (0x80 + a.toNat) ∧ Frame [.tor] [A.SB_CNT 0, A.SB_ADDR] s.dev d)) ∧
  (∀ s pec seq (a : Byte), TorTakes pec 0x05 seq s.dev → badSbAddr a.toNat = true →
    Gives (.torAddrSet pec seq [a, 0]) s (fun d => Replied d 0x05 seq 4 [] ∧ Frame [.tor] [A.SB_CNT 0] s.dev d)) ∧
  (∀ s pec seq (a : Byte), TorTakes pec 0x05 seq s.dev →
    Gives (.torAddrSet pec seq [a, 1]) s (fun d =>
      Replied d 0x05 seq 0 [] ∧ d.rd A.SB_ADDR = 0 ∧ d.bit A.SB_ENUM 1 = false ∧
      Frame [.tor] [A.SB_CNT 0, A.SB_ADDR, A.SB_ENUM] s.dev d)) ∧
  (∀ s pec seq, TorTakes pec 0x06 seq s.dev → s.dev.bit A.SB_ADDR 7 = true →
    Gives (.torChainPass pec seq [1]) s (fun d =>
      Replied d 0x06 seq 0 [] ∧ d.bit A.SB_ENUM 1 = true ∧ Frame [.tor] [A.SB_CNT 0, A.SB_ENUM] s.dev d)) ∧
  (∀ s pec seq, TorTakes pec 0x06 seq s.dev → s.dev.bit A.SB_ADDR 7 = false →
    Gives (.torChainPass pec seq [1]) s (fun d => Replied d 0x06 seq 5 [] ∧ Frame [.tor] [A.SB_CNT 0] s.dev d))

/-- R364: a repeat of the last completed request is not executed; the stored reply is returned. -/
def Obligations.TorFraming : Prop :=
  ∀ c, c ∈ [((0x01 : Byte), Instr.torStatus), (0x02, .torWake), (0x03, .torSleep), (0x04, .torFaultRead), (0x05, .torAddrSet),
      (0x06, .torChainPass), (0x07, .torTempRead), (0x08, .torEventTail)] →
    ∀ s ps l, s.dev.tor.pwr ≠ .off → s.dev.listens = true → s.dev.tor.osc16 = true → s.dev.tor.last = some l →
      (l.op = c.1 → Gives (c.2 true l.seq ps) s (fun d =>
        d.tor = { s.dev.tor with reply := l.reply } ∧ Frame [.tor] [A.SB_CNT 0] s.dev d)) ∧
      Gives (.torUndefinedOpcode true l.op l.seq) s (fun d =>
        d.tor = { s.dev.tor with reply := l.reply } ∧ Frame [.tor] [A.SB_CNT 0] s.dev d)

/-- R359, R360, R363, R370: a packet with a bad PEC, a unit that acknowledges no address, the bus, the chain input, the Alert
Response Address. -/
def Obligations.SidebandBus : Prop :=
  (∀ c, c ∈ [Instr.torStatus, .torWake, .torSleep, .torFaultRead, .torAddrSet, .torChainPass, .torTempRead, .torEventTail] →
    ∀ s seq ps, s.dev.tor.pwr ≠ .off →
      (s.dev.listens = true → s.dev.tor.osc16 = true →
        Gives (c false seq ps) s (fun d =>
          d.tor.reply = [] ∧ d.tor.last = s.dev.tor.last ∧ d.fld (A.SB_CNT 2) 63 0 = (s.dev.fld (A.SB_CNT 2) 63 0 + 1) % 2 ^ 64 ∧
          Frame [.tor] [A.SB_CNT 2, A.SB_CNT 3] s.dev d)) ∧
      (s.dev.bit A.SB_ADDR 7 = false → s.dev.bit A.SB_STAT 3 = false → s.dev.pins.enumIn = false → ∀ pec,
        Gives (c pec seq ps) s (fun d => d.tor = { s.dev.tor with reply := [] } ∧ Frame [.tor] [] s.dev d))) ∧
  (∀ s, Gives .smbusTimeout s (fun d => d.tor.reply = [] ∧ d.tor.last = s.dev.tor.last ∧ Frame [.tor] [] s.dev d)) ∧
  (∀ s level, Gives (.enumInChange level) s (fun d =>
      d.pins.enumIn = level ∧ d.bit A.SB_ENUM 0 = level ∧ Frame [.pins] [A.SB_ENUM] s.dev d)) ∧
  (∀ s,
    (s.dev.pins.alertN = true → s.dev.bit A.SB_ADDR 7 = true ∨ s.dev.pins.enumIn = true →
      Gives .alertResponseAddress s (fun d =>
        d.tor.reply = [BitVec.ofNat 8 (2 * (if s.dev.bit A.SB_ADDR 7 then s.dev.fld A.SB_ADDR 6 0 else 0x3A))] ∧
        d.pins.alertN = false ∧ Frame [.pins, .tor] [] s.dev d)) ∧
    (s.dev.pins.alertN = false ∨ (s.dev.bit A.SB_ADDR 7 = false ∧ s.dev.pins.enumIn = false) →
      Gives .alertResponseAddress s (fun d => d.tor.reply = [] ∧ d.pins = s.dev.pins ∧ Frame [.tor] [] s.dev d)))

/-- R358, R359, R361: the common command codes of I3C, and that a unit with CFG_SBMODE 0 ignores them. -/
def Obligations.I3cCodes : Prop :=
  (∀ s da, s.dev.board.sbMode = true → s.dev.bit A.SB_DADDR 7 = false →
    Gives (.entdaa da) s (fun d =>
      d.rd A.SB_DADDR = BitVec.ofNat 64 (0x80 + da.toNat) ∧ d.bit A.SB_STAT 3 = true ∧ Frame [] [A.SB_DADDR, A.SB_STAT] s.dev d)) ∧
  (∀ s da, s.dev.board.sbMode = true → s.dev.bit A.SB_DADDR 7 = false → s.dev.sbAcks = true →
    Gives (.setdasa da) s (fun d =>
      d.rd A.SB_DADDR = BitVec.ofNat 64 (0x80 + da.toNat) ∧ d.bit A.SB_STAT 3 = true ∧ Frame [] [A.SB_DADDR, A.SB_STAT] s.dev d)) ∧
  (∀ s, s.dev.board.sbMode = true → s.dev.bit A.SB_DADDR 7 = false →
    Gives .setaasa s (fun d =>
      d.rd A.SB_DADDR = BitVec.ofNat 64 (0x80 + (if s.dev.bit A.SB_ADDR 7 then s.dev.fld A.SB_ADDR 6 0 else 0x3A)) ∧
      d.bit A.SB_STAT 3 = true ∧ Frame [] [A.SB_DADDR, A.SB_STAT] s.dev d)) ∧
  (∀ s da, I3cTarget s.dev →
    Gives (.setnewda da) s (fun d =>
      d.rd A.SB_DADDR = BitVec.ofNat 64 (0x80 + da.toNat) ∧ d.bit A.SB_STAT 3 = true ∧ Frame [] [A.SB_DADDR, A.SB_STAT] s.dev d)) ∧
  (∀ s, s.dev.board.sbMode = true →
    Gives .rstdaa s (fun d => d.rd A.SB_DADDR = 0 ∧ d.bit A.SB_STAT 3 = false ∧ Frame [.tor] [A.SB_DADDR, A.SB_STAT] s.dev d)) ∧
  (∀ s ev, I3cTarget s.dev → ev.getLsbD 0 = true →
    Gives (.enec ev) s (fun d => d.tor.i3cEvents = true ∧ Frame [.tor] [] s.dev d) ∧
    Gives (.disec ev) s (fun d => d.tor.i3cEvents = false ∧ Frame [.tor] [] s.dev d)) ∧
  (∀ s, I3cTarget s.dev →
    Gives .getpid s (fun d =>
      d.tor.reply = (leBytes 6 (0x2B1 * 2 ^ 33 + 2 ^ 32 + s.dev.board.fuse.toNat)).reverse ∧ Frame [.tor] [] s.dev d) ∧
    Gives .getbcr s (fun d => d.tor.reply = [0x06] ∧ Frame [.tor] [] s.dev d) ∧
    Gives .getdcr s (fun d => d.tor.reply = [0x00] ∧ Frame [.tor] [] s.dev d) ∧
    Gives .getstatus s (fun d => d.tor.reply.length = 2 ∧ Frame [.tor, .free] [] s.dev d) ∧
    Gives .getmrl s (fun d => d.tor.reply = (leBytes 2 s.dev.tor.mrl).reverse ∧ Frame [.tor] [] s.dev d) ∧
    Gives .getmwl s (fun d => d.tor.reply = (leBytes 2 s.dev.tor.mwl).reverse ∧ Frame [.tor] [] s.dev d)) ∧
  (∀ s n, I3cTarget s.dev →
    Gives (.setmrl n) s (fun d => d.tor.mrl = Nat.min n.toNat 255 ∧ Frame [.tor] [] s.dev d) ∧
    Gives (.setmwl n) s (fun d => d.tor.mwl = Nat.min n.toNat 255 ∧ Frame [.tor] [] s.dev d)) ∧
  (∀ s, s.dev.board.sbMode = false → ∀ da ev n,
    ∀ c, c ∈ [Instr.entdaa da, .setdasa da, .setaasa, .setnewda da, .rstdaa, .enec ev, .disec ev, .getpid, .getbcr, .getdcr,
      .getstatus, .getmrl, .getmwl, .setmrl n, .setmwl n] → Gives c s (fun d => d = s.dev))

/-- R368, R369: MCTP control and NVMe-MI, answered in A0 and A1 with SB_CTL.EN in effect. -/
def Obligations.MctpMessages : Prop :=
  (∀ s, MctpOn s →
    (∀ eid : Byte, eid ≠ 0x00 → eid ≠ 0xFF →
      Gives (.setEndpointId eid) s (fun d =>
        d.rd A.SB_EID = BitVec.ofNat 64 eid.toNat ∧ Frame [.tor] [A.SB_CNT 1, A.SB_EID] s.dev d)) ∧
    Gives .getEndpointId s (fun d =>
      d.tor.reply[1]? = some (BitVec.ofNat 8 (s.dev.fld A.SB_EID 7 0)) ∧ Frame [.tor] [A.SB_CNT 1] s.dev d) ∧
    Gives .getMctpVersionSupport s (fun d => d.tor.reply.length = 6 ∧ Frame [.tor, .free] [A.SB_CNT 1] s.dev d) ∧
    Gives .getMessageTypeSupport s (fun d => d.tor.reply = [0, 2, 0x00, 0x04] ∧ Frame [.tor] [A.SB_CNT 1] s.dev d) ∧
    (∀ ty, Gives (.readNvmeMiDataStructure ty) s (fun d => d.tor.reply.length = 34 ∧ Frame [.tor, .free] [A.SB_CNT 1] s.dev d)) ∧
    Gives .nvmSubsystemHealthStatusPoll s (fun d =>
      d.tor.reply[6]? = some (BitVec.ofInt 8 s.dev.compositeC) ∧ Frame [.tor] [A.SB_CNT 1] s.dev d) ∧
    Gives .controllerHealthStatusPoll s (fun d =>
      d.tor.reply[8]? = some s.dev.host.crit ∧ Frame [.tor] [A.SB_CNT 1] s.dev d) ∧
    (∀ id : Byte, 1 ≤ id.toNat → id.toNat ≤ 3 →
      Gives (.configurationGet id) s (fun d =>
        d.tor.reply = 0 :: leBytes 4 (SMap.get miDefault s.dev.tor.miCfg id.toNat).toNat ∧ Frame [.tor] [A.SB_CNT 1] s.dev d)) ∧
    (∀ v : W32, 64 ≤ v.toNat → v.toNat ≤ 250 →
      Gives (.configurationSet 3 v) s (fun d => SMap.get miDefault d.tor.miCfg 3 = v ∧ Frame [.tor] [A.SB_CNT 1] s.dev d)) ∧
    Gives .vpdRead s (fun d => d.tor.reply.length = 257 ∧ Frame [.tor] [A.SB_CNT 1] s.dev d) ∧
    (∀ opc, Gives (.miTunnelledAdminCommand (.other opc)) s (fun d =>
      d.tor.reply = miReply .invalidOpcode 0 [] ∧ Frame [.tor, .free] [A.SB_CNT 1] s.dev d)) ∧
    (∀ l, s.dev.mayRead 0 l = true →
      Gives (.miTunnelledAdminCommand (.eventInfo l)) s (fun d =>
        d.tor.reply = miReply .success 0 (s.dev.logHeader l 0) ∧ Frame [.tor, .free] [A.SB_CNT 1] s.dev d))) ∧
  (∀ s, Running s → s.dev.tor.pwr = .on → s.dev.bit A.SB_STAT 0 = false → ∀ id v,
    ∀ c, c ∈ [Instr.setEndpointId id, .getEndpointId, .getMctpVersionSupport, .getMessageTypeSupport, .readNvmeMiDataStructure id,
      .nvmSubsystemHealthStatusPoll, .controllerHealthStatusPoll, .configurationGet id, .configurationSet id v, .vpdRead] →
      Gives c s (fun d => d.tor.reply = [] ∧ Frame [.tor] [A.SB_CNT 3] s.dev d)) ∧
  (∀ s, Wakes 2 s.dev → s.dev.listens = true → ∀ id v,
    ∀ c, c ∈ [Instr.setEndpointId id, .getEndpointId, .getMctpVersionSupport, .getMessageTypeSupport, .readNvmeMiDataStructure id,
      .nvmSubsystemHealthStatusPoll, .controllerHealthStatusPoll, .configurationGet id, .configurationSet id v, .vpdRead] →
      Gives c s (fun d => d.tor.reply = [] ∧ Waking 2 s.dev d ∧ Frame [.pins, .tor] [A.PWR_WAKESRC, A.TOR_STAT] s.dev d))

/-! The pair (R224 to R252, R264). -/

/-- R246, R248, R251, R253: the link trains, retrains, drains and sends again. -/
def Obligations.PairLink : Prop :=
  (∀ s v, Reach A.PAIR_CTL s → v.getLsbD 0 = true → s.dev.fld A.PAIR_STAT 2 0 = 0 →
    Gives (.pairCtlEnWrite v) s (fun d =>
      d.rd A.PAIR_CTL = BitVec.ofNat 64 (v.toNat &&& 0xFF001D) ∧ d.fld A.PAIR_STAT 1 0 = 1 ∧
      Frame [] [A.PAIR_CTL, A.PAIR_STAT] s.dev d)) ∧
  (∀ s v, Reach A.PAIR_CTL s → v.getLsbD 0 = true → s.dev.bit A.PAIR_STAT 2 = true →
    Gives (.pairCtlEnWrite v) s (fun d =>
      d.rd A.PAIR_CTL = BitVec.ofNat 64 (v.toNat &&& 0xFF001D) ∧ d.pair.heldEn = true ∧ Frame [.pair] [A.PAIR_CTL] s.dev d)) ∧
  (∀ s v, Reach A.PAIR_CTL s → v.getLsbD 0 = false → s.dev.fld A.PAIR_STAT 1 0 ≠ 0 →
    Gives (.pairCtlEnWrite v) s (fun d =>
      d.rd A.PAIR_CTL = BitVec.ofNat 64 (v.toNat &&& 0xFF001D) ∧ d.pair.heldEn = false ∧
      (s.dev.pair.replay = [] → d.fld A.PAIR_STAT 1 0 = 0 ∧ d.bit A.PAIR_STAT 2 = false) ∧
      (s.dev.pair.replay ≠ [] → d.fld A.PAIR_STAT 1 0 = s.dev.fld A.PAIR_STAT 1 0 ∧ d.bit A.PAIR_STAT 2 = true) ∧
      Frame [.pair] [A.PAIR_CTL, A.PAIR_STAT] s.dev d)) ∧
  (∀ s lanes, Running s → s.dev.hasPair = true → s.dev.fld A.PAIR_STAT 1 0 = 1 →
    Gives (.linkTrainingComplete lanes) s (fun d =>
      (∀ l, l < 8 → d.bit (A.PAIR_LANE l) 8 = (lanes.getD l (false, 0)).1 ∧
        d.fld (A.PAIR_LANE l) 7 0 = (lanes.getD l (false, 0)).2.toNat) ∧
      (d.linkUp = true ↔ ∀ l, l < 8 → (lanes.getD l (false, 0)).1 = true) ∧
      (d.linkUp = true → s.dev.rd A.PAIR_PEND ≠ 0 → .claim (s.dev.rd A.PAIR_PEND) ∈ d.pair.out) ∧
      (d.linkUp = true → s.dev.aliveIn = true → .hello (s.dev.ownHello true) ∈ d.pair.out) ∧
      Frame [.pair] ([A.PAIR_STAT, A.PAIR_CNT 0] ++ (List.range 8).map A.PAIR_LANE) s.dev d)) ∧
  (∀ s, Running s → s.dev.linkUp = true →
    Gives .linkRetrain s (fun d =>
      d.fld A.PAIR_STAT 1 0 = 3 ∧ d.rd (A.PAIR_CNT 7) = s.dev.rd (A.PAIR_CNT 7) + 1 ∧
      Frame [] [A.PAIR_STAT, A.PAIR_CNT 7] s.dev d)) ∧
  (∀ s, Running s → s.dev.fld A.PAIR_STAT 1 0 = 3 →
    Gives .retrainComplete s (fun d =>
      d.linkUp = true ∧
      (s.dev.wr.waiting = [] →
        d.pair.out = s.dev.pair.out ++ s.dev.pair.replay.map Prod.snd ++ [.mack (s.dev.rd A.PAIR_MSEQ_RX).toNat] ∧
        d.rd (A.PAIR_CNT 6) = s.dev.rd (A.PAIR_CNT 6) + BitVec.ofNat 64 s.dev.pair.replay.length ∧
        Frame [.pair] [A.PAIR_STAT, A.PAIR_CNT 0, A.PAIR_CNT 6] s.dev d))) ∧
  (∀ s ack, Running s → s.dev.linkUp = true → NoTeeWait s.dev →
    Gives (.idle ack) s (fun d =>
      d.pair.replay = s.dev.pair.replay.filter (fun x => decide (near s.dev.pair.txSeq ack < x.1)) ∧
      d.rd (A.PAIR_CNT 1) = s.dev.rd (A.PAIR_CNT 1) + 1 ∧
      (Steady s.dev → d.linkUp = true) ∧ (¬ Steady s.dev → d.pair.replay = [] → d.linkUp = false) ∧
      Frame [.pair, .wr] [A.PAIR_CNT 1, A.PAIR_STAT] s.dev d)) ∧
  (∀ s ack, Running s → s.dev.linkUp = true → Steady s.dev → NoTeeWait s.dev →
    Gives (.nak ack) s (fun d =>
      let left := s.dev.pair.replay.filter (fun x => decide (near s.dev.pair.txSeq ack < x.1))
      d.pair.replay = left ∧
      d.pair.out = s.dev.pair.out ++ left.map Prod.snd ++ [.mack (s.dev.rd A.PAIR_MSEQ_RX).toNat] ∧
      d.rd (A.PAIR_CNT 6) = s.dev.rd (A.PAIR_CNT 6) + BitVec.ofNat 64 left.length ∧
      Frame [.pair, .wr] [A.PAIR_CNT 0, A.PAIR_CNT 1, A.PAIR_CNT 6] s.dev d)) ∧
  (∀ s, Running s → s.dev.linkUp = true → Steady s.dev →
    Gives .replayTimeout s (fun d =>
      d.pair.out = s.dev.pair.out ++ s.dev.pair.replay.map Prod.snd ∧
      d.rd (A.PAIR_CNT 6) = s.dev.rd (A.PAIR_CNT 6) + BitVec.ofNat 64 s.dev.pair.replay.length ∧
      Frame [.pair] [A.PAIR_CNT 6] s.dev d)) ∧
  (∀ s fec, Running s → s.dev.linkUp = true →
    Gives (.frameCrcFailure fec) s (fun d =>
      d.rd (A.PAIR_CNT (if fec then 4 else 5)) = s.dev.rd (A.PAIR_CNT (if fec then 4 else 5)) + 1 ∧ d.pair.gap = true ∧
      d.pair.out = (if s.dev.pair.gap then s.dev.pair.out else s.dev.pair.out ++ [.nak s.dev.pair.rxSeq]) ∧
      Frame [.pair] [A.PAIR_CNT 0, A.PAIR_CNT (if fec then 4 else 5)] s.dev d))

/-- R251: a replayed frame out of order changes nothing; a gap is named in one NAK. -/
def Obligations.FrameOrder : Prop :=
  ∀ s (f : FrameHdr) m h pub sig mib rs a mh x mseq vm r zl ml st off b, Running s → s.dev.linkUp = true → NoTeeWait s.dev → h.restart = false →
    ∀ c, c ∈ [Instr.claim f m, .grant f m, .deny f m, .released f m, .hello f h, .keyx f pub sig, .bceil f mib, .flushDone f,
      .restored f rs, .phase f a, .mhdr f mh, .mdata f x, .mend f mseq vm, .jrec f r, .zdesc f zl, .map f ml, .bulk f st off b] →
      let ahead := (f.fseq - BitVec.ofNat 32 s.dev.pair.rxSeq).toNat
      (ahead = 0 ∨ 2 ^ 31 ≤ ahead →
        Gives c s (fun d =>
          d.pair.rxSeq = s.dev.pair.rxSeq ∧ d.pair.out = s.dev.pair.out ∧
          Frame [.pair, .wr] [A.PAIR_CNT 1, A.PAIR_STAT] s.dev d)) ∧
      (2 ≤ ahead → ahead < 2 ^ 31 → Steady s.dev →
        Gives c s (fun d =>
          d.pair.rxSeq = s.dev.pair.rxSeq ∧ d.pair.gap = true ∧
          d.pair.out = (if s.dev.pair.gap then s.dev.pair.out else s.dev.pair.out ++ [.nak s.dev.pair.rxSeq]) ∧
          Frame [.pair, .wr] [A.PAIR_CNT 0, A.PAIR_CNT 1] s.dev d))

/-- R29, R72, R228, R229, R237, R238: heartbeats, the alive watchdog, SPLIT, and the loss of the peer. -/
def Obligations.PeerLoss : Prop :=
  (∀ s, Running s → s.dev.bit A.PAIR_CTL 3 = true → s.dev.bit A.PAIR_STAT 5 = false → s.dev.linkUp = true →
    Gives .heartbeatSend s (fun d =>
      d.pair.out = s.dev.pair.out ++ [.hb (s.dev.pair.hbSeq + 1) (s.dev.devstat % 65536) (s.dev.occ / 1048576) s.dev.wr.bceil
        (s.dev.rd A.PAIR_MSEQ_RX).toNat] ∧ d.pair.hbSeq = s.dev.pair.hbSeq + 1 ∧
      Frame [.pair] [A.PAIR_CNT 0] s.dev d)) ∧
  (∀ s, Running s → s.dev.bit A.PAIR_CTL 3 = false ∨ s.dev.bit A.PAIR_STAT 5 = true →
    Gives .heartbeatSend s (fun d => d = s.dev)) ∧
  (∀ s seq ds occ bc rx, Running s → s.dev.linkUp = true → s.dev.wr.entries = [] → s.dev.wr.waiting = [] → s.dev.wr.flushes = [] →
    Gives (.hb seq ds occ bc rx) s (fun d =>
      d.fld A.PAIR_STAT 15 8 = 0 ∧ d.bit A.PAIR_STAT 6 = false ∧ d.rd A.PAIR_HBSEQ = BitVec.ofNat 64 seq.toNat ∧
      d.wr.peerCeil = bc.toNat ∧ Frame [.wr] [A.PAIR_CNT 1, A.PAIR_STAT, A.PAIR_HBSEQ] s.dev d)) ∧
  (∀ s, Running s → s.dev.hasPair = true →
    Gives .heartbeatWindowMiss s (fun d =>
      d.fld A.PAIR_STAT 15 8 = Nat.min 255 (s.dev.fld A.PAIR_STAT 15 8 + 1) ∧
      (s.dev.fld A.PAIR_STAT 15 8 < 49 ∨ (s.dev.pair.aliveLow = false ∧ s.dev.aliveIn = false) →
        d.bit A.PAIR_STAT 6 = s.dev.bit A.PAIR_STAT 6 ∧ Frame [] [A.PAIR_STAT] s.dev d) ∧
      (49 ≤ s.dev.fld A.PAIR_STAT 15 8 → s.dev.pair.aliveLow = false → s.dev.aliveIn = true →
        d.bit A.PAIR_STAT 6 = true ∧ d.bit A.PAIR_STAT 7 = s.dev.bit A.PAIR_STAT 7 ∧ Frame [] [A.PAIR_STAT] s.dev d) ∧
      (49 ≤ s.dev.fld A.PAIR_STAT 15 8 → s.dev.pair.aliveLow = true → LossDeclared s.dev d))) ∧
  (∀ s, Gives .peerAliveInLow s (fun d =>
      d.pins.aliveIn = false ∧
      (¬ (Running s ∧ s.dev.hasPair = true) → Frame [.pins] [] s.dev d) ∧
      (Running s → s.dev.hasPair = true → s.dev.fld A.PAIR_STAT 15 8 < 50 → d.pair.aliveLow = true ∧ Frame [.pins, .pair] [] s.dev d) ∧
      (Running s → s.dev.hasPair = true → 50 ≤ s.dev.fld A.PAIR_STAT 15 8 → LossDeclared s.dev d))) ∧
  (∀ s, Gives .peerAliveInRise s (fun d =>
      d.pins.aliveIn = true ∧
      (Running s → s.dev.hasPair = true → d.pair.aliveLow = false ∧ (50 ≤ s.dev.fld A.PAIR_STAT 15 8 → d.bit A.PAIR_STAT 6 = true) ∧
        (s.dev.aliveIn = false → s.dev.fw.mode ≠ .duo → s.dev.linkUp = true → .hello (s.dev.ownHello true) ∈ d.pair.out)) ∧
      Frame [.pins, .pair] [A.PAIR_STAT, A.PAIR_CNT 0] s.dev d)) ∧
  (∀ s, Running s → s.dev.pair.fenceDue = true →
    Gives .autofenceDelayExpiry s (fun d =>
      d.pair.fenceDue = false ∧ (s.dev.fenceIn = false → d.bit A.PAIR_FENCE 0 = true) ∧
      (s.dev.fenceIn = true → d.bit A.PAIR_FENCE 0 = s.dev.bit A.PAIR_FENCE 0) ∧ Frame [.pair] [A.PAIR_FENCE] s.dev d)) ∧
  (∀ s, Running s →
    Gives .aliveWatchdogExpiry s (fun d => d.aliveOut = false ∧ d.bit A.PAIR_STAT 5 = true ∧ Frame [.pair] [A.PAIR_STAT] s.dev d)) ∧
  (∀ s, Reach A.PAIR_KICK s →
    Gives .pairKick s (fun d =>
      d.pair.kicked = true ∧ (s.dev.bit A.PAIR_CTL 4 = true → d.bit A.PAIR_STAT 5 = false) ∧
      (s.dev.bit A.PAIR_CTL 4 = false → d.rd A.PAIR_STAT = s.dev.rd A.PAIR_STAT) ∧ Frame [.pair] [A.PAIR_STAT] s.dev d)) ∧
  (∀ s, Running s → s.dev.board.pairId = true → s.dev.bit A.PAIR_STAT 6 = true → s.dev.host.stopped = false →
    (s.dev.wr.entries.map (·.id)).Nodup → (∀ e ∈ s.dev.wr.entries, e.zoned = false) →
    Gives .splitTimeout s (fun d =>
      d.bit A.PAIR_CTL 4 = false ∧ d.bit A.PAIR_CTL 3 = false ∧ d.aliveOut = false ∧ d.wr.waiting = [] ∧
      d.wr.entries = s.dev.wr.entries.filter (·.acked) ∧
      Sent s.dev d ((s.dev.wr.waiting.map (·.h) ++ (s.dev.wr.entries.filter (fun e => !e.acked)).map (·.h)).map
        (fun h => cqeOf h .nsNotReady)) ∧
      FrameLog [.host, .wr] [A.PAIR_CTL] s.dev d)) ∧
  (∀ s, Running s → s.dev.hasPair = true → s.dev.fw.mode = .init → s.dev.fw.replayed = true → s.dev.fenceIn = false →
    s.dev.peerUp = false → s.dev.fw.fencedInit = false → s.dev.pair.guarded = false → s.dev.rd A.PAIR_OWN ≠ BitVec.allOnes 64 →
    Gives .peerAbsentTimeout s (fun d =>
      d.bit A.PAIR_FENCE 0 = true ∧ d.rd A.PAIR_PEND = s.dev.rd A.PAIR_PEND ||| ~~~ s.dev.rd A.PAIR_OWN ∧
      Frame [.pair] [A.PAIR_FENCE, A.PAIR_PEND, A.PAIR_CNT 0] s.dev d))

/-- R225, R227, R228, R240: the fence. -/
def Obligations.PairFence : Prop :=
  (∀ s, Gives .peerFenceInRise s (fun d =>
      d.pins.fenceIn = true ∧
      (s.dev.hasPair = false → Frame [.pins] [] s.dev d) ∧
      (s.dev.hasPair = true → d.rd A.PAIR_OWN = 0 ∧ d.rd A.PAIR_PEND = 0 ∧ d.pair.guarded = false ∧
        (∀ ch l, (d.lun ch l).run = none ∧ (d.lun ch l).susp = none) ∧
        (∀ m, m ∈ d.mules.done → m ∈ s.dev.mules.done ∨ m.res = .aborted)) ∧
      (s.dev.hasPair = true → ¬ Running s →
        Frame [.pins, .mules, .pair] ([A.PAIR_OWN, A.PAIR_PEND] ++ lunRegs s.dev) s.dev d) ∧
      (s.dev.hasPair = true → Running s → InDuo s.dev →
        d.fw.mode = .init ∧ d.fw.fencedInit = true ∧ d.fw.transit = false ∧ d.wr.entries = [] ∧ d.wr.mirror = [] ∧ d.wr.waiting = [] ∧
        d.bit A.PAIR_CTL 4 = false ∧ d.bit A.PAIR_CTL 3 = false ∧
        FrameLog [.pins, .mules, .pair, .host, .wr, .fw, .tor]
          ([A.PAIR_OWN, A.PAIR_PEND, A.PAIR_CTL, A.SB_ALERTSRC] ++ lunRegs s.dev) s.dev d) ∧
      (s.dev.hasPair = true → Running s → ¬ InDuo s.dev → s.dev.fw.mode = .init → s.dev.fw.replayed = true →
        d.fw.mode = .init ∧ d.fw.fencedInit = true ∧ d.fw.transit = false ∧ d.wr.entries = [] ∧ d.wr.mirror = [] ∧
        Frame [.pins, .mules, .pair, .host, .wr, .fw, .cirque] ([A.PAIR_OWN, A.PAIR_PEND] ++ lunRegs s.dev) s.dev d) ∧
      (s.dev.hasPair = true → Running s → ¬ InDuo s.dev → s.dev.fw.mode ≠ .init →
        Frame [.pins, .mules, .pair] ([A.PAIR_OWN, A.PAIR_PEND] ++ lunRegs s.dev) s.dev d))) ∧
  (∀ s, Gives .peerFenceInFall s (fun d =>
      d.pins.fenceIn = false ∧
      (s.dev.fw.fencedInit = false → Frame [.pins] [] s.dev d) ∧
      (Running s → s.dev.hasPair = true → s.dev.fw.fencedInit = true → s.dev.pair.req ≠ none →
        (d.rd A.PAIR_OWN ||| d.rd A.PAIR_PEND) &&& s.dev.ownSide = s.dev.ownSide) ∧
      (s.dev.pair.guarded = false ∨ NoneLeft s.dev.ownSide s.dev →
        Frame [.pins, .pair] [A.PAIR_OWN, A.PAIR_PEND, A.PAIR_CNT 0] s.dev d))) ∧
  (∀ s out, Reach A.PAIR_FENCE s →
    Gives (.pairFenceWrite out) s (fun d =>
      d.bit A.PAIR_FENCE 0 = out ∧ d.fenceOut = (s.dev.hasPair && out && !(s.dev.board.pairId && s.dev.pins.fenceIn)) ∧
      Frame [.pair] [A.PAIR_FENCE] s.dev d)) ∧
  (∀ s, Running s → s.dev.fenceOut = true → s.dev.fenceIn = false →
    Gives .fenceGuardExpiry s (fun d =>
      d.rd A.PAIR_OWN = s.dev.rd A.PAIR_OWN ||| s.dev.rd A.PAIR_PEND ∧ d.rd A.PAIR_PEND = 0 ∧ d.pair.guarded = true ∧
      (s.dev.fw.mode ≠ .init ∨ s.dev.fw.replayed = false ∨ s.dev.fw.fencedInit = true ∨
        s.dev.rd A.PAIR_OWN ||| s.dev.rd A.PAIR_PEND ≠ BitVec.allOnes 64 → NoneLeft (s.dev.rd A.PAIR_PEND) s.dev →
        Frame [.pair] [A.PAIR_OWN, A.PAIR_PEND] s.dev d) ∧
      (s.dev.fw.mode = .init → s.dev.fw.replayed = true → s.dev.fw.fencedInit = false →
        s.dev.rd A.PAIR_OWN ||| s.dev.rd A.PAIR_PEND = BitVec.allOnes 64 →
        d.fw.role = .solo ∧ d.fw.transit = false ∧ (d.fw.mode = .solo ∨ d.fw.mode = .readonly)))) ∧
  (∀ s, Running s → s.dev.fenceOut = false ∨ s.dev.fenceIn = true → Gives .fenceGuardExpiry s (fun d => d = s.dev))

/-- R225: who owns a channel: claims, grants, denials and releases. -/
def Obligations.ChannelOwnership : Prop :=
  (∀ s m, Reach A.PAIR_CLAIM s → s.dev.pair.guarded = false ∨ s.dev.fenceOut = false ∨ s.dev.fenceIn = true →
    Gives (.pairClaimWrite m) s (fun d =>
      d.rd A.PAIR_PEND = s.dev.rd A.PAIR_PEND ||| (m &&& ~~~ s.dev.rd A.PAIR_OWN) ∧
      (s.dev.linkUp = true → d.pair.out = s.dev.pair.out ++ [.claim (m &&& ~~~ s.dev.rd A.PAIR_OWN)]) ∧
      Frame [.pair] [A.PAIR_PEND, A.PAIR_CNT 0] s.dev d)) ∧
  (∀ s m, Reach A.PAIR_CLAIM s → s.dev.pair.guarded = true → s.dev.fenceOut = true → s.dev.fenceIn = false →
    Gives (.pairClaimWrite m) s (fun d =>
      d.rd A.PAIR_OWN = s.dev.rd A.PAIR_OWN ||| m ∧ (NoneLeft m s.dev → Frame [] [A.PAIR_OWN] s.dev d))) ∧
  (∀ s m, Reach A.PAIR_REL s → s.dev.pair.tee = false →
    (∀ ch, ch < 64 → bitOf (m &&& s.dev.rd A.PAIR_OWN) ch = true → s.dev.chRuns ch = false ∧ s.dev.bit (A.MULE_STAT ch) 1 = false) →
    Gives (.pairRelWrite m) s (fun d =>
      d.rd A.PAIR_OWN = s.dev.rd A.PAIR_OWN &&& ~~~ m ∧
      (s.dev.linkUp = true → ∀ ch, ch < 64 → bitOf (m &&& s.dev.rd A.PAIR_OWN) ch = true → .released (BitVec.twoPow 64 ch) ∈ d.pair.out) ∧
      Frame [.pair] [A.PAIR_OWN, A.PAIR_CNT 0] s.dev d)) ∧
  (∀ s m, Reach A.PAIR_REL s → (∀ ch, ch < 64 → bitOf (m &&& s.dev.rd A.PAIR_OWN) ch = true → s.dev.chRuns ch = true) →
    Gives (.pairRelWrite m) s (fun d =>
      d.rd A.PAIR_OWN = s.dev.rd A.PAIR_OWN ∧ d.pair.releasing = s.dev.pair.releasing ||| (m &&& s.dev.rd A.PAIR_OWN) ∧
      Frame [.pair] [] s.dev d)) ∧
  (∀ s f m, InOrder f s →
    Gives (.claim f m) s (fun d =>
      let own := s.dev.rd A.PAIR_OWN
      let pend := s.dev.rd A.PAIR_PEND
      let lose := if s.dev.board.pairId then m &&& ~~~ own &&& pend else 0
      let give := (m &&& ~~~ own &&& ~~~ pend) ||| lose
      let no := m &&& own &&& ~~~ s.dev.pair.releasing
      Taken s.dev d ∧ d.rd A.PAIR_OWN = own ∧ d.rd A.PAIR_PEND = pend &&& ~~~ lose ∧ d.rd A.PAIR_TIE = s.dev.rd A.PAIR_TIE ||| lose ∧
      d.pair.waitRel = s.dev.pair.waitRel ||| (m &&& own &&& s.dev.pair.releasing) ∧
      (Steady s.dev → d.pair.out = s.dev.pair.out ++ (if give = 0 then [] else [.grant give]) ++ (if no = 0 then [] else [.deny no])) ∧
      Frame [.pair, .wr] (rxRegs ++ [A.PAIR_PEND, A.PAIR_TIE]) s.dev d)) ∧
  (∀ s f m, InOrder f s → s.dev.pair.entrySent = false ∨ s.dev.fw.mode ≠ .init →
    Gives (.grant f m) s (fun d =>
      Taken s.dev d ∧ d.rd A.PAIR_OWN = s.dev.rd A.PAIR_OWN ||| (m &&& s.dev.rd A.PAIR_PEND) ∧
      d.rd A.PAIR_PEND = s.dev.rd A.PAIR_PEND &&& ~~~ m ∧
      (NoneLeft (m &&& s.dev.rd A.PAIR_PEND) s.dev → Frame [.pair, .wr] (rxRegs ++ [A.PAIR_OWN, A.PAIR_PEND]) s.dev d) ∧
      (∀ k, s.dev.pair.takeover = false → s.dev.mules.left = [k] → k < 2048 → bitOf (m &&& s.dev.rd A.PAIR_PEND) (k / 32) = true →
        LunFree (k / 32) (k % 32) s.dev →
        d.mules.left = [] ∧
        ((d.refusal (k / 32) (k % 32) (s.dev.op9 (k % 32)).r = none ∧ d.muleGoes (k / 32) = true →
          ∃ q, (d.lun (k / 32) (k % 32)).run = some q ∧ q.r.op.val = 9) ∧
         (d.refusal (k / 32) (k % 32) (s.dev.op9 (k % 32)).r = none ∧ d.muleGoes (k / 32) = false →
          ∃ q ∈ (d.lun (k / 32) (k % 32)).queue, q.r.op.val = 9))))) ∧
  (∀ s f m, InOrder f s → s.dev.pair.entrySent = true → s.dev.fw.mode = .init →
    s.dev.ownSide &&& ~~~ (s.dev.rd A.PAIR_OWN ||| (m &&& s.dev.rd A.PAIR_PEND)) = 0 → Gives (.grant f m) s DuoEntered) ∧
  (∀ s f m, InOrder f s →
    Gives (.deny f m) s (fun d =>
      let g := m &&& s.dev.rd A.PAIR_PEND
      Taken s.dev d ∧ d.rd A.PAIR_OWN = s.dev.rd A.PAIR_OWN ∧ d.rd A.PAIR_DENY = s.dev.rd A.PAIR_DENY ||| g ∧
      d.rd A.PAIR_PEND = s.dev.rd A.PAIR_PEND &&& ~~~ m ∧
      (s.dev.pair.entrySent = true → s.dev.fw.mode = .init →
        d.fw.mode = .init ∧ d.pair.entrySent = false ∧ PairRecorded s.dev d 0x0900 (Config.evCode 20) 5 g.toNat) ∧
      Frame [.pair, .wr, .cairn] (rxRegs ++ [A.PAIR_DENY, A.PAIR_PEND]) s.dev d)) ∧
  (∀ s f m, InOrder f s → Gives (.released f m) s (fun d => Taken s.dev d ∧ Frame [.pair, .wr] rxRegs s.dev d))

/-- R72, R150, R154, R230, R252, R297: the handshake, the pair log that goes with it, and what its frames leave. -/
def Obligations.PairHandshake : Prop :=
  (∀ s f h, Running s → s.dev.linkUp = true →
    (h.restart = true ∧ s.dev.pair.creates = [] ∧ ∀ e ∈ s.dev.wr.entries, e.mirrored = true ∨ e.acked = true) ∨
      (h.restart = false ∧ InOrder f s) →
    Gives (.hello f h) s (fun d =>
      (h.restart = true → d.pair.mseqNew = true ∧ (s.dev.helloFits h = false → d.pair.replay = [])) ∧
      d.pair.rxSeq = f.fseq.toNat ∧ d.pair.pwkOk = false ∧ d.pair.bceilOk = false ∧ d.pair.restored = none ∧
      (s.dev.helloFits h = true → d.pair.hello = some h ∧
        (s.dev.board.code.val ≠ 2 → Steady s.dev → ∃ pub sig, .keyx pub sig ∈ d.pair.out)) ∧
      (s.dev.helloFits h = false → d.pair.hello = none ∧
        PairRecorded s.dev d 0x0900 (Config.evCode 21) 6 (h.code + h.proto * 2 ^ 32)) ∧
      Frame [.pair, .wr, .cairn, .free] rxRegs s.dev d)) ∧
  (∀ s f h, Running s → s.dev.linkUp = true → h.restart = true → s.dev.bit A.PAIR_STAT 7 = false →
    Gives (.hello f h) s (fun d =>
      d.pair.creates = [] ∧ (s.dev.host.stopped = false → ∀ x ∈ s.dev.pair.creates, cqeOf x .nsNotReady ∈ d.host.out))) ∧
  (∀ s f pub sig, InOrder f s → s.dev.board.code.val ≠ 2 → s.dev.pair.hello ≠ none →
    Gives (.keyx f pub sig) s (fun d =>
      Taken s.dev d ∧
      (∀ k, Config.sigOk pub sig = true → s.dev.pairKeyOf pub = some k →
        d.pair.pwkOk = true ∧ d.bit A.CIPHER_STAT 3 = true ∧ d.wrapKw true = some k ∧
        (Steady s.dev → .bceil s.dev.wr.bceil ∈ d.pair.out)) ∧
      (Config.sigOk pub sig = false ∨ s.dev.pairKeyOf pub = none →
        d.pair.hello = none ∧ PairRecorded s.dev d 0x0900 (Config.evCode 21) 6 0) ∧
      Frame [.pair, .wr, .cairn, .cipher, .free] (rxRegs ++ [A.CIPHER_STAT]) s.dev d)) ∧
  (∀ s f mib, InOrder f s → s.dev.wr.entries = [] → s.dev.wr.waiting = [] → s.dev.wr.flushes = [] →
    Gives (.bceil f mib) s (fun d =>
      Taken s.dev d ∧ d.pair.bceilOk = true ∧ d.wr.peerCeil = mib.toNat ∧ Frame [.pair, .wr] rxRegs s.dev d)) ∧
  (∀ s f, InOrder f s →
    Gives (.flushDone f) s (fun d => Taken s.dev d ∧ d.pair.peerFlushed = true ∧ Frame [.pair, .wr] rxRegs s.dev d)) ∧
  (∀ s f rs, InOrder f s →
    Gives (.restored f rs) s (fun d =>
      Taken s.dev d ∧ d.pair.restored = some rs ∧
      d.wr.mirror = s.dev.wr.mirror.filter (fun m => !rs.any (fun r => decide (r.1 ≤ m.m.mseq) && decide (m.m.mseq ≤ r.2))) ∧
      (Steady s.dev → ∀ m ∈ d.wr.mirror, m.complete = true → .bulk bulkEntry (.entry m.m (m.secs.map mirSec)) ∈ d.pair.out) ∧
      Frame [.pair, .wr] rxRegs s.dev d)) ∧
  (∀ s, Running s → s.dev.peerUp = true → s.dev.fw.replayed = true → s.dev.stepsDone = true → s.dev.fw.mode = .init →
    s.dev.fenceIn = false → s.dev.pair.guarded = false → s.dev.ownSide &&& ~~~ s.dev.rd A.PAIR_OWN ≠ 0 →
    Gives (.pairHandshake []) s (fun d =>
      let claims := s.dev.ownSide &&& ~~~ s.dev.rd A.PAIR_OWN
      d.pair.entrySent = true ∧ d.rd A.PAIR_PEND = s.dev.rd A.PAIR_PEND ||| claims ∧
      let mine := fun nsx => s.dev.homeOf nsx == s.dev.board.pairId
      d.pair.out = s.dev.pair.out ++ ((s.dev.log pairLog).ordered pairLog).map (fun r => .bulk bulkRec (.pairRec r.post r.time r.rep)) ++
        [.bulk bulkNs (.nss (s.dev.media.nss.filter (fun n => mine n.nsx))),
         .bulk bulkDesc (.desc (s.dev.media.zt.filter (fun e => mine (Zd.ofWord e.2).nsx))),
         .bulk bulkMap (.cmap ((s.dev.media.conv.filter (fun e => mine (e.1 / 2 ^ 40))).map (fun e => (e.1, e.2.unit * 2 ^ 18 + e.2.ofs)))),
         .claim claims] ∧
      Frame [.pair] [A.PAIR_PEND, A.PAIR_CNT 0] s.dev d)) ∧
  (∀ s p r gen, Running s → s.dev.peerUp = true → s.dev.fw.replayed = true → s.dev.stepsDone = true →
    s.dev.fw.mode ≠ .init ∨ s.dev.fenceIn = true →
    Gives (.pairHandshake [(p, r, gen)]) s (fun d =>
      let own := match s.dev.pen p with | some i => i.gen | none => 0
      (own < gen → d.pen p = some { r := r, gen := gen, enabled := match s.dev.pen p with | some i => i.enabled | none => false }) ∧
      (gen ≤ own → Frame [.pair] [A.PAIR_CNT 0] s.dev d) ∧ (∀ q, q ≠ p → d.pen q = s.dev.pen q) ∧
      d.pair.out = s.dev.pair.out ++ ((s.dev.log pairLog).ordered pairLog).map (fun r => .bulk bulkRec (.pairRec r.post r.time r.rep)) ∧
      Frame [.pens, .pair] [A.PEN_RATE p, A.PEN_SHARE p, A.CIPHER_PENRANGE p, A.PEN_PCTL p, A.PEN_STAT p, A.PAIR_CNT 0] s.dev d))

/-- R65, R154, R232 to R235, R250, R297: what a mirrored stream leaves at its receiver, and MACK at its sender. -/
def Obligations.PairMirror : Prop :=
  (∀ s f m, InOrder f s →
    Gives (.mhdr f m) s (fun d =>
      Taken s.dev d ∧ d.pair.cur = some { m := m, secs := [], complete := false } ∧ d.wr.mirror = s.dev.wr.mirror ∧
      d.rd A.PAIR_MSEQ_RX = (if s.dev.pair.mseqNew then BitVec.ofNat 64 (m.mseq - 1) else s.dev.rd A.PAIR_MSEQ_RX) ∧
      d.pair.mseqNew = false ∧ Frame [.pair, .wr] (rxRegs ++ [A.PAIR_MSEQ_RX]) s.dev d)) ∧
  (∀ s f x c, InOrder f s → s.dev.pair.cur = some c →
    Gives (.mdata f x) s (fun d =>
      Taken s.dev d ∧ d.pair.cur = some { c with secs := c.secs ++ [secOf x] } ∧ d.wr.mirror = s.dev.wr.mirror ∧
      Frame [.pair, .wr] rxRegs s.dev d)) ∧
  (∀ s f mseq vm c, InOrder f s → s.dev.pair.cur = some c →
    Gives (.mend f mseq vm) s (fun d =>
      Taken s.dev d ∧ d.pair.cur = none ∧
      let base := (s.dev.rd A.PAIR_MIRBASE).toNat
      let b := s.dev.mirBytes c
      (vm = 0xA5 → c.m.mseq = mseq.toNat →
        d.wr.mirror = s.dev.wr.mirror ++ [{ c with complete := true }] ∧
        d.rd A.PAIR_MSEQ_RX = (if (s.dev.rd A.PAIR_MSEQ_RX).toNat + 1 = mseq.toNat then mseq else s.dev.rd A.PAIR_MSEQ_RX) ∧
        (Steady s.dev → d.pair.out = s.dev.pair.out ++ [.mack (d.rd A.PAIR_MSEQ_RX).toNat]) ∧
        d.media = (s.dev.wctrAfter c).media ∧
        (isDram base = true → b.length < 2 ^ 30 → (∀ x, base ≤ x → x < base + 2 ^ 30 → s.dev.logOfs x = none) →
          ∃ p, base ≤ p ∧ p + b.length ≤ base + 2 ^ 30 ∧ (∀ i, i < b.length → d.byte (p + i) = b.getD i 0) ∧
            FrameMem [.pair, .wr, .media, .dram, .free] (rxRegs ++ [A.PAIR_MSEQ_RX]) p (p + b.length) s.dev d) ∧
        (isDram base = false → Frame [.pair, .wr, .media] (rxRegs ++ [A.PAIR_MSEQ_RX]) s.dev d)) ∧
      (vm ≠ 0xA5 ∨ c.m.mseq ≠ mseq.toNat → d.wr.mirror = s.dev.wr.mirror ∧ d.pair.out = s.dev.pair.out ∧ Frame [.pair, .wr] rxRegs s.dev d))) ∧
  (∀ s f mseq vm (x : Mir), InOrder f s →
    s.dev.pair.cur = some x → vm = 0xA5 → x.m.mseq = mseq.toNat →
    ∀ n sec, n ∈ s.dev.media.nss → n.nsx = x.m.nsx → n.zoned = false → x.secs = [sec] → (s.dev.media.nss.filter (fun y => y.nsx == n.nsx)) = [n] →
    laterGen (nextGen sec.gen) n.wctr = true →
    Gives (.mend f mseq vm) s (fun d => { n with wctr := nextGen sec.gen } ∈ d.media.nss)) ∧
  (∀ s ack (mseq : W64) e, Running s → s.dev.linkUp = true → s.dev.wr.entries = [e] → s.dev.wr.waiting = [] → s.dev.wr.flushes = [] →
    s.dev.wr.rels = [] → e.complete = true → e.acked = false → e.held = false → e.fua = false → e.zoned = false → e.app = false →
    s.dev.fw.role = .duo → e.mirrored = false → s.dev.host.stopped = false →
    Gives (.mack ack mseq) s (fun d =>
      d.rd A.PAIR_MSEQ_ACK = BitVec.ofNat 64 (Nat.max (s.dev.rd A.PAIR_MSEQ_ACK).toNat mseq.toNat) ∧
      (e.mseq ≤ mseq.toNat → d.wr.entries = [{ e with mirrored := true, acked := true }] ∧ Sent s.dev d [cqeOf e.h .success]) ∧
      (mseq.toNat < e.mseq → d.wr.entries = [e] ∧ Sent s.dev d []) ∧
      FrameHost e.h.fn [.pair, .wr, .host] (rxRegs ++ [A.PAIR_MSEQ_ACK]) s.dev d)) ∧
  (∀ s f r, InOrder f s →
    Gives (.jrec f r) s (fun d =>
      Taken s.dev d ∧ d.media.jseq = s.dev.media.jseq + 1 ∧
      (∃ x, d.media.journal.getLast? = some x ∧ x.seq = s.dev.media.jseq + 1 ∧ x.flushed = r.flushed ∧ x.peer = true ∧ x.body = r.body) ∧
      (∀ y ∈ s.dev.media.journal, s.dev.media.ckptSeq < y.seq → y ∈ d.media.journal) ∧
      Frame [.pair, .wr, .media] rxRegs s.dev d)) ∧
  (∀ s f ix w, InOrder f s →
    Gives (.zdesc f [(ix, w)]) s (fun d =>
      Taken s.dev d ∧ d.zd ix = Zd.ofWord w ∧ (∀ k, k ≠ ix → d.zd k = s.dev.zd k) ∧ Frame [.pair, .wr, .media] rxRegs s.dev d)) ∧
  (∀ s f k p src, InOrder f s → SegsGood (k / 2 ^ 40) s.dev → p ≠ noPlace → s.dev.moveOf (k / 2 ^ 40) = some src →
    (∀ c, SMap.find s.dev.media.conv k = some c → c.unit = src →
      Gives (.map f [(k, p)]) s (fun d =>
        Taken s.dev d ∧ Mapped k (some { unit := p / 2 ^ 18, sec := c.sec, ofs := p % 2 ^ 18 }) s.dev d ∧ Frame [.pair, .wr, .media] rxRegs s.dev d)) ∧
    ((∀ c, SMap.find s.dev.media.conv k = some c → c.unit ≠ src) →
      Gives (.map f [(k, p)]) s (fun d => Taken s.dev d ∧ Frame [.pair, .wr] rxRegs s.dev d))) ∧
  (∀ s f k p, InOrder f s → SegsGood (k / 2 ^ 40) s.dev → p ≠ noPlace → s.dev.moveOf (k / 2 ^ 40) = none →
    let lba := k % 2 ^ 40
    let l := s.dev.mirSecs (k / 2 ^ 40) lba (lba + 1)
    (∀ x, l.getLast? = some x →
      Gives (.map f [(k, p)]) s (fun d =>
        Taken s.dev d ∧ Mapped k (some { unit := p / 2 ^ 18, sec := x.2, ofs := p % 2 ^ 18 }) s.dev d ∧
        d.wr.mirror = s.dev.wr.mirror.flatMap (cutMir (k / 2 ^ 40) lba (lba + 1)) ∧ Frame [.pair, .wr, .media] rxRegs s.dev d)) ∧
    (l = [] →
      Gives (.map f [(k, p)]) s (fun d =>
        (∃ g, Mapped k (some { unit := p / 2 ^ 18, sec := peerSector (k / 2 ^ 40) lba g, ofs := p % 2 ^ 18 }) s.dev d) ∧
        Taken s.dev d ∧ d.wr.mirror = s.dev.wr.mirror ∧ Frame [.pair, .wr, .media, .free] rxRegs s.dev d))) ∧
  (∀ s f k, InOrder f s →
    Gives (.map f [(k, noPlace)]) s (fun d =>
      Taken s.dev d ∧ Mapped k none s.dev d ∧ d.wr.mirror = s.dev.wr.mirror.flatMap (cutMir (k / 2 ^ 40) (k % 2 ^ 40) (k % 2 ^ 40 + 1)) ∧
      Frame [.pair, .wr, .media] rxRegs s.dev d)) ∧
  (∀ s f st off ix w, InOrder f s →
    Gives (.bulk f st off (.ckpt [(ix, w)] [])) s (fun d =>
      Taken s.dev d ∧ Zd.ofWord (SMap.get zt0 d.media.ckptZt ix) = Zd.ofWord w ∧
      (∀ k, k ≠ ix → SMap.get zt0 d.media.ckptZt k = SMap.get zt0 s.dev.media.ckptZt k) ∧
      Frame [.pair, .wr, .media] rxRegs s.dev d)) ∧
  (∀ s f st off lba p c, InOrder f s → SMap.find s.dev.media.conv lba = some c →
    Gives (.bulk f st off (.ckpt [] [(lba, p)])) s (fun d =>
      Taken s.dev d ∧ SMap.find d.media.ckptMap lba = some { c with unit := p / 2 ^ 18, ofs := p % 2 ^ 18 } ∧
      Frame [.pair, .wr, .media] rxRegs s.dev d)) ∧
  (∀ s f st off p, InOrder f s →
    Gives (.bulk f st off (.policy p)) s (fun d =>
      Taken s.dev d ∧ d.media.policy = p ∧ d.bit A.COL_CTL 1 = p.spurEn ∧ d.rd A.COL_SPUR_THR = BitVec.ofNat 64 p.thresh ∧
      Frame [.pair, .wr, .media] (rxRegs ++ [A.COL_CTL, A.COL_SPUR_THR, A.COL_SPUR_BUD] ++
        (List.range 64).flatMap (fun ch => [A.MULE_SUSP_PRG ch, A.MULE_SUSP_ERS ch])) s.dev d)) ∧
  (∀ s f st off b, InOrder f s → s.dev.oxActive = false →
    Gives (.bulk f st off (.bytes b)) s (fun d =>
      Taken s.dev d ∧ 4 ∈ d.ox.lines ∧ Frame [.pair, .wr, .ox] rxRegs s.dev d)) ∧
  (∀ s f st off p time rep, InOrder f s →
    let held := (s.dev.log pairLog).recs.any (fun r => decide (r.post = p ∧ r.time = time ∧ r.rep = rep))
    (held = true → Gives (.bulk f st off (.pairRec p time rep)) s (fun d => Taken s.dev d ∧ Frame [.pair, .wr] rxRegs s.dev d)) ∧
    (held = false → (s.dev.log pairLog).recs.length < 8192 →
      Gives (.bulk f st off (.pairRec p time rep)) s (fun d =>
        Taken s.dev d ∧ (∃ r, r ∈ (d.log pairLog).recs ∧ r.post = p ∧ r.time = time ∧ r.rep = rep) ∧
        (∀ l, l ≠ pairLog → d.log l = s.dev.log l) ∧ Frame [.pair, .wr, .cairn] rxRegs s.dev d)))

/-- R29, R239, R241 to R244, R264: PAIR_CONTROL, its PHASE message, the phases, and SURVIVOR. The answer `refuse` to a request that
cannot begin is the model's choice (assumption 137). -/
def Obligations.PairControl : Prop :=
  (∀ s h, PairMay h .join s → s.dev.isFenced = false →
    Gives (.join h) s (fun d =>
      PairOpen (some h) .join d ∧ d.pair.tee = true ∧ .phase .join ∈ d.pair.out ∧ Frame [.pair, .fw] [A.PAIR_CNT 0] s.dev d)) ∧
  (∀ s h, PairMay h .handback s → s.dev.isFenced = false →
    Gives (.handback h) s (fun d =>
      PairOpen (some h) .handback d ∧ d.pair.tee = true ∧ .phase .handback ∈ d.pair.out ∧ Frame [.pair, .fw] [A.PAIR_CNT 0] s.dev d)) ∧
  (∀ s h, PairMay h .handback s → s.dev.isFenced = true →
    Gives (.handback h) s (fun d =>
      PairOpen (some h) .handback d ∧ d.pair.tee = s.dev.pair.tee ∧ Frame [.pair, .fw] [A.PAIR_CNT 0] s.dev d)) ∧
  (∀ s h, PairMay h (.release !s.dev.board.pairId) s →
    Gives (.release h !s.dev.board.pairId) s (fun d =>
      PairOpen (some h) (.release !s.dev.board.pairId) d ∧ d.pair.ana = 1 ∧
      FrameLog [.pair, .fw, .host] (A.PAIR_CNT 0 :: colNsRegs s.dev) s.dev d)) ∧
  (∀ s h, PairMay h (.release s.dev.board.pairId) s → s.dev.wr.entries ≠ [] ∨ s.dev.openCmds ≠ [] →
    Gives (.release h s.dev.board.pairId) s (fun d =>
      PairOpen (some h) (.release s.dev.board.pairId) d ∧ d.pair.anaOwn = 1 ∧
      (∀ n, s.dev.media.nss = [n] → n.home = s.dev.board.pairId → n.nsx < 1024 → d.bit (A.COL_NS n.nsx) 41 = false) ∧
      FrameLog [.pair, .fw, .host] (A.PAIR_CNT 0 :: colNsRegs s.dev) s.dev d)) ∧
  (∀ s h, PairMay h (.release s.dev.board.pairId) s → s.dev.wr.entries = [] → s.dev.openCmds = [] → s.dev.pair.tee = false →
    (∀ ch, ch < 64 → bitOf (s.dev.rd A.PAIR_OWN) ch = true → s.dev.chRuns ch = false ∧ s.dev.bit (A.MULE_STAT ch) 1 = false) →
    Gives (.release h s.dev.board.pairId) s (fun d =>
      PairOpen (some h) (.release s.dev.board.pairId) d ∧ d.rd A.PAIR_OWN = 0 ∧ d.bit A.PAIR_CTL 3 = false ∧ d.bit A.PAIR_CTL 4 = false ∧
      d.aliveOut = false)) ∧
  (∀ s h, PairMay h .goSolo s → s.dev.fw.mode = .survivor → s.dev.host.stopped = false →
    Gives (.goSolo h) s (fun d =>
      d.fw.role = .solo ∧ (d.fw.mode = .solo ∨ d.fw.mode = .readonly) ∧ d.fw.transit = false ∧
      d.media.nss = s.dev.media.nss.map (fun n => { n with home := s.dev.board.pairId }) ∧
      d.host.out.getLast? = some (.cqe { h := h, st := .success, dnr := false, res0 := d.devstat, res1 := 0 }) ∧
      d.bit A.PAIR_FENCE 0 = s.dev.bit A.PAIR_FENCE 0 ∧
      FrameLog [.pair, .fw, .host, .media, .pins, .tor] [A.PAIR_CNT 0, A.SB_ALERTSRC] s.dev d)) ∧
  (∀ s h one, Running s → s.dev.isPf h.fn.val = true → s.dev.host.stopped = false →
    ∀ c, c ∈ [(Instr.join h, PairAct.join), (.release h one, .release one), (.handback h, .handback), (.goSolo h, .goSolo)] →
      s.dev.pairBusy = true ∨ s.dev.pairLegal c.2 = false →
      Gives c.1 s (fun d =>
        Sent s.dev d [.cqe { h := h, st := .modeRefused, dnr := !s.dev.fw.transit && decide (s.dev.fw.mode ≠ .init),
                             res0 := 0, res1 := 0 }] ∧ FrameHost h.fn [.host] [] s.dev d)) ∧
  (∀ s h one, Running s → s.dev.isPf h.fn.val = false → s.dev.host.stopped = false →
    ∀ c, c ∈ [Instr.join h, .release h one, .handback h, .goSolo h] →
      Gives c s (fun d => Sent s.dev d [cqeOf h .invalidOpcode] ∧ FrameHost h.fn [.host] [] s.dev d)) ∧
  (∀ s f, InOrder f s → s.dev.pair.req = none →
    (s.dev.fw.mode = .duo → s.dev.pairBusy = false →
      Gives (.phase f (.release !s.dev.board.pairId)) s (fun d =>
        Taken s.dev d ∧ PairOpen none (.release !s.dev.board.pairId) d ∧ d.pair.ana = 1 ∧
        FrameLog [.pair, .wr, .fw, .host] (rxRegs ++ colNsRegs s.dev) s.dev d)) ∧
    (s.dev.fw.mode ≠ .duo ∨ s.dev.pairBusy = true →
      Gives (.phase f (.release !s.dev.board.pairId)) s (fun d =>
        Taken s.dev d ∧ d.pair.req = none ∧ .phase .refuse ∈ d.pair.out ∧ Frame [.pair, .wr] rxRegs s.dev d))) ∧
  (∀ s f a r, InOrder f s → s.dev.pair.req = some r → s.dev.board.pairId = false → a ≠ .goSolo → a ≠ .refuse →
    Gives (.phase f a) s (fun d => Taken s.dev d ∧ d.pair.req = some r ∧ Frame [.pair, .wr] rxRegs s.dev d)) ∧
  (∀ s r, Running s → s.dev.pair.req = some r → r.a = .handback ∨ r.a = .join → r.ph = 1 →
    Gives .handbackPhaseEnd s (fun d => d.pair.req = some { r with ph := 2 } ∧ Frame [.pair] [] s.dev d)) ∧
  (∀ s r, Running s → s.dev.pair.req = some r → r.a = .handback ∨ r.a = .join → r.ph = 2 → s.dev.isFenced = false →
    (s.dev.settled = false → Gives .handbackPhaseEnd s (fun d => d = s.dev)) ∧
    (s.dev.settled = true → s.dev.wr.waiting = [] → s.dev.handBusy = true →
      Gives .handbackPhaseEnd s (fun d =>
        d.pair.req = some { r with ph := 3 } ∧ d.pair.ana = 1 ∧ FrameLog [.pair, .host] (colNsRegs s.dev) s.dev d))) ∧
  (∀ s r, Running s → s.dev.pair.req = some r → r.a = .handback ∨ r.a = .join → 3 ≤ r.ph → s.dev.isFenced = true →
    s.dev.ownSide &&& ~~~ s.dev.rd A.PAIR_OWN = 0 → Gives .handbackPhaseEnd s DuoEntered) ∧
  (∀ s, Running s → s.dev.pair.takeover = true → s.dev.rd A.PAIR_OWN = BitVec.allOnes 64 →
    Gives .survivorEntry s (fun d =>
      d.fw.role = .survivor ∧ d.fw.transit = false ∧ d.pair.takeover = false ∧ d.pair.takeovers = s.dev.pair.takeovers + 1 ∧
      (s.dev.fw.mode = .duo → d.fw.mode = .survivor ∨ d.fw.mode = .readonly) ∧
      (∀ p, p ∈ [Part.cores, .gate, .cirque, .ox, .cipher, .dram, .tick] → p.same s.dev d) ∧
      (s.dev.peerZones = [] → s.dev.wr.waiting = [] → s.dev.wr.mirror = [] → ∀ p, p ∈ [Part.cairn, .mules, .free] → p.same s.dev d)))

/-! Reads and admission (R42, R43, R62, R89 to R109, R173, R190). -/

/-- R43, R62, R160, R173, R174, R256: reads on the firmware path, Verify, Compare, a buffered copy that is lost, and a read by
reconstruction. -/
def Obligations.HostReads : Prop :=
  (∀ s h c n bad, ReadOn h c n s → NoBufferLoss n.nsx (memoryLbas c.slba bad) s.dev → s.dev.foldBad n c bad = [] →
    let l := s.dev.readAll n c (s.dev.afterLoss n c.slba bad)
    let ps := lossParts (memoryLbas c.slba bad)
    let rs := lossRegs (memoryLbas c.slba bad)
    (failsOf l = [] →
      Gives (.read h c bad) s (fun d =>
        Sent s.dev d [.lbas h (goodOf l), cqeOf h .success] ∧ FrameHost h.fn (.host :: ps) rs s.dev d) ∧
      (∀ data, Gives (.compare h c data bad) s (fun d =>
        Sent s.dev d [cqeOf h (if (if n.md = 0 then (goodOf l).map (fun p => p.2.data) == data.map (·.data)
          else (goodOf l).map (fun p => p.2) == data) then .success else .compareFail)] ∧
        FrameHost h.fn (.host :: ps) rs s.dev d))) ∧
    (∀ i f r, failsOf l = (i, f) :: r →
      Gives (.read h c bad) s (fun d =>
        Sent s.dev d [.lbas h (goodOf l), .cqe { h := h, st := f.status, dnr := s.dev.dnr f.status, res0 := 0, res1 := 0 }] ∧
        d.host.mediaErrs = s.dev.host.mediaErrs + 1 ∧ FrameHost h.fn ([.host, .cairn] ++ ps) rs s.dev d) ∧
      (∀ data, Gives (.compare h c data bad) s (fun d =>
        Sent s.dev d [.cqe { h := h, st := f.status, dnr := s.dev.dnr f.status, res0 := 0, res1 := 0 }] ∧
        d.host.mediaErrs = s.dev.host.mediaErrs + 1 ∧ FrameHost h.fn ([.host, .cairn] ++ ps) rs s.dev d)))) ∧
  (∀ s h c n i, ReadOn h c n s → n.zoned = true → s.dev.foldBad n c [(i, .stripe)] = [c.slba + i] →
    let ix := n.base + (n.zoneOf (c.slba + i)).1
    (s.dev.zd ix).active = true ∨ (s.dev.zd ix).st = zFull →
    Gives (.read h c [(i, .stripe)]) s (fun d =>
      (d.zd ix).st = zRO ∧ (d.zd ix).colok = false ∧ (d.zd ix).wp = (s.dev.zd ix).wp ∧
      d.sectorAt n (c.slba + i) = .error .stripe)) ∧
  (∀ s h c n bad, Io h s → NoReadWait s.dev → MapGood n s.dev → s.dev.readCheck h c 65536 = .ok n →
    NoBufferLoss n.nsx (memoryLbas c.slba bad) s.dev → s.dev.foldBad n c bad = [] →
    let l := s.dev.readAll n c (s.dev.afterLoss n c.slba bad)
    let ps := lossParts (memoryLbas c.slba bad)
    let rs := lossRegs (memoryLbas c.slba bad)
    (failsOf l = [] →
      Gives (.verify h c bad) s (fun d => Sent s.dev d [cqeOf h .success] ∧ FrameHost h.fn (.host :: ps) rs s.dev d)) ∧
    (∀ i f r, failsOf l = (i, f) :: r →
      Gives (.verify h c bad) s (fun d =>
        Sent s.dev d [.cqe { h := h, st := f.status, dnr := s.dev.dnr f.status, res0 := 0, res1 := 0 }] ∧
        d.host.mediaErrs = s.dev.host.mediaErrs + 1 ∧ FrameHost h.fn ([.host, .cairn] ++ ps) rs s.dev d))) ∧
  (∀ s h c bad data st, Io h s → NoReadWait s.dev →
    (s.dev.readCheck h c = .error st →
      ∀ i, i ∈ [Instr.read h c bad, .compare h c data bad] →
        Gives i s (fun d =>
          Sent s.dev d [.cqe { h := h, st := st, dnr := s.dev.dnr st, res0 := 0, res1 := 0 }] ∧ FrameHost h.fn [.host] [] s.dev d)) ∧
    (s.dev.readCheck h c 65536 = .error st →
      Gives (.verify h c bad) s (fun d =>
        Sent s.dev d [.cqe { h := h, st := st, dnr := s.dev.dnr st, res0 := 0, res1 := 0 }] ∧ FrameHost h.fn [.host] [] s.dev d))) ∧
  (∀ s h c n i, ReadOn h c n s → i < c.nlb → s.dev.fw.role ≠ .duo → s.dev.inBuffer n.nsx (c.slba + i) = true →
    Gives (.read h c [(i, .memory)]) s (fun d => BufferPoisoned n.nsx (c.slba + i) s.dev d)) ∧
  (∀ s h c n, ReadOn h c n s → c.nlb = 1 → n.zoned = true → (s.dev.zd (n.base + (n.zoneOf c.slba).1)).st = zEmpty →
    Gives (.read h c []) s (fun d => Sent s.dev d [.lbas h [(0, stripPi n c (zeroLba n))], cqeOf h .success])) ∧
  (∀ s h c n x, ReadOn h c n s → c.nlb = 1 → n.zoned = true → n.keyed = false → n.hasPi = false →
    let z := s.dev.zd (n.base + (n.zoneOf c.slba).1)
    z.st ≠ zEmpty → (n.zoneOf c.slba).2 < z.fp → s.dev.rowBroken n.seven z.group z.lbn = false →
    SMap.find s.dev.media.flash (s.dev.zoneKey n.seven z.group z.lbn (n.zoneOf c.slba).2) = some x →
    Gives (.read h c []) s (fun d =>
      Sent s.dev d (if x.nsx = n.nsx ∧ x.lba = c.slba ∧ x.gen = z.zseq ∧ x.poison = false then [.lbas h [(0, x.d)], cqeOf h .success]
        else [.lbas h [], cqeOf h .unrecRead]))) ∧
  (∀ s h bad r n, Posting s → NoReadWait s.dev → s.dev.host.reads.find? (fun x => x.h == h) = some r → r.failed = true → r.ids = [] →
    s.dev.nsOf r.c.nsid = some n → failsOf (s.dev.readAll n r.c bad) = [] →
    Gives (.readReconstruction h bad) s (fun d =>
      Sent s.dev d [.lbas h (goodOf (s.dev.readAll n r.c bad)), cqeOf h .success] ∧ r ∉ d.host.reads ∧
      (r.c.nsid, (n.zoneOf r.c.slba).1) ∈ d.media.refreshQ ∧ FrameHost h.fn [.host, .media] [] s.dev d))

/-- R89 to R92, R96, R98, R101, R103, R176, R190, R195: the doorbell, a queue of a quiesced Pen, admission by tokens, Col, and the
Spur windows. -/
def Obligations.ReadAdmission : Prop :=
  (∀ s fn qid tail e, Running s → TakenUp s.dev → s.dev.host.sqs.find? (fun x => x.fn == fn.val && x.sqid == qid) = none →
    Gives (.sqTailDoorbell fn qid tail e) s (fun d =>
      (∀ p, s.dev.penOf fn.val = some p → s.dev.cairnOn = true → s.dev.cairn.fifo.length < 64 →
        ∃ x, d.cairn.fifo = s.dev.cairn.fifo ++ [x] ∧ x.logs = [unitLog (0x0D00 + fn.val), penLog p]) ∧
      Frame [.cairn] [A.CAIRN_HWDROP] s.dev d)) ∧
  (∀ s fn qid tail e q, Running s → TakenUp s.dev →
    s.dev.host.sqs.find? (fun x => x.fn == fn.val && x.sqid == qid) = some q → q.halted = false →
    s.dev.quiesced fn.val = true ∨ s.dev.tor.latch = true →
    Gives (.sqTailDoorbell fn qid tail e) s (fun d =>
      { q with tail := tail, todo := q.todo ++ [(s.dev.tick, e)] } ∈ d.host.sqs ∧ d.host.fw = s.dev.host.fw ∧
      Frame [.host] [] s.dev d)) ∧
  (∀ s fn qid tail e q, Running s → TakenUp s.dev →
    s.dev.host.sqs.find? (fun x => x.fn == fn.val && x.sqid == qid) = some q → q.halted = false → q.todo = [] →
    s.dev.fetches fn.val = true → q.inCmb = true → e.eccBad = true →
    Gives (.sqTailDoorbell fn qid tail e) s (fun d =>
      { q with tail := tail, halted := true } ∈ d.host.sqs ∧ d.host.fw = s.dev.host.fw ∧ d.host.errCount = s.dev.host.errCount + 1 ∧
      Frame [.host] [] s.dev d)) ∧
  (∀ s fn qid tail e q, DoorbellTo fn qid e q s → q.sqid = 0 →
    Gives (.sqTailDoorbell fn qid tail e) s (fun d =>
      TailMoved q tail d ∧
      d.host.fw = s.dev.host.fw ++ [{ h := { fn := fn, qid := qid, cid := e.cid }, q := 4096, e := e, t0 := s.dev.tick, admitted := true }] ∧
      Frame [.host] [] s.dev d)) ∧
  (∀ s fn qid tail e q, DoorbellTo fn qid e q s → q.sqid ≠ 0 → NotCol q e s.dev →
    s.dev.badForm { fn := fn, qid := qid, cid := e.cid } e = true →
    Gives (.sqTailDoorbell fn qid tail e) s (fun d =>
      TailMoved q tail d ∧
      d.host.fw = s.dev.host.fw ++ [{ h := { fn := fn, qid := qid, cid := e.cid }, q := q.q, e := e, t0 := s.dev.tick, admitted := false
                                      pen := s.dev.fld (A.COL_SQ q.q) 10 3, cls := s.dev.fld (A.COL_SQ q.q) 2 1 }] ∧
      d.rd A.COL_CNT_FB = s.dev.rd A.COL_CNT_FB + 1 ∧ Frame [.host] [A.COL_CNT_FB] s.dev d)) ∧
  (∀ s fn qid tail e q, DoorbellTo fn qid e q s → q.sqid ≠ 0 → NotCol q e s.dev →
    s.dev.badForm { fn := fn, qid := qid, cid := e.cid } e = false → s.dev.pens.wait = [] →
    let p := s.dev.fld (A.COL_SQ q.q) 10 3
    let wr := chargesWrite e.opc
    HasTokens p wr (costOf e) s.dev → s.dev.fld (A.COL_SQ q.q) 2 1 ≠ 0 →
    Gives (.sqTailDoorbell fn qid tail e) s (fun d =>
      TailMoved q tail d ∧ (∃ f ∈ d.host.fw, f.h = { fn := fn, qid := qid, cid := e.cid } ∧ f.e = e ∧ f.admitted = true) ∧
      d.pens.wait = [] ∧
      (wr = false → d.fld (A.PEN_TOK p) 15 0 = s.dev.fld (A.PEN_TOK p) 15 0 - costOf e) ∧
      (wr = true → d.fld (A.PEN_TOK p) 31 16 = s.dev.fld (A.PEN_TOK p) 31 16 - costOf e) ∧
      d.rd A.COL_CNT_FB = s.dev.rd A.COL_CNT_FB + 1 ∧
      Frame [.host, .pens] [A.PEN_TOK p, A.PEN_DEBT p, A.COL_CNT_FB] s.dev d)) ∧
  (∀ s fn qid tail e q n, DoorbellTo fn qid e q s → q.sqid ≠ 0 → ColTakes q e n s.dev → s.dev.pens.wait = [] →
    let p := s.dev.fld (A.COL_SQ q.q) 10 3
    let cls := s.dev.fld (A.COL_SQ q.q) 2 1
    let o := e.rw.slba % zsze (s.dev.bit (A.COL_NS (e.rw.nsid - 1)) 40)
    let zi := e.rw.slba / zsze (s.dev.bit (A.COL_NS (e.rw.nsid - 1)) 40)
    let parts := colSplit 5 o e.rw.nlb
    HasTokens p false (costOf e) s.dev → cls ≠ 0 →
    MembersGo (s.dev.penCmd { fn := fn, qid := qid, cid := e.cid } q.q e s.dev.tick true) n
      (s.dev.zd (s.dev.fld (A.COL_NS (e.rw.nsid - 1)) 19 0 + zi)) (zi * zsze (s.dev.bit (A.COL_NS (e.rw.nsid - 1)) 40)) o s.dev →
    Gives (.sqTailDoorbell fn qid tail e) s (fun d =>
      TailMoved q tail d ∧ d.host.fw = s.dev.host.fw ∧
      (∃ r, d.host.reads = s.dev.host.reads ++ [r] ∧ r.h = { fn := fn, qid := qid, cid := e.cid } ∧ r.c = e.rw ∧ r.pen = p ∧ r.cls = cls ∧
        r.ids = (List.range parts.length).map (fun i => s.dev.mules.nextId + i)) ∧
      d.rd A.COL_CNT_FAST = s.dev.rd A.COL_CNT_FAST + 1 ∧
      d.fld (A.PEN_TOK p) 15 0 = s.dev.fld (A.PEN_TOK p) 15 0 - costOf e ∧
      Frame [.host, .pens, .mules] ([A.PEN_TOK p, A.PEN_DEBT p, A.COL_CNT_FAST] ++ muleRegs) s.dev d)) ∧
  (∀ s (p : PenN) wr c, Running s → TakenUp s.dev → s.dev.pens.wait = [c] → c.pen = p.val → c.wr = wr → c.col = false → c.cls ≠ 0 →
    s.dev.bit A.PEN_CTL 0 = true → s.dev.penActive p.val = true →
    let hi := if wr then 31 else 15
    let lo := if wr then 16 else 0
    s.dev.fld (A.PEN_DEBT p.val) hi lo = 0 → 0 < s.dev.fld (A.PEN_TOK p.val) hi lo →
    Gives (.commandAdmission p wr) s (fun d =>
      let tok := s.dev.fld (A.PEN_TOK p.val) hi lo
      d.pens.wait = [] ∧ d.fld (A.PEN_TOK p.val) hi lo = tok - c.cost ∧
      d.fld (A.PEN_DEBT p.val) hi lo = Nat.min 0xFFFF (c.cost - tok) ∧ (∀ f ∈ d.host.fw, f.h = c.h → f.admitted = true) ∧
      Frame [.host, .pens] [A.PEN_TOK p.val, A.PEN_DEBT p.val] s.dev d)) ∧
  (∀ s (p : PenN) wr c, Running s → TakenUp s.dev → s.dev.pens.wait = [c] → c.cls ≠ 0 → s.dev.pens.eff = [] →
    (if wr then s.dev.fld (A.PEN_TOK p.val) 31 16 else s.dev.fld (A.PEN_TOK p.val) 15 0) = 0 →
    Gives (.commandAdmission p wr) s (fun d => d = s.dev)) ∧
  (∀ s (ch : Ch) (l : LunN) id q, Running s → TakenUp s.dev →
    (s.dev.lun ch.val l.val).queue.find? (fun x => x.id == id && (x.r.spurOk || x.late)) = some q →
    s.dev.spurRule ch.val l.val q = .queue → Gives (.spurRedecision ch l id) s (fun d => d = s.dev)) ∧
  (∀ s (ch : Ch) (l : LunN) id q, Running s → TakenUp s.dev →
    (s.dev.lun ch.val l.val).queue.find? (fun x => x.id == id && (x.r.spurOk || x.late)) = some q →
    s.dev.spurRule ch.val l.val q = .deny → s.dev.lateWay ch.val l.val q = false →
    Gives (.spurRedecision ch l id) s (fun d =>
      d.rd A.COL_CNT_DENY = s.dev.rd A.COL_CNT_DENY + 1 ∧ Frame [.host] [A.COL_CNT_DENY] s.dev d)) ∧
  (∀ s, Running s →
    Gives .spurWindowStart s (fun d =>
      (∀ c, c < 64 → d.rd (A.COL_SPUR_USE c) = 0 ∧ d.spurUse c = 0) ∧ d.mules.spurBud = s.dev.spurWin * 1000 * s.dev.spurPct / 100 ∧
      Frame [.mules] ((List.range 64).map A.COL_SPUR_USE) s.dev d))

/-! The write path (R43, R46 to R88). -/

/-- R30, R46 to R48, R53, R57, R64, R65, R67 to R69, R71 to R73, R86, R87, R163, R164, R180, R232, R256: admission of writes and
their waits, acknowledgment, Flush, and the commands that empty conventional LBAs. The status in READONLY is the model's for what
R47 does not say (assumption 108). -/
def Obligations.HostWrites : Prop :=
  (∀ s h c n data, WriteOn h c n data s → Fits c n s.dev → n.zoned = true →
    let ix := (zoneAt n c).1
    let zs := (zoneAt n c).2
    let z := s.dev.zd ix
    let o := (n.zoneOf c.slba).2
    o + c.nlb ≤ zcap n.seven → o = s.dev.ap n.nsx zs (zsze n.seven) z.wp →
    (s.dev.heldRuns n.nsx zs (zsze n.seven)).any (fun r => meets r (o, o + c.nlb)) = false →
    piAll n c false c.slba data = none → c.hop3.val < 2 →
    (z.opened = true → c.hop3 = 0 →
      Gives (.write h c data) s (fun d =>
        Admitted s.dev d h n c.slba false (s.dev.sectors n c false c.slba z.zseq data) ∧ (∀ k, d.zd k = s.dev.zd k) ∧
        d.media.lru.getLast? = some ix ∧ Frame [.wr, .media, .pair, .pens] teeRegs s.dev d)) ∧
    (∀ r, z.st = zEmpty → c.hop3 = 0 → s.dev.tees = false → s.dev.activeRoom z = true → s.dev.evict z.pen = .free →
      s.dev.bestRow z.seven z.nsx = some r → r.stale = false →
      Gives (.write h c data) s (fun d =>
        Admitted s.dev d h n c.slba false (s.dev.sectors n c false c.slba z.zseq data) ∧
        d.zd ix = { z with st := zImp, group := r.group % 256, lbn := r.lbn % 16384, colok := !s.dev.moving z.nsx } ∧
        (∀ k, k ≠ ix → d.zd k = s.dev.zd k) ∧ d.wr.resv = s.dev.wr.resv ++ [ix] ∧
        (z.seven = true → d.media.pool7 = s.dev.media.pool7.filter (fun x => x != r)) ∧
        (z.seven = false → d.media.pool14 = s.dev.media.pool14.filter (fun x => x != r)) ∧
        Journaled d (.zopen z.nsx ix r.group r.lbn z.zseq z.seven) ∧
        Frame [.wr, .media, .mules, .pens] [] s.dev d)) ∧
    (z.st = zEmpty → s.dev.activeRoom z = false →
      Gives (.write h c data) s (fun d => Sent s.dev d [cqeOf h .tooManyActive] ∧ FrameHost h.fn [.host] [] s.dev d)) ∧
    (z.st = zClosed → s.dev.evict z.pen = .refuse →
      Gives (.write h c data) s (fun d => Sent s.dev d [cqeOf h .tooManyOpen] ∧ FrameHost h.fn [.host] [] s.dev d))) ∧
  (∀ s h c n data st, WriteOn h c n data s → Fits c n s.dev → n.zoned = false → n.prot = false →
    piAll n c false c.slba data = some st →
    Gives (.write h c data) s (fun d =>
      Sent s.dev d [.cqe { h := h, st := st, dnr := s.dev.dnr st, res0 := 0, res1 := 0 }] ∧
      d.wr = s.dev.wr ∧ FrameHost h.fn [.host, .media] [] s.dev d)) ∧
  (∀ s h c n data, WriteOn h c n data s → Fits c n s.dev → n.zoned = false → n.prot = false → 2 ≤ c.hop3.val →
    piAll n c false c.slba data = none →
    Gives (.write h c data) s (fun d =>
      Sent s.dev d [cqeOf h .dataTransfer] ∧ d.wr = s.dev.wr ∧ FrameHost h.fn [.host, .media] [] s.dev d)) ∧
  (∀ s h c n data, WriteOn h c n data s → Fits c n s.dev → n.zoned = true →
    let ix := (zoneAt n c).1
    let zs := (zoneAt n c).2
    let z := s.dev.zd ix
    let o := (n.zoneOf c.slba).2
    (∀ st, (z.st = zOff ∧ st = Status.zoneOffline) ∨ (z.st = zRO ∧ st = .zoneReadOnly) ∨ (z.st = zFull ∧ st = .zoneFull) ∨
        (z.active = true ∧ o ≠ s.dev.ap n.nsx zs (zsze n.seven) z.wp ∧ st = .zoneInvalidWrite) ∨
        (z.active = true ∧ o = s.dev.ap n.nsx zs (zsze n.seven) z.wp ∧
          (s.dev.heldRuns n.nsx zs (zsze n.seven)).any (fun r => meets r (o, o + c.nlb)) = false ∧ zcap n.seven < o + c.nlb ∧
          st = .zoneBoundary) →
      Gives (.write h c data) s (fun d => Sent s.dev d [cqeOf h st] ∧ FrameHost h.fn [.host] [] s.dev d))) ∧
  (∀ s h c n data, WriteOn h c n data s → Fits c n s.dev → n.zoned = true → c.nlb ≤ 256 → (n.zoneOf c.slba).2 = 0 →
    let ix := (zoneAt n c).1
    let zs := (zoneAt n c).2
    let z := s.dev.zd ix
    let runs := s.dev.heldRuns n.nsx zs (zsze n.seven)
    let o := firstFit (runs.length + 1) runs c.nlb (s.dev.ap n.nsx zs (zsze n.seven) z.wp)
    z.opened = true → c.hop3 = 0 →
    (o + c.nlb ≤ zcap n.seven → piAll n c true (zs + o) data = none →
      Gives (.zoneAppend h c data) s (fun d =>
        Admitted s.dev d h n (zs + o) true (s.dev.sectors n c true (zs + o) z.zseq data) ∧ (∀ k, d.zd k = s.dev.zd k) ∧
        d.media.lru.getLast? = some ix ∧ Frame [.wr, .media, .pair, .pens] teeRegs s.dev d)) ∧
    (zcap n.seven < o + c.nlb →
      Gives (.zoneAppend h c data) s (fun d => Sent s.dev d [cqeOf h .zoneBoundary] ∧ FrameHost h.fn [.host] [] s.dev d))) ∧
  (∀ s h c n data, WriteOn h c n data s → n.zoned = false ∨ 256 < c.nlb ∨ (n.zoneOf c.slba).2 ≠ 0 →
    Gives (.zoneAppend h c data) s (fun d => Sent s.dev d [cqeOf h .invalidField] ∧ FrameHost h.fn [.host] [] s.dev d)) ∧
  (∀ s h c n data, WriteOn h c n data s → Fits c n s.dev → n.zoned = false → n.prot = false → c.pid < 128 → c.hop3 = 0 →
    piAll n c false c.slba data = none →
    Gives (.write h c data) s (fun d =>
      Admitted s.dev d h n c.slba false (s.dev.sectors n c false c.slba n.wctr data) ∧
      d.media.nss = s.dev.media.nss.map (fun x => if x.nsx = n.nsx then { n with wctr := nextGen n.wctr } else x) ∧
      Frame [.wr, .media, .pair, .pens] teeRegs s.dev d)) ∧
  (∀ s h c n data, WriteOn h c n data s →
    let waits := fun (d : Dev) =>
      d.wr.waiting = s.dev.wr.waiting ++ [{ h := h, c := c, d := data, app := false, pen := n.pen, unc := false,
                                            space := !s.dev.space n.pen (c.nlb * 4096) }] ∧
      d.wr.entries = s.dev.wr.entries
    (s.dev.room n.pen (c.nlb * 4096) = false → s.dev.writeWaits n c false = none →
      Gives (.write h c data) s (fun d => waits d ∧ Frame [.wr] [] s.dev d)) ∧
    (∀ r, s.dev.writeWaits n c false = some r →
      Gives (.write h c data) s (fun d =>
        waits d ∧ (r.dirty = true → d.media = s.dev.media) ∧
        (r.dirty = false → d.media.eraseQ = s.dev.media.eraseQ ++ [{ r with dirty := true }]) ∧ Frame [.wr, .media] [] s.dev d))) ∧
  (∀ s h c n data, Io h s → s.dev.nsOf c.nsid = some n → s.dev.rwCheck h c n = none → data.length = c.nlb →
    s.dev.fw.mode = .readonly →
    let st := s.dev.readonlyStatus n c.slba
    ∀ i, i ∈ [Instr.write h c data, .zoneAppend h c data] →
      Gives i s (fun d => Sent s.dev d [.cqe { h := h, st := st, dnr := s.dev.dnr st, res0 := 0, res1 := 0 }] ∧
        FrameHost h.fn [.host] [] s.dev d)) ∧
  (∀ s h c n data st, Io h s → s.dev.nsOf c.nsid = some n → s.dev.rwCheck h c n = some st →
    ∀ i, i ∈ [Instr.write h c data, .zoneAppend h c data] →
      Gives i s (fun d => Sent s.dev d [.cqe { h := h, st := st, dnr := s.dev.dnr st, res0 := 0, res1 := 0 }] ∧
        FrameHost h.fn [.host] [] s.dev d)) ∧
  (∀ s id e, Running s → s.dev.wr.entries.find? (fun e => e.id == id) = some e → s.dev.ackable e = true → s.dev.wr.flushes = [] →
    s.dev.wr.measuring ≠ 4 →
    Gives (.writeAck id) s (fun d =>
      d.wr.entries = s.dev.wr.entries.map (fun x => if x.id = e.id then { x with acked := true } else x) ∧
      Sent s.dev d [if e.app then .cqe { h := e.h, st := .success, dnr := false, res0 := e.lba % 2 ^ 32, res1 := e.lba / 2 ^ 32 }
        else cqeOf e.h .success] ∧
      (e.zoned = false → FrameHost e.h.fn [.host, .wr] [] s.dev d) ∧
      (∀ n, e.zoned = true → s.dev.media.nss.find? (fun n => n.nsx == e.nsx) = some n →
        (d.zd (n.base + e.zone / zsze n.seven)).wp = Nat.min (zcap n.seven)
          (d.wpNow n.nsx e.zone (zsze n.seven) (s.dev.zd (n.base + e.zone / zsze n.seven)).wp)))) ∧
  (∀ s id e, Running s → s.dev.wr.entries.find? (fun e => e.id == id) = some e → s.dev.ackable e = false →
    Gives (.writeAck id) s (fun d => d = s.dev)) ∧
  (∀ s h c n, Io h s → s.dev.nsOf c.nsid = some n → s.dev.rwForm h c n 65536 = none → n.zoned = false → n.prot = false → MapGood n s.dev →
    Gives (.writeZeroes h c true) s (fun d =>
      Sent s.dev d [cqeOf h .success] ∧
      (∀ k, SMap.find d.media.conv k = if k / 2 ^ 40 = n.nsx ∧ c.slba ≤ k % 2 ^ 40 ∧ k % 2 ^ 40 < c.slba + c.nlb then none
        else SMap.find s.dev.media.conv k) ∧
      d.wr.entries = s.dev.wr.entries.flatMap (cutEntry n.nsx c.slba (c.slba + c.nlb)) ∧
      d.wr.fold = s.dev.wr.fold.flatMap (cutFold n.nsx c.slba (c.slba + c.nlb)) ∧
      (s.dev.tees = false → d.pair = s.dev.pair ∧ d.rd (A.PAIR_CNT 0) = s.dev.rd (A.PAIR_CNT 0)) ∧
      (s.dev.tees = true → s.dev.linkUp = true → ∀ k e, SMap.find s.dev.media.conv k = some e → convKey n.nsx c.slba ≤ k →
        k < convKey n.nsx (c.slba + c.nlb) → ∃ l, .cmap l ∈ d.pair.out ∧ (k, noPlace) ∈ l) ∧
      FrameHost h.fn [.host, .wr, .media, .pair] [A.PAIR_CNT 0] s.dev d)) ∧
  (∀ s h c n dealloc, s.dev.nsOf c.nsid = some n → dealloc = false ∨ n.zoned = true → c.nlb ≤ 512 →
    exec (.writeZeroes h c dealloc) s = exec (.write h { c with hop3 := 0 } (List.replicate c.nlb (zeroLba n))) s) ∧
  (∀ s h nsid, Io h s → nsid = 0xFFFFFFFF ∨ (∃ n, s.dev.nsOf nsid = some n ∧ s.dev.accessCheck h n = none) →
    s.dev.wr.flushes = [] → s.dev.wr.measuring ≠ 4 →
    (s.dev.occ ≤ s.dev.limit →
      Gives (.flush h nsid) s (fun d => Sent s.dev d [cqeOf h .success] ∧ d.wr = s.dev.wr ∧ FrameHost h.fn [.host] [] s.dev d)) ∧
    (s.dev.limit < s.dev.occ →
      Gives (.flush h nsid) s (fun d =>
        d.wr.flushes = [{ h := h, upto := s.dev.wr.nextId, occ := true }] ∧ d.wr.entries = s.dev.wr.entries ∧
        Frame [.wr] [] s.dev d))) ∧
  (∀ s h nsid n dealloc ranges st, Io h s → nsid ≠ 0xFFFFFFFF → s.dev.nsOf nsid = some n → s.dev.accessCheck h n = some st →
    ∀ i, i ∈ [Instr.flush h nsid, .datasetManagement h nsid dealloc ranges] →
      Gives i s (fun d => Sent s.dev d [.cqe { h := h, st := st, dnr := s.dev.dnr st, res0 := 0, res1 := 0 }] ∧
        FrameHost h.fn [.host] [] s.dev d)) ∧
  (∀ s h nsid n dealloc ranges, Io h s → s.dev.nsOf nsid = some n → s.dev.accessCheck h n = none →
    (n.zoned = true ∨ dealloc = false →
      Gives (.datasetManagement h nsid dealloc ranges) s (fun d => Sent s.dev d [cqeOf h .success] ∧ FrameHost h.fn [.host] [] s.dev d)) ∧
    (n.zoned = false → dealloc = true → ranges.any (fun r => decide (n.lbas < r.1 + r.2)) = false → n.prot = false → MapGood n s.dev →
      Gives (.datasetManagement h nsid dealloc ranges) s (fun d =>
        Sent s.dev d [cqeOf h .success] ∧
        (∀ k, SMap.find d.media.conv k =
          if k / 2 ^ 40 = n.nsx ∧ ranges.any (fun r => decide (r.1 ≤ k % 2 ^ 40 ∧ k % 2 ^ 40 < r.1 + r.2)) = true then none
          else SMap.find s.dev.media.conv k) ∧
        (s.dev.tees = false → d.pair = s.dev.pair ∧ d.rd (A.PAIR_CNT 0) = s.dev.rd (A.PAIR_CNT 0)) ∧
        FrameHost h.fn [.host, .wr, .media, .pair] [A.PAIR_CNT 0] s.dev d))) ∧
  (∀ s h c n, Io h s → s.dev.nsOf c.nsid = some n → s.dev.rwCheck h c n 65536 = none → Fits c n s.dev →
    s.dev.fw.mode ≠ .readonly → n.zoned = false → n.prot = false →
    Gives (.writeUncorrectable h c) s (fun d =>
      ∃ secs, secs.length = c.nlb ∧ (∀ x ∈ secs, x.poison = true ∧ x.nsx = n.nsx ∧ x.gen = n.wctr) ∧
        Admitted s.dev d h n c.slba false secs ∧ Frame [.wr, .media, .pair, .pens] teeRegs s.dev d)) ∧
  (∀ s h c n, Io h s → s.dev.nsOf c.nsid = some n → n.zoned = true →
    Gives (.writeUncorrectable h c) s (fun d => Sent s.dev d [cqeOf h .invalidOpcode] ∧ FrameHost h.fn [.host] [] s.dev d))

/-- R46, R47, R49 to R51, R53, R61: the zone commands on one zone, an open that waits for an erase, Report Zones, and what each
refuses. -/
def Obligations.ZoneCommands : Prop :=
  (∀ s h a n, ZoneOn h a n s →
    let ix := n.base + (n.zoneOf a.slba).1
    let z := s.dev.zd ix
    let all := [Part.wr, .media, .mules, .pair, .host, .fw, .tor, .pins]
    let refused := fun (i : Instr) (st : Status) =>
      Gives i s (fun d => Sent s.dev d [cqeOf h st] ∧ FrameHost h.fn [.host] [] s.dev d)
    (z.opened = true ∨ (z.st = zClosed ∧ s.dev.evict z.pen = .free) →
      Gives (.openZone h a) s (fun d =>
        d.zd ix = { z with st := zExp } ∧ (∀ k, k ≠ ix → d.zd k = s.dev.zd k) ∧ Sent s.dev d [cqeOf h .success] ∧
        FrameHost h.fn [.media, .pair, .host] [A.PAIR_CNT 0] s.dev d)) ∧
    (∀ r, z.st = zEmpty → s.dev.activeRoom z = true → s.dev.evict z.pen ≠ .refuse → s.dev.bestRow z.seven z.nsx = some r →
      r.stale = true →
      Gives (.openZone h a) s (fun d =>
        d.wr = { s.dev.wr with opens := s.dev.wr.opens ++ [(h, a)] } ∧ (r.dirty = true → d.media = s.dev.media) ∧
        (r.dirty = false → d.media.eraseQ = s.dev.media.eraseQ ++ [{ r with dirty := true }]) ∧ Frame [.wr, .media] [] s.dev d)) ∧
    (∀ r, z.st = zEmpty → s.dev.activeRoom z = true → s.dev.evict z.pen = .free → s.dev.bestRow z.seven z.nsx = some r →
      r.stale = false →
      Gives (.openZone h a) s (fun d =>
        d.zd ix = { z with st := zExp, group := r.group % 256, lbn := r.lbn % 16384, colok := !s.dev.moving z.nsx } ∧
        (∀ k, k ≠ ix → d.zd k = s.dev.zd k) ∧ d.wr.resv = s.dev.wr.resv ++ [ix] ∧
        Journaled d (.zopen z.nsx ix r.group r.lbn z.zseq z.seven) ∧ Sent s.dev d [cqeOf h .success] ∧
        FrameHost h.fn [.wr, .media, .mules, .pair, .pens, .host] [A.PAIR_CNT 0] s.dev d)) ∧
    (z.st = zEmpty → s.dev.activeRoom z = false → refused (.openZone h a) .tooManyActive) ∧
    (z.st = zClosed → s.dev.evict z.pen = .refuse → refused (.openZone h a) .tooManyOpen) ∧
    (z.active = false → z.st ≠ zEmpty → refused (.openZone h a) .zoneTransition) ∧
    (z.opened = true →
      Gives (.closeZone h a) s (fun d =>
        (d.zd ix).st = zClosed ∧ (d.zd ix).wp = z.wp ∧ (∀ k, k ≠ ix → d.zd k = s.dev.zd k) ∧
        Journaled d (.zstate z.nsx ix zClosed z.wp) ∧ Sent s.dev d [cqeOf h .success] ∧
        FrameHost h.fn [.wr, .media, .mules, .pair, .host] [A.PAIR_CNT 0] s.dev d)) ∧
    (z.st = zClosed →
      Gives (.closeZone h a) s (fun d => Sent s.dev d [cqeOf h .success] ∧ FrameHost h.fn [.host] [] s.dev d)) ∧
    (z.active = false → refused (.closeZone h a) .zoneTransition) ∧
    (∀ m, z.active = true → s.dev.media.nss.find? (fun m => m.nsx == z.nsx) = some m →
      Gives (.finishZone h a) s (fun d =>
        d.zd ix = { z with st := zFull, wp := zcap z.seven } ∧ (∀ k, k ≠ ix → d.zd k = s.dev.zd k) ∧
        Journaled d (.zstate z.nsx ix zFull (zcap z.seven)) ∧
        Sent s.dev d ((s.dev.wr.entries.filter (fun e => e.zoned && e.nsx == z.nsx && e.zone == a.slba && !e.acked)).map
          (fun e => cqeOf e.h .zoneFull) ++ [cqeOf h .success]) ∧
        FrameLog all [A.PAIR_CNT 0, A.SB_ALERTSRC] s.dev d)) ∧
    (z.st = zFull →
      Gives (.finishZone h a) s (fun d => Sent s.dev d [cqeOf h .success] ∧ FrameHost h.fn [.host] [] s.dev d)) ∧
    (z.active = false → z.st ≠ zFull → refused (.finishZone h a) .zoneTransition) ∧
    (s.dev.readsIn n (fun k => k == (n.zoneOf a.slba).1) = true →
      Gives (.resetZone h a) s (fun d => d.wr = { s.dev.wr with zwait := [(.resetZ, h, a)] } ∧ Frame [.wr] [] s.dev d)) ∧
    (s.dev.readsIn n (fun k => k == (n.zoneOf a.slba).1) = false → z.active = true ∨ z.st = zEmpty ∨ z.st = zFull →
      Gives (.resetZone h a) s (fun d =>
        ((d.zd ix).st = zEmpty ∨ (d.zd ix).st = zOff) ∧ (d.zd ix).wp = 0 ∧ (d.zd ix).fp = 0 ∧ (d.zd ix).zseq = nextGen z.zseq ∧
        d.wr.entries = (s.dev.wr.entries.filter (fun e => !(e.zoned && e.nsx == z.nsx && e.zone == a.slba && !e.acked))).flatMap
          (cutEntry z.nsx a.slba (a.slba + zsze z.seven)) ∧
        d.wr.fold = s.dev.wr.fold.flatMap (cutFold z.nsx a.slba (a.slba + zsze z.seven)) ∧
        (JournalOk s.dev → ∃ r ∈ d.media.journal, r.body = .zreset z.nsx ix (nextGen z.zseq) z.group z.lbn) ∧
        (z.st ≠ zEmpty → ∃ r ∈ d.media.eraseQ, r.seven = z.seven ∧ r.group = z.group ∧ r.lbn = z.lbn ∧ r.dirty = true) ∧
        d.host.out.getLast? = some (cqeOf h .success) ∧ FrameLog all [A.PAIR_CNT 0, A.SB_ALERTSRC] s.dev d)) ∧
    (s.dev.readsIn n (fun k => k == (n.zoneOf a.slba).1) = false → z.active = false → z.st ≠ zEmpty → z.st ≠ zFull →
      refused (.resetZone h a) .zoneTransition) ∧
    (z.st = zRO →
      Gives (.offlineZone h a) s (fun d =>
        d.zd ix = { z with st := zOff } ∧ (∀ k, k ≠ ix → d.zd k = s.dev.zd k) ∧ Journaled d (.zstate z.nsx ix zOff z.wp) ∧
        d.wr.resv = s.dev.wr.resv.filter (· != ix) ∧
        d.wr.fold = s.dev.wr.fold.flatMap (cutFold z.nsx a.slba (a.slba + zsze z.seven)) ∧ Sent s.dev d [cqeOf h .success] ∧
        FrameHost h.fn all [A.PAIR_CNT 0, A.SB_ALERTSRC] s.dev d)) ∧
    (z.st ≠ zRO → refused (.offlineZone h a) .zoneTransition)) ∧
  (∀ s h a st, Io h s → s.dev.zoneCheck h a.nsid a.slba a.all = .error st →
    ∀ i, i ∈ [Instr.openZone h a, .closeZone h a, .finishZone h a, .resetZone h a, .offlineZone h a] →
      Gives i s (fun d => Sent s.dev d [.cqe { h := h, st := st, dnr := s.dev.dnr st, res0 := 0, res1 := 0 }] ∧
        FrameHost h.fn [.host] [] s.dev d)) ∧
  (∀ s h a n, Io h s → a.all = true → s.dev.zoneCheck h a.nsid a.slba true = .ok n → s.dev.wr.zwait = [] →
    s.dev.readsIn n (fun _ => true) = false →
    ∀ c, c ∈ [(Instr.openZone h a, fun (z : Zd) => decide (z.st = zClosed)), (.closeZone h a, Zd.opened), (.finishZone h a, Zd.active),
        (.resetZone h a, fun z => z.active || decide (z.st = zFull)), (.offlineZone h a, fun z => decide (z.st = zRO))] →
      s.dev.zonesOf n c.2 = [] →
      Gives c.1 s (fun d => Sent s.dev d [cqeOf h .success] ∧ FrameHost h.fn [.host] [] s.dev d)) ∧
  (∀ s h nsid slba k part n, Io h s → s.dev.zoneCheck h nsid slba true = .ok n →
    (slba < n.lbas →
      Gives (.reportZones h nsid slba k part) s (fun d =>
        let l := (s.dev.zonesOf n (fun _ => true)).filter (fun ix => decide (n.base + slba / zsze n.seven ≤ ix))
        Sent s.dev d [.bytes h (leBytes 8 (if part then (l.take k).length else l.length) ++ List.replicate 56 0 ++
          (l.take k).flatMap s.dev.zoneReport), cqeOf h .success] ∧ FrameHost h.fn [.host] [] s.dev d)) ∧
    (n.lbas ≤ slba →
      Gives (.reportZones h nsid slba k part) s (fun d => Sent s.dev d [cqeOf h .lbaRange] ∧ FrameHost h.fn [.host] [] s.dev d)))

/-- R44, R45, R57, R59, R76 to R81, R85, R123, R125, R148, R174, R235: what moves data from the buffer to QLC and Fold, the stripe's
completion, and the expiries of the flush area and of the Timestamp. -/
def Obligations.BufferMoves : Prop :=
  (∀ s nsid zone ix zs e f, Running s → s.dev.zoneIx nsid zone = some (ix, zs) → s.dev.fwFlag = false → s.dev.tor.latch = false →
    s.dev.wr.entries = [e] → s.dev.wr.rels = [] → s.dev.wr.foldJobs = [] → e.acked = true → e.secs ≠ [] →
    e.nsx = (s.dev.zd ix).nsx →
    s.dev.wr.foldRows.find? (fun f => f.burst == false && decide (f.used < foldCap)) = some f → e.secs.length ≤ foldCap - f.used →
    let key := rowKey true f.row.group f.row.lbn
    let g := groupLbas (s.dev.zd ix).seven
    let rows := (e.secs.length + foldStripe - 1) / foldStripe
    zs + (s.dev.zd ix).wp / g * g ≤ e.lba → e.lba + e.secs.length ≤ zs + zcap (s.dev.zd ix).seven →
    Gives (.zoneIdleTimeout nsid zone) s (fun d =>
      d.wr = { s.dev.wr with
        foldJobs := [{ copy := { nsx := e.nsx, lba := e.lba, secs := e.secs, burst := false, lost := false, row := key, unit := f.used / 16
                                 pid := e.pid }, pages := rows }]
        foldRows := s.dev.wr.foldRows.map (fun x => if x = f then { f with used := f.used + rows * foldStripe } else x) } ∧
      Frame [.wr] [] s.dev d)) ∧
  (∀ s nsid zone, Running s → s.dev.zoneIx nsid zone = none ∨ s.dev.fwFlag = true ∨ s.dev.tor.latch = true →
    Gives (.zoneIdleTimeout nsid zone) s (fun d => d = s.dev)) ∧
  (∀ s, Running s →
    Gives .ingressInterval s (fun d =>
      d.wr.ingress = 0 ∧ d.wr.qlc = 0 ∧ d.wr.fold = s.dev.wr.fold ∧ (∃ l, d.wr.foldJobs = s.dev.wr.foldJobs ++ l) ∧
      (4 * s.dev.occ ≤ 3 * s.dev.limit →
        (∃ l, d.wr.foldJobs = s.dev.wr.foldJobs ++ l ∧ ∀ j ∈ l, j.copy.burst = true) ∧
        (s.dev.wr.ingress ≤ s.dev.wr.qlc → d.wr = { s.dev.wr with ingress := 0, qlc := 0 })) ∧
      Frame [.wr, .media, .mules, .pair, .fw, .tor, .pins] [A.PAIR_CNT 0, A.SB_ALERTSRC] s.dev d)) ∧
  (∀ s nsid zone ix zs bad lbas n, Running s → s.dev.nsOf nsid = some n → s.dev.zoneIx nsid zone = some (ix, zs) →
    NoBufferLoss n.nsx lbas s.dev →
    let z := s.dev.zd ix
    let o := s.dev.nextGroup ix z
    let k := groupLbas z.seven
    let below := if z.st = zFull then topEnd z.fp (s.dev.ackedRuns z.nsx zs (zsze z.seven)) else z.wp
    let starts := o + k ≤ below ∧ s.dev.media.relocs.any (fun r => !r.conv && r.zone == ix) = false ∧
      s.dev.fwFlag = false ∧ s.dev.tor.latch = false ∧ s.dev.ownsGroup z.seven z.group = true
    (∀ secs, starts → s.dev.gather z.nsx (zs + o) k = some secs →
      let issued := fun (d : Dev) =>
        d.wr.groups = s.dev.wr.groups ++
          [{ ix := ix, start := o, left := members z.seven, failed := false, secs := secs, row := rowKey z.seven z.group z.lbn }] ∧
        d.wr.qlc = s.dev.wr.qlc + k * 4096 ∧ d.wr.entries = s.dev.wr.entries
      Gives (.programGroupIssue nsid zone lbas) s (fun d => issued d ∧ Frame (.wr :: lossParts lbas) (lossRegs lbas) s.dev d) ∧
      (NoBufferLoss z.nsx (bad.map (fun b => zs + b.1)) s.dev → bad.any (fun b => decide (b.2 = ReadErr.stripe)) = false →
        s.dev.fw.role ≠ .solo ∨ s.dev.burstFull = true ∨ s.dev.wr.ingress ≤ s.dev.wr.qlc →
        Gives (.folding nsid zone bad) s (fun d =>
          issued d ∧ d.wr.foldRead = s.dev.wr.foldRead + s.dev.foldBytes z.nsx (zs + o) k ∧
          Frame (.wr :: lossParts (bad.map (·.1))) (lossRegs (bad.map (·.1))) s.dev d))) ∧
    (¬ starts → Gives (.programGroupIssue nsid zone lbas) s (fun d => Frame (lossParts lbas) (lossRegs lbas) s.dev d)) ∧
    (s.dev.tor.latch = true ∨ (bad.any (fun b => decide (b.2 = ReadErr.stripe)) = false ∧ s.dev.fw.role = .solo ∧
      s.dev.burstFull = false ∧ s.dev.wr.qlc < s.dev.wr.ingress) → Gives (.folding nsid zone bad) s (fun d => d = s.dev)) ∧
    (∀ b f, b ∈ bad → b.2 = ReadErr.stripe → b.1 < zsze n.seven → f ∈ s.dev.wr.fold → f.nsx = n.nsx → f.lba ≤ zs + b.1 →
      zs + b.1 < f.lba + f.secs.length → z.active = true ∨ z.st = zFull → s.dev.tor.latch = false →
      Gives (.folding nsid zone bad) s (fun d =>
        (d.zd ix).st = zRO ∧ (d.zd ix).colok = false ∧ (d.zd ix).wp = z.wp ∧ (z.nsx, ix) ∈ d.media.changed ∧
        (∀ g ∈ d.wr.groups, g.ix ≠ ix) ∧
        Frame [.wr, .media, .mules, .pair, .host, .fw, .tor, .pins] [A.PAIR_CNT 0, A.SB_ALERTSRC] s.dev d))) ∧
  (∀ s nsid zone n a, Running s → s.dev.nsOf nsid = some n → s.dev.fw.role ≠ .duo → s.dev.inBuffer n.nsx a = true →
    Gives (.programGroupIssue nsid zone [a]) s (fun d => BufferPoisoned n.nsx a s.dev d)) ∧
  (∀ s nsid zone n lbas, Running s → s.dev.nsOf nsid = some n → n.zoned = false → NoBufferLoss n.nsx lbas s.dev →
    s.dev.wr.groups.any (fun g => g.ix == 2 ^ 20 + n.nsx) = false → s.dev.fwFlag = false → s.dev.tor.latch = false →
    (∀ k p, (s.dev.handles n.nsx).find? (fun h => decide (896 ≤ (s.dev.convSecs n.nsx h).length)) = some k →
      SMap.find s.dev.media.curUnit (handleKey n.nsx k) = some p → p % 2 ^ 18 + 896 ≤ 229376 →
      Gives (.programGroupIssue nsid zone lbas) s (fun d =>
        d.wr.groups = s.dev.wr.groups ++
          [{ ix := 2 ^ 20 + n.nsx, start := p, left := 16, failed := false, secs := (s.dev.convSecs n.nsx k).take 896,
             row := (SMap.find s.dev.media.urow (unitKey n.nsx (p / 2 ^ 18))).getD 0 }] ∧
        SMap.find d.media.curUnit (handleKey n.nsx k) = some (p + 896) ∧ d.wr.entries = s.dev.wr.entries ∧
        Frame ([.wr, .media] ++ lossParts lbas) (lossRegs lbas) s.dev d)) ∧
    ((s.dev.handles n.nsx).find? (fun h => decide (896 ≤ (s.dev.convSecs n.nsx h).length)) = none →
      Gives (.programGroupIssue nsid zone lbas) s (fun d => Frame (lossParts lbas) (lossRegs lbas) s.dev d))) ∧
  (∀ s nsid zone n ix zs g, Running s → s.dev.nsOf nsid = some n → n.zoned = true → s.dev.zoneIx nsid zone = some (ix, zs) →
    s.dev.wr.groups.find? (fun g => g.ix == ix) = some g →
    let z := s.dev.zd ix
    let k := groupLbas z.seven
    (g.failed = true ∨ g.left ≠ 0 ∨ g.start ≠ z.fp → Gives (.stripeCompletion nsid zone) s (fun d => d = s.dev)) ∧
    (g.failed = false → g.left = 0 → g.start = z.fp → g.start + k ≤ zcap z.seven → s.dev.wr.waiting = [] → s.dev.wr.flushes = [] →
      let common := fun (d : Dev) =>
        d.zd ix = { z with fp := g.start + k } ∧ (∀ j, j ≠ ix → d.zd j = s.dev.zd j) ∧
        d.wr.groups = s.dev.wr.groups.filter (fun x => x != g) ∧
        (JournalOk s.dev → ∃ r ∈ d.media.journal, r.body = .stripe z.nsx ix (g.start / k) z.wp) ∧
        d.media.flash = g.secs.foldl (fun m p => SMap.put m (s.dev.zoneKey z.seven z.group z.lbn (p.1 - zs)) p.2) s.dev.media.flash ∧
        d.wr.fold = s.dev.wr.fold.flatMap (cutFold z.nsx (zs + g.start) (zs + g.start + k))
      (s.dev.tees = false →
        Gives (.stripeCompletion nsid zone) s (fun d =>
          common d ∧ d.wr.entries = s.dev.wr.entries.flatMap (cutEntry z.nsx (zs + g.start) (zs + g.start + k)) ∧
          Frame [.wr, .media, .mules, .fw, .tor, .pins] [A.SB_ALERTSRC] s.dev d)) ∧
      (s.dev.tees = true → s.dev.linkUp = true →
        Gives (.stripeCompletion nsid zone) s (fun d =>
          common d ∧ d.wr.entries = s.dev.wr.entries ∧
          (∃ r, d.wr.rels = s.dev.wr.rels ++ [r] ∧ r.nsx = z.nsx ∧ r.lo = zs + g.start ∧ r.hi = zs + g.start + k ∧
            s.dev.pair.txSeq < r.fseq) ∧
          Frame [.wr, .media, .mules, .pair, .fw, .tor, .pins] [A.PAIR_CNT 0, A.SB_ALERTSRC] s.dev d)))) ∧
  (∀ s nsid zone n g, Running s → s.dev.nsOf nsid = some n → n.zoned = false → s.dev.tees = false →
    s.dev.wr.groups.find? (fun g => g.ix == 2 ^ 20 + n.nsx) = some g → g.failed = false → g.left = 0 → s.dev.wr.waiting = [] →
    s.dev.wr.flushes = [] → MapGood n s.dev → (g.secs.map Prod.fst).Nodup →
    Gives (.stripeCompletion nsid zone) s (fun d =>
      d.wr.groups = s.dev.wr.groups.filter (fun x => x != g) ∧
      (JournalOk s.dev → ∃ r ∈ d.media.journal, r.body = .stripe n.nsx (g.start / 2 ^ 18) (g.start % 2 ^ 18 / 896) 0) ∧
      (∀ i p, g.secs[i]? = some p → s.dev.buffered n.nsx p.1 = some p.2 →
        SMap.find d.media.conv (convKey n.nsx p.1) = some { unit := (g.start + i) / 2 ^ 18, sec := p.2, ofs := (g.start + i) % 2 ^ 18 }) ∧
      Frame [.wr, .media, .mules, .fw, .tor, .pins] [A.SB_ALERTSRC] s.dev d)) ∧
  (∀ s, Running s → s.dev.tor.latch = false → s.dev.fw.replayed = true →
    Gives .flushAreaDwellExpiry s (fun d =>
      d.wr.flushArea = s.dev.wr.flushArea ∧
      (∀ r ∈ s.dev.wr.flushRows, ∃ x ∈ d.media.eraseQ, x.group = r.group ∧ x.lbn = r.lbn ∧ x.inSlc = true) ∧
      (∀ r ∈ d.wr.flushRows, r.stale = false) ∧
      (∀ o, o < 8 → s.dev.ownsGroup true o = true → Journaled d (.ckpt 3 0 0x3000000 s.dev.media.jseq)) ∧
      Frame [.wr, .media, .pair] [A.PAIR_CNT 0] s.dev d)) ∧
  (∀ s, Running s → s.dev.tor.latch = true ∨ s.dev.fw.replayed = false → Gives .flushAreaDwellExpiry s (fun d => d = s.dev)) ∧
  (∀ s, Running s → s.dev.host.tsSet = true → Gives .timestampWindowExpiry s (fun d => d = s.dev)) ∧
  (∀ s, Running s → s.dev.host.tsSet = false →
    Gives .timestampWindowExpiry s (fun d =>
      (∀ k i, SMap.find s.dev.media.rows k = some i → i.old = true → i.cls ≠ 15 → SMap.find d.media.rows k =
        some { i with unknown := true, swept := false, inPass := false, cls := Nat.max 8 (modelClass s.dev.retTable i) }) ∧
      (∀ k i, SMap.find s.dev.media.rows k = some i → i.old = false → SMap.find d.media.rows k =
        some { i with cls := rowClass s.dev.retTable i }) ∧
      Frame [.media, .mules] [] s.dev d))

/-- R55, R69 to R74, R86, R87: the buffer ceiling and its measurement, and what happens to writes that have waited or been held
too long. -/
def Obligations.BufferCeiling : Prop :=
  (∀ s mv, Running s → s.dev.wr.measuring = 0 ∨ s.dev.wr.measuring = 3 →
    let mib := s.dev.ceilAt (if s.dev.wr.measuring = 0 then mv else mv - 500)
    Gives (.bufferCeilingRecompute mv) s (fun d =>
      d.wr.vMv = mv ∧ d.wr.bceil = mib ∧ d.host.crit.getLsbD 4 = decide (mib = 0) ∧
      (s.dev.linkUp = true → mib ≠ s.dev.wr.bceil → .bceil mib ∈ d.pair.out) ∧
      FrameLog [.wr, .host, .media, .mules, .pair, .pens, .pins] teeRegs s.dev d)) ∧
  (∀ s mv, Running s → s.dev.wr.measuring ≠ 0 → s.dev.wr.measuring ≠ 3 →
    Gives (.bufferCeilingRecompute mv) s (fun d => d.wr = { s.dev.wr with vMv := mv } ∧ Frame [.wr] [] s.dev d)) ∧
  (∀ s, Running s →
    Gives .holdupMeasurementStart s (fun d =>
      d.wr.bceil = s.dev.ceilAt (s.dev.wr.vMv - 500) ∧
      ((d.wr.measuring = 1 ∧ d.wr.v0Mv = s.dev.wr.vMv ∧ d.pins.testGpio = true) ∨
        (d.wr.measuring = 4 ∧ d.limit < d.occ ∧ d.pins.testGpio = s.dev.pins.testGpio)) ∧
      (s.dev.wr.entries = [] → s.dev.wr.waiting = [] → d.wr.measuring = 1) ∧
      FrameLog [.wr, .host, .media, .mules, .pair, .pens, .pins] teeRegs s.dev d)) ∧
  (∀ s mv us, Running s → s.dev.wr.measuring = 1 →
    let fall := s.dev.wr.v0Mv - mv
    (fall < 500 → us < 500000 → Gives (.holdupSample mv us) s (fun d => d = s.dev)) ∧
    (500 ≤ fall ∨ (0 < fall ∧ 500000 ≤ us) →
      Gives (.holdupSample mv us) s (fun d =>
        d.wr = { s.dev.wr with measuring := 2, cUf := some (s.dev.board.iTestMa * us / fall) } ∧ d.pins.testGpio = false ∧
        Recorded s.dev d 0x0200 (Config.evCode 2) 0 (s.dev.board.iTestMa * us / fall) ∧ Frame [.wr, .pins, .cairn] [] s.dev d))) ∧
  (∀ s mv, Running s → s.dev.wr.measuring = 2 →
    Gives (.holdupRechargeComplete mv) s (fun d =>
      d.wr.measuring = 0 ∧ d.wr.vMv = mv ∧ d.wr.bceil = s.dev.ceilAt mv ∧ d.host.crit.getLsbD 4 = decide (s.dev.ceilAt mv = 0) ∧
      (s.dev.fw.mode ≠ .init → ∀ f ∈ s.dev.host.en, s.dev.penOf f ≠ none → s.dev.pens.fnDrain = [] → f ∈ d.host.rdy) ∧
      FrameLog [.wr, .host, .media, .mules, .pair, .pens, .pins, .cirque, .fw] teeRegs s.dev d)) ∧
  (∀ s w r, Posting s → s.dev.wr.bceil = 0 → s.dev.wr.waiting = w :: r →
    Gives .writeHoldTimeout s (fun d =>
      d.wr = { s.dev.wr with waiting := r } ∧ Sent s.dev d [cqeOf w.h .nsNotReady] ∧ FrameHost w.h.fn [.wr, .host] [] s.dev d)) ∧
  (∀ s, Running s → s.dev.wr.bceil ≠ 0 ∨ s.dev.wr.waiting = [] → Gives .writeHoldTimeout s (fun d => d = s.dev)) ∧
  (∀ s id e, Posting s → s.dev.wr.entries.find? (fun e => e.id == id) = some e → e.held = true → e.acked = false →
    e.zoned = false →
    Gives (.temperatureHoldExpiry id) s (fun d =>
      d.wr = { s.dev.wr with entries := s.dev.wr.entries.filter (fun x => !(x.id == e.id)) } ∧ Sent s.dev d [cqeOf e.h .tempHold] ∧
      d.host.errCount = s.dev.host.errCount + 1 ∧ FrameHost e.h.fn [.wr, .host] [] s.dev d)) ∧
  (∀ s e x, Posting s → s.dev.wr.entries = [e, x] → e.held = true → e.acked = false → e.zoned = true → x.zoned = true →
    x.acked = false → x.nsx = e.nsx → x.zone = e.zone → e.id < x.id → x.app = false →
    s.dev.media.nss.any (fun n => n.nsx == e.nsx) = true →
    Gives (.temperatureHoldExpiry e.id) s (fun d =>
      d.wr = { s.dev.wr with entries := [] } ∧ Sent s.dev d [cqeOf e.h .tempHold, cqeOf x.h .zoneInvalidWrite] ∧
      FrameLog [.wr, .host] [] s.dev d)) ∧
  (∀ s, Posting s → s.dev.fwFlag = true → s.dev.writable = true → (∃ w, w ∈ s.dev.wr.waiting ∧ w.space = true) →
    Gives .readonlyTemperatureTimeout s (fun d =>
      d.fw.mode = .readonly ∧ d.fw.role = s.dev.fw.role ∧ d.fw.readonlyTemp = true ∧ d.wr = { s.dev.wr with waiting := [] } ∧
      Sent s.dev d (s.dev.wr.waiting.map (fun w => cqeOf w.h .tempHold)) ∧
      FrameLog [.wr, .fw, .host, .tor, .pins] [A.SB_ALERTSRC] s.dev d)) ∧
  (∀ s, Running s → s.dev.fwFlag = false ∨ s.dev.writable = false ∨ (∀ w, w ∈ s.dev.wr.waiting → w.space = false) →
    Gives .readonlyTemperatureTimeout s (fun d => d = s.dev))

/-! Queues, functions and the admin set (R26, R27, R95, R96, R107, R108, R179, R186, R195, R256 to R258, R269 to R274, R301). -/

/-- R26, R27, R95, R96, R179, R186, R195, R256, R257, R301, R326: queues, Abort, event requests, CC.EN, resets of a function, the
Controller Memory Buffer, WINPAGE. -/
def Obligations.HostQueues : Prop :=
  (∀ s h a p i, Posting s → s.dev.penOf h.fn.val = some p → s.dev.sqCheck h.fn.val p a = none → s.dev.freeQ = some i →
    Gives (.createIoSubmissionQueue h a) s (fun d =>
      (∀ q ∈ s.dev.host.sqs, q.sqid ≠ 0 → q.q ≠ i) ∧
      (∃ x, d.host.sqs = s.dev.host.sqs ++ [x] ∧ x.fn = h.fn.val ∧ x.sqid = a.sqid ∧ x.cqid = a.cqid ∧ x.q = i ∧ x.size = a.size ∧
        x.inCmb = a.inCmb ∧ x.base = a.base ∧ x.cls = a.cls.val ∧ x.head = 0 ∧ x.tail = 0 ∧ x.halted = false) ∧
      d.rd (A.COL_SQ i) = BitVec.ofNat 64 ((if a.col && a.inCmb then 1 else 0) + a.cls.val * 2 + p * 8) ∧
      Sent s.dev d [cqeOf h .success] ∧ FrameHost h.fn [.host] [A.COL_SQ i] s.dev d)) ∧
  (∀ s h a p st, Posting s → s.dev.penOf h.fn.val = some p →
    (a.sqid = 0 ∧ st = Status.invalidQueue) ∨
    (a.sqid ≠ 0 ∧ a.sqid ≤ s.dev.qidMax h.fn.val ∧ s.dev.host.sqs.any (fun q => q.fn == h.fn.val && q.sqid == a.sqid) = false ∧
      2 ≤ a.size ∧ a.size ≤ 65536 ∧ a.inCmb = false ∧
      s.dev.host.cqs.any (fun q => q.fn == h.fn.val && q.cqid == a.cqid && q.cqid != 0) = true ∧ s.dev.ioq p ≤ s.dev.sqsOf p ∧
      st = .penLimit) →
    Gives (.createIoSubmissionQueue h a) s (fun d =>
      Sent s.dev d [.cqe { h := h, st := st, dnr := s.dev.dnr st, res0 := 0, res1 := 0 }] ∧ FrameHost h.fn [.host] [] s.dev d)) ∧
  (∀ s h a p, Posting s → s.dev.penOf h.fn.val = some p → a.cqid ≠ 0 → a.cqid ≤ s.dev.qidMax h.fn.val →
    s.dev.host.cqs.any (fun q => q.fn == h.fn.val && q.cqid == a.cqid) = false → 2 ≤ a.size → a.size ≤ 65536 → a.inCmb = false →
    a.vector < 16 →
    (s.dev.cqsOf p < s.dev.ioq p →
      Gives (.createIoCompletionQueue h a) s (fun d =>
        (∃ x ∈ d.host.cqs, x.fn = h.fn.val ∧ x.cqid = a.cqid ∧ x.size = a.size ∧ x.vector = a.vector ∧ x.base = a.base) ∧
        d.host.cqs.length = s.dev.host.cqs.length + 1 ∧ Sent s.dev d [cqeOf h .success] ∧
        FrameHost h.fn [.host] [] s.dev d)) ∧
    (s.dev.ioq p ≤ s.dev.cqsOf p →
      Gives (.createIoCompletionQueue h a) s (fun d =>
        Sent s.dev d [.cqe { h := h, st := .penLimit, dnr := true, res0 := 0, res1 := 0 }] ∧ FrameHost h.fn [.host] [] s.dev d))) ∧
  (∀ s h sqid q, Posting s → s.dev.host.sqs.find? (fun q => q.fn == h.fn.val && q.sqid == sqid && q.sqid != 0) = some q →
    Gives (.deleteIoSubmissionQueue h sqid) s (fun d =>
      d.host.sqs = s.dev.host.sqs.filter (fun x => x != q) ∧ d.rd (A.COL_SQ q.q) = regReset (A.COL_SQ q.q) ∧
      d.pens.wait = s.dev.pens.wait.filter (fun c => !(c.h.fn == h.fn && c.h.qid == sqid)) ∧
      Sent s.dev d ((s.dev.pens.wait.filter (fun c => c.h.fn == h.fn && c.h.qid == sqid)).map (fun c => cqeOf c.h .aborted) ++
        [cqeOf h .success]) ∧
      FrameHost h.fn [.host, .pens] [A.COL_SQ q.q] s.dev d)) ∧
  (∀ s h cqid q, Posting s → s.dev.host.cqs.find? (fun q => q.fn == h.fn.val && q.cqid == cqid && q.cqid != 0) = some q →
    (s.dev.host.sqs.any (fun x => x.fn == h.fn.val && x.cqid == cqid && x.sqid != 0) = false →
      Gives (.deleteIoCompletionQueue h cqid) s (fun d =>
        d.host.cqs.length = (s.dev.host.cqs.filter (fun x => x != q)).length ∧ Sent s.dev d [cqeOf h .success] ∧
        FrameHost h.fn [.host] [] s.dev d)) ∧
    (s.dev.host.sqs.any (fun x => x.fn == h.fn.val && x.cqid == cqid && x.sqid != 0) = true →
      Gives (.deleteIoCompletionQueue h cqid) s (fun d => Sent s.dev d [cqeOf h .invalidDeletion] ∧ FrameHost h.fn [.host] [] s.dev d))) ∧
  (∀ s h sqid cid, Posting s → s.dev.pens.wait.find? (fun c => c.h.fn == h.fn && c.h.qid == sqid && c.h.cid == cid) = none →
    Gives (.abort h sqid cid) s (fun d =>
      Sent s.dev d [.cqe { h := h, st := .success, dnr := false, res0 := 1, res1 := 0 }] ∧ FrameHost h.fn [.host] [] s.dev d)) ∧
  (∀ s h sqid cid c, Posting s → s.dev.pens.wait.find? (fun c => c.h.fn == h.fn && c.h.qid == sqid && c.h.cid == cid) = some c →
    Gives (.abort h sqid cid) s (fun d =>
      d.pens.wait = s.dev.pens.wait.filter (fun x => x.seq != c.seq) ∧ Sent s.dev d [cqeOf c.h .aborted, cqeOf h .success] ∧
      FrameHost h.fn [.host, .pens] [] s.dev d)) ∧
  (∀ s h, Posting s →
    (16 ≤ (s.dev.host.aers.filter (fun x => x.fn == h.fn)).length →
      Gives (.asynchronousEventRequest h) s (fun d => Sent s.dev d [cqeOf h .aerLimit] ∧ FrameHost h.fn [.host] [] s.dev d)) ∧
    ((s.dev.host.aers.filter (fun x => x.fn == h.fn)).length < 16 → s.dev.host.aenPend.find? (fun x => x.1 == h.fn.val) = none →
      Gives (.asynchronousEventRequest h) s (fun d =>
        d.host = { s.dev.host with aers := s.dev.host.aers ++ [h] } ∧ Frame [.host] [] s.dev d)) ∧
    (∀ f t i l, (s.dev.host.aers.filter (fun x => x.fn == h.fn)).length < 16 →
      s.dev.host.aenPend.find? (fun x => x.1 == h.fn.val) = some (f, t, i, l) →
      Gives (.asynchronousEventRequest h) s (fun d =>
        d.host.aenPend = s.dev.host.aenPend.erase (f, t, i, l) ∧
        Sent s.dev d [.aen t i l, .cqe { h := h, st := .success, dnr := false, res0 := t + i * 256 + l * 65536, res1 := 0 }] ∧
        FrameHost h.fn [.host] [] s.dev d))) ∧
  (∀ s (fn : FnN) en, Running s → s.dev.penOf fn.val = none → Gives (.ccEnWrite fn en) s (fun d => d = s.dev)) ∧
  (∀ s (fn : FnN), Running s → s.dev.penOf fn.val ≠ none → s.dev.pens.fnDrain = [] → s.dev.fnReady fn.val = true →
    fn.val ∉ s.dev.host.rdy →
    Gives (.ccEnWrite fn true) s (fun d =>
      fn.val ∈ d.host.en ∧ fn.val ∈ d.host.rdy ∧ adminSq fn.val (adminSize (s.dev.nvmeField fn.val 0x24 2)) (s.dev.nvmeField fn.val 0x28 8) ∈ d.host.sqs ∧
      adminCq fn.val (adminSize (s.dev.nvmeField fn.val 0x26 2)) (s.dev.nvmeField fn.val 0x30 8) ∈ d.host.cqs ∧
      d.fw.confirmed = true ∧ Frame [.host, .cirque, .fw] [] s.dev d)) ∧
  (∀ s (fn : FnN), Running s → s.dev.penOf fn.val ≠ none →
    Gives (.ccEnWrite fn false) s (fun d =>
      fn.val ∉ d.host.en ∧ fn.val ∉ d.host.rdy ∧ (∀ q ∈ d.host.sqs, q.fn ≠ fn.val) ∧ (∀ q ∈ d.host.cqs, q.fn ≠ fn.val) ∧
      (∀ c ∈ d.pens.wait, c.h.fn ≠ fn) ∧ Frame [.host, .pens] [] s.dev d)) ∧
  (∀ s (fn : FnN), Running s → s.dev.isPf fn.val = true ∨ (s.dev.fnBusy fn.val = false ∧ s.dev.wr.entries = []) →
    Gives (.functionLevelReset fn) s (fun d =>
      fn.val ∉ d.host.en ∧ fn.val ∉ d.host.rdy ∧ (∀ q ∈ d.host.sqs, q.fn ≠ fn.val) ∧ (∀ q ∈ d.host.cqs, q.fn ≠ fn.val) ∧
      Frame [.host, .pens] [] s.dev d)) ∧
  (∀ s (fn : FnN), Running s → s.dev.isPf fn.val = false → s.dev.fnBusy fn.val = true →
    s.dev.wr.entries.any (fun e => e.h.fn.val == fn.val && e.held && !e.acked) = false →
    Gives (.functionLevelReset fn) s (fun d =>
      fn.val ∉ d.host.rdy ∧ d.host.sqs = s.dev.host.sqs ∧ (fn.val, false) ∈ d.pens.fnDrain ∧ (∀ c ∈ d.pens.wait, c.h.fn ≠ fn) ∧
      Frame [.host, .pens] [] s.dev d)) ∧
  (∀ s, Running s →
    Gives .pcieHotReset s (fun d =>
      d.host.en = [] ∧ d.host.rdy = [] ∧ d.host.sqs = [] ∧ d.host.cqs = [] ∧ Frame [.host, .pens] [] s.dev d)) ∧
  (∀ s (fn : FnN) off (b : Byte) hit, Running s → off < (if s.dev.isPf fn.val then 0x2000000 else 0x200000) →
    let base := if s.dev.isPf fn.val then 0 else match s.dev.penOf fn.val with | some p => s.dev.cmbOff p | none => 0
    let size := if s.dev.isPf fn.val then 0x2000000 else match s.dev.penOf fn.val with | some p => s.dev.cmbSize p | none => 0
    let a := 0x40000000 + base + off
    (off < size → s.dev.accessErr (.host fn) a true hit = none →
      Gives (.cmbHostAccess fn off (some b) hit) s (fun d =>
        d.byte a = b ∧ FrameMem [.host] [] a (a + 1) s.dev d)) ∧
    (off < size → s.dev.accessErr (.host fn) a false hit = none →
      Gives (.cmbHostAccess fn off none hit) s (fun d =>
        d.host.rdval = BitVec.ofNat 64 (s.dev.byte a).toNat ∧ Frame [.host] [] s.dev d)) ∧
    (∀ e, off < size → s.dev.accessErr (.host fn) a false hit = some e →
      Gives (.cmbHostAccess fn off none hit) s (fun d => d.host.ca = true ∧ d.host.rdval = s.dev.host.rdval)) ∧
    (size ≤ off →
      (∀ p, s.dev.penOf fn.val = some p → s.dev.cairnOn = true → s.dev.cairn.fifo.length < 64 → ∀ wr,
        Gives (.cmbHostAccess fn off wr hit) s (fun d =>
          ∃ x, d.cairn.fifo = s.dev.cairn.fifo ++ [x] ∧ x.logs = [unitLog (0x0D00 + fn.val), penLog p])) ∧
      Gives (.cmbHostAccess fn off (some b) hit) s (fun d => Frame [.cairn] [A.CAIRN_HWDROP] s.dev d) ∧
      Gives (.cmbHostAccess fn off none hit) s (fun d => d.host.rdval = 0 ∧ Frame [.host, .cairn] [A.CAIRN_HWDROP] s.dev d))) ∧
  (∀ s (fn : FnN) v, Running s →
    (s.dev.isPf fn.val = true → logExists (v.toNat % 65536) = true →
      Gives (.winpageWrite fn v) s (fun d => d.host = { s.dev.host with winpage := v &&& 0x1FFFFF } ∧ Frame [.host] [] s.dev d)) ∧
    (s.dev.isPf fn.val = false ∨ logExists (v.toNat % 65536) = false →
      Gives (.winpageWrite fn v) s (fun d => d = s.dev)))

/-- R51, R53, R107, R108, R256 to R258, R269 to R274, R334: Identify, log pages, features, and what R256 does not list. -/
def Obligations.AdminData : Prop :=
  (∀ s h (cns : Byte) nsid b, Posting s → s.dev.idData h.fn.val cns.toNat nsid = .ok b →
    Gives (.identify h cns nsid) s (fun d =>
      Sent s.dev d [.bytes h b, cqeOf h .success] ∧ d.free = s.dev.free + 1 ∧ FrameHost h.fn [.host, .free] [] s.dev d)) ∧
  (∀ s h (cns : Byte) nsid st, Posting s → s.dev.idData h.fn.val cns.toNat nsid = .error st →
    Gives (.identify h cns nsid) s (fun d =>
      Sent s.dev d [.cqe { h := h, st := st, dnr := s.dev.dnr st, res0 := 0, res1 := 0 }] ∧ FrameHost h.fn [.host] [] s.dev d)) ∧
  (∀ s h nsid, Posting s →
    Gives (.identify h 1 nsid) s (fun d => ∃ b, Sent s.dev d [.bytes h b, cqeOf h .success] ∧ b.length = 4096 ∧
      (b.drop 3072).take 38 = s.dev.vendorArea ∧ b.take 2 = [0x5D, 0x1C])) ∧
  (∀ s h (lid : Byte) nsid lsi clear rae off len b, Posting s → s.dev.logPage h.fn.val lid.toNat nsid lsi len = .ok b → off ≤ b.length →
    Gives (.getLogPage h lid nsid lsi clear rae off len) s (fun d =>
      Sent s.dev d [.bytes h ((b.drop off).take len), cqeOf h .success] ∧
      (lid = 0xC2 → clear = true → d.host.c2 = [] ∧ d.host.clearedC2 = s.dev.ns ∧ ∀ o, o ≠ 168 → o ≠ 192 → d.c2Val o = 0) ∧
      (lid = 0xC4 → clear = true → ∀ x ps, s.dev.c4Pens h.fn.val lsi = some (x, ps) →
        ∀ p k, p ∈ ps → k < 1024 → SMap.find d.host.hist (p * 1024 + k) = none) ∧
      (lid = 4 → rae = false → d.host.changedNs = []) ∧
      (lid = 0xBF → rae = false → d.media.changed = s.dev.media.changed.filter (fun c => c.1 + 1 != nsid)) ∧
      FrameHost h.fn [.host, .free, .cairn, .media] [] s.dev d)) ∧
  (∀ s h (lid : Byte) nsid lsi clear rae off len st, Posting s → s.dev.logPage h.fn.val lid.toNat nsid lsi len = .error st →
    Gives (.getLogPage h lid nsid lsi clear rae off len) s (fun d =>
      Sent s.dev d [.cqe { h := h, st := st, dnr := s.dev.dnr st, res0 := 0, res1 := 0 }] ∧ FrameHost h.fn [.host] [] s.dev d)) ∧
  (∀ s h (fid : Byte) v, Posting s → featOk fid.toNat = false →
    Gives (.setFeatures h fid v) s (fun d => Sent s.dev d [cqeOf h .invalidField] ∧ FrameHost h.fn [.host] [] s.dev d) ∧
    Gives (.getFeatures h fid) s (fun d => Sent s.dev d [cqeOf h .invalidField] ∧ FrameHost h.fn [.host] [] s.dev d)) ∧
  (∀ s h (v : W64), Posting s →
    let ps := v.toNat % 32
    (ps ≤ 1 →
      Gives (.setFeatures h 2 v) s (fun d =>
        d.tor = { s.dev.tor with ps := ps } ∧ (∀ ch, ch < 64 → d.fld (A.MULE_PE_CAP ch) 5 0 = if ps = 1 then 16 else 28) ∧
        Sent s.dev d [cqeOf h .success] ∧ FrameHost h.fn [.host, .tor] ((List.range 64).map A.MULE_PE_CAP) s.dev d)) ∧
    (2 ≤ ps → ps ≤ 4 → s.dev.maySleep = true →
      Gives (.setFeatures h 2 v) s (fun d =>
        d.tor = { s.dev.tor with ps := ps } ∧ Sent s.dev d [cqeOf h .success] ∧ FrameHost h.fn [.host, .tor] [] s.dev d)) ∧
    (2 ≤ ps → ps ≤ 4 → s.dev.maySleep = false →
      Gives (.setFeatures h 2 v) s (fun d =>
        Sent s.dev d [.cqe { h := h, st := .modeRefused, dnr := s.dev.dnr .modeRefused, res0 := 0, res1 := 0 }] ∧
        FrameHost h.fn [.host] [] s.dev d)) ∧
    (4 < ps → Gives (.setFeatures h 2 v) s (fun d => Sent s.dev d [cqeOf h .invalidField] ∧ FrameHost h.fn [.host] [] s.dev d)) ∧
    Gives (.setFeatures h 7 v) s (fun d =>
      Sent s.dev d [.cqe { h := h, st := .success, dnr := false, res0 := s.dev.queueCount h.fn.val, res1 := 0 }] ∧
      FrameHost h.fn [.host] [] s.dev d) ∧
    Gives (.setFeatures h 0x0E v) s (fun d =>
      d.media.wall = v.toNat % 2 ^ 48 ∧ d.host.tsSet = true ∧ Sent s.dev d [cqeOf h .success] ∧
      FrameHost h.fn [.host, .media, .mules] [] s.dev d) ∧
    Gives (.setFeatures h 4 v) s (fun d =>
      SMap.get (fun _ => 0) d.host.feats (featKey h.fn.val 4 (tempSel v.toNat)) = BitVec.ofNat 64 (v.toNat % 2 ^ 32 + 2 ^ 32) ∧
      Sent s.dev d [cqeOf h .success] ∧ FrameHost h.fn [.host] [] s.dev d) ∧
    (v.toNat / 65536 % 2 = 1 →
      Gives (.setFeatures h 5 v) s (fun d => Sent s.dev d [cqeOf h .invalidField] ∧ FrameHost h.fn [.host] [] s.dev d)) ∧
    (∀ fid : Byte, fid.toNat ∈ [1, 8, 9, 0x0A, 0x0B, 0x0C, 0x11, 0x1D] →
      Gives (.setFeatures h fid v) s (fun d =>
        SMap.get (fun _ => 0) d.host.feats (featKey h.fn.val fid.toNat 0) = v ∧ Sent s.dev d [cqeOf h .success] ∧
        FrameHost h.fn [.host] [] s.dev d))) ∧
  (∀ s h, Posting s →
    Gives (.getFeatures h 2) s (fun d =>
      Sent s.dev d [.cqe { h := h, st := .success, dnr := false, res0 := s.dev.tor.ps, res1 := 0 }] ∧ FrameHost h.fn [.host] [] s.dev d) ∧
    Gives (.getFeatures h 0x0E) s (fun d =>
      Sent s.dev d [.bytes h (leBytes 6 s.dev.media.wall ++ [(if s.dev.host.tsSet then 2 else 0), 0]), cqeOf h .success] ∧
      FrameHost h.fn [.host] [] s.dev d) ∧
    (∀ fid : Byte, fid.toNat ∈ [1, 4, 5, 8, 9, 0x0A, 0x0B, 0x0C, 0x11, 0x1D] →
      Gives (.getFeatures h fid) s (fun d =>
        (∃ r, Sent s.dev d [.cqe { h := h, st := .success, dnr := false, res0 := r, res1 := 0 }] ∧
          r = (SMap.get (fun _ => 0) s.dev.host.feats (featKey h.fn.val fid.toNat 0)).toNat % 2 ^ 32) ∧
        FrameHost h.fn [.host] [] s.dev d))) ∧
  (∀ s h, Posting s →
    ∀ c, c ∈ [(Unsup.opcode, Status.invalidOpcode), (.field, .invalidField), (.logPage, .invalidLogPage)] →
      Gives (.unsupportedCommand h c.1) s (fun d => Sent s.dev d [cqeOf h c.2] ∧ FrameHost h.fn [.host] [] s.dev d))

/-- R3, R40, R53, R57, R58, R180, R206, R212, R231, R256: namespaces created, deleted and attached, Format NVM, Sanitize,
directives. -/
def Obligations.NamespaceAdmin : Prop :=
  (∀ s h a home x slot b, Posting s → s.dev.isPf h.fn.val = true → s.dev.nsBad a = false → s.dev.chooseHome a.anagrp = some home →
    s.dev.fw.role ≠ .duo ∨ home = s.dev.board.pairId → s.dev.nsRoom a home = .ok (x, slot, b) →
    Gives (.namespaceCreate h a) s (fun d =>
      d.media.nss = s.dev.media.nss ++ [nsOfArg a home x slot b] ∧
      (a.zoned = true → ∀ i, i < a.nzones → (d.zd (b + i)).st = zEmpty ∧ (d.zd (b + i)).nsx = x ∧ (d.zd (b + i)).pen = a.pen.val ∧
        (d.zd (b + i)).wp = 0 ∧ (d.zd (b + i)).fp = 0) ∧
      (a.keyed = true → s.dev.cipherAlarmed = false →
        SMap.get slotEmpty d.cipher.slots slot = .key (freshKey s.dev.free) (nsAttr a.pen.val x)) ∧
      (a.keyed = false → s.dev.board.code.val ≠ 2 → SMap.get slotEmpty d.cipher.slots slot = .bypass) ∧
      Sent s.dev d [.cqe { h := h, st := .success, dnr := false, res0 := x + 1, res1 := 0 }] ∧
      FrameHost h.fn [.host, .media, .cipher, .free, .pair, .fw, .tor, .pins] [A.COL_NS x, A.PAIR_CNT 0, A.SB_ALERTSRC] s.dev d)) ∧
  (∀ s h a home st, Posting s → s.dev.isPf h.fn.val = true → s.dev.nsBad a = false → s.dev.chooseHome a.anagrp = some home →
    s.dev.fw.role ≠ .duo ∨ home = s.dev.board.pairId → s.dev.nsRoom a home = .error st →
    Gives (.namespaceCreate h a) s (fun d =>
      Sent s.dev d [.cqe { h := h, st := st, dnr := s.dev.dnr st, res0 := 0, res1 := 0 }] ∧ FrameHost h.fn [.host] [] s.dev d)) ∧
  (∀ s h a home, Posting s → s.dev.isPf h.fn.val = true → s.dev.nsBad a = false → s.dev.chooseHome a.anagrp = some home →
    s.dev.fw.role = .duo → home ≠ s.dev.board.pairId →
    (s.dev.linkUp = true →
      Gives (.namespaceCreate h a) s (fun d =>
        d.pair.out = s.dev.pair.out ++ [.bulk bulkNs (.nscreate a)] ∧ d.pair.creates = s.dev.pair.creates ++ [h] ∧
        Sent s.dev d [] ∧ Frame [.pair] [A.PAIR_CNT 0] s.dev d)) ∧
    (s.dev.linkUp = false →
      Gives (.namespaceCreate h a) s (fun d =>
        Sent s.dev d [.cqe { h := h, st := .nsNotReady, dnr := s.dev.dnr .nsNotReady, res0 := 0, res1 := 0 }] ∧
        FrameHost h.fn [.host] [] s.dev d))) ∧
  (∀ s f st off a, InOrder f s → Steady s.dev → s.dev.fw.role = .duo →
    (∀ x slot b, s.dev.nsRoom a s.dev.board.pairId = .ok (x, slot, b) →
      Gives (.bulk f st off (.nscreate a)) s (fun d =>
        Taken s.dev d ∧ d.media.nss = s.dev.media.nss ++ [nsOfArg a s.dev.board.pairId x slot b] ∧
        .bulk bulkNs (.nsdone .success (x + 1)) ∈ d.pair.out)) ∧
    (∀ e, s.dev.nsRoom a s.dev.board.pairId = .error e →
      Gives (.bulk f st off (.nscreate a)) s (fun d =>
        Taken s.dev d ∧ d.pair.out = s.dev.pair.out ++ [.bulk bulkNs (.nsdone e 0)] ∧ Frame [.pair, .wr] rxRegs s.dev d))) ∧
  (∀ s f st off h t nsid, InOrder f s → s.dev.host.stopped = false → s.dev.pair.creates = h :: t →
    Gives (.bulk f st off (.nsdone .success nsid)) s (fun d =>
      Taken s.dev d ∧ d.pair.creates = t ∧ Sent s.dev d [.cqe { h := h, st := .success, dnr := false, res0 := nsid, res1 := 0 }] ∧
      FrameHost h.fn [.pair, .wr, .host] rxRegs s.dev d) ∧
    (∀ e, e ≠ .success →
      Gives (.bulk f st off (.nsdone e nsid)) s (fun d =>
        Taken s.dev d ∧ d.pair.creates = t ∧ Sent s.dev d [.cqe { h := h, st := e, dnr := s.dev.dnr e, res0 := 0, res1 := 0 }] ∧
        FrameHost h.fn [.pair, .wr, .host] rxRegs s.dev d))) ∧
  (∀ s f st off (n : Ns), InOrder f s → s.dev.media.nss = [] → n.home ≠ s.dev.board.pairId → s.dev.fw.role = .duo → n.nsx < 1024 →
    Gives (.bulk f st off (.nss [n])) s (fun d =>
      Taken s.dev d ∧ d.media.nss = [n] ∧ d.bit (A.COL_NS n.nsx) 41 = false ∧ Frame [.pair, .wr, .media] (A.COL_NS n.nsx :: rxRegs) s.dev d)) ∧
  (∀ s h a, Posting s → s.dev.isPf h.fn.val = true → s.dev.nsBad a = true →
    Gives (.namespaceCreate h a) s (fun d => Sent s.dev d [cqeOf h .invalidField] ∧ FrameHost h.fn [.host] [] s.dev d)) ∧
  (∀ s h a nsid attach fns, Posting s → s.dev.isPf h.fn.val = false →
    ∀ i, i ∈ [Instr.namespaceCreate h a, .namespaceDelete h nsid, .namespaceAttachment h attach nsid fns] →
      Gives i s (fun d => Sent s.dev d [cqeOf h .invalidOpcode] ∧ FrameHost h.fn [.host] [] s.dev d)) ∧
  (∀ s h nsid n, Posting s → s.dev.isPf h.fn.val = true → nsid ≠ 0xFFFFFFFF → s.dev.nsOf nsid = some n → s.dev.anaStatus n = none →
    Gives (.namespaceDelete h nsid) s (fun d =>
      d.media.nss = s.dev.media.nss.filter (fun x => x.nsx != n.nsx) ∧ d.rd (A.COL_NS n.nsx) = 0 ∧
      (n.zoned = true → ∀ i, i < n.nzones → (d.zd (n.base + i)).st = zNone) ∧
      (n.keyed = true → s.dev.board.code.val ≠ 2 → SMap.get slotEmpty d.cipher.slots n.slot = .empty) ∧
      (∀ e ∈ d.wr.entries, e.nsx ≠ n.nsx) ∧ (∀ f ∈ d.wr.fold, f.nsx ≠ n.nsx) ∧
      (n.zoned = false → ∀ k, k / 2 ^ 40 = n.nsx → SMap.find d.media.conv k = none) ∧
      nsid ∈ d.host.changedNs ∧ d.host.out.getLast? = some (cqeOf h .success) ∧
      FrameLog [.wr, .host, .media, .cipher, .pens, .pair, .fw, .tor, .pins] [A.COL_NS n.nsx, A.PAIR_CNT 0, A.SB_ALERTSRC] s.dev d)) ∧
  (∀ s h, Posting s → s.dev.isPf h.fn.val = true →
    Gives (.namespaceDelete h 0xFFFFFFFF) s (fun d => d.media.nss = [] ∧ d.host.out.getLast? = some (cqeOf h .success))) ∧
  (∀ s h attach nsid fns n, Posting s → s.dev.isPf h.fn.val = true → s.dev.nsOf nsid = some n → fns ≠ [] →
    (fns.any (fun f => decide (s.dev.penOf f.val ≠ some n.pen)) = true →
      Gives (.namespaceAttachment h attach nsid fns) s (fun d =>
        Sent s.dev d [cqeOf h .ctrlListInvalid] ∧ FrameHost h.fn [.host] [] s.dev d)) ∧
    (fns.all (fun f => decide (s.dev.penOf f.val = some n.pen)) = true → fns.all (fun f => n.fns.contains f.val == !attach) = true →
      Gives (.namespaceAttachment h attach nsid fns) s (fun d =>
        d.media.nss = s.dev.media.nss.map (fun x => if x.nsx = n.nsx then
          { n with fns := if attach then n.fns ++ fns.map (·.val) else n.fns.filter (fun f => !(fns.map (·.val)).contains f) } else x) ∧
        nsid ∈ d.host.changedNs ∧ d.host.out.getLast? = some (cqeOf h .success) ∧
        FrameLog [.host, .media, .pair] [A.PAIR_CNT 0] s.dev d))) ∧
  (∀ s h nsid n ses fmt (pi : Fin 4) first ext, Posting s → s.dev.nsOf nsid = some n → s.dev.seen h.fn.val n = true → fmt ≤ 3 →
    (fmt = 0 → pi = 0) → s.dev.anaStatus n = none → (n.keyed = true → s.dev.fw.alarmed = false) →
    ses ≤ 1 ∨ (ses = 2 ∧ s.dev.board.code.val ≠ 2 ∧ n.keyed = true) →
    Gives (.formatNvm h nsid ses fmt pi first ext) s (fun d =>
      (∃ m ∈ d.media.nss, m.nsx = n.nsx ∧ m.md = fmtMd fmt ∧ m.g64 = decide (fmt = 3) ∧ m.pi = pi.val ∧ m.piFirst = first ∧ m.ext = ext) ∧
      (∀ e ∈ d.wr.entries, e.nsx ≠ n.nsx) ∧ (∀ f ∈ d.wr.fold, f.nsx ≠ n.nsx) ∧
      (n.zoned = true → ∀ i, i < n.nzones → (d.zd (n.base + i)).active = false ∧ (d.zd (n.base + i)).st ≠ zFull) ∧
      (n.zoned = false → ∀ k, k / 2 ^ 40 = n.nsx → SMap.find d.media.conv k = none) ∧
      (ses = 2 → s.dev.cipherAlarmed = false →
        SMap.get slotEmpty d.cipher.slots n.slot = .key (freshKey s.dev.free) (nsAttr n.pen n.nsx)) ∧
      (ses ≤ 1 → d.cipher = s.dev.cipher) ∧ d.host.out.getLast? = some (cqeOf h .success) ∧
      FrameLog [.wr, .host, .media, .cipher, .free, .pair, .fw, .tor, .pins] [A.PAIR_CNT 0, A.SB_ALERTSRC] s.dev d)) ∧
  (∀ s h nsid n (pi : Fin 4) ses fmt first ext, Posting s → s.dev.nsOf nsid = some n → s.dev.seen h.fn.val n = true →
    2 < ses ∨ 3 < fmt ∨ (fmt = 0 ∧ pi ≠ 0) ∨ (ses = 2 ∧ (s.dev.board.code.val = 2 ∨ n.keyed = false)) →
    Gives (.formatNvm h nsid ses fmt pi first ext) s (fun d => Sent s.dev d [cqeOf h .invalidField] ∧ FrameHost h.fn [.host] [] s.dev d)) ∧
  (∀ s h nsid n ses fmt (pi : Fin 4) first ext, Posting s → s.dev.nsOf nsid = some n → s.dev.seen h.fn.val n = true → fmt ≤ 3 →
    (fmt = 0 → pi = 0) → s.dev.anaStatus n = none → ses ≤ 2 → (ses = 2 → s.dev.board.code.val ≠ 2) → n.keyed = true →
    s.dev.fw.alarmed = true →
    Gives (.formatNvm h nsid ses fmt pi first ext) s (fun d => Sent s.dev d [cqeOf h .nsNotReady] ∧ FrameHost h.fn [.host] [] s.dev d)) ∧
  (∀ s h act, Posting s →
    (act = 2 ∨ (act = 4 ∧ s.dev.board.code.val ≠ 2) →
      Gives (.sanitize h act) s (fun d =>
        (∀ n ∈ s.dev.media.nss, (∀ e ∈ d.wr.entries, e.nsx ≠ n.nsx) ∧ (∀ f ∈ d.wr.fold, f.nsx ≠ n.nsx) ∧
          (n.zoned = false → ∀ k, k / 2 ^ 40 = n.nsx → SMap.find d.media.conv k = none)) ∧
        d.host.out.getLast? = some (cqeOf h .success) ∧
        FrameLog [.wr, .host, .media, .cipher, .free, .pair, .fw, .tor, .pins] [A.PAIR_CNT 0, A.SB_ALERTSRC] s.dev d)) ∧
    ((act ≠ 2 ∧ act ≠ 4) ∨ (act = 4 ∧ s.dev.board.code.val = 2) →
      Gives (.sanitize h act) s (fun d => Sent s.dev d [cqeOf h .invalidField] ∧ FrameHost h.fn [.host] [] s.dev d))) ∧
  (∀ s h dtype doper nsid enable n, Posting s → s.dev.nsOf nsid = some n → s.dev.seen h.fn.val n = true →
    (dtype = 0 ∧ doper = 1 →
      Gives (.directiveSend h dtype doper nsid enable) s (fun d =>
        d.media.nss = s.dev.media.nss.map (fun x => if x.nsx = n.nsx then { n with directive := enable } else x) ∧
        Sent s.dev d [cqeOf h .success] ∧ FrameHost h.fn [.host, .media] [] s.dev d) ∧
      Gives (.directiveReceive h dtype doper nsid) s (fun d =>
        (∃ b, Sent s.dev d [.bytes h b, cqeOf h .success] ∧ b.length = 4096 ∧ b[0]? = some 5 ∧
          b[32]? = some (if n.directive then 5 else 1)) ∧ FrameHost h.fn [.host] [] s.dev d)) ∧
    (dtype ≠ 0 ∨ doper ≠ 1 →
      ∀ i, i ∈ [Instr.directiveSend h dtype doper nsid enable, .directiveReceive h dtype doper nsid] →
        Gives i s (fun d => Sent s.dev d [cqeOf h .invalidField] ∧ FrameHost h.fn [.host] [] s.dev d)))

/-- R256, R390 to R395, R401, R402: downloads and commits of firmware and configuration; Device Self-test. -/
def Obligations.FirmwareUpdate : Prop :=
  (∀ s h off b, Posting s → s.dev.isPf h.fn.val = true →
    (off + b.length ≤ 0x7FF000 →
      Gives (.firmwareImageDownload h off b) s (fun d =>
        (∀ i, SMap.get (fun _ => (0 : Byte)) d.fw.dl i =
          if off ≤ i ∧ i < off + b.length then b.getD (i - off) 0 else SMap.get (fun _ => (0 : Byte)) s.dev.fw.dl i) ∧
        Sent s.dev d [cqeOf h .success] ∧ FrameHost h.fn [.host, .fw] [] s.dev d)) ∧
    (0x7FF000 < off + b.length →
      Gives (.firmwareImageDownload h off b) s (fun d => Sent s.dev d [cqeOf h .invalidField] ∧ FrameHost h.fn [.host] [] s.dev d))) ∧
  (∀ s h off b action slot, Posting s → s.dev.isPf h.fn.val = false →
    ∀ i, i ∈ [Instr.firmwareImageDownload h off b, .firmwareCommit h action slot] →
      Gives i s (fun d => Sent s.dev d [cqeOf h .invalidOpcode] ∧ FrameHost h.fn [.host] [] s.dev d)) ∧
  (∀ s h action k, Posting s → s.dev.isPf h.fn.val = true → k < 4 → s.dev.slotInUse k = false → action ∈ [0, 1, 3] →
    Gives (.firmwareCommit h action (k + 1)) s (fun d =>
      let code := s.dev.reject (s.dev.stagedContainer (decide (2 ≤ k))) (decide (2 ≤ k))
      (code ≠ 0 → Sent s.dev d [cqeOf h .invalidImage] ∧ d.cirque = s.dev.cirque) ∧
      (code = 0 →
        Sent s.dev d [cqeOf h (if action = 3 then .needsReset else .success)] ∧
        (action = 0 → d.activation k = none) ∧
        (action ≠ 0 → d.recWord k 0 actvMagic = some ((s.dev.topCommit k + 1) % 2 ^ 32))) ∧
      FrameHost h.fn [.host, .cirque, .free] [] s.dev d)) ∧
  (∀ s h k j, Posting s → s.dev.isPf h.fn.val = true → k < 4 → s.dev.freeActivate k = some j →
    Gives (.firmwareCommit h 2 (k + 1)) s (fun d =>
      let code := s.dev.reject (s.dev.slotBytes k) (decide (2 ≤ k))
      (code ≠ 0 → Sent s.dev d [cqeOf h .invalidImage] ∧ d.cirque = s.dev.cirque) ∧
      (code = 0 → Sent s.dev d [cqeOf h .success] ∧ ((recBase k + j) / 128 ∉ s.dev.cirque.cut →
        d.recWord k j actvMagic = some ((s.dev.topCommit k + 1) % 2 ^ 32))) ∧
      FrameHost h.fn [.host, .cirque] [] s.dev d)) ∧
  (∀ s h action slot, Posting s → s.dev.isPf h.fn.val = true → action ≤ 3 →
    slot = 0 ∨ 4 < slot ∨ (action ≠ 2 ∧ s.dev.slotInUse (slot - 1) = true) →
    Gives (.firmwareCommit h action slot) s (fun d => Sent s.dev d [cqeOf h .invalidSlot] ∧ FrameHost h.fn [.host] [] s.dev d)) ∧
  (∀ s h stc, Posting s → stc = 1 ∨ stc = 2 →
    (s.dev.host.selfTest = none →
      Gives (.deviceSelfTest h stc) s (fun d =>
        d.host.selfTest = some (stc, s.dev.tick) ∧ Sent s.dev d [cqeOf h .success] ∧ FrameHost h.fn [.host] [] s.dev d)) ∧
    (s.dev.host.selfTest ≠ none →
      Gives (.deviceSelfTest h stc) s (fun d =>
        d.host.selfTest = s.dev.host.selfTest ∧ Sent s.dev d [cqeOf h .selfTestBusy] ∧ FrameHost h.fn [.host] [] s.dev d))) ∧
  (∀ s h t, Posting s → s.dev.host.selfTest = some t →
    Gives (.deviceSelfTest h 0xF) s (fun d =>
      d.host.selfTest = none ∧ d.host.stResults = (t.1, 1) :: s.dev.host.stResults ∧ Sent s.dev d [cqeOf h .success] ∧
      FrameHost h.fn [.host] [] s.dev d))

/-! Pens (R178 to R202, R262, R263). -/

/-- R185 to R188, R195 to R198, R260, R262, R263, R275: PEN_MANAGE and PEN_MIGRATE. -/
def Obligations.PenCommands : Prop :=
  (∀ s h (p : PenN) r, Posting s → s.dev.isPf h.fn.val = true →
    (badPenRec s.dev.board.bifurcated p.val r = false → s.dev.fw.mode ≠ .init → s.dev.penLimited p.val r = false →
      s.dev.movesBusy p.val r = false →
      let g := s.dev.nextPenGen p.val
      (s.dev.penMoves p.val = false →
        Gives (.penManageSet h p 256 r []) s (fun d =>
          d.pens = { s.dev.pens with staged := s.dev.pens.staged ++ [(p.val, r, g)]
                                     done := s.dev.pens.done ++ [(0, { h := h, st := .success, dnr := false, res0 := g, res1 := 0 })] } ∧
          d.rd (A.PEN_RATE p.val) = BitVec.ofNat 64 (r.rdfloor + r.wrfloor * 2 ^ 16 + r.rdceil * 2 ^ 32 + r.wrceil * 2 ^ 48) ∧
          d.rd (A.PEN_SHARE p.val) = BitVec.ofNat 64 (r.c0allow * 256 + r.weight * 2 ^ 24) ∧
          Frame [.pens] [A.PEN_RATE p.val, A.PEN_SHARE p.val] s.dev d)) ∧
      (∀ mv m n, s.dev.movePlan p.val r mv [] = .ok [m] → m.pen = p.val → s.dev.media.nss = [n] → n.nsx = m.nsx →
        mv.any (fun x => s.dev.moving (x - 1)) = false →
        Gives (.penManageSet h p 256 r mv) s (fun d =>
          d.pens = { s.dev.pens with
                       moves := s.dev.pens.moves ++ [m], staged := s.dev.pens.staged ++ [(p.val, r, g)]
                       done := s.dev.pens.done ++
                         [(3000 + p.val, { h := h, st := .success, dnr := false, res0 := g, res1 := 0 })] } ∧
          (∀ ix ∈ m.ixs, d.zd ix = { s.dev.zd ix with colok := false }) ∧ (∀ ix, ix ∉ m.ixs → d.zd ix = s.dev.zd ix) ∧
          (∀ k a, s.dev.board.code.val ≠ 2 → s.dev.slot n.slot = .key k a → d.slot m.slot = .key k (nsAttr m.pen n.nsx)) ∧
          Frame [.pens, .media, .cipher, .pair] [A.PAIR_CNT 0] s.dev d))) ∧
    (∀ mv st, badPenRec s.dev.board.bifurcated p.val r = false → s.dev.fw.mode ≠ .init → s.dev.penLimited p.val r = false →
      s.dev.movePlan p.val r mv [] = .error st →
      Gives (.penManageSet h p 256 r mv) s (fun d =>
        Sent s.dev d [.cqe { h := h, st := st, dnr := s.dev.dnr st, res0 := 0, res1 := 0 }] ∧ FrameHost h.fn [.host] [] s.dev d)) ∧
    (∀ len mv st, ((len ≠ 256 ∨ badPenRec s.dev.board.bifurcated p.val r = true) ∧ st = Status.invalidField) ∨
        (len = 256 ∧ badPenRec s.dev.board.bifurcated p.val r = false ∧ s.dev.fw.mode = .init ∧ st = .modeRefused) ∨
        (len = 256 ∧ badPenRec s.dev.board.bifurcated p.val r = false ∧ s.dev.fw.mode ≠ .init ∧ s.dev.penLimited p.val r = true ∧ st = .penLimit) ∨
        (len = 256 ∧ badPenRec s.dev.board.bifurcated p.val r = false ∧ s.dev.fw.mode ≠ .init ∧ s.dev.penLimited p.val r = false ∧
          (s.dev.movePlan p.val r mv []).isOk = true ∧ (s.dev.movesBusy p.val r = true ∨ mv.any (fun x => s.dev.moving (x - 1)) = true) ∧
          st = .cmdSeqError) →
      Gives (.penManageSet h p len r mv) s (fun d =>
        Sent s.dev d [.cqe { h := h, st := st, dnr := s.dev.dnr st, res0 := 0, res1 := 0 }] ∧ FrameHost h.fn [.host] [] s.dev d))) ∧
  (∀ s h (p : PenN) i, Posting s → s.dev.isPf h.fn.val = true → s.dev.pen p.val = some i →
    Gives (.penManageGet h p 256) s (fun d =>
      Sent s.dev d [.bytes h (penBytes p.val i), .cqe { h := h, st := .success, dnr := false, res0 := i.gen, res1 := 0 }] ∧
      FrameHost h.fn [.host] [] s.dev d)) ∧
  (∀ s h (p : PenN) i, Posting s → s.dev.isPf h.fn.val = true → s.dev.pen p.val = some i → s.dev.fw.mode ≠ .init →
    (s.dev.bit (A.PEN_STAT p.val) 0 = false →
      Gives (.penManageEnable h p) s (fun d =>
        d.pen p.val = some { i with enabled := true, gen := if i.enabled then i.gen else s.dev.nextPenGen p.val } ∧
        d.bit (A.PEN_PCTL p.val) 0 = true ∧ p.val ∈ d.pens.heldEn ∧ p.val ∈ d.pens.enNew ∧
        (1000 + p.val, { h := h, st := .success, dnr := false, res0 := 0, res1 := 0 }) ∈ d.pens.done ∧
        Frame [.pens] [A.PEN_PCTL p.val, A.PEN_STAT p.val] s.dev d)) ∧
    (s.dev.bit (A.PEN_PCTL p.val) 0 = true → p.val ∈ s.dev.pens.enNew →
      Gives (.penManageDisable h p) s (fun d =>
        (∃ j, d.pen p.val = some j ∧ j.enabled = true) ∧ p.val ∈ d.pens.heldEn ∧ d.bit (A.PEN_PCTL p.val) 0 = false ∧
        d.bit (A.PEN_STAT p.val) 0 = false)) ∧
    (s.dev.bit (A.PEN_PCTL p.val) 0 = true → s.dev.bit (A.PEN_STAT p.val) 0 = true → p.val ∉ s.dev.pens.enNew →
      Gives (.penManageDisable h p) s (fun d =>
        d.pen p.val = some { i with enabled := false, gen := if i.enabled then s.dev.nextPenGen p.val else i.gen } ∧
        d.bit (A.PEN_PCTL p.val) 0 = false ∧ d.bit (A.PEN_STAT p.val) 0 = false ∧
        d.bit (A.PEN_STAT p.val) 1 = true ∧ d.rd (A.PEN_DEBT p.val) = 0 ∧
        (1 + p.val, { h := h, st := .success, dnr := false, res0 := 0, res1 := 0 }) ∈ d.pens.done ∧
        FrameLog [.pens, .wr, .host] [A.PEN_PCTL p.val, A.PEN_STAT p.val, A.PEN_DEBT p.val] s.dev d)) ∧
    (s.dev.bit (A.PEN_PCTL p.val) 0 = false → s.dev.bit (A.PEN_STAT p.val) 1 = false → p.val ∉ s.dev.pens.enNew →
      Gives (.penManageDisable h p) s (fun d =>
        d.pen p.val = some { i with enabled := false, gen := if i.enabled then s.dev.nextPenGen p.val else i.gen } ∧
        Sent s.dev d [cqeOf h .success] ∧
        FrameHost h.fn [.pens, .host] [A.PEN_PCTL p.val, A.PEN_STAT p.val] s.dev d))) ∧
  (∀ s h (p : PenN) len r mv ws w dst pid qs, Posting s → TakenUp s.dev → s.dev.isPf h.fn.val = false →
    ∀ i, i ∈ [Instr.penManageSet h p len r mv, .penManageGet h p len, .penManageEnable h p, .penManageDisable h p, .startLog h p len ws,
        .harvest h p len w, .quiesce h p, .readState h p len, .writeState h p dst pid qs, .resume h p, .stopLog h p] →
      Gives i s (fun d => Sent s.dev d [cqeOf h .invalidOpcode] ∧ FrameHost h.fn [.host] [] s.dev d)) ∧
  (∀ s h len ws w dst pid qs, Posting s → TakenUp s.dev → s.dev.isPf h.fn.val = true →
    ∀ i, i ∈ [Instr.startLog h 0 len ws, .harvest h 0 len w, .quiesce h 0, .readState h 0 len, .writeState h 0 dst pid qs,
        .resume h 0, .stopLog h 0] →
      Gives i s (fun d => Sent s.dev d [cqeOf h .invalidField] ∧ FrameHost h.fn [.host] [] s.dev d)) ∧
  (∀ s h (p : PenN) w0 w1 w2 w3, Posting s → h.fn.val = 0 → p ≠ 0 → s.dev.fw.mode ≠ .init →
    let ws := [w0, w1, w2, w3]
    let others := (List.range 256).filter (fun x => x != p.val && s.dev.bit (A.PEN_DLOG_CTL x) 0)
    let pages := ws.foldl (fun n w => if w.valid then n + w.npages else n) 0
    (∀ x ∈ ws, x.valid = true → x.hbase % 4096 = 0) → s.dev.bit (A.PEN_DLOG_CTL p.val) 0 = false →
    let places := mapPlaces ws (others.flatMap s.dev.dlogMaps)
    (others.foldl (fun n x => n + s.dev.dlogPages x) 0 + pages ≤ 2 ^ 30 → places ≠ none →
      Gives (.startLog h p 64 ws) s (fun d =>
        d.bit (A.PEN_DLOG_CTL p.val) 0 = true ∧ d.bit (A.PEN_STAT p.val) 3 = true ∧ p.val ∈ d.pens.started ∧
        (∀ i x, ws[i]? = some x → d.rd (A.PEN_DLOG_WIN p.val i) = BitVec.ofNat 64 (x.hbase / 4096 * 4096 + (if x.valid then 1 else 0))) ∧
        (s.dev.bit (A.PEN_DLOG_CTL 0) 0 = false → ∀ i x c k, ws[i]? = some x → x.valid = true → c < 2 → k < x.npages →
          d.byte (d.dlogBit p.val i c k).1 = 0) ∧
        Sent s.dev d [.cqe { h := h, st := .success, dnr := false, res0 := pages, res1 := 0 }] ∧
        FrameParts [.host, .pens] ([A.PEN_DLOG_CTL p.val, A.PEN_STAT p.val] ++
          (List.range 4).flatMap (fun i => [A.PEN_DLOG_WIN p.val i, A.PEN_DLOG_MAP p.val i])) s.dev d)) ∧
    (2 ^ 30 < others.foldl (fun n x => n + s.dev.dlogPages x) 0 + pages ∨ places = none →
      Gives (.startLog h p 64 ws) s (fun d =>
        Sent s.dev d [.cqe { h := h, st := .penLimit, dnr := true, res0 := 0, res1 := 0 }] ∧ FrameHost h.fn [.host] [] s.dev d))) ∧
  (∀ s h (p : PenN) len (w : Fin 4), Posting s → s.dev.isPf h.fn.val = true → p ≠ 0 → s.dev.fw.mode ≠ .init →
    let n := if s.dev.bit (A.PEN_DLOG_WIN p.val w.val) 0 then s.dev.fld (A.PEN_DLOG_MAP p.val w.val) 31 0 else 0
    let copy := s.dev.fld (A.PEN_DLOG_CTL p.val) 2 2
    let a := (s.dev.dlogBit p.val w.val copy 0).1
    let b := s.dev.bytes a ((n + 31) / 32 * 4)
    (n + 31) / 32 * 4 ≤ len → s.dev.rightPort h.fn.val p.val = true → s.dev.pair.takeover = false →
    (p.val ∈ s.dev.pens.started → NotLogging h.fn s.dev →
      Gives (.harvest h p len w) s (fun d =>
        d.bit (A.PEN_DLOG_CTL p.val) 2 = !s.dev.bit (A.PEN_DLOG_CTL p.val) 2 ∧
        (∀ x, a ≤ x → x < a + (s.dev.fld (A.PEN_DLOG_MAP p.val w.val) 31 0 + 31) / 32 * 4 → d.byte x = 0) ∧
        Sent s.dev d [.bytes h b, .cqe { h := h, st := .success, dnr := false, res0 := b.foldl (fun s x => s + ones 8 x.toNat) 0, res1 := 0 }] ∧
        FrameMem [.host] [A.PEN_DLOG_CTL p.val] a (a + (s.dev.fld (A.PEN_DLOG_MAP p.val w.val) 31 0 + 31) / 32 * 4) s.dev d)) ∧
    (p.val ∉ s.dev.pens.started →
      Gives (.harvest h p len w) s (fun d => Sent s.dev d [cqeOf h .cmdSeqError] ∧ FrameHost h.fn [.host] [] s.dev d))) ∧
  (∀ s h (p : PenN), Posting s → s.dev.isPf h.fn.val = true → p ≠ 0 → s.dev.fw.mode ≠ .init →
    (p.val ∉ s.dev.pens.started →
      Gives (.quiesce h p) s (fun d => Sent s.dev d [cqeOf h .cmdSeqError] ∧ FrameHost h.fn [.host] [] s.dev d)) ∧
    (p.val ∈ s.dev.pens.started → s.dev.wr.entries.any (fun e => e.pen == p.val && e.held && !e.acked) = false →
      (s.dev.penBusy p.val = false →
        Gives (.quiesce h p) s (fun d =>
          d.bit (A.PEN_PCTL p.val) 1 = true ∧ d.bit (A.PEN_STAT p.val) 4 = true ∧ Sent s.dev d [cqeOf h .success] ∧
          FrameHost h.fn [.host] [A.PEN_PCTL p.val, A.PEN_STAT p.val] s.dev d)) ∧
      (s.dev.penBusy p.val = true →
        Gives (.quiesce h p) s (fun d =>
          d.bit (A.PEN_PCTL p.val) 1 = true ∧
          d.pens.done = s.dev.pens.done ++ [(2000 + p.val, { h := h, st := .success, dnr := false, res0 := 0, res1 := 0 })] ∧
          Frame [.pens] [A.PEN_PCTL p.val] s.dev d))) ∧
    (∀ len, let sq := s.dev.host.sqs.filter (fun q => decide (s.dev.penOf q.fn = some p.val) && decide (q.sqid ≠ 0))
      let cq := s.dev.host.cqs.filter (fun q => decide (s.dev.penOf q.fn = some p.val) && decide (q.cqid ≠ 0))
      len = 32 * (sq.length + cq.length) →
      (s.dev.bit (A.PEN_STAT p.val) 4 = true →
        Gives (.readState h p len) s (fun d =>
          Sent s.dev d [.bytes h (sq.flatMap (sqBytes s.dev) ++ cq.flatMap cqBytes),
            .cqe { h := h, st := .success, dnr := false, res0 := sq.length + cq.length, res1 := 0 }] ∧
          FrameHost h.fn [.host] [] s.dev d)) ∧
      (s.dev.bit (A.PEN_STAT p.val) 4 = false →
        Gives (.readState h p len) s (fun d => Sent s.dev d [cqeOf h .cmdSeqError] ∧ FrameHost h.fn [.host] [] s.dev d))) ∧
    (∀ c, (2000 + p.val, c) ∈ s.dev.pens.done → TakenUp s.dev → Gives (.resume h p) s (fun d => .cqe c ∈ d.host.out)) ∧
    ((∀ q, q ∈ s.dev.host.sqs → s.dev.penOf q.fn = some p.val → q.todo = []) → TakenUp s.dev →
      (∀ x ∈ s.dev.pens.done, x.1 ≠ 2000 + p.val) →
      Gives (.resume h p) s (fun d =>
        d.bit (A.PEN_PCTL p.val) 1 = false ∧ d.bit (A.PEN_STAT p.val) 4 = false ∧ Sent s.dev d [cqeOf h .success] ∧
        FrameHost h.fn [.host] [A.PEN_PCTL p.val, A.PEN_STAT p.val] s.dev d)) ∧
    Gives (.stopLog h p) s (fun d =>
      d.bit (A.PEN_DLOG_CTL p.val) 0 = false ∧ d.bit (A.PEN_STAT p.val) 3 = false ∧ p.val ∉ d.pens.started ∧
      Sent s.dev d [cqeOf h .success] ∧
      FrameHost h.fn [.host, .pens] [A.PEN_DLOG_CTL p.val, A.PEN_STAT p.val] s.dev d)) ∧
  (∀ s h (p : PenN) (dst : FnN) i r j, Posting s → s.dev.isPf h.fn.val = true → p ≠ 0 → s.dev.fw.mode ≠ .init →
    s.dev.pen p.val = some i →
    ((if s.dev.board.pairId then i.r.func1.getLsbD dst.val else i.r.func0.getLsbD dst.val) = true →
      (s.dev.host.sqs.any (fun q => q.fn == dst.val && q.sqid != 0) || s.dev.host.cqs.any (fun q => q.fn == dst.val && q.cqid != 0)) = true →
      Gives (.writeState h p dst s.dev.board.pairId [r]) s (fun d =>
        Sent s.dev d [.cqe { h := h, st := .cmdSeqError, dnr := s.dev.dnr .cmdSeqError, res0 := 0, res1 := 0 }] ∧
        FrameHost h.fn [.host] [] s.dev d)) ∧
    ((if s.dev.board.pairId then i.r.func1.getLsbD dst.val else i.r.func0.getLsbD dst.val) = true →
      (s.dev.host.sqs.any (fun q => q.fn == dst.val && q.sqid != 0) || s.dev.host.cqs.any (fun q => q.fn == dst.val && q.cqid != 0)) = false →
      r.isCq = false → s.dev.freeQ = some j →
      Gives (.writeState h p dst s.dev.board.pairId [r]) s (fun d =>
        (∃ x, d.host.sqs = s.dev.host.sqs ++ [x] ∧ x.fn = dst.val ∧ x.sqid = r.qid ∧ x.cqid = r.cqid ∧ x.q = j ∧ x.size = r.size ∧
          x.base = r.base ∧ x.head = r.head ∧ x.tail = r.tail ∧ x.inCmb = r.inCmb) ∧
        d.rd (A.COL_SQ j) = BitVec.ofNat 64 ((if r.colBound && r.inCmb then 1 else 0) + 3 * 2 + p.val * 8) ∧
        Sent s.dev d [.cqe { h := h, st := .success, dnr := false, res0 := 1, res1 := 0 }] ∧
        FrameHost h.fn [.host] [A.COL_SQ j] s.dev d)) ∧
    ((if s.dev.board.pairId then i.r.func0.getLsbD dst.val else i.r.func1.getLsbD dst.val) = true → s.dev.linkUp = true →
      Gives (.writeState h p dst (!s.dev.board.pairId) [r]) s (fun d =>
        d.pair.out = s.dev.pair.out ++ [.wstate p.val dst.val [r]] ∧
        Sent s.dev d [.cqe { h := h, st := .success, dnr := false, res0 := 1, res1 := 0 }] ∧
        FrameHost h.fn [.host, .pair] [A.PAIR_CNT 0] s.dev d)))

/-- R179, R185, R188, R190, R191, R193 to R198, R201: the epoch boundary, the end of an episode, enables, drains, the end of a
quiesce, and the dirty-page log's registers. The layout of a closing record's parameter is the model's (assumption 109). -/
def Obligations.PenScheduler : Prop :=
  (∀ s m n, Running s → s.dev.pens.moves = [m] → s.dev.media.nss = [n] → n.nsx = m.nsx →
    (s.dev.moveReady m = true →
      Gives .epochBoundary s (fun d =>
        d.pens.moves = [] ∧ d.media.nss = [{ n with pen := m.pen, slot := m.slot }] ∧
        (∀ i, i < n.nzones → (d.zd (n.base + i)).pen = m.pen % 256 ∧ (d.zd (n.base + i)).kslot = m.slot % 4096) ∧
        d.fld (A.COL_NS n.nsx) 49 42 = m.pen % 256 ∧
        (n.keyed = true → s.dev.board.code.val ≠ 2 → m.slot ≠ n.slot → d.slot n.slot = .empty))) ∧
    (s.dev.moveReady m = false →
      Gives .epochBoundary s (fun d => d.pens.moves = [m] ∧ d.media.nss = [n] ∧ d.pair = { s.dev.pair with polNow := false } ∧
        (∀ x ∈ s.dev.pens.staged, x.1 = m.pen → x ∈ d.pens.staged) ∧
        FrameLog [.pens, .host, .cairn, .wr, .pair] ([A.PEN_BREAK, A.PEN_CAP, A.PEN_EFFCAP, A.PEN_EPOCH, A.PEN_RSV] ++
          s.dev.pens.staged.map (fun x => A.CIPHER_PENRANGE (x.1 % 256)) ++
          (List.range 256).flatMap (fun p => [A.PEN_DEBT p, A.PEN_STAT p, A.PEN_TOK p]) ++
          s.dev.pens.heldEn.flatMap (fun p => [A.PEN_STAT p, A.PEN_PCTL p])) s.dev d))) ∧
  (∀ s, Running s → s.dev.pens.moves = [] →
    let rsvR := s.dev.fld A.PEN_RSV 15 0
    let rsvW := if s.dev.writable then s.dev.rsvWr else s.dev.fld A.PEN_RSV 31 16
    let capR := if s.dev.writable then s.dev.penCap.1 else s.dev.fld A.PEN_CAP 15 0
    let capW := if s.dev.writable then s.dev.penCap.2 else s.dev.fld A.PEN_CAP 31 16
    let rd := effCapacity capR s.dev.pctA rsvR
    let wr := effCapacity capW s.dev.pctA rsvW
    Gives .epochBoundary s (fun d =>
      d.rd A.PEN_EPOCH = BitVec.ofNat 64 (((s.dev.rd A.PEN_EPOCH).toNat + 1) % 2 ^ 32) ∧
      d.fld A.PEN_CAP 15 0 = capR ∧ d.fld A.PEN_CAP 31 16 = capW ∧ d.fld A.PEN_RSV 15 0 = rsvR ∧ d.fld A.PEN_RSV 31 16 = rsvW ∧
      d.rd A.PEN_EFFCAP = BitVec.ofNat 64 (rd % 65536 + wr % 65536 * 65536) ∧ d.pens.staged = [] ∧
      (∀ p r g i, s.dev.pens.staged = [(p, r, g)] → s.dev.pen p = some i → p < 256 →
        d.pen p = some { r := r, gen := Nat.max i.gen g, enabled := i.enabled } ∧
        d.rd (A.CIPHER_PENRANGE p) = BitVec.ofNat 64 (r.ksbase + r.kscount * 2 ^ 16) ∧
        (∀ q j, q ≠ p → s.dev.pen q = some j →
          let r' := { j.r with func0 := j.r.func0 &&& ~~~ r.func0, func1 := j.r.func1 &&& ~~~ r.func1 }
          d.pen q = some { j with r := r', gen := if r' = j.r then j.gen else j.gen + 1 })) ∧
      (∀ p ∈ s.dev.pens.heldEn, s.dev.bit (A.PEN_STAT p) 1 = false → p < 256 →
        d.bit (A.PEN_STAT p) 0 = true ∧ d.bit (A.PEN_PCTL p) 0 = true ∧ p ∉ d.pens.heldEn) ∧
      d.pens.enNew = [] ∧
      (∀ p, p < 256 → d.penActive p = false → d.rd (A.PEN_TOK p) = 0) ∧
      (∀ c, s.dev.host.stopped = false → (0, c) ∈ s.dev.pens.done → .cqe c ∈ d.host.out) ∧
      (∀ p, s.dev.pens.staged = [] → s.dev.pens.heldEn = [] → (∀ x, x < 256 → s.dev.penActive x = decide (x = p)) → p < 256 →
        let a := s.dev.askRead p
        s.dev.fld (A.PEN_DEBT p) 15 0 = 0 → a.c0 + a.floor ≤ rd * 16 → a.c0 + a.floor ≤ a.ceil →
        d.fld (A.PEN_TOK p) 15 0 = Nat.min a.floor 0xFFFF ∧ SMap.get (fun _ => 0) d.pens.c0 p = a.c0 ∧
        d.pens.spareRd = rd * 16 - a.c0 - a.floor) ∧
      d.wr = { s.dev.wr with foldRead := if s.dev.writable then 0 else s.dev.wr.foldRead } ∧
      d.pair = { s.dev.pair with polNow := false } ∧
      FrameLog [.pens, .host, .cairn, .wr, .pair] ([A.PEN_BREAK, A.PEN_CAP, A.PEN_EFFCAP, A.PEN_EPOCH, A.PEN_RSV] ++
        s.dev.pens.staged.map (fun x => A.CIPHER_PENRANGE (x.1 % 256)) ++
        (List.range 256).flatMap (fun p => [A.PEN_DEBT p, A.PEN_STAT p, A.PEN_TOK p]) ++
        s.dev.pens.heldEn.flatMap (fun p => [A.PEN_STAT p, A.PEN_PCTL p])) s.dev d)) ∧
  (∀ s, Running s →
    (s.dev.pens.episode = false → Gives .breakEpisodeEnd s (fun d => d = s.dev)) ∧
    (s.dev.pens.episode = true →
      Gives .breakEpisodeEnd s (fun d =>
        d.pens = { s.dev.pens with episode := false, cutEp := 0, lastCut := 0, cutPens := [], keptPens := [] } ∧
        (∀ p, s.dev.pens.cutPens ++ s.dev.pens.keptPens = [p] → p < 256 → s.dev.cairnOn = true → s.dev.cairn.fifo.length < 64 →
          d.cairn.fifo = s.dev.cairn.fifo ++
            [{ post := mkPost (0x0700 + p) (Config.evCode 5) 3 (s.dev.pens.cutEp + s.dev.pens.lastCut * 2 ^ 64), time := s.dev.ns,
               logs := [unitLog (0x0700 + p), penLog p] }]) ∧
        Frame [.pens, .cairn] [] s.dev d))) ∧
  (∀ s (p : PenN) q t0 e, Reach (A.PEN_PCTL p.val) s → TakenUp s.dev → s.dev.host.sqs = [q] → s.dev.penOf q.fn = some p.val →
    q.fn < 256 → q.todo = [(t0, e)] → q.sqid = 0 → q.halted = false → ¬ (q.inCmb = true ∧ e.eccBad = true) → s.dev.tor.latch = false →
    Gives (.penPctlWrite p false (s.dev.bit (A.PEN_PCTL p.val) 0)) s (fun d =>
      d.host.sqs = [{ q with todo := [], head := (q.head + 1) % Nat.max 1 q.size }] ∧
      (∃ f, d.host.fw = s.dev.host.fw ++ [f] ∧ f.h.fn.val = q.fn ∧ f.h.qid = 0 ∧ f.h.cid = e.cid ∧ f.e = e ∧ f.t0 = t0 ∧
        f.admitted = true) ∧
      Frame [.host] [A.PEN_PCTL p.val, A.PEN_STAT p.val] s.dev d)) ∧
  (∀ s (p : PenN) quiesce en, Reach (A.PEN_PCTL p.val) s → TakenUp s.dev →
    quiesce = true ∨ (∀ q, q ∈ s.dev.host.sqs → s.dev.penOf q.fn = some p.val → q.todo = []) →
    Gives (.penPctlWrite p quiesce en) s (fun d =>
      d.bit (A.PEN_PCTL p.val) 0 = en ∧ d.bit (A.PEN_PCTL p.val) 1 = quiesce ∧
      (quiesce = false → d.bit (A.PEN_STAT p.val) 4 = false) ∧
      (en = true → s.dev.bit (A.PEN_PCTL p.val) 0 = false → p.val ∈ d.pens.heldEn ∧
        d.bit (A.PEN_STAT p.val) 0 = s.dev.bit (A.PEN_STAT p.val) 0) ∧
      (en = false → s.dev.bit (A.PEN_PCTL p.val) 0 = true →
        (p.val ∈ d.pens.heldEn ↔ p.val ∈ s.dev.pens.enNew) ∧ d.rd (A.PEN_DEBT p.val) = 0 ∧ d.bit (A.PEN_STAT p.val) 0 = false ∧
        (s.dev.bit (A.PEN_STAT p.val) 0 = true → d.bit (A.PEN_STAT p.val) 1 = true)) ∧
      FrameLog [.pens, .wr, .host] [A.PEN_PCTL p.val, A.PEN_STAT p.val, A.PEN_DEBT p.val] s.dev d)) ∧
  (∀ s (p : PenN), Running s →
    (s.dev.penBusy p.val = true → (∀ x ∈ s.dev.pens.fnDrain, s.dev.penOf x.1 = some p.val → s.dev.fnBusy x.1 = true) →
      Gives (.penDrainEnd p) s (fun d => d = s.dev)) ∧
    (∀ x ∈ s.dev.pens.fnDrain, s.dev.penOf x.1 = some p.val → s.dev.fnBusy x.1 = false → x.2 = false → x.1 ∉ s.dev.host.en →
      Gives (.penDrainEnd p) s (fun d => (∀ q ∈ d.host.sqs, q.fn ≠ x.1) ∧ (∀ q ∈ d.host.cqs, q.fn ≠ x.1) ∧ ∀ y ∈ d.pens.fnDrain, y.1 ≠ x.1)) ∧
    (s.dev.penBusy p.val = false →
      Gives (.penDrainEnd p) s (fun d =>
        d.bit (A.PEN_STAT p.val) 1 = false ∧ (s.dev.bit (A.PEN_PCTL p.val) 1 = true → d.bit (A.PEN_STAT p.val) 4 = true) ∧
        (∀ c, s.dev.host.stopped = false → s.dev.bit (A.PEN_STAT p.val) 1 = true → (1 + p.val, c) ∈ s.dev.pens.done → .cqe c ∈ d.host.out) ∧
        FrameLog ([.pens, .host] ++ (if s.dev.pens.fnDrain.any (·.2) then [.fw, .cirque] else [])) [A.PEN_STAT p.val] s.dev d))) ∧
  (∀ s (p : PenN), Reach (A.PEN_DLOG_CTL p.val) s →
    Gives (.swap p) s (fun d =>
      d.bit (A.PEN_DLOG_CTL p.val) 2 = (!s.dev.bit (A.PEN_DLOG_CTL p.val) 2) ∧ Frame [] [A.PEN_DLOG_CTL p.val] s.dev d) ∧
    (∀ en, Gives (.dlogEnWrite p en) s (fun d =>
      d.bit (A.PEN_DLOG_CTL p.val) 0 = en ∧ d.bit (A.PEN_STAT p.val) 3 = en ∧
      Frame [] [A.PEN_DLOG_CTL p.val, A.PEN_STAT p.val] s.dev d)))

/-- R23, R29, R260, R265 to R268, R275, R285 to R287, R299, R405: CAL_ACCESS, EVENT_ACCESS, MEDIA_POLICY, SERVICE_DIAG. -/
def Obligations.VendorCommands : Prop :=
  (∀ s h, Posting s → s.dev.isPf h.fn.val = true → s.dev.fw.mode ≠ .init →
    Gives (.calInfo h 16) s (fun d =>
      Sent s.dev d [.bytes h (leBytes 4 65536 ++ leBytes 2 (if s.dev.board.compat then 0x0008 else 0x0100) ++ [0, 0] ++
        leBytes 4 s.dev.fw.calCommits ++ [if s.dev.board.compat then 1 else 0, 0, 0, 0]), cqeOf h .success] ∧
      FrameHost h.fn [.host] [] s.dev d) ∧
    (∀ seg, seg < 16 →
      (s.dev.fw.mode ≠ .service ∨ s.dev.fw.calValid = true →
        Gives (.calRead h seg 4096 false) s (fun d =>
          Sent s.dev d [.bytes h (s.dev.cqBytes (0x90000 + 128 * seg) 4096), cqeOf h .success] ∧ FrameHost h.fn [.host] [] s.dev d)) ∧
      (s.dev.fw.mode = .service → s.dev.fw.calValid = false →
        Gives (.calRead h seg 4096 false) s (fun d =>
          let k := if seg = 0 then s.dev.free else s.dev.fw.measured.getD s.dev.free
          Sent s.dev d [.bytes h (((measuredSet k).drop (4096 * seg)).take 4096), cqeOf h .success] ∧
          d.fw = { s.dev.fw with measured := some k } ∧ FrameHost h.fn [.host, .fw, .free] [] s.dev d))) ∧
    (s.dev.board.compat = true →
      Gives (.calRead h 0 1024 true) s (fun d =>
        Sent s.dev d [.bytes h s.dev.frowBytes, cqeOf h .success] ∧ FrameHost h.fn [.host] [] s.dev d)) ∧
    (s.dev.fw.calOpen = false →
      Gives (.calOpen h 0x43414C21) s (fun d =>
        d.fw = { s.dev.fw with calOpen := true, calSet := [] } ∧ Sent s.dev d [cqeOf h .success] ∧
        FrameHost h.fn [.host, .fw] [] s.dev d)) ∧
    (∀ seg b crc, seg < 16 → b.length = 4096 →
      (s.dev.fw.calOpen = true →
        Gives (.calOpen h 0x43414C21) s (fun d =>
          Sent s.dev d [.cqe { h := h, st := .calSeq, dnr := true, res0 := 0, res1 := 0 }] ∧ FrameHost h.fn [.host] [] s.dev d) ∧
        Gives (.calWrite h seg b) s (fun d =>
          d.fw = { s.dev.fw with calSet := SMap.put s.dev.fw.calSet seg (BitVec.ofNat 32768 (ofLe b)) } ∧
          Sent s.dev d [cqeOf h .success] ∧ FrameHost h.fn [.host, .fw] [] s.dev d)) ∧
      (s.dev.fw.calOpen = false →
        Gives (.calWrite h seg b) s (fun d =>
          Sent s.dev d [.cqe { h := h, st := .calSeq, dnr := true, res0 := 0, res1 := 0 }] ∧ FrameHost h.fn [.host] [] s.dev d)) ∧
      (s.dev.fw.mode ≠ .service →
        Gives (.calCommit h crc) s (fun d =>
          Sent s.dev d [.cqe { h := h, st := .modeRefused, dnr := s.dev.dnr .modeRefused, res0 := 0, res1 := 0 }] ∧
          FrameHost h.fn [.host] [] s.dev d))) ∧
    Gives (.abandon h) s (fun d =>
      d.fw = { s.dev.fw with calOpen := false, calSet := [] } ∧ Sent s.dev d [cqeOf h .success] ∧
      FrameHost h.fn [.host, .fw] [] s.dev d)) ∧
  (∀ s h (crc : W32), Service h s →
    (∀ b, s.dev.fw.calOpen = true → s.dev.stagedSet = some b → crc32 b = crc.toNat →
      Gives (.calCommit h crc) s (fun d =>
        (∀ i, i < 16 → d.calSegment i = leBytes 4096 (SMap.get (fun _ => (0 : BitVec 32768)) s.dev.fw.calSet i).toNat) ∧
        d.fw = { s.dev.fw with calOpen := false, calSet := [], calCommits := s.dev.fw.calCommits + 1 } ∧
        Sent s.dev d [cqeOf h .success] ∧ FrameHost h.fn [.host, .cirque, .fw] [] s.dev d)) ∧
    (s.dev.fw.calOpen = false ∨ s.dev.stagedSet = none →
      Gives (.calCommit h crc) s (fun d =>
        Sent s.dev d [.cqe { h := h, st := .calSeq, dnr := true, res0 := 0, res1 := 0 }] ∧ FrameHost h.fn [.host] [] s.dev d))) ∧
  (∀ s h l, Posting s → s.dev.mayRead h.fn.val l = true →
    Gives (.eventInfo h l 32) s (fun d =>
      Sent s.dev d [.bytes h (s.dev.logHeader l 0), cqeOf h .success] ∧ FrameHost h.fn [.host] [] s.dev d) ∧
    (∀ first n, let rs := ((Log.ordered l (s.dev.log l)).drop first).take n
      Gives (.eventRead h l first (32 * n)) s (fun d =>
        Sent s.dev d [.bytes h (rs.flatMap recBytes), .cqe { h := h, st := .success, dnr := false, res0 := rs.length, res1 := 0 }] ∧
        FrameHost h.fn [.host] [] s.dev d)) ∧
    Gives (.eventClear h l) s (fun d =>
      let who := h.fn.val + (if s.dev.board.pairId then 2 ^ 16 else 0)
      (d.log l).recs.map (·.post) = [mkPost 0x0FFE 0x0010 2 (who % 2 ^ 24 + (s.dev.log l).recs.length * 2 ^ 24)] ∧
      (d.log l).cleared = s.dev.ns ∧ (d.log l).drops = (s.dev.log l).drops ∧ (∀ k, k ≠ l → d.log k = s.dev.log k) ∧
      Sent s.dev d [cqeOf h .success] ∧ FrameHost h.fn [.host, .cairn] [] s.dev d)) ∧
  (∀ s h l n, Posting s → s.dev.mayRead h.fn.val l = false →
    ∀ i, i ∈ [Instr.eventInfo h l n, .eventRead h l 0 n, .eventClear h l] →
      Gives i s (fun d => Sent s.dev d [cqeOf h .invalidField] ∧ FrameHost h.fn [.host] [] s.dev d)) ∧
  (∀ s h, Posting s → s.dev.isPf h.fn.val = true →
    Gives (.mediaPolicyGet h 64) s (fun d =>
      Sent s.dev d [.bytes h (policyBytes s.dev.media.policy), cqeOf h .success] ∧ FrameHost h.fn [.host] [] s.dev d) ∧
    (∀ p, policyOk p = true → s.dev.fw.mode ≠ .init →
      Gives (.mediaPolicySet h 64 p) s (fun d =>
        d.media = { s.dev.media with policy := p } ∧ d.bit A.COL_CTL 1 = p.spurEn ∧ d.rd A.COL_SPUR_THR = BitVec.ofNat 64 p.thresh ∧
        d.rd A.COL_SPUR_BUD = BitVec.ofNat 64 (p.win * 256 + p.pct) ∧
        (∀ ch, ch < 64 → d.rd (A.MULE_SUSP_PRG ch) = BitVec.ofNat 64 (p.pHold * 2 ^ 18 + p.pRun * 2 ^ 8 + p.pRd * 16 + p.pSusp) ∧
          d.rd (A.MULE_SUSP_ERS ch) = BitVec.ofNat 64 (p.eHold * 2 ^ 18 + p.eRun * 2 ^ 8 + p.eRd * 16 + p.eSusp)) ∧
        (s.dev.fw.role = .duo → s.dev.linkUp = true → d.pair.out = s.dev.pair.out ++ [.bulk 5 (.policy p)]) ∧
        (s.dev.fw.role ≠ .duo → d.pair = s.dev.pair) ∧ Sent s.dev d [cqeOf h .success] ∧
        FrameHost h.fn [.host, .media, .pair] ([A.COL_CTL, A.COL_SPUR_THR, A.COL_SPUR_BUD, A.PAIR_CNT 0] ++
          (List.range 64).flatMap (fun ch => [A.MULE_SUSP_PRG ch, A.MULE_SUSP_ERS ch])) s.dev d)) ∧
    (∀ p, policyOk p = false →
      Gives (.mediaPolicySet h 64 p) s (fun d => Sent s.dev d [cqeOf h .invalidField] ∧ FrameHost h.fn [.host] [] s.dev d))) ∧
  (∀ s h (a : Addr) v, Service h s →
    (s.dev.accessErr (.core 0 true) a.toNat false = none → (regAt a.toNat).isSome = true →
      Gives (.regRead h a 8) s (fun d =>
        Sent s.dev d [.bytes h (leBytes 8 (s.dev.readVal a.toNat).toNat), cqeOf h .success] ∧
        ∀ p, p ∈ [Part.pins, .tor, .gate, .cirque, .ox, .cipher, .pens, .media, .wr, .mules, .pair, .fw] → p.same s.dev d)) ∧
    (∀ e, s.dev.accessErr (.core 0 true) a.toNat false = some e →
      Gives (.regRead h a 8) s (fun d =>
        d.host.out.getLast? = some (.cqe { h := h, st := .internal, dnr := false, res0 := e.code, res1 := 0 }))) ∧
    (s.dev.accessErr (.core 0 true) a.toNat true = none → (regAt a.toNat).isSome = true →
      Gives (.regWrite h a v) s (fun d => d = (s.dev.writeReg (.core 0 true) a.toNat v).complete h .success)) ∧
    (∀ e, s.dev.accessErr (.core 0 true) a.toNat true = some e →
      Gives (.regWrite h a v) s (fun d =>
        d.host.out.getLast? = some (.cqe { h := h, st := .internal, dnr := false, res0 := e.code, res1 := 0 })))) ∧
  (∀ s h (a : Addr) len b, Service h s → len ≠ 0 → len % 4 = 0 → len ≤ 1048576 → b.length = len →
    (∀ hit, s.dev.rangeErr s.dev.diagOx a.toNat len false hit = none →
      Gives (.memRead h a len hit) s (fun d =>
        (∃ l, Sent s.dev d (l ++ [.bytes h (s.dev.loadBytes a.toNat len), cqeOf h .success])) ∧ d.free = s.dev.free + 1 ∧
        ∀ p, p ∈ [Part.pins, .tor, .gate, .cirque, .ox, .cipher, .pens, .media, .wr, .mules, .pair, .fw] → p.same s.dev d)) ∧
    (∀ hit e x, s.dev.rangeErr s.dev.diagOx a.toNat len false hit = some (e, x) →
      Gives (.memRead h a len hit) s (fun d =>
        d.host.out.getLast? = some (.cqe { h := h, st := .internal, dnr := false, res0 := e.code, res1 := 0 }))) ∧
    (Clear a.toNat len true s.dev → 0x10000000 ≤ a.toNat → a.toNat + len ≤ 0x11000000 → NotLogging h.fn s.dev →
      Gives (.memWrite h a b) s (fun d =>
        (∀ i, i < len → d.byte (a.toNat + i) = b.getD i 0) ∧ Sent s.dev d [cqeOf h .success] ∧
        FrameMem [.host, .free] [] a.toNat (a.toNat + len) s.dev d))) ∧
  (∀ s h (ch : Ch) (l : LunN) (op : Fin 16) pblk page rs, Service h s → pblk < 16384 → page < 1024 →
    (∀ x, s.dev.flashRefusal ch.val l.val op.val = some x → x ≠ .pass →
      Gives (.flashOp h ch l op pblk page rs) s (fun d =>
        Sent s.dev d [.cqe { h := h, st := .success, dnr := false, res0 := Config.evCode (200 + x.num), res1 := 0 }] ∧
        FrameHost h.fn [.host] [] s.dev d)) ∧
    (s.dev.flashRefusal ch.val l.val op.val = none →
      Gives (.flashOp h ch l op pblk page rs) s (fun d =>
        ∃ x : MResult, d.host.out.getLast? =
          some (.cqe { h := h, st := .success, dnr := false, res0 := Config.evCode (200 + x.num), res1 := 0 })))) ∧
  (∀ s h, Service h s →
    (s.dev.adminWaits h = false →
      Gives (.serviceDiagReset h) s (fun d =>
        WasReset ([A.CLK_STAT, A.CLK_RSTCAUSE, A.SB_ENUM] ++ pllRegs) s.dev d ∧ d.tor.pwr = .on ∧ d.tor.mainOn = false ∧
        d.fw.mode = .init ∧ d.bit A.CLK_RSTCAUSE 3 = true ∧ Sent s.dev d [cqeOf h .success])) ∧
    (s.dev.adminWaits h = true →
      Gives (.serviceDiagReset h) s (fun d => d.fw = { s.dev.fw with resetReq := some h } ∧ Frame [.fw] [] s.dev d))) ∧
  (∀ s h a len v b (ch : Ch) (l : LunN) (op : Fin 16) rs, Posting s → s.dev.isPf h.fn.val = false →
    ∀ i, i ∈ [Instr.calInfo h len, .calRead h 0 len false, .calOpen h v, .calWrite h 0 b, .calCommit h v, .abandon h,
        .mediaPolicyGet h len, .regRead h a len, .memRead h a len .none, .memWrite h a b, .flashOp h ch l op 0 0 rs, .serviceDiagReset h] →
      Gives i s (fun d => Sent s.dev d [cqeOf h .invalidOpcode] ∧ FrameHost h.fn [.host] [] s.dev d))

/-! The Mules (R77, R97 to R121, R128, R137, R138). -/

/-- R34, R77, R85, R97, R99, R101, R103, R113, R116, R117, R128, R137, R138: requests and what they start, parity units,
suspension, the enable, the tables. -/
def Obligations.MuleRequests : Prop :=
  (∀ s (ch : Ch) (r : MuleReq), Running s → TakenUp s.dev → Alone (s.dev.mkReq ch.val r none) s.dev →
    let d0 := s.dev
    let q := d0.mkReq ch.val r none
    let flushing := d0.ploss = true ∧ r.flush = true
    let refused := fun (res : MResult) => Gives (.muleRequest ch r) s (fun d =>
      d.mules = { d0.mules with
        nextId := d0.mules.nextId + 1, done := d0.mules.done ++ [mkDone q ch.val r.lun.val res 0]
        oosWait := if res = .timeout ∧ d0.opClass ch.val r.op.val = 1 then d0.mules.oosWait ++ [(ch.val, r.lun.val, r)] else d0.mules.oosWait } ∧
      Frame [.mules] [] d0 d)
    (d0.owned ch.val = false → refused .notOwned) ∧
    (d0.owned ch.val = true → d0.outOfGeom ch.val r.lun.val r = true → refused .addrRange) ∧
    (d0.owned ch.val = true → d0.outOfGeom ch.val r.lun.val r = false → d0.lunOos ch.val r.lun.val = true → refused .timeout) ∧
    (d0.owned ch.val = true → d0.outOfGeom ch.val r.lun.val r = false → d0.lunOos ch.val r.lun.val = false →
      d0.isPE ch.val r.op.val = true → d0.fwFlag = true → ¬ flushing → refused .tempHold)) ∧
  (∀ s (ch : Ch) (r : MuleReq), Running s → TakenUp s.dev → Alone (s.dev.mkReq ch.val r none) s.dev →
    s.dev.refusal ch.val r.lun.val r = none → r.op.val ≠ 9 →
    let d0 := s.dev
    let l := r.lun.val
    let q := d0.mkReq ch.val r none
    (LunFree ch.val l d0 → d0.muleGoes ch.val = true → (d0.isPE ch.val r.op.val = true → d0.mayPE ch.val q = true) →
      (d0.opClass ch.val r.op.val = 0 → r.spurOk = true → d0.spurRule ch.val l q = .queue) →
      (SeqValid ch.val r.op.val d0 →
        Gives (.muleRequest ch r) s (fun d =>
          (∃ x, (d.lun ch.val l).run = some x ∧ x.id = q.id ∧ x.r = r ∧ x.pblk = q.pblk ∧ x.start = q.start) ∧
          (d.lun ch.val l).queue = [] ∧ (d.lun ch.val l).runUs = d0.us ∧ d.rd (A.MULE_LUN ch.val l) = lunBegun ch.val r.op.val d0 ∧
          (∀ n, d0.accWant ch.val r.op.val = some n →
            SMap.find d.mules.acc ch.val = some { row := r.page, want := n, got := 0, p := [], q := [], lun := l }) ∧
          (∀ c k, (c, k) ≠ (ch.val, l) → k < 32 → d.lun c k = d0.lun c k) ∧ d.mules.done = d0.mules.done ∧
          Frame [.mules] [A.MULE_LUN ch.val l] d0 d)) ∧
      (¬ SeqValid ch.val r.op.val d0 →
        Gives (.muleRequest ch r) s (fun d =>
          LunFree ch.val l d ∧ d.mules.done.map (·.res) = d0.mules.done.map (·.res) ++ [.seqfault] ∧ Frame [.mules] [] d0 d))) ∧
    ((d0.lun ch.val l).run.isSome = true → (d0.opClass ch.val r.op.val = 0 → r.spurOk = false) →
      Gives (.muleRequest ch r) s (fun d =>
        (d.lun ch.val l).run = (d0.lun ch.val l).run ∧ (d.lun ch.val l).susp = (d0.lun ch.val l).susp ∧
        (d.lun ch.val l).queue.map (·.id) = (d0.lun ch.val l).queue.map (·.id) ++ [q.id] ∧ d.mules.done = d0.mules.done ∧
        Frame [.mules] [] d0 d)) ∧
    (∀ e, (d0.lun ch.val l).run = some e → d0.opClass ch.val r.op.val = 0 → r.spurOk = true →
      d0.spurRule ch.val l q = .suspend → (d0.lun ch.val l).queue = [] → SeqValid ch.val r.op.val d0 →
      Gives (.muleRequest ch r) s (fun d =>
        (d.lun ch.val l).susp = some e ∧
        d.fld (A.MULE_LUN ch.val l) 2 0 = (if d0.opClass ch.val e.r.op.val = 2 then 5 else 4) ∧
        d.fld (A.MULE_LUN ch.val l) 7 4 = d0.fld (A.MULE_LUN ch.val l) 7 4 + 1 ∧
        d.rd (A.MULE_CNT ch.val 5) = d0.rd (A.MULE_CNT ch.val 5) + 1 ∧
        (¬ (d0.opClass ch.val e.r.op.val = 2 ∧ e.r.lbn = r.lbn) →
          (∃ x, (d.lun ch.val l).run = some x ∧ x.id = q.id) ∧
          Frame [.host, .mules] [A.MULE_LUN ch.val l, A.MULE_CNT ch.val 5] d0 d) ∧
        (d0.opClass ch.val e.r.op.val = 2 → e.r.lbn = r.lbn →
          (d.lun ch.val l).run = none ∧ d.mules.done.map (·.res) = d0.mules.done.map (·.res) ++ [.eraseTarget] ∧
          Frame [.host, .mules, .media] [A.MULE_LUN ch.val l, A.MULE_CNT ch.val 5] d0 d))) ∧
    (∀ chs, d0.opClass ch.val r.op.val = 0 → r.spurOk = true → d0.spurRule ch.val l q = .spur chs →
      (∀ c ∈ chs, d0.refusal c l r = none ∧ SeqValid c r.op.val d0 ∧ (d0.lun c l).susp = none ∧ (d0.lun c l).queue = []) →
      Gives (.muleRequest ch r) s (fun d =>
        d.mules.spurs = d0.mules.spurs ++
          [{ ch := ch.val, lun := l, q := q, ids := (List.range chs.length).map (fun i => d0.mules.nextId + 1 + i), used := chs }] ∧
        (∀ c, c ∈ chs → d.spurUse c = d0.spurUse c + 1280 * r.ncw ∧ d.spurUse c ≤ d.mules.spurBud) ∧
        d.mules.spurBud = d0.mules.spurBud ∧ d.rd A.COL_CNT_SPUR = d0.rd A.COL_CNT_SPUR + 1 ∧
        Frame [.host, .mules] muleRegs d0 d))) ∧
  (∀ s (ch : Ch) row slot u, Running s →
    (∀ a, SMap.find s.dev.mules.acc ch.val = some a → a.row = row → a.got < a.want →
      Gives (.parityUnitDelivery ch row slot u) s (fun d =>
        SMap.find d.mules.acc ch.val =
          some { a with got := a.got + 1, p := xorUnits a.p u, q := xorUnits a.q (u.map (gfPow2 slot)) } ∧
        Frame [.mules] [] s.dev d)) ∧
    ((∀ a, SMap.find s.dev.mules.acc ch.val = some a → ¬ (a.row = row ∧ a.got < a.want)) →
      Gives (.parityUnitDelivery ch row slot u) s (fun d =>
        Recorded s.dev d (0x0400 + ch.val) (Config.evCode 6) 5 (row + slot * 2 ^ 32) ∧ Frame [.cairn] [A.CAIRN_HWDROP] s.dev d))) ∧
  (∀ s (ch : Ch) (l : LunN), Running s → TakenUp s.dev →
    (∀ e, (s.dev.lun ch.val l.val).susp = some e → (s.dev.lun ch.val l.val).run = none →
      Gives (.suspensionEnd ch l) s (fun d =>
        (d.lun ch.val l.val).run = some e ∧ (d.lun ch.val l.val).susp = none ∧
        d.fld (A.MULE_LUN ch.val l.val) 2 0 = stateOf (s.dev.opClass ch.val e.r.op.val) ∧
        Frame [.mules] [A.MULE_LUN ch.val l.val] s.dev d)) ∧
    (∀ e x, (s.dev.lun ch.val l.val).susp = some e → (s.dev.lun ch.val l.val).run = some x →
      Gives (.suspensionEnd ch l) s (fun d =>
        d.lun ch.val l.val = { s.dev.lun ch.val l.val with reads := 255 } ∧ Frame [.mules] [] s.dev d)) ∧
    ((s.dev.lun ch.val l.val).susp = none → Gives (.suspensionEnd ch l) s (fun d => d = s.dev))) ∧
  (∀ s (ch : Ch), Reach (A.MULE_CTL ch.val) s → TakenUp s.dev →
    (s.dev.bit (A.MULE_STAT ch.val) 1 = false →
      (∀ l, l < 32 → (s.dev.lun ch.val l).queue = [] ∨
        ((s.dev.lun ch.val l).susp = none ∧ ∀ q ∈ (s.dev.lun ch.val l).queue, SeqValid ch.val q.r.op.val s.dev)) →
      Gives (.muleCtlEnWrite ch true) s (fun d =>
        d.bit (A.MULE_CTL ch.val) 0 = true ∧ d.bit (A.MULE_STAT ch.val) 0 = true ∧ d.bit (A.MULE_STAT ch.val) 1 = false ∧
        Frame [.mules] ([A.MULE_CTL ch.val, A.MULE_STAT ch.val] ++ (List.range 32).map (A.MULE_LUN ch.val)) s.dev d)) ∧
    (s.dev.bit (A.MULE_STAT ch.val) 1 = true →
      Gives (.muleCtlEnWrite ch true) s (fun d =>
        d.bit (A.MULE_CTL ch.val) 0 = true ∧ ch.val ∈ d.mules.heldEn ∧ Frame [.mules] [A.MULE_CTL ch.val] s.dev d)) ∧
    Gives (.muleCtlEnWrite ch false) s (fun d =>
      d.bit (A.MULE_CTL ch.val) 0 = false ∧ d.bit (A.MULE_STAT ch.val) 0 = false ∧ ch.val ∉ d.mules.heldEn ∧
      (s.dev.bit (A.MULE_STAT ch.val) 0 = true → d.bit (A.MULE_STAT ch.val) 1 = s.dev.chRuns ch.val) ∧
      (s.dev.bit (A.MULE_STAT ch.val) 0 = false → d.rd (A.MULE_STAT ch.val) = s.dev.rd (A.MULE_STAT ch.val)) ∧
      Frame [.mules] [A.MULE_CTL ch.val, A.MULE_STAT ch.val] s.dev d)) ∧
  (∀ s (ch : Ch) v, Reach (A.MULE_TBL_DATA ch.val) s →
    let cls := s.dev.tblCls ch.val
    let ix := s.dev.tblIx ch.val
    Gives (.muleTblDataWrite ch v) s (fun d =>
      d.tblWord cls ch.val ix = v ∧
      (∀ k c i, i < 65536 → (k, c, i) ≠ (cls, ch.val, ix) → d.tblWord k c i = s.dev.tblWord k c i) ∧
      d.tblIx ch.val = (if s.dev.bit (A.MULE_TBL_ADDR ch.val) 29 = true then (ix + 1) % 65536 else ix) ∧
      (s.dev.bit (A.MULE_TBL_ADDR ch.val) 29 = false → d.rd (A.MULE_TBL_ADDR ch.val) = s.dev.rd (A.MULE_TBL_ADDR ch.val)) ∧
      Frame [.mules] [A.MULE_TBL_ADDR ch.val] s.dev d))

/-- R54, R97, R99, R100, R115 to R118, R131, R138: how sequences end, and a LUN that goes out of service and comes back. -/
def Obligations.MuleEnds : Prop :=
  (∀ s (ch : Ch) (l : LunN) rs us, Running s →
    (∀ q, (s.dev.lun ch.val l.val).run = some q → (∃ w, s.dev.walkOf ch.val q rs = .waits w) →
      Gives (.muleSequenceEnd ch l rs us) s (fun d => d = s.dev)) ∧
    ((s.dev.lun ch.val l.val).run = none →
      Gives (.muleSequenceEnd ch l rs us) s (fun d => d = s.dev) ∧ Gives (.busyTimeout ch l) s (fun d => d = s.dev))) ∧
  (∀ s (ch : Ch) (l : LunN) q res w us i, Running s → TakenUp s.dev → (∀ k, k < 32 → (s.dev.lun ch.val k).queue = []) →
    Ends ch l q res w us i s.dev → LunRuns ch.val l.val q s.dev → Settled ch.val s.dev → Alone q s.dev → q.r.op.val ≠ 9 →
    let d0 := s.dev
    let cls := d0.opClass ch.val q.r.op.val
    let m : MDone := { id := q.id, ch := ch.val, lun := l.val, op := q.r.op.val, rid := q.r.rid, res := res, depth := w.depth, iters := w.iters, corr := w.corr, us := us, mask := if res = .fail then w.mask.getD 0xF else 0, soft := decide (0 < w.soft) }
    (res ≠ .timeout → cls ≠ 1 → cls ≠ 2 →
      Gives i s (fun d =>
        LunFree ch.val l.val d ∧ d.rd (A.MULE_LUN ch.val l.val) = 0 ∧ d.mules.done = d0.mules.done ++ [m] ∧
        (∀ a, SMap.find d.mules.acc ch.val = some a → a.lun ≠ l.val) ∧
        d.rd (A.MULE_CNT ch.val 0) = d0.rd (A.MULE_CNT ch.val 0) + BitVec.ofNat 64 w.cws ∧
        d.rd (A.MULE_CNT ch.val 1) = d0.rd (A.MULE_CNT ch.val 1) + BitVec.ofNat 64 w.corrSum ∧
        d.rd (A.MULE_CNT ch.val 2) = d0.rd (A.MULE_CNT ch.val 2) + BitVec.ofNat 64 w.soft ∧
        d.rd (A.MULE_CNT ch.val 3) = d0.rd (A.MULE_CNT ch.val 3) + (if w.dec = some .uncorr then 1 else 0) ∧
        d.rd (A.MULE_CNT ch.val 4) = d0.rd (A.MULE_CNT ch.val 4) + BitVec.ofNat 64 w.retries ∧
        d.media.flash = d0.media.flash ∧
        (q.r.op.val = 4 ∨ d.wr = d0.wr) ∧
        Frame [.host, .media, .mules, .wr] (A.MULE_LUN ch.val l.val :: cntRegs ch.val) d0 d)) ∧
    (res = .pass → cls = 1 →
      Gives i s (fun d =>
        LunFree ch.val l.val d ∧ d.rd (A.MULE_LUN ch.val l.val) = 0 ∧ d.mules.done = d0.mules.done ++ [m] ∧
        (d0.accWant ch.val q.r.op.val = none → ∀ k x, q.r.data[k]? = some x → sentWhole q.r w.sent k = true →
          let u := q.r.page * 16 + q.r.plane.val * 4 + q.r.cw.val + k
          SMap.find d.media.flash (flashKey ch.val l.val (q.blk (u / 4 % 4)) (u / 16) (u / 4 % 4) (u % 4)) =
            some { d := x, nsx := q.r.nsx, lba := q.r.lba + k, gen := q.r.gen.toNat, poison := false }) ∧
        (∀ n a, d0.accWant ch.val q.r.op.val = some n → SMap.find d0.mules.acc ch.val = some a → w.sent ≠ [] →
          d.media.flash = d0.media.flash ∧
          SMap.find d.mules.parity (flashKey ch.val l.val (q.blk q.r.plane.val) q.r.page q.r.plane.val 0) =
            some (if ch.val % members (decide (n = 7)) = parityPos (decide (n = 7)) q.r.page then a.p else a.q)) ∧
        (d0.spareOn ch.val l.val q.r.lbn = true → d.wr = d0.wr) ∧
        (d0.spareOn ch.val l.val q.r.lbn = false → d.wr.groups = d0.wr.groups.map (fun g =>
          if d0.grpOn g ch.val l.val q.r.lbn ∧ d0.grpIndex g = q.r.page / 4 then g.pass (ch.val, l.val) else g)) ∧
        (d0.wr.foldJobs = [] →
          Frame [.host, .media, .mules, .wr] (A.MULE_LUN ch.val l.val :: cntRegs ch.val) d0 d))) ∧
    (∀ j, res = .pass → cls = 1 → d0.wr.foldJobs = [j] → d0.spareOn ch.val l.val q.r.lbn = false →
      d0.jobOn j ch.val l.val q.r.lbn = true → j.copy.unit / 7 ≤ q.r.page → q.r.page < j.copy.unit / 7 + j.pages →
      (ch.val, l.val, q.r.page) ∉ j.passed →
      let hi := j.copy.lba + j.copy.secs.length
      (j.passed.length + 1 < 8 * j.pages →
        Gives i s (fun d =>
          d.wr.foldJobs = [{ j with passed := j.passed ++ [(ch.val, l.val, q.r.page)] }] ∧ d.wr.fold = d0.wr.fold ∧
          d.wr.entries = d0.wr.entries)) ∧
      (8 * j.pages ≤ j.passed.length + 1 → d0.tees = false →
        (∀ k x, j.copy.secs[k]? = some x → d0.latest j.copy.nsx (j.copy.lba + k) = some x) →
        Gives i s (fun d =>
          d.wr.foldJobs = [] ∧ d.wr.fold = d0.wr.fold.flatMap (cutFold j.copy.nsx j.copy.lba hi) ++ [j.copy] ∧
          d.wr.entries = d0.wr.entries.flatMap (cutEntry j.copy.nsx j.copy.lba hi) ∧
          Journaled d (.foldput j.copy.nsx (d0.zoneIxOf j.copy.nsx j.copy.lba) j.copy.lba j.copy.secs.length j.copy.row j.copy.unit)))) ∧
    (res = .pass → cls = 2 → d0.wr.waiting = [] → d0.wr.opens = [] →
      Gives i s (fun d =>
        LunFree ch.val l.val d ∧ d.rd (A.MULE_LUN ch.val l.val) = 0 ∧ d.mules.done = d0.mules.done ++ [m] ∧
        (∀ k, k / 16384 / 16384 = ch.val * 32 + l.val → k / 16384 % 16384 = q.blk (k / 4 % 4) → SMap.find d.media.flash k = none) ∧
        (∀ k, ¬ (k / 16384 / 16384 = ch.val * 32 + l.val ∧ k / 16384 % 16384 = q.blk (k / 4 % 4)) →
          SMap.find d.media.flash k = SMap.find d0.media.flash k) ∧
        FrameParts [.host, .media, .mules, .pair, .wr, .tor, .pins]
          ([A.PAIR_CNT 0, A.SB_ALERTSRC, A.MULE_LUN ch.val l.val] ++ cntRegs ch.val) d0 d)) ∧
    (res = .fail → cls = 1 →
      Gives i s (fun d =>
        LunFree ch.val l.val d ∧ d.mules.done = d0.mules.done ++ [m] ∧
        d.rd (A.MULE_CNT ch.val 6) = d0.rd (A.MULE_CNT ch.val 6) + 1 ∧
        d.wr.groups = d0.wr.groups.map (fun g => if d0.grpOn g ch.val l.val q.r.lbn then { g with failed := true } else g) ∧
        d.media.flash = d0.media.flash ∧
        Frame [.host, .media, .mules, .wr] (A.MULE_LUN ch.val l.val :: cntRegs ch.val) d0 d)) ∧
    (res = .timeout → SeqValid ch.val 9 d0 →
      Gives i s (fun d =>
        (∃ x, (d.lun ch.val l.val).run = some x ∧ x.r.op.val = 9) ∧ d.mules.done = d0.mules.done ++ [m] ∧
        d.rd (A.MULE_CNT ch.val 8) = d0.rd (A.MULE_CNT ch.val 8) + 1 ∧
        d.rd (A.MULE_LUN ch.val l.val) = lunBegun ch.val 9 d0 ∧
        Frame [.host, .media, .mules, .wr] (A.MULE_LUN ch.val l.val :: cntRegs ch.val) d0 d))) ∧
  (∀ s (ch : Ch) (l : LunN) q w us i, Running s → TakenUp s.dev → (∀ k, k < 32 → (s.dev.lun ch.val k).queue = []) →
    Ends ch l q .timeout w us i s.dev → LunRuns ch.val l.val q s.dev → Settled ch.val s.dev → Alone q s.dev → q.r.op.val = 9 →
    Gives i s (fun d => d.lunOos ch.val l.val = true ∧ LunFree ch.val l.val d)) ∧
  (∀ s (ch : Ch) (l : LunN) q e res w us i, Running s → TakenUp s.dev → (∀ k, k < 32 → (s.dev.lun ch.val k).queue = []) →
    Ends ch l q res w us i s.dev → res ≠ .timeout →
    (s.dev.lun ch.val l.val).run = some q → (s.dev.lun ch.val l.val).susp = some e →
    Settled ch.val s.dev → Alone q s.dev → q.r.op.val ≠ 9 → s.dev.opClass ch.val q.r.op.val = 0 →
    Gives i s (fun d =>
      (d.lun ch.val l.val).run = some e ∧ (d.lun ch.val l.val).susp = none ∧
      d.fld (A.MULE_LUN ch.val l.val) 2 0 = stateOf (s.dev.opClass ch.val e.r.op.val) ∧
      Frame [.host, .media, .mules, .wr] (A.MULE_LUN ch.val l.val :: cntRegs ch.val) s.dev d)) ∧
  (∀ s (ch : Ch) (l : LunN), Running s → TakenUp s.dev → s.dev.refusal ch.val l.val (s.dev.op9 l.val).r = none →
    s.dev.muleGoes ch.val = true → SeqValid ch.val 9 s.dev →
    ((s.dev.lun ch.val l.val).run = none → (s.dev.lun ch.val l.val).susp = none →
      Gives (.lunResetRequest ch l) s (fun d =>
        (∃ x, (d.lun ch.val l.val).run = some x ∧ x.r.op.val = 9) ∧ d.rd (A.MULE_LUN ch.val l.val) = lunBegun ch.val 9 s.dev ∧
        Frame [.mules] [A.MULE_LUN ch.val l.val] s.dev d)) ∧
    (∀ e, (s.dev.lun ch.val l.val).run = some e → (s.dev.lun ch.val l.val).susp = none → s.dev.isPE ch.val e.r.op.val = true →
      Alone e s.dev →
      Gives (.lunResetRequest ch l) s (fun d =>
        (∃ x, (d.lun ch.val l.val).run = some x ∧ x.r.op.val = 9) ∧
        d.mules.done = s.dev.mules.done ++ [mkDone e ch.val l.val .aborted 0] ∧ Frame [.mules] [A.MULE_LUN ch.val l.val] s.dev d))) ∧
  (∀ s (ch : Ch) (l : LunN), Reach (A.MULE_LUN ch.val l.val) s → TakenUp s.dev →
    (s.dev.lunOos ch.val l.val = true → LunFree ch.val l.val s.dev →
      Gives (.restore ch l) s (fun d =>
        d.rd (A.MULE_LUN ch.val l.val) = 0 ∧ LunFree ch.val l.val d ∧ Frame [] [A.MULE_LUN ch.val l.val] s.dev d)) ∧
    (s.dev.lunOos ch.val l.val = false → Gives (.restore ch l) s (fun d => d = s.dev))) ∧
  (∀ s (ch : Ch) (l : LunN), Running s → TakenUp s.dev →
    let k := ch.val * 32 + l.val
    (SMap.find s.dev.media.oos k = none → ∀ pass, Gives (.lunRestoreRetry ch l pass) s (fun d => d = s.dev)) ∧
    (∀ n, SMap.find s.dev.media.oos k = some n →
      (LunFree ch.val l.val s.dev →
        Gives (.lunRestoreRetry ch l true) s (fun d =>
          SMap.find d.media.oos k = none ∧ d.lunOos ch.val l.val = false ∧
          Frame [.media] [A.MULE_LUN ch.val l.val] s.dev d)) ∧
      (n < 2 →
        Gives (.lunRestoreRetry ch l false) s (fun d =>
          SMap.find d.media.oos k = some (n + 1) ∧ d.rd (A.MULE_CNT ch.val 8) = s.dev.rd (A.MULE_CNT ch.val 8) + 1 ∧
          Frame [.media] [A.MULE_CNT ch.val 8] s.dev d)) ∧
      (2 ≤ n → Gives (.lunRestoreRetry ch l false) s (fun d => k ∈ d.media.failedLuns))))

/-! What the firmware does with the media (R37, R39, R123 to R133, R140 to R147, R153, R154, R404). -/

/-- R37, R39: where an LBA of a zone lies. No two LBAs of a zone share a sector, and none lies on a parity member of its row. -/
def Obligations.Placement : Prop :=
  (∀ (seven : Bool) o, o < zcap seven →
    let q := locate seven o
    q.row < 1024 ∧ q.slot < dataMembers seven ∧ q.pos < members seven ∧ q.plane < 4 ∧ q.cw < 4 ∧
      q.pos ≠ parityPos seven q.row ∧ (seven = false → q.pos ≠ parityPos seven q.row + 1)) ∧
  (∀ (seven : Bool) o p, o < zcap seven → p < zcap seven → locate seven o = locate seven p → o = p) ∧
  (∀ (d : Dev) (seven : Bool) g b o p, o < zcap seven → p < zcap seven → d.zoneKey seven g b o = d.zoneKey seven g b p → o = p) ∧
  (∀ (seven : Bool) T L g, 0 < T → 0 < L → g < groupCount seven T L →
    (∀ p, p < members seven → (memberOf seven T g p).1 < 64 ∧ (memberOf seven T g p).2.1 < T ∧ (memberOf seven T g p).2.2 < L) ∧
    (∀ p q, p < members seven → q < members seven → (memberOf seven T g p).1 = (memberOf seven T g q).1 → p = q))

/-- R85, R121 to R127, R129 to R132, R140 to R144: the patrol and its classes, the minute's samples, relocation, garbage
collection, wear levelling, retirement. -/
def Obligations.MediaWork : Prop :=
  (∀ s group lbn seven best finds, Running s → lbn < 16384 → group < 512 →
    (s.dev.goatTakes (rowKey seven group lbn) = false →
      Gives (.goatPatrolRead group lbn seven best finds) s (fun d => d = s.dev)) ∧
    (∀ i, s.dev.goatTakes (rowKey seven group lbn) = true → SMap.find s.dev.media.rows (rowKey seven group lbn) = some i →
      finds.any goatBad = false → best < 12 →
      Gives (.goatPatrolRead group lbn seven best finds) s (fun d =>
        (∃ j, SMap.find d.media.rows (rowKey seven group lbn) = some j ∧ j.cls = (if i.cls = 15 then 15 else best % 16) ∧
          j.meas = best % 16 ∧ j.swept = true ∧
          j.hot = false ∧ j.unknown = false ∧ j.inPass = true ∧ j.wear = i.wear ∧ j.age = i.age) ∧
        (i.cls ≠ 15 → best % 16 ≠ i.cls → ∀ m, m ∈ s.dev.rowLuns seven group → d.classOf m.1 m.2 lbn = best % 16) ∧
        Frame [.media, .mules] [] s.dev d)) ∧
    (∀ ix n, finds.any goatBad = true ∨ 12 ≤ best → s.dev.goatTakes (rowKey seven group lbn) = true →
      s.dev.zoneAt seven group lbn = some ix →
      s.dev.media.nss.find? (fun x => x.nsx == (s.dev.zd ix).nsx) = some n → n.zoned = true →
      Gives (.goatPatrolRead group lbn seven best finds) s (fun d =>
        ((s.dev.zd ix).nsx + 1, s.dev.zstart ix / zsze n.seven) ∈ d.media.refreshQ ∧
        (best < 12 → (∀ f ∈ finds, f.uncorr = false) → Frame [.media, .mules] [] s.dev d))) ∧
    (finds.any goatBad = false → best < 12 →
      Gives (.goatPatrolRead group lbn seven best finds) s (fun d =>
        d.media.refreshQ = s.dev.media.refreshQ ∧ Frame [.media, .mules] [] s.dev d))) ∧
  (∀ s, Running s →
    let last := s.dev.media.policy.days * 1440 ≤ s.dev.fw.pass + 1
    let late := s.dev.media.rows.any (fun e =>
      !e.2.inPass && !s.dev.media.skip.contains e.1 && decide (s.dev.media.policy.days * 1440 ≤ e.2.age + 1))
    let older := fun (r : Row) => if r.dirty then r else { r with dwell := r.dwell + 1 }
    Gives .tfSample s (fun d =>
      d.media.pool14 = s.dev.media.pool14.map older ∧ d.media.pool7 = s.dev.media.pool7.map older ∧
      d.media.uFree = s.dev.media.uFree.map older ∧ d.wr = { s.dev.wr with foldFree := s.dev.wr.foldFree.map older } ∧
      (∀ k i, SMap.find s.dev.media.rows k = some i →
        let ts := s.dev.rowTf (keyRow k).1 (keyRow k).2.1
        ∃ j, SMap.find d.media.rows k = some j ∧ j.age = i.age + 1 ∧ j.tfN = i.tfN + ts.length ∧ j.tfSum = i.tfSum + ts.sum ∧
          j.cls = rowClass s.dev.retTable (sampleRow i ts) ∧ j.wear = i.wear ∧ (j.inPass = true ↔ i.inPass = true ∧ ¬ last)) ∧
      d.fw = { s.dev.fw with pass := if last then 0 else s.dev.fw.pass + 1 } ∧
      d.media.passes = (if last then s.dev.media.passes + 1 else s.dev.media.passes) ∧
      d.media.overruns = (if last ∧ late = true then s.dev.media.overruns + 1 else s.dev.media.overruns) ∧
      (last → late = true → Recorded s.dev d 0x04FF (Config.evCode 11) 3 0) ∧ (¬ (last ∧ late = true) → d.cairn = s.dev.cairn) ∧
      d.media.wall = (if s.dev.media.wall = 0 then 0 else s.dev.media.wall + 60000) ∧
      Frame [.cairn, .fw, .media, .mules, .wr] [] s.dev d)) ∧
  (∀ s nsid zone n, Running s → s.dev.nsOf nsid = some n →
    (s.dev.fwFlag = true ∨ s.dev.tor.latch = true → Gives (.refreshRelocation nsid zone) s (fun d => d = s.dev)) ∧
    (∀ r, s.dev.fwFlag = false → s.dev.tor.latch = false → n.zoned = true → zone < n.nzones →
      let ix := n.base + zone
      let z := s.dev.zd ix
      (z.active = true ∨ z.st = zFull ∨ z.st = zRO) → s.dev.media.relocs.any (fun x => !x.conv && x.zone == ix) = false →
      s.dev.wr.groups.any (fun g => g.ix == ix && !g.failed) = false → s.dev.bestRow z.seven z.nsx = some r →
      (s.dev.emptyAt (s.dev.homeOf z.nsx) z.seven).length < (s.dev.poolAt (s.dev.homeOf z.nsx) z.seven).length →
      (r.stale = true → Gives (.refreshRelocation nsid zone) s (fun d =>
        d.media.relocs = s.dev.media.relocs ∧
        (r.dirty = false → d.media.eraseQ = s.dev.media.eraseQ ++ [{ r with dirty := true }]) ∧ Frame [.media] [] s.dev d)) ∧
      (r.stale = false → Gives (.refreshRelocation nsid zone) s (fun d =>
        d.media.relocs = s.dev.media.relocs ++
          [{ nsx := z.nsx, zone := ix, conv := false, src := s.dev.rowOf z.seven z.group z.lbn, dst := r, unit := 0, moved := []
             left := z.fp / groupLbas z.seven * members z.seven }] ∧
        (r.seven = true → d.media.pool7 = s.dev.media.pool7.filter (fun x => x != r)) ∧
        (r.seven = false → d.media.pool14 = s.dev.media.pool14.filter (fun x => x != r)) ∧
        (nsid, zone) ∉ d.media.refreshQ ∧ d.media.flash = s.dev.media.flash ∧ (∀ k, d.zd k = s.dev.zd k) ∧
        Frame [.media, .mules] [] s.dev d))) ∧
    (∀ p, s.dev.fwFlag = false → s.dev.tor.latch = false → n.zoned = false → s.dev.unitMoves n.nsx zone = false →
      (SMap.find s.dev.media.units (unitKey n.nsx zone)).isSome = true → SMap.find s.dev.media.curUnit (gcKey n.nsx) = some p →
      p % 2 ^ 18 + (s.dev.unitSectors n.nsx zone).length ≤ 229376 →
      Gives (.refreshRelocation nsid zone) s (fun d =>
        (∃ r, d.media.relocs = s.dev.media.relocs ++ [r] ∧ r.conv = true ∧ r.nsx = n.nsx ∧ r.unit = zone ∧ r.tgt = p / 2 ^ 18 ∧
          r.moved = s.dev.unitSectors n.nsx zone ∧ r.left = (r.moved.length + 895) / 896 * 16 ∧ r.failed = false) ∧
        Frame [.media, .host] [] s.dev d))) ∧
  (∀ s nsid n, Running s → s.dev.nsOf nsid = some n →
    (n.zoned = true ∨ n.reserve ≤ 2 * n.freeRu ∨ s.dev.fwFlag = true ∨ s.dev.tor.latch = true →
      Gives (.garbageCollection nsid) s (fun d => d = s.dev)) ∧
    (∀ u v p, n.zoned = false → 2 * n.freeRu < n.reserve → s.dev.fwFlag = false → s.dev.tor.latch = false →
      s.dev.victimUnit n.nsx = some (u, v) → (SMap.find s.dev.media.units (unitKey n.nsx u)).isSome = true →
      SMap.find s.dev.media.curUnit (gcKey n.nsx) = some p → p % 2 ^ 18 + (s.dev.unitSectors n.nsx u).length ≤ 229376 →
      (∀ e, e ∈ s.dev.media.units → e.1 / 2 ^ 21 = n.nsx → e.1 % 2 ^ 21 ≠ p / 2 ^ 18 → e.1 % 2 ^ 21 ∉ s.dev.curUnits n.nsx →
        s.dev.unitMoves n.nsx (e.1 % 2 ^ 21) = false → v ≤ e.2) ∧
      Gives (.garbageCollection nsid) s (fun d =>
        (∃ r, d.media.relocs = s.dev.media.relocs ++ [r] ∧ r.conv = true ∧ r.nsx = n.nsx ∧ r.unit = u ∧ r.tgt = p / 2 ^ 18 ∧
          r.at_ = p % 2 ^ 18 ∧ r.moved = s.dev.unitSectors n.nsx u ∧ r.credit = 229376 - v) ∧
        d.media.gcCredit = s.dev.media.gcCredit ∧ d.media.conv = s.dev.media.conv ∧
        Frame [.media, .host] [] s.dev d))) ∧
  (∀ s (ch : Ch), Running s →
    let ws := s.dev.chWear ch.val
    let spread := ws.foldl Nat.max 0 - ws.foldl Nat.min (ws.foldl Nat.max 0)
    let rated := s.dev.board.ratedQlc * s.dev.board.ratedSlc
    (10 * spread ≤ rated ∨ s.dev.fwFlag = true ∨ s.dev.tor.latch = true → Gives (.wearLevelling ch) s (fun d => d = s.dev)) ∧
    (∀ ix r, rated < 10 * spread → s.dev.fwFlag = false → s.dev.tor.latch = false → s.dev.coldest ch.val = some ix →
      s.dev.coldUnit ch.val = none → s.dev.copyable ix = true → s.dev.worstRow (s.dev.zd ix).seven (s.dev.zd ix).nsx = some r →
      (s.dev.emptyAt (s.dev.homeOf (s.dev.zd ix).nsx) (s.dev.zd ix).seven).length <
        (s.dev.poolAt (s.dev.homeOf (s.dev.zd ix).nsx) (s.dev.zd ix).seven).length →
      (∀ x, x ∈ s.dev.rowsFor (s.dev.zd ix).seven (s.dev.zd ix).nsx → s.dev.due x ≤ s.dev.due r) ∧
      (r.stale = false → Gives (.wearLevelling ch) s (fun d =>
        (∃ x, d.media.relocs = s.dev.media.relocs ++ [x] ∧ x.conv = false ∧ x.zone = ix ∧ x.dst = r) ∧ Frame [.media] [] s.dev d))) ∧
    (∀ u, rated < 10 * spread → s.dev.fwFlag = false → s.dev.tor.latch = false → s.dev.coldest ch.val = none →
      s.dev.coldUnit ch.val = some u →
      (∀ e ∈ s.dev.media.urow, ch.val ∈ groupChannels false (keyGroup e.2) → s.dev.unitMoves (e.1 / 2 ^ 21) (e.1 % 2 ^ 21) = false →
        s.dev.media.curUnit = [] → s.dev.rowAge e.2 ≤ s.dev.rowAge u.2) ∧
      Gives (.wearLevelling ch) s (fun d => d.media.relocs.length ≤ s.dev.media.relocs.length + 1 ∧
        (∀ x ∈ d.media.relocs, x ∉ s.dev.media.relocs → x.conv = true ∧ x.nsx = u.1 / 2 ^ 21 ∧ x.unit = u.1 % 2 ^ 21) ∧
        FrameParts [.media, .host, .pair, .tor, .pins, .cairn] [A.PAIR_CNT 0, A.SB_ALERTSRC] s.dev d))) ∧
  (∀ s (ch : Ch) (l : LunN) (plane : Fin 4) lbn, Running s → lbn < 16384 →
    let k := (ch.val * 32 + l.val) * 4 + plane.val
    let used := SMap.get (fun _ => 0) s.dev.media.spareUse k
    let busy := s.dev.media.spareCopies.any (fun c => c.ch == ch.val && c.l == l.val && c.plane == plane.val)
    let starts := s.dev.retireDue ch.val l.val plane.val lbn = true ∧ s.dev.tor.latch = false ∧ busy = false ∧
      SMap.find s.dev.media.oos (ch.val * 32 + l.val) = none
    (¬ starts → Gives (.blockRetirement ch l plane lbn) s (fun d => d = s.dev)) ∧
    (∀ new, starts → (s.dev.goodSpares ch.val l.val plane.val)[used]? = some new → used < s.dev.sparesOf → new < 16384 →
      let m := s.dev.copyPrograms ch.val l.val plane.val lbn
      let common := fun (d : Dev) =>
        SMap.get (fun _ => 0) d.media.spareUse k = used + 1 ∧ d.media.retired = s.dev.media.retired + 1 ∧
        Recorded s.dev d (0x0400 + ch.val) (Config.evCode 12) 3 (lbn + plane.val * 2 ^ 16 + l.val * 2 ^ 24) ∧
        FrameParts [.cairn, .host, .media, .mules, .pair, .wr, .tor, .pins] [A.PAIR_CNT 0, A.SB_ALERTSRC] s.dev d
      (m = 0 →
        Gives (.blockRetirement ch l plane lbn) s (fun d =>
          common d ∧ d.pblkOf ch.val l.val plane.val lbn = new ∧
          Journaled d (.remap ch.val l.val plane.val lbn (s.dev.pblkOf ch.val l.val plane.val lbn) new true) ∧
          (∀ g, g ∈ d.wr.groups → s.dev.grpOn g ch.val l.val lbn = true → g.failed = false))) ∧
      (m ≠ 0 →
        Gives (.blockRetirement ch l plane lbn) s (fun d =>
          common d ∧ d.pblkOf ch.val l.val plane.val lbn = s.dev.pblkOf ch.val l.val plane.val lbn ∧
          d.media.spareCopies = s.dev.media.spareCopies ++ [{ ch := ch.val, l := l.val, plane := plane.val, lbn := lbn, new := new, left := m }] ∧
          d.media.flash = s.dev.media.flash ∧ d.media.journal = s.dev.media.journal))) ∧
    (starts → s.dev.sparesOf ≤ used ∨ (s.dev.goodSpares ch.val l.val plane.val)[used]? = none →
      Gives (.blockRetirement ch l plane lbn) s (fun d =>
        d.media.retired = s.dev.media.retired + 1 ∧
        (∀ ix, (s.dev.zd ix).active = true → (s.dev.zd ix).lbn = lbn →
          s.dev.inGroup (s.dev.zd ix).seven (s.dev.zd ix).group ch.val l.val = true → (d.zd ix).active = false)))) ∧
  (∀ s, Running s →
    ((s.dev.media.relocs.find? Reloc.ready = none ∧ s.dev.media.spareCopies.find? (fun c => decide (c.left = 0)) = none) ∨
      s.dev.tor.latch = true → Gives .relocationCommit s (fun d => d = s.dev)) ∧
    (∀ c, s.dev.media.relocs.find? Reloc.ready = none → s.dev.media.spareCopies.find? (fun c => decide (c.left = 0)) = some c →
      s.dev.tor.latch = false → c.ch < 64 → c.l < 32 → c.plane < 4 → c.lbn < 16384 → c.new < 16384 →
      let k := (c.ch * 32 + c.l) * 4 + c.plane
      0 < SMap.get (fun _ => 0) s.dev.media.spareUse k → SMap.get (fun _ => 0) s.dev.media.spareUse k ≤ s.dev.sparesOf →
      let old := s.dev.pblkOf c.ch c.l c.plane c.lbn
      Gives .relocationCommit s (fun d =>
        d.pblkOf c.ch c.l c.plane c.lbn = c.new ∧ d.media.spareCopies = s.dev.media.spareCopies.erase c ∧
        Journaled d (.remap c.ch c.l c.plane c.lbn old c.new true) ∧
        (old ≠ c.new → ∀ p w x,
          SMap.find s.dev.media.flash (flashKey c.ch c.l old p c.plane w) = some x → w < 4 → p < 1024 →
          SMap.find d.media.flash (flashKey c.ch c.l c.new p c.plane w) = some x) ∧
        Frame [.media, .mules, .wr, .pair] [A.PAIR_CNT 0] s.dev d)) ∧
    (∀ r, s.dev.media.relocs.find? Reloc.ready = some r → s.dev.tor.latch = false → r.conv = false →
      let z := s.dev.zd r.zone
      z.nsx = r.nsx → z.seven = r.src.seven → z.group = r.src.group → z.lbn = r.src.lbn →
      (z.active = true ∨ z.st = zFull ∨ z.st = zRO) → z.fp ≤ zcap z.seven →
      (∀ o p, o < z.fp → p < z.fp →
        s.dev.zoneKey z.seven z.group z.lbn o ≠ s.dev.zoneKey z.seven r.dst.group r.dst.lbn p) →
      Gives .relocationCommit s (fun d =>
        d.zd r.zone = { z with group := r.dst.group % 256, lbn := r.dst.lbn % 16384 } ∧ (∀ k, k ≠ r.zone → d.zd k = s.dev.zd k) ∧
        (∀ o x, o < z.fp → SMap.find s.dev.media.flash (s.dev.zoneKey z.seven z.group z.lbn o) = some x →
          SMap.find d.media.flash (s.dev.zoneKey z.seven r.dst.group r.dst.lbn o) = some x ∧
          SMap.find d.media.flash (s.dev.zoneKey z.seven z.group z.lbn o) = some x) ∧
        Journaled d (.relocZ z.nsx r.zone z.group z.lbn r.dst.group r.dst.lbn) ∧
        (s.dev.readsOf r.zone = false → d.media.eraseQ = s.dev.media.eraseQ ++ [{ r.src with dirty := true }]) ∧
        (s.dev.readsOf r.zone = true → d.media.eraseQ = s.dev.media.eraseQ ∧ (r.zone, r.src) ∈ d.media.eraseHold) ∧
        d.media.relocs = s.dev.media.relocs.erase r ∧
        d.wr = { s.dev.wr with groups := s.dev.wr.groups.filter (fun g => !(g.failed && g.ix == r.zone)) } ∧
        Frame [.media, .mules, .wr, .pair] [A.PAIR_CNT 0] s.dev d)) ∧
    (∀ r, s.dev.media.relocs.find? Reloc.ready = some r → s.dev.tor.latch = false → r.conv = false → (s.dev.zd r.zone).lbn ≠ r.src.lbn →
      Gives .relocationCommit s (fun d =>
        d.media.eraseQ = s.dev.media.eraseQ ++ [{ r.dst with dirty := true }] ∧ d.media.relocs = s.dev.media.relocs.erase r ∧
        d.media.flash = s.dev.media.flash ∧ (∀ k, d.zd k = s.dev.zd k) ∧ d.media.journal = s.dev.media.journal ∧
        Frame [.media] [] s.dev d)) ∧
    (∀ r n, s.dev.media.relocs.find? Reloc.ready = some r → s.dev.tor.latch = false → r.conv = true →
      s.dev.media.nss.find? (fun x => x.nsx == r.nsx) = some n → MapGood n s.dev →
      (∀ e, e ∈ r.moved → e.1 / 2 ^ 40 = r.nsx) → (r.moved.map Prod.fst).Nodup → s.dev.wr.waiting = [] →
      Gives .relocationCommit s (fun d =>
        Journaled d (.relocC n.nsx r.unit [rowKey false r.dst.group r.dst.lbn] r.moved.length) ∧
        (∀ i e c, r.moved[i]? = some e → SMap.find s.dev.media.conv e.1 = some c → c.unit = r.unit → c.sec = e.2.sec →
          let p := r.tgt * 2 ^ 18 + r.at_ + i
          SMap.find d.media.conv e.1 = some { unit := p / 2 ^ 18, ofs := p % 2 ^ 18, sec := c.sec }) ∧
        (∀ k c, SMap.find s.dev.media.conv k = some c →
          (∀ e, e ∈ r.moved → e.1 = k → ¬ (c.unit = r.unit ∧ c.sec = e.2.sec)) → SMap.find d.media.conv k = some c) ∧
        SMap.get (fun _ => 0) d.media.gcCredit n.nsx = SMap.get (fun _ => 0) s.dev.media.gcCredit n.nsx +
          (if 4 * n.freeRu < n.reserve then r.credit else 0) ∧
        d.media.relocs = s.dev.media.relocs.erase r ∧ d.wr = s.dev.wr ∧
        FrameParts [.media, .pair, .tor, .pins, .cairn, .host] [A.PAIR_CNT 0, A.SB_ALERTSRC] s.dev d)))

/-- R140, R147, R153, R154, R226, R240, R404: checkpoints, and recovery in INIT. -/
def Obligations.CheckpointRecovery : Prop :=
  (∀ s, Running s →
    Gives .checkpoint s (fun d =>
      d.media.ckptZt = s.dev.media.zt ∧ d.media.ckptRows = s.dev.media.rows ∧ d.media.ckptSeq = s.dev.media.jseq ∧
      d.media.ckptHalf = !s.dev.media.ckptHalf) ∧
    (s.dev.wr.waiting = [] →
      Gives .checkpoint s (fun d =>
        (∃ r ∈ d.media.journal, r.seq = s.dev.media.jseq + 1 ∧
          r.body = .ckpt 0 0 (if s.dev.media.ckptHalf then 0x2000000 else 0x1800000) s.dev.media.jseq) ∧
        (∃ r ∈ d.media.journal, r.seq = s.dev.media.jseq + 2 ∧ r.body = .ckpt 2 0 0x2800000 s.dev.media.jseq) ∧
        (∀ x ∈ s.dev.mapSegs, ∃ r ∈ d.media.journal, ∃ a, r.body = .ckpt 1 (x.1 * 2 ^ 20 + x.2 % 2 ^ 20) a s.dev.media.jseq) ∧
        d.media.jseq = s.dev.media.jseq + 2 + s.dev.mapSegs.length ∧
        d.media.zt = s.dev.media.zt ∧ (s.dev.tees = false → d.pair = s.dev.pair) ∧
        Frame [.media, .pair, .free] [A.PAIR_CNT 0] s.dev d))) ∧
  (∀ s ok bad gone segs, Running s →
    s.dev.fw.mode ≠ .init ∨ s.dev.fw.replayed = true ∨ s.dev.fw.cfgSlot = 2 ∨ s.dev.fw.calValid = false →
    Gives (.recovery ok bad gone segs) s (fun d => d = s.dev)) ∧
  (∀ s ok bad gone segs, Running s → s.dev.fw.mode = .init → s.dev.fw.replayed = false → s.dev.fw.cfgSlot ≠ 2 →
    s.dev.fw.calValid = true →
    let js := s.dev.media.journal.takeWhile s.dev.recordCounts
    Gives (.recovery ok bad gone segs) s (fun d =>
      d.fw.replayed = true ∧ (JournalOk s.dev → ∃ r n k, r ∈ d.media.journal ∧ r.body = .initdone n k) ∧
      d.wr.flushArea = [] ∧ d.wr.flushPeer = [] ∧
      d.mules.loaded = List.range 64 ∧ d.bit A.PEN_CTL 0 = true ∧
      (∀ ch, ch < 64 → s.dev.partMatches ch = true → d.bit (A.MULE_STAT ch) 0 = true)) ∧
    (s.dev.hasPair = true → s.dev.fenceIn = true →
      Gives (.recovery ok bad gone segs) s (fun d =>
        d.fw.mode = .init ∧ d.fw.fencedInit = true ∧ d.fw.transit = false ∧ d.wr.entries = [] ∧ d.wr.mirror = [])) ∧
    (s.dev.hasPair = false →
      Gives (.recovery ok bad gone segs) s (fun d =>
        d.fw.role = .solo ∧ (d.fw.mode = .solo ∨ d.fw.mode = .readonly) ∧ d.fw.transit = false)) ∧
    (s.dev.fenceIn = false → orderBad s.dev.zoneSeven { used := [], freed := [] } js = true →
      Gives (.recovery ok bad gone segs) s (fun d => d.fw.mode = .readonly ∧ d.fw.role = .solo ∧ d.fw.transit = false)) ∧
    (js = [] →
      Gives (.recovery ok bad gone segs) s (fun d =>
        d.pens.recs = [(0, { r := s.dev.pen0, gen := 1, enabled := true })] ∧ d.bit (A.PEN_STAT 0) 0 = true ∧
        (∃ r k n, r ∈ d.media.journal ∧ r.body = .ckpt 0 0 k n) ∧
        d.media.firstSpares = 256 * s.dev.board.targets * s.dev.board.luns * s.dev.sparesOf)) ∧
    (js ≠ [] → js = s.dev.media.journal → s.dev.hasPair = true → s.dev.fenceIn = false →
      orderBad s.dev.zoneSeven { used := [], freed := [] } js = false → s.dev.wr.groups = [] → s.dev.media.relocs = [] →
      (∀ e, e ∈ s.dev.replayed segs → (Zd.ofWord e.2).active = false) →
      Gives (.recovery ok bad gone segs) s (fun d =>
        d.media.zt = s.dev.replayed segs ∧
        (gone = [] → d.wr.entries.length =
          (if ok = true ∧ (s.dev.wr.entries ≠ [] ∨ s.dev.wr.mirror ≠ []) then s.dev.wr.entries.length else s.dev.wr.flushArea.length)) ∧
        (∀ e, e ∈ d.wr.entries → e.acked = true ∧ e.complete = true ∧ e.held = false))))

/-! Cirque (R277 to R291). -/

/-- R22, R277 to R279, R282, R288 to R290: programs of Cirque, by register and by the FIFO port. -/
def Obligations.CirquePrograms : Prop :=
  (∀ s ainc, Reach A.CIRQUE_PCMD s →
    let w := s.dev.fld A.CIRQUE_PADDR 26 5
    (s.dev.cqActive = false ∨ s.dev.bit A.CIRQUE_PCMD 12 = true →
      Gives (.cirqueProgramGo ainc) s (fun d =>
        d.bit A.CIRQUE_PCMD 1 = ainc ∧ d.bit A.CIRQUE_PCMD 12 = s.dev.bit A.CIRQUE_PCMD 12 ∧ Frame [] [A.CIRQUE_PCMD] s.dev d)) ∧
    (s.dev.cqActive = true → s.dev.bit A.CIRQUE_PCMD 12 = false → s.dev.cirque.prog = none →
      (s.dev.progRefusal w = none →
        Gives (.cirqueProgramGo ainc) s (fun d =>
          d.cirque.prog = some { word := w, data := s.dev.pdata, fifo := false } ∧ d.cirque.words = s.dev.cirque.words ∧
          d.bit A.CIRQUE_STAT 2 = true ∧ d.bit A.CIRQUE_PCMD 12 = true ∧ d.bit A.CIRQUE_PCMD 1 = ainc ∧
          (s.dev.fld (A.CIRQUE_ESTAT (bankOf w)) 1 0 = 1 → s.dev.fld (A.CIRQUE_ESTAT (bankOf w)) 15 8 < 100 →
            d.fld (A.CIRQUE_ESTAT (bankOf w)) 1 0 = 2) ∧
          Frame [.cirque, .free] [A.CIRQUE_PCMD, A.CIRQUE_STAT, A.CIRQUE_ESTAT (bankOf w), A.CIRQUE_CNT 5] s.dev d)) ∧
      (∀ r, s.dev.progRefusal w = some r → s.dev.cirque.fifo.length < 4 → s.dev.bit A.CIRQUE_STAT 1 = false →
        Gives (.cirqueProgramGo ainc) s (fun d =>
          d.bit A.CIRQUE_PCMD 12 = false ∧ d.fld A.CIRQUE_PCMD 6 4 = r ∧ d.fld A.CIRQUE_PCMD 11 8 = s.dev.fld A.CIRQUE_PCMD 11 8 ∧
          d.fld A.CIRQUE_PADDR 26 5 = (if ainc then (w + 1) % 2 ^ 22 else w) ∧
          d.rd (A.CIRQUE_CNT 4) = (if r = 3 then s.dev.rd (A.CIRQUE_CNT 4) + 1 else s.dev.rd (A.CIRQUE_CNT 4)) ∧
          d.cirque = s.dev.cirque ∧ Frame [.free] [A.CIRQUE_PCMD, A.CIRQUE_STAT, A.CIRQUE_PADDR, A.CIRQUE_CNT 4] s.dev d)))) ∧
  (∀ s corr, Running s →
    (s.dev.cirque.prog = none → Gives (.cirqueProgramEnd corr) s (fun d => d = s.dev)) ∧
    (∀ p, s.dev.cirque.prog = some p → s.dev.fld (A.CIRQUE_ESTAT (bankOf p.word)) 1 0 = 1 → s.dev.erasing (sectorOf p.word) = false →
      Gives (.cirqueProgramEnd corr) s (fun d => d = s.dev)) ∧
    (∀ p, s.dev.cirque.prog = some p → s.dev.fld (A.CIRQUE_ESTAT (bankOf p.word)) 1 0 ≠ 1 → s.dev.erasing (sectorOf p.word) = false →
      s.dev.cirque.fifo.length < 4 → s.dev.bit A.CIRQUE_STAT 1 = false →
      (p.fifo = false →
        Gives (.cirqueProgramEnd corr) s (fun d =>
          d.cirque.prog = none ∧ SMap.find d.cirque.words p.word = some p.data ∧
          (∀ w, w ≠ p.word → SMap.find d.cirque.words w = SMap.find s.dev.cirque.words w) ∧
          d.rd (A.CIRQUE_CNT 2) = s.dev.rd (A.CIRQUE_CNT 2) + 1 ∧
          d.rd (A.CIRQUE_CNT 0) = (if corr ≤ 3 then s.dev.rd (A.CIRQUE_CNT 0) + BitVec.ofNat 64 corr else s.dev.rd (A.CIRQUE_CNT 0)) ∧
          d.rd (A.CIRQUE_CNT 1) = (if corr ≤ 3 then s.dev.rd (A.CIRQUE_CNT 1) else s.dev.rd (A.CIRQUE_CNT 1) + 1) ∧
          (s.dev.bit A.CIRQUE_PCMD 12 = true →
            d.bit A.CIRQUE_PCMD 12 = false ∧ d.fld A.CIRQUE_PCMD 6 4 = (if corr ≤ 1 then 0 else if corr ≤ 3 then 1 else 2) ∧
            d.fld A.CIRQUE_PCMD 11 8 = Nat.min corr 15 ∧
            d.fld A.CIRQUE_PADDR 26 5 = (if s.dev.bit A.CIRQUE_PCMD 1 then (s.dev.fld A.CIRQUE_PADDR 26 5 + 1) % 2 ^ 22 else s.dev.fld A.CIRQUE_PADDR 26 5)) ∧
          (2 ≤ corr → 0x1500 ≤ sectorOf p.word → sectorOf p.word ∈ d.cirque.retired) ∧
          Frame [.cairn, .cirque, .ox] [A.CIRQUE_PCMD, A.CIRQUE_PADDR, A.CIRQUE_STAT, A.CIRQUE_CNT 0, A.CIRQUE_CNT 1, A.CIRQUE_CNT 2, A.CIRQUE_CORR_LAST] s.dev d)) ∧
      (p.fifo = true → corr ≤ 3 → s.dev.bit A.CIRQUE_PCMD 12 = false →
        Gives (.cirqueProgramEnd corr) s (fun d =>
          d.cirque.prog = none ∧ SMap.find d.cirque.words p.word = some p.data ∧ d.cirque.fifo = s.dev.cirque.fifo ∧
          d.fld A.CIRQUE_PADDR 26 5 = (s.dev.fld A.CIRQUE_PADDR 26 5 + 1) % 2 ^ 22 ∧
          Frame [.cairn, .cirque, .ox] [A.CIRQUE_PADDR, A.CIRQUE_STAT, A.CIRQUE_CNT 0, A.CIRQUE_CNT 2, A.CIRQUE_CORR_LAST] s.dev d)) ∧
      (p.fifo = true → 3 < corr → s.dev.bit A.CIRQUE_PCMD 12 = false →
        Gives (.cirqueProgramEnd corr) s (fun d =>
          d.bit A.CIRQUE_STAT 3 = true ∧ d.cirque.fifo = [] ∧ d.cirque.prog = none ∧
          (∀ n, n < 32 → s.dev.oxState n = 1 → (s.dev.oxAct n).req = 1 → n ∉ s.dev.ox.flight → d.oxState n = 3))))) ∧
  (∀ s x, Reach A.CIRQUE_PFIFO s →
    (s.dev.cqActive = false ∨ s.dev.bit A.CIRQUE_STAT 3 = true →
      Gives (.pfifoWrite x) s (fun d => d.cirque = s.dev.cirque ∧ Frame [.ox] [] s.dev d)) ∧
    (s.dev.cqActive = true → s.dev.bit A.CIRQUE_STAT 3 = false → s.dev.bit A.CIRQUE_PCMD 12 = false → s.dev.cirque.prog = none →
      s.dev.bit A.CIRQUE_STAT 1 = false →
      (s.dev.cirque.fifo.length < 3 →
        Gives (.pfifoWrite x) s (fun d =>
          d.cirque = { s.dev.cirque with fifo := s.dev.cirque.fifo ++ [x] } ∧ Frame [.cirque, .ox] [A.CIRQUE_STAT] s.dev d)) ∧
      (∀ a b c, s.dev.cirque.fifo = [a, b, c] → s.dev.progRefusal (s.dev.fld A.CIRQUE_PADDR 26 5) = none →
        Gives (.pfifoWrite x) s (fun d =>
          d.cirque.prog = some { word := s.dev.fld A.CIRQUE_PADDR 26 5, data := x ++ c ++ b ++ a, fifo := true } ∧
          d.cirque.fifo = [] ∧ d.bit A.CIRQUE_STAT 2 = true ∧ d.rd A.CIRQUE_PADDR = s.dev.rd A.CIRQUE_PADDR))))

/-- R277, R280 to R285, R289, R290: erases of Cirque and their suspension, reads through the window, the OTP and factory rows,
the enable. -/
def Obligations.CirqueErasesAndRows : Prop :=
  (∀ s (b : BankN) addr, Reach (A.CIRQUE_ECMD b.val) s →
    let sec := addr / 4096 % 2 ^ 15
    let st := s.dev.fld (A.CIRQUE_ESTAT b.val) 1 0
    let n := s.dev.fld (A.CIRQUE_ESTAT b.val) 15 8
    (sec / 4096 = b.val → st = 0 → s.dev.cqActive = true →
      Gives (.cirqueEraseGo b addr) s (fun d =>
        d.fld (A.CIRQUE_ECMD b.val) 26 12 = sec ∧ d.fld (A.CIRQUE_ESTAT b.val) 1 0 = 1 ∧ d.fld (A.CIRQUE_ESTAT b.val) 15 8 = 0 ∧
        d.bit A.CIRQUE_STAT (8 + b.val) = true ∧ d.rd (A.CIRQUE_CNT 3) = s.dev.rd (A.CIRQUE_CNT 3) + 1 ∧
        d.rd A.CIRQUE_ERS_LAST = BitVec.ofNat 64 (sec * 4096) ∧ d.erasing sec = true ∧ d.cirque.words = s.dev.cirque.words ∧
        Frame [.cirque] [A.CIRQUE_ECMD b.val, A.CIRQUE_ESTAT b.val, A.CIRQUE_STAT, A.CIRQUE_CNT 3, A.CIRQUE_ERS_LAST] s.dev d)) ∧
    (sec / 4096 ≠ b.val ∨ st ≠ 0 ∨ s.dev.cqActive = false →
      Gives (.cirqueEraseGo b addr) s (fun d =>
        d.bit (A.CIRQUE_ESTAT b.val) 4 = true ∧ d.fld (A.CIRQUE_ESTAT b.val) 1 0 = st ∧
        Frame [] [A.CIRQUE_ECMD b.val, A.CIRQUE_ESTAT b.val] s.dev d)) ∧
    (st = 1 → n < 100 →
      Gives (.cirqueEraseSuspend b) s (fun d =>
        d.fld (A.CIRQUE_ESTAT b.val) 1 0 = 2 ∧ d.fld (A.CIRQUE_ESTAT b.val) 15 8 = n + 1 ∧ d.bit A.CIRQUE_STAT (16 + b.val) = true ∧
        d.rd (A.CIRQUE_CNT 5) = s.dev.rd (A.CIRQUE_CNT 5) + 1 ∧
        Frame [.cirque] [A.CIRQUE_ESTAT b.val, A.CIRQUE_STAT, A.CIRQUE_CNT 5] s.dev d)) ∧
    (st = 0 ∨ (st = 1 ∧ 100 ≤ n) → Gives (.cirqueEraseSuspend b) s (fun d => d = s.dev)) ∧
    (st = 2 → SMap.get (fun _ => 0) s.dev.cirque.why b.val = 2 →
      Gives (.cirqueEraseResume b) s (fun d =>
        d.fld (A.CIRQUE_ESTAT b.val) 1 0 = 1 ∧ d.bit A.CIRQUE_STAT (16 + b.val) = false ∧ d.fld (A.CIRQUE_ESTAT b.val) 15 8 = n ∧
        Frame [.cirque] [A.CIRQUE_ESTAT b.val, A.CIRQUE_STAT] s.dev d)) ∧
    (st ≠ 2 → Gives (.cirqueEraseResume b) s (fun d => d = s.dev))) ∧
  (∀ s (b : BankN), Running s →
    let st := s.dev.fld (A.CIRQUE_ESTAT b.val) 1 0
    (st = 2 → SMap.get (fun _ => 0) s.dev.cirque.why b.val = 1 →
      Gives (.cirqueIdleResume b) s (fun d =>
        d.fld (A.CIRQUE_ESTAT b.val) 1 0 = 1 ∧ d.bit A.CIRQUE_STAT (16 + b.val) = false ∧
        Frame [.cirque] [A.CIRQUE_ESTAT b.val, A.CIRQUE_STAT] s.dev d)) ∧
    (st = 2 → SMap.get (fun _ => 0) s.dev.cirque.why b.val ≠ 1 → Gives (.cirqueIdleResume b) s (fun d => d = s.dev)) ∧
    (∀ sec fail, SMap.find s.dev.cirque.esec b.val = some sec → sec / 4096 = b.val →
      (st ≠ 1 → Gives (.cirqueEraseEnd b fail) s (fun d => d = s.dev)) ∧
      (st = 1 →
        Gives (.cirqueEraseEnd b fail) s (fun d =>
          d.fld (A.CIRQUE_ESTAT b.val) 1 0 = 0 ∧ d.bit (A.CIRQUE_ESTAT b.val) 2 = true ∧ (fail = true → d.bit (A.CIRQUE_ESTAT b.val) 3 = true) ∧
          d.bit A.CIRQUE_STAT (8 + b.val) = false ∧ d.erasing sec = false ∧
          (∀ w, sectorOf w = sec → SMap.find d.cirque.words w = none) ∧
          (∀ w, sectorOf w ≠ sec → SMap.find d.cirque.words w = SMap.find s.dev.cirque.words w) ∧
          (sec ∈ d.cirque.cut ↔ fail = true) ∧ (s.dev.fld A.CIRQUE_ERS_LAST 26 12 = sec → d.bit A.CIRQUE_ERS_LAST 0 = true) ∧
          Frame [.cirque] [A.CIRQUE_ESTAT b.val, A.CIRQUE_STAT, A.CIRQUE_ERS_LAST] s.dev d)))) ∧
  (∀ s who w corr, Running s → w < 2 ^ 22 →
    let a := 0x0100000000 + 32 * w
    let b := bankOf w
    (∀ e n m, who = .core n m → s.dev.accessErr who a false = some e →
      Gives (.cirqueWindowRead who w corr) s (fun d =>
        SMap.get (fun _ => 0) d.cores.syn n.val = synAfter (SMap.get (fun _ => 0) s.dev.cores.syn n.val) a false e ∧
        Recorded s.dev d 0x0A00 e.code e.sev (a + reqrNum who * 2 ^ 64) ∧ Frame [.cairn, .cores] [A.CAIRN_HWDROP] s.dev d)) ∧
    (s.dev.accessErr who a false = none → sectorOf w ∉ s.dev.cirque.cut →
      (SMap.find s.dev.cirque.words w = none →
        Gives (.cirqueWindowRead who w corr) s (fun d =>
          d.cirque.win = BitVec.allOnes 256 ∧ d.cirque.words = s.dev.cirque.words ∧
          Frame [.cirque] [A.CIRQUE_ESTAT b, A.CIRQUE_STAT, A.CIRQUE_CNT 5] s.dev d)) ∧
      (∀ x, SMap.find s.dev.cirque.words w = some x → corr ≤ 3 →
        Gives (.cirqueWindowRead who w corr) s (fun d =>
          d.cirque.win = x ∧ d.cirque.words = s.dev.cirque.words ∧
          d.rd (A.CIRQUE_CNT 0) = s.dev.rd (A.CIRQUE_CNT 0) + BitVec.ofNat 64 corr ∧
          (0 < corr → d.rd A.CIRQUE_CORR_LAST = BitVec.ofNat 64 (2 ^ 63 + corr * 2 ^ 32 + w * 32)) ∧
          Frame [.cirque] [A.CIRQUE_ESTAT b, A.CIRQUE_STAT, A.CIRQUE_CNT 5, A.CIRQUE_CNT 0, A.CIRQUE_CORR_LAST] s.dev d)) ∧
      (∀ x, SMap.find s.dev.cirque.words w = some x → 3 < corr →
        Gives (.cirqueWindowRead who w corr) s (fun d =>
          d.rd (A.CIRQUE_CNT 1) = s.dev.rd (A.CIRQUE_CNT 1) + 1 ∧ d.cirque.words = s.dev.cirque.words ∧ d.cirque.win = s.dev.cirque.win ∧
          Recorded s.dev d 0x0A00 3 5 (a + reqrNum who * 2 ^ 64)))) ∧
    (s.dev.accessErr who a false = none → sectorOf w ∈ s.dev.cirque.cut →
      Gives (.cirqueWindowRead who w corr) s (fun d => d.cirque.words = s.dev.cirque.words ∧ d.free = s.dev.free + 1))) ∧
  (∀ s (w : Fin 64), Reach A.CIRQUE_OTP_CMD s →
    let addr := [A.CIRQUE_OTP_ADDR, A.CIRQUE_OTP_CMD]
    Gives (.otpRead w) s (fun d =>
      d.rd A.CIRQUE_OTP_ADDR = BitVec.ofNat 64 w.val ∧ d.fld A.CIRQUE_OTP_CMD 6 4 = 0 ∧
      (∀ i, i < 4 → d.rd (A.CIRQUE_OTP_DATA i) =
        if w = 2 ∨ ((w = 3 ∨ w = 4) ∧ s.dev.bit A.CIRQUE_CTL 1 = true) then 0 else (s.dev.otpWord w.val).extractLsb' (64 * i) 64) ∧
      Frame [] (addr ++ (List.range 4).map A.CIRQUE_OTP_DATA) s.dev d) ∧
    (∀ corr,
      (s.dev.cqActive = false → Gives (.otpProgram w corr) s (fun d => Frame [] [A.CIRQUE_OTP_ADDR] s.dev d)) ∧
      (s.dev.cqActive = true → s.dev.otpLocked w.val = true →
        Gives (.otpProgram w corr) s (fun d => d.fld A.CIRQUE_OTP_CMD 6 4 = 5 ∧ Frame [] addr s.dev d)) ∧
      (s.dev.cqActive = true → s.dev.otpLocked w.val = false → (SMap.find s.dev.cirque.otp w.val).isSome = true →
        Gives (.otpProgram w corr) s (fun d =>
          d.fld A.CIRQUE_OTP_CMD 6 4 = 3 ∧ d.rd (A.CIRQUE_CNT 4) = s.dev.rd (A.CIRQUE_CNT 4) + 1 ∧ Frame [] (A.CIRQUE_CNT 4 :: addr) s.dev d)) ∧
      (s.dev.cqActive = true → s.dev.otpLocked w.val = false → SMap.find s.dev.cirque.otp w.val = none →
        Gives (.otpProgram w corr) s (fun d =>
          d.fld A.CIRQUE_OTP_CMD 6 4 = (if corr ≤ 1 then 0 else if corr ≤ 3 then 1 else 2) ∧ d.otpWord w.val = s.dev.pdata ∧
          (∀ v, v ≠ w.val → d.otpWord v = s.dev.otpWord v) ∧ d.rd (A.CIRQUE_CNT 2) = s.dev.rd (A.CIRQUE_CNT 2) + 1 ∧
          (corr ≤ 3 → d.rd (A.CIRQUE_CNT 0) = s.dev.rd (A.CIRQUE_CNT 0) + BitVec.ofNat 64 corr) ∧
          (3 < corr → d.rd (A.CIRQUE_CNT 1) = s.dev.rd (A.CIRQUE_CNT 1) + 1) ∧
          d.cirque.words = s.dev.cirque.words ∧
          Frame [.cirque] ((if corr ≤ 3 then A.CIRQUE_CNT 0 else A.CIRQUE_CNT 1) :: A.CIRQUE_CNT 2 :: addr) s.dev d)))) ∧
  (∀ s (w : Fin 32), Reach A.CIRQUE_FROW_ADDR s →
    Gives (.frowRead w) s (fun d =>
      d.rd A.CIRQUE_FROW_ADDR = BitVec.ofNat 64 w.val ∧
      (∀ i, i < 4 → d.rd (A.CIRQUE_FROW_DATA i) =
        if s.dev.board.compat then (SMap.get (fun _ => BitVec.allOnes 256) s.dev.cirque.frow w.val).extractLsb' (64 * i) 64 else 0) ∧
      Frame [] (A.CIRQUE_FROW_ADDR :: (List.range 4).map A.CIRQUE_FROW_DATA) s.dev d)) ∧
  (∀ s, Reach A.CIRQUE_CTL s →
    Gives .otphide s (fun d =>
      d.bit A.CIRQUE_CTL 1 = true ∧ d.bit A.CIRQUE_CTL 0 = s.dev.bit A.CIRQUE_CTL 0 ∧ Frame [] [A.CIRQUE_CTL] s.dev d) ∧
    (s.dev.bit A.CIRQUE_STAT 1 = false →
      Gives (.cirqueCtlEnWrite true) s (fun d =>
        d.bit A.CIRQUE_CTL 0 = true ∧ d.bit A.CIRQUE_STAT 0 = true ∧ Frame [] [A.CIRQUE_CTL, A.CIRQUE_STAT] s.dev d)) ∧
    (s.dev.bit A.CIRQUE_STAT 1 = true →
      Gives (.cirqueCtlEnWrite true) s (fun d =>
        d.bit A.CIRQUE_CTL 0 = true ∧ d.cirque = { s.dev.cirque with heldEn := true } ∧ Frame [.cirque] [A.CIRQUE_CTL] s.dev d)) ∧
    Gives (.cirqueCtlEnWrite false) s (fun d =>
      d.bit A.CIRQUE_CTL 0 = false ∧ d.bit A.CIRQUE_CTL 1 = s.dev.bit A.CIRQUE_CTL 1 ∧ d.bit A.CIRQUE_STAT 0 = false ∧
      d.cirque.heldEn = false ∧ (s.dev.cirque.esec ≠ [] ∨ s.dev.cirque.prog ≠ none → d.bit A.CIRQUE_STAT 1 = true) ∧
      (∀ b, b < 8 → s.dev.fld (A.CIRQUE_ESTAT b) 1 0 = 2 → SMap.get (fun _ => 0) s.dev.cirque.why b ∈ [1, 2] →
        d.fld (A.CIRQUE_ESTAT b) 1 0 = 1) ∧
      Frame [.cirque] ([A.CIRQUE_CTL, A.CIRQUE_STAT] ++ bankRegs) s.dev d))

/-! Ox (R304 to R315). -/

/-- R304 to R311, R313, R315: the channels of Ox. -/
def Obligations.OxChannels : Prop :=
  (∀ s (n : OxN), Reach (A.OX_CMD n.val) s →
    let sh := s.dev.oxShadow n.val
    (s.dev.oxGood sh = false →
      Gives (.oxGo n) s (fun d =>
        d.bit (A.OX_STAT n.val) 10 = true ∧ d.bit A.OX_ERRST n.val = true ∧ (sh.core, 0x0B00 + n.val) ∈ d.cores.irqs ∧
        Frame [.cores] [A.OX_STAT n.val, A.OX_ERRST] s.dev d)) ∧
    (s.dev.oxGood sh = true → s.dev.oxActive = false ∨ s.dev.oxState n.val = 1 →
      Gives (.oxGo n) s (fun d => d.bit (A.OX_STAT n.val) 9 = true ∧ Frame [] [A.OX_STAT n.val] s.dev d)) ∧
    (s.dev.oxGood sh = true → s.dev.oxActive = true → s.dev.oxState n.val ≠ 1 →
      Gives (.oxGo n) s (fun d =>
        d.oxAct n.val = sh ∧ d.oxState n.val = 1 ∧ d.bit (A.OX_STAT n.val) 9 = false ∧ d.rd (A.OX_DONE n.val) = 0 ∧
        d.rd (A.OX_ASRC n.val) = s.dev.rd (A.OX_SRC n.val) ∧ d.rd (A.OX_ADST n.val) = s.dev.rd (A.OX_DST n.val) ∧
        Frame [.ox] [A.OX_STAT n.val, A.OX_DONE n.val, A.OX_ASRC n.val, A.OX_ADST n.val] s.dev d)) ∧
    (s.dev.oxState n.val ≠ 1 → Gives (.oxStop n) s (fun d => d = s.dev)) ∧
    (s.dev.oxState n.val = 1 → n.val ∈ s.dev.ox.flight →
      Gives (.oxStop n) s (fun d => n.val ∈ d.ox.stopping ∧ d.ox.flight = s.dev.ox.flight ∧ Frame [.ox] [] s.dev d)) ∧
    (s.dev.oxState n.val = 1 → n.val ∉ s.dev.ox.flight →
      Gives (.oxStop n) s (fun d =>
        d.oxState n.val = 5 ∧ d.rd (A.OX_DONE n.val) = s.dev.rd (A.OX_DONE n.val) ∧ Frame [.ox] [A.OX_STAT n.val] s.dev d))) ∧
  (∀ s, Reach A.OX_CTL s →
    (s.dev.bit A.OX_GSTAT 1 = true →
      Gives (.oxCtlEnWrite true) s (fun d =>
        d.bit A.OX_CTL 0 = true ∧ d.ox = { s.dev.ox with heldEn := true } ∧ Frame [.ox] [A.OX_CTL] s.dev d)) ∧
    (s.dev.bit A.OX_GSTAT 1 = false → s.dev.oxActive = true →
      Gives (.oxCtlEnWrite true) s (fun d => d.bit A.OX_CTL 0 = true ∧ Frame [] [A.OX_CTL] s.dev d)) ∧
    (s.dev.bit A.OX_GSTAT 1 = false → s.dev.oxActive = false →
      Gives (.oxCtlEnWrite true) s (fun d =>
        d.bit A.OX_CTL 0 = true ∧ d.oxActive = true ∧
        (∀ n, n < 32 → s.dev.bit (A.OX_STAT n) 9 = true → s.dev.oxState n = 0 ∨ s.dev.oxState n = 2 →
          d.oxState n = 1 ∧ d.oxAct n = s.dev.oxShadow n) ∧
        (∀ n, n < 32 → s.dev.bit (A.OX_STAT n) 9 = false ∨ (s.dev.oxState n ≠ 0 ∧ s.dev.oxState n ≠ 2) →
          d.rd (A.OX_STAT n) = s.dev.rd (A.OX_STAT n)))) ∧
    Gives (.oxCtlEnWrite false) s (fun d =>
      d.bit A.OX_CTL 0 = false ∧ d.oxActive = false ∧ d.bit A.OX_GSTAT 1 = !s.dev.ox.flight.isEmpty ∧ d.ox.heldEn = false ∧
      (∀ n, n < 32 → s.dev.oxState n = 1 → n ∉ s.dev.ox.flight → d.oxState n = 5) ∧
      (∀ n, n < 32 → s.dev.oxState n = 1 → n ∈ s.dev.ox.flight → d.oxState n = 1 ∧ n ∈ d.ox.stopping) ∧
      Frame [.ox] ([A.OX_CTL, A.OX_GSTAT] ++ (List.range 32).map A.OX_STAT) s.dev d)) ∧
  (∀ s (line : Byte), Running s →
    (s.dev.oxActive = false ∨ s.dev.ox.flight ≠ [] →
      Gives (.peripheralRequest line) s (fun d =>
        line.toNat ∈ d.ox.lines ∧ d.ox.flight = s.dev.ox.flight ∧ Frame [.ox] [] s.dev d)) ∧
    (∀ n, n < 32 → s.dev.oxActive = true → s.dev.ox.flight = [] → s.dev.ox.stopping = [] → s.dev.oxState n = 1 →
      (s.dev.oxAct n).req = line.toNat → (∀ m, m < 32 → m ≠ n → s.dev.oxState m ≠ 1) →
      Gives (.peripheralRequest line) s (fun d => d.ox.flight = [n] ∧ line.toNat ∉ d.ox.lines ∧ Frame [.ox] [] s.dev d)) ∧
    Gives (.requestWithdrawal line) s (fun d =>
      (∀ n, n < 32 → s.dev.oxState n = 1 → (s.dev.oxAct n).req = line.toNat → n ∉ s.dev.ox.flight →
        d.oxState n = 3 ∧ d.bit A.OX_ERRST n = true) ∧
      (∀ n, n < 32 → s.dev.oxState n = 1 → (s.dev.oxAct n).req = line.toNat → n ∈ s.dev.ox.flight →
        d.oxState n = 1 ∧ n ∈ d.ox.wdraw) ∧
      (∀ n, n < 32 → s.dev.oxState n = 1 → (s.dev.oxAct n).req ≠ line.toNat → d.oxState n = 1) ∧ line.toNat ∉ d.ox.lines)) ∧
  (∀ s (n : OxN) err moved hit, Running s →
    let st := s.dev.oxAct n.val
    let old := s.dev.fld (A.OX_DONE n.val) 27 0
    let len := Nat.min (256 - (st.src + old) % 256) (st.len - old)
    (s.dev.ox.flight ≠ [n.val] → Gives (.oxBurstComplete n err moved hit) s (fun d => d = s.dev)) ∧
    (s.dev.ox.flight = [n.val] → st.req = 0 → st.mode = 0 → old < st.len → st.len < 2 ^ 28 →
      0x10000000 ≤ st.src → st.src + st.len ≤ 0x11000000 → 0x10000000 ≤ st.dst → st.dst + st.len ≤ 0x11000000 → err = none → hit = .none →
      s.dev.bit A.OX_GSTAT 1 = false → n.val ∉ s.dev.ox.stopping →
      Gives (.oxBurstComplete n err moved hit) s (fun d =>
        (∀ i, i < len → d.byte (st.dst + old + i) = s.dev.byte (st.src + old + i)) ∧
        (n.val ∈ s.dev.ox.wdraw ∨ old + len < st.len ∨ s.dev.bit (A.OX_STAT n.val) 9 = false → d.fld (A.OX_DONE n.val) 27 0 = old + len) ∧
        (n.val ∉ s.dev.ox.wdraw → old + len = st.len → s.dev.bit (A.OX_STAT n.val) 9 = true →
          d.oxState n.val = 1 ∧ d.oxAct n.val = s.dev.oxShadow n.val) ∧
        (n.val ∉ s.dev.ox.wdraw → old + len = st.len → s.dev.bit (A.OX_STAT n.val) 9 = false → d.oxState n.val = 2) ∧
        (n.val ∉ s.dev.ox.wdraw → old + len < st.len → d.oxState n.val = s.dev.oxState n.val) ∧
        (n.val ∈ s.dev.ox.wdraw → d.oxState n.val = 3 ∧ d.bit A.OX_ERRST n.val = true) ∧
        (2 * old < st.len → st.len ≤ 2 * (old + len) → d.bit A.OX_INTST (2 * n.val) = true) ∧
        (n.val ∉ s.dev.ox.wdraw → old + len = st.len → d.bit A.OX_INTST (2 * n.val + 1) = true) ∧
        FrameMem [.ox, .cores] [A.OX_STAT n.val, A.OX_DONE n.val, A.OX_ASRC n.val, A.OX_ADST n.val, A.OX_INTST, A.OX_ERRST]
          (st.dst + old) (st.dst + old + len) s.dev d)) ∧
    (∀ e a w, s.dev.ox.flight = [n.val] → st.mode = 0 →
      s.dev.oxError n st (st.src + old) (oxAddrs st old).2 len err hit = some (e, a, w) → s.dev.bit A.OX_GSTAT 1 = false →
      Gives (.oxBurstComplete n err moved hit) s (fun d =>
        d.oxState n.val = 4 ∧ d.fld (A.OX_STAT n.val) 8 6 = e.code ∧ d.rd (A.OX_BERR n.val) = BitVec.ofNat 64 a ∧
        d.bit A.OX_ERRST n.val = true ∧ d.fld (A.OX_DONE n.val) 27 0 = old ∧ (st.core, 0x0B00 + n.val) ∈ d.cores.irqs ∧
        n.val ∉ d.ox.flight)))

/-! Cairn (R292 to R303). -/

/-- R292 to R297, R299, R302, R303: the recorder: posts, slot writes, merging, full logs, clears, the enable. -/
def Obligations.CairnRecorder : Prop :=
  (∀ s (core : CoreN) hdr p0 p1 (cmd : W32), Reaches core A.CAIRN_POST_CMD s →
    let p := mkPost (fldOf hdr 15 0) (fldOf hdr 31 16) (fldOf hdr 34 32) (p0.toNat + p1.toNat * 2 ^ 64)
    let logs := (if cmd.getLsbD 9 then [cmd.toNat % 256] else []) ++ (if cmd.getLsbD 10 then [devLog] else []) ++
      (if cmd.getLsbD 11 then [pairLog] else [])
    let regs := [A.CAIRN_POST_HDR, A.CAIRN_POST_PAR 0, A.CAIRN_POST_PAR 1, A.CAIRN_POST_CMD]
    Gives (.cairnPostGo hdr p0 p1 cmd core) s (fun d =>
      d.rd A.CAIRN_POST_HDR = BitVec.ofNat 64 (fldOf hdr 34 0) ∧ d.rd (A.CAIRN_POST_PAR 0) = p0 ∧ d.rd (A.CAIRN_POST_PAR 1) = p1 ∧
      (cmd.getLsbD 31 = true → s.dev.cairnOn = true → s.dev.cairn.wait = [] →
        (s.dev.cairn.fifo.length < 64 → d.cairn = { s.dev.cairn with fifo := s.dev.cairn.fifo ++ [s.dev.fifoEnt p logs] }) ∧
        (64 ≤ s.dev.cairn.fifo.length → d.cairn = { s.dev.cairn with wait := [s.dev.fifoEnt p logs] })) ∧
      (cmd.getLsbD 31 = false ∨ s.dev.cairnOn = false ∨ s.dev.cairn.wait ≠ [] → d.cairn = s.dev.cairn) ∧
      Frame [.cairn] regs s.dev d)) ∧
  (∀ s p pen, Running s →
    let logs := devLog :: (match pen with | some (n : PenN) => [penLog n.val] | none => [])
    (s.dev.cairnOn = true → s.dev.cairn.fifo.length < 64 →
      Gives (.hardwarePost p pen) s (fun d =>
        d.cairn = { s.dev.cairn with fifo := s.dev.cairn.fifo ++ [{ post := p, time := s.dev.ns, logs := unitLog p.src.toNat :: logs }] } ∧
        Frame [.cairn] [] s.dev d)) ∧
    (s.dev.cairnOn = true → 64 ≤ s.dev.cairn.fifo.length →
      Gives (.hardwarePost p pen) s (fun d =>
        (d.rd A.CAIRN_HWDROP).toNat = ((s.dev.rd A.CAIRN_HWDROP).toNat + 1) % 2 ^ 32 ∧ Frame [] [A.CAIRN_HWDROP] s.dev d)) ∧
    (s.dev.cairnOn = false → Gives (.hardwarePost p pen) s (fun d => d = s.dev))) ∧
  (∀ s, Running s → s.dev.cairn.fifo = [] → Gives .cairnSlotWrite s (fun d => d = s.dev)) ∧
  (∀ s e t, Running s → s.dev.cairn.fifo = e :: t → e.logs.Nodup →
    Gives .cairnSlotWrite s (fun d =>
      (∀ l, l ∈ e.logs → logExists l = true →
        let g := s.dev.log l
        (∀ r, g.mergeSlot e = some r →
          (d.log l).recs = g.recs.map (fun x => if x.slot = r.slot then { x with rep := x.rep + 1, seq := nextSeq g.seq } else x) ∧
          (d.log l).drops = g.drops) ∧
        (g.mergeSlot e = none → g.recs.length < logCap l → (∀ x, x ∈ g.recs → x.slot ≠ g.recs.length) →
          (d.log l).recs = g.recs ++ [{ slot := g.recs.length, stamp := g.stamp, seq := nextSeq g.seq, time := e.time, post := e.post, rep := 0 }] ∧
          (d.log l).last = some g.recs.length ∧ (d.log l).drops = g.drops) ∧
        (g.mergeSlot e = none → logCap l ≤ g.recs.length → logOverwrites l = false →
          (d.log l).recs = g.recs ∧ (d.log l).drops = g.drops + 1) ∧
        (g.mergeSlot e = none → logCap l ≤ g.recs.length → logOverwrites l = true →
          (∀ r, g.victim e.post.sev.val = some r →
            (d.log l).recs = g.recs.filter (fun x => x.slot != r.slot) ++
              [{ slot := r.slot, stamp := g.stamp, seq := nextSeq g.seq, time := e.time, post := e.post, rep := 0 }] ∧
            (d.log l).drops = g.drops) ∧
          (g.victim e.post.sev.val = none → (d.log l).recs = g.recs ∧ (d.log l).drops = g.drops + 1))) ∧
      (∀ l, l ∉ e.logs → d.log l = s.dev.log l) ∧
      (devLog ∈ e.logs → (s.dev.log devLog).mergeSlot e = none → 5 ≤ e.post.sev.val → d.bit A.SB_ALERTSRC 3 = true) ∧
      d.cairn.fifo = t ++ (s.dev.cairn.wait.take 1).map (fun w => { w with time := s.dev.ns }) ∧
      d.cairn.wait = s.dev.cairn.wait.drop 1 ∧
      (s.dev.bit A.CAIRN_STAT 1 = true → t = [] → s.dev.cairn.wait = [] →
        d.bit A.CAIRN_STAT 1 = false ∧ (s.dev.cairn.heldEn = true → d.bit A.CAIRN_STAT 0 = true)) ∧
      (pairLog ∉ e.logs → d.pair = s.dev.pair) ∧
      Frame [.cairn, .pair, .pins, .tor] [A.CAIRN_STAT, A.PAIR_CNT 0, A.SB_ALERTSRC] s.dev d)) ∧
  (∀ s (log : W16) (who : BitVec 24), Reach A.CAIRN_CLR s →
    let l := log.toNat
    let regs := [A.CAIRN_CLR, A.CAIRN_CLR_WHO]
    (logExists l = true →
      Gives (.cairnClrGo log who) s (fun d =>
        (d.log l).recs.map (·.post) = [mkPost 0x0FFE 0x0010 2 (who.toNat + (s.dev.log l).recs.length * 2 ^ 24)] ∧
        (d.log l).cleared = s.dev.ns ∧ (d.log l).drops = (s.dev.log l).drops ∧ (∀ k, k ≠ l → d.log k = s.dev.log k) ∧
        Frame [.cairn] regs s.dev d)) ∧
    (logExists l = false → Gives (.cairnClrGo log who) s (fun d => Frame [] regs s.dev d))) ∧
  (∀ s, Reach A.CAIRN_CTL s →
    (s.dev.bit A.CAIRN_STAT 1 = false →
      Gives (.cairnCtlEnWrite true) s (fun d =>
        d.bit A.CAIRN_CTL 0 = true ∧ d.cairnOn = true ∧ Frame [] [A.CAIRN_CTL, A.CAIRN_STAT] s.dev d)) ∧
    (s.dev.bit A.CAIRN_STAT 1 = true →
      Gives (.cairnCtlEnWrite true) s (fun d =>
        d.bit A.CAIRN_CTL 0 = true ∧ d.cairn = { s.dev.cairn with heldEn := true } ∧ Frame [.cairn] [A.CAIRN_CTL] s.dev d)) ∧
    Gives (.cairnCtlEnWrite false) s (fun d =>
      d.bit A.CAIRN_CTL 0 = false ∧ d.cairnOn = false ∧ d.bit A.CAIRN_STAT 1 = !s.dev.cairn.fifo.isEmpty ∧
      d.cairn = { s.dev.cairn with heldEn := false } ∧ Frame [.cairn] [A.CAIRN_CTL, A.CAIRN_STAT] s.dev d)) ∧
  (∀ s, Running s →
    (∀ k r, (s.dev.log devLog).last = some k → (s.dev.log devLog).at k = some r →
      Gives .deviceLogRecordClose s (fun d =>
        d.cairn.copied = s.dev.cairn.copied ++ [r] ∧ d.log devLog = { s.dev.log devLog with last := none } ∧
        (∀ l, l ≠ devLog → d.log l = s.dev.log l) ∧ Frame [.cairn] [] s.dev d)) ∧
    ((s.dev.log devLog).last = none → Gives .deviceLogRecordClose s (fun d => d = s.dev)))

/-! DRAMC and Hen (R166 to R172). -/

/-- R166 to R171: the scrubber's walk and the test port of DRAMC. -/
def Obligations.ScrubberAndTestPort : Prop :=
  (∀ s (v : BitVec 3), Reach A.HEN_CTL s →
    (v.getLsbD 0 = true → s.dev.bit A.HEN_STAT 1 = false →
      Gives (.henCtlEnWrite v) s (fun d =>
        d.rd A.HEN_CTL = v.setWidth 64 ∧ d.bit A.HEN_STAT 0 = true ∧ Frame [] [A.HEN_CTL, A.HEN_STAT] s.dev d)) ∧
    (v.getLsbD 0 = true → s.dev.bit A.HEN_STAT 1 = true →
      Gives (.henCtlEnWrite v) s (fun d =>
        d.rd A.HEN_CTL = v.setWidth 64 ∧ d.dram = { s.dev.dram with heldEn := true } ∧ Frame [.dram] [A.HEN_CTL] s.dev d)) ∧
    (v.getLsbD 0 = false →
      Gives (.henCtlEnWrite v) s (fun d =>
        d.rd A.HEN_CTL = v.setWidth 64 ∧ d.bit A.HEN_STAT 0 = false ∧ (s.dev.bit A.HEN_STAT 0 = true → d.bit A.HEN_STAT 1 = true) ∧
        d.dram = { s.dev.dram with heldEn := false } ∧ Frame [.dram] [A.HEN_CTL, A.HEN_STAT] s.dev d))) ∧
  (∀ s devs ms, Running s → s.dev.bit A.HEN_STAT 0 = false → s.dev.bit A.HEN_STAT 1 = false →
    Gives (.henBurst devs ms) s (fun d => d = s.dev)) ∧
  (∀ s (devs : List (Fin 10)) ms, Running s → s.dev.bit A.HEN_STAT 0 = true → s.dev.bit A.HEN_STAT 1 = false →
    let p := (s.dev.rd A.HEN_PTR).toNat
    (∀ x, s.dev.armed p = true ∨ s.dev.henWalks p = false ∨ (s.dev.burstAt p = .clean x ∧ devs = []) →
      (p < s.dev.henLast → p + 64 < 2 ^ 64 →
        Gives (.henBurst devs ms) s (fun d => (d.rd A.HEN_PTR).toNat = p + 64 ∧ Frame [] [A.HEN_PTR] s.dev d)) ∧
      (s.dev.henLast ≤ p →
        Gives (.henBurst devs ms) s (fun d =>
          d.rd A.HEN_PTR = s.dev.rd A.HEN_BASE ∧ (d.rd A.HEN_PASS).toNat = ((s.dev.rd A.HEN_PASS).toNat + 1) % 2 ^ 32 ∧
          d.rd A.HEN_PASS_MS = BitVec.ofNat 64 (ms % 2 ^ 32) ∧ d.dram = { s.dev.dram with passCorr := [] } ∧
          Frame [.dram] [A.HEN_PTR, A.HEN_PASS, A.HEN_PASS_MS] s.dev d))) ∧
    (∀ v, s.dev.armed p = false → s.dev.henWalks p = true → ((∃ x, s.dev.burstAt p = .clean x ∧ devs = [v]) ∨ (∃ x, s.dev.burstAt p = .corr v.val x ∧ (devs = [] ∨ devs = [v]))) →
      Gives (.henBurst devs ms) s (fun d =>
        d.rd A.HEN_CNT_CORR = s.dev.rd A.HEN_CNT_CORR + 1 ∧
        (d.rd (A.DRAMC_DEVCORR (10 * (Config.dramLane p % 8) + v.val))).toNat =
          Nat.min ((s.dev.rd (A.DRAMC_DEVCORR (10 * (Config.dramLane p % 8) + v.val))).toNat + 1) (2 ^ 32 - 1) ∧
        (s.dev.bit A.HEN_CTL 2 = true → SMap.find d.dram.raw p = none ∧ p ∉ d.dram.bad) ∧
        (∀ x i, s.dev.burstAt p = .corr v.val x ∨ s.dev.burstAt p = .clean x → s.dev.bit A.HEN_CTL 2 = true → i < 64 → d.byte (p + i) = BitVec.ofNat 8 (byteAt x i)) ∧
        FrameMem [.cairn, .dram, .host] [A.HEN_CNT_CORR, A.DRAMC_DEVCORR (10 * (Config.dramLane p % 8) + v.val), A.HEN_PTR, A.HEN_PASS, A.HEN_PASS_MS]
          p (p + 64) s.dev d)) ∧
    (s.dev.armed p = false → s.dev.henWalks p = true → (s.dev.burstAt p = .unc ∨ ∃ x v w, s.dev.burstAt p = .clean x ∧ devs = [v, w] ∧ v ≠ w) →
      Gives (.henBurst devs ms) s (fun d =>
        p ∈ d.dram.bad ∧ d.burstAt p = .unc ∧ d.rd A.HEN_CNT_UNC = s.dev.rd A.HEN_CNT_UNC + 1 ∧
        d.rd A.DRAMC_UNC_CNT = s.dev.rd A.DRAMC_UNC_CNT + 1 ∧ d.bit A.DRAMC_ECCSTAT 0 = true ∧ d.bit A.HEN_STAT 2 = true ∧
        (s.dev.bit A.HEN_UNC_ADDR 63 = false → d.rd A.HEN_UNC_ADDR = BitVec.ofNat 64 (2 ^ 63 + p)) ∧
        (s.dev.bit A.DRAMC_UNC_ADDR 63 = false → d.rd A.DRAMC_UNC_ADDR = BitVec.ofNat 64 (2 ^ 63 + p)) ∧
        Recorded s.dev d 0x0C00 3 5 p ∧ (0, 0x0C00) ∈ d.cores.irqs ∧
        (s.dev.bit A.HEN_CTL 1 = true → d.bit A.HEN_CTL 0 = false ∧ d.bit A.HEN_STAT 0 = false) ∧
        Frame [.cairn, .cores, .dram] [A.HEN_CNT_UNC, A.HEN_STAT, A.HEN_UNC_ADDR, A.HEN_CTL, A.HEN_PTR, A.HEN_PASS, A.HEN_PASS_MS,
          A.DRAMC_UNC_CNT, A.DRAMC_UNC_ADDR, A.DRAMC_ECCSTAT, A.CAIRN_HWDROP] s.dev d))) ∧
  (∀ s, Reach A.DRAMC_ECCTEST s →
    let a := (s.dev.rd A.DRAMC_TESTADDR).toNat
    let x := s.dev.testData
    (s.dev.bit A.DRAMC_ECCTEST 4 = false →
      Gives .dramcEcctestWrite s (fun d => Frame [] [A.DRAMC_ECCTEST] s.dev d) ∧
      Gives .dramcEcctestReadraw s (fun d => Frame [] [A.DRAMC_ECCTEST] s.dev d)) ∧
    (s.dev.bit A.DRAMC_ECCTEST 4 = true →
      Gives .dramcEcctestWrite s (fun d =>
        d.fld A.DRAMC_ECCTEST 2 1 = 1 ∧
        (s.dev.testChk = symbolCheck a x → SMap.find d.dram.raw a = none ∧ (∀ i, i < 64 → d.byte (a + i) = BitVec.ofNat 8 (byteAt x i))) ∧
        (s.dev.testChk ≠ symbolCheck a x →
          SMap.find d.dram.raw a = some x ∧ SMap.get (fun _ => 0) d.dram.chk a = s.dev.testChk ∧ (∀ i, d.byte i = s.dev.byte i)) ∧
        a ∉ d.dram.bad ∧ FrameMem [.dram] [A.DRAMC_ECCTEST] a (a + 64) s.dev d) ∧
      Gives .dramcEcctestReadraw s (fun d =>
        d.fld A.DRAMC_ECCTEST 2 1 = 2 ∧
        (∀ y, a ∉ s.dev.dram.bad → SMap.find s.dev.dram.raw a = some y →
          d.testData = y ∧ d.testChk = SMap.get (fun _ => 0) s.dev.dram.chk a) ∧
        (a ∉ s.dev.dram.bad → SMap.find s.dev.dram.raw a = none →
          d.testData = s.dev.burstMem a ∧ d.testChk = symbolCheck a (s.dev.burstMem a)) ∧
        Frame [.free] (A.DRAMC_ECCTEST :: (List.range 8).map A.DRAMC_TESTDATA ++ (List.range 2).map A.DRAMC_TESTCHK) s.dev d)))

/-! The cipher cluster (R203 to R223). -/

/-- R204, R205, R211, R217: decryption undoes encryption, block by block and for an LBA; a key that was wrapped unwraps to itself
with its attributes; a job that stops between two blocks and goes on gives the blocks of one that runs through; a saved context
reads back as it was. A generated key has unequal halves. -/
def Obligations.CipherLaws : Prop :=
  (∀ k t b, xtsRun true k t (xtsRun false k t b) = b) ∧
  (∀ k i x, xtsLba true k i (xtsLba false k i x) = x) ∧
  (∀ dec k t b c, xtsRun dec k t (b ++ c) = xtsRun dec k t b ++ xtsRun dec k (tweakAfter b.length t) c) ∧
  (∀ k p, p ≠ [] → kwUnwrap k (kwWrap k p) = some p) ∧
  (∀ kw k a, unwrapKey kw (wrapKey kw k a) = some (k, a)) ∧
  (∀ x : Ctx, x.slot < 65536 → x.slotgen < 65536 → x.blk < 65536 → x.du < 2 ^ 64 → x.len < 65536 →
    x.word < 2 ^ 384 ∧ ctxOfWord x.word = some x) ∧
  (∀ n, halvesEqual (freshKey n) = false)

/-- R3, R206 to R211, R219, R220: key operations, the derivation of KWK, and alarms. -/
def Obligations.CipherKeys : Prop :=
  (∀ s (slot : SlotN), Reach A.CIPHER_KOP s →
    let n := slot.val
    let F := fun (d : Dev) => Frame [.cipher] [A.CIPHER_KOP] s.dev d
    (s.dev.cipherAlarmed = true →
      ∀ i, i ∈ [Instr.generate slot, .loadClear slot, .loadWrapped slot false, .loadWrapped slot true] →
        Gives i s (fun d => KeyRefused n 1 s.dev d ∧ F d)) ∧
    (s.dev.cipherAlarmed = false →
      Gives (.generate slot) s (fun d =>
        KeyLoaded n (.key (freshKey s.dev.free) s.dev.kattr) s.dev d ∧ Frame [.cipher, .free] [A.CIPHER_KOP] s.dev d) ∧
      (halvesEqual (BitVec.ofNat 512 s.dev.kin) = true → Gives (.loadClear slot) s (fun d => KeyRefused n 2 s.dev d ∧ F d)) ∧
      (halvesEqual (BitVec.ofNat 512 s.dev.kin) = false →
        Gives (.loadClear slot) s (fun d => KeyLoaded n (.key (BitVec.ofNat 512 s.dev.kin) s.dev.kattr) s.dev d ∧ F d)) ∧
      (∀ pwk, s.dev.wrapKw pwk = none →
        Gives (.loadWrapped slot pwk) s (fun d => KeyRefused n 5 s.dev d ∧ F d) ∧
        (∀ k a, s.dev.slot n = .key k a → Gives (.exportWrapped slot pwk false) s (fun d => KeyRefused n 5 s.dev d ∧ F d))) ∧
      (∀ pwk kw, s.dev.wrapKw pwk = some kw →
        (unwrapKey kw (BitVec.ofNat 704 s.dev.kin) = none → Gives (.loadWrapped slot pwk) s (fun d => KeyRefused n 3 s.dev d ∧ F d)) ∧
        (∀ k a, unwrapKey kw (BitVec.ofNat 704 s.dev.kin) = some (k, a) →
          (halvesEqual k = true → Gives (.loadWrapped slot pwk) s (fun d => KeyRefused n 2 s.dev d ∧ F d)) ∧
          (halvesEqual k = false → s.dev.inPenRange (byteAt a 1) n = false → Gives (.loadWrapped slot pwk) s (fun d => KeyRefused n 4 s.dev d ∧ F d)) ∧
          (halvesEqual k = false → s.dev.inPenRange (byteAt a 1) n = true → Gives (.loadWrapped slot pwk) s (fun d => KeyLoaded n (.key k a) s.dev d ∧ F d))) ∧
        (∀ k a, s.dev.slot n = .key k a →
          Gives (.exportWrapped slot pwk false) s (fun d =>
            KeyRefused n 0 s.dev d ∧
            (∀ i, i < 11 → d.rd (A.CIPHER_KOUT i) = (wrapKey kw k s.dev.kattr).extractLsb' (64 * i) 64) ∧
            Frame [.cipher] (A.CIPHER_KOP :: (List.range 11).map A.CIPHER_KOUT) s.dev d))) ∧
      (∀ pwk, s.dev.slot n = .empty ∨ s.dev.slot n = .bypass →
        Gives (.exportWrapped slot pwk false) s (fun d => KeyRefused n 6 s.dev d ∧ F d))) ∧
    (∀ pwk, s.dev.cipherAlarmed = true →
      Gives (.exportWrapped slot pwk false) s (fun d =>
        KeyRefused n 1 s.dev d ∧ (∀ i, i < 11 → d.rd (A.CIPHER_KOUT i) = 0) ∧
        Frame [.cipher] (A.CIPHER_KOP :: (List.range 11).map A.CIPHER_KOUT) s.dev d)) ∧
    Gives (.zero slot) s (fun d => KeyLoaded n .empty s.dev d ∧ F d) ∧
    Gives (.loadBypass slot) s (fun d => KeyLoaded n .bypass s.dev d ∧ F d) ∧
    (∀ op : BitVec 4, 7 ≤ op.toNat →
      Gives (.kopUndefined op) s (fun d =>
        d.fld A.CIPHER_KOP 15 12 = 7 ∧ d.cipher = { s.dev.cipher with kin := [] } ∧ F d))) ∧
  (∀ s bad, Running s →
    (s.dev.board.code.val = 2 → Gives (.kwkDerivation bad) s (fun d => d = s.dev)) ∧
    (s.dev.board.code.val ≠ 2 → (s.dev.otpWord 2 = BitVec.allOnes 256 ∨ s.dev.cipherAlarmed = true) →
      Gives (.kwkDerivation false) s (fun d => d = s.dev)) ∧
    (s.dev.board.code.val ≠ 2 → s.dev.otpWord 2 ≠ BitVec.allOnes 256 → s.dev.cipherAlarmed = false →
      Gives (.kwkDerivation false) s (fun d =>
        d.cipher = { s.dev.cipher with kwk := some (kdf256 (leBytes 32 (s.dev.otpWord 2).toNat) kwkLabel) } ∧ d.bit A.CIPHER_STAT 2 = true ∧
        Frame [.cipher] [A.CIPHER_STAT] s.dev d))) ∧
  (∀ s n i, s.dev.board.code.val ≠ 2 →
    ((i = .cipherAlarmSet ∧ n = 0 ∧ Reach A.CIPHER_ALARM_SET s) ∨ (i = .vmonAlarm ∧ n = 1 ∧ Running s) ∨
      (i = .debugAlarm ∧ n = 3 ∧ Running s) ∨ (i = .kwkDerivation true ∧ n = 5 ∧ Running s)) →
    Gives i s (fun d =>
      AlarmHolds n s.dev d ∧
      (NoJob s.dev → NoReadWait s.dev → s.dev.wr.entries = [] → s.dev.keyedCmds = [] → s.dev.cipher.queue = [] → s.dev.coreMsgs = [] →
        Recorded s.dev d 0x0800 (Config.evCode 1) 6 (2 ^ n) ∧ FrameLog [.cairn, .cipher, .fw, .host] zeroRegs s.dev d))) ∧
  (∀ s (slot : SlotN) pwk, s.dev.board.code.val ≠ 2 → Reach A.CIPHER_KOP s →
    Gives (.exportWrapped slot pwk true) s (fun d =>
      AlarmHolds 4 s.dev d ∧ d.fld A.CIPHER_KOP 15 12 = 1 ∧ ∀ i, i < 11 → d.rd (A.CIPHER_KOUT i) = 0)) ∧
  (∀ s (c : CipherN) who, s.dev.board.code.val ≠ 2 → Reaches who (A.CIPHER_JOB c.val) s → s.dev.jobResult c.val ≠ 1 →
    (s.dev.ccore c.val).ctx = none → 2 ≤ s.dev.fld (A.CIPHER_JOB c.val) 31 16 →
    Gives (.cipherJobGo c who true) s (fun d => AlarmHolds 4 s.dev d ∧ d.jobResult c.val = 3)) ∧
  (∀ s i, Running s → s.dev.board.code.val = 2 → i ∈ [Instr.vmonAlarm, .debugAlarm] → Gives i s (fun d => d = s.dev))

/-- R208, R213 to R218, R222: direct jobs and their contexts. -/
def Obligations.CipherJobs : Prop :=
  (∀ s (c : CipherN) who, Reaches who (A.CIPHER_JOB c.val) s →
    let x := match (s.dev.ccore c.val).ctx with
      | some k => if (s.dev.ccore c.val).restored then k else s.dev.newCtx c.val
      | none => s.dev.newCtx c.val
    (s.dev.jobResult c.val = 1 ∨ x.len < 2 → Gives (.cipherJobGo c who false) s (fun d => d = s.dev)) ∧
    (s.dev.jobResult c.val ≠ 1 → 2 ≤ x.len → s.dev.cipherAlarmed = true →
      Gives (.cipherJobGo c who false) s (fun d => d.jobResult c.val = 3 ∧ Frame [] [A.CIPHER_JOB_STAT c.val] s.dev d)) ∧
    (s.dev.jobResult c.val ≠ 1 → 2 ≤ x.len → s.dev.cipherAlarmed = false → s.dev.slot x.slot = .empty →
      Gives (.cipherJobGo c who false) s (fun d => d.jobResult c.val = 4 ∧ Frame [] [A.CIPHER_JOB_STAT c.val] s.dev d)) ∧
    (s.dev.jobResult c.val ≠ 1 → 2 ≤ x.len → s.dev.cipherAlarmed = false → s.dev.slot x.slot ≠ .empty →
      Gives (.cipherJobGo c who false) s (fun d =>
        d.jobResult c.val = 1 ∧ (d.ccore c.val).ctx = some x ∧ (d.ccore c.val).key = s.dev.slot x.slot ∧
        (d.ccore c.val).restored = false ∧ (d.ccore c.val).run = (s.dev.ccore c.val).run ∧
        Frame [.cipher] [A.CIPHER_JOB_STAT c.val, A.CIPHER_CORE_STAT c.val] s.dev d)) ∧
    ((s.dev.ccore c.val).ctx = none → Gives (.cipherJobStop c who) s (fun d => d = s.dev)) ∧
    (∀ k, (s.dev.ccore c.val).ctx = some k → s.dev.jobResult c.val ≠ 1 → Gives (.cipherJobStop c who) s (fun d => d = s.dev)) ∧
    (∀ k, (s.dev.ccore c.val).ctx = some k → s.dev.jobResult c.val = 1 → JobInHub c.val k s.dev → k.len < 65536 → k.blk < k.len →
      Gives (.cipherJobStop c who) s (fun d =>
        ∃ at_, k.blk < at_ ∧ at_ ≤ k.len ∧ JobWritten c.val k at_ s.dev d ∧
          (at_ < k.len → d.jobResult c.val = 7 ∧ d.fld (A.CIPHER_JOB_STAT c.val) 31 16 = at_ ∧ (d.ccore c.val).ctx = some (k.at at_)) ∧
          (at_ = k.len → d.jobResult c.val = 2 ∧ (d.ccore c.val).ctx = none) ∧
          FrameMem [.cipher, .free] [A.CIPHER_JOB_STAT c.val, A.CIPHER_CORE_STAT c.val]
            ((s.dev.rd (A.CIPHER_JOB_DST c.val)).toNat + 16 * k.blk) ((s.dev.rd (A.CIPHER_JOB_DST c.val)).toNat + 16 * at_) s.dev d))) ∧
  (∀ s (c : CipherN), Running s →
    (∀ err, (s.dev.ccore c.val).ctx = none → Gives (.cipherJobEnd c err) s (fun d => d = s.dev)) ∧
    (∀ k, (s.dev.ccore c.val).ctx = some k → s.dev.jobResult c.val = 1 → JobInHub c.val k s.dev → k.len < 65536 →
      Gives (.cipherJobEnd c none) s (fun d =>
        JobWritten c.val k k.len s.dev d ∧ d.jobResult c.val = 2 ∧ d.fld (A.CIPHER_JOB_STAT c.val) 31 16 = k.len ∧
        (d.ccore c.val).ctx = none ∧
        FrameMem [.cipher] [A.CIPHER_JOB_STAT c.val, A.CIPHER_CORE_STAT c.val]
          ((s.dev.rd (A.CIPHER_JOB_DST c.val)).toNat + 16 * k.blk) ((s.dev.rd (A.CIPHER_JOB_DST c.val)).toNat + 16 * k.len) s.dev d)) ∧
    (∀ k e err, (s.dev.ccore c.val).ctx = some k → s.dev.jobResult c.val = 1 → JobInHub c.val k s.dev → errOfCode (Fin.val err) = some e →
      Gives (.cipherJobEnd c (some err)) s (fun d =>
        d.jobResult c.val = 5 ∧ d.fld (A.CIPHER_JOB_STAT c.val) 31 16 = k.blk % 65536 ∧ (d.ccore c.val).ctx = none ∧
        Frame [.cairn, .cipher] [A.CIPHER_JOB_STAT c.val, A.CAIRN_HWDROP] s.dev d))) ∧
  (∀ s (c : CipherN) who, Reaches who (A.CIPHER_CTXOP c.val) s →
    let op := A.CIPHER_CTXOP c.val
    let res := fun (d : Dev) => d.fld op 7 4
    let F := fun (d : Dev) => Frame [] [op] s.dev d
    (∀ i, i ∈ [Instr.saveClear c who, .saveWrapped c who, .restoreClear c who, .restoreWrapped c who] →
      (s.dev.cipherAlarmed = true → Gives i s (fun d => res d = 3 ∧ F d)) ∧
      (s.dev.cipherAlarmed = false → s.dev.jobResult c.val = 1 → Gives i s (fun d => res d = 4 ∧ F d))) ∧
    (∀ x, s.dev.cipherAlarmed = false → s.dev.jobResult c.val ≠ 1 → (s.dev.ccore c.val).ctx = some x →
      let y : Ctx := { x with slotgen := s.dev.slotGen x.slot }
      Gives (.saveClear c who) s (fun d =>
        res d = 0 ∧ d.ctxBuf c.val 6 = y.word % 2 ^ 384 ∧ d.cipher = s.dev.cipher ∧
        Frame [.free] (op :: (List.range 6).map (A.CIPHER_CTXBUF c.val)) s.dev d) ∧
      (∀ k, s.dev.cipher.kwk = some k →
        Gives (.saveWrapped c who) s (fun d =>
          res d = 0 ∧ (y.word < 2 ^ 384 → d.ctxOpened c.val = ctxOfWord y.word) ∧ d.cipher = s.dev.cipher ∧
          Frame [.free] (op :: (List.range 7).map (A.CIPHER_CTXBUF c.val)) s.dev d))) ∧
    (∀ i o, (i, o) ∈ [(Instr.restoreClear c who, ctxOfWord (s.dev.ctxBuf c.val 6)), (.restoreWrapped c who, s.dev.ctxOpened c.val)] →
      s.dev.cipherAlarmed = false → s.dev.jobResult c.val ≠ 1 →
      (o = none → Gives i s (fun d => res d = 1 ∧ F d)) ∧
      (∀ k, o = some k → k.slotgen ≠ s.dev.slotGen k.slot → Gives i s (fun d => res d = 2 ∧ F d)) ∧
      (∀ k, o = some k → k.slotgen = s.dev.slotGen k.slot →
        Gives i s (fun d =>
          res d = 0 ∧ (d.ccore c.val).ctx = some k ∧ (d.ccore c.val).restored = true ∧ Frame [.cipher] [op, A.CIPHER_CORE_STAT c.val] s.dev d))) ∧
    (∀ o : BitVec 4, 5 ≤ o.toNat → Gives (.ctxopUndefined c who o) s (fun d => res d = 5 ∧ F d)))

/-- R208, R213, R215, R216, R222: messages of the pool and the cores' locks. -/
def Obligations.CipherMessages : Prop :=
  (∀ s m, Running s →
    let inPen := s.dev.inPenRange m.pen.val m.slot.val
    let stranger := s.dev.host.reads.find? (fun r => r.h == m.cmd) = none ∧
      s.dev.wr.entries.find? (fun e => decide (e.h = m.cmd) && !e.acked && decide (e.q ≠ peerQ)) = none
    (∀ ecc, s.dev.board.code.val = 2 → Gives (.cipherMessage m ecc) s (fun d => d = s.dev)) ∧
    (s.dev.board.code.val ≠ 2 → s.dev.slot m.slot.val = .empty ∨ m.slot.val ∉ bypassSlots s.dev.media.nss →
      Gives (.cipherMessage m true) s (fun d => AlarmHolds 4 s.dev d)) ∧
    (s.dev.board.code.val ≠ 2 →
      (s.dev.host.stopped = false → stranger → inPen = false ∨ s.dev.slot m.slot.val = .empty →
        Gives (.cipherMessage m false) s (fun d =>
          d.rd A.CIPHER_CNT_REFUSE = s.dev.rd A.CIPHER_CNT_REFUSE + 1 ∧
          Sent s.dev d [cqeOf m.cmd (if inPen then .nsNotReady else .internal)] ∧
          Recorded s.dev d 0x0800 (Config.evCode (if inPen then 19 else 18)) (if inPen then 5 else 6) (m.slot.val + m.pen.val * 2 ^ 16) ∧
          FrameHost m.cmd.fn [.cairn, .host] [A.CIPHER_CNT_REFUSE] s.dev d)) ∧
      (inPen = true → s.dev.slot m.slot.val ≠ .empty →
        (∀ c, s.dev.bit A.CIPHER_STAT 0 = true → s.dev.freeCore = some c → s.dev.cipher.queue = [] →
          Gives (.cipherMessage m false) s (fun d =>
            (d.ccore c).run = some m ∧ (d.ccore c).since = s.dev.tick ∧ d.cipher.queue = [] ∧
            (∀ k, k ≠ c → d.ccore k = s.dev.ccore k) ∧ Frame [.cipher] [A.CIPHER_CORE_STAT c] s.dev d)) ∧
        (∀ c v, s.dev.bit A.CIPHER_STAT 0 = true → s.dev.freeCore = none → m.read = true → m.cls.val = 0 → s.dev.cipherVictim = some (c, v) →
          s.dev.cipher.queue.find? (fun x => x.read && decide (x.cls.val = 0)) = none →
          Gives (.cipherMessage m false) s (fun d =>
            (d.ccore c).run = some m ∧ (d.ccore c).susp = some { v with blocks := s.dev.blocksLeft c v } ∧
            d.bit (A.CIPHER_CORE_STAT c) 2 = true ∧ d.rd A.CIPHER_CNT_SUSP = s.dev.rd A.CIPHER_CNT_SUSP + 1 ∧
            d.cipher.queue = s.dev.cipher.queue ∧ (∀ k, k ≠ c → d.ccore k = s.dev.ccore k) ∧
            Frame [.cipher] [A.CIPHER_CORE_STAT c, A.CIPHER_CNT_SUSP] s.dev d)) ∧
        (s.dev.bit A.CIPHER_STAT 0 = false ∨
            (s.dev.freeCore = none ∧ (s.dev.cipher.queue ++ [m]).find? (fun x => x.read && decide (x.cls.val = 0)) = none) ∨
            (s.dev.freeCore = none ∧ s.dev.cipherVictim = none) →
          Gives (.cipherMessage m false) s (fun d =>
            d.cipher = { s.dev.cipher with queue := s.dev.cipher.queue ++ [m] } ∧ Frame [.cipher] [] s.dev d))))) ∧
  (∀ (s : State) c v, s.dev.cipherVictim = some (c, v) →
    s.dev.pooled c = true ∧ (s.dev.ccore c).run = some v ∧ v.cls.val ≠ 0 ∧ (s.dev.ccore c).susp = none ∧
    ∀ k w, k < 24 → (s.dev.ccore k).run = some w → s.dev.pooled k = true → (s.dev.ccore k).susp = none →
      w.cls.val < v.cls.val ∨ (w.cls.val = v.cls.val ∧ s.dev.blocksLeft k w ≤ s.dev.blocksLeft c v)) ∧
  (∀ s (c : CipherN), Running s →
    ((s.dev.ccore c.val).run = none → Gives (.cipherMessageEnd c) s (fun d => d = s.dev)) ∧
    (∀ m, (s.dev.ccore c.val).run = some m → s.dev.cipher.queue = [] → s.dev.bit (A.CIPHER_CORE_STAT c.val) 1 = false →
      s.dev.host.reads.find? (fun r => m.read && r.h == m.cmd && !r.failed) = none →
      Gives (.cipherMessageEnd c) s (fun d =>
        (d.ccore c.val).run = (s.dev.ccore c.val).susp ∧ (d.ccore c.val).susp = none ∧ (d.ccore c.val).ctx = (s.dev.ccore c.val).ctx ∧
        (∀ k, k ≠ c.val → d.ccore k = s.dev.ccore k) ∧ Frame [.cipher] [A.CIPHER_CORE_STAT c.val] s.dev d)) ∧
    (∀ m x, (s.dev.ccore c.val).run = some m → (s.dev.ccore c.val).susp = none → s.dev.cipher.queue = [x] → s.dev.slot x.slot.val ≠ .empty →
      s.dev.inPenRange x.pen.val x.slot.val = true →
      s.dev.bit A.CIPHER_STAT 0 = true → s.dev.pooled c.val = true → s.dev.bit (A.CIPHER_CORE_STAT c.val) 1 = false → s.dev.freeCore = none →
      s.dev.host.reads.find? (fun r => m.read && r.h == m.cmd && !r.failed) = none →
      Gives (.cipherMessageEnd c) s (fun d =>
        (d.ccore c.val).run = some x ∧ (d.ccore c.val).mkey = s.dev.slot x.slot.val ∧ d.cipher.queue = [] ∧ Frame [.cipher] [A.CIPHER_CORE_STAT c.val] s.dev d))) ∧
  (∀ s (c : CipherN), Reach (A.CIPHER_CORE_CTL c.val) s → s.dev.cipher.queue = [] →
    let st := A.CIPHER_CORE_STAT c.val
    let regs := [A.CIPHER_CORE_CTL c.val, st, A.CIPHER_LOCK c.val]
    (s.dev.pooled c.val = true →
      Gives (.cipherCoreEnWrite c true) s (fun d =>
        d.bit (A.CIPHER_CORE_CTL c.val) 0 = true ∧ Frame [] [A.CIPHER_CORE_CTL c.val] s.dev d)) ∧
    (s.dev.pooled c.val = false → s.dev.fld (A.CIPHER_LOCK c.val) 6 0 = 0 → s.dev.bit st 1 = false →
      Gives (.cipherCoreEnWrite c true) s (fun d =>
        d.pooled c.val = true ∧ d.rd (A.CIPHER_LOCK c.val) = 0x7F ∧ Frame [] regs s.dev d)) ∧
    (s.dev.pooled c.val = true → (s.dev.ccore c.val).run = none →
      Gives (.cipherCoreEnWrite c false) s (fun d =>
        d.pooled c.val = false ∧ d.bit st 1 = false ∧ d.rd (A.CIPHER_LOCK c.val) = 0 ∧ Frame [] regs s.dev d)) ∧
    (s.dev.pooled c.val = true → (s.dev.ccore c.val).run ≠ none →
      Gives (.cipherCoreEnWrite c false) s (fun d =>
        d.pooled c.val = false ∧ d.bit st 1 = true ∧ Frame [] [A.CIPHER_CORE_CTL c.val, st] s.dev d)) ∧
    (s.dev.pooled c.val = false →
      Gives (.cipherCoreEnWrite c false) s (fun d =>
        d.bit (A.CIPHER_CORE_CTL c.val) 0 = false ∧ Frame [] [A.CIPHER_CORE_CTL c.val] s.dev d))) ∧
  (∀ s (c : CipherN) (o : BitVec 7) who, Reaches who (A.CIPHER_LOCK c.val) s →
    let cur := s.dev.fld (A.CIPHER_LOCK c.val) 6 0
    (cur ≠ 0 → cur ≠ who.val + 1 → Gives (.cipherLockWrite c o who) s (fun d => d = s.dev)) ∧
    (cur = 0 ∨ cur = who.val + 1 → o ≠ 0 →
      Gives (.cipherLockWrite c o who) s (fun d =>
        d.rd (A.CIPHER_LOCK c.val) = o.setWidth 64 ∧ Frame [] [A.CIPHER_LOCK c.val] s.dev d)) ∧
    (cur = 0 ∨ cur = who.val + 1 → s.dev.bit (A.CIPHER_CORE_CTL c.val) 0 = false →
      Gives (.cipherLockWrite c 0 who) s (fun d => d.rd (A.CIPHER_LOCK c.val) = 0 ∧ Frame [] [A.CIPHER_LOCK c.val] s.dev d)) ∧
    (cur = 0 ∨ cur = who.val + 1 → s.dev.bit (A.CIPHER_CORE_CTL c.val) 0 = true → s.dev.bit (A.CIPHER_CORE_STAT c.val) 1 = false →
      s.dev.cipher.queue = [] →
      Gives (.cipherLockWrite c 0 who) s (fun d =>
        d.pooled c.val = true ∧ d.rd (A.CIPHER_LOCK c.val) = 0x7F ∧ Frame [] [A.CIPHER_LOCK c.val, A.CIPHER_CORE_STAT c.val] s.dev d)))

/-! Register accesses, memory, and the step. -/

/-- R12, R19, R22 to R25: register reads and writes by field type, writes of a register with a row of its own, memory, and
bus errors at a core, an Ox channel and a host. The number of the requester in a record is the model's (assumption 7). -/
def Obligations.RegisterAccess : Prop :=
  (∀ (r : RegRow) (old v : W64) i, i < 64 →
    bitOf (typedWrite r old v) i =
      (((if r.rw.testBit i then bitOf v i else bitOf old i) && !(bitOf v i && r.w1c.testBit i)) || (bitOf v i && r.w1s.testBit i))) ∧
  (∀ s n (a : Addr) v r i, Reaches n a.toNat s → regAt a.toNat = some (r, i) → blockOf a.toNat ∈ [2, 3, 13] →
    Gives (.registerWrite (.core n true) a v .none) s (fun d =>
      d.rd a.toNat = typedWrite r (s.dev.rd a.toNat) v ∧ Frame [] [a.toNat] s.dev d)) ∧
  (∀ s v, ∀ c, c ∈ [(A.CAIRN_CTL, Instr.cairnCtlEnWrite (bitOf v 0)), (A.OX_CTL, .oxCtlEnWrite (bitOf v 0)),
      (A.HEN_CTL, .henCtlEnWrite (v.setWidth 3)), (A.PAIR_FENCE, .pairFenceWrite (bitOf v 0)), (A.PAIR_CLAIM, .pairClaimWrite v),
      (A.PAIR_REL, .pairRelWrite v), (A.PAIR_CTL, .pairCtlEnWrite (v.setWidth 32)), (A.PEN_PCTL 255, .penPctlWrite 255 (bitOf v 1) (bitOf v 0)),
      (A.MULE_CTL 63, .muleCtlEnWrite 63 (bitOf v 0)), (A.MULE_TBL_DATA 63, .muleTblDataWrite 63 (v.setWidth 32)),
      (A.CIPHER_CORE_CTL 23, .cipherCoreEnWrite 23 (bitOf v 0))] →
    Reach c.1 s → exec (.registerWrite (.core 0 true) (BitVec.ofNat 40 c.1) v .none) s = exec c.2 s) ∧
  (∀ s n m (a : Addr) v, Running s → 0x10000000 ≤ a.toNat → a.toNat + 8 ≤ 0x11000000 →
    Gives (.registerWrite (.core n m) a v .none) s (fun d =>
      d.bytes a.toNat 8 = leBytes 8 v.toNat ∧ FrameMem [] [] a.toNat (a.toNat + 8) s.dev d) ∧
    Gives (.readClearRegister (.core n m) (.reg a) .none) s (fun d =>
      d.host.rdval = BitVec.ofNat 64 (ofLe (s.dev.bytes a.toNat 8)) ∧ Frame [.host] [] s.dev d)) ∧
  (∀ s n (a : Addr) r i hit, Running s → s.dev.accessErr (.core n true) a.toNat false hit = none → regAt a.toNat = some (r, i) →
    (∀ c : Ch, a.toNat ≠ A.MULE_TBL_DATA c.val) →
    Gives (.readClearRegister (.core n true) (.reg a) hit) s (fun d =>
      d.host.rdval = s.dev.shown a.toNat &&& ~~~ (BitVec.ofNat 64 r.wo) ∧
      d.rd a.toNat = s.dev.rd a.toNat &&& ~~~ (BitVec.ofNat 64 r.rc) ∧ Frame [.host] [a.toNat] s.dev d)) ∧
  (∀ s n hit, Running s →
    Gives (.readClearRegister (.core n true) .busErrSyn hit) s (fun d =>
      d.host.rdval = SMap.get (fun _ => 0) s.dev.cores.syn n.val ∧ SMap.get (fun _ => 0) d.cores.syn n.val = 0 ∧
      (∀ k, k ≠ n.val → SMap.get (fun _ => 0) d.cores.syn k = SMap.get (fun _ => 0) s.dev.cores.syn k) ∧
      Frame [.cores, .host] [] s.dev d)) ∧
  (∀ s n m (a : Addr) v e hit, Running s → e ≠ .uncorr →
    (s.dev.accessErr (.core n m) a.toNat true hit = some e →
      Gives (.registerWrite (.core n m) a v hit) s (fun d =>
        CoreFault n a.toNat true e s.dev d ∧ (e = .locked → d.rd A.CIPHER_CNT_LOCKED = s.dev.rd A.CIPHER_CNT_LOCKED + 1) ∧
        Frame [.cairn, .cores] (A.CAIRN_HWDROP :: if e = .locked then [A.CIPHER_CNT_LOCKED] else []) s.dev d)) ∧
    (s.dev.accessErr (.core n m) a.toNat false hit = some e →
      Gives (.readClearRegister (.core n m) (.reg a) hit) s (fun d =>
        CoreFault n a.toNat false e s.dev d ∧ (e = .locked → d.rd A.CIPHER_CNT_LOCKED = s.dev.rd A.CIPHER_CNT_LOCKED + 1) ∧
        Frame [.cairn, .cores] (A.CAIRN_HWDROP :: if e = .locked then [A.CIPHER_CNT_LOCKED] else []) s.dev d))) ∧
  (∀ (old : W64) a w e, a < 2 ^ 40 →
    let v := synAfter old a w e
    (bitOf old 63 = true → bitOf v 62 = true ∧ ∀ i, i ≠ 62 → bitOf v i = bitOf old i) ∧
    (bitOf old 63 = false → bitOf v 63 = true ∧ bitOf v 62 = false ∧ fldOf v 51 12 = a ∧ fldOf v 11 4 = (targetOf a).1 ∧
      bitOf v 3 = w ∧ fldOf v 2 0 = e.code)) ∧
  (∀ s n m (a : Addr) hit, Running s → isDram a.toNat = true → s.dev.accessErr (.core n m) a.toNat false hit = some .uncorr →
    Gives (.readClearRegister (.core n m) (.reg a) hit) s (fun d =>
      CoreFault n a.toNat false .uncorr s.dev d ∧ d.bit A.DRAMC_ECCSTAT 0 = true ∧
      (s.dev.bit A.DRAMC_UNC_ADDR 63 = false → d.rd A.DRAMC_UNC_ADDR = BitVec.ofNat 64 (2 ^ 63 + a.toNat / 64 * 64)) ∧
      Frame [.cairn, .cores] [A.CAIRN_HWDROP, A.DRAMC_ECCSTAT, A.DRAMC_UNC_ADDR, A.DRAMC_UNC_CNT] s.dev d)) ∧
  (∀ s (n : OxN) (a : Addr) v e hit, Running s → e ≠ .uncorr → e ≠ .locked → s.dev.accessErr (.ox n) a.toNat true hit = some e →
    Gives (.registerWrite (.ox n) a v hit) s (fun d =>
      Recorded s.dev d ((targetOf a.toNat).1 * 256 + (targetOf a.toNat).2) e.code e.sev (a.toNat % 2 ^ 40 + (0x4000 + n.val) * 2 ^ 64) ∧
      d.fld (A.OX_STAT n.val) 2 0 = 4 ∧ d.fld (A.OX_STAT n.val) 8 6 = e.code ∧ d.rd (A.OX_BERR n.val) = BitVec.ofNat 64 a.toNat ∧
      d.bit A.OX_ERRST n.val = true ∧
      Frame [.cairn] [A.CAIRN_HWDROP, A.OX_STAT n.val, A.OX_BERR n.val, A.OX_ERRST] s.dev d)) ∧
  (∀ s fn (a : Addr) v hit, Running s →
    (a.toNat / 2 ^ 32 = 4 →
      exec (.registerWrite (.host fn) a v hit) s = exec (.cmbHostAccess fn (a.toNat % 2 ^ 32) (some (v.setWidth 8)) hit) s ∧
      exec (.readClearRegister (.host fn) (.reg a) hit) s = exec (.cmbHostAccess fn (a.toNat % 2 ^ 32) none hit) s) ∧
    (s.dev.hostErr hit = none →
      (a.toNat = 0x14 →
        Gives (.registerWrite (.host fn) a v hit) s (fun d =>
          (s.dev.penOf fn.val = none → d = { s.dev with host := { s.dev.host with hregs := d.host.hregs } }) ∧
          (s.dev.penOf fn.val ≠ none → (fn.val ∈ d.host.en ↔ bitOf v 0 = true)) ∧
          ∀ o, o < 4 → SMap.get memDefault d.host.hregs (fn.val * 65536 + 0x14 + o) = BitVec.ofNat 8 (v.toNat / 2 ^ (8 * o)))) ∧
      (a.toNat = 0x24 →
        Gives (.registerWrite (.host fn) a v hit) s (fun d =>
          d.nvmeField fn.val 0x24 4 = v.toNat % 2 ^ 32 ∧ Frame [.host] [] s.dev d)) ∧
      (a.toNat = 0x28 ∨ a.toNat = 0x30 →
        Gives (.registerWrite (.host fn) a v hit) s (fun d =>
          d.nvmeField fn.val a.toNat 8 = v.toNat ∧ Frame [.host] [] s.dev d)) ∧
      (a.toNat = 2 * 2 ^ 32 + 0x100 → s.dev.isPf fn.val = true →
        exec (.registerWrite (.host fn) a v hit) s = exec (.winpageWrite fn (v.setWidth 32)) s) ∧
      (a.toNat / 2 ^ 32 = 2 → s.dev.isPf fn.val = false → Gives (.registerWrite (.host fn) a v hit) s (fun d => d = s.dev)) ∧
      (a.toNat = 0xFF * 2 ^ 32 →
        Gives (.readClearRegister (.host fn) (.reg a) hit) s (fun d =>
          d.host.rdval.toNat % 2 ^ 32 = 0x97121C5D ∧ Frame [.host, .free] [] s.dev d))) ∧
    (∀ e, s.dev.hostErr hit = some e → a.toNat / 2 ^ 32 ≠ 4 →
      Gives (.registerWrite (.host fn) a v hit) s (fun d =>
        Recorded s.dev d (0x0D00 + fn.val) e.code e.sev (hostAddr (a.toNat % 2 ^ 32) + fn.val * 2 ^ 64) ∧ d.host.ca = true ∧
        Frame [.cairn, .host] [A.CAIRN_HWDROP] s.dev d)))

/-- R21: an address outside every region, DRAM above what is installed, and a hole in a block all end with DECODE, for every
requester and in both directions. -/
def Obligations.UndecodedAddress : Prop :=
  (∀ (d : Dev) who a w hit, d.board.dramGib ≤ 128 → Undecoded a d → d.accessErr who a w hit = some .decode) ∧
  (∀ s n m (a : Addr) v hit, Running s → s.dev.board.dramGib ≤ 128 → Undecoded a.toNat s.dev →
    Gives (.registerWrite (.core n m) a v hit) s (fun d =>
      CoreFault n a.toNat true .decode s.dev d ∧ Frame [.cairn, .cores] [A.CAIRN_HWDROP] s.dev d) ∧
    Gives (.readClearRegister (.core n m) (.reg a) hit) s (fun d =>
      CoreFault n a.toNat false .decode s.dev d ∧ Frame [.cairn, .cores] [A.CAIRN_HWDROP] s.dev d))

/-- R32: a PAIR_CONTROL request for a transition that is not in the table of R29, or while TRANSIT is 1, completes with Mode
Refused, and the mode does not change. -/
def Obligations.PairRefused : Prop :=
  ∀ s h one, Running s → s.dev.isPf h.fn.val = true → s.dev.host.stopped = false →
    ∀ c, c ∈ [(Instr.join h, PairAct.join), (.release h one, .release one), (.handback h, .handback), (.goSolo h, .goSolo)] →
      ¬ PairRow c.2 s.dev ∨ s.dev.fw.transit = true →
      Gives c.1 s (fun d =>
        (∃ dnr, Sent s.dev d [.cqe { h := h, st := .modeRefused, dnr := dnr, res0 := 0, res1 := 0 }]) ∧
        Status.modeRefused.code % 256 = 0x85 ∧ d.fw = s.dev.fw ∧ FrameHost h.fn [.host] [] s.dev d)

/-- R196, R197: what a completion marks in the active copy of a Pen's log, and nowhere else; and the memory itself: a byte
reads back as written and no other changes, the canonical form is kept, and equal contents are equal data. -/
def Obligations.MemoryAndMarks : Prop :=
  (∀ (d : Dev) a b x, (d.setByte a b).byte x = if x = a then b else d.byte x) ∧
  (∀ (d : Dev) a l x, (d.setBytes a l).byte x = if a ≤ x ∧ x < a + l.length then l.getD (x - a) 0 else d.byte x) ∧
  (∀ (d : Dev) a l, memWf d.mem = true → memWf (d.setBytes a l).mem = true) ∧
  (∀ m n : List Host.Cell, memWf m = true → memWf n = true → (∀ a, SMap.get memDefault m a = SMap.get memDefault n a) → m = n) ∧
  (∀ s h why p c (w : Fin 4), Posting s → s.dev.host.fw.find? (fun f => f.h == h) = none → s.dev.penOf h.fn.val = some p →
    s.dev.cqOf h = some c → s.dev.bit (A.PEN_DLOG_CTL p) 0 = true →
    let page := (c.base + c.tail * 16) / 4096
    let first := s.dev.fld (A.PEN_DLOG_WIN p w.val) 63 12
    s.dev.bit (A.PEN_DLOG_WIN p w.val) 0 = true → first ≤ page → page < first + s.dev.fld (A.PEN_DLOG_MAP p w.val) 31 0 →
    (∀ v : Fin 4, v ≠ w → s.dev.bit (A.PEN_DLOG_WIN p v.val) 0 = false) →
    let a := (s.dev.rd A.PEN_DLOG_BASE).toNat + s.dev.fld (A.PEN_DLOG_CTL p) 2 2 * 2 ^ 27 +
      s.dev.fld (A.PEN_DLOG_MAP p w.val) 63 32 * 64 + (page - first) / 8
    Gives (.unsupportedCommand h why) s (fun d =>
      d.byte a = s.dev.byte a ||| BitVec.ofNat 8 (2 ^ ((page - first) % 8)) ∧
      (c.size > c.tail + 1 → { c with tail := c.tail + 1 } ∈ d.host.cqs) ∧ FrameMem [.host] [] a (a + 1) s.dev d)) ∧
  (∀ s h why p c, Posting s → s.dev.penOf h.fn.val = some p → s.dev.cqOf h = some c →
    (∀ w : Fin 4, s.dev.bit (A.PEN_DLOG_WIN p w.val) 0 = true →
      (c.base + c.tail * 16) / 4096 < s.dev.fld (A.PEN_DLOG_WIN p w.val) 63 12 ∨
      s.dev.fld (A.PEN_DLOG_WIN p w.val) 63 12 + s.dev.fld (A.PEN_DLOG_MAP p w.val) 31 0 ≤ (c.base + c.tail * 16) / 4096) →
    Gives (.unsupportedCommand h why) s (fun d => ∀ x, d.byte x = s.dev.byte x))

/-- A step runs the command at the front of the queue on the state with the rest. With no command waiting a cycle of time
passes (assumption 30, the model's choice). -/
def Obligations.Stepping : Prop :=
  (∀ s c rest, s.pending = c :: rest → step s = exec c { s with pending := rest }) ∧
  (∀ s, Running s → s.pending = [] → s.dev.host.selfTest = none → s.dev.tor.sleepReq = 0 → s.dev.fw.resetReq = none →
    ∃ t, step s = .next t ∧ t.pending = [] ∧ t.dev.tick = s.dev.tick + 1 ∧ Frame [.tick, .tor] [A.THERM_THROT_MS] s.dev t.dev)

/-- Every command answers a next state in every state, the queue is as it was, and no command stops the machine. -/
def Obligations.EveryCommandCompletes : Prop :=
  ∀ i s, ∃ t, exec i s = .next t ∧ t.pending = s.pending

/-- R12, R13, R29: after power-on every register holds its Reset value, but for the cause that names the power-on, the mode is
INIT with TRANSIT 1, and no command waits. Bytes of memory read 0 (assumption 6, the model's choice). The state is sound. -/
def Obligations.ResetState : Prop :=
  (∀ a, a ≠ A.CLK_RSTCAUSE → State.reset.dev.rd a = regReset a) ∧ State.reset.dev.rd A.CLK_RSTCAUSE = 3 ∧
    State.reset.pending = [] ∧ State.reset.dev.fw.mode = .init ∧ State.reset.dev.fw.transit = true ∧
    (∀ x, State.reset.dev.byte x = 0) ∧ Sound (fixedBoard Board.shipped) [] State.reset

/-- R284 and the model's data: every step keeps the board, the canonical form of registers and memory, the order of checkpoint and
journal, and every OTP word that has been programmed. -/
def Obligations.SoundStep : Prop :=
  ∀ b otp s t, Sound b otp s → step s = .next t → Sound b otp t
end

