-- ==== Sys2Proof/Laws/AesInv.lean ====
section
/-! SUPPORT. AES-256 (R204): decryption undoes encryption under every key. -/

namespace Sys2Proof.Machine

/-! The substitution boxes. -/

theorem invSbox_sbox_lt : ∀ n : Fin 256, invSbox (sbox (BitVec.ofFin n)) = BitVec.ofFin n := by decide +kernel

theorem invSbox_sbox (x : Byte) : invSbox (sbox x) = x := invSbox_sbox_lt x.toFin

theorem map_invSbox_sbox (l : List Byte) : (l.map sbox).map invSbox = l := by
  simp [List.map_map, Function.comp_def, invSbox_sbox]

/-! The columns. -/

theorem xtime_xor (a b : Byte) : xtime (a ^^^ b) = xtime a ^^^ xtime b := by
  simp only [xtime, BitVec.shiftLeft_xor_distrib, BitVec.msb_xor]
  cases a.msb <;> cases b.msb <;> simp <;> ext i <;> simp <;> grind

/-- The four steps of unmixing, with `p` to `s` the doubled bytes. -/
theorem unmix_sum (a b c d p q r s : Byte) :
    (p ^^^ q ^^^ b ^^^ c ^^^ d) ^^^ (q ^^^ r ^^^ c ^^^ d ^^^ a) ^^^ (r ^^^ s ^^^ d ^^^ a ^^^ b) ^^^ (s ^^^ p ^^^ a ^^^ b ^^^ c) =
      a ^^^ b ^^^ c ^^^ d := by
  apply BitVec.eq_of_getLsbD_eq; intro i _
  simp only [BitVec.getLsbD_xor]
  cases a.getLsbD i <;> cases b.getLsbD i <;> cases c.getLsbD i <;> cases d.getLsbD i <;> cases p.getLsbD i <;> cases q.getLsbD i <;>
    cases r.getLsbD i <;> cases s.getLsbD i <;> rfl

theorem unmix_even (a b c d p q r s : Byte) :
    (p ^^^ q ^^^ r ^^^ s) ^^^ (p ^^^ q ^^^ b ^^^ c ^^^ d) ^^^ (r ^^^ s ^^^ d ^^^ a ^^^ b) = a ^^^ c := by
  apply BitVec.eq_of_getLsbD_eq; intro i _
  simp only [BitVec.getLsbD_xor]
  cases a.getLsbD i <;> cases b.getLsbD i <;> cases c.getLsbD i <;> cases d.getLsbD i <;> cases p.getLsbD i <;> cases q.getLsbD i <;>
    cases r.getLsbD i <;> cases s.getLsbD i <;> rfl

theorem unmix_pair (a b c d p q r : Byte) :
    (p ^^^ r) ^^^ (p ^^^ q ^^^ b ^^^ c ^^^ d) ^^^ (q ^^^ r ^^^ c ^^^ d ^^^ a) = a ^^^ b := by
  apply BitVec.eq_of_getLsbD_eq; intro i _
  simp only [BitVec.getLsbD_xor]
  cases a.getLsbD i <;> cases b.getLsbD i <;> cases c.getLsbD i <;> cases d.getLsbD i <;> cases p.getLsbD i <;> cases q.getLsbD i <;>
    cases r.getLsbD i <;> rfl

theorem unmix_last (a b c d p q r s : Byte) :
    (p ^^^ q) ^^^ (q ^^^ r ^^^ c ^^^ d ^^^ a) ^^^ (r ^^^ s ^^^ d ^^^ a ^^^ b) ^^^ (s ^^^ p ^^^ a ^^^ b ^^^ c) = a := by
  apply BitVec.eq_of_getLsbD_eq; intro i _
  simp only [BitVec.getLsbD_xor]
  cases a.getLsbD i <;> cases b.getLsbD i <;> cases c.getLsbD i <;> cases d.getLsbD i <;> cases p.getLsbD i <;> cases q.getLsbD i <;>
    cases r.getLsbD i <;> cases s.getLsbD i <;> rfl

theorem unmix_mix (a b c d : Byte) :
    unmix1 (mix1 a b c d) (mix1 b c d a) (mix1 c d a b) (mix1 d a b c) = a := by
  simp only [unmix1, mix1]
  have h4 : xtime (a ^^^ b ^^^ c ^^^ d) = xtime a ^^^ xtime b ^^^ xtime c ^^^ xtime d := by simp only [xtime_xor]
  rw [unmix_sum, h4, unmix_even, xtime_xor a c, unmix_pair, xtime_xor a b, unmix_last]

theorem invMix_mix : ∀ s : List Byte, s.length % 4 = 0 → invMixColumns (mixColumns s) = s
  | [], _ => rfl
  | [_], h => by simp at h
  | [_, _], h => by simp at h
  | [_, _, _], h => by simp at h
  | a :: b :: c :: d :: r, h => by
    have hr : r.length % 4 = 0 := by simp at h; omega
    simp only [mixColumns, invMixColumns, unmix_mix, invMix_mix r hr]

theorem mix_length : ∀ s : List Byte, s.length % 4 = 0 → (mixColumns s).length = s.length
  | [], _ => rfl
  | [_], h => by simp at h
  | [_, _], h => by simp at h
  | [_, _, _], h => by simp at h
  | a :: b :: c :: d :: r, h => by
    have hr : r.length % 4 = 0 := by simp at h; omega
    simp [mixColumns, mix_length r hr]

/-! The rows. -/

theorem shiftRows_length (s : List Byte) : (shiftRows s).length = 16 := by simp [shiftRows]

theorem invShift_shift (s : List Byte) (h : s.length = 16) : invShiftRows (shiftRows s) = s := by
  match s, h with
  | [_, _, _, _, _, _, _, _, _, _, _, _, _, _, _, _], _ => rfl

/-! The round keys. -/

theorem addKey_length (s k : List Byte) : (addKey s k).length = Nat.min s.length k.length := by simp [addKey]

theorem addKey_addKey : ∀ s k : List Byte, s.length = k.length → addKey (addKey s k) k = s
  | [], _, _ => by simp [addKey]
  | _ :: _, [], h => by simp at h
  | a :: s, b :: k, h => by
    have := addKey_addKey s k (by simpa using h)
    simp only [addKey, List.zipWith_cons_cons, BitVec.xor_assoc, BitVec.xor_self, BitVec.xor_zero] at this ⊢
    rw [this]

/-- The rounds undone, where every state and round key has 16 bytes. -/
theorem aesUnround_aesRounds : ∀ (ks : List (List Byte)) (s : List Byte), s.length = 16 → (∀ k ∈ ks, k.length = 16) →
    aesUnround (aesRounds s ks) ks = s ∧ (aesRounds s ks).length = 16
  | [], s, h, _ => ⟨rfl, h⟩
  | [k], s, h, hk => by
    have h1 : (shiftRows (s.map sbox)).length = k.length := by rw [shiftRows_length, hk k (by simp)]
    refine ⟨?_, by simp [aesRounds, addKey_length, shiftRows_length, hk k]⟩
    simp only [aesRounds, aesUnround]
    rw [addKey_addKey _ _ h1, invShift_shift _ (by simpa using h), map_invSbox_sbox]
  | k :: k' :: r, s, h, hk => by
    have hm : (mixColumns (shiftRows (s.map sbox))).length = 16 := by
      rw [mix_length _ (by simp [shiftRows_length]), shiftRows_length]
    have h1 : (mixColumns (shiftRows (s.map sbox))).length = k.length := by rw [hm, hk k (by simp)]
    have ih := aesUnround_aesRounds (k' :: r) (addKey (mixColumns (shiftRows (s.map sbox))) k)
      (by simp [addKey_length, hm, hk k]) (fun x hx => hk x (by simp_all))
    refine ⟨?_, by simpa only [aesRounds] using ih.2⟩
    simp only [aesRounds, aesUnround]
    rw [ih.1, addKey_addKey _ _ h1, invMix_mix _ (by simp [shiftRows_length]), invShift_shift _ (by simpa using h), map_invSbox_sbox]

theorem nextKeys_length (c : Byte) (w : List Byte) (h : w.length = 32) : (nextKeys c w).length = 32 := by
  simp [nextKeys, addKey_length, h]

theorem keySchedule_length (n : Nat) (c : Byte) (w : List Byte) (h : w.length = 32) : (keySchedule n c w).length = 32 * (n + 1) := by
  induction n generalizing c w with
  | zero => simp [keySchedule, h]
  | succ n ih => simp [keySchedule, h, ih _ _ (nextKeys_length c w h)]; omega

theorem leBytes_length (n x : Nat) : (leBytes n x).length = n := by
  induction n generalizing x with
  | zero => rfl
  | succ n ih => simp [leBytes, ih]

theorem roundKeys_length (k : BitVec 256) : ∀ r ∈ roundKeys k, r.length = 16 := by
  intro r hr
  simp only [roundKeys, List.mem_map, List.mem_range] at hr
  obtain ⟨i, hi, rfl⟩ := hr
  have := keySchedule_length 7 1 _ (leBytes_length 32 k.toNat)
  simp only [List.length_take, List.length_drop]
  omega

/-! Blocks. -/

theorem ofLe_leBytes (n x : Nat) (h : x < 256 ^ n) : ofLe (leBytes n x) = x := by
  induction n generalizing x with
  | zero => simp at h; simp [leBytes, ofLe, h]
  | succ n ih =>
    have : x / 256 < 256 ^ n := by rw [Nat.div_lt_iff_lt_mul (by decide)]; rw [Nat.pow_succ] at h; exact h
    simp only [leBytes, ofLe, ih _ this, BitVec.toNat_ofNat]
    omega

theorem leBytes_ofLe (l : List Byte) : leBytes l.length (ofLe l) = l := by
  induction l with
  | nil => rfl
  | cons b r ih =>
    have hb := b.isLt
    have h1 : (b.toNat + 256 * ofLe r) / 256 = ofLe r := by omega
    have h2 : BitVec.ofNat 8 (b.toNat + 256 * ofLe r) = b := by
      apply BitVec.eq_of_toNat_eq; simp only [BitVec.toNat_ofNat]; omega
    simp only [List.length_cons, leBytes, ofLe, h1, h2, ih]

theorem ofLe_lt (l : List Byte) : ofLe l < 256 ^ l.length := by
  induction l with
  | nil => simp [ofLe]
  | cons b r ih =>
    have := b.isLt
    simp only [ofLe, List.length_cons, Nat.pow_succ]
    omega

/-- Decryption undoes encryption. -/
theorem aesDec_aesEnc (k : BitVec 256) (x : BitVec 128) : aesDec k (aesEnc k x) = x := by
  have hk := roundKeys_length k
  have hx : (leBytes 16 x.toNat).length = 16 := leBytes_length _ _
  simp only [aesDec, aesEnc, aesDecWith, aesEncWith]
  generalize hks : roundKeys k = ks at hk
  have hne : ks.headD [] ∈ ks := by rw [← hks]; simp [roundKeys, List.range_succ_eq_map]
  have h0 : (ks.headD []).length = 16 := hk _ hne
  have hs : (addKey (leBytes 16 x.toNat) (ks.headD [])).length = 16 := by rw [addKey_length, hx, h0]; rfl
  have hr := aesUnround_aesRounds ks.tail _ hs (fun r h => hk r (List.mem_of_mem_tail h))
  set y := aesRounds (addKey (leBytes 16 x.toNat) (ks.headD [])) ks.tail with hy
  have hlt := ofLe_lt y
  rw [hr.2] at hlt
  have hb : leBytes 16 (BitVec.ofNat 128 (ofLe y)).toNat = y := by
    have : (BitVec.ofNat 128 (ofLe y)).toNat = ofLe y := by
      simp only [BitVec.toNat_ofNat]; exact Nat.mod_eq_of_lt (by simpa using hlt)
    rw [this]; have := leBytes_ofLe y; rwa [hr.2] at this
  rw [hb, hr.1, addKey_addKey _ _ (by rw [hx, h0]), ofLe_leBytes _ _ (by have := x.isLt; simpa using this)]
  apply BitVec.eq_of_toNat_eq
  have := x.isLt
  simp
end Sys2Proof.Machine
end

