-- ==== Sys2Proof/Laws/SMap.lean ====
section
/-! SUPPORT. Laws of sparse maps: what a read gives after an update, and that updates keep the canonical form. -/

namespace Sys2Proof.Machine.SMap

variable {α : Type}

theorem find_put (m : SMap α) (a b : Nat) (x : α) : find (put m a x) b = if b = a then some x else find m b := by
  induction m with
  | nil => simp [put, find, eq_comm]
  | cons h t ih =>
    obtain ⟨k, v⟩ := h
    by_cases h1 : a < k
    · by_cases hb : b = a
      · subst hb; simp [put, h1, find]
      · simp [put, h1, find, hb, Ne.symm hb]
    · by_cases h2 : k = a
      · subst h2
        by_cases hb : b = k
        · subst hb; simp [put, find]
        · simp [put, find, hb, Ne.symm hb]
      · by_cases hb : b = k
        · subst hb; simp [put, h1, h2, find]
        · simp [put, h1, h2, find, ih, Ne.symm hb]

theorem find_del (m : SMap α) (a b : Nat) : find (del m a) b = if b = a then none else find m b := by
  induction m with
  | nil => simp [del, find]
  | cons h t ih =>
    obtain ⟨k, v⟩ := h
    by_cases h2 : k = a
    · subst h2
      by_cases hb : b = k
      · subst hb; simp [del, ih]
      · simp [del, ih, find, hb, Ne.symm hb]
    · by_cases hb : b = k
      · subst hb; simp [del, h2, find]
      · simp [del, h2, find, ih, Ne.symm hb]

theorem find_keep (p : Nat → Bool) (m : SMap α) (a : Nat) : find (keep p m) a = if p a then find m a else none := by
  induction m with
  | nil => simp [keep, find]
  | cons h t ih =>
    obtain ⟨k, v⟩ := h
    simp only [keep]
    by_cases hk : k = a
    · subst hk; by_cases hp : p k <;> simp [hp, find, ih]
    · by_cases hp : p k <;> simp [hp, find, ih, hk]

@[simp] theorem get_nil (d : Nat → α) (a : Nat) : get d [] a = d a := rfl

/-- A read after a write gives the value written, and every other key reads as before. -/
theorem get_set [DecidableEq α] (d : Nat → α) (m : SMap α) (a b : Nat) (x : α) :
    get d (set d m a x) b = if b = a then x else get d m b := by
  unfold get set
  split
  · rw [find_del]; split
    · subst_vars; simp
    · rfl
  · rw [find_put]; split <;> simp

@[simp] theorem get_set_same [DecidableEq α] (d : Nat → α) (m : SMap α) (a : Nat) (x : α) : get d (set d m a x) a = x := by
  simp [get_set]

theorem get_set_ne [DecidableEq α] (d : Nat → α) (m : SMap α) {a b : Nat} (x : α) (h : b ≠ a) :
    get d (set d m a x) b = get d m b := by simp [get_set, h]

theorem above_mono {m : SMap α} {a b : Nat} (h : above b m = true) (hab : a ≤ b) : above a m = true := by
  cases m with
  | nil => rfl
  | cons x t =>
    simp only [above, Bool.and_eq_true, decide_eq_true_eq] at h ⊢
    exact ⟨by omega, h.2⟩

theorem above_put {m : SMap α} {b a : Nat} {x : α} (h : above b m = true) (hb : b < a) : above b (put m a x) = true := by
  induction m generalizing b with
  | nil => simp [put, above, hb]
  | cons y t ih =>
    obtain ⟨k, v⟩ := y
    simp only [above, Bool.and_eq_true, decide_eq_true_eq] at h
    simp only [put]
    split
    · simp [above, *]
    · split
      · simp [above, h]
      · simp only [above, Bool.and_eq_true, decide_eq_true_eq]
        exact ⟨h.1, ih h.2 (by omega)⟩

theorem above_del {m : SMap α} {b : Nat} (a : Nat) (h : above b m = true) : above b (del m a) = true := by
  induction m generalizing b with
  | nil => rfl
  | cons y t ih =>
    obtain ⟨k, v⟩ := y
    simp only [above, Bool.and_eq_true, decide_eq_true_eq] at h
    simp only [del]
    split
    · exact ih (above_mono h.2 (by omega))
    · simp only [above, Bool.and_eq_true, decide_eq_true_eq]; exact ⟨h.1, ih h.2⟩

theorem above_keep {m : SMap α} {b : Nat} (p : Nat → Bool) (h : above b m = true) : above b (keep p m) = true := by
  induction m generalizing b with
  | nil => rfl
  | cons y t ih =>
    obtain ⟨k, v⟩ := y
    simp only [above, Bool.and_eq_true, decide_eq_true_eq] at h
    simp only [keep]
    split
    · simp only [above, Bool.and_eq_true, decide_eq_true_eq]; exact ⟨h.1, ih h.2⟩
    · exact ih (above_mono h.2 (by omega))

theorem sorted_of_above {m : SMap α} {b : Nat} (h : above b m = true) : sorted m = true := by
  cases m with
  | nil => rfl
  | cons x t =>
    simp only [above, Bool.and_eq_true] at h
    exact h.2

theorem sorted_put {m : SMap α} {a : Nat} {x : α} (h : sorted m = true) : sorted (put m a x) = true := by
  cases m with
  | nil => rfl
  | cons y t =>
    obtain ⟨k, v⟩ := y
    simp only [sorted] at h
    simp only [put]
    split
    · simp [sorted, above, *]
    · split
      · exact h
      · exact above_put (m := t) h (by omega)

theorem sorted_del {m : SMap α} (a : Nat) (h : sorted m = true) : sorted (del m a) = true := by
  cases m with
  | nil => rfl
  | cons y t =>
    obtain ⟨k, v⟩ := y
    simp only [sorted] at h
    simp only [del]
    split
    · exact sorted_of_above (above_del a h)
    · exact above_del a h

theorem sorted_keep {m : SMap α} (p : Nat → Bool) (h : sorted m = true) : sorted (keep p m) = true := by
  cases m with
  | nil => rfl
  | cons y t =>
    obtain ⟨k, v⟩ := y
    simp only [sorted] at h
    simp only [keep]
    split
    · exact above_keep p h
    · exact sorted_of_above (above_keep p h)

variable [DecidableEq α]

theorem tight_put {d : Nat → α} {m : SMap α} {a : Nat} {x : α} (h : tight d m = true) (hx : x ≠ d a) :
    tight d (put m a x) = true := by
  induction m with
  | nil => simp [put, tight, hx]
  | cons y t ih =>
    obtain ⟨k, v⟩ := y
    simp only [tight, Bool.and_eq_true, decide_eq_true_eq] at h
    simp only [put]
    split
    · simp [tight, h, hx]
    · split
      · subst_vars; simp [tight, h, hx]
      · simp only [tight, Bool.and_eq_true, decide_eq_true_eq]; exact ⟨h.1, ih h.2⟩

theorem tight_del {d : Nat → α} {m : SMap α} (a : Nat) (h : tight d m = true) : tight d (del m a) = true := by
  induction m with
  | nil => rfl
  | cons y t ih =>
    obtain ⟨k, v⟩ := y
    simp only [tight, Bool.and_eq_true, decide_eq_true_eq] at h
    simp only [del]
    split
    · exact ih h.2
    · simp only [tight, Bool.and_eq_true, decide_eq_true_eq]; exact ⟨h.1, ih h.2⟩

theorem tight_keep {d : Nat → α} {m : SMap α} (p : Nat → Bool) (h : tight d m = true) : tight d (keep p m) = true := by
  induction m with
  | nil => rfl
  | cons y t ih =>
    obtain ⟨k, v⟩ := y
    simp only [tight, Bool.and_eq_true, decide_eq_true_eq] at h
    simp only [keep]
    split
    · simp only [tight, Bool.and_eq_true, decide_eq_true_eq]; exact ⟨h.1, ih h.2⟩
    · exact ih h.2

/-- A write keeps the canonical form. -/
theorem wf_set {d : Nat → α} {m : SMap α} {a : Nat} {x : α} (h : wf d m = true) : wf d (set d m a x) = true := by
  simp only [wf, Bool.and_eq_true] at h ⊢
  unfold set
  split
  · exact ⟨sorted_del a h.1, tight_del a h.2⟩
  · exact ⟨sorted_put h.1, tight_put h.2 ‹_›⟩

/-- Forgetting keys keeps the canonical form. -/
theorem wf_keep {d : Nat → α} {m : SMap α} (p : Nat → Bool) (h : wf d m = true) : wf d (keep p m) = true := by
  simp only [wf, Bool.and_eq_true] at h ⊢
  exact ⟨sorted_keep p h.1, tight_keep p h.2⟩

theorem wf_del {d : Nat → α} {m : SMap α} (a : Nat) (h : wf d m = true) : wf d (del m a) = true := by
  simp only [wf, Bool.and_eq_true] at h ⊢
  exact ⟨sorted_del a h.1, tight_del a h.2⟩

end Sys2Proof.Machine.SMap
end

