-- ==== Sys2Proof/Laws/State.lean ====
section
/-! SUPPORT. One lemma for each field and each update of the device, so that no proof unfolds a record update; and what a
register or a byte reads as after each. -/

namespace Sys2Proof.Machine

variable (d : Dev)

@[simp] theorem Dev.onPins_board (f : Pins → Pins) : (d.onPins f).board = d.board := rfl
@[simp] theorem Dev.onPins_pins (f : Pins → Pins) : (d.onPins f).pins = f d.pins := rfl
@[simp] theorem Dev.onPins_regs (f : Pins → Pins) : (d.onPins f).regs = d.regs := rfl
@[simp] theorem Dev.onPins_mem (f : Pins → Pins) : (d.onPins f).mem = d.mem := rfl
@[simp] theorem Dev.onPins_tor (f : Pins → Pins) : (d.onPins f).tor = d.tor := rfl
@[simp] theorem Dev.onPins_cores (f : Pins → Pins) : (d.onPins f).cores = d.cores := rfl
@[simp] theorem Dev.onPins_gate (f : Pins → Pins) : (d.onPins f).gate = d.gate := rfl
@[simp] theorem Dev.onPins_cirque (f : Pins → Pins) : (d.onPins f).cirque = d.cirque := rfl
@[simp] theorem Dev.onPins_ox (f : Pins → Pins) : (d.onPins f).ox = d.ox := rfl
@[simp] theorem Dev.onPins_cairn (f : Pins → Pins) : (d.onPins f).cairn = d.cairn := rfl
@[simp] theorem Dev.onPins_cipher (f : Pins → Pins) : (d.onPins f).cipher = d.cipher := rfl
@[simp] theorem Dev.onPins_pens (f : Pins → Pins) : (d.onPins f).pens = d.pens := rfl
@[simp] theorem Dev.onPins_host (f : Pins → Pins) : (d.onPins f).host = d.host := rfl
@[simp] theorem Dev.onPins_media (f : Pins → Pins) : (d.onPins f).media = d.media := rfl
@[simp] theorem Dev.onPins_wr (f : Pins → Pins) : (d.onPins f).wr = d.wr := rfl
@[simp] theorem Dev.onPins_mules (f : Pins → Pins) : (d.onPins f).mules = d.mules := rfl
@[simp] theorem Dev.onPins_pair (f : Pins → Pins) : (d.onPins f).pair = d.pair := rfl
@[simp] theorem Dev.onPins_dram (f : Pins → Pins) : (d.onPins f).dram = d.dram := rfl
@[simp] theorem Dev.onPins_fw (f : Pins → Pins) : (d.onPins f).fw = d.fw := rfl
@[simp] theorem Dev.onPins_tick (f : Pins → Pins) : (d.onPins f).tick = d.tick := rfl
@[simp] theorem Dev.onPins_free (f : Pins → Pins) : (d.onPins f).free = d.free := rfl
@[simp] theorem Dev.onPins_rd (f : Pins → Pins) (a : Nat) : (d.onPins f).rd a = d.rd a := rfl
@[simp] theorem Dev.onPins_byte (f : Pins → Pins) (a : Nat) : (d.onPins f).byte a = d.byte a := rfl
@[simp] theorem Dev.onPins_bit (f : Pins → Pins) (a n : Nat) : (d.onPins f).bit a n = d.bit a n := rfl
@[simp] theorem Dev.onPins_fld (f : Pins → Pins) (a hi lo : Nat) : (d.onPins f).fld a hi lo = d.fld a hi lo := rfl

@[simp] theorem Dev.onTor_board (f : Tor → Tor) : (d.onTor f).board = d.board := rfl
@[simp] theorem Dev.onTor_pins (f : Tor → Tor) : (d.onTor f).pins = d.pins := rfl
@[simp] theorem Dev.onTor_regs (f : Tor → Tor) : (d.onTor f).regs = d.regs := rfl
@[simp] theorem Dev.onTor_mem (f : Tor → Tor) : (d.onTor f).mem = d.mem := rfl
@[simp] theorem Dev.onTor_tor (f : Tor → Tor) : (d.onTor f).tor = f d.tor := rfl
@[simp] theorem Dev.onTor_cores (f : Tor → Tor) : (d.onTor f).cores = d.cores := rfl
@[simp] theorem Dev.onTor_gate (f : Tor → Tor) : (d.onTor f).gate = d.gate := rfl
@[simp] theorem Dev.onTor_cirque (f : Tor → Tor) : (d.onTor f).cirque = d.cirque := rfl
@[simp] theorem Dev.onTor_ox (f : Tor → Tor) : (d.onTor f).ox = d.ox := rfl
@[simp] theorem Dev.onTor_cairn (f : Tor → Tor) : (d.onTor f).cairn = d.cairn := rfl
@[simp] theorem Dev.onTor_cipher (f : Tor → Tor) : (d.onTor f).cipher = d.cipher := rfl
@[simp] theorem Dev.onTor_pens (f : Tor → Tor) : (d.onTor f).pens = d.pens := rfl
@[simp] theorem Dev.onTor_host (f : Tor → Tor) : (d.onTor f).host = d.host := rfl
@[simp] theorem Dev.onTor_media (f : Tor → Tor) : (d.onTor f).media = d.media := rfl
@[simp] theorem Dev.onTor_wr (f : Tor → Tor) : (d.onTor f).wr = d.wr := rfl
@[simp] theorem Dev.onTor_mules (f : Tor → Tor) : (d.onTor f).mules = d.mules := rfl
@[simp] theorem Dev.onTor_pair (f : Tor → Tor) : (d.onTor f).pair = d.pair := rfl
@[simp] theorem Dev.onTor_dram (f : Tor → Tor) : (d.onTor f).dram = d.dram := rfl
@[simp] theorem Dev.onTor_fw (f : Tor → Tor) : (d.onTor f).fw = d.fw := rfl
@[simp] theorem Dev.onTor_tick (f : Tor → Tor) : (d.onTor f).tick = d.tick := rfl
@[simp] theorem Dev.onTor_free (f : Tor → Tor) : (d.onTor f).free = d.free := rfl
@[simp] theorem Dev.onTor_rd (f : Tor → Tor) (a : Nat) : (d.onTor f).rd a = d.rd a := rfl
@[simp] theorem Dev.onTor_byte (f : Tor → Tor) (a : Nat) : (d.onTor f).byte a = d.byte a := rfl
@[simp] theorem Dev.onTor_bit (f : Tor → Tor) (a n : Nat) : (d.onTor f).bit a n = d.bit a n := rfl
@[simp] theorem Dev.onTor_fld (f : Tor → Tor) (a hi lo : Nat) : (d.onTor f).fld a hi lo = d.fld a hi lo := rfl

@[simp] theorem Dev.onCores_board (f : Cores → Cores) : (d.onCores f).board = d.board := rfl
@[simp] theorem Dev.onCores_pins (f : Cores → Cores) : (d.onCores f).pins = d.pins := rfl
@[simp] theorem Dev.onCores_regs (f : Cores → Cores) : (d.onCores f).regs = d.regs := rfl
@[simp] theorem Dev.onCores_mem (f : Cores → Cores) : (d.onCores f).mem = d.mem := rfl
@[simp] theorem Dev.onCores_tor (f : Cores → Cores) : (d.onCores f).tor = d.tor := rfl
@[simp] theorem Dev.onCores_cores (f : Cores → Cores) : (d.onCores f).cores = f d.cores := rfl
@[simp] theorem Dev.onCores_gate (f : Cores → Cores) : (d.onCores f).gate = d.gate := rfl
@[simp] theorem Dev.onCores_cirque (f : Cores → Cores) : (d.onCores f).cirque = d.cirque := rfl
@[simp] theorem Dev.onCores_ox (f : Cores → Cores) : (d.onCores f).ox = d.ox := rfl
@[simp] theorem Dev.onCores_cairn (f : Cores → Cores) : (d.onCores f).cairn = d.cairn := rfl
@[simp] theorem Dev.onCores_cipher (f : Cores → Cores) : (d.onCores f).cipher = d.cipher := rfl
@[simp] theorem Dev.onCores_pens (f : Cores → Cores) : (d.onCores f).pens = d.pens := rfl
@[simp] theorem Dev.onCores_host (f : Cores → Cores) : (d.onCores f).host = d.host := rfl
@[simp] theorem Dev.onCores_media (f : Cores → Cores) : (d.onCores f).media = d.media := rfl
@[simp] theorem Dev.onCores_wr (f : Cores → Cores) : (d.onCores f).wr = d.wr := rfl
@[simp] theorem Dev.onCores_mules (f : Cores → Cores) : (d.onCores f).mules = d.mules := rfl
@[simp] theorem Dev.onCores_pair (f : Cores → Cores) : (d.onCores f).pair = d.pair := rfl
@[simp] theorem Dev.onCores_dram (f : Cores → Cores) : (d.onCores f).dram = d.dram := rfl
@[simp] theorem Dev.onCores_fw (f : Cores → Cores) : (d.onCores f).fw = d.fw := rfl
@[simp] theorem Dev.onCores_tick (f : Cores → Cores) : (d.onCores f).tick = d.tick := rfl
@[simp] theorem Dev.onCores_free (f : Cores → Cores) : (d.onCores f).free = d.free := rfl
@[simp] theorem Dev.onCores_rd (f : Cores → Cores) (a : Nat) : (d.onCores f).rd a = d.rd a := rfl
@[simp] theorem Dev.onCores_byte (f : Cores → Cores) (a : Nat) : (d.onCores f).byte a = d.byte a := rfl
@[simp] theorem Dev.onCores_bit (f : Cores → Cores) (a n : Nat) : (d.onCores f).bit a n = d.bit a n := rfl
@[simp] theorem Dev.onCores_fld (f : Cores → Cores) (a hi lo : Nat) : (d.onCores f).fld a hi lo = d.fld a hi lo := rfl

@[simp] theorem Dev.onGate_board (f : Gate → Gate) : (d.onGate f).board = d.board := rfl
@[simp] theorem Dev.onGate_pins (f : Gate → Gate) : (d.onGate f).pins = d.pins := rfl
@[simp] theorem Dev.onGate_regs (f : Gate → Gate) : (d.onGate f).regs = d.regs := rfl
@[simp] theorem Dev.onGate_mem (f : Gate → Gate) : (d.onGate f).mem = d.mem := rfl
@[simp] theorem Dev.onGate_tor (f : Gate → Gate) : (d.onGate f).tor = d.tor := rfl
@[simp] theorem Dev.onGate_cores (f : Gate → Gate) : (d.onGate f).cores = d.cores := rfl
@[simp] theorem Dev.onGate_gate (f : Gate → Gate) : (d.onGate f).gate = f d.gate := rfl
@[simp] theorem Dev.onGate_cirque (f : Gate → Gate) : (d.onGate f).cirque = d.cirque := rfl
@[simp] theorem Dev.onGate_ox (f : Gate → Gate) : (d.onGate f).ox = d.ox := rfl
@[simp] theorem Dev.onGate_cairn (f : Gate → Gate) : (d.onGate f).cairn = d.cairn := rfl
@[simp] theorem Dev.onGate_cipher (f : Gate → Gate) : (d.onGate f).cipher = d.cipher := rfl
@[simp] theorem Dev.onGate_pens (f : Gate → Gate) : (d.onGate f).pens = d.pens := rfl
@[simp] theorem Dev.onGate_host (f : Gate → Gate) : (d.onGate f).host = d.host := rfl
@[simp] theorem Dev.onGate_media (f : Gate → Gate) : (d.onGate f).media = d.media := rfl
@[simp] theorem Dev.onGate_wr (f : Gate → Gate) : (d.onGate f).wr = d.wr := rfl
@[simp] theorem Dev.onGate_mules (f : Gate → Gate) : (d.onGate f).mules = d.mules := rfl
@[simp] theorem Dev.onGate_pair (f : Gate → Gate) : (d.onGate f).pair = d.pair := rfl
@[simp] theorem Dev.onGate_dram (f : Gate → Gate) : (d.onGate f).dram = d.dram := rfl
@[simp] theorem Dev.onGate_fw (f : Gate → Gate) : (d.onGate f).fw = d.fw := rfl
@[simp] theorem Dev.onGate_tick (f : Gate → Gate) : (d.onGate f).tick = d.tick := rfl
@[simp] theorem Dev.onGate_free (f : Gate → Gate) : (d.onGate f).free = d.free := rfl
@[simp] theorem Dev.onGate_rd (f : Gate → Gate) (a : Nat) : (d.onGate f).rd a = d.rd a := rfl
@[simp] theorem Dev.onGate_byte (f : Gate → Gate) (a : Nat) : (d.onGate f).byte a = d.byte a := rfl
@[simp] theorem Dev.onGate_bit (f : Gate → Gate) (a n : Nat) : (d.onGate f).bit a n = d.bit a n := rfl
@[simp] theorem Dev.onGate_fld (f : Gate → Gate) (a hi lo : Nat) : (d.onGate f).fld a hi lo = d.fld a hi lo := rfl

@[simp] theorem Dev.onCirque_board (f : Cirque → Cirque) : (d.onCirque f).board = d.board := rfl
@[simp] theorem Dev.onCirque_pins (f : Cirque → Cirque) : (d.onCirque f).pins = d.pins := rfl
@[simp] theorem Dev.onCirque_regs (f : Cirque → Cirque) : (d.onCirque f).regs = d.regs := rfl
@[simp] theorem Dev.onCirque_mem (f : Cirque → Cirque) : (d.onCirque f).mem = d.mem := rfl
@[simp] theorem Dev.onCirque_tor (f : Cirque → Cirque) : (d.onCirque f).tor = d.tor := rfl
@[simp] theorem Dev.onCirque_cores (f : Cirque → Cirque) : (d.onCirque f).cores = d.cores := rfl
@[simp] theorem Dev.onCirque_gate (f : Cirque → Cirque) : (d.onCirque f).gate = d.gate := rfl
@[simp] theorem Dev.onCirque_cirque (f : Cirque → Cirque) : (d.onCirque f).cirque = f d.cirque := rfl
@[simp] theorem Dev.onCirque_ox (f : Cirque → Cirque) : (d.onCirque f).ox = d.ox := rfl
@[simp] theorem Dev.onCirque_cairn (f : Cirque → Cirque) : (d.onCirque f).cairn = d.cairn := rfl
@[simp] theorem Dev.onCirque_cipher (f : Cirque → Cirque) : (d.onCirque f).cipher = d.cipher := rfl
@[simp] theorem Dev.onCirque_pens (f : Cirque → Cirque) : (d.onCirque f).pens = d.pens := rfl
@[simp] theorem Dev.onCirque_host (f : Cirque → Cirque) : (d.onCirque f).host = d.host := rfl
@[simp] theorem Dev.onCirque_media (f : Cirque → Cirque) : (d.onCirque f).media = d.media := rfl
@[simp] theorem Dev.onCirque_wr (f : Cirque → Cirque) : (d.onCirque f).wr = d.wr := rfl
@[simp] theorem Dev.onCirque_mules (f : Cirque → Cirque) : (d.onCirque f).mules = d.mules := rfl
@[simp] theorem Dev.onCirque_pair (f : Cirque → Cirque) : (d.onCirque f).pair = d.pair := rfl
@[simp] theorem Dev.onCirque_dram (f : Cirque → Cirque) : (d.onCirque f).dram = d.dram := rfl
@[simp] theorem Dev.onCirque_fw (f : Cirque → Cirque) : (d.onCirque f).fw = d.fw := rfl
@[simp] theorem Dev.onCirque_tick (f : Cirque → Cirque) : (d.onCirque f).tick = d.tick := rfl
@[simp] theorem Dev.onCirque_free (f : Cirque → Cirque) : (d.onCirque f).free = d.free := rfl
@[simp] theorem Dev.onCirque_rd (f : Cirque → Cirque) (a : Nat) : (d.onCirque f).rd a = d.rd a := rfl
@[simp] theorem Dev.onCirque_byte (f : Cirque → Cirque) (a : Nat) : (d.onCirque f).byte a = d.byte a := rfl
@[simp] theorem Dev.onCirque_bit (f : Cirque → Cirque) (a n : Nat) : (d.onCirque f).bit a n = d.bit a n := rfl
@[simp] theorem Dev.onCirque_fld (f : Cirque → Cirque) (a hi lo : Nat) : (d.onCirque f).fld a hi lo = d.fld a hi lo := rfl

@[simp] theorem Dev.onOx_board (f : Ox → Ox) : (d.onOx f).board = d.board := rfl
@[simp] theorem Dev.onOx_pins (f : Ox → Ox) : (d.onOx f).pins = d.pins := rfl
@[simp] theorem Dev.onOx_regs (f : Ox → Ox) : (d.onOx f).regs = d.regs := rfl
@[simp] theorem Dev.onOx_mem (f : Ox → Ox) : (d.onOx f).mem = d.mem := rfl
@[simp] theorem Dev.onOx_tor (f : Ox → Ox) : (d.onOx f).tor = d.tor := rfl
@[simp] theorem Dev.onOx_cores (f : Ox → Ox) : (d.onOx f).cores = d.cores := rfl
@[simp] theorem Dev.onOx_gate (f : Ox → Ox) : (d.onOx f).gate = d.gate := rfl
@[simp] theorem Dev.onOx_cirque (f : Ox → Ox) : (d.onOx f).cirque = d.cirque := rfl
@[simp] theorem Dev.onOx_ox (f : Ox → Ox) : (d.onOx f).ox = f d.ox := rfl
@[simp] theorem Dev.onOx_cairn (f : Ox → Ox) : (d.onOx f).cairn = d.cairn := rfl
@[simp] theorem Dev.onOx_cipher (f : Ox → Ox) : (d.onOx f).cipher = d.cipher := rfl
@[simp] theorem Dev.onOx_pens (f : Ox → Ox) : (d.onOx f).pens = d.pens := rfl
@[simp] theorem Dev.onOx_host (f : Ox → Ox) : (d.onOx f).host = d.host := rfl
@[simp] theorem Dev.onOx_media (f : Ox → Ox) : (d.onOx f).media = d.media := rfl
@[simp] theorem Dev.onOx_wr (f : Ox → Ox) : (d.onOx f).wr = d.wr := rfl
@[simp] theorem Dev.onOx_mules (f : Ox → Ox) : (d.onOx f).mules = d.mules := rfl
@[simp] theorem Dev.onOx_pair (f : Ox → Ox) : (d.onOx f).pair = d.pair := rfl
@[simp] theorem Dev.onOx_dram (f : Ox → Ox) : (d.onOx f).dram = d.dram := rfl
@[simp] theorem Dev.onOx_fw (f : Ox → Ox) : (d.onOx f).fw = d.fw := rfl
@[simp] theorem Dev.onOx_tick (f : Ox → Ox) : (d.onOx f).tick = d.tick := rfl
@[simp] theorem Dev.onOx_free (f : Ox → Ox) : (d.onOx f).free = d.free := rfl
@[simp] theorem Dev.onOx_rd (f : Ox → Ox) (a : Nat) : (d.onOx f).rd a = d.rd a := rfl
@[simp] theorem Dev.onOx_byte (f : Ox → Ox) (a : Nat) : (d.onOx f).byte a = d.byte a := rfl
@[simp] theorem Dev.onOx_bit (f : Ox → Ox) (a n : Nat) : (d.onOx f).bit a n = d.bit a n := rfl
@[simp] theorem Dev.onOx_fld (f : Ox → Ox) (a hi lo : Nat) : (d.onOx f).fld a hi lo = d.fld a hi lo := rfl

@[simp] theorem Dev.onCairn_board (f : Cairn → Cairn) : (d.onCairn f).board = d.board := rfl
@[simp] theorem Dev.onCairn_pins (f : Cairn → Cairn) : (d.onCairn f).pins = d.pins := rfl
@[simp] theorem Dev.onCairn_regs (f : Cairn → Cairn) : (d.onCairn f).regs = d.regs := rfl
@[simp] theorem Dev.onCairn_mem (f : Cairn → Cairn) : (d.onCairn f).mem = d.mem := rfl
@[simp] theorem Dev.onCairn_tor (f : Cairn → Cairn) : (d.onCairn f).tor = d.tor := rfl
@[simp] theorem Dev.onCairn_cores (f : Cairn → Cairn) : (d.onCairn f).cores = d.cores := rfl
@[simp] theorem Dev.onCairn_gate (f : Cairn → Cairn) : (d.onCairn f).gate = d.gate := rfl
@[simp] theorem Dev.onCairn_cirque (f : Cairn → Cairn) : (d.onCairn f).cirque = d.cirque := rfl
@[simp] theorem Dev.onCairn_ox (f : Cairn → Cairn) : (d.onCairn f).ox = d.ox := rfl
@[simp] theorem Dev.onCairn_cairn (f : Cairn → Cairn) : (d.onCairn f).cairn = f d.cairn := rfl
@[simp] theorem Dev.onCairn_cipher (f : Cairn → Cairn) : (d.onCairn f).cipher = d.cipher := rfl
@[simp] theorem Dev.onCairn_pens (f : Cairn → Cairn) : (d.onCairn f).pens = d.pens := rfl
@[simp] theorem Dev.onCairn_host (f : Cairn → Cairn) : (d.onCairn f).host = d.host := rfl
@[simp] theorem Dev.onCairn_media (f : Cairn → Cairn) : (d.onCairn f).media = d.media := rfl
@[simp] theorem Dev.onCairn_wr (f : Cairn → Cairn) : (d.onCairn f).wr = d.wr := rfl
@[simp] theorem Dev.onCairn_mules (f : Cairn → Cairn) : (d.onCairn f).mules = d.mules := rfl
@[simp] theorem Dev.onCairn_pair (f : Cairn → Cairn) : (d.onCairn f).pair = d.pair := rfl
@[simp] theorem Dev.onCairn_dram (f : Cairn → Cairn) : (d.onCairn f).dram = d.dram := rfl
@[simp] theorem Dev.onCairn_fw (f : Cairn → Cairn) : (d.onCairn f).fw = d.fw := rfl
@[simp] theorem Dev.onCairn_tick (f : Cairn → Cairn) : (d.onCairn f).tick = d.tick := rfl
@[simp] theorem Dev.onCairn_free (f : Cairn → Cairn) : (d.onCairn f).free = d.free := rfl
@[simp] theorem Dev.onCairn_rd (f : Cairn → Cairn) (a : Nat) : (d.onCairn f).rd a = d.rd a := rfl
@[simp] theorem Dev.onCairn_byte (f : Cairn → Cairn) (a : Nat) : (d.onCairn f).byte a = d.byte a := rfl
@[simp] theorem Dev.onCairn_bit (f : Cairn → Cairn) (a n : Nat) : (d.onCairn f).bit a n = d.bit a n := rfl
@[simp] theorem Dev.onCairn_fld (f : Cairn → Cairn) (a hi lo : Nat) : (d.onCairn f).fld a hi lo = d.fld a hi lo := rfl

@[simp] theorem Dev.onCipher_board (f : Cipher → Cipher) : (d.onCipher f).board = d.board := rfl
@[simp] theorem Dev.onCipher_pins (f : Cipher → Cipher) : (d.onCipher f).pins = d.pins := rfl
@[simp] theorem Dev.onCipher_regs (f : Cipher → Cipher) : (d.onCipher f).regs = d.regs := rfl
@[simp] theorem Dev.onCipher_mem (f : Cipher → Cipher) : (d.onCipher f).mem = d.mem := rfl
@[simp] theorem Dev.onCipher_tor (f : Cipher → Cipher) : (d.onCipher f).tor = d.tor := rfl
@[simp] theorem Dev.onCipher_cores (f : Cipher → Cipher) : (d.onCipher f).cores = d.cores := rfl
@[simp] theorem Dev.onCipher_gate (f : Cipher → Cipher) : (d.onCipher f).gate = d.gate := rfl
@[simp] theorem Dev.onCipher_cirque (f : Cipher → Cipher) : (d.onCipher f).cirque = d.cirque := rfl
@[simp] theorem Dev.onCipher_ox (f : Cipher → Cipher) : (d.onCipher f).ox = d.ox := rfl
@[simp] theorem Dev.onCipher_cairn (f : Cipher → Cipher) : (d.onCipher f).cairn = d.cairn := rfl
@[simp] theorem Dev.onCipher_cipher (f : Cipher → Cipher) : (d.onCipher f).cipher = f d.cipher := rfl
@[simp] theorem Dev.onCipher_pens (f : Cipher → Cipher) : (d.onCipher f).pens = d.pens := rfl
@[simp] theorem Dev.onCipher_host (f : Cipher → Cipher) : (d.onCipher f).host = d.host := rfl
@[simp] theorem Dev.onCipher_media (f : Cipher → Cipher) : (d.onCipher f).media = d.media := rfl
@[simp] theorem Dev.onCipher_wr (f : Cipher → Cipher) : (d.onCipher f).wr = d.wr := rfl
@[simp] theorem Dev.onCipher_mules (f : Cipher → Cipher) : (d.onCipher f).mules = d.mules := rfl
@[simp] theorem Dev.onCipher_pair (f : Cipher → Cipher) : (d.onCipher f).pair = d.pair := rfl
@[simp] theorem Dev.onCipher_dram (f : Cipher → Cipher) : (d.onCipher f).dram = d.dram := rfl
@[simp] theorem Dev.onCipher_fw (f : Cipher → Cipher) : (d.onCipher f).fw = d.fw := rfl
@[simp] theorem Dev.onCipher_tick (f : Cipher → Cipher) : (d.onCipher f).tick = d.tick := rfl
@[simp] theorem Dev.onCipher_free (f : Cipher → Cipher) : (d.onCipher f).free = d.free := rfl
@[simp] theorem Dev.onCipher_rd (f : Cipher → Cipher) (a : Nat) : (d.onCipher f).rd a = d.rd a := rfl
@[simp] theorem Dev.onCipher_byte (f : Cipher → Cipher) (a : Nat) : (d.onCipher f).byte a = d.byte a := rfl
@[simp] theorem Dev.onCipher_bit (f : Cipher → Cipher) (a n : Nat) : (d.onCipher f).bit a n = d.bit a n := rfl
@[simp] theorem Dev.onCipher_fld (f : Cipher → Cipher) (a hi lo : Nat) : (d.onCipher f).fld a hi lo = d.fld a hi lo := rfl

@[simp] theorem Dev.onPens_board (f : Pens → Pens) : (d.onPens f).board = d.board := rfl
@[simp] theorem Dev.onPens_pins (f : Pens → Pens) : (d.onPens f).pins = d.pins := rfl
@[simp] theorem Dev.onPens_regs (f : Pens → Pens) : (d.onPens f).regs = d.regs := rfl
@[simp] theorem Dev.onPens_mem (f : Pens → Pens) : (d.onPens f).mem = d.mem := rfl
@[simp] theorem Dev.onPens_tor (f : Pens → Pens) : (d.onPens f).tor = d.tor := rfl
@[simp] theorem Dev.onPens_cores (f : Pens → Pens) : (d.onPens f).cores = d.cores := rfl
@[simp] theorem Dev.onPens_gate (f : Pens → Pens) : (d.onPens f).gate = d.gate := rfl
@[simp] theorem Dev.onPens_cirque (f : Pens → Pens) : (d.onPens f).cirque = d.cirque := rfl
@[simp] theorem Dev.onPens_ox (f : Pens → Pens) : (d.onPens f).ox = d.ox := rfl
@[simp] theorem Dev.onPens_cairn (f : Pens → Pens) : (d.onPens f).cairn = d.cairn := rfl
@[simp] theorem Dev.onPens_cipher (f : Pens → Pens) : (d.onPens f).cipher = d.cipher := rfl
@[simp] theorem Dev.onPens_pens (f : Pens → Pens) : (d.onPens f).pens = f d.pens := rfl
@[simp] theorem Dev.onPens_host (f : Pens → Pens) : (d.onPens f).host = d.host := rfl
@[simp] theorem Dev.onPens_media (f : Pens → Pens) : (d.onPens f).media = d.media := rfl
@[simp] theorem Dev.onPens_wr (f : Pens → Pens) : (d.onPens f).wr = d.wr := rfl
@[simp] theorem Dev.onPens_mules (f : Pens → Pens) : (d.onPens f).mules = d.mules := rfl
@[simp] theorem Dev.onPens_pair (f : Pens → Pens) : (d.onPens f).pair = d.pair := rfl
@[simp] theorem Dev.onPens_dram (f : Pens → Pens) : (d.onPens f).dram = d.dram := rfl
@[simp] theorem Dev.onPens_fw (f : Pens → Pens) : (d.onPens f).fw = d.fw := rfl
@[simp] theorem Dev.onPens_tick (f : Pens → Pens) : (d.onPens f).tick = d.tick := rfl
@[simp] theorem Dev.onPens_free (f : Pens → Pens) : (d.onPens f).free = d.free := rfl
@[simp] theorem Dev.onPens_rd (f : Pens → Pens) (a : Nat) : (d.onPens f).rd a = d.rd a := rfl
@[simp] theorem Dev.onPens_byte (f : Pens → Pens) (a : Nat) : (d.onPens f).byte a = d.byte a := rfl
@[simp] theorem Dev.onPens_bit (f : Pens → Pens) (a n : Nat) : (d.onPens f).bit a n = d.bit a n := rfl
@[simp] theorem Dev.onPens_fld (f : Pens → Pens) (a hi lo : Nat) : (d.onPens f).fld a hi lo = d.fld a hi lo := rfl

@[simp] theorem Dev.onHost_board (f : HostIf → HostIf) : (d.onHost f).board = d.board := rfl
@[simp] theorem Dev.onHost_pins (f : HostIf → HostIf) : (d.onHost f).pins = d.pins := rfl
@[simp] theorem Dev.onHost_regs (f : HostIf → HostIf) : (d.onHost f).regs = d.regs := rfl
@[simp] theorem Dev.onHost_mem (f : HostIf → HostIf) : (d.onHost f).mem = d.mem := rfl
@[simp] theorem Dev.onHost_tor (f : HostIf → HostIf) : (d.onHost f).tor = d.tor := rfl
@[simp] theorem Dev.onHost_cores (f : HostIf → HostIf) : (d.onHost f).cores = d.cores := rfl
@[simp] theorem Dev.onHost_gate (f : HostIf → HostIf) : (d.onHost f).gate = d.gate := rfl
@[simp] theorem Dev.onHost_cirque (f : HostIf → HostIf) : (d.onHost f).cirque = d.cirque := rfl
@[simp] theorem Dev.onHost_ox (f : HostIf → HostIf) : (d.onHost f).ox = d.ox := rfl
@[simp] theorem Dev.onHost_cairn (f : HostIf → HostIf) : (d.onHost f).cairn = d.cairn := rfl
@[simp] theorem Dev.onHost_cipher (f : HostIf → HostIf) : (d.onHost f).cipher = d.cipher := rfl
@[simp] theorem Dev.onHost_pens (f : HostIf → HostIf) : (d.onHost f).pens = d.pens := rfl
@[simp] theorem Dev.onHost_host (f : HostIf → HostIf) : (d.onHost f).host = f d.host := rfl
@[simp] theorem Dev.onHost_media (f : HostIf → HostIf) : (d.onHost f).media = d.media := rfl
@[simp] theorem Dev.onHost_wr (f : HostIf → HostIf) : (d.onHost f).wr = d.wr := rfl
@[simp] theorem Dev.onHost_mules (f : HostIf → HostIf) : (d.onHost f).mules = d.mules := rfl
@[simp] theorem Dev.onHost_pair (f : HostIf → HostIf) : (d.onHost f).pair = d.pair := rfl
@[simp] theorem Dev.onHost_dram (f : HostIf → HostIf) : (d.onHost f).dram = d.dram := rfl
@[simp] theorem Dev.onHost_fw (f : HostIf → HostIf) : (d.onHost f).fw = d.fw := rfl
@[simp] theorem Dev.onHost_tick (f : HostIf → HostIf) : (d.onHost f).tick = d.tick := rfl
@[simp] theorem Dev.onHost_free (f : HostIf → HostIf) : (d.onHost f).free = d.free := rfl
@[simp] theorem Dev.onHost_rd (f : HostIf → HostIf) (a : Nat) : (d.onHost f).rd a = d.rd a := rfl
@[simp] theorem Dev.onHost_byte (f : HostIf → HostIf) (a : Nat) : (d.onHost f).byte a = d.byte a := rfl
@[simp] theorem Dev.onHost_bit (f : HostIf → HostIf) (a n : Nat) : (d.onHost f).bit a n = d.bit a n := rfl
@[simp] theorem Dev.onHost_fld (f : HostIf → HostIf) (a hi lo : Nat) : (d.onHost f).fld a hi lo = d.fld a hi lo := rfl

@[simp] theorem Dev.onMedia_board (f : Media → Media) : (d.onMedia f).board = d.board := rfl
@[simp] theorem Dev.onMedia_pins (f : Media → Media) : (d.onMedia f).pins = d.pins := rfl
@[simp] theorem Dev.onMedia_regs (f : Media → Media) : (d.onMedia f).regs = d.regs := rfl
@[simp] theorem Dev.onMedia_mem (f : Media → Media) : (d.onMedia f).mem = d.mem := rfl
@[simp] theorem Dev.onMedia_tor (f : Media → Media) : (d.onMedia f).tor = d.tor := rfl
@[simp] theorem Dev.onMedia_cores (f : Media → Media) : (d.onMedia f).cores = d.cores := rfl
@[simp] theorem Dev.onMedia_gate (f : Media → Media) : (d.onMedia f).gate = d.gate := rfl
@[simp] theorem Dev.onMedia_cirque (f : Media → Media) : (d.onMedia f).cirque = d.cirque := rfl
@[simp] theorem Dev.onMedia_ox (f : Media → Media) : (d.onMedia f).ox = d.ox := rfl
@[simp] theorem Dev.onMedia_cairn (f : Media → Media) : (d.onMedia f).cairn = d.cairn := rfl
@[simp] theorem Dev.onMedia_cipher (f : Media → Media) : (d.onMedia f).cipher = d.cipher := rfl
@[simp] theorem Dev.onMedia_pens (f : Media → Media) : (d.onMedia f).pens = d.pens := rfl
@[simp] theorem Dev.onMedia_host (f : Media → Media) : (d.onMedia f).host = d.host := rfl
@[simp] theorem Dev.onMedia_media (f : Media → Media) : (d.onMedia f).media = f d.media := rfl
@[simp] theorem Dev.onMedia_wr (f : Media → Media) : (d.onMedia f).wr = d.wr := rfl
@[simp] theorem Dev.onMedia_mules (f : Media → Media) : (d.onMedia f).mules = d.mules := rfl
@[simp] theorem Dev.onMedia_pair (f : Media → Media) : (d.onMedia f).pair = d.pair := rfl
@[simp] theorem Dev.onMedia_dram (f : Media → Media) : (d.onMedia f).dram = d.dram := rfl
@[simp] theorem Dev.onMedia_fw (f : Media → Media) : (d.onMedia f).fw = d.fw := rfl
@[simp] theorem Dev.onMedia_tick (f : Media → Media) : (d.onMedia f).tick = d.tick := rfl
@[simp] theorem Dev.onMedia_free (f : Media → Media) : (d.onMedia f).free = d.free := rfl
@[simp] theorem Dev.onMedia_rd (f : Media → Media) (a : Nat) : (d.onMedia f).rd a = d.rd a := rfl
@[simp] theorem Dev.onMedia_byte (f : Media → Media) (a : Nat) : (d.onMedia f).byte a = d.byte a := rfl
@[simp] theorem Dev.onMedia_bit (f : Media → Media) (a n : Nat) : (d.onMedia f).bit a n = d.bit a n := rfl
@[simp] theorem Dev.onMedia_fld (f : Media → Media) (a hi lo : Nat) : (d.onMedia f).fld a hi lo = d.fld a hi lo := rfl

@[simp] theorem Dev.onWr_board (f : Wr → Wr) : (d.onWr f).board = d.board := rfl
@[simp] theorem Dev.onWr_pins (f : Wr → Wr) : (d.onWr f).pins = d.pins := rfl
@[simp] theorem Dev.onWr_regs (f : Wr → Wr) : (d.onWr f).regs = d.regs := rfl
@[simp] theorem Dev.onWr_mem (f : Wr → Wr) : (d.onWr f).mem = d.mem := rfl
@[simp] theorem Dev.onWr_tor (f : Wr → Wr) : (d.onWr f).tor = d.tor := rfl
@[simp] theorem Dev.onWr_cores (f : Wr → Wr) : (d.onWr f).cores = d.cores := rfl
@[simp] theorem Dev.onWr_gate (f : Wr → Wr) : (d.onWr f).gate = d.gate := rfl
@[simp] theorem Dev.onWr_cirque (f : Wr → Wr) : (d.onWr f).cirque = d.cirque := rfl
@[simp] theorem Dev.onWr_ox (f : Wr → Wr) : (d.onWr f).ox = d.ox := rfl
@[simp] theorem Dev.onWr_cairn (f : Wr → Wr) : (d.onWr f).cairn = d.cairn := rfl
@[simp] theorem Dev.onWr_cipher (f : Wr → Wr) : (d.onWr f).cipher = d.cipher := rfl
@[simp] theorem Dev.onWr_pens (f : Wr → Wr) : (d.onWr f).pens = d.pens := rfl
@[simp] theorem Dev.onWr_host (f : Wr → Wr) : (d.onWr f).host = d.host := rfl
@[simp] theorem Dev.onWr_media (f : Wr → Wr) : (d.onWr f).media = d.media := rfl
@[simp] theorem Dev.onWr_wr (f : Wr → Wr) : (d.onWr f).wr = f d.wr := rfl
@[simp] theorem Dev.onWr_mules (f : Wr → Wr) : (d.onWr f).mules = d.mules := rfl
@[simp] theorem Dev.onWr_pair (f : Wr → Wr) : (d.onWr f).pair = d.pair := rfl
@[simp] theorem Dev.onWr_dram (f : Wr → Wr) : (d.onWr f).dram = d.dram := rfl
@[simp] theorem Dev.onWr_fw (f : Wr → Wr) : (d.onWr f).fw = d.fw := rfl
@[simp] theorem Dev.onWr_tick (f : Wr → Wr) : (d.onWr f).tick = d.tick := rfl
@[simp] theorem Dev.onWr_free (f : Wr → Wr) : (d.onWr f).free = d.free := rfl
@[simp] theorem Dev.onWr_rd (f : Wr → Wr) (a : Nat) : (d.onWr f).rd a = d.rd a := rfl
@[simp] theorem Dev.onWr_byte (f : Wr → Wr) (a : Nat) : (d.onWr f).byte a = d.byte a := rfl
@[simp] theorem Dev.onWr_bit (f : Wr → Wr) (a n : Nat) : (d.onWr f).bit a n = d.bit a n := rfl
@[simp] theorem Dev.onWr_fld (f : Wr → Wr) (a hi lo : Nat) : (d.onWr f).fld a hi lo = d.fld a hi lo := rfl

@[simp] theorem Dev.onMules_board (f : Mules → Mules) : (d.onMules f).board = d.board := rfl
@[simp] theorem Dev.onMules_pins (f : Mules → Mules) : (d.onMules f).pins = d.pins := rfl
@[simp] theorem Dev.onMules_regs (f : Mules → Mules) : (d.onMules f).regs = d.regs := rfl
@[simp] theorem Dev.onMules_mem (f : Mules → Mules) : (d.onMules f).mem = d.mem := rfl
@[simp] theorem Dev.onMules_tor (f : Mules → Mules) : (d.onMules f).tor = d.tor := rfl
@[simp] theorem Dev.onMules_cores (f : Mules → Mules) : (d.onMules f).cores = d.cores := rfl
@[simp] theorem Dev.onMules_gate (f : Mules → Mules) : (d.onMules f).gate = d.gate := rfl
@[simp] theorem Dev.onMules_cirque (f : Mules → Mules) : (d.onMules f).cirque = d.cirque := rfl
@[simp] theorem Dev.onMules_ox (f : Mules → Mules) : (d.onMules f).ox = d.ox := rfl
@[simp] theorem Dev.onMules_cairn (f : Mules → Mules) : (d.onMules f).cairn = d.cairn := rfl
@[simp] theorem Dev.onMules_cipher (f : Mules → Mules) : (d.onMules f).cipher = d.cipher := rfl
@[simp] theorem Dev.onMules_pens (f : Mules → Mules) : (d.onMules f).pens = d.pens := rfl
@[simp] theorem Dev.onMules_host (f : Mules → Mules) : (d.onMules f).host = d.host := rfl
@[simp] theorem Dev.onMules_media (f : Mules → Mules) : (d.onMules f).media = d.media := rfl
@[simp] theorem Dev.onMules_wr (f : Mules → Mules) : (d.onMules f).wr = d.wr := rfl
@[simp] theorem Dev.onMules_mules (f : Mules → Mules) : (d.onMules f).mules = f d.mules := rfl
@[simp] theorem Dev.onMules_pair (f : Mules → Mules) : (d.onMules f).pair = d.pair := rfl
@[simp] theorem Dev.onMules_dram (f : Mules → Mules) : (d.onMules f).dram = d.dram := rfl
@[simp] theorem Dev.onMules_fw (f : Mules → Mules) : (d.onMules f).fw = d.fw := rfl
@[simp] theorem Dev.onMules_tick (f : Mules → Mules) : (d.onMules f).tick = d.tick := rfl
@[simp] theorem Dev.onMules_free (f : Mules → Mules) : (d.onMules f).free = d.free := rfl
@[simp] theorem Dev.onMules_rd (f : Mules → Mules) (a : Nat) : (d.onMules f).rd a = d.rd a := rfl
@[simp] theorem Dev.onMules_byte (f : Mules → Mules) (a : Nat) : (d.onMules f).byte a = d.byte a := rfl
@[simp] theorem Dev.onMules_bit (f : Mules → Mules) (a n : Nat) : (d.onMules f).bit a n = d.bit a n := rfl
@[simp] theorem Dev.onMules_fld (f : Mules → Mules) (a hi lo : Nat) : (d.onMules f).fld a hi lo = d.fld a hi lo := rfl

@[simp] theorem Dev.onPair_board (f : Pair → Pair) : (d.onPair f).board = d.board := rfl
@[simp] theorem Dev.onPair_pins (f : Pair → Pair) : (d.onPair f).pins = d.pins := rfl
@[simp] theorem Dev.onPair_regs (f : Pair → Pair) : (d.onPair f).regs = d.regs := rfl
@[simp] theorem Dev.onPair_mem (f : Pair → Pair) : (d.onPair f).mem = d.mem := rfl
@[simp] theorem Dev.onPair_tor (f : Pair → Pair) : (d.onPair f).tor = d.tor := rfl
@[simp] theorem Dev.onPair_cores (f : Pair → Pair) : (d.onPair f).cores = d.cores := rfl
@[simp] theorem Dev.onPair_gate (f : Pair → Pair) : (d.onPair f).gate = d.gate := rfl
@[simp] theorem Dev.onPair_cirque (f : Pair → Pair) : (d.onPair f).cirque = d.cirque := rfl
@[simp] theorem Dev.onPair_ox (f : Pair → Pair) : (d.onPair f).ox = d.ox := rfl
@[simp] theorem Dev.onPair_cairn (f : Pair → Pair) : (d.onPair f).cairn = d.cairn := rfl
@[simp] theorem Dev.onPair_cipher (f : Pair → Pair) : (d.onPair f).cipher = d.cipher := rfl
@[simp] theorem Dev.onPair_pens (f : Pair → Pair) : (d.onPair f).pens = d.pens := rfl
@[simp] theorem Dev.onPair_host (f : Pair → Pair) : (d.onPair f).host = d.host := rfl
@[simp] theorem Dev.onPair_media (f : Pair → Pair) : (d.onPair f).media = d.media := rfl
@[simp] theorem Dev.onPair_wr (f : Pair → Pair) : (d.onPair f).wr = d.wr := rfl
@[simp] theorem Dev.onPair_mules (f : Pair → Pair) : (d.onPair f).mules = d.mules := rfl
@[simp] theorem Dev.onPair_pair (f : Pair → Pair) : (d.onPair f).pair = f d.pair := rfl
@[simp] theorem Dev.onPair_dram (f : Pair → Pair) : (d.onPair f).dram = d.dram := rfl
@[simp] theorem Dev.onPair_fw (f : Pair → Pair) : (d.onPair f).fw = d.fw := rfl
@[simp] theorem Dev.onPair_tick (f : Pair → Pair) : (d.onPair f).tick = d.tick := rfl
@[simp] theorem Dev.onPair_free (f : Pair → Pair) : (d.onPair f).free = d.free := rfl
@[simp] theorem Dev.onPair_rd (f : Pair → Pair) (a : Nat) : (d.onPair f).rd a = d.rd a := rfl
@[simp] theorem Dev.onPair_byte (f : Pair → Pair) (a : Nat) : (d.onPair f).byte a = d.byte a := rfl
@[simp] theorem Dev.onPair_bit (f : Pair → Pair) (a n : Nat) : (d.onPair f).bit a n = d.bit a n := rfl
@[simp] theorem Dev.onPair_fld (f : Pair → Pair) (a hi lo : Nat) : (d.onPair f).fld a hi lo = d.fld a hi lo := rfl

@[simp] theorem Dev.onDram_board (f : Dram → Dram) : (d.onDram f).board = d.board := rfl
@[simp] theorem Dev.onDram_pins (f : Dram → Dram) : (d.onDram f).pins = d.pins := rfl
@[simp] theorem Dev.onDram_regs (f : Dram → Dram) : (d.onDram f).regs = d.regs := rfl
@[simp] theorem Dev.onDram_mem (f : Dram → Dram) : (d.onDram f).mem = d.mem := rfl
@[simp] theorem Dev.onDram_tor (f : Dram → Dram) : (d.onDram f).tor = d.tor := rfl
@[simp] theorem Dev.onDram_cores (f : Dram → Dram) : (d.onDram f).cores = d.cores := rfl
@[simp] theorem Dev.onDram_gate (f : Dram → Dram) : (d.onDram f).gate = d.gate := rfl
@[simp] theorem Dev.onDram_cirque (f : Dram → Dram) : (d.onDram f).cirque = d.cirque := rfl
@[simp] theorem Dev.onDram_ox (f : Dram → Dram) : (d.onDram f).ox = d.ox := rfl
@[simp] theorem Dev.onDram_cairn (f : Dram → Dram) : (d.onDram f).cairn = d.cairn := rfl
@[simp] theorem Dev.onDram_cipher (f : Dram → Dram) : (d.onDram f).cipher = d.cipher := rfl
@[simp] theorem Dev.onDram_pens (f : Dram → Dram) : (d.onDram f).pens = d.pens := rfl
@[simp] theorem Dev.onDram_host (f : Dram → Dram) : (d.onDram f).host = d.host := rfl
@[simp] theorem Dev.onDram_media (f : Dram → Dram) : (d.onDram f).media = d.media := rfl
@[simp] theorem Dev.onDram_wr (f : Dram → Dram) : (d.onDram f).wr = d.wr := rfl
@[simp] theorem Dev.onDram_mules (f : Dram → Dram) : (d.onDram f).mules = d.mules := rfl
@[simp] theorem Dev.onDram_pair (f : Dram → Dram) : (d.onDram f).pair = d.pair := rfl
@[simp] theorem Dev.onDram_dram (f : Dram → Dram) : (d.onDram f).dram = f d.dram := rfl
@[simp] theorem Dev.onDram_fw (f : Dram → Dram) : (d.onDram f).fw = d.fw := rfl
@[simp] theorem Dev.onDram_tick (f : Dram → Dram) : (d.onDram f).tick = d.tick := rfl
@[simp] theorem Dev.onDram_free (f : Dram → Dram) : (d.onDram f).free = d.free := rfl
@[simp] theorem Dev.onDram_rd (f : Dram → Dram) (a : Nat) : (d.onDram f).rd a = d.rd a := rfl
@[simp] theorem Dev.onDram_byte (f : Dram → Dram) (a : Nat) : (d.onDram f).byte a = d.byte a := rfl
@[simp] theorem Dev.onDram_bit (f : Dram → Dram) (a n : Nat) : (d.onDram f).bit a n = d.bit a n := rfl
@[simp] theorem Dev.onDram_fld (f : Dram → Dram) (a hi lo : Nat) : (d.onDram f).fld a hi lo = d.fld a hi lo := rfl

@[simp] theorem Dev.onFw_board (f : Fw → Fw) : (d.onFw f).board = d.board := rfl
@[simp] theorem Dev.onFw_pins (f : Fw → Fw) : (d.onFw f).pins = d.pins := rfl
@[simp] theorem Dev.onFw_regs (f : Fw → Fw) : (d.onFw f).regs = d.regs := rfl
@[simp] theorem Dev.onFw_mem (f : Fw → Fw) : (d.onFw f).mem = d.mem := rfl
@[simp] theorem Dev.onFw_tor (f : Fw → Fw) : (d.onFw f).tor = d.tor := rfl
@[simp] theorem Dev.onFw_cores (f : Fw → Fw) : (d.onFw f).cores = d.cores := rfl
@[simp] theorem Dev.onFw_gate (f : Fw → Fw) : (d.onFw f).gate = d.gate := rfl
@[simp] theorem Dev.onFw_cirque (f : Fw → Fw) : (d.onFw f).cirque = d.cirque := rfl
@[simp] theorem Dev.onFw_ox (f : Fw → Fw) : (d.onFw f).ox = d.ox := rfl
@[simp] theorem Dev.onFw_cairn (f : Fw → Fw) : (d.onFw f).cairn = d.cairn := rfl
@[simp] theorem Dev.onFw_cipher (f : Fw → Fw) : (d.onFw f).cipher = d.cipher := rfl
@[simp] theorem Dev.onFw_pens (f : Fw → Fw) : (d.onFw f).pens = d.pens := rfl
@[simp] theorem Dev.onFw_host (f : Fw → Fw) : (d.onFw f).host = d.host := rfl
@[simp] theorem Dev.onFw_media (f : Fw → Fw) : (d.onFw f).media = d.media := rfl
@[simp] theorem Dev.onFw_wr (f : Fw → Fw) : (d.onFw f).wr = d.wr := rfl
@[simp] theorem Dev.onFw_mules (f : Fw → Fw) : (d.onFw f).mules = d.mules := rfl
@[simp] theorem Dev.onFw_pair (f : Fw → Fw) : (d.onFw f).pair = d.pair := rfl
@[simp] theorem Dev.onFw_dram (f : Fw → Fw) : (d.onFw f).dram = d.dram := rfl
@[simp] theorem Dev.onFw_fw (f : Fw → Fw) : (d.onFw f).fw = f d.fw := rfl
@[simp] theorem Dev.onFw_tick (f : Fw → Fw) : (d.onFw f).tick = d.tick := rfl
@[simp] theorem Dev.onFw_free (f : Fw → Fw) : (d.onFw f).free = d.free := rfl
@[simp] theorem Dev.onFw_rd (f : Fw → Fw) (a : Nat) : (d.onFw f).rd a = d.rd a := rfl
@[simp] theorem Dev.onFw_byte (f : Fw → Fw) (a : Nat) : (d.onFw f).byte a = d.byte a := rfl
@[simp] theorem Dev.onFw_bit (f : Fw → Fw) (a n : Nat) : (d.onFw f).bit a n = d.bit a n := rfl
@[simp] theorem Dev.onFw_fld (f : Fw → Fw) (a hi lo : Nat) : (d.onFw f).fld a hi lo = d.fld a hi lo := rfl

@[simp] theorem Dev.wr64_board (a : Nat) (v : W64) : (d.wr64 a v).board = d.board := rfl
@[simp] theorem Dev.wr64_pins (a : Nat) (v : W64) : (d.wr64 a v).pins = d.pins := rfl
@[simp] theorem Dev.wr64_mem (a : Nat) (v : W64) : (d.wr64 a v).mem = d.mem := rfl
@[simp] theorem Dev.wr64_tor (a : Nat) (v : W64) : (d.wr64 a v).tor = d.tor := rfl
@[simp] theorem Dev.wr64_cores (a : Nat) (v : W64) : (d.wr64 a v).cores = d.cores := rfl
@[simp] theorem Dev.wr64_gate (a : Nat) (v : W64) : (d.wr64 a v).gate = d.gate := rfl
@[simp] theorem Dev.wr64_cirque (a : Nat) (v : W64) : (d.wr64 a v).cirque = d.cirque := rfl
@[simp] theorem Dev.wr64_ox (a : Nat) (v : W64) : (d.wr64 a v).ox = d.ox := rfl
@[simp] theorem Dev.wr64_cairn (a : Nat) (v : W64) : (d.wr64 a v).cairn = d.cairn := rfl
@[simp] theorem Dev.wr64_cipher (a : Nat) (v : W64) : (d.wr64 a v).cipher = d.cipher := rfl
@[simp] theorem Dev.wr64_pens (a : Nat) (v : W64) : (d.wr64 a v).pens = d.pens := rfl
@[simp] theorem Dev.wr64_host (a : Nat) (v : W64) : (d.wr64 a v).host = d.host := rfl
@[simp] theorem Dev.wr64_media (a : Nat) (v : W64) : (d.wr64 a v).media = d.media := rfl
@[simp] theorem Dev.wr64_wr (a : Nat) (v : W64) : (d.wr64 a v).wr = d.wr := rfl
@[simp] theorem Dev.wr64_mules (a : Nat) (v : W64) : (d.wr64 a v).mules = d.mules := rfl
@[simp] theorem Dev.wr64_pair (a : Nat) (v : W64) : (d.wr64 a v).pair = d.pair := rfl
@[simp] theorem Dev.wr64_dram (a : Nat) (v : W64) : (d.wr64 a v).dram = d.dram := rfl
@[simp] theorem Dev.wr64_fw (a : Nat) (v : W64) : (d.wr64 a v).fw = d.fw := rfl
@[simp] theorem Dev.wr64_tick (a : Nat) (v : W64) : (d.wr64 a v).tick = d.tick := rfl
@[simp] theorem Dev.wr64_free (a : Nat) (v : W64) : (d.wr64 a v).free = d.free := rfl
@[simp] theorem Dev.wr64_byte (a : Nat) (v : W64) (x : Nat) : (d.wr64 a v).byte x = d.byte x := rfl
@[simp] theorem Dev.wr64_rd (a : Nat) (v : W64) (r : Nat) : (d.wr64 a v).rd r = if r = a then v else d.rd r := SMap.get_set ..

@[simp] theorem Dev.setBit_board (a n : Nat) (b : Bool) : (d.setBit a n b).board = d.board := rfl
@[simp] theorem Dev.setBit_pins (a n : Nat) (b : Bool) : (d.setBit a n b).pins = d.pins := rfl
@[simp] theorem Dev.setBit_mem (a n : Nat) (b : Bool) : (d.setBit a n b).mem = d.mem := rfl
@[simp] theorem Dev.setBit_tor (a n : Nat) (b : Bool) : (d.setBit a n b).tor = d.tor := rfl
@[simp] theorem Dev.setBit_cores (a n : Nat) (b : Bool) : (d.setBit a n b).cores = d.cores := rfl
@[simp] theorem Dev.setBit_gate (a n : Nat) (b : Bool) : (d.setBit a n b).gate = d.gate := rfl
@[simp] theorem Dev.setBit_cirque (a n : Nat) (b : Bool) : (d.setBit a n b).cirque = d.cirque := rfl
@[simp] theorem Dev.setBit_ox (a n : Nat) (b : Bool) : (d.setBit a n b).ox = d.ox := rfl
@[simp] theorem Dev.setBit_cairn (a n : Nat) (b : Bool) : (d.setBit a n b).cairn = d.cairn := rfl
@[simp] theorem Dev.setBit_cipher (a n : Nat) (b : Bool) : (d.setBit a n b).cipher = d.cipher := rfl
@[simp] theorem Dev.setBit_pens (a n : Nat) (b : Bool) : (d.setBit a n b).pens = d.pens := rfl
@[simp] theorem Dev.setBit_host (a n : Nat) (b : Bool) : (d.setBit a n b).host = d.host := rfl
@[simp] theorem Dev.setBit_media (a n : Nat) (b : Bool) : (d.setBit a n b).media = d.media := rfl
@[simp] theorem Dev.setBit_wr (a n : Nat) (b : Bool) : (d.setBit a n b).wr = d.wr := rfl
@[simp] theorem Dev.setBit_mules (a n : Nat) (b : Bool) : (d.setBit a n b).mules = d.mules := rfl
@[simp] theorem Dev.setBit_pair (a n : Nat) (b : Bool) : (d.setBit a n b).pair = d.pair := rfl
@[simp] theorem Dev.setBit_dram (a n : Nat) (b : Bool) : (d.setBit a n b).dram = d.dram := rfl
@[simp] theorem Dev.setBit_fw (a n : Nat) (b : Bool) : (d.setBit a n b).fw = d.fw := rfl
@[simp] theorem Dev.setBit_tick (a n : Nat) (b : Bool) : (d.setBit a n b).tick = d.tick := rfl
@[simp] theorem Dev.setBit_free (a n : Nat) (b : Bool) : (d.setBit a n b).free = d.free := rfl
@[simp] theorem Dev.setBit_byte (a n : Nat) (b : Bool) (x : Nat) : (d.setBit a n b).byte x = d.byte x := rfl
@[simp] theorem Dev.setBit_rd (a n : Nat) (b : Bool) (r : Nat) : (d.setBit a n b).rd r = if r = a then withBit (d.rd a) n b else d.rd r := SMap.get_set ..

@[simp] theorem Dev.setFld_board (a hi lo v : Nat) : (d.setFld a hi lo v).board = d.board := rfl
@[simp] theorem Dev.setFld_pins (a hi lo v : Nat) : (d.setFld a hi lo v).pins = d.pins := rfl
@[simp] theorem Dev.setFld_mem (a hi lo v : Nat) : (d.setFld a hi lo v).mem = d.mem := rfl
@[simp] theorem Dev.setFld_tor (a hi lo v : Nat) : (d.setFld a hi lo v).tor = d.tor := rfl
@[simp] theorem Dev.setFld_cores (a hi lo v : Nat) : (d.setFld a hi lo v).cores = d.cores := rfl
@[simp] theorem Dev.setFld_gate (a hi lo v : Nat) : (d.setFld a hi lo v).gate = d.gate := rfl
@[simp] theorem Dev.setFld_cirque (a hi lo v : Nat) : (d.setFld a hi lo v).cirque = d.cirque := rfl
@[simp] theorem Dev.setFld_ox (a hi lo v : Nat) : (d.setFld a hi lo v).ox = d.ox := rfl
@[simp] theorem Dev.setFld_cairn (a hi lo v : Nat) : (d.setFld a hi lo v).cairn = d.cairn := rfl
@[simp] theorem Dev.setFld_cipher (a hi lo v : Nat) : (d.setFld a hi lo v).cipher = d.cipher := rfl
@[simp] theorem Dev.setFld_pens (a hi lo v : Nat) : (d.setFld a hi lo v).pens = d.pens := rfl
@[simp] theorem Dev.setFld_host (a hi lo v : Nat) : (d.setFld a hi lo v).host = d.host := rfl
@[simp] theorem Dev.setFld_media (a hi lo v : Nat) : (d.setFld a hi lo v).media = d.media := rfl
@[simp] theorem Dev.setFld_wr (a hi lo v : Nat) : (d.setFld a hi lo v).wr = d.wr := rfl
@[simp] theorem Dev.setFld_mules (a hi lo v : Nat) : (d.setFld a hi lo v).mules = d.mules := rfl
@[simp] theorem Dev.setFld_pair (a hi lo v : Nat) : (d.setFld a hi lo v).pair = d.pair := rfl
@[simp] theorem Dev.setFld_dram (a hi lo v : Nat) : (d.setFld a hi lo v).dram = d.dram := rfl
@[simp] theorem Dev.setFld_fw (a hi lo v : Nat) : (d.setFld a hi lo v).fw = d.fw := rfl
@[simp] theorem Dev.setFld_tick (a hi lo v : Nat) : (d.setFld a hi lo v).tick = d.tick := rfl
@[simp] theorem Dev.setFld_free (a hi lo v : Nat) : (d.setFld a hi lo v).free = d.free := rfl
@[simp] theorem Dev.setFld_byte (a hi lo v : Nat) (x : Nat) : (d.setFld a hi lo v).byte x = d.byte x := rfl
@[simp] theorem Dev.setFld_rd (a hi lo v : Nat) (r : Nat) : (d.setFld a hi lo v).rd r = if r = a then withFld (d.rd a) hi lo v else d.rd r := SMap.get_set ..

@[simp] theorem Dev.setReg_board (a v : Nat) : (d.setReg a v).board = d.board := rfl
@[simp] theorem Dev.setReg_pins (a v : Nat) : (d.setReg a v).pins = d.pins := rfl
@[simp] theorem Dev.setReg_mem (a v : Nat) : (d.setReg a v).mem = d.mem := rfl
@[simp] theorem Dev.setReg_tor (a v : Nat) : (d.setReg a v).tor = d.tor := rfl
@[simp] theorem Dev.setReg_cores (a v : Nat) : (d.setReg a v).cores = d.cores := rfl
@[simp] theorem Dev.setReg_gate (a v : Nat) : (d.setReg a v).gate = d.gate := rfl
@[simp] theorem Dev.setReg_cirque (a v : Nat) : (d.setReg a v).cirque = d.cirque := rfl
@[simp] theorem Dev.setReg_ox (a v : Nat) : (d.setReg a v).ox = d.ox := rfl
@[simp] theorem Dev.setReg_cairn (a v : Nat) : (d.setReg a v).cairn = d.cairn := rfl
@[simp] theorem Dev.setReg_cipher (a v : Nat) : (d.setReg a v).cipher = d.cipher := rfl
@[simp] theorem Dev.setReg_pens (a v : Nat) : (d.setReg a v).pens = d.pens := rfl
@[simp] theorem Dev.setReg_host (a v : Nat) : (d.setReg a v).host = d.host := rfl
@[simp] theorem Dev.setReg_media (a v : Nat) : (d.setReg a v).media = d.media := rfl
@[simp] theorem Dev.setReg_wr (a v : Nat) : (d.setReg a v).wr = d.wr := rfl
@[simp] theorem Dev.setReg_mules (a v : Nat) : (d.setReg a v).mules = d.mules := rfl
@[simp] theorem Dev.setReg_pair (a v : Nat) : (d.setReg a v).pair = d.pair := rfl
@[simp] theorem Dev.setReg_dram (a v : Nat) : (d.setReg a v).dram = d.dram := rfl
@[simp] theorem Dev.setReg_fw (a v : Nat) : (d.setReg a v).fw = d.fw := rfl
@[simp] theorem Dev.setReg_tick (a v : Nat) : (d.setReg a v).tick = d.tick := rfl
@[simp] theorem Dev.setReg_free (a v : Nat) : (d.setReg a v).free = d.free := rfl
@[simp] theorem Dev.setReg_byte (a v : Nat) (x : Nat) : (d.setReg a v).byte x = d.byte x := rfl
@[simp] theorem Dev.setReg_rd (a v : Nat) (r : Nat) : (d.setReg a v).rd r = if r = a then BitVec.ofNat 64 v else d.rd r := SMap.get_set ..

@[simp] theorem Dev.count_board (a w n : Nat) : (d.count a w n).board = d.board := rfl
@[simp] theorem Dev.count_pins (a w n : Nat) : (d.count a w n).pins = d.pins := rfl
@[simp] theorem Dev.count_mem (a w n : Nat) : (d.count a w n).mem = d.mem := rfl
@[simp] theorem Dev.count_tor (a w n : Nat) : (d.count a w n).tor = d.tor := rfl
@[simp] theorem Dev.count_cores (a w n : Nat) : (d.count a w n).cores = d.cores := rfl
@[simp] theorem Dev.count_gate (a w n : Nat) : (d.count a w n).gate = d.gate := rfl
@[simp] theorem Dev.count_cirque (a w n : Nat) : (d.count a w n).cirque = d.cirque := rfl
@[simp] theorem Dev.count_ox (a w n : Nat) : (d.count a w n).ox = d.ox := rfl
@[simp] theorem Dev.count_cairn (a w n : Nat) : (d.count a w n).cairn = d.cairn := rfl
@[simp] theorem Dev.count_cipher (a w n : Nat) : (d.count a w n).cipher = d.cipher := rfl
@[simp] theorem Dev.count_pens (a w n : Nat) : (d.count a w n).pens = d.pens := rfl
@[simp] theorem Dev.count_host (a w n : Nat) : (d.count a w n).host = d.host := rfl
@[simp] theorem Dev.count_media (a w n : Nat) : (d.count a w n).media = d.media := rfl
@[simp] theorem Dev.count_wr (a w n : Nat) : (d.count a w n).wr = d.wr := rfl
@[simp] theorem Dev.count_mules (a w n : Nat) : (d.count a w n).mules = d.mules := rfl
@[simp] theorem Dev.count_pair (a w n : Nat) : (d.count a w n).pair = d.pair := rfl
@[simp] theorem Dev.count_dram (a w n : Nat) : (d.count a w n).dram = d.dram := rfl
@[simp] theorem Dev.count_fw (a w n : Nat) : (d.count a w n).fw = d.fw := rfl
@[simp] theorem Dev.count_tick (a w n : Nat) : (d.count a w n).tick = d.tick := rfl
@[simp] theorem Dev.count_free (a w n : Nat) : (d.count a w n).free = d.free := rfl
@[simp] theorem Dev.count_byte (a w n : Nat) (x : Nat) : (d.count a w n).byte x = d.byte x := rfl
@[simp] theorem Dev.count_rd (a w n : Nat) (r : Nat) : (d.count a w n).rd r = if r = a then BitVec.ofNat 64 (((d.rd a).toNat + n) % 2 ^ w) else d.rd r := SMap.get_set ..

@[simp] theorem Dev.countSat_board (a w n : Nat) : (d.countSat a w n).board = d.board := rfl
@[simp] theorem Dev.countSat_pins (a w n : Nat) : (d.countSat a w n).pins = d.pins := rfl
@[simp] theorem Dev.countSat_mem (a w n : Nat) : (d.countSat a w n).mem = d.mem := rfl
@[simp] theorem Dev.countSat_tor (a w n : Nat) : (d.countSat a w n).tor = d.tor := rfl
@[simp] theorem Dev.countSat_cores (a w n : Nat) : (d.countSat a w n).cores = d.cores := rfl
@[simp] theorem Dev.countSat_gate (a w n : Nat) : (d.countSat a w n).gate = d.gate := rfl
@[simp] theorem Dev.countSat_cirque (a w n : Nat) : (d.countSat a w n).cirque = d.cirque := rfl
@[simp] theorem Dev.countSat_ox (a w n : Nat) : (d.countSat a w n).ox = d.ox := rfl
@[simp] theorem Dev.countSat_cairn (a w n : Nat) : (d.countSat a w n).cairn = d.cairn := rfl
@[simp] theorem Dev.countSat_cipher (a w n : Nat) : (d.countSat a w n).cipher = d.cipher := rfl
@[simp] theorem Dev.countSat_pens (a w n : Nat) : (d.countSat a w n).pens = d.pens := rfl
@[simp] theorem Dev.countSat_host (a w n : Nat) : (d.countSat a w n).host = d.host := rfl
@[simp] theorem Dev.countSat_media (a w n : Nat) : (d.countSat a w n).media = d.media := rfl
@[simp] theorem Dev.countSat_wr (a w n : Nat) : (d.countSat a w n).wr = d.wr := rfl
@[simp] theorem Dev.countSat_mules (a w n : Nat) : (d.countSat a w n).mules = d.mules := rfl
@[simp] theorem Dev.countSat_pair (a w n : Nat) : (d.countSat a w n).pair = d.pair := rfl
@[simp] theorem Dev.countSat_dram (a w n : Nat) : (d.countSat a w n).dram = d.dram := rfl
@[simp] theorem Dev.countSat_fw (a w n : Nat) : (d.countSat a w n).fw = d.fw := rfl
@[simp] theorem Dev.countSat_tick (a w n : Nat) : (d.countSat a w n).tick = d.tick := rfl
@[simp] theorem Dev.countSat_free (a w n : Nat) : (d.countSat a w n).free = d.free := rfl
@[simp] theorem Dev.countSat_byte (a w n : Nat) (x : Nat) : (d.countSat a w n).byte x = d.byte x := rfl
@[simp] theorem Dev.countSat_rd (a w n : Nat) (r : Nat) : (d.countSat a w n).rd r = if r = a then BitVec.ofNat 64 (Nat.min ((d.rd a).toNat + n) (2 ^ w - 1)) else d.rd r := SMap.get_set ..

@[simp] theorem Dev.setByte_board (a : Nat) (b : Byte) : (d.setByte a b).board = d.board := rfl
@[simp] theorem Dev.setByte_pins (a : Nat) (b : Byte) : (d.setByte a b).pins = d.pins := rfl
@[simp] theorem Dev.setByte_regs (a : Nat) (b : Byte) : (d.setByte a b).regs = d.regs := rfl
@[simp] theorem Dev.setByte_tor (a : Nat) (b : Byte) : (d.setByte a b).tor = d.tor := rfl
@[simp] theorem Dev.setByte_cores (a : Nat) (b : Byte) : (d.setByte a b).cores = d.cores := rfl
@[simp] theorem Dev.setByte_gate (a : Nat) (b : Byte) : (d.setByte a b).gate = d.gate := rfl
@[simp] theorem Dev.setByte_cirque (a : Nat) (b : Byte) : (d.setByte a b).cirque = d.cirque := rfl
@[simp] theorem Dev.setByte_ox (a : Nat) (b : Byte) : (d.setByte a b).ox = d.ox := rfl
@[simp] theorem Dev.setByte_cairn (a : Nat) (b : Byte) : (d.setByte a b).cairn = d.cairn := rfl
@[simp] theorem Dev.setByte_cipher (a : Nat) (b : Byte) : (d.setByte a b).cipher = d.cipher := rfl
@[simp] theorem Dev.setByte_pens (a : Nat) (b : Byte) : (d.setByte a b).pens = d.pens := rfl
@[simp] theorem Dev.setByte_host (a : Nat) (b : Byte) : (d.setByte a b).host = d.host := rfl
@[simp] theorem Dev.setByte_media (a : Nat) (b : Byte) : (d.setByte a b).media = d.media := rfl
@[simp] theorem Dev.setByte_wr (a : Nat) (b : Byte) : (d.setByte a b).wr = d.wr := rfl
@[simp] theorem Dev.setByte_mules (a : Nat) (b : Byte) : (d.setByte a b).mules = d.mules := rfl
@[simp] theorem Dev.setByte_pair (a : Nat) (b : Byte) : (d.setByte a b).pair = d.pair := rfl
@[simp] theorem Dev.setByte_dram (a : Nat) (b : Byte) : (d.setByte a b).dram = d.dram := rfl
@[simp] theorem Dev.setByte_fw (a : Nat) (b : Byte) : (d.setByte a b).fw = d.fw := rfl
@[simp] theorem Dev.setByte_tick (a : Nat) (b : Byte) : (d.setByte a b).tick = d.tick := rfl
@[simp] theorem Dev.setByte_free (a : Nat) (b : Byte) : (d.setByte a b).free = d.free := rfl
@[simp] theorem Dev.setByte_rd (a : Nat) (b : Byte) (r : Nat) : (d.setByte a b).rd r = d.rd r := rfl
@[simp] theorem Dev.setByte_byte (a : Nat) (b : Byte) (x : Nat) : (d.setByte a b).byte x = if x = a then b else d.byte x := SMap.get_set ..

@[simp] theorem Dev.draw_board : d.draw.board = d.board := rfl
@[simp] theorem Dev.draw_pins : d.draw.pins = d.pins := rfl
@[simp] theorem Dev.draw_regs : d.draw.regs = d.regs := rfl
@[simp] theorem Dev.draw_mem : d.draw.mem = d.mem := rfl
@[simp] theorem Dev.draw_tor : d.draw.tor = d.tor := rfl
@[simp] theorem Dev.draw_cores : d.draw.cores = d.cores := rfl
@[simp] theorem Dev.draw_gate : d.draw.gate = d.gate := rfl
@[simp] theorem Dev.draw_cirque : d.draw.cirque = d.cirque := rfl
@[simp] theorem Dev.draw_ox : d.draw.ox = d.ox := rfl
@[simp] theorem Dev.draw_cairn : d.draw.cairn = d.cairn := rfl
@[simp] theorem Dev.draw_cipher : d.draw.cipher = d.cipher := rfl
@[simp] theorem Dev.draw_pens : d.draw.pens = d.pens := rfl
@[simp] theorem Dev.draw_host : d.draw.host = d.host := rfl
@[simp] theorem Dev.draw_media : d.draw.media = d.media := rfl
@[simp] theorem Dev.draw_wr : d.draw.wr = d.wr := rfl
@[simp] theorem Dev.draw_mules : d.draw.mules = d.mules := rfl
@[simp] theorem Dev.draw_pair : d.draw.pair = d.pair := rfl
@[simp] theorem Dev.draw_dram : d.draw.dram = d.dram := rfl
@[simp] theorem Dev.draw_fw : d.draw.fw = d.fw := rfl
@[simp] theorem Dev.draw_tick : d.draw.tick = d.tick := rfl
@[simp] theorem Dev.draw_free : d.draw.free = d.free + 1 := rfl
@[simp] theorem Dev.draw_rd (a : Nat) : d.draw.rd a = d.rd a := rfl
@[simp] theorem Dev.draw_byte (a : Nat) : d.draw.byte a = d.byte a := rfl
@[simp] theorem Dev.draw_bit (a n : Nat) : d.draw.bit a n = d.bit a n := rfl
@[simp] theorem Dev.draw_fld (a hi lo : Nat) : d.draw.fld a hi lo = d.fld a hi lo := rfl

end Sys2Proof.Machine
end

