-- ==== Sys2Proof/Laws/Bits.lean ====
section
/-! SUPPORT. Bits and fields after an update: what a bit or a field of a register reads as. -/

namespace Sys2Proof.Machine

theorem bitOf_withBit (w : W64) (n m : Nat) (b : Bool) (h : n < 64) : bitOf (withBit w n b) m = if m = n then b else bitOf w m := by
  unfold bitOf withBit
  split <;> by_cases hm : m = n <;> simp_all [BitVec.getLsbD_twoPow] <;> grind

theorem bitOf_withFld (w : W64) (hi lo v m : Nat) (h : hi < 64) (hl : lo ≤ hi) :
    bitOf (withFld w hi lo v) m = if lo ≤ m ∧ m ≤ hi then v.testBit (m - lo) else bitOf w m := by
  unfold bitOf withFld msk
  simp only [BitVec.getLsbD_or, BitVec.getLsbD_and, BitVec.getLsbD_not, BitVec.getLsbD_ofNat, Nat.testBit_mul_two_pow, Nat.testBit_mod_two_pow, Nat.testBit_two_pow_sub_one]
  by_cases h1 : lo ≤ m <;> by_cases h2 : m ≤ hi <;> by_cases h3 : m < 64 <;> simp [h1, h2, h3] <;> first | omega | grind

theorem fldOf_withFld_same (w : W64) (hi lo v : Nat) (h : hi < 64) (hl : lo ≤ hi) : fldOf (withFld w hi lo v) hi lo = v % 2 ^ (hi + 1 - lo) := by
  apply Nat.eq_of_testBit_eq
  intro i
  unfold fldOf natFld
  rw [Nat.testBit_mod_two_pow, Nat.testBit_mod_two_pow, Nat.testBit_div_two_pow]
  have := bitOf_withFld w hi lo v (i + lo) h hl
  unfold bitOf at this
  rw [← BitVec.testBit_toNat] at this
  by_cases hi' : i < hi + 1 - lo
  · simp only [hi', decide_true, Bool.true_and, this]; rw [if_pos (by omega)]; simp
  · simp [hi']

theorem fldOf_withFld_other (w : W64) (hi lo h2 l2 v : Nat) (h : hi < 64) (hl : lo ≤ hi) (hd : h2 < lo ∨ hi < l2) : fldOf (withFld w hi lo v) h2 l2 = fldOf w h2 l2 := by
  apply Nat.eq_of_testBit_eq
  intro i
  unfold fldOf natFld
  rw [Nat.testBit_mod_two_pow, Nat.testBit_mod_two_pow, Nat.testBit_div_two_pow, Nat.testBit_div_two_pow]
  have := bitOf_withFld w hi lo v (i + l2) h hl
  unfold bitOf at this
  rw [← BitVec.testBit_toNat, ← BitVec.testBit_toNat] at this
  by_cases hi' : i < h2 + 1 - l2
  · simp only [hi', decide_true, Bool.true_and, this]; rw [if_neg (by omega)]
  · simp [hi']

theorem fldOf_withBit (w : W64) (n hi lo : Nat) (b : Bool) (h : n < 64) (hd : n < lo ∨ hi < n) :
    fldOf (withBit w n b) hi lo = fldOf w hi lo := by
  apply Nat.eq_of_testBit_eq
  intro i
  unfold fldOf natFld
  rw [Nat.testBit_mod_two_pow, Nat.testBit_mod_two_pow, Nat.testBit_div_two_pow, Nat.testBit_div_two_pow]
  have := bitOf_withBit w n (i + lo) b h
  unfold bitOf at this
  rw [← BitVec.testBit_toNat, ← BitVec.testBit_toNat] at this
  by_cases hi' : i < hi + 1 - lo
  · simp only [hi', decide_true, Bool.true_and, this]; rw [if_neg (by omega)]
  · simp [hi']

theorem Dev.setBit_bit (d : Dev) (a n m r : Nat) (b : Bool) (h : n < 64) : (d.setBit a n b).bit r m = if r = a ∧ m = n then b else d.bit r m := by
  unfold Dev.bit; rw [Dev.setBit_rd]
  by_cases hr : r = a <;> simp [hr, bitOf_withBit, h]

theorem Dev.wr64_bit (d : Dev) (a r m : Nat) (v : W64) : (d.wr64 a v).bit r m = if r = a then bitOf v m else d.bit r m := by
  unfold Dev.bit; rw [Dev.wr64_rd]; split <;> rfl

theorem Dev.setFld_bit (d : Dev) (a hi lo v m r : Nat) (h : hi < 64) (hl : lo ≤ hi) :
    (d.setFld a hi lo v).bit r m = if r = a ∧ lo ≤ m ∧ m ≤ hi then v.testBit (m - lo) else d.bit r m := by
  unfold Dev.bit; rw [Dev.setFld_rd]
  by_cases hr : r = a <;> simp [hr, bitOf_withFld, h, hl]

theorem Dev.setFld_fld (d : Dev) (a hi lo v : Nat) (h : hi < 64) (hl : lo ≤ hi) :
    (d.setFld a hi lo v).fld a hi lo = v % 2 ^ (hi + 1 - lo) := by
  unfold Dev.fld; rw [Dev.setFld_rd, if_pos rfl, fldOf_withFld_same _ _ _ _ h hl]

theorem Dev.setFld_fld_other (d : Dev) (a hi lo v r h2 l2 : Nat) (h : hi < 64) (hl : lo ≤ hi) (hd : r ≠ a ∨ h2 < lo ∨ hi < l2) :
    (d.setFld a hi lo v).fld r h2 l2 = d.fld r h2 l2 := by
  unfold Dev.fld; rw [Dev.setFld_rd]
  split
  · subst_vars; exact fldOf_withFld_other _ _ _ _ _ _ h hl (hd.resolve_left (by simp))
  · rfl

theorem Dev.setBit_fld (d : Dev) (a n r hi lo : Nat) (b : Bool) (h : n < 64) (hd : r ≠ a ∨ n < lo ∨ hi < n) :
    (d.setBit a n b).fld r hi lo = d.fld r hi lo := by
  unfold Dev.fld; rw [Dev.setBit_rd]
  split
  · subst_vars; exact fldOf_withBit _ _ _ _ _ h (hd.resolve_left (by simp))
  · rfl

theorem Dev.wr64_fld (d : Dev) (a r hi lo : Nat) (v : W64) : (d.wr64 a v).fld r hi lo = if r = a then fldOf v hi lo else d.fld r hi lo := by
  unfold Dev.fld; rw [Dev.wr64_rd]; split <;> rfl

theorem Dev.bit_congr {d e : Dev} {r : Nat} (h : d.rd r = e.rd r) (n : Nat) : d.bit r n = e.bit r n := by unfold Dev.bit; rw [h]

theorem Dev.fld_congr {d e : Dev} {r : Nat} (h : d.rd r = e.rd r) (hi lo : Nat) : d.fld r hi lo = e.fld r hi lo := by
  unfold Dev.fld; rw [h]

/-! A CRC has 32 bits (R145, R158). -/

theorem crcBit_lt (p c : Nat) (hp : p < 2 ^ 32) (hc : c < 2 ^ 32) : crcBit p c < 2 ^ 32 := by
  unfold crcBit
  split
  · exact Nat.xor_lt_two_pow (by omega) hp
  · omega

theorem crcByte_lt (p c : Nat) (b : Byte) (hp : p < 2 ^ 32) (hc : c < 2 ^ 32) : crcByte p c b < 2 ^ 32 := by
  unfold crcByte
  iterate 8 refine crcBit_lt _ _ hp ?_
  exact Nat.xor_lt_two_pow hc (by have := b.isLt; omega)

theorem crcFold_lt (p c : Nat) (l : List Byte) (hp : p < 2 ^ 32) (hc : c < 2 ^ 32) : l.foldl (crcByte p) c < 2 ^ 32 := by
  induction l generalizing c with
  | nil => exact hc
  | cons b l ih => exact ih _ (crcByte_lt p c b hp hc)

theorem crc32_lt (l : List Byte) : crc32 l < 2 ^ 32 := Nat.xor_lt_two_pow (crcFold_lt _ _ l (by decide) (by decide)) (by decide)

theorem crc32c_lt (l : List Byte) : crc32c l < 2 ^ 32 := Nat.xor_lt_two_pow (crcFold_lt _ _ l (by decide) (by decide)) (by decide)

end Sys2Proof.Machine
end

