-- ==== Sys2Proof/Laws/Memory.lean ====
section
/-! SUPPORT. Every operation on memory and on the register map keeps its canonical form, and what a byte or a register
reads as after it. -/

namespace Sys2Proof.Machine

/-! Memory. -/

theorem Dev.setByte_memWf {d : Dev} {a : Nat} {b : Byte} (h : memWf d.mem = true) : memWf (d.setByte a b).mem = true :=
  SMap.wf_set h

theorem Dev.setBytes_memWf {d : Dev} {a : Nat} {l : List Byte} (h : memWf d.mem = true) :
    memWf (d.setBytes a l).mem = true := by
  induction l generalizing d a with
  | nil => exact h
  | cons b t ih => exact ih (Dev.setByte_memWf h)

theorem Dev.clearMem_memWf {d : Dev} {lo hi : Nat} (h : memWf d.mem = true) : memWf (d.clearMem lo hi).mem = true :=
  SMap.wf_keep _ h

theorem Dev.mainReset_memWf {d : Dev} {k : Bool} (h : memWf d.mem = true) : memWf (d.mainReset k).mem = true :=
  SMap.wf_keep _ h

theorem reset_memWf : memWf State.reset.dev.mem = true := rfl

/-- A byte of a cleared range reads as one that nothing has written. -/
theorem Dev.clearMem_byte (d : Dev) (lo hi x : Nat) :
    (d.clearMem lo hi).byte x = if lo ≤ x ∧ x < hi then 0 else d.byte x := by
  unfold Dev.clearMem Dev.byte SMap.get
  rw [SMap.find_keep]
  by_cases h : lo ≤ x ∧ x < hi
  · rw [if_pos h]; simp [h, memDefault]
  · rw [if_neg h, if_pos]; simp only [Bool.not_eq_true', Bool.and_eq_false_iff, decide_eq_false_iff_not]; omega

/-! The register map. -/

theorem above_resetRegs {p : Nat → Bool} {m : SMap (BitVec 64)} {b : Nat} (h : SMap.above b m = true) :
    SMap.above b (resetRegs p m) = true := by
  induction m generalizing b with
  | nil => rfl
  | cons y t ih =>
    obtain ⟨k, v⟩ := y
    simp only [SMap.above, Bool.and_eq_true, decide_eq_true_eq] at h
    simp only [resetRegs]
    split
    · split
      · exact ih (SMap.above_mono h.2 (by omega))
      · simp only [SMap.above, Bool.and_eq_true, decide_eq_true_eq]; exact ⟨h.1, ih h.2⟩
    · simp only [SMap.above, Bool.and_eq_true, decide_eq_true_eq]; exact ⟨h.1, ih h.2⟩

theorem tight_resetRegs {p : Nat → Bool} {m : SMap (BitVec 64)} (h : SMap.tight regReset m = true) :
    SMap.tight regReset (resetRegs p m) = true := by
  induction m with
  | nil => rfl
  | cons y t ih =>
    obtain ⟨k, v⟩ := y
    simp only [SMap.tight, Bool.and_eq_true, decide_eq_true_eq] at h
    simp only [resetRegs]
    split
    · split
      · exact ih h.2
      · simp only [SMap.tight, Bool.and_eq_true, decide_eq_true_eq]; exact ⟨‹_›, ih h.2⟩
    · simp only [SMap.tight, Bool.and_eq_true, decide_eq_true_eq]; exact ⟨h.1, ih h.2⟩

/-- A reset of registers keeps the canonical form. -/
theorem wf_resetRegs {p : Nat → Bool} {m : SMap (BitVec 64)} (h : SMap.wf regReset m = true) :
    SMap.wf regReset (resetRegs p m) = true := by
  simp only [SMap.wf, Bool.and_eq_true] at h ⊢
  refine ⟨?_, tight_resetRegs h.2⟩
  cases m with
  | nil => rfl
  | cons y t =>
    obtain ⟨k, v⟩ := y
    have ht := above_resetRegs (p := p) (show SMap.above k t = true from h.1)
    simp only [resetRegs]
    split
    · split
      · exact SMap.sorted_of_above ht
      · exact ht
    · exact ht

theorem find_above {α : Type} {m : SMap α} {b a : Nat} (h : SMap.above b m = true) (ha : a ≤ b) : SMap.find m a = none := by
  induction m generalizing b with
  | nil => rfl
  | cons y t ih =>
    obtain ⟨k, v⟩ := y
    simp only [SMap.above, Bool.and_eq_true, decide_eq_true_eq] at h
    simp only [SMap.find]
    rw [if_neg (by omega)]
    exact ih h.2 (by omega)

theorem find_resetRegs {p : Nat → Bool} {m : SMap (BitVec 64)} {a : Nat} (h : SMap.sorted m = true) :
    SMap.get regReset (resetRegs p m) a =
      if p a then (match SMap.find m a with | some v => blockResetVal a v | none => regReset a) else SMap.get regReset m a := by
  induction m with
  | nil => simp [resetRegs, SMap.get, SMap.find]
  | cons y t ih =>
    obtain ⟨k, v⟩ := y
    have ht : SMap.above k t = true := h
    have hi := ih (SMap.sorted_of_above ht)
    have hr := find_above (a := k) (above_resetRegs (p := p) ht) (Nat.le_refl k)
    by_cases hk : k = a
    · subst hk
      by_cases hp : p k
      · simp only [resetRegs, hp, if_true, SMap.find]
        split
        · simp only [SMap.get, Option.getD_none, *]
        · simp [SMap.get, SMap.find]
      · simp [resetRegs, hp, SMap.get, SMap.find]
    · have e : ∀ w, SMap.get regReset ((k, w) :: resetRegs p t) a = SMap.get regReset (resetRegs p t) a := by
        intro w; simp [SMap.get, SMap.find, hk]
      have e2 : SMap.get regReset ((k, v) :: t) a = SMap.get regReset t a := by simp [SMap.get, SMap.find, hk]
      have e3 : SMap.find ((k, v) :: t) a = SMap.find t a := by simp [SMap.find, hk]
      rw [e2, e3, ← hi]
      simp only [resetRegs]
      split
      · split
        · rfl
        · exact e _
      · exact e _

/-- A register after a reset of those that a test picks: an unlisted one held its Reset value. -/
theorem get_resetRegs {p : Nat → Bool} {m : SMap (BitVec 64)} (h : SMap.wf regReset m = true) (a : Nat) :
    SMap.get regReset (resetRegs p m) a =
      if p a then blockResetVal a (SMap.get regReset m a) else SMap.get regReset m a := by
  have hb : blockResetVal a (regReset a) = regReset a := by
    unfold blockResetVal; ext i hi; simp only [BitVec.getElem_or, BitVec.getElem_and, BitVec.getElem_not]
    cases (regReset a)[i] <;> cases (regTor a)[i] <;> rfl
  rw [find_resetRegs (by simp only [SMap.wf, Bool.and_eq_true] at h; exact h.1)]
  split
  · unfold SMap.get
    cases SMap.find m a with
    | some v => rfl
    | none => exact hb.symm
  · rfl

/-- A register after the reset of one block. -/
theorem Dev.resetBlock_rd {d : Dev} {b : Nat} (h : SMap.wf regReset d.regs = true) (a : Nat) :
    (d.resetBlock b).rd a = if blockOf a = b then blockResetVal a (d.rd a) else d.rd a := by
  unfold Dev.resetBlock Dev.rd
  rw [get_resetRegs h]
  simp only [beq_iff_eq]

/-- A register after the reset of the main domain. -/
theorem Dev.mainReset_rd {d : Dev} {k : Bool} (h : SMap.wf regReset d.regs = true) (a : Nat) :
    (d.mainReset k).rd a = blockResetVal a (d.rd a) := by
  unfold Dev.mainReset mainRegs Dev.rd
  rw [get_resetRegs h]
  simp

theorem wf_coldRegs : SMap.wf regReset coldRegs = true := SMap.wf_set (SMap.wf_set rfl)

end Sys2Proof.Machine
end

