-- ==== Sys2Proof/Laws/Run.lean ====
section
/-! SUPPORT. What the three ways of running a command do, and frames built step by step. -/

namespace Sys2Proof

open Machine

theorem mainDo_running {s : State} (h : Running s) (f : Dev → Dev) : mainDo s f = .next { s with dev := f s.dev } := by
  exact if_pos (c := s.dev.tor.mainOn = true) h

theorem mainDo_stopped {s : State} (h : ¬ Running s) (f : Dev → Dev) : mainDo s f = .next s := by
  exact if_neg (c := s.dev.tor.mainOn = true) h

theorem busDo_reaches {n : CoreN} {a : Nat} {s : State} (h : Reaches n a s) (f : Dev → Dev) :
    busDo n a s f = .next { s with dev := f s.dev } := by
  unfold busDo; rw [mainDo_running h.1, h.2]

theorem regDo_reach {a : Nat} {s : State} (h : Reach a s) (f : Dev → Dev) : regDo a s f = .next { s with dev := f s.dev } :=
  busDo_reaches h f

/-- Everything a command of the main domain can do. -/
theorem mainDo_cases (s : State) (f : Dev → Dev) :
    (Running s ∧ mainDo s f = .next { s with dev := f s.dev }) ∨ (¬ Running s ∧ mainDo s f = .next s) := by
  by_cases h : Running s
  · exact .inl ⟨h, mainDo_running h f⟩
  · exact .inr ⟨h, mainDo_stopped h f⟩

/-- Everything a register command can do. -/
theorem busDo_cases (n : CoreN) (a : Nat) (s : State) (f : Dev → Dev) :
    (Reaches n a s ∧ busDo n a s f = .next { s with dev := f s.dev }) ∨
      (∃ e, Running s ∧ s.dev.accessErr (.core n true) a true = some e ∧
        busDo n a s f = .next { s with dev := s.dev.failAccess (.core n true) a true e }) ∨
      (¬ Running s ∧ busDo n a s f = .next s) := by
  by_cases h : Running s
  · cases he : s.dev.accessErr (.core n true) a true with
    | none => exact .inl ⟨⟨h, he⟩, busDo_reaches ⟨h, he⟩ f⟩
    | some e => refine .inr (.inl ⟨e, h, rfl, ?_⟩); unfold busDo; rw [mainDo_running h, he]
  · exact .inr (.inr ⟨h, by unfold busDo; exact mainDo_stopped h _⟩)

theorem gives_of {i : Instr} {s : State} {p : Dev → Prop} {f : Dev → Dev} (he : exec i s = .next { s with dev := f s.dev })
    (hp : p (f s.dev)) : Gives i s p := ⟨_, he, rfl, hp⟩

theorem gives_main {i : Instr} {s : State} {p : Dev → Prop} {f : Dev → Dev} (he : exec i s = mainDo s f) (h : Running s)
    (hp : p (f s.dev)) : Gives i s p := gives_of (he.trans (mainDo_running h f)) hp

theorem gives_bus {i : Instr} {s : State} {p : Dev → Prop} {n : CoreN} {a : Nat} {f : Dev → Dev} (he : exec i s = busDo n a s f)
    (h : Reaches n a s) (hp : p (f s.dev)) : Gives i s p := gives_of (he.trans (busDo_reaches h f)) hp

theorem gives_reg {i : Instr} {s : State} {p : Dev → Prop} {a : Nat} {f : Dev → Dev} (he : exec i s = regDo a s f)
    (h : Reach a s) (hp : p (f s.dev)) : Gives i s p := gives_of (he.trans (regDo_reach h f)) hp

/-! Frames. -/

theorem CirqueSame.refl (d : Dev) : CirqueSame d d := .inl rfl

/-- A step that leaves Cirque alone and takes no journaled record back. -/
theorem CirqueSame.keep {a b c : Dev} (h : CirqueSame a b) (hc : c.cirque = b.cirque) (hj : b.media.jseq ≤ c.media.jseq) :
    CirqueSame a c := by
  rcases h with h | ⟨h1, h2⟩
  · exact .inl (hc.trans h)
  · exact .inr ⟨Nat.lt_of_lt_of_le h1 hj, by rw [hc]; exact h2⟩

/-- Two spans in each of which the journal does not go back. -/
theorem CirqueSame.trans {a b c : Dev} (h : CirqueSame a b) (g : CirqueSame b c) (hab : a.media.jseq ≤ b.media.jseq)
    (hbc : b.media.jseq ≤ c.media.jseq) : CirqueSame a c := by
  rcases g with g | ⟨g1, g2, g3, g4, g5⟩
  · exact h.keep g hbc
  · rcases h with h | ⟨_, h2, h3, h4, h5⟩
    · rw [h] at g2 g3 g4 g5
      exact .inr ⟨Nat.lt_of_le_of_lt hab g1, g2, g3, g4, g5⟩
    · refine .inr ⟨Nat.lt_of_le_of_lt hab g1, ?_, fun w hw => (g3 w hw).trans (h3 w hw), fun x hx => h4 x (g4 x hx),
        fun x hx hn => g5 x (h5 x hx hn) hn⟩
      rw [g2, h2]

theorem Part.same_refl (p : Part) (d : Dev) : p.same d d := by
  cases p <;> first | exact CirqueSame.refl d | rfl

theorem Part.same_trans {p : Part} {a b c : Dev} (h : p.same a b) (g : p.same b c) (hp : p ≠ .cirque) : p.same a c := by
  cases p <;> first | exact absurd rfl hp | exact Eq.trans g h

theorem Frame.refl (P : List Part) (R : List Nat) (d : Dev) : Frame P R d d :=
  ⟨rfl, fun p _ => Part.same_refl p d, fun _ _ => rfl, fun _ => rfl⟩

theorem Frame.trans {P : List Part} {R : List Nat} {a b c : Dev} (h : Frame P R a b) (g : Frame P R b c)
    (hab : a.media.jseq ≤ b.media.jseq) (hbc : b.media.jseq ≤ c.media.jseq) : Frame P R a c :=
  ⟨g.1.trans h.1, fun p hp => if hc : p = .cirque then by
      subst hc; exact CirqueSame.trans (h.2.1 .cirque hp) (g.2.1 .cirque hp) hab hbc
    else Part.same_trans (h.2.1 p hp) (g.2.1 p hp) hc, fun r hr => (g.2.2.1 r hr).trans (h.2.2.1 r hr),
    fun x => (g.2.2.2 x).trans (h.2.2.2 x)⟩

theorem Frame.mono {P Q : List Part} {R T : List Nat} {a b : Dev} (h : Frame P R a b) (hp : ∀ p ∈ P, p ∈ Q) (hr : ∀ r ∈ R, r ∈ T) :
    Frame Q T a b :=
  ⟨h.1, fun p hq => h.2.1 p (fun hm => hq (hp p hm)), fun r hq => h.2.2.1 r (fun hm => hq (hr r hm)), h.2.2.2⟩

variable {P : List Part} {R : List Nat} {a d : Dev}

/-- One more step inside a frame. -/
theorem Frame.step {c : Dev} (h : Frame P R a d) (hb : c.board = d.board) (hp : ∀ p, p ∉ P → p ≠ .cirque → p.same d c)
    (hc : Part.cirque ∈ P ∨ (c.cirque = d.cirque ∧ d.media.jseq ≤ c.media.jseq)) (hr : ∀ r, r ∉ R → c.rd r = d.rd r)
    (hm : ∀ x, c.byte x = d.byte x) : Frame P R a c :=
  ⟨hb.trans h.1, fun p hq => if hn : p = .cirque then by
      subst hn
      rcases hc with hc | ⟨hc, hj⟩
      · exact absurd hc hq
      · exact CirqueSame.keep (h.2.1 .cirque hq) hc hj
    else Part.same_trans (h.2.1 p hq) (hp p hq hn) hn, fun r hq => (hr r hq).trans (h.2.2.1 r hq), fun x => (hm x).trans (h.2.2.2 x)⟩

theorem Frame.wr64 {r : Nat} {v : W64} (h : Frame P R a d) (hr : r ∈ R) : Frame P R a (d.wr64 r v) :=
  h.step rfl (fun p _ hn => by cases p <;> first | exact absurd rfl hn | rfl) (.inr ⟨rfl, Nat.le_refl _⟩) (fun x hx => by
    rw [Dev.wr64_rd, if_neg (show x ≠ r by rintro rfl; exact hx hr)]) (fun _ => rfl)

theorem Frame.setBit {r n : Nat} {b : Bool} (h : Frame P R a d) (hr : r ∈ R) : Frame P R a (d.setBit r n b) := h.wr64 hr
theorem Frame.setFld {r hi lo v : Nat} (h : Frame P R a d) (hr : r ∈ R) : Frame P R a (d.setFld r hi lo v) := h.wr64 hr
theorem Frame.setReg {r v : Nat} (h : Frame P R a d) (hr : r ∈ R) : Frame P R a (d.setReg r v) := h.wr64 hr
theorem Frame.count {r w n : Nat} (h : Frame P R a d) (hr : r ∈ R) : Frame P R a (d.count r w n) := h.wr64 hr
theorem Frame.countSat {r w n : Nat} (h : Frame P R a d) (hr : r ∈ R) : Frame P R a (d.countSat r w n) := h.wr64 hr

theorem Frame.onPins {f : Machine.Pins → Machine.Pins} (h : Frame P R a d) (hp : Part.pins ∈ P) : Frame P R a (d.onPins f) :=
  h.step rfl (fun p hq hn => by cases p <;> first | exact absurd rfl hn | rfl | exact absurd hp hq) (.inr ⟨rfl, Nat.le_refl _⟩)
    (fun _ _ => rfl) (fun _ => rfl)
theorem Frame.onTor {f : Machine.Tor → Machine.Tor} (h : Frame P R a d) (hp : Part.tor ∈ P) : Frame P R a (d.onTor f) :=
  h.step rfl (fun p hq hn => by cases p <;> first | exact absurd rfl hn | rfl | exact absurd hp hq) (.inr ⟨rfl, Nat.le_refl _⟩)
    (fun _ _ => rfl) (fun _ => rfl)
theorem Frame.onCores {f : Machine.Cores → Machine.Cores} (h : Frame P R a d) (hp : Part.cores ∈ P) : Frame P R a (d.onCores f) :=
  h.step rfl (fun p hq hn => by cases p <;> first | exact absurd rfl hn | rfl | exact absurd hp hq) (.inr ⟨rfl, Nat.le_refl _⟩)
    (fun _ _ => rfl) (fun _ => rfl)
theorem Frame.onGate {f : Machine.Gate → Machine.Gate} (h : Frame P R a d) (hp : Part.gate ∈ P) : Frame P R a (d.onGate f) :=
  h.step rfl (fun p hq hn => by cases p <;> first | exact absurd rfl hn | rfl | exact absurd hp hq) (.inr ⟨rfl, Nat.le_refl _⟩)
    (fun _ _ => rfl) (fun _ => rfl)
theorem Frame.onCirque {f : Machine.Cirque → Machine.Cirque} (h : Frame P R a d) (hp : Part.cirque ∈ P) : Frame P R a (d.onCirque f) :=
  h.step rfl (fun p hq hn => by cases p <;> first | exact absurd rfl hn | rfl | exact absurd hp hq) (.inl hp)
    (fun _ _ => rfl) (fun _ => rfl)
theorem Frame.onOx {f : Machine.Ox → Machine.Ox} (h : Frame P R a d) (hp : Part.ox ∈ P) : Frame P R a (d.onOx f) :=
  h.step rfl (fun p hq hn => by cases p <;> first | exact absurd rfl hn | rfl | exact absurd hp hq) (.inr ⟨rfl, Nat.le_refl _⟩)
    (fun _ _ => rfl) (fun _ => rfl)
theorem Frame.onCairn {f : Machine.Cairn → Machine.Cairn} (h : Frame P R a d) (hp : Part.cairn ∈ P) : Frame P R a (d.onCairn f) :=
  h.step rfl (fun p hq hn => by cases p <;> first | exact absurd rfl hn | rfl | exact absurd hp hq) (.inr ⟨rfl, Nat.le_refl _⟩)
    (fun _ _ => rfl) (fun _ => rfl)
theorem Frame.onCipher {f : Machine.Cipher → Machine.Cipher} (h : Frame P R a d) (hp : Part.cipher ∈ P) : Frame P R a (d.onCipher f) :=
  h.step rfl (fun p hq hn => by cases p <;> first | exact absurd rfl hn | rfl | exact absurd hp hq) (.inr ⟨rfl, Nat.le_refl _⟩)
    (fun _ _ => rfl) (fun _ => rfl)
theorem Frame.onPens {f : Machine.Pens → Machine.Pens} (h : Frame P R a d) (hp : Part.pens ∈ P) : Frame P R a (d.onPens f) :=
  h.step rfl (fun p hq hn => by cases p <;> first | exact absurd rfl hn | rfl | exact absurd hp hq) (.inr ⟨rfl, Nat.le_refl _⟩)
    (fun _ _ => rfl) (fun _ => rfl)
theorem Frame.onHost {f : Machine.HostIf → Machine.HostIf} (h : Frame P R a d) (hp : Part.host ∈ P) : Frame P R a (d.onHost f) :=
  h.step rfl (fun p hq hn => by cases p <;> first | exact absurd rfl hn | rfl | exact absurd hp hq) (.inr ⟨rfl, Nat.le_refl _⟩)
    (fun _ _ => rfl) (fun _ => rfl)
theorem Frame.onMedia {f : Machine.Media → Machine.Media} (h : Frame P R a d) (hp : Part.media ∈ P)
    (hj : d.media.jseq ≤ (f d.media).jseq) : Frame P R a (d.onMedia f) :=
  h.step rfl (fun p hq hn => by cases p <;> first | exact absurd rfl hn | rfl | exact absurd hp hq) (.inr ⟨rfl, hj⟩)
    (fun _ _ => rfl) (fun _ => rfl)
theorem Frame.onWr {f : Machine.Wr → Machine.Wr} (h : Frame P R a d) (hp : Part.wr ∈ P) : Frame P R a (d.onWr f) :=
  h.step rfl (fun p hq hn => by cases p <;> first | exact absurd rfl hn | rfl | exact absurd hp hq) (.inr ⟨rfl, Nat.le_refl _⟩)
    (fun _ _ => rfl) (fun _ => rfl)
theorem Frame.onMules {f : Machine.Mules → Machine.Mules} (h : Frame P R a d) (hp : Part.mules ∈ P) : Frame P R a (d.onMules f) :=
  h.step rfl (fun p hq hn => by cases p <;> first | exact absurd rfl hn | rfl | exact absurd hp hq) (.inr ⟨rfl, Nat.le_refl _⟩)
    (fun _ _ => rfl) (fun _ => rfl)
theorem Frame.onPair {f : Machine.Pair → Machine.Pair} (h : Frame P R a d) (hp : Part.pair ∈ P) : Frame P R a (d.onPair f) :=
  h.step rfl (fun p hq hn => by cases p <;> first | exact absurd rfl hn | rfl | exact absurd hp hq) (.inr ⟨rfl, Nat.le_refl _⟩)
    (fun _ _ => rfl) (fun _ => rfl)
theorem Frame.onDram {f : Machine.Dram → Machine.Dram} (h : Frame P R a d) (hp : Part.dram ∈ P) : Frame P R a (d.onDram f) :=
  h.step rfl (fun p hq hn => by cases p <;> first | exact absurd rfl hn | rfl | exact absurd hp hq) (.inr ⟨rfl, Nat.le_refl _⟩)
    (fun _ _ => rfl) (fun _ => rfl)
theorem Frame.onFw {f : Machine.Fw → Machine.Fw} (h : Frame P R a d) (hp : Part.fw ∈ P) : Frame P R a (d.onFw f) :=
  h.step rfl (fun p hq hn => by cases p <;> first | exact absurd rfl hn | rfl | exact absurd hp hq) (.inr ⟨rfl, Nat.le_refl _⟩)
    (fun _ _ => rfl) (fun _ => rfl)
theorem Frame.draw (h : Frame P R a d) (hp : Part.free ∈ P) : Frame P R a d.draw :=
  h.step rfl (fun p hq hn => by cases p <;> first | exact absurd rfl hn | rfl | exact absurd hp hq) (.inr ⟨rfl, Nat.le_refl _⟩)
    (fun _ _ => rfl) (fun _ => rfl)

theorem Frame.ite {c : Prop} [Decidable c] {x y : Dev} (h : Frame P R a x) (g : Frame P R a y) :
    Frame P R a (if c then x else y) := by split <;> assumption

theorem Frame.each {α : Type} {l : List α} {f : Dev → α → Dev} (h : Frame P R a d)
    (hf : ∀ x ∈ l, ∀ e, Frame P R a e → Frame P R a (f e x)) : Frame P R a (d.each l f) := by
  unfold Dev.each
  induction l generalizing d with
  | nil => exact h
  | cons x t ih => exact ih (hf x (by simp) d h) (fun y hy => hf y (by simp [hy]))

end Sys2Proof
end

