-- ==== Sys2Proof/Laws/Wrap.lean ====
section
/-! SUPPORT. AES key wrap (R211, R217): the steps back undo the steps, and semiblocks spell a number and back. -/

namespace Sys2Proof.Machine

theorem kwLo_kwPair (a r : W64) : kwLo (kwPair a r) = a := by
  apply BitVec.eq_of_toNat_eq
  simp only [kwLo, kwPair, BitVec.toNat_ofNat]
  have := a.isLt; have := r.isLt
  omega

theorem kwHi_kwPair (a r : W64) : kwHi (kwPair a r) = r := by
  apply BitVec.eq_of_toNat_eq
  simp only [kwHi, kwPair, BitVec.toNat_ofNat]
  have := a.isLt; have := r.isLt
  omega

theorem kwPair_parts (b : BitVec 128) : kwPair (kwLo b) (kwHi b) = b := by
  apply BitVec.eq_of_toNat_eq
  simp only [kwLo, kwHi, kwPair, BitVec.toNat_ofNat]
  have := b.isLt
  omega

/-- A step back undoes a step of the wrap. -/
theorem kwBack_kwStep (k : BitVec 256) (n : Nat) (s : W64 × List W64) (m : Nat) (hn : 0 < n) (hl : s.2.length = n) :
    kwBack k n (kwStep k n s m) m = s := by
  have hm : m % n < s.2.length := by rw [hl]; exact Nat.mod_lt _ hn
  obtain ⟨a, l⟩ := s
  simp only [kwBack, kwStep, List.set_set, BitVec.xor_assoc, BitVec.xor_self, BitVec.xor_zero]
  simp only [List.getD_eq_getElem?_getD, List.getElem?_set_self hm, Option.getD_some, kwPair_parts, aesDec_aesEnc, kwLo_kwPair, kwHi_kwPair]
  simp at hm
  simp [List.getElem?_eq_getElem hm]

theorem kwStep_length (k : BitVec 256) (n : Nat) (s : W64 × List W64) (m : Nat) : (kwStep k n s m).2.length = s.2.length := by
  simp [kwStep]

theorem kwSteps_length (k : BitVec 256) (n : Nat) (ms : List Nat) (s : W64 × List W64) : (ms.foldl (kwStep k n) s).2.length = s.2.length := by
  induction ms generalizing s with
  | nil => rfl
  | cons m ms ih => simp [ih, kwStep_length]

/-- The unwrap's steps undo the wrap's. -/
theorem kwBacks_kwSteps (k : BitVec 256) (n : Nat) (ms : List Nat) (s : W64 × List W64) (hn : 0 < n) (hl : s.2.length = n) :
    ms.reverse.foldl (kwBack k n) (ms.foldl (kwStep k n) s) = s := by
  induction ms generalizing s with
  | nil => rfl
  | cons m ms ih => simp only [List.reverse_cons, List.foldl_append, List.foldl_cons, List.foldl_nil]; rw [ih _ (by rw [kwStep_length]; exact hl), kwBack_kwStep k n s m hn hl]


theorem ofSemis_lt (l : List W64) : ofSemis l < 2 ^ (64 * l.length) := by
  induction l with
  | nil => simp [ofSemis]
  | cons b r ih =>
    simp only [ofSemis, List.length_cons, Nat.mul_add, Nat.pow_add]
    have := b.isLt
    omega

theorem semis_succ (n x : Nat) : semis (n + 1) x = BitVec.ofNat 64 x :: semis n (x / 2 ^ 64) := by
  simp only [semis, List.range_succ_eq_map, List.map_cons, List.map_map, Nat.mul_zero, Nat.pow_zero, Nat.div_one, List.cons.injEq, true_and]
  apply List.map_congr_left
  intro i _
  simp only [Function.comp, Nat.succ_eq_add_one, Nat.mul_add, Nat.mul_one, Nat.div_div_eq_div_mul, ← Nat.pow_add, Nat.add_comm]

/-- The semiblocks of the number that semiblocks spell. -/
theorem semis_ofSemis (l : List W64) : semis l.length (ofSemis l) = l := by
  induction l with
  | nil => rfl
  | cons b r ih =>
    have h : (ofSemis (b :: r)) / 2 ^ 64 = ofSemis r := by
      simp only [ofSemis]; have := b.isLt; omega
    rw [List.length_cons, semis_succ, h, ih]
    congr 1
    apply BitVec.eq_of_toNat_eq
    simp only [ofSemis, BitVec.toNat_ofNat]
    have := b.isLt
    omega

/-- The sum that reads semiblocks out of registers is the number they spell. -/
theorem fold_ofSemis (l : List W64) (n : Nat) (h : n ≤ l.length) :
    (List.range n).foldl (fun x i => x + (l.getD i 0).toNat * 2 ^ (64 * i)) 0 = ofSemis (l.take n) := by
  induction n generalizing l with
  | zero => simp [ofSemis]
  | succ n ih =>
    have key : ∀ (l : List W64) (n : Nat), n < l.length → ofSemis (l.take (n + 1)) = ofSemis (l.take n) + (l.getD n 0).toNat * 2 ^ (64 * n) := by
      intro l
      induction l with
      | nil => intro n h; simp at h
      | cons b r ihr =>
        intro n h
        cases n with
        | zero => simp [ofSemis]
        | succ n =>
          have := ihr n (by simpa using h)
          simp only [List.take_succ_cons, ofSemis] at this ⊢
          rw [this]
          simp only [List.getD_cons_succ, Nat.mul_add, Nat.pow_add, Nat.mul_one]
          ring
    rw [List.range_succ, List.foldl_append, ih l (by omega), key l n (by omega)]
    rfl

end Sys2Proof.Machine
end

