-- ==== Sys2Proof/Machine/Package.lean ====
section
/-! DEFINITION. The package: which signal stands on which ball (R374 to R377), the rails (R379), and what a net reads that no one
drives (R384). -/

namespace Sys2Proof.Machine

inductive Rail where
  | core | sram | io18 | vddqFl | ddr | peA | peH | sdA | sdH | aon
  deriving DecidableEq, Repr

/-- What a ball carries: a signal has its name and the indices that its name takes, 0 where it takes none. -/
inductive Net where
  | vss
  | rail (r : Rail)
  | sig (name : String) (i j : Nat)
  deriving DecidableEq, Repr

/-- The ball of a channel's tile at offset (0, 0), as row and column (R375). -/
def tileOrigin (ch : Nat) : Nat × Nat :=
  if ch < 10 then (1, 2 + 6 * ch)
  else if ch < 18 then (8 + 6 * (ch - 10), 57)
  else if ch < 28 then (57, 56 - 6 * (ch - 18))
  else if ch < 36 then (50 - 6 * (ch - 28), 1)
  else if ch < 44 then (7, 8 + 6 * (ch - 36))
  else if ch < 50 then (14 + 6 * (ch - 44), 51)
  else if ch < 58 then (51, 50 - 6 * (ch - 50))
  else (44 - 6 * (ch - 58), 7)

/-- The layout of every tile, row by row (R375). -/
def tileNet (ch k : Nat) : Net :=
  if k < 4 then .sig "FL_DQ" ch k
  else if k = 4 ∨ k = 11 then .rail .vddqFl
  else if k = 5 ∨ k = 10 then .vss
  else if k < 10 then .sig "FL_DQ" ch (k - 2)
  else match k with
    | 12 => .sig "FL_DQS_DP" ch 0 | 13 => .sig "FL_DQS_DN" ch 0 | 14 => .sig "FL_RE_DP" ch 0 | 15 => .sig "FL_RE_DN" ch 0
    | 16 => .sig "FL_CLE" ch 0 | 17 => .sig "FL_ALE" ch 0 | 18 => .sig "FL_WE_N" ch 0 | 19 => .sig "FL_WP_N" ch 0
    | _ => if k < 28 then .sig "FL_CE_N" ch (k - 20) else .sig "FL_RB_N" ch (k - 28)

/-- The ball at a place of a channel's tile, and the place of a flash signal: CE_N[t] is place 20 + t, RB_N[t] place 28 + t. -/
def tileBall (ch k : Nat) : Nat × Nat := ((tileOrigin ch).1 + k / 6, (tileOrigin ch).2 + k % 6)

/-- A ball lies in a channel's tile. -/
def inTile (ch row col : Nat) : Bool :=
  let o := tileOrigin ch
  decide (o.1 ≤ row) && decide (row < o.1 + 6) && decide (o.2 ≤ col) && decide (col < o.2 + 6)

/-- A region of 38 columns filled with triples, 12 of them in a row since none is cut, then with single signals (R376). `pair p`
names pair p and its indices. -/
def tripleNet (pairs : Nat) (pair : Nat → String × Nat) (singles : List String) (r c : Nat) : Net :=
  let last := (pairs - 1) / 12 * 38 + ((pairs - 1) % 12 + 1) * 3
  if 38 * r + c < last then
    if 36 ≤ c ∨ c % 3 = 2 then .vss
    else
      let p := pair (12 * r + c / 3)
      .sig (p.1 ++ (if c % 3 = 0 then "_DP" else "_DN")) p.2 0
  else match singles[38 * r + c - last]? with
    | some n => .sig n 0 0
    | none => .vss

def pciePair (p : Nat) : String × Nat :=
  if p < 16 then ("PE_TX", p) else if p < 32 then ("PE_RX", p - 16) else ("PE_REFCLK", 0)

def saddlePair (p : Nat) : String × Nat :=
  if p < 8 then ("SD_TX", p) else if p < 16 then ("SD_RX", p - 8) else ("SD_REFCLK", 0)

/-- The 160 signals of DRAM channel x in their order (R377); none of their pairs would cross a row of 12. DEDUCED (assumption
143): CA, CS and CKE stand from their highest index down, as R377 writes them. -/
def dramNet (x k : Nat) : Net :=
  if k < 80 then .sig "DDR_DQ" x k
  else if k < 120 then .sig (if k % 2 = 0 then "DDR_DQS_DP" else "DDR_DQS_DN") x ((k - 80) / 2)
  else if k < 134 then .sig "DDR_CA0" x (133 - k)
  else if k < 148 then .sig "DDR_CA1" x (147 - k)
  else if k < 152 then .sig "DDR_CS_N" x (151 - k)
  else if k < 156 then .sig (if k % 2 = 0 then "DDR_CK_DP" else "DDR_CK_DN") x ((k - 152) / 2)
  else if k < 158 then .sig "DDR_CKE" x (157 - k)
  else if k = 158 then .sig "DDR_RESET_N" x 0
  else if k = 159 then .sig "DDR_ALERT_N" x 0
  else .vss

/-- The sideband, misc and reserved signals in their order (R377). -/
def miscNet (k : Nat) : Net :=
  if k < 36 then
    match (["SB_SCL", "SB_SDA", "SB_ALERT_N", "ENUM_IN", "ENUM_OUT", "FAULT_N", "PWR_LOSS_N", "HOLDUP_SENSE"] : List String)[k]? with
    | some n => .sig n 0 0
    | none => if k < 24 then .sig "TEMP_EXT" (k - 8) 0 else
      match (["XTAL25_IN", "XTAL25_OUT", "XTAL32K_IN", "XTAL32K_OUT", "CFG_BOOT", "CFG_COMPAT", "CFG_SBMODE", "TCK", "TMS", "TDI",
          "TDO", "TRST_N"] : List String)[k - 24]? with
      | some n => .sig n 0 0
      | none => .vss
  else if k < 52 then .sig "GPIO" (k - 36) 0
  else if k = 52 then .sig "WAKE_IN" 0 0
  else if k < 62 then .sig "RSVD" (k - 53) 0
  else .vss

/-- The rails with places of their own in the power region (R379). -/
def placedRail (row col : Nat) : Option Rail :=
  if row ≤ 18 ∧ col ≤ 32 then some .peA
  else if row ≤ 18 ∧ col ≤ 36 then some .peH
  else if 45 ≤ row ∧ col ≤ 28 then some .sdA
  else if 45 ≤ row ∧ col ≤ 30 then some .sdH
  else if row = 46 ∧ 37 ≤ col then some .aon
  else if (19 ≤ row ∧ row ≤ 26) ∧ col ≤ 26 then some .ddr
  else none

/-- The balls of the power region before one, row by row, that no rail has a place of its own on (R379). -/
def freePower (row col : Nat) : Nat :=
  ((List.range (row - 17)).map (fun r => (List.range 14).countP (fun c => (placedRail (17 + r) (25 + c)).isNone))).sum +
    (List.range (col - 25)).countP (fun c => (placedRail row (25 + c)).isNone)

def powerNet (row col : Nat) : Net :=
  match placedRail row col with
  | some r => .rail r
  | none =>
    let k := freePower row col
    if k < 24 then .rail .io18
    else if k < 64 then .rail .sram
    else if k < 308 ∧ k % 2 = 1 then .vss
    else .rail .core

/-- What the core square holds (R376). -/
def coreNet (row col : Nat) : Net :=
  if row ≤ 16 then tripleNet 33 pciePair ["PERST_N", "CLKREQ_N", "WAKE_N"] (row - 13) (col - 13)
  else if 49 ≤ row then miscNet ((row - 49) * 38 + (col - 13))
  else if 47 ≤ row then
    tripleNet 17 saddlePair ["PEER_FENCE_OUT", "PEER_FENCE_IN", "PEER_ALIVE_OUT", "PEER_ALIVE_IN", "PAIR_ID"] (row - 47) (col - 13)
  else if 25 ≤ col ∧ col ≤ 38 then powerNet row col
  else if row = 31 ∨ row = 32 then .rail .ddr
  else
    let x := (if row < 31 then 0 else 1) + (if col < 25 then 0 else 2)
    dramNet x (12 * (if row < 31 then row - 17 else row - 33) + (if col < 25 then col - 13 else col - 39))

/-- What a ball of the 62 × 62 grid carries: rows and columns from 1 (R374). -/
def ballNet (row col : Nat) : Net :=
  if 13 ≤ row ∧ row ≤ 50 ∧ 13 ≤ col ∧ col ≤ 50 then coreNet row col
  else match (List.range 64).find? (fun ch => inTile ch row col) with
    | some ch => tileNet ch ((row - (tileOrigin ch).1) * 6 + (col - (tileOrigin ch).2))
    | none => .vss

/-- A rail (R379): nominal millivolts, tolerance in percent, greatest current in milliamperes, and the GPIO that switches it, none
for one that is always on. VDDQ_FL is 1,200 mV, or 600 mV with NV-LPDDR4 and then up to 3,000 mA (R112). -/
structure RailSpec where
  mv : Nat
  tol : Nat
  ma : Nat
  gpio : Option Nat
  deriving DecidableEq, Repr

def railSpec (lpddr : Bool) : Rail → RailSpec
  | .core => ⟨750, 3, 46000, some 15⟩
  | .sram => ⟨800, 3, 6000, some 15⟩
  | .io18 => ⟨1800, 5, 1500, some 15⟩
  | .vddqFl => if lpddr then ⟨600, 5, 3000, some 15⟩ else ⟨1200, 5, 2500, some 15⟩
  | .ddr => ⟨1100, 3, 3500, some 14⟩
  | .peA => ⟨850, 3, 3500, some 15⟩
  | .peH => ⟨1200, 3, 800, some 15⟩
  | .sdA => ⟨850, 3, 1500, some 15⟩
  | .sdH => ⟨1200, 3, 400, some 15⟩
  | .aon => ⟨1800, 5, 20, none⟩

/-- The level that the board's pull gives a net that no one drives; none where R384 lists no pull. -/
def undriven (name : String) (i : Nat) : Option Bool :=
  if name ∈ (["FL_CE_N", "FL_WE_N", "FL_RE_DP", "FL_RB_N", "FAULT_N", "SB_ALERT_N", "SB_SCL", "SB_SDA"] : List String) then some true
  else if name ∈ (["FL_WP_N", "FL_CLE", "FL_ALE", "FL_RE_DN", "PEER_FENCE_IN", "PEER_ALIVE_IN", "PEER_FENCE_OUT", "PEER_ALIVE_OUT",
      "ENUM_IN", "ENUM_OUT", "DDR_RESET_N", "TRST_N"] : List String) then some false
  else if name = "GPIO" ∧ (i = 14 ∨ i = 15) then some false
  else none

end Sys2Proof.Machine
end

