-- ==== Sys2Proof/Tests/Slice0.lean ====
section
/-! SUPPORT. Tests: ill-formed commands, the worked examples of the spec, and for each statement a state and operands that meet
its hypotheses (a clause for each of its cases). -/

open Sys2Proof
open Sys2Proof.Machine hiding Frame

namespace Sys2Proof.Tests

set_option maxRecDepth 100000
set_option Elab.async false

/-! States of a few lines each: a running part in SOLO with every clock on and the recorder taking posts. -/

def tRegs : SMap W64 :=
  [(A.CLK_EN, 0x7FF), (A.CLK_ENSTAT, 0x7FF0000), (A.CLK_EN_MULE, BitVec.allOnes 64), (A.CLK_ON_MULE, BitVec.allOnes 64),
   (A.CLK_RSTCAUSE, 3), (A.CAIRN_STAT, 1), (A.PAIR_OWN, BitVec.allOnes 64)]

def tDev : Dev := { Dev.cold with regs := tRegs, fw := { Fw.cold with mode := .solo, transit := false, replayed := true } }

def st (d : Dev) : State := { dev := d, pending := [] }

/-- The same with ENUM_IN high: the unit answers on the sideband bus. -/
def bDev : Dev := { tDev with pins := { tDev.pins with enumIn := true } }

def tTor (d : Dev) (f : Tor → Tor) : Dev := { d with tor := f d.tor }

def tRecord : SMap (BitVec 256) := [(recBase 0, recWordOf actvMagic 1), (recBase 0 + 96, recWordOf cfrmMagic 1)]

def hd : Hdr := { fn := 0, qid := 0, cid := 7 }

def tEnt : Entry :=
  { id := 3, h := hd, q := 0, nsx := 0, ofs := 0, zone := 0, zoned := false, secs := [], pen := 0, app := false, ilbrt := 0,
    fua := false, mseq := 1, complete := true, mirrored := false, acked := false, held := false, t0 := 0 }

/-- A pair whose link is up and whose handshake is over but for its last step. -/
def pDev (m : Mode) (r : Role) : Dev :=
  { tDev with
    regs := SMap.put (SMap.put tDev.regs A.PAIR_STAT 2) A.PAIR_OWN 0xFFFFFFFF
    pins := { Pins.cold with aliveIn := true }
    pair := { Pair.cold with
      hello := some { code := (tDev.ownHello false).code, stepping := (tDev.ownHello false).stepping, pairId := true, geom := BitVec.ofNat 32 (tDev.rd (A.MULE_GEOM 0)).toNat, proto := tDev.proto, restart := false }
      pwkOk := true, bceilOk := true, restored := some [] }
    fw := { tDev.fw with mode := m, role := r } }

def tFh : FrameHdr := { fseq := 1, ackseq := 0 }

def tPen : PenRec :=
  { func0 := 1, func1 := 0, ioq := 8, nsq := 8, ksbase := 0, kscount := 8, cmbsh := 0, cmboff := 0, bufsh := 16, hold := 0, morq := 8,
    marq := 8, convq := 0, tgt0 := 10, tgt1 := 10, tgt2 := 10, tgt3 := 10, rdfloor := 16, wrfloor := 16, rdceil := 0xFFFF, wrceil := 0xFFFF,
    weight := 1, c0allow := 1 }

def tReq : MuleReq :=
  { op := 0, lun := 0, lbn := 5, page := 3, plane := 1, cw := 2, ncw := 1, rid := 9, deadline := 0, cls := 1, flush := false,
    spurOk := false, nsx := 0, lba := 0, gen := 0, data := [] }

def tSeal : Seal := { nsx := 0, lba := 0, gen := 0, poison := false }

/-- A codeword that decodes at the first entry, with a seal of nothing. -/
def cwR : CwResp := { entry := some 0, best := 0, soft := false, iters := 1, corr := 0, scrc := true, sl := tSeal, buf := 0 }

def tQ : QReq := { id := 4, r := tReq, pblk := 5, start := 0, elig := none }

def zns : Ns :=
  { nsx := 0, zoned := true, seven := false, base := 0, nzones := 8, gib := 0, md := 0, g64 := false, pi := 0, home := false, pen := 0,
    slot := 9, keyed := false, fns := [0], wctr := 0, freeRu := 0, reserve := 0, prot := false, directive := false }

def cns : Ns := { zns with nsx := 2, zoned := false, base := 0, nzones := 0, gib := 2, reserve := 4, freeRu := 4, wctr := 5 }

def pns : Ns := { cns with nsx := 3, md := 8, pi := 1 }

def zd0 : Zd :=
  { st := zEmpty, seven := false, colok := true, group := 0, lbn := 0, wp := 0, fp := 0, nsx := 0, kslot := 9, pen := 0, zseq := 1 }

def lba0 : Lba := { data := 0, md := { guard := 0, app := 0, ref := 0, rest := 0 } }

def sec0 (lba : Nat) : Sector := { d := lba0, nsx := 0, lba := lba, gen := 1, poison := false }

/-- Zones by descriptor index: 0 open at offset 16 with FP 16, 1 Empty, 2 Full, 3 Read Only, 4 Offline, 5 Closed, 6 open and full but for one LBA. -/
def tZt : SMap (BitVec 128) :=
  [(0, { zd0 with st := zImp, lbn := 10, wp := 16, fp := 16 }.word), (1, zd0.word), (2, { zd0 with st := zFull, lbn := 12, wp := 229376 }.word),
   (3, { zd0 with st := zRO, lbn := 13 }.word), (4, { zd0 with st := zOff }.word), (5, { zd0 with st := zClosed, lbn := 14, wp := 4 }.word),
   (6, { zd0 with st := zExp, lbn := 15, wp := 229375 }.word)]

/-- A part in SOLO with namespaces, zones in each state, a Pen with the whole buffer, a free row. -/
def nDev : Dev :=
  { tDev with
    regs := SMap.put tDev.regs (A.CIPHER_PENRANGE 0) (2 ^ 28), cipher := { Cipher.cold with slots := [(9, .bypass)] }
    media := { Media.cold with
      nss := [zns, cns, pns], zt := tZt, lru := [0, 6], pool14 := [{ seven := false, group := 1, lbn := 20, wear := 0, dirty := false }] }
    wr := { Wr.cold with bceil := 512 }
    pens := { Pens.cold with recs := [(0, { r := { tPen with bufsh := 1024, morq := 4, marq := 8 }, gen := 1, enabled := true })] } }

def rw (nsid slba nlb : Nat) : RwCmd :=
  { nsid := nsid, slba := slba, nlb := nlb, prchk := 0, pract := false, ilbrt := 0, app := 0, mask := 0, fua := false, pid := 0, pages := [] }

def gEntry : Entry := { tEnt with acked := true, zoned := true, secs := List.replicate 896 (sec0 0) }

/-- Zone 0 has a whole group of acknowledged LBAs in the buffer. -/
def gDev : Dev :=
  { nDev with
    media := { nDev.media with zt := [(0, { zd0 with st := zImp, lbn := 10, wp := 896 }.word)], lru := [0] }
    wr := { nDev.wr with entries := [gEntry] } }

def gSecs : List (Nat × Sector) := (List.range 896).map (fun i => (0 + i, sec0 0))

/-- The conventional namespace has a whole group of acknowledged LBAs in the buffer, and a unit in use. -/
def uDev : Dev :=
  { nDev with
    media := { nDev.media with nss := [zns, cns], curUnit := [(handleKey 2 0, 5)] }
    wr := { nDev.wr with entries := [{ tEnt with nsx := 2, acked := true, secs := (List.range 896).map (fun i => { sec0 i with nsx := 2 }) }] } }

/-- The sequences of channel 5: 0 a read, 5 a program and 7 an erase that may be suspended, 9 a reset; 3 is not valid. -/
def seqRegs : SMap W64 :=
  [(A.MULE_CTL 5, 1), (A.MULE_STAT 5, 1), (A.MULE_GEOM 5, BitVec.ofNat 64 (0x38 + 1000 * 256)), (A.MULE_RETRY_CFG 5, 0x07F),
   (A.MULE_SEQMAP 5 0, 0), (A.MULE_SEQMAP 5 5, 5), (A.MULE_SEQMAP 5 7, 7), (A.MULE_SEQMAP 5 9, 9), (A.MULE_SEQMAP 5 3, 3),
   (A.MULE_SEQHDR 5 0, BitVec.ofNat 64 (2 ^ 63 + 2 ^ 56 + 60 * 2 ^ 28)), (A.MULE_SEQ 5 0 0, BitVec.ofNat 64 (4 * 2 ^ 60 + 4608)), (A.MULE_SEQ 5 0 1, 0),
   (A.MULE_SEQHDR 5 5, BitVec.ofNat 64 (2 ^ 63 + 2 ^ 61 + 2 ^ 60 + 2 * 2 ^ 56 + 700 * 2 ^ 28)), (A.MULE_SEQ 5 5 0, BitVec.ofNat 64 (9 * 2 ^ 60)),
   (A.MULE_SEQ 5 5 1, BitVec.ofNat 64 (7 * 2 ^ 60 + 2 ^ 40)), (A.MULE_SEQ 5 5 2, 0),
   (A.MULE_SEQHDR 5 7, BitVec.ofNat 64 (2 ^ 63 + 2 * 2 ^ 61 + 2 ^ 60 + 2 ^ 56 + 15000 * 2 ^ 28)), (A.MULE_SEQ 5 7 0, BitVec.ofNat 64 (9 * 2 ^ 60)), (A.MULE_SEQ 5 7 1, 0),
   (A.MULE_SEQHDR 5 9, BitVec.ofNat 64 (2 ^ 63 + 3 * 2 ^ 61 + 5 * 2 ^ 28)), (A.MULE_SEQ 5 9 0, 0)]

/-- A part whose Mule of channel 5 goes. -/
def mDev : Dev :=
  { tDev with regs := seqRegs.foldl (fun m e => SMap.put m e.1 e.2) tDev.regs, mules := { Mules.cold with loaded := [5] } }

/-- A part whose Mules of some channels go, with a read sequence for op 0. -/
def goDev (l : List Nat) (d : Dev) : Dev :=
  let d := d.each l (fun d c =>
    ((((d.wr64 (A.MULE_CTL c) 1).wr64 (A.MULE_STAT c) 1).wr64 (A.MULE_GEOM c) (BitVec.ofNat 64 (0x38 + 1000 * 256))).wr64 (A.MULE_SEQMAP c 0) 0).wr64
      (A.MULE_SEQHDR c 0) (BitVec.ofNat 64 (2 ^ 63 + 2 ^ 56 + 60 * 2 ^ 28)))
  { d with mules := { d.mules with loaded := l } }

def mReq (op lun lbn : Nat) : MuleReq := { tReq with op := BitVec.toFin (BitVec.ofNat 4 op), lun := BitVec.toFin (BitVec.ofNat 5 lun), lbn := lbn }

def mQ (id op lun lbn : Nat) : QReq := { id := id, r := mReq op lun lbn, pblk := lbn, start := 0, elig := none }

/-- A request runs on a LUN of channel 5, which shows a state. -/
def mRun (l st : Nat) (q : QReq) (d : Dev) : Dev :=
  (d.setLun 5 l { run := some q, susp := none, queue := [], reads := 0, runUs := 0 }).setReg (A.MULE_LUN 5 l) st

/-! Commands that the outside cannot send: one for each check. -/

def hx : Hdr := { hd with cid := 65536 }
def wfE : Sqe := { opc := 2, fused := false, cid := 7, rw := rw 1 0 1, dptr := .prp, eccBad := false }
def wfN : NsArg := { zoned := true, seven := false, nzones := 2, gib := 0, fmt := 0, piType := 0, keyed := false, pen := 0, anagrp := 0 }
def wfW : Win := { hbase := 0, npages := 0, valid := false }
def wfM : CMsg := { id := 4, pen := 0, slot := 9, cls := 1, rid := 1, read := true, blocks := 256, cmd := hd }

theorem test_wf_refuses_0 : ([
  .torStatus true 1 (List.replicate 253 0), .torWake true 1 (List.replicate 253 0), .torSleep true 1 (List.replicate 253 0),
  .torFaultRead true 1 (List.replicate 253 0), .torAddrSet true 1 (List.replicate 253 0), .torChainPass true 1 (List.replicate 253 0),
  .torTempRead true 1 (List.replicate 253 0), .torEventTail true 1 (List.replicate 253 0), .linkTrainingComplete [],
  .keyx tFh (2 ^ 1024) 0, .keyx tFh 0 (2 ^ 1024), .mhdr tFh { mseq := 2 ^ 64, nsx := 0, lba := 0, n := 1, pen := 0 },
  .jrec tFh { seq := 2 ^ 64, flushed := true, peer := false, body := .ckpt 0 0 0 0 }, .zdesc tFh (List.replicate 13 (0, 0)),
  .zdesc tFh [(2 ^ 19, 0)], .map tFh (List.replicate 26 (0, 0)), .sqTailDoorbell 0 65536 0 wfE, .sqTailDoorbell 0 0 65536 wfE,
  .sqTailDoorbell 0 0 0 { wfE with cid := 65536 }, .read hx (rw 1 0 1) [], .read hd (rw 1 0 0) [],
  .read hd (rw 1 0 1) [(0, .stripe), (0, .stripe)], .read hd (rw 1 0 1) [(1, .stripe)], .write hx (rw 1 0 1) [lba0], .write hd (rw 1 0 0) [],
  .write hd (rw 1 0 1) [], .zoneAppend hx (rw 1 0 1) [lba0], .zoneAppend hd (rw 1 0 0) [], .zoneAppend hd (rw 1 0 1) [],
  .writeZeroes hx (rw 1 0 1) false, .writeZeroes hd (rw 1 0 0) false, .flush hx 1, .flush hd (2 ^ 32), .compare hx (rw 1 0 1) [lba0] [],
  .compare hd (rw 1 0 0) [] [], .compare hd (rw 1 0 1) [] [], .compare hd (rw 1 0 1) [lba0] [(1, .stripe)],
  .compare hd (rw 1 0 1) [lba0] [(0, .stripe), (0, .stripe)], .verify hx (rw 1 0 1) [], .verify hd (rw 1 0 0) [], .verify hd (rw 1 0 1) [(1, .stripe)],
  .verify hd (rw 1 0 1) [(0, .stripe), (0, .stripe)], .datasetManagement hx 1 true [], .datasetManagement hd (2 ^ 32) true [],
  .datasetManagement hd 1 true (List.replicate 257 (0, 1)), .writeUncorrectable hx (rw 1 0 1), .writeUncorrectable hd (rw 1 0 0),
  .openZone hx { nsid := 1, slba := 0, all := false }, .openZone hd { nsid := 2 ^ 32, slba := 0, all := false },
  .closeZone hx { nsid := 1, slba := 0, all := false }, .closeZone hd { nsid := 2 ^ 32, slba := 0, all := false },
  .finishZone hx { nsid := 1, slba := 0, all := false }, .finishZone hd { nsid := 2 ^ 32, slba := 0, all := false },
  .resetZone hx { nsid := 1, slba := 0, all := false }, .resetZone hd { nsid := 2 ^ 32, slba := 0, all := false },
  .offlineZone hx { nsid := 1, slba := 0, all := false }, .offlineZone hd { nsid := 2 ^ 32, slba := 0, all := false },
  .reportZones hx 1 0 16 true, .reportZones hd (2 ^ 32) 0 16 true, .reportZones hd 1 (2 ^ 64) 16 true, .reportZones hd 1 0 (2 ^ 32) true,
  .createIoSubmissionQueue hx { sqid := 1, cqid := 1, size := 16, inCmb := false, base := 0, cls := 1, col := false },
  .createIoSubmissionQueue hd { sqid := 1, cqid := 1, size := 1, inCmb := false, base := 0, cls := 1, col := false },
  .createIoCompletionQueue hx { cqid := 1, size := 16, vector := 1, inCmb := false, base := 0 },
  .createIoCompletionQueue hd { cqid := 1, size := 1, vector := 1, inCmb := false, base := 0 }, .deleteIoSubmissionQueue hx 1,
  .deleteIoSubmissionQueue hd 65536, .deleteIoCompletionQueue hx 1, .deleteIoCompletionQueue hd 65536, .identify hx 0 0] : List Instr).all (fun i => !i.wf) = true := by
  decide +kernel

theorem test_wf_refuses_1 : ([
  .identify hd 0 (2 ^ 32), .getLogPage hx 2 0 0 false false 0 512, .getLogPage hd 2 (2 ^ 32) 0 false false 0 512,
  .getLogPage hd 2 0 65536 false false 0 512, .getLogPage hd 2 0 0 false false (2 ^ 64) 512, .getLogPage hd 2 0 0 false false 0 (2 ^ 34),
  .abort hx 1 1, .abort hd 65536 1, .abort hd 1 65536, .asynchronousEventRequest hx, .setFeatures hx 2 0, .getFeatures hx 2,
  .namespaceCreate hx wfN, .namespaceDelete hx 1, .namespaceDelete hd (2 ^ 32), .namespaceAttachment hx true 1 [],
  .namespaceAttachment hd true (2 ^ 32) [], .firmwareImageDownload hx 0 [], .firmwareImageDownload hd (2 ^ 32) [], .firmwareCommit hx 1 1,
  .firmwareCommit hd 8 1, .firmwareCommit hd 1 8, .formatNvm hx 1 0 0 0 false false, .formatNvm hd (2 ^ 32) 0 0 0 false false, .formatNvm hd 1 8 0 0 false false,
  .formatNvm hd 1 0 16 0 false false, .sanitize hx 2, .sanitize hd 8, .deviceSelfTest hx 1, .deviceSelfTest hd 16, .directiveSend hx 1 1 1 true,
  .directiveSend hd 256 1 1 true, .directiveSend hd 1 256 1 true, .directiveSend hd 1 1 (2 ^ 32) true, .directiveReceive hx 1 1 1,
  .directiveReceive hd 256 1 1, .directiveReceive hd 1 256 1, .directiveReceive hd 1 1 (2 ^ 32), .cmbHostAccess 0 (2 ^ 32) none .none,
  .penManageSet hx 1 128 tPen, .penManageSet hd 1 (2 ^ 32) tPen, .penManageSet hd 1 128 { tPen with weight := 256 },
  .penManageGet hx 1 128, .penManageGet hd 1 (2 ^ 32), .penManageEnable hx 1, .penManageDisable hx 1,
  .startLog hx 1 64 [wfW, wfW, wfW, wfW], .startLog hd 1 (2 ^ 32) [wfW, wfW, wfW, wfW], .startLog hd 1 64 [], .harvest hx 1 8 0,
  .harvest hd 1 (2 ^ 32) 0, .quiesce hx 1, .readState hx 1 64, .readState hd 1 (2 ^ 32), .writeState hx 1 0 false [], .resume hx 1,
  .stopLog hx 1, .join hx, .release hx true, .handback hx, .goSolo hx, .calInfo hx 64, .calInfo hd (2 ^ 32), .calRead hx 0 64 true,
  .calRead hd (2 ^ 32) 64 true, .calRead hd 0 (2 ^ 32) true, .calOpen hx 0, .calWrite hx 0 [], .calWrite hd (2 ^ 32) [],
  .calWrite hd 0 (List.replicate 4097 0)] : List Instr).all (fun i => !i.wf) = true := by
  decide +kernel

theorem test_wf_refuses_2 : ([
  .calCommit hx 0, .abandon hx, .eventInfo hx 1 64, .eventInfo hd 65536 64, .eventInfo hd 1 (2 ^ 32), .eventRead hx 1 0 64,
  .eventRead hd 65536 0 64, .eventRead hd 1 (2 ^ 32) 64, .eventRead hd 1 0 (2 ^ 32), .eventClear hx 1, .eventClear hd 65536,
  .mediaPolicyGet hx 64, .mediaPolicyGet hd (2 ^ 32), .mediaPolicySet hx 64 Policy.shipped, .mediaPolicySet hd (2 ^ 32) Policy.shipped,
  .mediaPolicySet hd 64 { Policy.shipped with days := 256 }, .regRead hx 0 8, .regRead hd 0 (2 ^ 32), .regWrite hx 0 0, .memRead hx 0 4 .none,
  .memRead hd 0 (2 ^ 32) .none, .memWrite hx 0 [], .flashOp hx 0 0 0 0 0 [], .flashOp hd 0 0 0 16384 0 [], .flashOp hd 0 0 0 0 1024 [],
  .flashOp hd 0 0 0 0 0 (List.replicate 513 (.busy true)), .serviceDiagReset hx, .zoneIdleTimeout (2 ^ 32) 0, .zoneIdleTimeout 1 (2 ^ 20),
  .programGroupIssue (2 ^ 32) 0 [], .programGroupIssue 1 (2 ^ 20) [], .programGroupIssue 1 0 [3, 3], .stripeCompletion (2 ^ 32) 0, .stripeCompletion 1 (2 ^ 20),
  .folding (2 ^ 32) 0 [], .folding 1 (2 ^ 20) [], .folding 1 0 [(0, .stripe), (0, .stripe)], .bufferCeilingRecompute (2 ^ 16),
  .holdupSample (2 ^ 16) 0, .holdupSample 0 (2 ^ 32), .holdupRechargeComplete (2 ^ 16), .muleRequest 0 { tReq with lbn := 16384 },
  .muleRequest 0 { tReq with page := 1024 }, .muleRequest 0 { tReq with ncw := 17 }, .muleRequest 0 { tReq with rid := 65536 },
  .muleRequest 0 { tReq with nsx := 1024 }, .muleRequest 0 { tReq with lba := 2 ^ 40 }, .parityUnitDelivery 0 (2 ^ 16) 0 [],
  .parityUnitDelivery 0 0 16 [], .parityUnitDelivery 0 0 0 (List.replicate 17 0), .muleSequenceEnd 0 0 (List.replicate 513 (.busy true)) 0,
  .muleSequenceEnd 0 0 [] (2 ^ 32), .readReconstruction hx [], .readReconstruction hd [(0, .stripe), (0, .stripe)],
  .goatPatrolRead (2 ^ 16) 0 false 0 [], .goatPatrolRead 0 16384 false 0 [], .goatPatrolRead 0 0 false 64 [],
  .goatPatrolRead 0 0 false 0 [{ pos := 0, plane := 0, depth := 64, soft := false, uncorr := false }], .refreshRelocation (2 ^ 32) 0,
  .refreshRelocation 1 (2 ^ 20), .garbageCollection (2 ^ 32), .blockRetirement 0 0 0 16384, .cirqueProgramEnd 2560,
  .cirqueEraseGo 0 (2 ^ 27), .cirqueWindowRead (.host 0) (2 ^ 22) 0, .cirqueWindowRead (.host 0) 0 2560, .otpProgram 0 2560,
  .oxBurstComplete 0 none (List.replicate 257 0) .none, .henBurst [] (2 ^ 32), .cipherMessage { wfM with blocks := 1 } false,
  .cipherMessage { wfM with blocks := 65536 } false, .mdata tFh { d := lba0, sl := { tSeal with lba := 2 ^ 40 } },
  .bulk tFh 0 0 (.entry { mseq := 0, nsx := 0, lba := 0, n := 1, pen := 0 } [{ d := lba0, sl := { tSeal with nsx := 1024 } }]),
  .bulk tFh 0 0 (.policy { Policy.shipped with days := 256 }), .bulk tFh 0 0 (.pens [(256, tPen, 1)]), .pairHandshake [(256, tPen, 1)],
  .pairHandshake [(1, { tPen with weight := 256 }, 1)], .pllLock 1 0 (2 ^ 20), .muleSequenceEnd 0 0 [.din (List.replicate 17 cwR)] 0,
  .muleSequenceEnd 0 0 [.din [{ cwR with sl := { tSeal with gen := 2 ^ 32 } }]] 0, .flashOp hd 0 0 0 0 0 [.din [{ cwR with best := 64 }]],
  .penManageSet hd 1 128 tPen [2 ^ 32]] : List Instr).all (fun i => !i.wf) = true := by
  decide +kernel

theorem test_wf_refuses_3 : ([
  .unsupportedCommand hx .field] : List Instr).all (fun i => !i.wf) = true := by
  decide +kernel

/-- The parts of a well-formed command, each out of its field. -/
theorem test_wf_parts :
    wfHdr { hd with qid := 65536 } = false ∧ wfRw { rw 1 0 1 with nsid := 2 ^ 32 } = false ∧ wfRw { rw 1 0 1 with slba := 2 ^ 64 } = false ∧
    wfRw (rw 1 0 65537) = false ∧ wfRw { rw 1 0 1 with pid := 65536 } = false ∧ wfSqe { wfE with rw := rw 1 0 0 } = false ∧
    wfSq { sqid := 65536, cqid := 1, size := 16, inCmb := false, base := 0, cls := 1, col := false } = false ∧ wfSq { sqid := 1, cqid := 65536, size := 16, inCmb := false, base := 0, cls := 1, col := false } = false ∧ wfSq { sqid := 1, cqid := 1, size := 65537, inCmb := false, base := 0, cls := 1, col := false } = false ∧ wfCq { cqid := 65536, size := 16, vector := 1, inCmb := false, base := 0 } = false ∧ wfCq { cqid := 1, size := 65537, vector := 1, inCmb := false, base := 0 } = false ∧ wfCq { cqid := 1, size := 16, vector := 65536, inCmb := false, base := 0 } = false ∧
    wfZone { nsid := 1, slba := 2 ^ 64, all := false } = false ∧
    wfMir { mseq := 0, nsx := 1024, lba := 0, n := 1, pen := 0 } = false ∧ wfMir { mseq := 0, nsx := 0, lba := 2 ^ 40, n := 1, pen := 0 } = false ∧
    wfMir { mseq := 0, nsx := 0, lba := 0, n := 1, pen := 256 } = false ∧ wfPen { tPen with ioq := 65536 } = false ∧
    wfPen { tPen with tgt0 := 2 ^ 32 } = false ∧ wfPolicy { Policy.shipped with thresh := 65536 } = false ∧
    wfPolicy { Policy.shipped with burstGib := 2 ^ 32 } = false ∧
    (.read hd (rw 1 0 1) [] : Instr).wf = true ∧ wfPen tPen = true ∧ wfPolicy Policy.shipped = true ∧ wfReq tReq = true := by
  decide +kernel

/-! The spec's worked examples, and small points of its rules. -/

/-- The example after R39: LBA 262,267,461 of a namespace that starts at descriptor 20,000. -/
theorem test_R39_example :
    locate false 123461 = { row := 551, slot := 2, pos := 2, plane := 1, cw := 1 } ∧ parityPos false 551 = 14 ∧
    memberOf false 8 37 2 = (18, 1, 1) ∧ (memberOf false 8 37 14).1 = 30 ∧ (memberOf false 8 37 15).1 = 31 := by
  decide +kernel

/-- The example after R72: 928 MiB at 60 mF and 11.5 V, 1,024 MiB at 12.0 V. -/
theorem test_R72_example : bCeil 60000 11500 5000 900 229 = 928 ∧ bCeil 60000 12000 5000 900 229 = 1024 := by decide +kernel

/-- The example after R107: 85,000 ns falls into bucket 34. -/
theorem test_R107_example : histBucket 85000 = 34 ∧ histBucket 81919 = 33 ∧ histBucket 98304 = 35 := by decide +kernel

/-- The example after R20: MULE_CTL of channel 40. -/
theorem test_R20_example : A.MULE_CTL 40 = 0x0200380000 ∧ blockId (blockOf (A.MULE_CTL 40)) = (0x04, 40) := by decide +kernel

/-- R352 and the example after R353: the shipped curve, the cap of a Mule, the write and read capacity at 70%. -/
theorem test_R353_example : effCap 28 70 = 19 ∧ effCapacity 1093 70 0 = 765 ∧ effCapacity 1718 70 0 = 1202 := by decide +kernel

/-- R375: CE_N[3] of channel 20 is on ball 60.49; R376: balls that its rules give. -/
theorem test_R375_example : ballNet 60 49 = .sig "FL_CE_N" 20 3 ∧ ballNet 48 28 = .sig "PEER_FENCE_OUT" 0 0 ∧
    ballNet 49 19 = .sig "PWR_LOSS_N" 0 0 ∧ ballNet 49 37 = .sig "XTAL25_IN" 0 0 ∧ ballNet 50 27 = .sig "WAKE_IN" 0 0 := by
  decide +kernel

/-- The example of FIPS 197, appendix C.3. -/
theorem test_aes_FIPS197 :
    aesEnc (BitVec.ofNat 256 (ofLe ((List.range 32).map (BitVec.ofNat 8))))
      (BitVec.ofNat 128 (ofLe ((List.range 16).map (fun i => BitVec.ofNat 8 (17 * i))))) =
    BitVec.ofNat 128 (ofLe (beBytes 16 0x8ea2b7ca516745bfeafc49904b496089)) := by decide +kernel

/-- The example of FIPS 180 for SHA-384: the three bytes of abc. -/
theorem test_sha384_FIPS180 : ofBe (sha384 [0x61, 0x62, 0x63]) =
    0xcb00753f45a35e8bb5a03d699ac65007272c32ab0eded1631a8b605a43ff5bed8086072ba1e7cc2358baeca134c825a7 := by decide +kernel

/-- The base point of P-384 and its double. -/
theorem test_p384_double : onCurve gx384 gy384 = true ∧ (ecDouble ecBase).affine =
    (0x08d999057ba3d2d969260045c55b97f089025959a6f434d651d207d19fb96e9e4fe0e86ebe0e64f85b96a9c75295df61,
     0x8e80f1fa5b1b3cedb7bfe8dffd6dba74b275d875bc6cc43e904e505f256ab4255ffd43e94d39e22d61501e700a940e80) := by decide +kernel

/-- R32: Mode Refused is 85h. -/
theorem test_R32_status : Status.modeRefused.code % 256 = 0x85 := by decide +kernel

/-- One entry of one sector over and over: the group that starts with it is gathered from it. -/
theorem gather_replicate (d : Dev) (lo n m : Nat) (x : Sector) (e : Entry) (he : d.wr.entries = [e]) (hn : e.nsx = 0) (ha : e.acked = true)
    (hl : e.lba = lo) (hs : e.secs = List.replicate m x) (h : n ≤ m) :
    d.gather 0 lo n = some ((List.range n).map (fun i => (lo + i, x))) := by
  induction n with
  | zero => rfl
  | succ n ih =>
    have hb : d.buffered 0 (lo + n) = some x := by
      simp only [Dev.buffered, he, List.foldl_cons, List.foldl_nil, hs, List.length_replicate]
      rw [if_pos ⟨hn, ha, by omega, by omega⟩, hl, Nat.add_sub_cancel_left]
      rw [List.getElem?_replicate, if_pos (by omega)]
    simp only [Dev.gather, ih (by omega), hb, List.range_succ, List.map_append, List.map_cons, List.map_nil]

theorem ex_waits {e : WalkEnd} (h : (match e with | .waits _ => true | .done _ _ => false) = true) : ∃ w, e = .waits w := by
  cases e with
  | waits w => exact ⟨w, rfl⟩
  | done r w => exact absurd h (by simp)

theorem one_get {α : Type} {a : α} {P : Nat → α → Prop} (h : P 0 a) : ∀ (k : Nat) (x : α), [a][k]? = some x → P k x := by
  intro k x hk
  cases k with
  | zero => simpa using (by simpa using hk : a = x) ▸ h
  | succ k => simp at hk

theorem some_getD {α : Type} {o : Option α} (h : o.isSome = true) (x : α) : o = some (o.getD x) := by
  cases o with
  | none => cases h
  | some y => rfl

theorem ok_getD {ε α : Type} {o : Except ε α} (h : o.toOption.isSome = true) (x : α) : o = .ok (o.toOption.getD x) := by
  cases o with
  | error e => cases h
  | ok y => rfl

theorem test_BufferMoves_group_inputs :
    let s : State := st { gDev with wr := { gDev.wr with ingress := 5, qlc := 9 } }
    let z := s.dev.zd 0
    let o := s.dev.nextGroup 0 z
    Running s ∧ s.dev.zoneIx 1 0 = some (0, 0) ∧ z.st ≠ zFull ∧ o + groupLbas z.seven ≤ z.wp ∧
      s.dev.media.relocs.any (fun r => !r.conv && r.zone == 0) = false ∧ s.dev.fwFlag = false ∧
      s.dev.ownsGroup z.seven z.group = true ∧ s.dev.wr.ingress ≤ s.dev.wr.qlc ∧
      s.dev.gather z.nsx (0 + o) (groupLbas z.seven) = some gSecs := by
  have h1 : (gDev.zd 0).nsx = 0 := by decide +kernel
  have h2 : gDev.nextGroup 0 (gDev.zd 0) = 0 := by decide +kernel
  have h3 : groupLbas (gDev.zd 0).seven = 896 := by decide +kernel
  have h := gather_replicate { gDev with wr := { gDev.wr with ingress := 5, qlc := 9 } } 0 896 896 (sec0 0) gEntry rfl rfl rfl (by decide +kernel) rfl (Nat.le_refl _)
  refine ⟨by unfold Running; decide +kernel, by decide +kernel, by decide +kernel, by decide +kernel, by decide +kernel, by decide +kernel,
    by decide +kernel, by decide +kernel, ?_⟩
  change Dev.gather _ (gDev.zd 0).nsx (0 + gDev.nextGroup 0 (gDev.zd 0)) (groupLbas (gDev.zd 0).seven) = _
  rw [h1, h2, h3]
  exact h

/-! A key that unwraps, and one that does not: the wrap's steps run from an integrity value. -/

/-- The key and attribute block that a number spells. -/
def keyOf (p : Nat) : BitVec 512 × BitVec 128 := (BitVec.ofNat 512 (ofSemis (semis 10 p)), BitVec.ofNat 128 (ofSemis (semis 10 p) / 2 ^ 512))

/-- The semiblocks that unwrap to an integrity value and the ten semiblocks of a number. -/
def kwOf (a : W64) (p : Nat) : W64 × List W64 := (List.range 60).foldl (kwStep 5#256 10) (a, semis 10 p)

theorem unwrap_of (c : W64 × List W64) (a : W64) (p : Nat) (x : BitVec 704) (hl : c.2.length = 10)
    (hb : (List.range 60).reverse.foldl (kwBack 5#256 10) c = (a, semis 10 p)) (h : x.toNat = ofSemis (c.1 :: c.2)) :
    unwrapKey 5#256 x = if a = kwIcv then some (keyOf p) else none := by
  have hs := semis_ofSemis (c.1 :: c.2)
  rw [List.length_cons, hl] at hs
  unfold unwrapKey kwUnwrap
  rw [h, hs]
  simp only [hl, Nat.reduceMul, hb]
  split
  · simp only [Option.map_some, keyOf]
  · simp

theorem kwOf_length (a : W64) (p : Nat) : (kwOf a p).2.length = 10 := by rw [kwOf, kwSteps_length]; simp [semis]

theorem kwOf_unwrap (a : W64) (p : Nat) (x : BitVec 704) (h : x.toNat = ofSemis ((kwOf a p).1 :: (kwOf a p).2)) :
    unwrapKey 5#256 x = if a = kwIcv then some (keyOf p) else none :=
  unwrap_of (kwOf a p) a p x (kwOf_length a p) (kwBacks_kwSteps 5#256 10 (List.range 60) (a, semis 10 p) (by omega) (by simp [semis])) h

def kinOf (l : List W64) : SMap (BitVec 64) := (List.range 11).map (fun i => (i, l.getD i 0))

theorem kin_spells (l : List W64) (h : l.length = 11) (d : Dev) (hk : d.cipher.kin = kinOf l) : (BitVec.ofNat 704 d.kin).toNat = ofSemis l := by
  have hlt := ofSemis_lt l
  have hf := fold_ofSemis l 11 (by omega)
  rw [List.take_of_length_le (by omega)] at hf
  have : d.kin = ofSemis l := by
    rw [← hf, Dev.kin, hk]
    rfl
  rw [this, BitVec.toNat_ofNat, Nat.mod_eq_of_lt (by rw [h] at hlt; exact hlt)]

theorem pairs_lt {n : Nat} {P : Nat → Nat → Prop} (h : ∀ o, o < n → ∀ p, p < n → P o p) : ∀ o p, o < n → p < n → P o p :=
  fun o p ho hp => h o ho p hp

/-- No burst of a DRAM that has never failed is uncorrectable. -/
theorem quiet_burst (d : Dev) (h : d.dram.bad = []) (h' : d.dram.raw = []) (a : Nat) : d.burstAt a ≠ .unc := by
  unfold Dev.burstAt
  rw [h, h']
  simp [SMap.find]

/-- The key operations with a key-wrapping key: `a` is the right integrity value, or another; the number spells a key with equal halves
or with others (`test_CipherKeys_halves`), of Pen 0. -/
theorem test_CipherKeys_wrapped_inputs (a : W64) (p : Nat) : ∃ s : State, Reach A.CIPHER_KOP s ∧ s.dev.cipherAlarmed = false ∧ s.dev.wrapKw false = some 5#256 ∧
    unwrapKey 5#256 (BitVec.ofNat 704 s.dev.kin) = (if a = kwIcv then some (keyOf p) else none) ∧
    s.dev.inPenRange 0 8 = true ∧ s.dev.inPenRange 0 9 = false := by
  have d0 : Reach A.CIPHER_KOP (st (tDev.wr64 (A.CIPHER_PENRANGE 0) 0x00010008)) := by
    unfold Reach Reaches Running; decide +kernel
  refine ⟨st { tDev.wr64 (A.CIPHER_PENRANGE 0) 0x00010008 with cipher := { Cipher.cold with
    kwk := some 5#256, kin := kinOf ((kwOf a p).1 :: (kwOf a p).2) } }, d0, ?_, rfl, ?_, ?_, ?_⟩
  · exact (by decide +kernel : (tDev.wr64 (A.CIPHER_PENRANGE 0) 0x00010008).cipherAlarmed = false)
  · apply kwOf_unwrap
    exact kin_spells _ (by rw [List.length_cons, kwOf_length]) _ rfl
  · exact (by decide +kernel : (tDev.wr64 (A.CIPHER_PENRANGE 0) 0x00010008).inPenRange 0 8 = true)
  · exact (by decide +kernel : (tDev.wr64 (A.CIPHER_PENRANGE 0) 0x00010008).inPenRange 0 9 = false)

theorem test_CipherKeys_halves :
    halvesEqual (keyOf 0).1 = true ∧ halvesEqual (keyOf 1).1 = false ∧ byteAt (keyOf 0).2 1 = 0 ∧ byteAt (keyOf 1).2 1 = 0 := by decide +kernel

theorem test_SoundStep_inputs :
    ∃ s t, Sound (fixedBoard Board.shipped) [] s ∧ s.pending = [.checkpoint] ∧ step s = .next t := by
  refine ⟨{ st tDev with pending := [.checkpoint] }, _, ⟨rfl, ?_, ?_, ?_⟩, rfl, rfl⟩
  · unfold Canon; decide +kernel
  · unfold JournalOk; decide +kernel
  · intro w x h; cases h

/-- A staged calibration set with its CRC (R266). -/
theorem test_VendorCommands_measured_inputs :
    let s : State := st ({ nDev with fw := { (nDev).fw with mode := .service, calValid := false } }); let h : Hdr := hd
    Posting s ∧ s.dev.isPf h.fn.val = true ∧ s.dev.fw.mode = .service ∧ s.dev.fw.calValid = false := by
  refine ⟨⟨?_, ?_⟩, ?_, ?_, ?_⟩
  · unfold Running
    decide +kernel
  all_goals decide +kernel

theorem test_VendorCommands_staged_inputs :
    ∃ (s : State) (b : List Byte) (crc : W32), Service hd s ∧ s.dev.fw.calOpen = true ∧ s.dev.stagedSet = some b ∧ crc32 b = crc.toNat := by
  have hb : ∃ b, ({ nDev with fw := { nDev.fw with mode := .service, calOpen := true, calSet := (List.range 16).map (fun k => (k, 0)) } } : Dev).stagedSet = some b :=
    ⟨_, if_pos (by decide +kernel)⟩
  obtain ⟨b, hb⟩ := hb
  refine ⟨st _, b, BitVec.ofNat 32 (crc32 b), ?_, ?_, hb, ?_⟩
  · unfold Service Posting Running; decide +kernel
  · decide +kernel
  · rw [BitVec.toNat_ofNat, Nat.mod_eq_of_lt (crc32_lt _)]

/-- A row that is to be erased before its use. -/
def dirtyRow : Row := { seven := false, group := 1, lbn := 20, wear := 0, dirty := true }

/-- Pen 1 owns function 3, beside Pen 0. -/
def pen1Dev : Dev :=
  { nDev with pens := { nDev.pens with recs := [(0, { r := { tPen with bufsh := 512 }, gen := 1, enabled := true }), (1, { r := { tPen with func0 := 8, bufsh := 512, cmbsh := 16 }, gen := 2, enabled := true })] } }

def tSq : Sq := { fn := 0, sqid := 1, cqid := 1, q := 0, size := 16, inCmb := true, base := 0, cls := 1, head := 0, tail := 0, halted := false }

/-! For each statement, states and operands that meet the hypotheses of its clauses. -/

theorem test_ClockQualification_inputs :
    (let s : State := st tDev; s.dev.tor.osc16 = true) := by
  decide +kernel

theorem test_ClockFailure_inputs :
    (let s : State := st tDev; Running s ∧ s.dev.tor.clkFail = false) ∧
    (let s : State := st (tTor (tDev.wr64 A.CLK_STAT 0xDC) (fun t => { t with mainOn := false, clkFail := true })); let i := (3 : Fin 4);
      s.dev.tor.clkFail = true ∧ s.dev.tor.pwr = .on ∧ ¬ Running s ∧ s.dev.bit A.CLK_STAT 6 = true ∧
      (∀ k : Fin 4, k ≠ i → s.dev.bit A.CLK_STAT (2 + k.val) = true) ∧ s.dev.wr.entries = [] ∧ s.dev.host.reads = [] ∧
      s.dev.mules.luns = [] ∧ s.dev.wr.waiting = [] ∧ NoReadWait s.dev ∧ s.dev.pins.fenceIn = false ∧ s.dev.pins.perst = false ∧
      s.dev.pins.pwrLoss = false) := by
  refine ⟨?_, ?_⟩
  · unfold Running; decide +kernel
  · unfold NoReadWait Running; decide +kernel

theorem test_ClockGating_inputs :
    (let s : State := st tDev; Running s ∧ s.dev.gate.heldRst = 0) ∧
    (let s : State := st tDev; Running s ∧ s.dev.gate.heldMule = 0) ∧
    (let s : State := st ((tDev.wr64 A.CLK_EN 0x7FB).wr64 A.CLK_ENSTAT 0x7FF0004); let n := (2 : Fin 11); Running s ∧
      s.dev.bit A.CLK_ENSTAT n.val = true ∧ s.dev.idle n.val = true ∧ s.dev.bit A.CLK_EN n.val = false) ∧
    (let s : State := st ((tDev.wr64 A.CLK_EN_MULE 0).wr64 A.CLK_DRAIN_MULE (BitVec.allOnes 64)); let ch := (63 : Ch); Running s ∧
      s.dev.bit A.CLK_DRAIN_MULE ch.val = true ∧ s.dev.muleIdle ch.val = true ∧ s.dev.bit A.CLK_EN_MULE ch.val = false) ∧
    (let s : State := st (tDev.wr64 A.CLK_CTL 1); let ch := (63 : Ch); Running s ∧ s.dev.bit A.CLK_CTL 0 = true ∧
      s.dev.bit A.CLK_ON_MULE ch.val = true) ∧
    (let s : State := st (tDev.wr64 A.CLK_CTL 1); let n := (2 : Fin 11); Running s ∧ s.dev.bit A.CLK_CTL 0 = true ∧
      s.dev.bit A.CLK_ENSTAT (16 + n.val) = true) ∧
    (let s : State := st tDev; Running s) := by
  refine ⟨?_, ?_, ?_, ?_, ?_, ?_, ?_⟩
  · unfold Running; decide +kernel
  · unfold Running; decide +kernel
  · unfold Running; decide +kernel
  · unfold Running; decide +kernel
  · unfold Running; decide +kernel
  · unfold Running; decide +kernel
  · unfold Running; decide +kernel

theorem test_BlockResets_inputs :
    (let s : State := st ((({ tDev with cipher := { Cipher.cold with cores := [(2, { run := none, since := 0, susp := none, ctx := some { dec := false, slot := 5, slotgen := 0, blk := 0, du := 7, tval := 0, len := 2 }, key := .bypass })] } }.wr64 (A.CIPHER_LOCK 2) 3).wr64 (A.CIPHER_JOB_STAT 2) 1).wr64 (A.CIPHER_JOB_SRC 2) 0x10000000 |>.wr64 (A.CIPHER_JOB_DST 2) 0x10001000 |>.wr64 A.CLK_CORE_RUN 5);
      let n : Nat := 2; Running s ∧ Canon s.dev ∧ n < 11 ∧ s.dev.bit A.CLK_ENSTAT (16 + n) = true ∧ s.dev.ox.flight = [] ∧
      (n = 7 → ∀ k, k < 32 → s.dev.oxState k ≠ 1)) ∧
    (let s : State := st ((({ tDev with cipher := { Cipher.cold with cores := [(2, { run := none, since := 0, susp := none, ctx := some { dec := false, slot := 5, slotgen := 0, blk := 0, du := 7, tval := 0, len := 2 }, key := .bypass })] } }.wr64 (A.CIPHER_LOCK 2) 3).wr64 (A.CIPHER_JOB_STAT 2) 1).wr64 (A.CIPHER_JOB_SRC 2) 0x10000000 |>.wr64 (A.CIPHER_JOB_DST 2) 0x10001000 |>.wr64 A.CLK_CORE_RUN 5);
      Running s ∧ s.dev.ox.flight = [] ∧ s.dev.mules.luns = []) ∧
    (let s : State := st ((({ tDev with ox := { tDev.ox with act := [(3, { cfg := 0, src := 0x1000000000, dst := 0x10001000, idx := 0, len := 0x100, arg := 0 })], flight := [3] } }.wr64 (A.OX_STAT 3) 1).wr64 A.OX_GSTAT 1));
      let n : Nat := 3; let k : Nat := 3; let a : Nat := 0x1000000000; let w := false; Running s ∧ n < 11 ∧
      s.dev.bit A.CLK_ENSTAT (16 + n) = true ∧ clkBlock n ≠ 8 ∧ s.dev.ox.flight = [k] ∧ k < 32 ∧ n ≠ 7 ∧
      s.dev.oxMeets k (clkBlock n) = some (a, w)) ∧
    (let s : State := st ((({ tDev with cipher := { Cipher.cold with cores := [(2, { run := none, since := 0, susp := none, ctx := some { dec := false, slot := 5, slotgen := 0, blk := 0, du := 7, tval := 0, len := 2 }, key := .bypass })] } }.wr64 (A.CIPHER_LOCK 2) 3).wr64 (A.CIPHER_JOB_STAT 2) 1).wr64 (A.CIPHER_JOB_SRC 2) 0x10000000 |>.wr64 (A.CIPHER_JOB_DST 2) 0x10001000 |>.wr64 A.CLK_CORE_RUN 5);
      let ch : Ch := (63 : Ch); Running s ∧ Canon s.dev ∧ s.dev.bit A.CLK_ON_MULE ch.val = true ∧ s.dev.ox.flight = []) ∧
    (let s : State := st (tDev.wr64 A.CLK_ENSTAT 0); let n : Nat := 10; Running s ∧ n < 11 ∧ s.dev.bit A.CLK_ENSTAT (16 + n) = false) ∧
    (let s : State := st ((({ tDev with ox := { tDev.ox with act := [(3, { cfg := 0, src := 0x1000000000, dst := 0x10001000, idx := 0, len := 0x100, arg := 0 })], flight := [3] } }.wr64 (A.OX_STAT 3) 1).wr64 A.OX_GSTAT 1));
      Running s) ∧
    (let s : State := st ((({ tDev with cipher := { Cipher.cold with cores := [(2, { run := none, since := 0, susp := none, ctx := some { dec := false, slot := 5, slotgen := 0, blk := 0, du := 7, tval := 0, len := 2 }, key := .bypass })] } }.wr64 (A.CIPHER_LOCK 2) 3).wr64 (A.CIPHER_JOB_STAT 2) 1).wr64 (A.CIPHER_JOB_SRC 2) 0x10000000 |>.wr64 (A.CIPHER_JOB_DST 2) 0x10001000 |>.wr64 A.CLK_CORE_RUN 5);
      let n : Nat := 2; let c : Nat := 2;
      let x : Ctx := { dec := false, slot := 5, slotgen := 0, blk := 0, du := 7, tval := 0, len := 2 }; Running s ∧ 0 < n ∧ n < 16 ∧
      c < 24 ∧ s.dev.rd A.CLK_CORE_RUN = BitVec.ofNat 64 (1 ||| 2 ^ n) ∧ s.dev.fld (A.CIPHER_LOCK c) 6 0 = n + 1 ∧
      (∀ k, k < 24 → k ≠ c → s.dev.fld (A.CIPHER_LOCK k) 6 0 ≠ n + 1) ∧ s.dev.bit (A.CIPHER_CORE_CTL c) 0 = false ∧
      s.dev.jobResult c = 1 ∧ (s.dev.ccore c).ctx = some x ∧ JobInHub c x s.dev) := by
  refine ⟨?_, ?_, ?_, ?_, ?_, ?_, ?_⟩
  · unfold Canon Running; decide +kernel
  · unfold Running; decide +kernel
  · unfold Running; decide +kernel
  · unfold Canon Running; decide +kernel
  · unfold Running; decide +kernel
  · unfold Running; decide +kernel
  · unfold JobInHub Running; decide +kernel

theorem test_PowerOn_inputs :
    (let s : State := st (tTor tDev (fun t => { t with pwr := .s3, mainOn := false })); s.dev.tor.pwr = .s3) ∧
    (let s : State := st tDev; (s.dev.tor.pwr = .off ∨ s.dev.tor.pwr = .on ∨ s.dev.tor.pwr = .romRecovery)) ∧
    (let s : State := st (tTor tDev (fun t => { t with pwr := .s3, mainOn := false })); s.dev.tor.pwr ≠ .off) ∧
    (let s : State := st (tTor tDev (fun t => { t with pwr := .thermalOff, mainOn := false, tripSec := 9 })); let temp := 100#16;
      s.dev.tor.pwr = .thermalOff ∧ 9 ≤ s.dev.tor.tripSec ∧ signed 16 temp.toNat < 360 ∧
      thirdTrip (s.dev.tor.trips.map (· + 1600000000)) = false) ∧
    (let s : State := st (tTor tDev (fun t => { t with pwr := .thermalOff, mainOn := false, tripSec := 9, trips := [0, 0, 0] }));
      let temp := 100#16; s.dev.tor.pwr = .thermalOff ∧ 9 ≤ s.dev.tor.tripSec ∧ signed 16 temp.toNat < 360 ∧
      thirdTrip (s.dev.tor.trips.map (· + 1600000000)) = true) ∧
    (let s : State := st (tTor tDev (fun t => { t with pwr := .thermalOff, mainOn := false, tripSec := 8 })); let temp := 100#16;
      s.dev.tor.pwr = .thermalOff ∧ (s.dev.tor.tripSec < 9 ∨ 360 ≤ signed 16 temp.toNat)) := by
  refine ⟨?_, ?_, ?_, ?_, ?_, ?_⟩
  · decide +kernel
  · decide +kernel
  · decide +kernel
  · decide +kernel
  · decide +kernel
  · decide +kernel

theorem test_ResetRelease_inputs :
    (let s : State := st (tTor (tDev.wr64 A.CLK_STAT 0xFC) (fun t => { t with mainOn := false })); s.dev.tor.mainOn = false ∧
      s.dev.clocksGood = true ∧ (s.dev.tor.pwr = .on ∨ s.dev.tor.pwr = .waking) ∧ s.dev.tor.saved = .off ∧ s.dev.romPick.1 = none ∧
      s.dev.pins.pwrLoss = false) ∧
    (let s : State := st { tTor (((tDev.wr64 A.CLK_STAT 0xFC).wr64 A.PWR_SEALRES 0xFF00)) (fun t => { t with mainOn := false, pwr := .waking, saved := .s2, resume := some { commitNo := 1, inBank7 := true } }) with cirque := { Cirque.cold with words := tRecord } };
      let b := true; s.dev.tor.mainOn = false ∧ s.dev.clocksGood = true ∧ s.dev.tor.pwr = .waking ∧ s.dev.tor.saved = .s2 ∧
      s.dev.resumeKind b = 1 ∧ (∀ p ∈ s.dev.fw.sleepRegs, 5 ≤ blockOf p.1) ∧ s.dev.pins.pwrLoss = false ∧ s.dev.pins.perst = false) ∧
    (let s : State := st (tTor tDev (fun t => { t with pwr := .romRecovery })); s.dev.tor.pwr = .romRecovery) := by
  refine ⟨?_, ?_, ?_⟩
  · decide +kernel
  · decide +kernel
  · decide +kernel

theorem test_PowerLossFlush_inputs :
    (let s : State := st tDev; Running s ∧ s.dev.tor.pwr = .on ∧ s.dev.tor.latch = false) ∧
    (let s : State := st (tTor tDev (fun t => { t with pwr := .s2, mainOn := false })); (s.dev.tor.pwr = .s2 ∨ s.dev.tor.pwr = .s3)) ∧
    (let s : State := st tDev; Running s ∧ s.dev.pins.pwrLoss = false ∧ s.dev.tor.latch = false) ∧
    (let s : State := st tDev; Running s) ∧
    (let s : State := st (tTor tDev (fun t => { t with latch := true })); Running s ∧ s.dev.tor.latch = true) := by
  refine ⟨?_, ?_, ?_, ?_, ?_⟩
  · unfold Running; decide +kernel
  · decide +kernel
  · unfold Running; decide +kernel
  · unfold Running; decide +kernel
  · unfold Running; decide +kernel

theorem test_SleepEntry_inputs :
    (let s : State := st tDev; Reach A.PWR_CTL s ∧ s.dev.tor.latch = false ∧ s.dev.bit A.PWR_STAT 2 = false) ∧
    (let s : State := st tDev; let v := 4#3; Reach A.PWR_CTL s ∧ s.dev.tor.pwr = .on ∧ (v = 0 ∨ 4 ≤ v.toNat)) ∧
    (let s : State := st (tTor tDev (fun t => { t with ps := 2 })); Running s ∧ s.dev.maySleep = true ∧ s.dev.noCommand = true ∧
      s.dev.tor.sleepReq = 0 ∧ s.dev.tor.latch = false ∧ s.dev.tor.ps = 2 ∧ s.dev.fld A.HEN_STAT 1 0 = 0 ∧
      (∀ ch, ch < 64 → s.dev.fld (A.MULE_STAT ch) 1 0 = 0) ∧ s.dev.bit A.PWR_STAT 2 = false) ∧
    (let s : State := st (tTor tDev (fun t => { t with ps := 4 })); Running s ∧ s.dev.maySleep = true ∧ s.dev.noCommand = true ∧
      s.dev.tor.sleepReq = 0 ∧ s.dev.tor.latch = false ∧ s.dev.tor.ps = 4 ∧ s.dev.wr.entries = [] ∧ s.dev.wr.groups = [] ∧
      s.dev.media.lru = [] ∧ s.dev.media.nss = [] ∧ s.dev.fld A.HEN_STAT 1 0 = 0 ∧ (∀ ch, ch < 64 → s.dev.fld (A.MULE_STAT ch) 1 0 = 0) ∧
      s.dev.bit A.PWR_STAT 2 = false) := by
  refine ⟨?_, ?_, ?_, ?_⟩
  · unfold Reach Reaches Running; decide +kernel
  · unfold Reach Reaches Running; decide +kernel
  · unfold Running; decide +kernel
  · unfold Running; decide +kernel

theorem test_WakeSources_inputs :
    (let s : State := st (tTor (((tDev.wr64 A.PWR_WAKEEN 0x1F).wr64 A.PWR_TIMER 5).wr64 A.SB_ADDR 0x85) (fun t => { t with pwr := .s1, mainOn := false }));
      Wakes 0 s.dev) ∧
    (let s : State := st (tTor (((tDev.wr64 A.PWR_WAKEEN 0x1F).wr64 A.PWR_TIMER 5).wr64 A.SB_ADDR 0x85) (fun t => { t with pwr := .s1, mainOn := false }));
      Wakes 3 s.dev) ∧
    (let s : State := st (tTor (((tDev.wr64 A.PWR_WAKEEN 0x1F).wr64 A.PWR_TIMER 5).wr64 A.SB_ADDR 0x85) (fun t => { t with pwr := .s1, mainOn := false }));
      Wakes 4 s.dev ∧ s.dev.rd A.PWR_TIMER ≠ 0) ∧
    (let s : State := st (tTor (((tDev.wr64 A.PWR_WAKEEN 0x1F).wr64 A.PWR_TIMER 5).wr64 A.SB_ADDR 0x85) (fun t => { t with pwr := .s1, mainOn := false }));
      let addr : BitVec 7 := 5#7; Wakes 2 s.dev ∧
      (if s.dev.bit A.SB_ADDR 7 then addr.toNat = s.dev.fld A.SB_ADDR 6 0 else s.dev.pins.enumIn = true ∧ addr = 0x3A)) ∧
    (let s : State := st (tTor (((tDev.wr64 A.PWR_WAKEEN 0x1F).wr64 A.PWR_TIMER 5).wr64 A.SB_ADDR 0x85) (fun t => { t with pwr := .s1, mainOn := false }));
      let addr : BitVec 7 := 5#7;
      (if s.dev.bit A.SB_ADDR 7 then addr.toNat = s.dev.fld A.SB_ADDR 6 0 else s.dev.pins.enumIn = true ∧ addr = 0x3A)) ∧
    (let s : State := st (tTor (tDev.wr64 A.TOR_STAT 0x2130) (fun t => { t with pwr := .waking, mainOn := false }));
      s.dev.tor.pwr = .waking ∧ s.dev.fld A.TOR_STAT 7 4 < 4) ∧
    (let s : State := st (tTor (tDev.wr64 A.TOR_STAT 0x2140) (fun t => { t with pwr := .waking, mainOn := false }));
      s.dev.tor.pwr = .waking ∧ 4 ≤ s.dev.fld A.TOR_STAT 7 4) := by
  refine ⟨?_, ?_, ?_, ?_, ?_, ?_, ?_⟩
  · unfold Wakes; decide +kernel
  · unfold Wakes; decide +kernel
  · unfold Wakes; decide +kernel
  · unfold Wakes; decide +kernel
  · decide +kernel
  · decide +kernel
  · decide +kernel

theorem test_ThermalConversion_inputs :
    (let s : State := st tDev; Running s) ∧
    (let s : State := st (tTor tDev (fun t => { t with pwr := .wakeFailed, mainOn := false })); ¬ Running s ∧ s.dev.tor.pwr ≠ .off) ∧
    (let s : State := st tDev; let i := (15 : Fin 16); Reach (A.THERM_CURVE i.val) s) ∧
    (let s : State := st tDev; Reach A.THERM_HYST s) := by
  refine ⟨?_, ?_, ?_, ?_⟩
  · unfold Running; decide +kernel
  · unfold Running; decide +kernel
  · unfold Reach Reaches Running; decide +kernel
  · unfold Reach Reaches Running; decide +kernel

theorem test_FlashWindow_inputs :
    (let s : State := st tDev; Running s) := by
  unfold Running; decide +kernel

theorem test_TorReads_inputs :
    (let s : State := st bDev; let pec := true; let seq := 9#8; TorTakes pec 0x01 seq s.dev) ∧
    (let s : State := st bDev; let pec := true; let seq := 9#8; TorTakes pec 0x04 seq s.dev) ∧
    (let s : State := st bDev; let pec := true; let seq := 9#8; TorTakes pec 0x07 seq s.dev) ∧
    (let s : State := st bDev; let pec := true; let seq := 9#8; let n : Byte := 7#8; TorTakes pec 0x08 seq s.dev ∧ s.dev.tor.pwr = .on ∧
      s.dev.tor.clkFail = false ∧ 1 ≤ n.toNat ∧ n.toNat ≤ 7) ∧
    (let s : State := st bDev; let pec := true; let seq := 9#8; let op := 0x77#8; TorTakes pec op.toNat seq s.dev) := by
  refine ⟨?_, ?_, ?_, ?_, ?_⟩
  · unfold TorTakes; decide +kernel
  · unfold TorTakes; decide +kernel
  · unfold TorTakes; decide +kernel
  · unfold TorTakes; decide +kernel
  · unfold TorTakes; decide +kernel

theorem test_TorActions_inputs :
    (let s : State := st (tTor bDev (fun t => { t with pwr := .s2, mainOn := false })); let pec := true; let seq := 9#8;
      TorTakes pec 0x02 seq s.dev ∧ Wakes 2 s.dev) ∧
    (let s : State := st bDev; let pec := true; let seq := 9#8; TorTakes pec 0x02 seq s.dev ∧ s.dev.tor.pwr = .on ∧
      s.dev.bit A.PWR_STAT 3 = false) ∧
    (let s : State := st bDev; let pec := true; let seq := 9#8; TorTakes pec 0x03 seq s.dev ∧ s.dev.tor.pwr = .on ∧ Running s ∧
      s.dev.maySleep = true ∧ s.dev.tor.sleepReq = 0 ∧ s.dev.tor.latch = false) ∧
    (let s : State := st { bDev with fw := { bDev.fw with mode := .duo, role := .duo } }; let pec := true; let seq := 9#8; let b := 3#8;
      TorTakes pec 0x03 seq s.dev ∧ s.dev.tor.pwr = .on ∧ s.dev.maySleep = false ∧ (b = 0x02 ∨ b = 0x03)) ∧
    (let s : State := st (tTor bDev (fun t => { t with pwr := .s2, mainOn := false })); let pec := true; let seq := 9#8;
      let a : Byte := 0x10#8; TorTakes pec 0x05 seq s.dev ∧ a.toNat < 128 ∧ badSbAddr a.toNat = false) ∧
    (let s : State := st (tTor bDev (fun t => { t with pwr := .s2, mainOn := false })); let pec := true; let seq := 9#8;
      let a : Byte := 0x00#8; TorTakes pec 0x05 seq s.dev ∧ badSbAddr a.toNat = true) ∧
    (let s : State := st (tTor bDev (fun t => { t with pwr := .s2, mainOn := false })); let pec := true; let seq := 9#8;
      TorTakes pec 0x05 seq s.dev) ∧
    (let s : State := st (bDev.wr64 A.SB_ADDR 0x85); let pec := true; let seq := 9#8; TorTakes pec 0x06 seq s.dev ∧
      s.dev.bit A.SB_ADDR 7 = true) ∧
    (let s : State := st (tTor bDev (fun t => { t with pwr := .s2, mainOn := false })); let pec := true; let seq := 9#8;
      TorTakes pec 0x06 seq s.dev ∧ s.dev.bit A.SB_ADDR 7 = false) := by
  refine ⟨?_, ?_, ?_, ?_, ?_, ?_, ?_, ?_, ?_⟩
  · unfold TorTakes Wakes; decide +kernel
  · unfold TorTakes; decide +kernel
  · unfold Running TorTakes; decide +kernel
  · unfold TorTakes; decide +kernel
  · unfold TorTakes; decide +kernel
  · unfold TorTakes; decide +kernel
  · unfold TorTakes; decide +kernel
  · unfold TorTakes; decide +kernel
  · unfold TorTakes; decide +kernel

theorem test_TorFraming_inputs :
    (let c := ((0x08 : Byte), Instr.torEventTail);
      let s : State := st (tTor bDev (fun t => { t with last := some { op := 8, seq := 3, reply := [1, 2] } }));
      let l := ({ op := 8, seq := 3, reply := [1, 2] } : TorLast);
      c ∈ [((0x01 : Byte), Instr.torStatus), (0x02, .torWake), (0x03, .torSleep), (0x04, .torFaultRead), (0x05, .torAddrSet), (0x06, .torChainPass), (0x07, .torTempRead), (0x08, .torEventTail)] ∧
      s.dev.tor.pwr ≠ .off ∧ s.dev.listens = true ∧ s.dev.tor.osc16 = true ∧ s.dev.tor.last = some l ∧ l.op = c.1) := by
  exact ⟨by simp, by decide +kernel, by decide +kernel, by decide +kernel, by decide +kernel, by decide +kernel⟩

theorem test_SidebandBus_inputs :
    (let s : State := st { bDev with pins := { bDev.pins with alertN := true } }; let c := Instr.torEventTail;
      c ∈ [Instr.torStatus, .torWake, .torSleep, .torFaultRead, .torAddrSet, .torChainPass, .torTempRead, .torEventTail] ∧
      s.dev.tor.pwr ≠ .off ∧ s.dev.listens = true ∧ s.dev.tor.osc16 = true) ∧
    (let c := Instr.torEventTail; let s : State := st tDev;
      c ∈ [Instr.torStatus, .torWake, .torSleep, .torFaultRead, .torAddrSet, .torChainPass, .torTempRead, .torEventTail] ∧
      s.dev.tor.pwr ≠ .off ∧ s.dev.bit A.SB_ADDR 7 = false ∧ s.dev.bit A.SB_STAT 3 = false ∧ s.dev.pins.enumIn = false) ∧
    (let s : State := st { bDev with pins := { bDev.pins with alertN := true } }; s.dev.pins.alertN = true ∧
      (s.dev.bit A.SB_ADDR 7 = true ∨ s.dev.pins.enumIn = true)) ∧
    (let s : State := st bDev; (s.dev.pins.alertN = false ∨ (s.dev.bit A.SB_ADDR 7 = false ∧ s.dev.pins.enumIn = false))) := by
  refine ⟨?_, ?_, ?_, ?_⟩
  · exact ⟨by simp, by decide +kernel, by decide +kernel, by decide +kernel⟩
  · exact ⟨by simp, by decide +kernel, by decide +kernel, by decide +kernel, by decide +kernel⟩
  · decide +kernel
  · decide +kernel

theorem test_I3cCodes_inputs :
    (let s : State := st { tDev with board := { Board.shipped with sbMode := true } }; s.dev.board.sbMode = true ∧
      s.dev.bit A.SB_DADDR 7 = false) ∧
    (let s : State := st { tDev with board := { Board.shipped with sbMode := true }, pins := { Pins.cold with enumIn := true } };
      s.dev.board.sbMode = true ∧ s.dev.bit A.SB_DADDR 7 = false ∧ s.dev.sbAcks = true) ∧
    (let s : State := st { tDev.wr64 A.SB_STAT 8 with board := { Board.shipped with sbMode := true } }; I3cTarget s.dev) ∧
    (let s : State := st { tDev with board := { Board.shipped with sbMode := true } }; s.dev.board.sbMode = true) ∧
    (let s : State := st { tDev.wr64 A.SB_STAT 8 with board := { Board.shipped with sbMode := true } }; let ev := 1#8; I3cTarget s.dev ∧
      ev.getLsbD 0 = true) ∧
    (let s : State := st tDev; let da := 0x20#7; let ev := 1#8; let n := 300#16; let c := Instr.getstatus; s.dev.board.sbMode = false ∧
      c ∈ [Instr.entdaa da, .setdasa da, .setaasa, .setnewda da, .rstdaa, .enec ev, .disec ev, .getpid, .getbcr, .getdcr, .getstatus, .getmrl, .getmwl, .setmrl n, .setmwl n]) := by
  refine ⟨?_, ?_, ?_, ?_, ?_, ?_⟩
  · decide +kernel
  · decide +kernel
  · unfold I3cTarget; decide +kernel
  · decide +kernel
  · unfold I3cTarget; decide +kernel
  · exact ⟨by decide +kernel, by simp⟩

theorem test_MctpMessages_inputs :
    (let s : State := st (bDev.wr64 A.SB_STAT 1); let eid : Byte := 0x42#8; MctpOn s ∧ eid ≠ 0x00 ∧ eid ≠ 0xFF) ∧
    (let s : State := st (bDev.wr64 A.SB_STAT 1); let id : Byte := 3#8; MctpOn s ∧ 1 ≤ id.toNat ∧ id.toNat ≤ 3) ∧
    (let s : State := st (bDev.wr64 A.SB_STAT 1); let v : W32 := 250#32; MctpOn s ∧ 64 ≤ v.toNat ∧ v.toNat ≤ 250) ∧
    (let s : State := st (bDev.wr64 A.SB_STAT 1); let l : Nat := 0; MctpOn s ∧ s.dev.mayRead 0 l = true) ∧
    (let s : State := st tDev; let id := 3#8; let v := 250#32; let c := Instr.vpdRead; Running s ∧ s.dev.tor.pwr = .on ∧
      s.dev.bit A.SB_STAT 0 = false ∧
      c ∈ [Instr.setEndpointId id, .getEndpointId, .getMctpVersionSupport, .getMessageTypeSupport, .readNvmeMiDataStructure id, .nvmSubsystemHealthStatusPoll, .controllerHealthStatusPoll, .configurationGet id, .configurationSet id v, .vpdRead]) ∧
    (let s : State := st (tTor bDev (fun t => { t with pwr := .s2, mainOn := false })); let id := 3#8; let v := 250#32;
      let c := Instr.vpdRead; Wakes 2 s.dev ∧ s.dev.listens = true ∧
      c ∈ [Instr.setEndpointId id, .getEndpointId, .getMctpVersionSupport, .getMessageTypeSupport, .readNvmeMiDataStructure id, .nvmSubsystemHealthStatusPoll, .controllerHealthStatusPoll, .configurationGet id, .configurationSet id v, .vpdRead]) := by
  refine ⟨?_, ?_, ?_, ?_, ?_, ?_⟩
  · unfold MctpOn Running; decide +kernel
  · unfold MctpOn Running; decide +kernel
  · unfold MctpOn Running; decide +kernel
  · unfold MctpOn Running; decide +kernel
  · exact ⟨(by unfold Running; decide +kernel), by decide +kernel, by decide +kernel, by simp⟩
  · exact ⟨(by unfold Wakes; decide +kernel), by decide +kernel, by simp⟩

theorem test_PairLink_inputs :
    (let s : State := st ((pDev .solo .solo).wr64 (A.PAIR_STAT) 0); let v := 0x1D#32; Reach A.PAIR_CTL s ∧ v.getLsbD 0 = true ∧
      s.dev.fld A.PAIR_STAT 2 0 = 0) ∧
    (let s : State := st ((pDev .solo .solo).wr64 (A.PAIR_STAT) 6); let v := 0x1D#32; Reach A.PAIR_CTL s ∧ v.getLsbD 0 = true ∧
      s.dev.bit A.PAIR_STAT 2 = true) ∧
    (let s : State := st (pDev .solo .solo); let v := 0x0#32; Reach A.PAIR_CTL s ∧ v.getLsbD 0 = false ∧ s.dev.fld A.PAIR_STAT 1 0 ≠ 0) ∧
    (let s : State := st ((pDev .solo .solo).wr64 (A.PAIR_STAT) 1); Running s ∧ s.dev.hasPair = true ∧ s.dev.fld A.PAIR_STAT 1 0 = 1) ∧
    (let s : State := st ((pDev .solo .solo).wr64 (A.PAIR_STAT) 6); Running s ∧ s.dev.linkUp = true) ∧
    (let s : State := st ((pDev .solo .solo).wr64 (A.PAIR_STAT) 3); Running s ∧ s.dev.fld A.PAIR_STAT 1 0 = 3) ∧
    (let s : State := st ((pDev .solo .solo).wr64 (A.PAIR_STAT) 6); Running s ∧ s.dev.linkUp = true ∧ NoTeeWait s.dev) ∧
    (let s : State := st (pDev .solo .solo); Running s ∧ s.dev.linkUp = true ∧ Steady s.dev ∧ NoTeeWait s.dev) ∧
    (let s : State := st (pDev .solo .solo); Running s ∧ s.dev.linkUp = true ∧ Steady s.dev) := by
  refine ⟨?_, ?_, ?_, ?_, ?_, ?_, ?_, ?_, ?_⟩
  · unfold Reach Reaches Running; decide +kernel
  · unfold Reach Reaches Running; decide +kernel
  · unfold Reach Reaches Running; decide +kernel
  · unfold Running; decide +kernel
  · unfold Running; decide +kernel
  · unfold Running; decide +kernel
  · unfold NoTeeWait Running; decide +kernel
  · unfold NoTeeWait Running Steady; decide +kernel
  · unfold Running Steady; decide +kernel

theorem test_FrameOrder_inputs :
    (let s : State := st (pDev .solo .solo); let f : FrameHdr := ({ fseq := 0, ackseq := 0 } : FrameHdr); let m := 1#64;
      let h : Hello := ({ code := 0, stepping := 0, pairId := true, geom := 0, proto := 1, restart := false } : Hello);
      let pub : Nat := 1; let sig : Nat := 2; let mib : Nat := 3; let rs := ([] : List (Nat × Nat)); let a := PairAct.join;
      let mh := ({ mseq := 1, nsx := 0, lba := 0, n := 1, pen := 0 } : MirHdr); let x := ({ d := lba0, sl := tSeal } : MirSec);
      let mseq := 1#64; let vm := 0#8; let r := ({ seq := 1, flushed := false, peer := false, body := .shutdown 1 } : JRec);
      let zl := ([] : List (Nat × BitVec 128)); let ml := ([] : List (Nat × Nat)); let st : Nat := 1; let off : Nat := 0;
      let b := BulkData.ckpt [] []; let c := Instr.bulk { fseq := 0, ackseq := 0 } 1 0 (.ckpt [] []);
      let ahead := (f.fseq - BitVec.ofNat 32 s.dev.pair.rxSeq).toNat; Running s ∧ s.dev.linkUp = true ∧ NoTeeWait s.dev ∧
      h.restart = false ∧
      c ∈ [Instr.claim f m, .grant f m, .deny f m, .released f m, .hello f h, .keyx f pub sig, .bceil f mib, .flushDone f, .restored f rs, .phase f a, .mhdr f mh, .mdata f x, .mend f mseq vm, .jrec f r, .zdesc f zl, .map f ml, .bulk f st off b] ∧
      (ahead = 0 ∨ 2 ^ 31 ≤ ahead)) ∧
    (let s : State := st (pDev .solo .solo); let f : FrameHdr := ({ fseq := 5, ackseq := 0 } : FrameHdr); let m := 1#64;
      let h : Hello := ({ code := 0, stepping := 0, pairId := true, geom := 0, proto := 1, restart := false } : Hello);
      let pub : Nat := 1; let sig : Nat := 2; let mib : Nat := 3; let rs := ([] : List (Nat × Nat)); let a := PairAct.join;
      let mh := ({ mseq := 1, nsx := 0, lba := 0, n := 1, pen := 0 } : MirHdr); let x := ({ d := lba0, sl := tSeal } : MirSec);
      let mseq := 1#64; let vm := 0#8; let r := ({ seq := 1, flushed := false, peer := false, body := .shutdown 1 } : JRec);
      let zl := ([] : List (Nat × BitVec 128)); let ml := ([] : List (Nat × Nat)); let st : Nat := 1; let off : Nat := 0;
      let b := BulkData.ckpt [] []; let c := Instr.claim { fseq := 5, ackseq := 0 } 1;
      let ahead := (f.fseq - BitVec.ofNat 32 s.dev.pair.rxSeq).toNat; Running s ∧ s.dev.linkUp = true ∧ NoTeeWait s.dev ∧
      h.restart = false ∧
      c ∈ [Instr.claim f m, .grant f m, .deny f m, .released f m, .hello f h, .keyx f pub sig, .bceil f mib, .flushDone f, .restored f rs, .phase f a, .mhdr f mh, .mdata f x, .mend f mseq vm, .jrec f r, .zdesc f zl, .map f ml, .bulk f st off b] ∧
      2 ≤ ahead ∧ ahead < 2 ^ 31 ∧ Steady s.dev) := by
  refine ⟨?_, ?_⟩
  · exact ⟨(by unfold Running; decide +kernel), by decide +kernel, (by unfold NoTeeWait; decide +kernel), by decide +kernel, by simp, by decide +kernel⟩
  · exact ⟨(by unfold Running; decide +kernel), by decide +kernel, (by unfold NoTeeWait; decide +kernel), by decide +kernel, by simp, by decide +kernel, by decide +kernel, (by unfold Steady; decide +kernel)⟩

theorem test_PeerLoss_inputs :
    (let s : State := st ((pDev .duo .duo).wr64 (A.PAIR_CTL) 0x1C); Running s ∧ s.dev.bit A.PAIR_CTL 3 = true ∧
      s.dev.bit A.PAIR_STAT 5 = false ∧ s.dev.linkUp = true) ∧
    (let s : State := st (pDev .duo .duo); Running s ∧ (s.dev.bit A.PAIR_CTL 3 = false ∨ s.dev.bit A.PAIR_STAT 5 = true)) ∧
    (let s : State := st ((pDev .duo .duo).wr64 (A.PAIR_CTL) 0x1C); Running s ∧ s.dev.linkUp = true ∧ s.dev.wr.entries = [] ∧
      s.dev.wr.waiting = [] ∧ s.dev.wr.flushes = []) ∧
    (let s : State := st ((pDev .duo .duo).wr64 (A.PAIR_CTL) 0x1C); Running s ∧ s.dev.hasPair = true) ∧
    (let s : State := st ({ { pDev .duo .duo with board := { Board.shipped with pairId := true } } with pair := { ({ pDev .duo .duo with board := { Board.shipped with pairId := true } }).pair with fenceDue := true } });
      Running s ∧ s.dev.pair.fenceDue = true) ∧
    (let s : State := st ((pDev .duo .duo).wr64 (A.PAIR_CTL) 0x1C); Running s) ∧
    (let s : State := st ((pDev .duo .duo).wr64 (A.PAIR_CTL) 0x1C); Reach A.PAIR_KICK s) ∧
    (let s : State := st ({ ({ pDev .duo .duo with board := { Board.shipped with pairId := true } }).wr64 (A.PAIR_STAT) 0x42 with wr := { (({ pDev .duo .duo with board := { Board.shipped with pairId := true } }).wr64 (A.PAIR_STAT) 0x42).wr with entries := [tEnt] } });
      Running s ∧ s.dev.board.pairId = true ∧ s.dev.bit A.PAIR_STAT 6 = true ∧ s.dev.host.stopped = false ∧
      (s.dev.wr.entries.map (·.id)).Nodup ∧ (∀ e ∈ s.dev.wr.entries, e.zoned = false)) ∧
    (let s : State := st ({ (pDev .init .solo).wr64 (A.PAIR_STAT) 0 with pins := { ((pDev .init .solo).wr64 (A.PAIR_STAT) 0).pins with aliveIn := false } });
      Running s ∧ s.dev.hasPair = true ∧ s.dev.fw.mode = .init ∧ s.dev.fw.replayed = true ∧ s.dev.fenceIn = false ∧ s.dev.peerUp = false ∧
      s.dev.fw.fencedInit = false ∧ s.dev.pair.guarded = false ∧ s.dev.rd A.PAIR_OWN ≠ BitVec.allOnes 64) := by
  refine ⟨?_, ?_, ?_, ?_, ?_, ?_, ?_, ?_, ?_⟩
  · unfold Running; decide +kernel
  · unfold Running; decide +kernel
  · unfold Running; decide +kernel
  · unfold Running; decide +kernel
  · unfold Running; decide +kernel
  · unfold Running; decide +kernel
  · unfold Reach Reaches Running; decide +kernel
  · unfold Running; decide +kernel
  · unfold Running; decide +kernel

theorem test_PairFence_inputs :
    (let s : State := st (pDev .duo .duo); Reach A.PAIR_FENCE s) ∧
    (let s : State := st ((((pDev .survivor .survivor).wr64 (A.PAIR_FENCE) 1).wr64 (A.PAIR_PEND) 0xFF00000000).wr64 (A.PAIR_OWN) 0xFF);
      Running s ∧ s.dev.fenceOut = true ∧ s.dev.fenceIn = false) ∧
    (let s : State := st (pDev .duo .duo); Running s ∧ (s.dev.fenceOut = false ∨ s.dev.fenceIn = true)) := by
  refine ⟨?_, ?_, ?_⟩
  · unfold Reach Reaches Running; decide +kernel
  · unfold Running; decide +kernel
  · unfold Running; decide +kernel

theorem test_ChannelOwnership_inputs :
    (let s : State := st (pDev .duo .duo); Reach A.PAIR_CLAIM s ∧
      (s.dev.pair.guarded = false ∨ s.dev.fenceOut = false ∨ s.dev.fenceIn = true)) ∧
    (let s : State := st ({ (pDev .solo .solo).wr64 (A.PAIR_FENCE) 1 with pair := { ((pDev .solo .solo).wr64 (A.PAIR_FENCE) 1).pair with guarded := true } });
      Reach A.PAIR_CLAIM s ∧ s.dev.pair.guarded = true ∧ s.dev.fenceOut = true ∧ s.dev.fenceIn = false) ∧
    (let s : State := st (pDev .duo .duo); let m := 0xF0000000F#64; Reach A.PAIR_REL s ∧ s.dev.pair.tee = false ∧
      (∀ ch, ch < 64 → bitOf (m &&& s.dev.rd A.PAIR_OWN) ch = true → s.dev.chRuns ch = false ∧ s.dev.bit (A.MULE_STAT ch) 1 = false)) ∧
    (let s : State := st ({ pDev .solo .solo with mules := { (pDev .solo .solo).mules with luns := (List.range 64).foldl (fun m c => SMap.put m (c * 32) { run := some tQ, susp := none, queue := [], reads := 0, runUs := 0 }) [] } });
      let m := 0xF0000000F#64; Reach A.PAIR_REL s ∧
      (∀ ch, ch < 64 → bitOf (m &&& s.dev.rd A.PAIR_OWN) ch = true → s.dev.chRuns ch = true)) ∧
    (let s : State := st (pDev .duo .duo); let f := tFh; InOrder f s) ∧
    (let s : State := st (pDev .duo .duo); let f := tFh; InOrder f s ∧ (s.dev.pair.entrySent = false ∨ s.dev.fw.mode ≠ .init)) ∧
    (let s : State := st ({ ((pDev .init .solo).wr64 (A.PAIR_PEND) 0xFFFFFFFF).wr64 (A.PAIR_OWN) 0xFFFFFFF0 with pair := { (((pDev .init .solo).wr64 (A.PAIR_PEND) 0xFFFFFFFF).wr64 (A.PAIR_OWN) 0xFFFFFFF0).pair with entrySent := true } });
      let f := tFh; let m := 0xF0000000F#64; InOrder f s ∧ s.dev.pair.entrySent = true ∧ s.dev.fw.mode = .init ∧
      s.dev.ownSide &&& ~~~ (s.dev.rd A.PAIR_OWN ||| (m &&& s.dev.rd A.PAIR_PEND)) = 0) := by
  refine ⟨?_, ?_, ?_, ?_, ?_, ?_, ?_⟩
  · unfold Reach Reaches Running; decide +kernel
  · unfold Reach Reaches Running; decide +kernel
  · unfold Reach Reaches Running; decide +kernel
  · unfold Reach Reaches Running; decide +kernel
  · unfold InOrder NoTeeWait Running; decide +kernel
  · unfold InOrder NoTeeWait Running; decide +kernel
  · unfold InOrder NoTeeWait Running; decide +kernel

theorem test_PairHandshake_inputs :
    (let s : State := st (pDev .init .solo); let f := tFh;
      let h : Hello := ({ code := 0, stepping := 0, pairId := true, geom := 0, proto := 1, restart := true } : Hello); Running s ∧
      s.dev.linkUp = true ∧
      ((h.restart = true ∧ s.dev.pair.creates = [] ∧ ∀ e ∈ s.dev.wr.entries, e.mirrored = true ∨ e.acked = true) ∨ (h.restart = false ∧ InOrder f s))) ∧
    (let s : State := st (pDev .init .solo);
      let h : Hello := ({ code := 0, stepping := 0, pairId := true, geom := 0, proto := 1, restart := true } : Hello); Running s ∧
      s.dev.linkUp = true ∧ h.restart = true ∧ s.dev.bit A.PAIR_STAT 7 = false) ∧
    (let s : State := st (pDev .init .solo); let f := tFh; InOrder f s ∧ s.dev.board.code.val ≠ 2 ∧ s.dev.pair.hello ≠ none) ∧
    (let s : State := st (pDev .init .solo); let f := tFh; InOrder f s ∧ s.dev.wr.entries = [] ∧ s.dev.wr.waiting = [] ∧
      s.dev.wr.flushes = []) ∧
    (let s : State := st (pDev .init .solo); let f := tFh; InOrder f s) ∧
    (let s : State := st ((pDev .init .solo).wr64 (A.PAIR_OWN) 0); Running s ∧ s.dev.peerUp = true ∧ s.dev.fw.replayed = true ∧
      s.dev.stepsDone = true ∧ s.dev.fw.mode = .init ∧ s.dev.fenceIn = false ∧ s.dev.pair.guarded = false ∧
      s.dev.ownSide &&& ~~~ s.dev.rd A.PAIR_OWN ≠ 0) ∧
    (let s : State := st (pDev .solo .solo); Running s ∧ s.dev.peerUp = true ∧ s.dev.fw.replayed = true ∧ s.dev.stepsDone = true ∧
      (s.dev.fw.mode ≠ .init ∨ s.dev.fenceIn = true)) := by
  refine ⟨?_, ?_, ?_, ?_, ?_, ?_, ?_⟩
  · unfold InOrder NoTeeWait Running; decide +kernel
  · unfold Running; decide +kernel
  · unfold InOrder NoTeeWait Running; decide +kernel
  · unfold InOrder NoTeeWait Running; decide +kernel
  · unfold InOrder NoTeeWait Running; decide +kernel
  · unfold Running; decide +kernel
  · unfold Running; decide +kernel

theorem test_PairMirror_inputs :
    (let mseq : BitVec 64 := 1; let n : Ns := { cns with home := true };
      let s : State := st { pDev .duo .duo with pair := { (pDev .duo .duo).pair with cur := some { m := { mseq := 1, nsx := 2, lba := 9, n := 1, pen := 0 }, secs := [{ sec0 9 with nsx := 2, gen := 5 }], complete := false } }, media := { (pDev .duo .duo).media with nss := [{ cns with home := true }] } };
      let f := tFh; InOrder f s) ∧
    (let s : State := st ({ pDev .duo .duo with pair := { (pDev .duo .duo).pair with cur := some { m := { mseq := 1, nsx := 0, lba := 0, n := 1, pen := 0 }, secs := [], complete := false } } });
      let f := tFh; let c := ({ m := { mseq := 1, nsx := 0, lba := 0, n := 1, pen := 0 }, secs := [], complete := false } : Mir);
      InOrder f s ∧ s.dev.pair.cur = some c) ∧
    (let s : State := st ({ pDev .duo .duo with pair := { (pDev .duo .duo).pair with cur := some { m := { mseq := 1, nsx := 0, lba := 0, n := 1, pen := 0 }, secs := [], complete := false } } });
      let f := tFh; let c := ({ m := { mseq := 1, nsx := 0, lba := 0, n := 1, pen := 0 }, secs := [], complete := false } : Mir);
      InOrder f s ∧ s.dev.pair.cur = some c) ∧
    (let s : State := st { pDev .duo .duo with pair := { (pDev .duo .duo).pair with cur := some { m := { mseq := 1, nsx := 2, lba := 9, n := 1, pen := 0 }, secs := [{ sec0 9 with nsx := 2, gen := 5 }], complete := false } }, media := { (pDev .duo .duo).media with nss := [{ cns with home := true }] } };
      let f := tFh; let mseq : BitVec 64 := 1; let vm : Byte := 0xA5;
      let x : Mir := { m := { mseq := 1, nsx := 2, lba := 9, n := 1, pen := 0 }, secs := [{ sec0 9 with nsx := 2, gen := 5 }], complete := false };
      let n : Ns := { cns with home := true }; let sec : Sector := { sec0 9 with nsx := 2, gen := 5 }; InOrder f s ∧
      s.dev.pair.cur = some x ∧ vm = 0xA5 ∧ x.m.mseq = mseq.toNat ∧ n ∈ s.dev.media.nss ∧ n.nsx = x.m.nsx ∧ n.zoned = false ∧
      x.secs = [sec] ∧ (s.dev.media.nss.filter (fun y => y.nsx == n.nsx)) = [n] ∧ laterGen (nextGen sec.gen) n.wctr = true) ∧
    (let s : State := st ({ pDev .duo .duo with wr := { (pDev .duo .duo).wr with entries := [tEnt] } }); let e := tEnt; Running s ∧
      s.dev.linkUp = true ∧ s.dev.wr.entries = [e] ∧ s.dev.wr.waiting = [] ∧ s.dev.wr.flushes = [] ∧ s.dev.wr.rels = [] ∧
      e.complete = true ∧ e.acked = false ∧ e.held = false ∧ e.fua = false ∧ e.zoned = false ∧ e.app = false ∧ s.dev.fw.role = .duo ∧
      e.mirrored = false ∧ s.dev.host.stopped = false) ∧
    (let s : State := st { pDev .duo .duo with media := { (pDev .duo .duo).media with nss := [{ cns with home := true }], journal := [({ seq := 0, flushed := true, body := .relocC 2 3 [] 1, peer := true } : JRec)], conv := [(2 * 2 ^ 40 + 9, { unit := 3, sec := { sec0 9 with nsx := 2 } })] } };
      let f := tFh; let k : Nat := 2 * 2 ^ 40 + 9; let p : Nat := 4 * 2 ^ 18 + 7; let src : Nat := 3;
      let c : ConvEnt := { unit := 3, sec := { sec0 9 with nsx := 2 } }; InOrder f s ∧ SegsGood (k / 2 ^ 40) s.dev ∧ p ≠ noPlace ∧
      s.dev.moveOf (k / 2 ^ 40) = some src ∧ SMap.find s.dev.media.conv k = some c ∧ c.unit = src) ∧
    (let s : State := st { pDev .duo .duo with media := { (pDev .duo .duo).media with nss := [{ cns with home := true }], journal := [({ seq := 0, flushed := true, body := .relocC 2 3 [] 1, peer := true } : JRec)] } };
      let f := tFh; let k : Nat := 2 * 2 ^ 40 + 9; let p : Nat := 4 * 2 ^ 18 + 7; let src : Nat := 3; InOrder f s ∧
      SegsGood (k / 2 ^ 40) s.dev ∧ p ≠ noPlace ∧ s.dev.moveOf (k / 2 ^ 40) = some src ∧
      (∀ c, SMap.find s.dev.media.conv k = some c → c.unit ≠ src)) ∧
    (let s : State := st { pDev .duo .duo with wr := { (pDev .duo .duo).wr with mirror := [{ m := { mseq := 1, nsx := 2, lba := 9, n := 1, pen := 0 }, secs := [{ sec0 9 with nsx := 2, gen := 5 }], complete := true }] }, media := { (pDev .duo .duo).media with nss := [{ cns with home := true }] } };
      let f := tFh; let k : Nat := 2 * 2 ^ 40 + 9; let p : Nat := 4 * 2 ^ 18 + 7;
      let x : Nat × Sector := (9, { sec0 9 with nsx := 2, gen := 5 }); let lba := k % 2 ^ 40;
      let l := s.dev.mirSecs (k / 2 ^ 40) lba (lba + 1); InOrder f s ∧ SegsGood (k / 2 ^ 40) s.dev ∧ p ≠ noPlace ∧
      s.dev.moveOf (k / 2 ^ 40) = none ∧ l.getLast? = some x) ∧
    (let mseq : BitVec 64 := 1; let n : Ns := { cns with home := true };
      let s : State := st { pDev .duo .duo with pair := { (pDev .duo .duo).pair with cur := some { m := { mseq := 1, nsx := 2, lba := 9, n := 1, pen := 0 }, secs := [{ sec0 9 with nsx := 2, gen := 5 }], complete := false } }, media := { (pDev .duo .duo).media with nss := [{ cns with home := true }] } };
      let f := tFh; let k : Nat := 2 * 2 ^ 40 + 9; let p : Nat := 4 * 2 ^ 18 + 7; let lba := k % 2 ^ 40;
      let l := s.dev.mirSecs (k / 2 ^ 40) lba (lba + 1); InOrder f s ∧ SegsGood (k / 2 ^ 40) s.dev ∧ p ≠ noPlace ∧
      s.dev.moveOf (k / 2 ^ 40) = none ∧ l = []) ∧
    (let time : Nat := 4; let rep : Nat := 0;
      let s : State := st { pDev .duo .duo with cairn := { Cairn.cold with logs := [(pairLog, { Log.empty with recs := [{ slot := 0, stamp := 1, seq := 1, time := 4, post := { src := 9, code := 1, sev := 5, param := 2 }, rep := 0 }] })] } };
      let f := tFh; InOrder f s) ∧
    (let s : State := st ({ pDev .duo .duo with media := { (pDev .duo .duo).media with conv := [(9, { unit := 1, sec := { d := { data := 0, md := { guard := 0, app := 0, ref := 0, rest := 0 } }, nsx := 0, lba := 9, gen := 0, poison := false } })] } });
      let f := tFh; let lba : Nat := 9;
      let c := ({ unit := 1, sec := { d := { data := 0, md := { guard := 0, app := 0, ref := 0, rest := 0 } }, nsx := 0, lba := 9, gen := 0, poison := false } } : ConvEnt);
      InOrder f s ∧ SMap.find s.dev.media.conv lba = some c) ∧
    (let time : Nat := 4; let rep : Nat := 0;
      let s : State := st { pDev .duo .duo with cairn := { Cairn.cold with logs := [(pairLog, { Log.empty with recs := [{ slot := 0, stamp := 1, seq := 1, time := 4, post := { src := 9, code := 1, sev := 5, param := 2 }, rep := 0 }] })] } };
      let f := tFh; InOrder f s ∧ s.dev.oxActive = false) ∧
    (let p : Post := { src := 9, code := 1, sev := 5, param := 2 };
      let s : State := st { pDev .duo .duo with cairn := { Cairn.cold with logs := [(pairLog, { Log.empty with recs := [{ slot := 0, stamp := 1, seq := 1, time := 4, post := { src := 9, code := 1, sev := 5, param := 2 }, rep := 0 }] })] } };
      let f := tFh; let time : Nat := 4; let rep : Nat := 0;
      let held := (s.dev.log pairLog).recs.any (fun r => decide (r.post = p ∧ r.time = time ∧ r.rep = rep)); InOrder f s ∧ held = true) ∧
    (let mseq : BitVec 64 := 1; let n : Ns := { cns with home := true };
      let s : State := st { pDev .duo .duo with pair := { (pDev .duo .duo).pair with cur := some { m := { mseq := 1, nsx := 2, lba := 9, n := 1, pen := 0 }, secs := [{ sec0 9 with nsx := 2, gen := 5 }], complete := false } }, media := { (pDev .duo .duo).media with nss := [{ cns with home := true }] } };
      let f := tFh; let p : Post := { src := 9, code := 1, sev := 5, param := 2 }; let time : Nat := 4; let rep : Nat := 0;
      let held := (s.dev.log pairLog).recs.any (fun r => decide (r.post = p ∧ r.time = time ∧ r.rep = rep)); InOrder f s ∧ held = false ∧
      (s.dev.log pairLog).recs.length < 8192) := by
  refine ⟨?_, ?_, ?_, ?_, ?_, ?_, ?_, ?_, ?_, ?_, ?_, ?_, ?_, ?_⟩
  · unfold InOrder NoTeeWait Running; decide +kernel
  · unfold InOrder NoTeeWait Running; decide +kernel
  · unfold InOrder NoTeeWait Running; decide +kernel
  · unfold InOrder NoTeeWait Running; decide +kernel
  · unfold Running; decide +kernel
  · exact ⟨(by unfold InOrder NoTeeWait Running; decide +kernel), fun _ _ _ _ => quiet_burst _ rfl rfl _, by decide +kernel, by decide +kernel, by decide +kernel, by decide +kernel⟩
  · exact ⟨(by unfold InOrder NoTeeWait Running; decide +kernel), fun _ _ _ _ => quiet_burst _ rfl rfl _, by decide +kernel, by decide +kernel, by decide +kernel⟩
  · exact ⟨(by unfold InOrder NoTeeWait Running; decide +kernel), fun _ _ _ _ => quiet_burst _ rfl rfl _, by decide +kernel, by decide +kernel, by decide +kernel⟩
  · exact ⟨(by unfold InOrder NoTeeWait Running; decide +kernel), fun _ _ _ _ => quiet_burst _ rfl rfl _, by decide +kernel, by decide +kernel, by decide +kernel⟩
  · unfold InOrder NoTeeWait Running; decide +kernel
  · unfold InOrder NoTeeWait Running; decide +kernel
  · unfold InOrder NoTeeWait Running; decide +kernel
  · unfold InOrder NoTeeWait Running; decide +kernel
  · unfold InOrder NoTeeWait Running; decide +kernel

theorem test_PairControl_inputs :
    (let s : State := st ((pDev .solo .solo).wr64 (A.PAIR_FENCE) 1); let h : Hdr := hd; PairMay h .join s ∧ s.dev.isFenced = false) ∧
    (let s : State := st ((pDev .survivor .survivor).wr64 (A.PAIR_FENCE) 1); let h : Hdr := hd; PairMay h .handback s ∧
      s.dev.isFenced = false) ∧
    (let s : State := st ({ pDev .init .solo with fw := { (pDev .init .solo).fw with mode := .init, fencedInit := true } });
      let h : Hdr := hd; PairMay h .handback s ∧ s.dev.isFenced = true) ∧
    (let s : State := st { pDev .duo .duo with pair := { (pDev .duo .duo).pair with mark := 9, req := some { h := some hd, a := .handback, ph := 2 } }, wr := { (pDev .duo .duo).wr with entries := [tEnt] } };
      let h : Hdr := hd; PairMay h (.release !s.dev.board.pairId) s) ∧
    (let s : State := st { pDev .duo .duo with pair := { (pDev .duo .duo).pair with mark := 9, req := some { h := some hd, a := .handback, ph := 2 } }, wr := { (pDev .duo .duo).wr with entries := [tEnt] } };
      let h : Hdr := hd; PairMay h (.release s.dev.board.pairId) s ∧ (s.dev.wr.entries ≠ [] ∨ s.dev.openCmds ≠ [])) ∧
    (let s : State := st (pDev .duo .duo); let h : Hdr := hd; PairMay h (.release s.dev.board.pairId) s ∧ s.dev.wr.entries = [] ∧
      s.dev.openCmds = [] ∧ s.dev.pair.tee = false ∧
      (∀ ch, ch < 64 → bitOf (s.dev.rd A.PAIR_OWN) ch = true → s.dev.chRuns ch = false ∧ s.dev.bit (A.MULE_STAT ch) 1 = false)) ∧
    (let s : State := st ((pDev .survivor .survivor).wr64 (A.PAIR_FENCE) 1); let h : Hdr := hd; PairMay h .goSolo s ∧
      s.dev.fw.mode = .survivor ∧ s.dev.host.stopped = false) ∧
    (let s : State := st { pDev .duo .duo with pair := { (pDev .duo .duo).pair with mark := 9, req := some { h := some hd, a := .handback, ph := 2 } }, wr := { (pDev .duo .duo).wr with entries := [tEnt] } };
      let h : Hdr := hd; let one := true; let c := (Instr.join hd, PairAct.join); Running s ∧ s.dev.isPf h.fn.val = true ∧
      s.dev.host.stopped = false ∧
      c ∈ [(Instr.join h, PairAct.join), (.release h one, .release one), (.handback h, .handback), (.goSolo h, .goSolo)] ∧
      (s.dev.pairBusy = true ∨ s.dev.pairLegal c.2 = false)) ∧
    (let s : State := st { pDev .duo .duo with pair := { (pDev .duo .duo).pair with mark := 9, req := some { h := some hd, a := .handback, ph := 2 } }, wr := { (pDev .duo .duo).wr with entries := [tEnt] } };
      let h : Hdr := ({ fn := 3, qid := 0, cid := 7 } : Hdr); let one := true; let c := Instr.goSolo { fn := 3, qid := 0, cid := 7 };
      Running s ∧ s.dev.isPf h.fn.val = false ∧ s.dev.host.stopped = false ∧ c ∈ [Instr.join h, .release h one, .handback h, .goSolo h]) ∧
    (let s : State := st (pDev .duo .duo); let f := tFh; InOrder f s ∧ s.dev.pair.req = none ∧ s.dev.fw.mode = .duo ∧
      s.dev.pairBusy = false) ∧
    (let s : State := st ((pDev .solo .solo).wr64 (A.PAIR_FENCE) 1); let f := tFh; InOrder f s ∧ s.dev.pair.req = none ∧
      (s.dev.fw.mode ≠ .duo ∨ s.dev.pairBusy = true)) ∧
    (let s : State := st { pDev .duo .duo with pair := { (pDev .duo .duo).pair with mark := 9, req := some { h := some hd, a := .handback, ph := 2 } }, wr := { (pDev .duo .duo).wr with entries := [tEnt] } };
      let r := ({ h := some hd, a := .handback, ph := 2 } : PairReq); let f := tFh; let a := PairAct.join; InOrder f s ∧
      s.dev.pair.req = some r ∧ s.dev.board.pairId = false ∧ a ≠ .goSolo ∧ a ≠ .refuse) ∧
    (let a := PairAct.join;
      let s : State := st ({ pDev .duo .duo with pair := { (pDev .duo .duo).pair with req := some { h := some hd, a := .handback, ph := 1 } } });
      let r := ({ h := some hd, a := .handback, ph := 1 } : PairReq); Running s ∧ s.dev.pair.req = some r ∧
      (r.a = .handback ∨ r.a = .join) ∧ r.ph = 1) ∧
    (let s : State := st { pDev .duo .duo with pair := { (pDev .duo .duo).pair with mark := 9, req := some { h := some hd, a := .handback, ph := 2 } }, wr := { (pDev .duo .duo).wr with entries := [tEnt] } };
      let r := ({ h := some hd, a := .handback, ph := 2 } : PairReq); Running s ∧ s.dev.pair.req = some r ∧
      (r.a = .handback ∨ r.a = .join) ∧ r.ph = 2 ∧ s.dev.isFenced = false ∧ s.dev.settled = false) ∧
    (let s : State := st { pDev .duo .duo with pair := { (pDev .duo .duo).pair with req := some { h := some hd, a := .handback, ph := 2 } }, media := { (pDev .duo .duo).media with nss := [{ zns with home := true }] }, wr := { (pDev .duo .duo).wr with entries := [tEnt] } };
      let r := ({ h := some hd, a := .handback, ph := 2 } : PairReq); Running s ∧ s.dev.pair.req = some r ∧
      (r.a = .handback ∨ r.a = .join) ∧ r.ph = 2 ∧ s.dev.isFenced = false ∧ s.dev.settled = true ∧ s.dev.wr.waiting = [] ∧
      s.dev.handBusy = true) ∧
    (let s : State := st ({ { pDev .init .solo with fw := { (pDev .init .solo).fw with mode := .init, fencedInit := true } } with pair := { ({ pDev .init .solo with fw := { (pDev .init .solo).fw with mode := .init, fencedInit := true } }).pair with req := some { h := some hd, a := .handback, ph := 3 } } });
      let r := ({ h := some hd, a := .handback, ph := 3 } : PairReq); Running s ∧ s.dev.pair.req = some r ∧
      (r.a = .handback ∨ r.a = .join) ∧ 3 ≤ r.ph ∧ s.dev.isFenced = true ∧ s.dev.ownSide &&& ~~~ s.dev.rd A.PAIR_OWN = 0) := by
  refine ⟨?_, ?_, ?_, ?_, ?_, ?_, ?_, ?_, ?_, ?_, ?_, ?_, ?_, ?_, ?_, ?_⟩
  · unfold PairMay Running; decide +kernel
  · unfold PairMay Running; decide +kernel
  · unfold PairMay Running; decide +kernel
  · unfold PairMay Running; decide +kernel
  · unfold PairMay Running; decide +kernel
  · unfold PairMay Running; decide +kernel
  · unfold PairMay Running; decide +kernel
  · exact ⟨(by unfold Running; decide +kernel), by decide +kernel, by decide +kernel, by simp, by decide +kernel⟩
  · exact ⟨(by unfold Running; decide +kernel), by decide +kernel, by decide +kernel, by simp⟩
  · unfold InOrder NoTeeWait Running; decide +kernel
  · unfold InOrder NoTeeWait Running; decide +kernel
  · unfold InOrder NoTeeWait Running; decide +kernel
  · unfold Running; decide +kernel
  · unfold Running; decide +kernel
  · unfold Running; decide +kernel
  · unfold Running; decide +kernel

theorem test_PairControl_2_inputs :
    (let s : State := st (({ pDev .duo .duo with pair := { (pDev .duo .duo).pair with takeover := true } }).wr64 (A.PAIR_OWN) (BitVec.allOnes 64));
      Running s ∧ s.dev.pair.takeover = true ∧ s.dev.rd A.PAIR_OWN = BitVec.allOnes 64) := by
  unfold Running; decide +kernel

theorem test_HostReads_inputs :
    (let s : State := st { nDev with wr := { nDev.wr with fold := [{ nsx := 0, lba := 0, secs := (List.range 16).map sec0, burst := false, lost := false, row := rowKey true 4 30 }] }, media := { nDev.media with zt := [(0, { zd0 with st := zImp, lbn := 10, wp := 16 }.word)] } };
      let h : Hdr := hd; let c := rw 1 0 1; let n := zns; let bad := ([] : List (Nat × ReadErr));
      let l := s.dev.readAll n c (s.dev.afterLoss n c.slba bad); ReadOn h c n s ∧ NoBufferLoss n.nsx (memoryLbas c.slba bad) s.dev ∧
      s.dev.foldBad n c bad = [] ∧ failsOf l = []) ∧
    (let s : State := st { nDev with wr := { nDev.wr with fold := [{ nsx := 0, lba := 0, secs := (List.range 16).map sec0, burst := false, lost := false, row := rowKey true 4 30 }] }, media := { nDev.media with zt := [(0, { zd0 with st := zImp, lbn := 10, wp := 16 }.word)] } };
      let h : Hdr := hd; let c := rw 1 0 1; let n := zns; let i : Nat := 0; let bad := ([(0, .memory)] : List (Nat × ReadErr));
      let f := (ReadFail.err .memory); let r := ([] : List (Nat × ReadFail)); let l := s.dev.readAll n c (s.dev.afterLoss n c.slba bad);
      ReadOn h c n s ∧ NoBufferLoss n.nsx (memoryLbas c.slba bad) s.dev ∧ s.dev.foldBad n c bad = [] ∧ failsOf l = (i, f) :: r) ∧
    (let s : State := st { nDev with wr := { nDev.wr with fold := [{ nsx := 0, lba := 0, secs := (List.range 16).map sec0, burst := false, lost := false, row := rowKey true 4 30 }] }, media := { nDev.media with zt := [(0, { zd0 with st := zImp, lbn := 10, wp := 16 }.word)] } };
      let h : Hdr := hd; let c := rw 1 0 1; let n := zns; let i : Nat := 0; let ix := n.base + (n.zoneOf (c.slba + i)).1; ReadOn h c n s ∧
      n.zoned = true ∧ s.dev.foldBad n c [(i, .stripe)] = [c.slba + i] ∧ ((s.dev.zd ix).active = true ∨ (s.dev.zd ix).st = zFull)) ∧
    (let s : State := st { nDev with wr := { nDev.wr with fold := [{ nsx := 0, lba := 0, secs := (List.range 16).map sec0, burst := false, lost := false, row := rowKey true 4 30 }] }, media := { nDev.media with zt := [(0, { zd0 with st := zImp, lbn := 10, wp := 16 }.word)] } };
      let h : Hdr := hd; let c := rw 1 0 1; let n := zns; let bad := ([] : List (Nat × ReadErr));
      let l := s.dev.readAll n c (s.dev.afterLoss n c.slba bad); Io h s ∧ NoReadWait s.dev ∧ MapGood n s.dev ∧
      s.dev.readCheck h c 65536 = .ok n ∧ NoBufferLoss n.nsx (memoryLbas c.slba bad) s.dev ∧ s.dev.foldBad n c bad = [] ∧ failsOf l = []) ∧
    (let s : State := st { nDev with wr := { nDev.wr with fold := [{ nsx := 0, lba := 0, secs := (List.range 16).map sec0, burst := false, lost := false, row := rowKey true 4 30 }] }, media := { nDev.media with zt := [(0, { zd0 with st := zImp, lbn := 10, wp := 16 }.word)] } };
      let h : Hdr := hd; let c := rw 1 0 1; let n := zns; let i : Nat := 0; let bad := ([(0, .memory)] : List (Nat × ReadErr));
      let f := (ReadFail.err .memory); let r := ([] : List (Nat × ReadFail)); let l := s.dev.readAll n c (s.dev.afterLoss n c.slba bad);
      Io h s ∧ NoReadWait s.dev ∧ MapGood n s.dev ∧ s.dev.readCheck h c 65536 = .ok n ∧ NoBufferLoss n.nsx (memoryLbas c.slba bad) s.dev ∧
      s.dev.foldBad n c bad = [] ∧ failsOf l = (i, f) :: r) ∧
    (let s : State := st (nDev); let h : Hdr := hd; let c := rw 9 0 1; let bad := ([] : List (Nat × ReadErr)); let data := [lba0];
      let st := Status.invalidNsFormat; let i := Instr.read hd (rw 9 0 1) []; Io h s ∧ NoReadWait s.dev ∧
      s.dev.readCheck h c = .error st ∧ i ∈ [Instr.read h c bad, .compare h c data bad]) ∧
    (let s : State := st (nDev); let h : Hdr := hd; let c := rw 9 0 1; let st := Status.invalidNsFormat; Io h s ∧ NoReadWait s.dev ∧
      s.dev.readCheck h c 65536 = .error st) ∧
    (let s : State := st { nDev with wr := { nDev.wr with entries := [{ tEnt with acked := true, secs := [sec0 0] }] } };
      let h : Hdr := hd; let c := rw 1 0 1; let n := zns; let i : Nat := 0; ReadOn h c n s ∧ i < c.nlb ∧ s.dev.fw.role ≠ .duo ∧
      s.dev.inBuffer n.nsx (c.slba + i) = true) ∧
    (let s : State := st (nDev); let h : Hdr := hd; let c := rw 1 262144 1; let n := zns; ReadOn h c n s ∧ c.nlb = 1 ∧ n.zoned = true ∧
      (s.dev.zd (n.base + (n.zoneOf c.slba).1)).st = zEmpty) ∧
    (let d : Dev := { nDev with mules := { Mules.cold with loaded := List.range 64 } };
      let s : State := st { d with media := { d.media with flash := [(d.zoneKey false 0 10 3, sec0 3)] } }; let h : Hdr := hd;
      let c := rw 1 3 1; let n := zns; let x := sec0 3; let z := s.dev.zd (n.base + (n.zoneOf c.slba).1); ReadOn h c n s ∧ c.nlb = 1 ∧
      n.zoned = true ∧ n.keyed = false ∧ n.hasPi = false ∧ z.st ≠ zEmpty ∧ (n.zoneOf c.slba).2 < z.fp ∧
      s.dev.rowBroken n.seven z.group z.lbn = false ∧
      SMap.find s.dev.media.flash (s.dev.zoneKey n.seven z.group z.lbn (n.zoneOf c.slba).2) = some x) ∧
    (let s : State := st ({ nDev with host := { (nDev).host with reads := [{ h := hd, q := 0, c := rw 1 262144 1, nsx := 0, pen := 0, cls := 0, slot := 0, t0 := 0, ids := [], failed := true }] } });
      let h : Hdr := hd; let bad := ([] : List (Nat × ReadErr));
      let r := ({ h := hd, q := 0, c := rw 1 262144 1, nsx := 0, pen := 0, cls := 0, slot := 0, t0 := 0, ids := [], failed := true } : ColRead);
      let n := zns; Posting s ∧ NoReadWait s.dev ∧ s.dev.host.reads.find? (fun x => x.h == h) = some r ∧ r.failed = true ∧ r.ids = [] ∧
      s.dev.nsOf r.c.nsid = some n ∧ failsOf (s.dev.readAll n r.c bad) = []) := by
  refine ⟨?_, ?_, ?_, ?_, ?_, ?_, ?_, ?_, ?_, ?_, ?_⟩
  · exact ⟨⟨by unfold Io Posting Running; decide +kernel, by decide +kernel, by unfold NoReadWait; decide +kernel, Or.inr (fun _ _ _ _ => quiet_burst _ rfl rfl _)⟩, (by unfold NoBufferLoss; decide +kernel), by decide +kernel, by decide +kernel⟩
  · exact ⟨⟨by unfold Io Posting Running; decide +kernel, by decide +kernel, by unfold NoReadWait; decide +kernel, Or.inr (fun _ _ _ _ => quiet_burst _ rfl rfl _)⟩, (by unfold NoBufferLoss; decide +kernel), by decide +kernel, by decide +kernel⟩
  · exact ⟨⟨by unfold Io Posting Running; decide +kernel, by decide +kernel, by unfold NoReadWait; decide +kernel, Or.inr (fun _ _ _ _ => quiet_burst _ rfl rfl _)⟩, by decide +kernel, by decide +kernel, by decide +kernel⟩
  · exact ⟨(by unfold Io Posting Running; decide +kernel), (by unfold NoReadWait; decide +kernel), Or.inr (fun _ _ _ _ => quiet_burst _ rfl rfl _), by decide +kernel, (by unfold NoBufferLoss; decide +kernel), by decide +kernel, by decide +kernel⟩
  · exact ⟨(by unfold Io Posting Running; decide +kernel), (by unfold NoReadWait; decide +kernel), Or.inr (fun _ _ _ _ => quiet_burst _ rfl rfl _), by decide +kernel, (by unfold NoBufferLoss; decide +kernel), by decide +kernel, by decide +kernel⟩
  · exact ⟨(by unfold Io Posting Running; decide +kernel), (by unfold NoReadWait; decide +kernel), by decide +kernel, by simp⟩
  · unfold Io NoReadWait Posting Running; decide +kernel
  · exact ⟨⟨by unfold Io Posting Running; decide +kernel, by decide +kernel, by unfold NoReadWait; decide +kernel, Or.inr (fun _ _ _ _ => quiet_burst _ rfl rfl _)⟩, by decide +kernel, by decide +kernel, by decide +kernel⟩
  · exact ⟨⟨by unfold Io Posting Running; decide +kernel, by decide +kernel, by unfold NoReadWait; decide +kernel, Or.inr (fun _ _ _ _ => quiet_burst _ rfl rfl _)⟩, by decide +kernel, by decide +kernel, by decide +kernel⟩
  · exact ⟨⟨by unfold Io Posting Running; decide +kernel, by decide +kernel, by unfold NoReadWait; decide +kernel, Or.inr (fun _ _ _ _ => quiet_burst _ rfl rfl _)⟩, by decide +kernel, by decide +kernel, by decide +kernel, by decide +kernel, by decide +kernel, by decide +kernel, by decide +kernel, by decide +kernel⟩
  · unfold NoReadWait Posting Running; decide +kernel

theorem test_ReadAdmission_inputs :
    (let s : State := st (nDev); let fn := (0 : FnN); let qid : Nat := 1; Running s ∧ TakenUp s.dev ∧
      s.dev.host.sqs.find? (fun x => x.fn == fn.val && x.sqid == qid) = none) ∧
    (let s : State := st ({ nDev with host := { nDev.host with sqs := [tSq] } }.wr64 (A.PEN_PCTL 0) 2); let fn := (0 : FnN);
      let qid : Nat := 1; let q := tSq; Running s ∧ TakenUp s.dev ∧
      s.dev.host.sqs.find? (fun x => x.fn == fn.val && x.sqid == qid) = some q ∧ q.halted = false ∧
      (s.dev.quiesced fn.val = true ∨ s.dev.tor.latch = true)) ∧
    (let s : State := st ({ nDev with host := { (nDev).host with sqs := [({ fn := 0, sqid := 1, cqid := 1, q := 0, size := 16, inCmb := true, base := 0, cls := 1, head := 0, tail := 0, halted := false } : Sq)] } });
      let fn := (0 : FnN); let qid : Nat := 1;
      let e := ({ opc := 2, fused := false, cid := 7, rw := rw 1 0 1, dptr := .prp, eccBad := true } : Sqe);
      let q := ({ fn := 0, sqid := 1, cqid := 1, q := 0, size := 16, inCmb := true, base := 0, cls := 1, head := 0, tail := 0, halted := false } : Sq);
      Running s ∧ TakenUp s.dev ∧ s.dev.host.sqs.find? (fun x => x.fn == fn.val && x.sqid == qid) = some q ∧ q.halted = false ∧
      q.todo = [] ∧ s.dev.fetches fn.val = true ∧ q.inCmb = true ∧ e.eccBad = true) ∧
    (let s : State := st ({ nDev with host := { (nDev).host with sqs := [({ fn := 0, sqid := 0, cqid := 1, q := 0, size := 16, inCmb := false, base := 0, cls := 1, head := 0, tail := 0, halted := false } : Sq)] } });
      let fn := (0 : FnN); let qid : Nat := 0;
      let e := ({ opc := 2, fused := false, cid := 7, rw := rw 1 0 1, dptr := .prp, eccBad := false } : Sqe);
      let q := ({ fn := 0, sqid := 0, cqid := 1, q := 0, size := 16, inCmb := false, base := 0, cls := 1, head := 0, tail := 0, halted := false } : Sq);
      DoorbellTo fn qid e q s ∧ q.sqid = 0) ∧
    (let s : State := st ({ nDev with host := { (nDev).host with sqs := [({ fn := 0, sqid := 1, cqid := 1, q := 0, size := 16, inCmb := false, base := 0, cls := 1, head := 0, tail := 0, halted := false } : Sq)] } });
      let fn := (0 : FnN); let qid : Nat := 1;
      let e := ({ opc := 2, fused := false, cid := 7, rw := rw 1 0 513, dptr := .sglOther, eccBad := false } : Sqe);
      let q := ({ fn := 0, sqid := 1, cqid := 1, q := 0, size := 16, inCmb := false, base := 0, cls := 1, head := 0, tail := 0, halted := false } : Sq);
      DoorbellTo fn qid e q s ∧ q.sqid ≠ 0 ∧ NotCol q e s.dev ∧ s.dev.badForm { fn := fn, qid := qid, cid := e.cid } e = true) ∧
    (let s : State := st ((((({ nDev with host := { (nDev).host with sqs := [({ fn := 0, sqid := 1, cqid := 1, q := 0, size := 16, inCmb := false, base := 0, cls := 1, head := 0, tail := 0, halted := false } : Sq)] } }).wr64 (A.PEN_CTL) 1).wr64 (A.PEN_STAT 0) 1).wr64 (A.PEN_TOK 0) 0xFFFFFFFF).wr64 (A.COL_SQ 0) 2);
      let fn := (0 : FnN); let qid : Nat := 1;
      let e := ({ opc := 2, fused := false, cid := 7, rw := rw 1 0 1, dptr := .prp, eccBad := false } : Sqe);
      let q := ({ fn := 0, sqid := 1, cqid := 1, q := 0, size := 16, inCmb := false, base := 0, cls := 1, head := 0, tail := 0, halted := false } : Sq);
      let p := s.dev.fld (A.COL_SQ q.q) 10 3; let wr := chargesWrite e.opc; DoorbellTo fn qid e q s ∧ q.sqid ≠ 0 ∧ NotCol q e s.dev ∧
      s.dev.badForm { fn := fn, qid := qid, cid := e.cid } e = false ∧ s.dev.pens.wait = [] ∧ HasTokens p wr (costOf e) s.dev ∧
      s.dev.fld (A.COL_SQ q.q) 2 1 ≠ 0) ∧
    (let s : State := st ((((((((goDev (List.range 16) { nDev with host := { nDev.host with sqs := [tSq] } }).wr64 A.PEN_CTL 1).wr64 (A.PEN_STAT 0) 1).wr64 (A.PEN_TOK 0) 0xFFFFFFFF).wr64 (A.COL_SQ 0) 3).wr64 A.COL_STAT 1).wr64 A.COL_CTL 1).wr64 (A.COL_NS 0) 0x20000800000);
      let fn := (0 : FnN); let qid : Nat := 1;
      let e := ({ opc := 2, fused := false, cid := 7, rw := rw 1 0 1, dptr := .prp, eccBad := false } : Sqe); let q := tSq; let n := zns;
      let p := s.dev.fld (A.COL_SQ q.q) 10 3; let cls := s.dev.fld (A.COL_SQ q.q) 2 1;
      let o := e.rw.slba % zsze (s.dev.bit (A.COL_NS (e.rw.nsid - 1)) 40);
      let zi := e.rw.slba / zsze (s.dev.bit (A.COL_NS (e.rw.nsid - 1)) 40); DoorbellTo fn qid e q s ∧ q.sqid ≠ 0 ∧ ColTakes q e n s.dev ∧
      s.dev.pens.wait = [] ∧ HasTokens p false (costOf e) s.dev ∧ cls ≠ 0 ∧
      MembersGo (s.dev.penCmd { fn := fn, qid := qid, cid := e.cid } q.q e s.dev.tick true) n (s.dev.zd (s.dev.fld (A.COL_NS (e.rw.nsid - 1)) 19 0 + zi)) (zi * zsze (s.dev.bit (A.COL_NS (e.rw.nsid - 1)) 40)) o s.dev) ∧
    (let s : State := st ({ ((({ nDev with host := { (nDev).host with sqs := [({ fn := 0, sqid := 1, cqid := 1, q := 0, size := 16, inCmb := false, base := 0, cls := 1, head := 0, tail := 0, halted := false } : Sq)] } }).wr64 (A.PEN_CTL) 1).wr64 (A.PEN_STAT 0) 1).wr64 (A.PEN_TOK 0) 0xFFFFFFFF with pens := { (((({ nDev with host := { (nDev).host with sqs := [({ fn := 0, sqid := 1, cqid := 1, q := 0, size := 16, inCmb := false, base := 0, cls := 1, head := 0, tail := 0, halted := false } : Sq)] } }).wr64 (A.PEN_CTL) 1).wr64 (A.PEN_STAT 0) 1).wr64 (A.PEN_TOK 0) 0xFFFFFFFF).pens with wait := [{ seq := 0, pen := 0, wr := false, cls := 1, deadline := 0, cost := 16, col := false, h := hd, q := 0, c := rw 1 0 1 }] } });
      let p : PenN := (0 : PenN); let wr := false;
      let c := ({ seq := 0, pen := 0, wr := false, cls := 1, deadline := 0, cost := 16, col := false, h := hd, q := 0, c := rw 1 0 1 } : PenCmd);
      let hi := if wr then 31 else 15; let lo := if wr then 16 else 0; Running s ∧ TakenUp s.dev ∧ s.dev.pens.wait = [c] ∧ c.pen = p.val ∧
      c.wr = wr ∧ c.col = false ∧ c.cls ≠ 0 ∧ s.dev.bit A.PEN_CTL 0 = true ∧ s.dev.penActive p.val = true ∧
      s.dev.fld (A.PEN_DEBT p.val) hi lo = 0 ∧ 0 < s.dev.fld (A.PEN_TOK p.val) hi lo) ∧
    (let s : State := st ({ { nDev with host := { (nDev).host with sqs := [({ fn := 0, sqid := 1, cqid := 1, q := 0, size := 16, inCmb := false, base := 0, cls := 1, head := 0, tail := 0, halted := false } : Sq)] } } with pens := { ({ nDev with host := { (nDev).host with sqs := [({ fn := 0, sqid := 1, cqid := 1, q := 0, size := 16, inCmb := false, base := 0, cls := 1, head := 0, tail := 0, halted := false } : Sq)] } }).pens with wait := [{ seq := 0, pen := 0, wr := false, cls := 1, deadline := 0, cost := 16, col := false, h := hd, q := 0, c := rw 1 0 1 }] } });
      let p : PenN := (0 : PenN); let wr := false;
      let c := ({ seq := 0, pen := 0, wr := false, cls := 1, deadline := 0, cost := 16, col := false, h := hd, q := 0, c := rw 1 0 1 } : PenCmd);
      Running s ∧ TakenUp s.dev ∧ s.dev.pens.wait = [c] ∧ c.cls ≠ 0 ∧ s.dev.pens.eff = [] ∧
      (if wr then s.dev.fld (A.PEN_TOK p.val) 31 16 else s.dev.fld (A.PEN_TOK p.val) 15 0) = 0) ∧
    (let s : State := st ({ nDev with mules := { (nDev).mules with luns := [(163, { run := none, susp := none, queue := [{ tQ with r := { tReq with lun := 3, spurOk := true } }], reads := 0, runUs := 0 })] } });
      let ch : Ch := (5 : Ch); let l : LunN := (3 : LunN); let id : Nat := 4;
      let q := ({ tQ with r := { tReq with lun := 3, spurOk := true } } : QReq); Running s ∧ TakenUp s.dev ∧
      (s.dev.lun ch.val l.val).queue.find? (fun x => x.id == id && (x.r.spurOk || x.late)) = some q ∧
      s.dev.spurRule ch.val l.val q = .queue) ∧
    (let s : State := st ({ (((nDev).wr64 (A.COL_CTL) 3).wr64 (A.MULE_SEQMAP 5 1) 1).wr64 (A.MULE_SEQHDR 5 1) ((2 ^ 63 + 2 ^ 61 + 600 * 2 ^ 28 : Nat) : BitVec 64) with mules := { ((((nDev).wr64 (A.COL_CTL) 3).wr64 (A.MULE_SEQMAP 5 1) 1).wr64 (A.MULE_SEQHDR 5 1) ((2 ^ 63 + 2 ^ 61 + 600 * 2 ^ 28 : Nat) : BitVec 64)).mules with spurBud := 0, luns := [(163, { run := some { tQ with id := 2, r := { tReq with op := 1, lun := 3 } }, susp := none, queue := [{ tQ with r := { tReq with lun := 3, spurOk := true } }], reads := 0, runUs := 0 })] } });
      let ch : Ch := (5 : Ch); let l : LunN := (3 : LunN); let id : Nat := 4;
      let q := ({ tQ with r := { tReq with lun := 3, spurOk := true } } : QReq); Running s ∧ TakenUp s.dev ∧
      (s.dev.lun ch.val l.val).queue.find? (fun x => x.id == id && (x.r.spurOk || x.late)) = some q ∧
      s.dev.spurRule ch.val l.val q = .deny ∧ s.dev.lateWay ch.val l.val q = false) ∧
    (let s : State := st ((((((((goDev (List.range 16) { nDev with host := { nDev.host with sqs := [tSq] } }).wr64 A.PEN_CTL 1).wr64 (A.PEN_STAT 0) 1).wr64 (A.PEN_TOK 0) 0xFFFFFFFF).wr64 (A.COL_SQ 0) 3).wr64 A.COL_STAT 1).wr64 A.COL_CTL 1).wr64 (A.COL_NS 0) 0x20000800000);
      Running s) := by
  refine ⟨?_, ?_, ?_, ?_, ?_, ?_, ?_, ?_, ?_, ?_, ?_, ?_⟩
  · unfold Running TakenUp; decide +kernel
  · unfold Running TakenUp; decide +kernel
  · unfold Running TakenUp; decide +kernel
  · unfold DoorbellTo Running TakenUp; decide +kernel
  · unfold DoorbellTo NotCol Running TakenUp; decide +kernel
  · unfold DoorbellTo HasTokens NotCol Running TakenUp; decide +kernel
  · unfold ColTakes DoorbellTo HasTokens MembersGo Running TakenUp; decide +kernel
  · unfold Running TakenUp; decide +kernel
  · unfold Running TakenUp; decide +kernel
  · unfold Running TakenUp; decide +kernel
  · unfold Running TakenUp; decide +kernel
  · unfold Running; decide +kernel

theorem test_HostWrites_inputs :
    (let s : State := st (nDev); let h : Hdr := hd; let c := rw 1 16 1; let n := zns; let data := [lba0]; let ix := (zoneAt n c).1;
      let zs := (zoneAt n c).2; let z := s.dev.zd ix; let o := (n.zoneOf c.slba).2; WriteOn h c n data s ∧ Fits c n s.dev ∧
      n.zoned = true ∧ o + c.nlb ≤ zcap n.seven ∧ o = s.dev.ap n.nsx zs (zsze n.seven) z.wp ∧
      (s.dev.heldRuns n.nsx zs (zsze n.seven)).any (fun r => meets r (o, o + c.nlb)) = false ∧ piAll n c false c.slba data = none ∧
      c.hop3.val < 2 ∧ z.opened = true ∧ c.hop3 = 0) ∧
    (let s : State := st (nDev); let h : Hdr := hd; let c := rw 1 262144 1; let n := zns; let data := [lba0];
      let r := ({ seven := false, group := 1, lbn := 20, wear := 0, dirty := false } : Row); let ix := (zoneAt n c).1;
      let zs := (zoneAt n c).2; let z := s.dev.zd ix; let o := (n.zoneOf c.slba).2; WriteOn h c n data s ∧ Fits c n s.dev ∧
      n.zoned = true ∧ o + c.nlb ≤ zcap n.seven ∧ o = s.dev.ap n.nsx zs (zsze n.seven) z.wp ∧
      (s.dev.heldRuns n.nsx zs (zsze n.seven)).any (fun r => meets r (o, o + c.nlb)) = false ∧ piAll n c false c.slba data = none ∧
      c.hop3.val < 2 ∧ z.st = zEmpty ∧ c.hop3 = 0 ∧ s.dev.tees = false ∧ s.dev.activeRoom z = true ∧ s.dev.evict z.pen = .free ∧
      s.dev.bestRow z.seven z.nsx = some r ∧ r.stale = false) ∧
    (let s : State := st ({ nDev with pens := { (nDev).pens with recs := [(0, { r := { tPen with bufsh := 1024, morq := 4, marq := 3 }, gen := 1, enabled := true })] } });
      let h : Hdr := hd; let c := rw 1 262144 1; let n := zns; let data := [lba0]; let ix := (zoneAt n c).1; let zs := (zoneAt n c).2;
      let z := s.dev.zd ix; let o := (n.zoneOf c.slba).2; WriteOn h c n data s ∧ Fits c n s.dev ∧ n.zoned = true ∧
      o + c.nlb ≤ zcap n.seven ∧ o = s.dev.ap n.nsx zs (zsze n.seven) z.wp ∧
      (s.dev.heldRuns n.nsx zs (zsze n.seven)).any (fun r => meets r (o, o + c.nlb)) = false ∧ piAll n c false c.slba data = none ∧
      c.hop3.val < 2 ∧ z.st = zEmpty ∧ s.dev.activeRoom z = false) ∧
    (let s : State := st ({ { nDev with media := { (nDev).media with zt := [(0, { zd0 with st := zExp, lbn := 10, wp := 16 }.word), (5, { zd0 with st := zClosed, lbn := 14, wp := 4 }.word)] } } with pens := { ({ nDev with media := { (nDev).media with zt := [(0, { zd0 with st := zExp, lbn := 10, wp := 16 }.word), (5, { zd0 with st := zClosed, lbn := 14, wp := 4 }.word)] } }).pens with recs := [(0, { r := { tPen with bufsh := 1024, morq := 1, marq := 8 }, gen := 1, enabled := true })] } });
      let h : Hdr := hd; let c := rw 1 (5 * 262144 + 4) 1; let n := zns; let data := [lba0]; let ix := (zoneAt n c).1;
      let zs := (zoneAt n c).2; let z := s.dev.zd ix; let o := (n.zoneOf c.slba).2; WriteOn h c n data s ∧ Fits c n s.dev ∧
      n.zoned = true ∧ o + c.nlb ≤ zcap n.seven ∧ o = s.dev.ap n.nsx zs (zsze n.seven) z.wp ∧
      (s.dev.heldRuns n.nsx zs (zsze n.seven)).any (fun r => meets r (o, o + c.nlb)) = false ∧ piAll n c false c.slba data = none ∧
      c.hop3.val < 2 ∧ z.st = zClosed ∧ s.dev.evict z.pen = .refuse) ∧
    (let s : State := st (nDev); let h : Hdr := hd; let c := { rw 4 0 1 with prchk := 1 }; let n := pns;
      let data := [{ data := 0, md := { guard := 0, app := 0, ref := 7, rest := 0 } }]; let st := Status.refErr; WriteOn h c n data s ∧
      Fits c n s.dev ∧ n.zoned = false ∧ n.prot = false ∧ piAll n c false c.slba data = some st) ∧
    (let s : State := st nDev; let h : Hdr := hd; let c := { rw 3 8 1 with hop3 := 2 }; let n := cns; let data := [lba0];
      WriteOn h c n data s ∧ Fits c n s.dev ∧ n.zoned = false ∧ n.prot = false ∧ 2 ≤ c.hop3.val ∧ piAll n c false c.slba data = none) ∧
    (let s : State := st (nDev); let h : Hdr := hd; let c := rw 1 (2 * 262144) 1; let n := zns; let data := [lba0];
      let st := Status.zoneFull; let ix := (zoneAt n c).1; let zs := (zoneAt n c).2; let z := s.dev.zd ix; let o := (n.zoneOf c.slba).2;
      WriteOn h c n data s ∧ Fits c n s.dev ∧ n.zoned = true ∧
      ((z.st = zOff ∧ st = Status.zoneOffline) ∨ (z.st = zRO ∧ st = .zoneReadOnly) ∨ (z.st = zFull ∧ st = .zoneFull) ∨ (z.active = true ∧ o ≠ s.dev.ap n.nsx zs (zsze n.seven) z.wp ∧ st = .zoneInvalidWrite) ∨ (z.active = true ∧ o = s.dev.ap n.nsx zs (zsze n.seven) z.wp ∧ (s.dev.heldRuns n.nsx zs (zsze n.seven)).any (fun r => meets r (o, o + c.nlb)) = false ∧ zcap n.seven < o + c.nlb ∧ st = .zoneBoundary))) ∧
    (let s : State := st (nDev); let h : Hdr := hd; let c := rw 1 0 1; let n := zns; let data := [lba0]; let ix := (zoneAt n c).1;
      let zs := (zoneAt n c).2; let z := s.dev.zd ix; let runs := s.dev.heldRuns n.nsx zs (zsze n.seven);
      let o := firstFit (runs.length + 1) runs c.nlb (s.dev.ap n.nsx zs (zsze n.seven) z.wp); WriteOn h c n data s ∧ Fits c n s.dev ∧
      n.zoned = true ∧ c.nlb ≤ 256 ∧ (n.zoneOf c.slba).2 = 0 ∧ z.opened = true ∧ c.hop3 = 0 ∧ o + c.nlb ≤ zcap n.seven ∧
      piAll n c true (zs + o) data = none) ∧
    (let s : State := st (nDev); let h : Hdr := hd; let c := rw 1 (6 * 262144) 2; let n := zns; let data := [lba0, lba0];
      let ix := (zoneAt n c).1; let zs := (zoneAt n c).2; let z := s.dev.zd ix; let runs := s.dev.heldRuns n.nsx zs (zsze n.seven);
      let o := firstFit (runs.length + 1) runs c.nlb (s.dev.ap n.nsx zs (zsze n.seven) z.wp); WriteOn h c n data s ∧ Fits c n s.dev ∧
      n.zoned = true ∧ c.nlb ≤ 256 ∧ (n.zoneOf c.slba).2 = 0 ∧ z.opened = true ∧ c.hop3 = 0 ∧ zcap n.seven < o + c.nlb) ∧
    (let s : State := st nDev; let h : Hdr := hd; let c := { rw 3 8 1 with hop3 := 2 }; let n := cns; let data := [lba0];
      WriteOn h c n data s ∧ (n.zoned = false ∨ 256 < c.nlb ∨ (n.zoneOf c.slba).2 ≠ 0)) ∧
    (let s : State := st (nDev); let h : Hdr := hd; let c := rw 3 0 1; let n := cns; let data := [lba0]; WriteOn h c n data s ∧
      Fits c n s.dev ∧ n.zoned = false ∧ n.prot = false ∧ c.pid < 128 ∧ c.hop3 = 0 ∧ piAll n c false c.slba data = none) ∧
    (let s : State := st { nDev with wr := { nDev.wr with bceil := 0, entries := [{ tEnt with acked := true, secs := [sec0 0] }], nextId := 4 } };
      let h : Hdr := hd; let c := { rw 3 8 1 with hop3 := 2 }; let n := cns; let data := [lba0]; WriteOn h c n data s ∧
      s.dev.room n.pen (c.nlb * 4096) = false ∧ s.dev.writeWaits n c false = none) ∧
    (let s : State := st { nDev with media := { nDev.media with pool14 := [dirtyRow] } }; let h : Hdr := hd; let c := rw 1 262144 1;
      let n := zns; let data := [lba0]; let r := dirtyRow; WriteOn h c n data s ∧ s.dev.writeWaits n c false = some r) ∧
    (let s : State := st { nDev with fw := { nDev.fw with mode := .readonly } }; let h : Hdr := hd; let c := rw 1 0 1; let n := zns;
      let data := [lba0]; let i := Instr.write hd (rw 1 0 1) [lba0]; Io h s ∧ s.dev.nsOf c.nsid = some n ∧ s.dev.rwCheck h c n = none ∧
      data.length = c.nlb ∧ s.dev.fw.mode = .readonly ∧ i ∈ [Instr.write h c data, .zoneAppend h c data]) ∧
    (let s : State := st (nDev); let h : Hdr := hd; let c := rw 1 0 0; let n := zns; let data := [lba0]; let st := Status.invalidField;
      let i := Instr.write hd (rw 1 0 0) [lba0]; Io h s ∧ s.dev.nsOf c.nsid = some n ∧ s.dev.rwCheck h c n = some st ∧
      i ∈ [Instr.write h c data, .zoneAppend h c data]) ∧
    (let s : State := st ({ nDev with wr := { (nDev).wr with entries := [{ tEnt with secs := [sec0 0], nsx := 0, mirrored := true }] } });
      let id : Nat := 3; let e := { tEnt with secs := [sec0 0], nsx := 0, mirrored := true }; Running s ∧
      s.dev.wr.entries.find? (fun e => e.id == id) = some e ∧ s.dev.ackable e = true ∧ s.dev.wr.flushes = [] ∧ s.dev.wr.measuring ≠ 4) := by
  refine ⟨?_, ?_, ?_, ?_, ?_, ?_, ?_, ?_, ?_, ?_, ?_, ?_, ?_, ?_, ?_, ?_⟩
  · unfold Fits WriteOn Io Posting Running; decide +kernel
  · unfold Fits WriteOn Io Posting Running; decide +kernel
  · unfold Fits WriteOn Io Posting Running; decide +kernel
  · unfold Fits WriteOn Io Posting Running; decide +kernel
  · unfold Fits WriteOn Io Posting Running; decide +kernel
  · unfold Fits WriteOn Io Posting Running; decide +kernel
  · unfold Fits WriteOn Io Posting Running; decide +kernel
  · unfold Fits WriteOn Io Posting Running; decide +kernel
  · unfold Fits WriteOn Io Posting Running; decide +kernel
  · unfold WriteOn Io Posting Running; decide +kernel
  · unfold Fits WriteOn Io Posting Running; decide +kernel
  · unfold WriteOn Io Posting Running; decide +kernel
  · unfold WriteOn Io Posting Running; decide +kernel
  · exact ⟨(by unfold Io Posting Running; decide +kernel), by decide +kernel, by decide +kernel, by decide +kernel, by decide +kernel, by simp⟩
  · exact ⟨(by unfold Io Posting Running; decide +kernel), by decide +kernel, by decide +kernel, by simp⟩
  · unfold Running; decide +kernel

theorem test_HostWrites_2_inputs :
    (let s : State := st ({ nDev with wr := { (nDev).wr with entries := [{ tEnt with acked := true }] } }); let id : Nat := 3;
      let e := ({ tEnt with acked := true } : Entry); Running s ∧ s.dev.wr.entries.find? (fun e => e.id == id) = some e ∧
      s.dev.ackable e = false) ∧
    (let s : State := st nDev; let h : Hdr := hd; let c := { rw 3 8 1 with hop3 := 2 }; let n := cns; Io h s ∧
      s.dev.nsOf c.nsid = some n ∧ s.dev.rwForm h c n 65536 = none ∧ n.zoned = false ∧ n.prot = false ∧ MapGood n s.dev) ∧
    (let s : State := st nDev; let c := { rw 3 8 1 with hop3 := 2 }; let n := cns; let dealloc := false; s.dev.nsOf c.nsid = some n ∧
      (dealloc = false ∨ n.zoned = true) ∧ c.nlb ≤ 512) ∧
    (let s : State := st nDev; let h : Hdr := hd; let nsid : Nat := 0xFFFFFFFF; Io h s ∧
      (nsid = 0xFFFFFFFF ∨ (∃ n, s.dev.nsOf nsid = some n ∧ s.dev.accessCheck h n = none)) ∧ s.dev.wr.flushes = [] ∧
      s.dev.wr.measuring ≠ 4 ∧ s.dev.occ ≤ s.dev.limit) ∧
    (let s : State := st { nDev with wr := { nDev.wr with bceil := 0, entries := [{ tEnt with acked := true, secs := [sec0 0] }], nextId := 4 } };
      let h : Hdr := hd; let nsid : Nat := 0xFFFFFFFF; Io h s ∧
      (nsid = 0xFFFFFFFF ∨ (∃ n, s.dev.nsOf nsid = some n ∧ s.dev.accessCheck h n = none)) ∧ s.dev.wr.flushes = [] ∧
      s.dev.wr.measuring ≠ 4 ∧ s.dev.limit < s.dev.occ) ∧
    (let s : State := st nDev; let h : Hdr := { hd with fn := 3 }; let nsid : Nat := 1; let n := zns; let dealloc := true;
      let ranges := ([] : List (Nat × Nat)); let st := Status.invalidNsFormat; let i := Instr.flush { hd with fn := 3 } 1; Io h s ∧
      nsid ≠ 0xFFFFFFFF ∧ s.dev.nsOf nsid = some n ∧ s.dev.accessCheck h n = some st ∧
      i ∈ [Instr.flush h nsid, .datasetManagement h nsid dealloc ranges]) ∧
    (let s : State := st nDev; let h : Hdr := hd; let n := cns; let nsid : Nat := 3; let dealloc := false; Io h s ∧
      s.dev.nsOf nsid = some n ∧ s.dev.accessCheck h n = none ∧ (n.zoned = true ∨ dealloc = false)) ∧
    (let s : State := st nDev; let h : Hdr := hd; let n := cns; let nsid : Nat := 3; let dealloc := true;
      let ranges := ([] : List (Nat × Nat)); Io h s ∧ s.dev.nsOf nsid = some n ∧ s.dev.accessCheck h n = none ∧ n.zoned = false ∧
      dealloc = true ∧ ranges.any (fun r => decide (n.lbas < r.1 + r.2)) = false ∧ n.prot = false ∧ MapGood n s.dev) ∧
    (let s : State := st nDev; let h : Hdr := hd; let c := { rw 3 8 1 with hop3 := 2 }; let n := cns; Io h s ∧
      s.dev.nsOf c.nsid = some n ∧ s.dev.rwCheck h c n 65536 = none ∧ Fits c n s.dev ∧ s.dev.fw.mode ≠ .readonly ∧ n.zoned = false ∧
      n.prot = false) ∧
    (let s : State := st { nDev with wr := { nDev.wr with bceil := 0, entries := [{ tEnt with acked := true, secs := [sec0 0] }], nextId := 4 } };
      let h : Hdr := hd; let c := rw 1 16 1; let n := zns; Io h s ∧ s.dev.nsOf c.nsid = some n ∧ n.zoned = true) ∧
    (let s : State := st { nDev with fw := { nDev.fw with mode := .readonly } }; let h : Hdr := hd; let c := rw 1 0 1; let n := zns;
      let data := [lba0]; let i := Instr.write hd (rw 1 0 1) [lba0]; Io h s ∧ s.dev.nsOf c.nsid = some n ∧ s.dev.rwCheck h c n = none ∧
      data.length = c.nlb ∧ s.dev.fw.mode = .readonly ∧ i ∈ [Instr.write h c data, .zoneAppend h c data]) := by
  refine ⟨?_, ?_, ?_, ?_, ?_, ?_, ?_, ?_, ?_, ?_, ?_⟩
  · unfold Running; decide +kernel
  · exact ⟨(by unfold Io Posting Running; decide +kernel), by decide +kernel, by decide +kernel, by decide +kernel, by decide +kernel, Or.inr (fun _ _ _ _ => quiet_burst _ rfl rfl _)⟩
  · decide +kernel
  · unfold Io Posting Running; decide +kernel
  · unfold Io Posting Running; decide +kernel
  · exact ⟨(by unfold Io Posting Running; decide +kernel), by decide +kernel, by decide +kernel, by decide +kernel, by simp⟩
  · unfold Io Posting Running; decide +kernel
  · exact ⟨(by unfold Io Posting Running; decide +kernel), by decide +kernel, by decide +kernel, by decide +kernel, by decide +kernel, by decide +kernel, by decide +kernel, Or.inr (fun _ _ _ _ => quiet_burst _ rfl rfl _)⟩
  · unfold Fits Io Posting Running; decide +kernel
  · unfold Io Posting Running; decide +kernel
  · exact ⟨(by unfold Io Posting Running; decide +kernel), by decide +kernel, by decide +kernel, by decide +kernel, by decide +kernel, by simp⟩

theorem test_ZoneCommands_inputs :
    (let s : State := st { nDev with host := { nDev.host with fw := [{ h := { hd with cid := 9 }, q := 0, e := { opc := 2, fused := false, cid := 9, rw := rw 1 0 1, dptr := .prp, eccBad := false }, t0 := 0, admitted := true }] } };
      let h : Hdr := hd; let a : ZoneArg := { nsid := 1, slba := 0, all := false }; let n := zns; let ix := n.base + (n.zoneOf a.slba).1;
      let z := s.dev.zd ix; ZoneOn h a n s ∧ (z.opened = true ∨ (z.st = zClosed ∧ s.dev.evict z.pen = .free))) ∧
    (let s : State := st { nDev with media := { nDev.media with pool14 := [dirtyRow] } }; let h : Hdr := hd;
      let a : ZoneArg := { nsid := 1, slba := 262144, all := false }; let n := zns; let r := dirtyRow;
      let ix := n.base + (n.zoneOf a.slba).1; let z := s.dev.zd ix; ZoneOn h a n s ∧ z.st = zEmpty ∧ s.dev.activeRoom z = true ∧
      s.dev.evict z.pen ≠ .refuse ∧ s.dev.bestRow z.seven z.nsx = some r ∧ r.stale = true) ∧
    (let s : State := st (nDev); let h : Hdr := hd; let a : ZoneArg := ({ nsid := 1, slba := 262144, all := false } : ZoneArg);
      let n := zns; let r := ({ seven := false, group := 1, lbn := 20, wear := 0, dirty := false } : Row);
      let ix := n.base + (n.zoneOf a.slba).1; let z := s.dev.zd ix; ZoneOn h a n s ∧ z.st = zEmpty ∧ s.dev.activeRoom z = true ∧
      s.dev.evict z.pen = .free ∧ s.dev.bestRow z.seven z.nsx = some r ∧ r.stale = false) ∧
    (let s : State := st ({ nDev with pens := { (nDev).pens with recs := [(0, { r := { tPen with bufsh := 1024, morq := 4, marq := 3 }, gen := 1, enabled := true })] } });
      let h : Hdr := hd; let a : ZoneArg := ({ nsid := 1, slba := 262144, all := false } : ZoneArg); let n := zns;
      let ix := n.base + (n.zoneOf a.slba).1; let z := s.dev.zd ix; ZoneOn h a n s ∧ z.st = zEmpty ∧ s.dev.activeRoom z = false) ∧
    (let s : State := st ({ { nDev with media := { (nDev).media with zt := [(0, { zd0 with st := zExp, lbn := 10, wp := 16 }.word), (5, { zd0 with st := zClosed, lbn := 14, wp := 4 }.word)] } } with pens := { ({ nDev with media := { (nDev).media with zt := [(0, { zd0 with st := zExp, lbn := 10, wp := 16 }.word), (5, { zd0 with st := zClosed, lbn := 14, wp := 4 }.word)] } }).pens with recs := [(0, { r := { tPen with bufsh := 1024, morq := 1, marq := 8 }, gen := 1, enabled := true })] } });
      let h : Hdr := hd; let a : ZoneArg := ({ nsid := 1, slba := 5 * 262144, all := false } : ZoneArg); let n := zns;
      let ix := n.base + (n.zoneOf a.slba).1; let z := s.dev.zd ix; ZoneOn h a n s ∧ z.st = zClosed ∧ s.dev.evict z.pen = .refuse) ∧
    (let s : State := st { nDev with host := { nDev.host with fw := [{ h := { hd with cid := 9 }, q := 0, e := { opc := 2, fused := false, cid := 9, rw := rw 1 0 1, dptr := .prp, eccBad := false }, t0 := 0, admitted := true }] } };
      let h : Hdr := hd; let a : ZoneArg := { nsid := 1, slba := 0, all := false }; let n := zns; let ix := n.base + (n.zoneOf a.slba).1;
      let z := s.dev.zd ix; ZoneOn h a n s ∧ z.opened = true) ∧
    (let s : State := st { nDev with host := { nDev.host with fw := [{ h := { hd with cid := 9 }, q := 0, e := { opc := 2, fused := false, cid := 9, rw := rw 1 0 1, dptr := .prp, eccBad := false }, t0 := 0, admitted := true }] } };
      let h : Hdr := hd; let a : ZoneArg := { nsid := 1, slba := 0, all := false }; let n := zns; let m := zns;
      let ix := n.base + (n.zoneOf a.slba).1; let z := s.dev.zd ix; ZoneOn h a n s ∧ z.active = true ∧
      s.dev.media.nss.find? (fun m => m.nsx == z.nsx) = some m) ∧
    (let s : State := st (nDev); let h : Hdr := hd; let a : ZoneArg := ({ nsid := 1, slba := 2 * 262144, all := false } : ZoneArg);
      let n := zns; let ix := n.base + (n.zoneOf a.slba).1; let z := s.dev.zd ix; ZoneOn h a n s ∧ z.st = zFull) ∧
    (let s : State := st { nDev with host := { nDev.host with fw := [{ h := { hd with cid := 9 }, q := 0, e := { opc := 2, fused := false, cid := 9, rw := rw 1 0 1, dptr := .prp, eccBad := false }, t0 := 0, admitted := true }] } };
      let h : Hdr := hd; let a : ZoneArg := { nsid := 1, slba := 0, all := false }; let n := zns; ZoneOn h a n s ∧
      s.dev.readsIn n (fun k => k == (n.zoneOf a.slba).1) = true) ∧
    (let s : State := st (nDev); let h : Hdr := hd; let a : ZoneArg := ({ nsid := 1, slba := 0, all := false } : ZoneArg); let n := zns;
      let ix := n.base + (n.zoneOf a.slba).1; let z := s.dev.zd ix; ZoneOn h a n s ∧
      s.dev.readsIn n (fun k => k == (n.zoneOf a.slba).1) = false ∧ (z.active = true ∨ z.st = zEmpty ∨ z.st = zFull)) ∧
    (let s : State := st (nDev); let h : Hdr := hd; let a : ZoneArg := ({ nsid := 1, slba := 3 * 262144, all := false } : ZoneArg);
      let n := zns; let ix := n.base + (n.zoneOf a.slba).1; let z := s.dev.zd ix; ZoneOn h a n s ∧
      s.dev.readsIn n (fun k => k == (n.zoneOf a.slba).1) = false ∧ z.active = false ∧ z.st ≠ zEmpty ∧ z.st ≠ zFull) ∧
    (let s : State := st (nDev); let h : Hdr := hd; let a : ZoneArg := ({ nsid := 1, slba := 3 * 262144, all := false } : ZoneArg);
      let n := zns; let ix := n.base + (n.zoneOf a.slba).1; let z := s.dev.zd ix; ZoneOn h a n s ∧ z.st = zRO) ∧
    (let s : State := st { nDev with host := { nDev.host with fw := [{ h := { hd with cid := 9 }, q := 0, e := { opc := 2, fused := false, cid := 9, rw := rw 1 0 1, dptr := .prp, eccBad := false }, t0 := 0, admitted := true }] } };
      let h : Hdr := hd; let a : ZoneArg := { nsid := 1, slba := 0, all := false }; let n := zns; let ix := n.base + (n.zoneOf a.slba).1;
      let z := s.dev.zd ix; ZoneOn h a n s ∧ z.st ≠ zRO) ∧
    (let s : State := st (nDev); let h : Hdr := hd; let a : ZoneArg := ({ nsid := 9, slba := 0, all := false } : ZoneArg);
      let st := Status.invalidNsFormat; let i := Instr.openZone hd { nsid := 9, slba := 0, all := false }; Io h s ∧
      s.dev.zoneCheck h a.nsid a.slba a.all = .error st ∧
      i ∈ [Instr.openZone h a, .closeZone h a, .finishZone h a, .resetZone h a, .offlineZone h a]) ∧
    (let s : State := st ({ nDev with media := { (nDev).media with zt := [(0, { zd0 with st := zExp, lbn := 10, wp := 16 }.word)] } });
      let h : Hdr := hd; let a : ZoneArg := ({ nsid := 1, slba := 0, all := true } : ZoneArg); let n := zns;
      let c := ((Instr.offlineZone hd { nsid := 1, slba := 0, all := true }, fun z => decide (z.st = zRO)) : Instr × (Zd → Bool));
      Io h s ∧ a.all = true ∧ s.dev.zoneCheck h a.nsid a.slba true = .ok n ∧ s.dev.wr.zwait = [] ∧
      s.dev.readsIn n (fun _ => true) = false ∧
      c ∈ [(Instr.openZone h a, fun (z : Zd) => decide (z.st = zClosed)), (.closeZone h a, Zd.opened), (.finishZone h a, Zd.active), (.resetZone h a, fun z => z.active || decide (z.st = zFull)), (.offlineZone h a, fun z => decide (z.st = zRO))] ∧
      s.dev.zonesOf n c.2 = []) ∧
    (let s : State := st { nDev with host := { nDev.host with fw := [{ h := { hd with cid := 9 }, q := 0, e := { opc := 2, fused := false, cid := 9, rw := rw 1 0 1, dptr := .prp, eccBad := false }, t0 := 0, admitted := true }] } };
      let h : Hdr := hd; let n := zns; let nsid : Nat := 1; let slba : Nat := 0; Io h s ∧ s.dev.zoneCheck h nsid slba true = .ok n ∧
      slba < n.lbas) := by
  refine ⟨?_, ?_, ?_, ?_, ?_, ?_, ?_, ?_, ?_, ?_, ?_, ?_, ?_, ?_, ?_, ?_⟩
  · unfold ZoneOn Io Posting Running; decide +kernel
  · unfold ZoneOn Io Posting Running; decide +kernel
  · unfold ZoneOn Io Posting Running; decide +kernel
  · unfold ZoneOn Io Posting Running; decide +kernel
  · unfold ZoneOn Io Posting Running; decide +kernel
  · unfold ZoneOn Io Posting Running; decide +kernel
  · unfold ZoneOn Io Posting Running; decide +kernel
  · unfold ZoneOn Io Posting Running; decide +kernel
  · unfold ZoneOn Io Posting Running; decide +kernel
  · unfold ZoneOn Io Posting Running; decide +kernel
  · unfold ZoneOn Io Posting Running; decide +kernel
  · unfold ZoneOn Io Posting Running; decide +kernel
  · unfold ZoneOn Io Posting Running; decide +kernel
  · exact ⟨(by unfold Io Posting Running; decide +kernel), by decide +kernel, by simp⟩
  · exact ⟨(by unfold Io Posting Running; decide +kernel), by decide +kernel, by decide +kernel, by decide +kernel, by decide +kernel, by simp, by decide +kernel⟩
  · unfold Io Posting Running; decide +kernel

theorem test_ZoneCommands_2_inputs :
    (let s : State := st { nDev with host := { nDev.host with fw := [{ h := { hd with cid := 9 }, q := 0, e := { opc := 2, fused := false, cid := 9, rw := rw 1 0 1, dptr := .prp, eccBad := false }, t0 := 0, admitted := true }] } };
      let h : Hdr := hd; let n := zns; let nsid : Nat := 1; let slba := 8 * 262144; Io h s ∧ s.dev.zoneCheck h nsid slba true = .ok n ∧
      n.lbas ≤ slba) := by
  unfold Io Posting Running; decide +kernel

theorem test_BufferMoves_inputs :
    (let f : FoldRow := { row := { seven := true, group := 4, lbn := 30, wear := 0, dirty := false }, used := 16, burst := false };
      let s : State := st { nDev with wr := { nDev.wr with entries := [{ tEnt with acked := true, zoned := true, secs := [sec0 0] }], foldRows := [{ row := { seven := true, group := 4, lbn := 30, wear := 0, dirty := false }, used := 16, burst := false }] }, media := { nDev.media with zt := [(0, { zd0 with st := zImp, lbn := 10, wp := 1 }.word)] } };
      let nsid : Nat := 1; let zone : Nat := 0; let ix : Nat := 0; let zs : Nat := 0;
      let e : Entry := { tEnt with acked := true, zoned := true, secs := [sec0 0] }; let g := groupLbas (s.dev.zd ix).seven; Running s ∧
      s.dev.zoneIx nsid zone = some (ix, zs) ∧ s.dev.fwFlag = false ∧ s.dev.tor.latch = false ∧ s.dev.wr.entries = [e] ∧
      s.dev.wr.rels = [] ∧ s.dev.wr.foldJobs = [] ∧ e.acked = true ∧ e.secs ≠ [] ∧ e.nsx = (s.dev.zd ix).nsx ∧
      s.dev.wr.foldRows.find? (fun f => f.burst == false && decide (f.used < foldCap)) = some f ∧ e.secs.length ≤ foldCap - f.used ∧
      zs + (s.dev.zd ix).wp / g * g ≤ e.lba ∧ e.lba + e.secs.length ≤ zs + zcap (s.dev.zd ix).seven) ∧
    (let s : State := st uDev; let nsid : Nat := 3; let zone : Nat := 0; Running s ∧
      (s.dev.zoneIx nsid zone = none ∨ s.dev.fwFlag = true ∨ s.dev.tor.latch = true)) ∧
    (let s : State := st { nDev with wr := { nDev.wr with entries := [{ tEnt with acked := true, zoned := true, secs := [sec0 0] }], foldRows := [{ row := { seven := true, group := 4, lbn := 30, wear := 0, dirty := false }, used := 16, burst := false }] }, media := { nDev.media with zt := [(0, { zd0 with st := zImp, lbn := 10, wp := 1 }.word)] } };
      Running s) ∧
    (let s : State := st { nDev with wr := { nDev.wr with entries := [{ tEnt with acked := true, zoned := true, secs := [sec0 0] }], foldRows := [{ row := { seven := true, group := 4, lbn := 30, wear := 0, dirty := false }, used := 16, burst := false }] }, media := { nDev.media with zt := [(0, { zd0 with st := zImp, lbn := 10, wp := 1 }.word)] } };
      let nsid : Nat := 1; let zone : Nat := 0; let ix : Nat := 0; let zs : Nat := 0; let lbas := ([] : List Nat); let n := zns;
      let z := s.dev.zd ix; let o := s.dev.nextGroup ix z; let k := groupLbas z.seven;
      let below := if z.st = zFull then topEnd z.fp (s.dev.ackedRuns z.nsx zs (zsze z.seven)) else z.wp;
      let starts := (o + k ≤ below ∧ s.dev.media.relocs.any (fun r => !r.conv && r.zone == ix) = false ∧ s.dev.fwFlag = false ∧ s.dev.tor.latch = false ∧ s.dev.ownsGroup z.seven z.group = true);
      Running s ∧ s.dev.nsOf nsid = some n ∧ s.dev.zoneIx nsid zone = some (ix, zs) ∧ NoBufferLoss n.nsx lbas s.dev ∧ ¬ starts) ∧
    (let s : State := st ({ gDev with wr := { (gDev).wr with ingress := 9 } }); let nsid : Nat := 1; let zone : Nat := 0;
      let ix : Nat := 0; let zs : Nat := 0; let bad := ([] : List (Nat × ReadErr)); let lbas := ([] : List Nat); let n := zns; Running s ∧
      s.dev.nsOf nsid = some n ∧ s.dev.zoneIx nsid zone = some (ix, zs) ∧ NoBufferLoss n.nsx lbas s.dev ∧
      (s.dev.tor.latch = true ∨ (bad.any (fun b => decide (b.2 = ReadErr.stripe)) = false ∧ s.dev.fw.role = .solo ∧ s.dev.burstFull = false ∧ s.dev.wr.qlc < s.dev.wr.ingress))) ∧
    (let f : FoldCopy := { nsx := 0, lba := 0, secs := [sec0 0], burst := false, lost := false, row := rowKey true 4 30 };
      let s : State := st { gDev with wr := { gDev.wr with fold := [{ nsx := 0, lba := 0, secs := [sec0 0], burst := false, lost := false, row := rowKey true 4 30 }] } };
      let nsid : Nat := 1; let zone : Nat := 0; let ix : Nat := 0; let zs : Nat := 0; let bad := ([(0, .stripe)] : List (Nat × ReadErr));
      let lbas := ([] : List Nat); let n := zns; let b := ((0, .stripe) : Nat × ReadErr); let z := s.dev.zd ix; Running s ∧
      s.dev.nsOf nsid = some n ∧ s.dev.zoneIx nsid zone = some (ix, zs) ∧ NoBufferLoss n.nsx lbas s.dev ∧ b ∈ bad ∧ b.2 = ReadErr.stripe ∧
      b.1 < zsze n.seven ∧ f ∈ s.dev.wr.fold ∧ f.nsx = n.nsx ∧ f.lba ≤ zs + b.1 ∧ zs + b.1 < f.lba + f.secs.length ∧
      (z.active = true ∨ z.st = zFull) ∧ s.dev.tor.latch = false) ∧
    (let s : State := st { gDev with wr := { gDev.wr with fold := [{ nsx := 0, lba := 0, secs := [sec0 0], burst := false, lost := false, row := rowKey true 4 30 }] } };
      let nsid : Nat := 1; let n := zns; let a : Nat := 895; Running s ∧ s.dev.nsOf nsid = some n ∧ s.dev.fw.role ≠ .duo ∧
      s.dev.inBuffer n.nsx a = true) ∧
    (let s : State := st uDev; let nsid : Nat := 3; let n := cns; let lbas := ([] : List Nat); let k : Nat := 0; let p : Nat := 5;
      Running s ∧ s.dev.nsOf nsid = some n ∧ n.zoned = false ∧ NoBufferLoss n.nsx lbas s.dev ∧
      s.dev.wr.groups.any (fun g => g.ix == 2 ^ 20 + n.nsx) = false ∧ s.dev.fwFlag = false ∧ s.dev.tor.latch = false ∧
      (s.dev.handles n.nsx).find? (fun h => decide (896 ≤ (s.dev.convSecs n.nsx h).length)) = some k ∧
      SMap.find s.dev.media.curUnit (handleKey n.nsx k) = some p ∧ p % 2 ^ 18 + 896 ≤ 229376) ∧
    (let s : State := st { gDev with wr := { gDev.wr with ingress := 5, qlc := 9 } }; let nsid : Nat := 3; let n := cns;
      let lbas := ([] : List Nat); Running s ∧ s.dev.nsOf nsid = some n ∧ n.zoned = false ∧ NoBufferLoss n.nsx lbas s.dev ∧
      s.dev.wr.groups.any (fun g => g.ix == 2 ^ 20 + n.nsx) = false ∧ s.dev.fwFlag = false ∧ s.dev.tor.latch = false ∧
      (s.dev.handles n.nsx).find? (fun h => decide (896 ≤ (s.dev.convSecs n.nsx h).length)) = none) ∧
    (let s : State := st ({ nDev with wr := { (nDev).wr with groups := [{ ({ ix := 0, start := 16, left := 0, failed := false, secs := [(16, sec0 16)] } : Grp) with failed := true }] } });
      let nsid : Nat := 1; let zone : Nat := 0; let n := zns; let ix : Nat := 0; let zs : Nat := 0;
      let g := ({ ({ ix := 0, start := 16, left := 0, failed := false, secs := [(16, sec0 16)] } : Grp) with failed := true } : Grp);
      let z := s.dev.zd ix; Running s ∧ s.dev.nsOf nsid = some n ∧ n.zoned = true ∧ s.dev.zoneIx nsid zone = some (ix, zs) ∧
      s.dev.wr.groups.find? (fun g => g.ix == ix) = some g ∧ (g.failed = true ∨ g.left ≠ 0 ∨ g.start ≠ z.fp)) ∧
    (let s : State := st ({ nDev with wr := { (nDev).wr with groups := [({ ix := 0, start := 16, left := 0, failed := false, secs := [(16, sec0 16)] } : Grp)] } });
      let nsid : Nat := 1; let zone : Nat := 0; let n := zns; let ix : Nat := 0; let zs : Nat := 0;
      let g := ({ ix := 0, start := 16, left := 0, failed := false, secs := [(16, sec0 16)] } : Grp); let z := s.dev.zd ix;
      let k := groupLbas z.seven; Running s ∧ s.dev.nsOf nsid = some n ∧ n.zoned = true ∧ s.dev.zoneIx nsid zone = some (ix, zs) ∧
      s.dev.wr.groups.find? (fun g => g.ix == ix) = some g ∧ g.failed = false ∧ g.left = 0 ∧ g.start = z.fp ∧ g.start + k ≤ zcap z.seven ∧
      s.dev.wr.waiting = [] ∧ s.dev.wr.flushes = [] ∧ s.dev.tees = false) ∧
    (let s : State := st ({ { ((nDev).wr64 (A.PAIR_STAT) 2) with fw := { (((nDev).wr64 (A.PAIR_STAT) 2)).fw with role := .duo, mode := .duo } } with wr := { ({ ((nDev).wr64 (A.PAIR_STAT) 2) with fw := { (((nDev).wr64 (A.PAIR_STAT) 2)).fw with role := .duo, mode := .duo } }).wr with peerCeil := 512, groups := [({ ix := 0, start := 16, left := 0, failed := false, secs := [(16, sec0 16)] } : Grp)] } });
      let nsid : Nat := 1; let zone : Nat := 0; let n := zns; let ix : Nat := 0; let zs : Nat := 0;
      let g := ({ ix := 0, start := 16, left := 0, failed := false, secs := [(16, sec0 16)] } : Grp); let z := s.dev.zd ix;
      let k := groupLbas z.seven; Running s ∧ s.dev.nsOf nsid = some n ∧ n.zoned = true ∧ s.dev.zoneIx nsid zone = some (ix, zs) ∧
      s.dev.wr.groups.find? (fun g => g.ix == ix) = some g ∧ g.failed = false ∧ g.left = 0 ∧ g.start = z.fp ∧ g.start + k ≤ zcap z.seven ∧
      s.dev.wr.waiting = [] ∧ s.dev.wr.flushes = [] ∧ s.dev.tees = true ∧ s.dev.linkUp = true) ∧
    (let s : State := st ({ nDev with wr := { (nDev).wr with groups := [{ ({ ix := 0, start := 16, left := 0, failed := false, secs := [(16, sec0 16)] } : Grp) with ix := 2 ^ 20 + 2 }] } });
      let nsid : Nat := 3; let n := cns;
      let g := ({ ({ ix := 0, start := 16, left := 0, failed := false, secs := [(16, sec0 16)] } : Grp) with ix := 2 ^ 20 + 2 } : Grp);
      Running s ∧ s.dev.nsOf nsid = some n ∧ n.zoned = false ∧ s.dev.tees = false ∧
      s.dev.wr.groups.find? (fun g => g.ix == 2 ^ 20 + n.nsx) = some g ∧ g.failed = false ∧ g.left = 0 ∧ s.dev.wr.waiting = [] ∧
      s.dev.wr.flushes = [] ∧ MapGood n s.dev ∧ (g.secs.map Prod.fst).Nodup) ∧
    (let s : State := st { nDev with wr := { nDev.wr with entries := [{ tEnt with acked := true, zoned := true, secs := [sec0 0] }], foldRows := [{ row := { seven := true, group := 4, lbn := 30, wear := 0, dirty := false }, used := 16, burst := false }] }, media := { nDev.media with zt := [(0, { zd0 with st := zImp, lbn := 10, wp := 1 }.word)] } };
      Running s ∧ s.dev.tor.latch = false ∧ s.dev.fw.replayed = true) ∧
    (let s : State := st ({ nDev with tor := { (nDev).tor with latch := true } }); Running s ∧
      (s.dev.tor.latch = true ∨ s.dev.fw.replayed = false)) ∧
    (let s : State := st ({ nDev with host := { (nDev).host with tsSet := true } }); Running s ∧ s.dev.host.tsSet = true) := by
  refine ⟨?_, ?_, ?_, ?_, ?_, ?_, ?_, ?_, ?_, ?_, ?_, ?_, ?_, ?_, ?_, ?_⟩
  · unfold Running; decide +kernel
  · unfold Running; decide +kernel
  · unfold Running; decide +kernel
  · unfold NoBufferLoss Running; decide +kernel
  · unfold NoBufferLoss Running; decide +kernel
  · unfold NoBufferLoss Running; decide +kernel
  · unfold Running; decide +kernel
  · unfold NoBufferLoss Running; decide +kernel
  · unfold NoBufferLoss Running; decide +kernel
  · unfold Running; decide +kernel
  · unfold Running; decide +kernel
  · unfold Running; decide +kernel
  · exact ⟨(by unfold Running; decide +kernel), by decide +kernel, by decide +kernel, by decide +kernel, by decide +kernel, by decide +kernel, by decide +kernel, by decide +kernel, by decide +kernel, Or.inr (fun _ _ _ _ => quiet_burst _ rfl rfl _), by decide +kernel⟩
  · unfold Running; decide +kernel
  · unfold Running; decide +kernel
  · unfold Running; decide +kernel

theorem test_BufferMoves_2_inputs :
    (let s : State := st { nDev with wr := { nDev.wr with entries := [{ tEnt with acked := true, zoned := true, secs := [sec0 0] }], foldRows := [{ row := { seven := true, group := 4, lbn := 30, wear := 0, dirty := false }, used := 16, burst := false }] }, media := { nDev.media with zt := [(0, { zd0 with st := zImp, lbn := 10, wp := 1 }.word)] } };
      Running s ∧ s.dev.host.tsSet = false) := by
  unfold Running; decide +kernel

theorem test_BufferCeiling_inputs :
    (let s : State := st ({ nDev with wr := { (nDev).wr with cUf := some 200000 } }); Running s ∧
      (s.dev.wr.measuring = 0 ∨ s.dev.wr.measuring = 3)) ∧
    (let s : State := st ({ nDev with wr := { (nDev).wr with measuring := 2 } }); Running s ∧ s.dev.wr.measuring ≠ 0 ∧
      s.dev.wr.measuring ≠ 3) ∧
    (let s : State := st ({ nDev with wr := { (nDev).wr with cUf := some 200000 } }); Running s) ∧
    (let s : State := st ({ nDev with wr := { (nDev).wr with measuring := 1, v0Mv := 12000 } }); let mv : Nat := 11800;
      let us : Nat := 300000; let fall := s.dev.wr.v0Mv - mv; Running s ∧ s.dev.wr.measuring = 1 ∧ fall < 500 ∧ us < 500000) ∧
    (let s : State := st ({ nDev with wr := { (nDev).wr with measuring := 1, v0Mv := 12000 } }); let mv : Nat := 11500;
      let us : Nat := 300000; let fall := s.dev.wr.v0Mv - mv; Running s ∧ s.dev.wr.measuring = 1 ∧
      (500 ≤ fall ∨ (0 < fall ∧ 500000 ≤ us))) ∧
    (let s : State := st ({ nDev with wr := { (nDev).wr with measuring := 2 } }); Running s ∧ s.dev.wr.measuring = 2) ∧
    (let s : State := st ({ nDev with wr := { (nDev).wr with bceil := 0, waiting := [{ h := hd, c := rw 3 8 1, d := [lba0], app := false, pen := 0, unc := false }] } });
      let w := ({ h := hd, c := rw 3 8 1, d := [lba0], app := false, pen := 0, unc := false } : WaitW); let r := ([] : List WaitW);
      Posting s ∧ s.dev.wr.bceil = 0 ∧ s.dev.wr.waiting = w :: r) ∧
    (let s : State := st ({ nDev with wr := { (nDev).wr with cUf := some 200000 } }); Running s ∧
      (s.dev.wr.bceil ≠ 0 ∨ s.dev.wr.waiting = [])) ∧
    (let s : State := st ({ nDev with wr := { (nDev).wr with entries := [{ tEnt with held := true, secs := [sec0 0] }] } });
      let id : Nat := 3; let e := ({ tEnt with held := true, secs := [sec0 0] } : Entry); Posting s ∧
      s.dev.wr.entries.find? (fun e => e.id == id) = some e ∧ e.held = true ∧ e.acked = false ∧ e.zoned = false) ∧
    (let s : State := st ({ nDev with wr := { (nDev).wr with entries := [{ tEnt with held := true, zoned := true, ofs := 16, secs := [sec0 16] }, { tEnt with id := 4, held := true, zoned := true, ofs := 17, secs := [sec0 17] }] } });
      let e := ({ tEnt with held := true, zoned := true, ofs := 16, secs := [sec0 16] } : Entry);
      let x := ({ tEnt with id := 4, held := true, zoned := true, ofs := 17, secs := [sec0 17] } : Entry); Posting s ∧
      s.dev.wr.entries = [e, x] ∧ e.held = true ∧ e.acked = false ∧ e.zoned = true ∧ x.zoned = true ∧ x.acked = false ∧ x.nsx = e.nsx ∧
      x.zone = e.zone ∧ e.id < x.id ∧ x.app = false ∧ s.dev.media.nss.any (fun n => n.nsx == e.nsx) = true) ∧
    (let s : State := st ({ ((nDev).wr64 (A.THERM_STAT) 0x10) with wr := { (((nDev).wr64 (A.THERM_STAT) 0x10)).wr with waiting := [{ h := hd, c := rw 3 8 1, d := [lba0], app := false, pen := 0, unc := false }] } });
      Posting s ∧ s.dev.fwFlag = true ∧ s.dev.writable = true ∧ (∃ w, w ∈ s.dev.wr.waiting ∧ w.space = true)) ∧
    (let s : State := st ({ nDev with wr := { (nDev).wr with cUf := some 200000 } }); Running s ∧
      (s.dev.fwFlag = false ∨ s.dev.writable = false ∨ (∀ w, w ∈ s.dev.wr.waiting → w.space = false))) := by
  refine ⟨?_, ?_, ?_, ?_, ?_, ?_, ?_, ?_, ?_, ?_, ?_, ?_⟩
  · unfold Running; decide +kernel
  · unfold Running; decide +kernel
  · unfold Running; decide +kernel
  · unfold Running; decide +kernel
  · unfold Running; decide +kernel
  · unfold Running; decide +kernel
  · unfold Posting Running; decide +kernel
  · unfold Running; decide +kernel
  · unfold Posting Running; decide +kernel
  · unfold Posting Running; decide +kernel
  · unfold Posting Running; decide +kernel
  · unfold Running; decide +kernel

theorem test_HostQueues_inputs :
    (let s : State := st ({ nDev with host := { (nDev).host with sqs := [({ fn := 0, sqid := 1, cqid := 1, q := 0, size := 16, inCmb := false, base := 0, cls := 1, head := 0, tail := 0, halted := false } : Sq)], cqs := [({ fn := 0, cqid := 1, size := 16, vector := 1, base := 0, head := 0, tail := 0, phase := true } : Cq)] } });
      let h : Hdr := hd;
      let a : SqArg := ({ sqid := 2, cqid := 1, size := 16, inCmb := false, base := 0, cls := 1, col := false } : SqArg);
      let p : Nat := 0; let i : Nat := 1; Posting s ∧ s.dev.penOf h.fn.val = some p ∧ s.dev.sqCheck h.fn.val p a = none ∧
      s.dev.freeQ = some i) ∧
    (let s : State := st nDev; let h : Hdr := hd;
      let a : SqArg := ({ sqid := 0, cqid := 1, size := 16, inCmb := false, base := 0, cls := 1, col := false } : SqArg);
      let p : Nat := 0; let st := Status.invalidQueue; Posting s ∧ s.dev.penOf h.fn.val = some p ∧
      ((a.sqid = 0 ∧ st = Status.invalidQueue) ∨ (a.sqid ≠ 0 ∧ a.sqid ≤ s.dev.qidMax h.fn.val ∧ s.dev.host.sqs.any (fun q => q.fn == h.fn.val && q.sqid == a.sqid) = false ∧ 2 ≤ a.size ∧ a.size ≤ 65536 ∧ a.inCmb = false ∧ s.dev.host.cqs.any (fun q => q.fn == h.fn.val && q.cqid == a.cqid && q.cqid != 0) = true ∧ s.dev.ioq p ≤ s.dev.sqsOf p ∧ st = .penLimit))) ∧
    (let s : State := st nDev; let h : Hdr := hd;
      let a : CqArg := ({ cqid := 2, size := 16, vector := 15, inCmb := false, base := 0 } : CqArg); let p : Nat := 0; Posting s ∧
      s.dev.penOf h.fn.val = some p ∧ a.cqid ≠ 0 ∧ a.cqid ≤ s.dev.qidMax h.fn.val ∧
      s.dev.host.cqs.any (fun q => q.fn == h.fn.val && q.cqid == a.cqid) = false ∧ 2 ≤ a.size ∧ a.size ≤ 65536 ∧ a.inCmb = false ∧
      a.vector < 16 ∧ s.dev.cqsOf p < s.dev.ioq p) ∧
    (let s : State := st ({ { nDev with host := { (nDev).host with sqs := [({ fn := 0, sqid := 1, cqid := 1, q := 0, size := 16, inCmb := false, base := 0, cls := 1, head := 0, tail := 0, halted := false } : Sq)], cqs := [({ fn := 0, cqid := 1, size := 16, vector := 1, base := 0, head := 0, tail := 0, phase := true } : Cq)] } } with pens := { ({ nDev with host := { (nDev).host with sqs := [({ fn := 0, sqid := 1, cqid := 1, q := 0, size := 16, inCmb := false, base := 0, cls := 1, head := 0, tail := 0, halted := false } : Sq)], cqs := [({ fn := 0, cqid := 1, size := 16, vector := 1, base := 0, head := 0, tail := 0, phase := true } : Cq)] } }).pens with recs := [(0, { r := { tPen with ioq := 1 }, gen := 1, enabled := true })] } });
      let h : Hdr := hd; let a : CqArg := ({ cqid := 2, size := 16, vector := 15, inCmb := false, base := 0 } : CqArg); let p : Nat := 0;
      Posting s ∧ s.dev.penOf h.fn.val = some p ∧ a.cqid ≠ 0 ∧ a.cqid ≤ s.dev.qidMax h.fn.val ∧
      s.dev.host.cqs.any (fun q => q.fn == h.fn.val && q.cqid == a.cqid) = false ∧ 2 ≤ a.size ∧ a.size ≤ 65536 ∧ a.inCmb = false ∧
      a.vector < 16 ∧ s.dev.ioq p ≤ s.dev.cqsOf p) ∧
    (let s : State := st ({ nDev with host := { (nDev).host with sqs := [({ fn := 0, sqid := 1, cqid := 1, q := 0, size := 16, inCmb := false, base := 0, cls := 1, head := 0, tail := 0, halted := false } : Sq)], cqs := [({ fn := 0, cqid := 1, size := 16, vector := 1, base := 0, head := 0, tail := 0, phase := true } : Cq)] } });
      let h : Hdr := hd; let sqid : Nat := 1;
      let q := ({ fn := 0, sqid := 1, cqid := 1, q := 0, size := 16, inCmb := false, base := 0, cls := 1, head := 0, tail := 0, halted := false } : Sq);
      Posting s ∧ s.dev.host.sqs.find? (fun q => q.fn == h.fn.val && q.sqid == sqid && q.sqid != 0) = some q) ∧
    (let s : State := st ({ nDev with host := { (nDev).host with cqs := [({ fn := 0, cqid := 1, size := 16, vector := 1, base := 0, head := 0, tail := 0, phase := true } : Cq)] } });
      let h : Hdr := hd; let cqid : Nat := 1;
      let q := ({ fn := 0, cqid := 1, size := 16, vector := 1, base := 0, head := 0, tail := 0, phase := true } : Cq); Posting s ∧
      s.dev.host.cqs.find? (fun q => q.fn == h.fn.val && q.cqid == cqid && q.cqid != 0) = some q ∧
      s.dev.host.sqs.any (fun x => x.fn == h.fn.val && x.cqid == cqid && x.sqid != 0) = false) ∧
    (let s : State := st ({ nDev with host := { (nDev).host with sqs := [({ fn := 0, sqid := 1, cqid := 1, q := 0, size := 16, inCmb := false, base := 0, cls := 1, head := 0, tail := 0, halted := false } : Sq)], cqs := [({ fn := 0, cqid := 1, size := 16, vector := 1, base := 0, head := 0, tail := 0, phase := true } : Cq)] } });
      let h : Hdr := hd; let cqid : Nat := 1;
      let q := ({ fn := 0, cqid := 1, size := 16, vector := 1, base := 0, head := 0, tail := 0, phase := true } : Cq); Posting s ∧
      s.dev.host.cqs.find? (fun q => q.fn == h.fn.val && q.cqid == cqid && q.cqid != 0) = some q ∧
      s.dev.host.sqs.any (fun x => x.fn == h.fn.val && x.cqid == cqid && x.sqid != 0) = true) ∧
    (let s : State := st nDev; let h : Hdr := hd; let sqid : Nat := 1; let cid : Nat := 9; Posting s ∧
      s.dev.pens.wait.find? (fun c => c.h.fn == h.fn && c.h.qid == sqid && c.h.cid == cid) = none) ∧
    (let s : State := st ({ nDev with pens := { (nDev).pens with wait := [{ seq := 0, pen := 0, wr := false, cls := 1, deadline := 0, cost := 16, col := false, h := { hd with qid := 1, cid := 9 }, q := 0, c := rw 1 0 1 }] } });
      let h : Hdr := hd; let sqid : Nat := 1; let cid : Nat := 9;
      let c := ({ seq := 0, pen := 0, wr := false, cls := 1, deadline := 0, cost := 16, col := false, h := { hd with qid := 1, cid := 9 }, q := 0, c := rw 1 0 1 } : PenCmd);
      Posting s ∧ s.dev.pens.wait.find? (fun c => c.h.fn == h.fn && c.h.qid == sqid && c.h.cid == cid) = some c) ∧
    (let s : State := st ({ nDev with host := { (nDev).host with aers := List.replicate 16 hd } }); let h : Hdr := hd; Posting s ∧
      16 ≤ (s.dev.host.aers.filter (fun x => x.fn == h.fn)).length) ∧
    (let s : State := st nDev; let h : Hdr := hd; Posting s ∧ (s.dev.host.aers.filter (fun x => x.fn == h.fn)).length < 16 ∧
      s.dev.host.aenPend.find? (fun x => x.1 == h.fn.val) = none) ∧
    (let s : State := st ({ nDev with host := { (nDev).host with aenPend := [(0, 2, 1, 0)] } }); let h : Hdr := hd; let t : Nat := 2;
      let i : Nat := 1; let l : Nat := 0; let f : Nat := 0; Posting s ∧ (s.dev.host.aers.filter (fun x => x.fn == h.fn)).length < 16 ∧
      s.dev.host.aenPend.find? (fun x => x.1 == h.fn.val) = some (f, t, i, l)) ∧
    (let s : State := st ({ nDev with host := { (nDev).host with sqs := [({ fn := 0, sqid := 1, cqid := 1, q := 0, size := 16, inCmb := false, base := 0, cls := 1, head := 0, tail := 0, halted := false } : Sq)], cqs := [({ fn := 0, cqid := 1, size := 16, vector := 1, base := 0, head := 0, tail := 0, phase := true } : Cq)] } });
      let fn : FnN := (3 : FnN); Running s ∧ s.dev.penOf fn.val = none) ∧
    (let s : State := st ({ { nDev with host := { (nDev).host with sqs := [({ fn := 0, sqid := 1, cqid := 1, q := 0, size := 16, inCmb := false, base := 0, cls := 1, head := 0, tail := 0, halted := false } : Sq)], cqs := [({ fn := 0, cqid := 1, size := 16, vector := 1, base := 0, head := 0, tail := 0, phase := true } : Cq)] } } with wr := { ({ nDev with host := { (nDev).host with sqs := [({ fn := 0, sqid := 1, cqid := 1, q := 0, size := 16, inCmb := false, base := 0, cls := 1, head := 0, tail := 0, halted := false } : Sq)], cqs := [({ fn := 0, cqid := 1, size := 16, vector := 1, base := 0, head := 0, tail := 0, phase := true } : Cq)] } }).wr with cUf := some 200000 } });
      let fn : FnN := (0 : FnN); Running s ∧ s.dev.penOf fn.val ≠ none ∧ s.dev.pens.fnDrain = [] ∧ s.dev.fnReady fn.val = true ∧
      fn.val ∉ s.dev.host.rdy) ∧
    (let s : State := st nDev; let fn : FnN := (0 : FnN); Running s ∧ s.dev.penOf fn.val ≠ none) ∧
    (let s : State := st nDev; let fn : FnN := (0 : FnN); Running s ∧
      (s.dev.isPf fn.val = true ∨ (s.dev.fnBusy fn.val = false ∧ s.dev.wr.entries = []))) := by
  refine ⟨?_, ?_, ?_, ?_, ?_, ?_, ?_, ?_, ?_, ?_, ?_, ?_, ?_, ?_, ?_, ?_⟩
  · unfold Posting Running; decide +kernel
  · unfold Posting Running; decide +kernel
  · unfold Posting Running; decide +kernel
  · unfold Posting Running; decide +kernel
  · unfold Posting Running; decide +kernel
  · unfold Posting Running; decide +kernel
  · unfold Posting Running; decide +kernel
  · unfold Posting Running; decide +kernel
  · unfold Posting Running; decide +kernel
  · unfold Posting Running; decide +kernel
  · unfold Posting Running; decide +kernel
  · unfold Posting Running; decide +kernel
  · unfold Running; decide +kernel
  · unfold Running; decide +kernel
  · unfold Running; decide +kernel
  · unfold Running; decide +kernel

theorem test_HostQueues_2_inputs :
    (let s : State := st ({ { nDev with pens := { (nDev).pens with recs := [(0, { r := { tPen with bufsh := 512 }, gen := 1, enabled := true }), (1, { r := { tPen with func0 := 8, bufsh := 512, cmbsh := 16 }, gen := 2, enabled := true })] } } with host := { ({ nDev with pens := { (nDev).pens with recs := [(0, { r := { tPen with bufsh := 512 }, gen := 1, enabled := true }), (1, { r := { tPen with func0 := 8, bufsh := 512, cmbsh := 16 }, gen := 2, enabled := true })] } }).host with fw := [{ h := ({ fn := 3, qid := 0, cid := 7 } : Hdr), q := 0, e := { opc := 2, fused := false, cid := 7, rw := rw 1 0 1, dptr := .prp, eccBad := false }, t0 := 0, admitted := true }] } });
      let fn : FnN := (3 : FnN); Running s ∧ s.dev.isPf fn.val = false ∧ s.dev.fnBusy fn.val = true ∧
      s.dev.wr.entries.any (fun e => e.h.fn.val == fn.val && e.held && !e.acked) = false) ∧
    (let s : State := st nDev; Running s) ∧
    (let s : State := st ({ nDev with host := { (nDev).host with sqs := [({ fn := 0, sqid := 1, cqid := 1, q := 0, size := 16, inCmb := false, base := 0, cls := 1, head := 0, tail := 0, halted := false } : Sq)], cqs := [({ fn := 0, cqid := 1, size := 16, vector := 1, base := 0, head := 0, tail := 0, phase := true } : Cq)] } });
      let fn : FnN := (0 : FnN); let off : Nat := 5; let hit : Hit := .none;
      let base := if s.dev.isPf fn.val then 0 else match s.dev.penOf fn.val with | some p => s.dev.cmbOff p | none => 0;
      let size := if s.dev.isPf fn.val then 0x2000000 else match s.dev.penOf fn.val with | some p => s.dev.cmbSize p | none => 0;
      let a := 0x40000000 + base + off; Running s ∧ off < (if s.dev.isPf fn.val then 0x2000000 else 0x200000) ∧ off < size ∧
      s.dev.accessErr (.host fn) a true hit = none) ∧
    (let s : State := st ({ nDev with host := { (nDev).host with sqs := [({ fn := 0, sqid := 1, cqid := 1, q := 0, size := 16, inCmb := false, base := 0, cls := 1, head := 0, tail := 0, halted := false } : Sq)], cqs := [({ fn := 0, cqid := 1, size := 16, vector := 1, base := 0, head := 0, tail := 0, phase := true } : Cq)] } });
      let fn : FnN := (0 : FnN); let off : Nat := 5; let hit : Hit := .none;
      let base := if s.dev.isPf fn.val then 0 else match s.dev.penOf fn.val with | some p => s.dev.cmbOff p | none => 0;
      let size := if s.dev.isPf fn.val then 0x2000000 else match s.dev.penOf fn.val with | some p => s.dev.cmbSize p | none => 0;
      let a := 0x40000000 + base + off; Running s ∧ off < (if s.dev.isPf fn.val then 0x2000000 else 0x200000) ∧ off < size ∧
      s.dev.accessErr (.host fn) a false hit = none) ∧
    (let s : State := st nDev; let fn : FnN := (0 : FnN); let off : Nat := 5; let hit : Hit := .unc; let e := BusErr.uncorr;
      let base := if s.dev.isPf fn.val then 0 else match s.dev.penOf fn.val with | some p => s.dev.cmbOff p | none => 0;
      let size := if s.dev.isPf fn.val then 0x2000000 else match s.dev.penOf fn.val with | some p => s.dev.cmbSize p | none => 0;
      let a := 0x40000000 + base + off; Running s ∧ off < (if s.dev.isPf fn.val then 0x2000000 else 0x200000) ∧ off < size ∧
      s.dev.accessErr (.host fn) a false hit = some e) ∧
    (let s : State := st pen1Dev; let fn : FnN := (3 : FnN); let off : Nat := 0x1FFFFF; let p : Nat := 1;
      let size := if s.dev.isPf fn.val then 0x2000000 else match s.dev.penOf fn.val with | some p => s.dev.cmbSize p | none => 0;
      Running s ∧ off < (if s.dev.isPf fn.val then 0x2000000 else 0x200000) ∧ size ≤ off ∧ s.dev.penOf fn.val = some p ∧
      s.dev.cairnOn = true ∧ s.dev.cairn.fifo.length < 64) ∧
    (let s : State := st nDev; let fn : FnN := (0 : FnN); let v := 0x10001#32; Running s ∧ s.dev.isPf fn.val = true ∧
      logExists (v.toNat % 65536) = true) ∧
    (let s : State := st pen1Dev; let fn : FnN := (3 : FnN); let v := 0x10001#32; Running s ∧
      (s.dev.isPf fn.val = false ∨ logExists (v.toNat % 65536) = false)) := by
  refine ⟨?_, ?_, ?_, ?_, ?_, ?_, ?_, ?_⟩
  · unfold Running; decide +kernel
  · unfold Running; decide +kernel
  · unfold Running; decide +kernel
  · unfold Running; decide +kernel
  · unfold Running; decide +kernel
  · unfold Running; decide +kernel
  · unfold Running; decide +kernel
  · unfold Running; decide +kernel

theorem test_AdminData_inputs :
    (let s : State := st (nDev); let h : Hdr := hd; let cns : Byte := 0#8; let nsid : Nat := 1;
      let b := ((nDev.idData 0 0 1).toOption.getD []); Posting s ∧ s.dev.idData h.fn.val cns.toNat nsid = .ok b) ∧
    (let s : State := st (nDev); let h : Hdr := hd; let cns : Byte := 0x77#8; let nsid : Nat := 1; let st := Status.invalidField;
      Posting s ∧ s.dev.idData h.fn.val cns.toNat nsid = .error st) ∧
    (let s : State := st (nDev); Posting s) ∧
    (let s : State := st (nDev); let h : Hdr := hd; let lid : Byte := 0xC0#8; let nsid : Nat := 1; let lsi : Nat := 0; let off : Nat := 4;
      let len : Nat := 64; let b := ((nDev.logPage 0 0xC0 1 0 64).toOption.getD []); Posting s ∧
      s.dev.logPage h.fn.val lid.toNat nsid lsi len = .ok b ∧ off ≤ b.length) ∧
    (let s : State := st (nDev); let h : Hdr := hd; let nsid : Nat := 1; let lid : Byte := 0x77#8; let lsi : Nat := 0;
      let len : Nat := 64; let st := Status.invalidLogPage; Posting s ∧ s.dev.logPage h.fn.val lid.toNat nsid lsi len = .error st) ∧
    (let s : State := st (nDev); let fid : Byte := 0x77#8; Posting s ∧ featOk fid.toNat = false) ∧
    (let s : State := st (nDev); let v : W64 := 1#64; let ps := v.toNat % 32; Posting s ∧ ps ≤ 1) ∧
    (let s : State := st (nDev); let v : W64 := 4#64; let ps := v.toNat % 32; Posting s ∧ 2 ≤ ps ∧ ps ≤ 4 ∧ s.dev.maySleep = true) ∧
    (let s : State := st ({ nDev with fw := { (nDev).fw with mode := .duo, role := .duo } }); let v : W64 := 3#64; let ps := v.toNat % 32;
      Posting s ∧ 2 ≤ ps ∧ ps ≤ 4 ∧ s.dev.maySleep = false) ∧
    (let s : State := st (nDev); let v : W64 := 31#64; let ps := v.toNat % 32; Posting s ∧ 4 < ps) ∧
    (let s : State := st (nDev); let v : W64 := 0x10000#64; Posting s ∧ v.toNat / 65536 % 2 = 1) ∧
    (let s : State := st (nDev); let fid : Byte := 9#8; Posting s ∧ fid.toNat ∈ [1, 8, 9, 0x0A, 0x0B, 0x0C, 0x11, 0x1D]) ∧
    (let s : State := st (nDev); let fid : Byte := 9#8; Posting s ∧ fid.toNat ∈ [1, 4, 5, 8, 9, 0x0A, 0x0B, 0x0C, 0x11, 0x1D]) ∧
    (let s : State := st (nDev); let c := (Unsup.field, Status.invalidField); Posting s ∧
      c ∈ [(Unsup.opcode, Status.invalidOpcode), (.field, .invalidField), (.logPage, .invalidLogPage)]) := by
  refine ⟨?_, ?_, ?_, ?_, ?_, ?_, ?_, ?_, ?_, ?_, ?_, ?_, ?_, ?_⟩
  · exact ⟨(by unfold Posting Running; decide +kernel), ok_getD (by decide +kernel) _⟩
  · unfold Posting Running; decide +kernel
  · unfold Posting Running; decide +kernel
  · exact ⟨(by unfold Posting Running; decide +kernel), ok_getD (by decide +kernel) _, by decide +kernel⟩
  · unfold Posting Running; decide +kernel
  · unfold Posting Running; decide +kernel
  · unfold Posting Running; decide +kernel
  · unfold Posting Running; decide +kernel
  · unfold Posting Running; decide +kernel
  · unfold Posting Running; decide +kernel
  · unfold Posting Running; decide +kernel
  · unfold Posting Running; decide +kernel
  · unfold Posting Running; decide +kernel
  · exact ⟨(by unfold Posting Running; decide +kernel), by simp⟩

theorem test_NamespaceAdmin_inputs :
    (let s : State := st (nDev); let h : Hdr := hd;
      let a := ({ zoned := true, seven := false, nzones := 2, gib := 0, fmt := 0, piType := 0, keyed := false, pen := 0, anagrp := 0 } : NsArg);
      let home := false;
      let x := (match nDev.nsRoom { zoned := true, seven := false, nzones := 2, gib := 0, fmt := 0, piType := 0, keyed := false, pen := 0, anagrp := 0 } false with | .ok x => x.1 | .error _ => 0);
      let slot := (match nDev.nsRoom { zoned := true, seven := false, nzones := 2, gib := 0, fmt := 0, piType := 0, keyed := false, pen := 0, anagrp := 0 } false with | .ok x => x.2.1 | .error _ => 0);
      let b := (match nDev.nsRoom { zoned := true, seven := false, nzones := 2, gib := 0, fmt := 0, piType := 0, keyed := false, pen := 0, anagrp := 0 } false with | .ok x => x.2.2 | .error _ => 0);
      Posting s ∧ s.dev.isPf h.fn.val = true ∧ s.dev.nsBad a = false ∧ s.dev.chooseHome a.anagrp = some home ∧
      (s.dev.fw.role ≠ .duo ∨ home = s.dev.board.pairId) ∧ s.dev.nsRoom a home = .ok (x, slot, b)) ∧
    (let fmt : Nat := 0;
      let s : State := st { nDev with media := { nDev.media with nss := [{ zns with keyed := true }] }, fw := { nDev.fw with alarmed := true } };
      let h : Hdr := hd;
      let a := ({ zoned := false, seven := false, nzones := 0, gib := 1000, fmt := 0, piType := 0, keyed := false, pen := 0, anagrp := 1 } : NsArg);
      let home := false; let st := Status.penLimit; Posting s ∧ s.dev.isPf h.fn.val = true ∧ s.dev.nsBad a = false ∧
      s.dev.chooseHome a.anagrp = some home ∧ (s.dev.fw.role ≠ .duo ∨ home = s.dev.board.pairId) ∧ s.dev.nsRoom a home = .error st) ∧
    (let s : State := st { pDev .duo .duo with pens := nDev.pens, media := nDev.media, wr := nDev.wr }; let h : Hdr := hd;
      let a := ({ zoned := true, seven := false, nzones := 2, gib := 0, fmt := 0, piType := 0, keyed := false, pen := 0, anagrp := 2 } : NsArg);
      let home := true; Posting s ∧ s.dev.isPf h.fn.val = true ∧ s.dev.nsBad a = false ∧ s.dev.chooseHome a.anagrp = some home ∧
      s.dev.fw.role = .duo ∧ home ≠ s.dev.board.pairId ∧ s.dev.linkUp = true) ∧
    (let s : State := st { (pDev .duo .duo).wr64 A.PAIR_STAT 0 with pens := nDev.pens, media := nDev.media, wr := nDev.wr };
      let h : Hdr := hd;
      let a := ({ zoned := true, seven := false, nzones := 2, gib := 0, fmt := 0, piType := 0, keyed := false, pen := 0, anagrp := 2 } : NsArg);
      let home := true; Posting s ∧ s.dev.isPf h.fn.val = true ∧ s.dev.nsBad a = false ∧ s.dev.chooseHome a.anagrp = some home ∧
      s.dev.fw.role = .duo ∧ home ≠ s.dev.board.pairId ∧ s.dev.linkUp = false) ∧
    (let s : State := st { pDev .duo .duo with pens := nDev.pens, media := nDev.media, wr := nDev.wr };
      let a := ({ zoned := true, seven := false, nzones := 2, gib := 0, fmt := 0, piType := 0, keyed := false, pen := 0, anagrp := 2 } : NsArg);
      let f := tFh;
      let x := (match nDev.nsRoom { zoned := true, seven := false, nzones := 2, gib := 0, fmt := 0, piType := 0, keyed := false, pen := 0, anagrp := 1 } false with | .ok x => x.1 | .error _ => 0);
      let slot := (match nDev.nsRoom { zoned := true, seven := false, nzones := 2, gib := 0, fmt := 0, piType := 0, keyed := false, pen := 0, anagrp := 1 } false with | .ok x => x.2.1 | .error _ => 0);
      let b := (match nDev.nsRoom { zoned := true, seven := false, nzones := 2, gib := 0, fmt := 0, piType := 0, keyed := false, pen := 0, anagrp := 1 } false with | .ok x => x.2.2 | .error _ => 0);
      InOrder f s ∧ Steady s.dev ∧ s.dev.fw.role = .duo ∧ s.dev.nsRoom a s.dev.board.pairId = .ok (x, slot, b)) ∧
    (let s : State := st { pDev .duo .duo with pens := nDev.pens, media := nDev.media, wr := nDev.wr }; let f := tFh;
      let a := ({ zoned := false, seven := false, nzones := 0, gib := 1000, fmt := 0, piType := 0, keyed := false, pen := 0, anagrp := 1 } : NsArg);
      let e := Status.penLimit; InOrder f s ∧ Steady s.dev ∧ s.dev.fw.role = .duo ∧ s.dev.nsRoom a s.dev.board.pairId = .error e) ∧
    (let s : State := st { pDev .duo .duo with pair := { (pDev .duo .duo).pair with creates := [hd] } }; let f := tFh; let h : Hdr := hd;
      let t := ([] : List Hdr); let e := Status.nsCapacity; InOrder f s ∧ s.dev.host.stopped = false ∧ s.dev.pair.creates = h :: t ∧
      e ≠ .success) ∧
    (let s : State := st { pDev .duo .duo with pair := { (pDev .duo .duo).pair with creates := [hd] } }; let f := tFh;
      let n : Ns := { zns with home := true }; InOrder f s ∧ s.dev.media.nss = [] ∧ n.home ≠ s.dev.board.pairId ∧ s.dev.fw.role = .duo ∧
      n.nsx < 1024) ∧
    (let fmt : Nat := 0;
      let s : State := st { nDev with media := { nDev.media with nss := [{ zns with keyed := true }] }, fw := { nDev.fw with alarmed := true } };
      let h : Hdr := hd;
      let a := ({ zoned := true, seven := false, nzones := 0, gib := 0, fmt := 0, piType := 3, keyed := false, pen := 0, anagrp := 0 } : NsArg);
      Posting s ∧ s.dev.isPf h.fn.val = true ∧ s.dev.nsBad a = true) ∧
    (let s : State := st (nDev); let h : Hdr := ({ fn := 3, qid := 0, cid := 7 } : Hdr);
      let a := ({ zoned := true, seven := false, nzones := 2, gib := 0, fmt := 0, piType := 0, keyed := false, pen := 0, anagrp := 0 } : NsArg);
      let nsid : Nat := 1; let attach := true; let fns := ([0] : List FnN);
      let i := Instr.namespaceDelete ({ fn := 3, qid := 0, cid := 7 } : Hdr) 1; Posting s ∧ s.dev.isPf h.fn.val = false ∧
      i ∈ [Instr.namespaceCreate h a, .namespaceDelete h nsid, .namespaceAttachment h attach nsid fns]) ∧
    (let n : Ns := { zns with keyed := true };
      let s : State := st { nDev with media := { nDev.media with nss := [{ zns with keyed := true }] }, fw := { nDev.fw with alarmed := true } };
      let h : Hdr := hd; let nsid : Nat := 1; Posting s ∧ s.dev.isPf h.fn.val = true ∧ nsid ≠ 0xFFFFFFFF ∧ s.dev.nsOf nsid = some n ∧
      s.dev.anaStatus n = none) ∧
    (let s : State := st { nDev with media := { nDev.media with nss := [{ zns with keyed := true }] }, fw := { nDev.fw with alarmed := true } };
      let h : Hdr := hd; Posting s ∧ s.dev.isPf h.fn.val = true) ∧
    (let n : Ns := { zns with keyed := true };
      let s : State := st { nDev with media := { nDev.media with nss := [{ zns with keyed := true }] }, fw := { nDev.fw with alarmed := true } };
      let h : Hdr := hd; let nsid : Nat := 1; let fns := ([5] : List FnN); Posting s ∧ s.dev.isPf h.fn.val = true ∧
      s.dev.nsOf nsid = some n ∧ fns ≠ [] ∧ fns.any (fun f => decide (s.dev.penOf f.val ≠ some n.pen)) = true) ∧
    (let n : Ns := { zns with keyed := true };
      let s : State := st { nDev with media := { nDev.media with nss := [{ zns with keyed := true }] }, fw := { nDev.fw with alarmed := true } };
      let h : Hdr := hd; let nsid : Nat := 1; let attach := false; let fns := ([0] : List FnN); Posting s ∧ s.dev.isPf h.fn.val = true ∧
      s.dev.nsOf nsid = some n ∧ fns ≠ [] ∧ fns.all (fun f => decide (s.dev.penOf f.val = some n.pen)) = true ∧
      fns.all (fun f => n.fns.contains f.val == !attach) = true) ∧
    (let s : State := st { pDev .duo .duo with pens := nDev.pens, media := nDev.media, wr := nDev.wr }; let h : Hdr := hd;
      let nsid : Nat := 1; let n := zns; let ses : Nat := 1; let fmt : Nat := 0; let pi : Fin 4 := 0; Posting s ∧
      s.dev.nsOf nsid = some n ∧ s.dev.seen h.fn.val n = true ∧ fmt ≤ 3 ∧ (fmt = 0 → pi = 0) ∧ s.dev.anaStatus n = none ∧
      (n.keyed = true → s.dev.fw.alarmed = false) ∧ (ses ≤ 1 ∨ (ses = 2 ∧ s.dev.board.code.val ≠ 2 ∧ n.keyed = true))) ∧
    (let s : State := st { pDev .duo .duo with pens := nDev.pens, media := nDev.media, wr := nDev.wr }; let h : Hdr := hd;
      let nsid : Nat := 1; let n := zns; let pi : Fin 4 := 0; let ses : Nat := 2; let fmt : Nat := 0; Posting s ∧
      s.dev.nsOf nsid = some n ∧ s.dev.seen h.fn.val n = true ∧
      (2 < ses ∨ 3 < fmt ∨ (fmt = 0 ∧ pi ≠ 0) ∨ (ses = 2 ∧ (s.dev.board.code.val = 2 ∨ n.keyed = false)))) := by
  refine ⟨?_, ?_, ?_, ?_, ?_, ?_, ?_, ?_, ?_, ?_, ?_, ?_, ?_, ?_, ?_, ?_⟩
  · unfold Posting Running; decide +kernel
  · unfold Posting Running; decide +kernel
  · unfold Posting Running; decide +kernel
  · unfold Posting Running; decide +kernel
  · unfold InOrder NoTeeWait Running Steady; decide +kernel
  · unfold InOrder NoTeeWait Running Steady; decide +kernel
  · unfold InOrder NoTeeWait Running; decide +kernel
  · unfold InOrder NoTeeWait Running; decide +kernel
  · unfold Posting Running; decide +kernel
  · exact ⟨(by unfold Posting Running; decide +kernel), by decide +kernel, by simp⟩
  · unfold Posting Running; decide +kernel
  · unfold Posting Running; decide +kernel
  · unfold Posting Running; decide +kernel
  · unfold Posting Running; decide +kernel
  · unfold Posting Running; decide +kernel
  · unfold Posting Running; decide +kernel

theorem test_NamespaceAdmin_2_inputs :
    (let n : Ns := { zns with keyed := true };
      let s : State := st { nDev with media := { nDev.media with nss := [{ zns with keyed := true }] }, fw := { nDev.fw with alarmed := true } };
      let h : Hdr := hd; let nsid : Nat := 1; let ses : Nat := 2; let fmt : Nat := 0; let pi : Fin 4 := 0; Posting s ∧
      s.dev.nsOf nsid = some n ∧ s.dev.seen h.fn.val n = true ∧ fmt ≤ 3 ∧ (fmt = 0 → pi = 0) ∧ s.dev.anaStatus n = none ∧ ses ≤ 2 ∧
      (ses = 2 → s.dev.board.code.val ≠ 2) ∧ n.keyed = true ∧ s.dev.fw.alarmed = true) ∧
    (let s : State := st { nDev with media := { nDev.media with nss := [{ zns with keyed := true }] }, fw := { nDev.fw with alarmed := true } };
      let act : Nat := 2; Posting s ∧ (act = 2 ∨ (act = 4 ∧ s.dev.board.code.val ≠ 2))) ∧
    (let s : State := st { nDev with media := { nDev.media with nss := [{ zns with keyed := true }] }, fw := { nDev.fw with alarmed := true } };
      let act : Nat := 3; Posting s ∧ ((act ≠ 2 ∧ act ≠ 4) ∨ (act = 4 ∧ s.dev.board.code.val = 2))) ∧
    (let n : Ns := { zns with keyed := true };
      let s : State := st { nDev with media := { nDev.media with nss := [{ zns with keyed := true }] }, fw := { nDev.fw with alarmed := true } };
      let h : Hdr := hd; let nsid : Nat := 1; let dtype : Nat := 0; let doper : Nat := 1; Posting s ∧ s.dev.nsOf nsid = some n ∧
      s.dev.seen h.fn.val n = true ∧ dtype = 0 ∧ doper = 1) ∧
    (let n : Ns := { zns with keyed := true };
      let s : State := st { nDev with media := { nDev.media with nss := [{ zns with keyed := true }] }, fw := { nDev.fw with alarmed := true } };
      let h : Hdr := hd; let nsid : Nat := 1; let dtype : Nat := 1; let doper : Nat := 1; let enable := true;
      let i := Instr.directiveReceive hd 1 1 1; Posting s ∧ s.dev.nsOf nsid = some n ∧ s.dev.seen h.fn.val n = true ∧
      (dtype ≠ 0 ∨ doper ≠ 1) ∧ i ∈ [Instr.directiveSend h dtype doper nsid enable, .directiveReceive h dtype doper nsid]) := by
  refine ⟨?_, ?_, ?_, ?_, ?_⟩
  · unfold Posting Running; decide +kernel
  · unfold Posting Running; decide +kernel
  · unfold Posting Running; decide +kernel
  · unfold Posting Running; decide +kernel
  · exact ⟨(by unfold Posting Running; decide +kernel), by decide +kernel, by decide +kernel, by decide +kernel, by simp⟩

theorem test_FirmwareUpdate_inputs :
    (let s : State := st (nDev); let h : Hdr := hd; let off := 0x7FEFFC; let b := ([1#8, 2#8, 3#8, 4#8] : List Byte); Posting s ∧
      s.dev.isPf h.fn.val = true ∧ off + b.length ≤ 0x7FF000) ∧
    (let s : State := st (nDev); let h : Hdr := hd; let off := 0x7FEFFD; let b := ([1#8, 2#8, 3#8, 4#8] : List Byte); Posting s ∧
      s.dev.isPf h.fn.val = true ∧ 0x7FF000 < off + b.length) ∧
    (let s : State := st (nDev); let h : Hdr := ({ fn := 3, qid := 0, cid := 7 } : Hdr); let off := 0x7FEFFC;
      let b := ([1#8, 2#8, 3#8, 4#8] : List Byte); let action : Nat := 1; let slot : Nat := 1;
      let i := Instr.firmwareCommit ({ fn := 3, qid := 0, cid := 7 } : Hdr) 1 1; Posting s ∧ s.dev.isPf h.fn.val = false ∧
      i ∈ [Instr.firmwareImageDownload h off b, .firmwareCommit h action slot]) ∧
    (let s : State := st (nDev); let h : Hdr := hd; let action : Nat := 1; let k : Nat := 1; Posting s ∧ s.dev.isPf h.fn.val = true ∧
      k < 4 ∧ s.dev.slotInUse k = false ∧ action ∈ [0, 1, 3]) ∧
    (let s : State := st (nDev); let h : Hdr := hd; let k : Nat := 1; let j : Nat := 0; Posting s ∧ s.dev.isPf h.fn.val = true ∧ k < 4 ∧
      s.dev.freeActivate k = some j) ∧
    (let s : State := st (nDev); let h : Hdr := hd; let action : Nat := 1; let slot : Nat := 1; Posting s ∧ s.dev.isPf h.fn.val = true ∧
      action ≤ 3 ∧ (slot = 0 ∨ 4 < slot ∨ (action ≠ 2 ∧ s.dev.slotInUse (slot - 1) = true))) ∧
    (let s : State := st (nDev); let stc : Nat := 1; Posting s ∧ (stc = 1 ∨ stc = 2) ∧ s.dev.host.selfTest = none) ∧
    (let s : State := st ({ nDev with host := { (nDev).host with selfTest := some (1, 0) } }); let stc : Nat := 1; Posting s ∧
      (stc = 1 ∨ stc = 2) ∧ s.dev.host.selfTest ≠ none) ∧
    (let s : State := st ({ nDev with host := { (nDev).host with selfTest := some (1, 0) } }); let t := ((1, 0) : Nat × Nat); Posting s ∧
      s.dev.host.selfTest = some t) := by
  refine ⟨?_, ?_, ?_, ?_, ?_, ?_, ?_, ?_, ?_⟩
  · unfold Posting Running; decide +kernel
  · unfold Posting Running; decide +kernel
  · exact ⟨(by unfold Posting Running; decide +kernel), by decide +kernel, by simp⟩
  · unfold Posting Running; decide +kernel
  · unfold Posting Running; decide +kernel
  · unfold Posting Running; decide +kernel
  · unfold Posting Running; decide +kernel
  · unfold Posting Running; decide +kernel
  · unfold Posting Running; decide +kernel

theorem test_PenCommands_inputs :
    (let s : State := st { pen1Dev with media := { pen1Dev.media with nss := [cns] } }; let h : Hdr := hd; let p : PenN := 1;
      let r : PenRec := { tPen with func0 := 8, ksbase := 8, bufsh := 256 }; Posting s ∧ s.dev.isPf h.fn.val = true ∧
      badPenRec s.dev.board.bifurcated p.val r = false ∧ s.dev.fw.mode ≠ .init ∧ s.dev.penLimited p.val r = false ∧
      s.dev.movesBusy p.val r = false ∧ s.dev.penMoves p.val = false) ∧
    (let s : State := st { pen1Dev with media := { pen1Dev.media with nss := [cns] } }; let h : Hdr := hd; let p : PenN := 1;
      let r : PenRec := { tPen with func0 := 8, ksbase := 8, bufsh := 256 }; let mv : List Nat := [3];
      let m : NsMove := { nsx := 2, pen := 1, slot := 8, ixs := [] }; let n := cns; Posting s ∧ s.dev.isPf h.fn.val = true ∧
      badPenRec s.dev.board.bifurcated p.val r = false ∧ s.dev.fw.mode ≠ .init ∧ s.dev.penLimited p.val r = false ∧
      s.dev.movesBusy p.val r = false ∧ s.dev.movePlan p.val r mv [] = .ok [m] ∧ m.pen = p.val ∧ s.dev.media.nss = [n] ∧ n.nsx = m.nsx ∧
      mv.any (fun x => s.dev.moving (x - 1)) = false) ∧
    (let s : State := st { pen1Dev with media := { pen1Dev.media with nss := [cns] } }; let h : Hdr := hd; let p : PenN := 1;
      let r : PenRec := { tPen with func0 := 8, ksbase := 8, bufsh := 256 }; let mv : List Nat := [9]; let st := Status.invalidNsFormat;
      Posting s ∧ s.dev.isPf h.fn.val = true ∧ badPenRec s.dev.board.bifurcated p.val r = false ∧ s.dev.fw.mode ≠ .init ∧
      s.dev.penLimited p.val r = false ∧ s.dev.movePlan p.val r mv [] = .error st) ∧
    (let s : State := st { pen1Dev with media := { pen1Dev.media with nss := [cns] } }; let h : Hdr := hd; let p : PenN := 1;
      let r : PenRec := { tPen with func0 := 8, ksbase := 8, bufsh := 256 }; let mv : List Nat := [3]; let len : Nat := 0;
      let st := Status.invalidField; Posting s ∧ s.dev.isPf h.fn.val = true ∧
      (((len ≠ 256 ∨ badPenRec s.dev.board.bifurcated p.val r = true) ∧ st = Status.invalidField) ∨ (len = 256 ∧ badPenRec s.dev.board.bifurcated p.val r = false ∧ s.dev.fw.mode = .init ∧ st = .modeRefused) ∨ (len = 256 ∧ badPenRec s.dev.board.bifurcated p.val r = false ∧ s.dev.fw.mode ≠ .init ∧ s.dev.penLimited p.val r = true ∧ st = .penLimit) ∨ (len = 256 ∧ badPenRec s.dev.board.bifurcated p.val r = false ∧ s.dev.fw.mode ≠ .init ∧ s.dev.penLimited p.val r = false ∧ (s.dev.movePlan p.val r mv []).isOk = true ∧ (s.dev.movesBusy p.val r = true ∨ mv.any (fun x => s.dev.moving (x - 1)) = true) ∧ st = .cmdSeqError))) ∧
    (let r : PenRec := { tPen with func0 := 8, ksbase := 8, bufsh := 256 };
      let s : State := st { pen1Dev with media := { pen1Dev.media with nss := [cns] } }; let h : Hdr := hd; let p : PenN := 1;
      let i : PenInfo := { r := { tPen with func0 := 8, bufsh := 512, cmbsh := 16 }, gen := 2, enabled := true }; Posting s ∧
      s.dev.isPf h.fn.val = true ∧ s.dev.pen p.val = some i) ∧
    (let r : PenRec := { tPen with func0 := 8, ksbase := 8, bufsh := 256 };
      let s : State := st { pen1Dev with media := { pen1Dev.media with nss := [cns] } }; let h : Hdr := hd; let p : PenN := 1;
      let i : PenInfo := { r := { tPen with func0 := 8, bufsh := 512, cmbsh := 16 }, gen := 2, enabled := true }; Posting s ∧
      s.dev.isPf h.fn.val = true ∧ s.dev.pen p.val = some i ∧ s.dev.fw.mode ≠ .init ∧ s.dev.bit (A.PEN_STAT p.val) 0 = false) ∧
    (let s : State := st { pen1Dev.wr64 (A.PEN_PCTL 1) 1 with pens := { pen1Dev.pens with enNew := [1] } }; let h : Hdr := hd;
      let p : PenN := 1; let i : PenInfo := { r := { tPen with func0 := 8, bufsh := 512, cmbsh := 16 }, gen := 2, enabled := true };
      Posting s ∧ s.dev.isPf h.fn.val = true ∧ s.dev.pen p.val = some i ∧ s.dev.fw.mode ≠ .init ∧ s.dev.bit (A.PEN_PCTL p.val) 0 = true ∧
      p.val ∈ s.dev.pens.enNew) ∧
    (let s : State := st ((((({ nDev with pens := { (nDev).pens with recs := [(0, { r := { tPen with bufsh := 512 }, gen := 1, enabled := true }), (1, { r := { tPen with func0 := 8, bufsh := 512, cmbsh := 16 }, gen := 2, enabled := true })] } }).wr64 ((A.PEN_PCTL 1)) 1)).wr64 ((A.PEN_STAT 1)) 1));
      let h : Hdr := hd; let p : PenN := (1 : PenN);
      let i := ({ r := { tPen with func0 := 8, bufsh := 512, cmbsh := 16 }, gen := 2, enabled := true } : PenInfo); Posting s ∧
      s.dev.isPf h.fn.val = true ∧ s.dev.pen p.val = some i ∧ s.dev.fw.mode ≠ .init ∧ s.dev.bit (A.PEN_PCTL p.val) 0 = true ∧
      s.dev.bit (A.PEN_STAT p.val) 0 = true ∧ p.val ∉ s.dev.pens.enNew) ∧
    (let r : PenRec := { tPen with func0 := 8, ksbase := 8, bufsh := 256 };
      let s : State := st { pen1Dev with media := { pen1Dev.media with nss := [cns] } }; let h : Hdr := hd; let p : PenN := 1;
      let i : PenInfo := { r := { tPen with func0 := 8, bufsh := 512, cmbsh := 16 }, gen := 2, enabled := true }; Posting s ∧
      s.dev.isPf h.fn.val = true ∧ s.dev.pen p.val = some i ∧ s.dev.fw.mode ≠ .init ∧ s.dev.bit (A.PEN_PCTL p.val) 0 = false ∧
      s.dev.bit (A.PEN_STAT p.val) 1 = false ∧ p.val ∉ s.dev.pens.enNew) ∧
    (let s : State := st ({ nDev with pens := { (nDev).pens with recs := [(0, { r := { tPen with bufsh := 512 }, gen := 1, enabled := true }), (1, { r := { tPen with func0 := 8, bufsh := 512, cmbsh := 16 }, gen := 2, enabled := true })] } });
      let h : Hdr := ({ fn := 3, qid := 0, cid := 7 } : Hdr); let p : PenN := (1 : PenN); let len : Nat := 0;
      let r := { tPen with func0 := 8, ksbase := 8, bufsh := 256 }; let ws := ([] : List Win); let w := (0 : Fin 4); let dst := (3 : FnN);
      let pid := false; let qs := ([] : List QRec); let i := Instr.stopLog ({ fn := 3, qid := 0, cid := 7 } : Hdr) 1;
      let mv : List Nat := [3]; Posting s ∧ TakenUp s.dev ∧ s.dev.isPf h.fn.val = false ∧
      i ∈ [Instr.penManageSet h p len r mv, .penManageGet h p len, .penManageEnable h p, .penManageDisable h p, .startLog h p len ws, .harvest h p len w, .quiesce h p, .readState h p len, .writeState h p dst pid qs, .resume h p, .stopLog h p]) ∧
    (let s : State := st { pen1Dev with media := { pen1Dev.media with nss := [cns] } }; let h : Hdr := hd; let len : Nat := 0;
      let ws := ([] : List Win); let w := (0 : Fin 4); let dst : FnN := 3; let pid := false; let qs := ([] : List QRec);
      let i := Instr.stopLog hd 0; Posting s ∧ TakenUp s.dev ∧ s.dev.isPf h.fn.val = true ∧
      i ∈ [Instr.startLog h 0 len ws, .harvest h 0 len w, .quiesce h 0, .readState h 0 len, .writeState h 0 dst pid qs, .resume h 0, .stopLog h 0]) ∧
    (let s : State := st { pen1Dev with media := { pen1Dev.media with nss := [cns] } }; let h : Hdr := hd; let p : PenN := 1;
      let w0 := ({ hbase := 0x10000, npages := 1000, valid := true } : Win);
      let w1 := ({ hbase := 0, npages := 0, valid := false } : Win); let w2 := ({ hbase := 0, npages := 0, valid := false } : Win);
      let w3 := ({ hbase := 0, npages := 0, valid := false } : Win); let ws := [w0, w1, w2, w3];
      let others := (List.range 256).filter (fun x => x != p.val && s.dev.bit (A.PEN_DLOG_CTL x) 0);
      let pages := ws.foldl (fun n w => if w.valid then n + w.npages else n) 0;
      let places := mapPlaces ws (others.flatMap s.dev.dlogMaps); Posting s ∧ h.fn.val = 0 ∧ p ≠ 0 ∧ s.dev.fw.mode ≠ .init ∧
      (∀ x ∈ ws, x.valid = true → x.hbase % 4096 = 0) ∧ s.dev.bit (A.PEN_DLOG_CTL p.val) 0 = false ∧
      others.foldl (fun n x => n + s.dev.dlogPages x) 0 + pages ≤ 2 ^ 30 ∧ places ≠ none) ∧
    (let s : State := st { pen1Dev with media := { pen1Dev.media with nss := [cns] } }; let h : Hdr := hd; let p : PenN := 1;
      let w0 := ({ hbase := 0x10000, npages := 2 ^ 30 + 1, valid := true } : Win);
      let w1 := ({ hbase := 0, npages := 0, valid := false } : Win); let w2 := ({ hbase := 0, npages := 0, valid := false } : Win);
      let w3 := ({ hbase := 0, npages := 0, valid := false } : Win); let ws := [w0, w1, w2, w3];
      let others := (List.range 256).filter (fun x => x != p.val && s.dev.bit (A.PEN_DLOG_CTL x) 0);
      let pages := ws.foldl (fun n w => if w.valid then n + w.npages else n) 0;
      let places := mapPlaces ws (others.flatMap s.dev.dlogMaps); Posting s ∧ h.fn.val = 0 ∧ p ≠ 0 ∧ s.dev.fw.mode ≠ .init ∧
      (∀ x ∈ ws, x.valid = true → x.hbase % 4096 = 0) ∧ s.dev.bit (A.PEN_DLOG_CTL p.val) 0 = false ∧
      (2 ^ 30 < others.foldl (fun n x => n + s.dev.dlogPages x) 0 + pages ∨ places = none)) ∧
    (let s : State := st ({ (((((({ nDev with pens := { (nDev).pens with recs := [(0, { r := { tPen with bufsh := 512 }, gen := 1, enabled := true }), (1, { r := { tPen with func0 := 8, bufsh := 512, cmbsh := 16 }, gen := 2, enabled := true })] } }).wr64 ((A.PEN_DLOG_CTL 1)) 1)).wr64 ((A.PEN_DLOG_WIN 1 0)) 0x10001)).wr64 ((A.PEN_DLOG_MAP 1 0)) 40) with pens := { ((((((({ nDev with pens := { (nDev).pens with recs := [(0, { r := { tPen with bufsh := 512 }, gen := 1, enabled := true }), (1, { r := { tPen with func0 := 8, bufsh := 512, cmbsh := 16 }, gen := 2, enabled := true })] } }).wr64 ((A.PEN_DLOG_CTL 1)) 1)).wr64 ((A.PEN_DLOG_WIN 1 0)) 0x10001)).wr64 ((A.PEN_DLOG_MAP 1 0)) 40)).pens with started := [1] } });
      let h : Hdr := hd; let p : PenN := (1 : PenN); let len : Nat := 8; let w : Fin 4 := (0 : Fin 4);
      let n := if s.dev.bit (A.PEN_DLOG_WIN p.val w.val) 0 then s.dev.fld (A.PEN_DLOG_MAP p.val w.val) 31 0 else 0; Posting s ∧
      s.dev.isPf h.fn.val = true ∧ p ≠ 0 ∧ s.dev.fw.mode ≠ .init ∧ (n + 31) / 32 * 4 ≤ len ∧ s.dev.rightPort h.fn.val p.val = true ∧
      s.dev.pair.takeover = false ∧ p.val ∈ s.dev.pens.started ∧ NotLogging h.fn s.dev) ∧
    (let s : State := st { pen1Dev with media := { pen1Dev.media with nss := [cns] } }; let h : Hdr := hd; let p : PenN := 1;
      let len : Nat := 0; let w : Fin 4 := (0 : Fin 4);
      let n := if s.dev.bit (A.PEN_DLOG_WIN p.val w.val) 0 then s.dev.fld (A.PEN_DLOG_MAP p.val w.val) 31 0 else 0; Posting s ∧
      s.dev.isPf h.fn.val = true ∧ p ≠ 0 ∧ s.dev.fw.mode ≠ .init ∧ (n + 31) / 32 * 4 ≤ len ∧ s.dev.rightPort h.fn.val p.val = true ∧
      s.dev.pair.takeover = false ∧ p.val ∉ s.dev.pens.started) ∧
    (let s : State := st { pen1Dev with media := { pen1Dev.media with nss := [cns] } }; let h : Hdr := hd; let p : PenN := 1; Posting s ∧
      s.dev.isPf h.fn.val = true ∧ p ≠ 0 ∧ s.dev.fw.mode ≠ .init ∧ p.val ∉ s.dev.pens.started) := by
  refine ⟨?_, ?_, ?_, ?_, ?_, ?_, ?_, ?_, ?_, ?_, ?_, ?_, ?_, ?_, ?_, ?_⟩
  · unfold Posting Running; decide +kernel
  · unfold Posting Running; decide +kernel
  · unfold Posting Running; decide +kernel
  · unfold Posting Running; decide +kernel
  · unfold Posting Running; decide +kernel
  · unfold Posting Running; decide +kernel
  · unfold Posting Running; decide +kernel
  · unfold Posting Running; decide +kernel
  · unfold Posting Running; decide +kernel
  · exact ⟨(by unfold Posting Running; decide +kernel), (by unfold TakenUp; decide +kernel), by decide +kernel, by simp⟩
  · exact ⟨(by unfold Posting Running; decide +kernel), (by unfold TakenUp; decide +kernel), by decide +kernel, by simp⟩
  · unfold Posting Running; decide +kernel
  · unfold Posting Running; decide +kernel
  · unfold NotLogging Posting Running; decide +kernel
  · unfold Posting Running; decide +kernel
  · unfold Posting Running; decide +kernel

theorem test_PenCommands_2_inputs :
    (let s : State := st ({ (((((({ nDev with pens := { (nDev).pens with recs := [(0, { r := { tPen with bufsh := 512 }, gen := 1, enabled := true }), (1, { r := { tPen with func0 := 8, bufsh := 512, cmbsh := 16 }, gen := 2, enabled := true })] } }).wr64 ((A.PEN_DLOG_CTL 1)) 1)).wr64 ((A.PEN_DLOG_WIN 1 0)) 0x10001)).wr64 ((A.PEN_DLOG_MAP 1 0)) 40) with pens := { ((((((({ nDev with pens := { (nDev).pens with recs := [(0, { r := { tPen with bufsh := 512 }, gen := 1, enabled := true }), (1, { r := { tPen with func0 := 8, bufsh := 512, cmbsh := 16 }, gen := 2, enabled := true })] } }).wr64 ((A.PEN_DLOG_CTL 1)) 1)).wr64 ((A.PEN_DLOG_WIN 1 0)) 0x10001)).wr64 ((A.PEN_DLOG_MAP 1 0)) 40)).pens with started := [1] } });
      let h : Hdr := hd; let p : PenN := (1 : PenN); Posting s ∧ s.dev.isPf h.fn.val = true ∧ p ≠ 0 ∧ s.dev.fw.mode ≠ .init ∧
      p.val ∈ s.dev.pens.started ∧ s.dev.wr.entries.any (fun e => e.pen == p.val && e.held && !e.acked) = false ∧
      s.dev.penBusy p.val = false) ∧
    (let s : State := st ({ { { nDev with pens := { (nDev).pens with recs := [(0, { r := { tPen with bufsh := 512 }, gen := 1, enabled := true }), (1, { r := { tPen with func0 := 8, bufsh := 512, cmbsh := 16 }, gen := 2, enabled := true })] } } with pens := { ({ nDev with pens := { (nDev).pens with recs := [(0, { r := { tPen with bufsh := 512 }, gen := 1, enabled := true }), (1, { r := { tPen with func0 := 8, bufsh := 512, cmbsh := 16 }, gen := 2, enabled := true })] } }).pens with started := [1] } } with host := { ({ { nDev with pens := { (nDev).pens with recs := [(0, { r := { tPen with bufsh := 512 }, gen := 1, enabled := true }), (1, { r := { tPen with func0 := 8, bufsh := 512, cmbsh := 16 }, gen := 2, enabled := true })] } } with pens := { ({ nDev with pens := { (nDev).pens with recs := [(0, { r := { tPen with bufsh := 512 }, gen := 1, enabled := true }), (1, { r := { tPen with func0 := 8, bufsh := 512, cmbsh := 16 }, gen := 2, enabled := true })] } }).pens with started := [1] } }).host with fw := [{ h := ({ fn := 3, qid := 0, cid := 7 } : Hdr), q := 0, e := { opc := 2, fused := false, cid := 7, rw := rw 1 0 1, dptr := .prp, eccBad := false }, t0 := 0, admitted := true }] } });
      let h : Hdr := hd; let p : PenN := (1 : PenN); Posting s ∧ s.dev.isPf h.fn.val = true ∧ p ≠ 0 ∧ s.dev.fw.mode ≠ .init ∧
      p.val ∈ s.dev.pens.started ∧ s.dev.wr.entries.any (fun e => e.pen == p.val && e.held && !e.acked) = false ∧
      s.dev.penBusy p.val = true) ∧
    (let s : State := st ((({ nDev with pens := { (nDev).pens with recs := [(0, { r := { tPen with bufsh := 512 }, gen := 1, enabled := true }), (1, { r := { tPen with func0 := 8, bufsh := 512, cmbsh := 16 }, gen := 2, enabled := true })] } }).wr64 ((A.PEN_STAT 1)) 0x11));
      let h : Hdr := hd; let p : PenN := (1 : PenN); let len : Nat := 0;
      let sq := s.dev.host.sqs.filter (fun q => decide (s.dev.penOf q.fn = some p.val) && decide (q.sqid ≠ 0));
      let cq := s.dev.host.cqs.filter (fun q => decide (s.dev.penOf q.fn = some p.val) && decide (q.cqid ≠ 0)); Posting s ∧
      s.dev.isPf h.fn.val = true ∧ p ≠ 0 ∧ s.dev.fw.mode ≠ .init ∧ len = 32 * (sq.length + cq.length) ∧
      s.dev.bit (A.PEN_STAT p.val) 4 = true) ∧
    (let s : State := st { pen1Dev with media := { pen1Dev.media with nss := [cns] } }; let h : Hdr := hd; let p : PenN := 1;
      let len : Nat := 0; let sq := s.dev.host.sqs.filter (fun q => decide (s.dev.penOf q.fn = some p.val) && decide (q.sqid ≠ 0));
      let cq := s.dev.host.cqs.filter (fun q => decide (s.dev.penOf q.fn = some p.val) && decide (q.cqid ≠ 0)); Posting s ∧
      s.dev.isPf h.fn.val = true ∧ p ≠ 0 ∧ s.dev.fw.mode ≠ .init ∧ len = 32 * (sq.length + cq.length) ∧
      s.dev.bit (A.PEN_STAT p.val) 4 = false) ∧
    (let s : State := st { pen1Dev with pens := { pen1Dev.pens with done := [(2001, { h := hd, st := .success, dnr := false, res0 := 0, res1 := 0 })] } };
      let h : Hdr := hd; let p : PenN := 1; let c : Cqe := { h := hd, st := .success, dnr := false, res0 := 0, res1 := 0 }; Posting s ∧
      s.dev.isPf h.fn.val = true ∧ p ≠ 0 ∧ s.dev.fw.mode ≠ .init ∧ (2000 + p.val, c) ∈ s.dev.pens.done ∧ TakenUp s.dev) ∧
    (let s : State := st { pen1Dev with media := { pen1Dev.media with nss := [cns] } }; let h : Hdr := hd; let p : PenN := 1; Posting s ∧
      s.dev.isPf h.fn.val = true ∧ p ≠ 0 ∧ s.dev.fw.mode ≠ .init ∧
      (∀ q, q ∈ s.dev.host.sqs → s.dev.penOf q.fn = some p.val → q.todo = []) ∧ TakenUp s.dev ∧
      (∀ x ∈ s.dev.pens.done, x.1 ≠ 2000 + p.val)) ∧
    (let s : State := st { pen1Dev with host := { pen1Dev.host with sqs := [{ tSq with fn := 3 }] } }; let h : Hdr := hd;
      let p : PenN := 1; let dst : FnN := 3;
      let i : PenInfo := { r := { tPen with func0 := 8, bufsh := 512, cmbsh := 16 }, gen := 2, enabled := true }; Posting s ∧
      s.dev.isPf h.fn.val = true ∧ p ≠ 0 ∧ s.dev.fw.mode ≠ .init ∧ s.dev.pen p.val = some i ∧
      (if s.dev.board.pairId then i.r.func1.getLsbD dst.val else i.r.func0.getLsbD dst.val) = true ∧
      (s.dev.host.sqs.any (fun q => q.fn == dst.val && q.sqid != 0) || s.dev.host.cqs.any (fun q => q.fn == dst.val && q.cqid != 0)) = true) ∧
    (let s : State := st { pen1Dev.wr64 (A.PEN_PCTL 1) 1 with pens := { pen1Dev.pens with enNew := [1] } }; let h : Hdr := hd;
      let p : PenN := 1; let i : PenInfo := { r := { tPen with func0 := 8, bufsh := 512, cmbsh := 16 }, gen := 2, enabled := true };
      let dst : FnN := 3;
      let r : QRec := { qid := 1, cqid := 1, isCq := false, phase := true, vector := 1, base := 0x1000, size := 16, head := 0, tail := 0, inCmb := false, colBound := false };
      let j : Nat := 0; Posting s ∧ s.dev.isPf h.fn.val = true ∧ p ≠ 0 ∧ s.dev.fw.mode ≠ .init ∧ s.dev.pen p.val = some i ∧
      (if s.dev.board.pairId then i.r.func1.getLsbD dst.val else i.r.func0.getLsbD dst.val) = true ∧
      (s.dev.host.sqs.any (fun q => q.fn == dst.val && q.sqid != 0) || s.dev.host.cqs.any (fun q => q.fn == dst.val && q.cqid != 0)) = false ∧
      r.isCq = false ∧ s.dev.freeQ = some j) ∧
    (let s : State := st ((({ nDev with pens := { (nDev).pens with recs := [(1, { r := { tPen with func1 := 8 }, gen := 1, enabled := true })] } }).wr64 (A.PAIR_STAT) 2));
      let h : Hdr := hd; let p : PenN := (1 : PenN); let dst : FnN := (3 : FnN);
      let i := ({ r := { tPen with func1 := 8 }, gen := 1, enabled := true } : PenInfo); Posting s ∧ s.dev.isPf h.fn.val = true ∧ p ≠ 0 ∧
      s.dev.fw.mode ≠ .init ∧ s.dev.pen p.val = some i ∧
      (if s.dev.board.pairId then i.r.func0.getLsbD dst.val else i.r.func1.getLsbD dst.val) = true ∧ s.dev.linkUp = true) := by
  refine ⟨?_, ?_, ?_, ?_, ?_, ?_, ?_, ?_, ?_⟩
  · unfold Posting Running; decide +kernel
  · unfold Posting Running; decide +kernel
  · unfold Posting Running; decide +kernel
  · unfold Posting Running; decide +kernel
  · unfold Posting Running TakenUp; decide +kernel
  · unfold Posting Running TakenUp; decide +kernel
  · unfold Posting Running; decide +kernel
  · unfold Posting Running; decide +kernel
  · unfold Posting Running; decide +kernel

theorem test_PenScheduler_inputs :
    (let s : State := st { pen1Dev with media := { pen1Dev.media with nss := [cns] }, pens := { pen1Dev.pens with moves := [{ nsx := 2, pen := 1, slot := 9, ixs := [] }] } };
      let m : NsMove := { nsx := 2, pen := 1, slot := 9, ixs := [] }; let n := cns; Running s ∧ s.dev.pens.moves = [m] ∧
      s.dev.media.nss = [n] ∧ n.nsx = m.nsx ∧ s.dev.moveReady m = true) ∧
    (let s : State := st { pen1Dev with media := { pen1Dev.media with nss := [cns] }, pens := { pen1Dev.pens with moves := [{ nsx := 2, pen := 1, slot := 9, ixs := [] }] }, host := { pen1Dev.host with reads := [{ h := hd, q := 0, c := rw 3 0 1, nsx := 2, pen := 0, cls := 1, slot := 9, t0 := 0, ids := [4], failed := false }] } };
      let m : NsMove := { nsx := 2, pen := 1, slot := 9, ixs := [] }; let n := cns; Running s ∧ s.dev.pens.moves = [m] ∧
      s.dev.media.nss = [n] ∧ n.nsx = m.nsx ∧ s.dev.moveReady m = false) ∧
    (let s : State := st { pen1Dev with pens := { pen1Dev.pens with fnDrain := [(3, false)] }, host := { pen1Dev.host with sqs := [{ tSq with fn := 3 }] } };
      Running s ∧ s.dev.pens.moves = []) ∧
    (let s : State := st { pen1Dev with media := { pen1Dev.media with nss := [cns] }, pens := { pen1Dev.pens with moves := [{ nsx := 2, pen := 1, slot := 9, ixs := [] }] } };
      Running s ∧ s.dev.pens.episode = false) ∧
    (let s : State := st ({ { nDev with pens := { (nDev).pens with recs := [(0, { r := { tPen with bufsh := 512 }, gen := 1, enabled := true }), (1, { r := { tPen with func0 := 8, bufsh := 512, cmbsh := 16 }, gen := 2, enabled := true })] } } with pens := { ({ nDev with pens := { (nDev).pens with recs := [(0, { r := { tPen with bufsh := 512 }, gen := 1, enabled := true }), (1, { r := { tPen with func0 := 8, bufsh := 512, cmbsh := 16 }, gen := 2, enabled := true })] } }).pens with episode := true, cutPens := [1], keptPens := [0] } });
      Running s ∧ s.dev.pens.episode = true) ∧
    (let e := ({ opc := 2, fused := false, cid := 7, rw := rw 1 0 1, dptr := .prp, eccBad := false } : Sqe);
      let q := { tSq with fn := 3, sqid := 0, inCmb := false, todo := [(0, e)] };
      let s : State := st ({ pen1Dev with host := { pen1Dev.host with sqs := [q] } }.wr64 (A.PEN_PCTL 1) 3); let p : PenN := 1;
      let t0 : Nat := 0; Reach (A.PEN_PCTL p.val) s ∧ TakenUp s.dev ∧ s.dev.host.sqs = [q] ∧ s.dev.penOf q.fn = some p.val ∧ q.fn < 256 ∧
      q.todo = [(t0, e)] ∧ q.sqid = 0 ∧ q.halted = false ∧ ¬ (q.inCmb = true ∧ e.eccBad = true) ∧ s.dev.tor.latch = false) ∧
    (let s : State := st { pen1Dev with media := { pen1Dev.media with nss := [cns] }, pens := { pen1Dev.pens with moves := [{ nsx := 2, pen := 1, slot := 9, ixs := [] }] } };
      let p : PenN := 1; let quiesce := false; Reach (A.PEN_PCTL p.val) s ∧ TakenUp s.dev ∧
      (quiesce = true ∨ (∀ q, q ∈ s.dev.host.sqs → s.dev.penOf q.fn = some p.val → q.todo = []))) ∧
    (let s : State := st ({ { nDev with pens := { (nDev).pens with recs := [(0, { r := { tPen with bufsh := 512 }, gen := 1, enabled := true }), (1, { r := { tPen with func0 := 8, bufsh := 512, cmbsh := 16 }, gen := 2, enabled := true })] } } with host := { ({ nDev with pens := { (nDev).pens with recs := [(0, { r := { tPen with bufsh := 512 }, gen := 1, enabled := true }), (1, { r := { tPen with func0 := 8, bufsh := 512, cmbsh := 16 }, gen := 2, enabled := true })] } }).host with fw := [{ h := ({ fn := 3, qid := 0, cid := 7 } : Hdr), q := 0, e := { opc := 2, fused := false, cid := 7, rw := rw 1 0 1, dptr := .prp, eccBad := false }, t0 := 0, admitted := true }] } });
      let p : PenN := (1 : PenN); Running s ∧ s.dev.penBusy p.val = true ∧
      (∀ x ∈ s.dev.pens.fnDrain, s.dev.penOf x.1 = some p.val → s.dev.fnBusy x.1 = true)) ∧
    (let s : State := st { pen1Dev with pens := { pen1Dev.pens with fnDrain := [(3, false)] }, host := { pen1Dev.host with sqs := [{ tSq with fn := 3 }] } };
      let p : PenN := 1; let x : Nat × Bool := (3, false); Running s ∧ x ∈ s.dev.pens.fnDrain ∧ s.dev.penOf x.1 = some p.val ∧
      s.dev.fnBusy x.1 = false ∧ x.2 = false ∧ x.1 ∉ s.dev.host.en) ∧
    (let s : State := st { pen1Dev with media := { pen1Dev.media with nss := [cns] }, pens := { pen1Dev.pens with moves := [{ nsx := 2, pen := 1, slot := 9, ixs := [] }] } };
      let p : PenN := 1; Running s ∧ s.dev.penBusy p.val = false) ∧
    (let s : State := st { pen1Dev with media := { pen1Dev.media with nss := [cns] }, pens := { pen1Dev.pens with moves := [{ nsx := 2, pen := 1, slot := 9, ixs := [] }] } };
      let p : PenN := 1; Reach (A.PEN_DLOG_CTL p.val) s) := by
  refine ⟨?_, ?_, ?_, ?_, ?_, ?_, ?_, ?_, ?_, ?_, ?_⟩
  · unfold Running; decide +kernel
  · unfold Running; decide +kernel
  · unfold Running; decide +kernel
  · unfold Running; decide +kernel
  · unfold Running; decide +kernel
  · unfold Reach Reaches Running TakenUp; decide +kernel
  · unfold Reach Reaches Running TakenUp; decide +kernel
  · unfold Running; decide +kernel
  · unfold Running; decide +kernel
  · unfold Running; decide +kernel
  · unfold Reach Reaches Running; decide +kernel

theorem test_VendorCommands_inputs :
    (let s : State := st (nDev); let h : Hdr := hd; let seg : Nat := 15; Posting s ∧ s.dev.isPf h.fn.val = true ∧ s.dev.fw.mode ≠ .init ∧
      seg < 16 ∧ (s.dev.fw.mode ≠ .service ∨ s.dev.fw.calValid = true)) ∧
    (let s : State := st ({ nDev with fw := { (nDev).fw with mode := .service, calValid := false } }); let h : Hdr := hd;
      let seg : Nat := 15; Posting s ∧ s.dev.isPf h.fn.val = true ∧ s.dev.fw.mode ≠ .init ∧ seg < 16 ∧ s.dev.fw.mode = .service ∧
      s.dev.fw.calValid = false) ∧
    (let s : State := st ({ nDev with board := { Board.shipped with compat := true } }); let h : Hdr := hd; Posting s ∧
      s.dev.isPf h.fn.val = true ∧ s.dev.fw.mode ≠ .init ∧ s.dev.board.compat = true) ∧
    (let s : State := st ({ nDev with fw := { (nDev).fw with calOpen := true } }); let h : Hdr := hd; let seg : Nat := 15;
      let b := (List.replicate 4096 (7#8) : List Byte); Posting s ∧ s.dev.isPf h.fn.val = true ∧ s.dev.fw.mode ≠ .init ∧ seg < 16 ∧
      b.length = 4096 ∧ s.dev.fw.calOpen = true) ∧
    (let s : State := st ({ nDev with fw := { (nDev).fw with mode := .service, calValid := false } }); let h : Hdr := hd;
      let seg : Nat := 15; let b := (List.replicate 4096 (7#8) : List Byte); Posting s ∧ s.dev.isPf h.fn.val = true ∧
      s.dev.fw.mode ≠ .init ∧ seg < 16 ∧ b.length = 4096 ∧ s.dev.fw.calOpen = false) ∧
    (let s : State := st (nDev); let h : Hdr := hd; let seg : Nat := 15; let b := (List.replicate 4096 (7#8) : List Byte); Posting s ∧
      s.dev.isPf h.fn.val = true ∧ s.dev.fw.mode ≠ .init ∧ seg < 16 ∧ b.length = 4096 ∧ s.dev.fw.mode ≠ .service) ∧
    (let s : State := st ({ nDev with fw := { (nDev).fw with mode := .service, calValid := false } }); let h : Hdr := hd; Service h s ∧
      (s.dev.fw.calOpen = false ∨ s.dev.stagedSet = none)) ∧
    (let s : State := st ({ nDev with fw := { (nDev).fw with mode := .service, calValid := false } }); let h : Hdr := hd;
      let l : Nat := 0; Posting s ∧ s.dev.mayRead h.fn.val l = true) ∧
    (let s : State := st (nDev); let h : Hdr := ({ fn := 3, qid := 0, cid := 7 } : Hdr); let l : Nat := 1; let n : Nat := 1;
      let i := Instr.eventClear ({ fn := 3, qid := 0, cid := 7 } : Hdr) 1; Posting s ∧ s.dev.mayRead h.fn.val l = false ∧
      i ∈ [Instr.eventInfo h l n, .eventRead h l 0 n, .eventClear h l]) ∧
    (let s : State := st ({ nDev with fw := { (nDev).fw with mode := .service, calValid := false } }); let h : Hdr := hd;
      let p : Policy := { Policy.shipped with days := 5 }; Posting s ∧ s.dev.isPf h.fn.val = true ∧ policyOk p = true ∧
      s.dev.fw.mode ≠ .init) ∧
    (let s : State := st ({ nDev with fw := { (nDev).fw with mode := .service, calValid := false } }); let h : Hdr := hd;
      let p : Policy := { Policy.shipped with days := 0 }; Posting s ∧ s.dev.isPf h.fn.val = true ∧ policyOk p = false) ∧
    (let s : State := st ({ nDev with fw := { (nDev).fw with mode := .service, calValid := false } }); let h : Hdr := hd;
      let a : Addr := BitVec.ofNat 40 A.CLK_CTL; Service h s ∧ s.dev.accessErr (.core 0 true) a.toNat false = none ∧
      (regAt a.toNat).isSome = true) ∧
    (let s : State := st ({ nDev with fw := { (nDev).fw with mode := .service, calValid := false } }); let h : Hdr := hd;
      let a : Addr := 0x0200000FF8#40; let e := BusErr.decode; Service h s ∧ s.dev.accessErr (.core 0 true) a.toNat false = some e) ∧
    (let s : State := st ({ nDev with fw := { (nDev).fw with mode := .service, calValid := false } }); let h : Hdr := hd;
      let a : Addr := BitVec.ofNat 40 A.CLK_CTL; Service h s ∧ s.dev.accessErr (.core 0 true) a.toNat true = none ∧
      (regAt a.toNat).isSome = true) ∧
    (let s : State := st ({ nDev with fw := { (nDev).fw with mode := .service, calValid := false } }); let h : Hdr := hd;
      let a : Addr := 0x0200000FF8#40; let e := BusErr.decode; Service h s ∧ s.dev.accessErr (.core 0 true) a.toNat true = some e) ∧
    (let s : State := st ({ nDev with fw := { (nDev).fw with mode := .service, calValid := false } }); let h : Hdr := hd;
      let a : Addr := 0x10000100#40; let len : Nat := 8; let b := (List.replicate 8 (7#8) : List Byte); let hit : Hit := .none;
      Service h s ∧ len ≠ 0 ∧ len % 4 = 0 ∧ len ≤ 1048576 ∧ b.length = len ∧ s.dev.rangeErr s.dev.diagOx a.toNat len false hit = none) := by
  refine ⟨?_, ?_, ?_, ?_, ?_, ?_, ?_, ?_, ?_, ?_, ?_, ?_, ?_, ?_, ?_, ?_⟩
  · unfold Posting Running; decide +kernel
  · unfold Posting Running; decide +kernel
  · unfold Posting Running; decide +kernel
  · unfold Posting Running; decide +kernel
  · unfold Posting Running; decide +kernel
  · unfold Posting Running; decide +kernel
  · unfold Service Posting Running; decide +kernel
  · unfold Posting Running; decide +kernel
  · exact ⟨(by unfold Posting Running; decide +kernel), by decide +kernel, by simp⟩
  · exact ⟨(by unfold Posting Running; decide +kernel), by decide +kernel, by simp [policyOk, limitsOk, Policy.shipped], by decide +kernel⟩
  · unfold Posting Running; decide +kernel
  · unfold Service Posting Running; decide +kernel
  · unfold Service Posting Running; decide +kernel
  · unfold Service Posting Running; decide +kernel
  · unfold Service Posting Running; decide +kernel
  · unfold Service Posting Running; decide +kernel

theorem test_VendorCommands_2_inputs :
    (let s : State := st ({ nDev with fw := { (nDev).fw with mode := .service, calValid := false } }); let h : Hdr := hd;
      let a : Addr := BitVec.ofNat 40 A.CLK_CTL; let len : Nat := 8; let b := (List.replicate 8 (7#8) : List Byte);
      let hit : Hit := .none; let e := ((s.dev.rangeErr s.dev.diagOx a.toNat len false hit).getD (.prot, 0)).1;
      let x := ((s.dev.rangeErr s.dev.diagOx a.toNat len false hit).getD (.prot, 0)).2; Service h s ∧ len ≠ 0 ∧ len % 4 = 0 ∧
      len ≤ 1048576 ∧ b.length = len ∧ s.dev.rangeErr s.dev.diagOx a.toNat len false hit = some (e, x)) ∧
    (let s : State := st ({ nDev with fw := { (nDev).fw with mode := .service, calValid := false } }); let h : Hdr := hd;
      let a : Addr := 0x10000100#40; let len : Nat := 8; let b := (List.replicate 8 (7#8) : List Byte); Service h s ∧ len ≠ 0 ∧
      len % 4 = 0 ∧ len ≤ 1048576 ∧ b.length = len ∧ Clear a.toNat len true s.dev ∧ 0x10000000 ≤ a.toNat ∧ a.toNat + len ≤ 0x11000000 ∧
      NotLogging h.fn s.dev) ∧
    (let s : State := st ({ nDev with fw := { (nDev).fw with mode := .service, calValid := false } }); let h : Hdr := hd;
      let ch : Ch := (5 : Ch); let l : LunN := 0; let op : Fin 16 := (0 : Fin 16); let pblk : Nat := 16383; let page : Nat := 1023;
      let x := MResult.addrRange; Service h s ∧ pblk < 16384 ∧ page < 1024 ∧ s.dev.flashRefusal ch.val l.val op.val = some x ∧ x ≠ .pass) ∧
    (let s : State := st ((List.range 64).foldl (fun d c => ((d.wr64 (A.MULE_CTL c) 1).wr64 (A.MULE_STAT c) 1).wr64 (A.MULE_SEQHDR c 0) ((2 ^ 63 : Nat) : BitVec 64)) (({ nDev with fw := { (nDev).fw with mode := .service } }).wr64 (A.MULE_GEOM 5) 0x38));
      let h : Hdr := hd; let ch : Ch := (5 : Ch); let l : LunN := 0; let op : Fin 16 := (0 : Fin 16); let pblk : Nat := 16383;
      let page : Nat := 1023; Service h s ∧ pblk < 16384 ∧ page < 1024 ∧ s.dev.flashRefusal ch.val l.val op.val = none) ∧
    (let s : State := st ({ nDev with fw := { (nDev).fw with mode := .service, calValid := false } }); let h : Hdr := hd; Service h s ∧
      s.dev.adminWaits h = false) ∧
    (let s : State := st ({ { nDev with fw := { (nDev).fw with mode := .service } } with host := { ({ nDev with fw := { (nDev).fw with mode := .service } }).host with fw := [{ h := { hd with cid := 9 }, q := 4096, e := { opc := 2, fused := false, cid := 9, rw := rw 1 0 1, dptr := .prp, eccBad := false }, t0 := 0, admitted := true }] } });
      let h : Hdr := hd; Service h s ∧ s.dev.adminWaits h = true) ∧
    (let s : State := st (nDev); let h : Hdr := ({ fn := 3, qid := 0, cid := 7 } : Hdr); let a := BitVec.ofNat 40 A.CLK_CTL;
      let len : Nat := 8; let v := 0#32; let b := (List.replicate 4096 (7#8) : List Byte); let ch : Ch := (5 : Ch); let l : LunN := 0;
      let op : Fin 16 := (0 : Fin 16); let rs := ([.busy true] : List SeqResp);
      let i := Instr.abandon ({ fn := 3, qid := 0, cid := 7 } : Hdr); Posting s ∧ s.dev.isPf h.fn.val = false ∧
      i ∈ [Instr.calInfo h len, .calRead h 0 len false, .calOpen h v, .calWrite h 0 b, .calCommit h v, .abandon h, .mediaPolicyGet h len, .regRead h a len, .memRead h a len .none, .memWrite h a b, .flashOp h ch l op 0 0 rs, .serviceDiagReset h]) ∧
    (let s : State := st { nDev with fw := { nDev.fw with mode := .service } }; let h : Hdr := hd; let a : Addr := 0x60000000;
      let len : Nat := 8; let b := (List.replicate 8 7 : List Byte); let hit : Hit := .none;
      let e := ((s.dev.rangeErr s.dev.diagOx a.toNat len false hit).getD (.prot, 0)).1;
      let x := ((s.dev.rangeErr s.dev.diagOx a.toNat len false hit).getD (.prot, 0)).2; Service h s ∧ len ≠ 0 ∧ len % 4 = 0 ∧
      len ≤ 1048576 ∧ b.length = len ∧ s.dev.rangeErr s.dev.diagOx a.toNat len false hit = some (e, x)) := by
  refine ⟨?_, ?_, ?_, ?_, ?_, ?_, ?_, ?_⟩
  · unfold Service Posting Running; decide +kernel
  · unfold Clear NotLogging Service Posting Running; decide +kernel
  · unfold Service Posting Running; decide +kernel
  · unfold Service Posting Running; decide +kernel
  · unfold Service Posting Running; decide +kernel
  · unfold Service Posting Running; decide +kernel
  · exact ⟨(by unfold Posting Running; decide +kernel), by decide +kernel, by simp⟩
  · unfold Service Posting Running; decide +kernel

theorem test_MuleRequests_inputs :
    (let s : State := st ((mDev.wr64 A.PAIR_OWN 0)); let ch : Ch := (5 : Ch); let r : MuleReq := { mReq 0 2 9 with spurOk := true };
      let d0 := s.dev; Running s ∧ TakenUp s.dev ∧ Alone (s.dev.mkReq ch.val r none) s.dev ∧ d0.owned ch.val = false) ∧
    (let s : State := st (mDev); let ch : Ch := (5 : Ch); let r : MuleReq := (mReq 0 2 1000); let d0 := s.dev; Running s ∧ TakenUp s.dev ∧
      Alone (s.dev.mkReq ch.val r none) s.dev ∧ d0.owned ch.val = true ∧ d0.outOfGeom ch.val r.lun.val r = true) ∧
    (let s : State := st ((mDev.setReg (A.MULE_LUN 5 2) 6)); let ch : Ch := (5 : Ch); let r : MuleReq := (mReq 0 2 5); let d0 := s.dev;
      Running s ∧ TakenUp s.dev ∧ Alone (s.dev.mkReq ch.val r none) s.dev ∧ d0.owned ch.val = true ∧
      d0.outOfGeom ch.val r.lun.val r = false ∧ d0.lunOos ch.val r.lun.val = true) ∧
    (let s : State := st (mDev.wr64 A.THERM_STAT 0x10); let ch : Ch := (5 : Ch); let r : MuleReq := (mReq 5 2 5); let d0 := s.dev;
      let flushing := (d0.ploss = true ∧ r.flush = true); Running s ∧ TakenUp s.dev ∧ Alone (s.dev.mkReq ch.val r none) s.dev ∧
      d0.owned ch.val = true ∧ d0.outOfGeom ch.val r.lun.val r = false ∧ d0.lunOos ch.val r.lun.val = false ∧
      d0.isPE ch.val r.op.val = true ∧ d0.fwFlag = true ∧ ¬ flushing) ∧
    (let s : State := st (mDev); let ch : Ch := (5 : Ch); let r : MuleReq := (mReq 0 2 5); let d0 := s.dev; let l := r.lun.val;
      let q := d0.mkReq ch.val r none; Running s ∧ TakenUp s.dev ∧ Alone (s.dev.mkReq ch.val r none) s.dev ∧
      s.dev.refusal ch.val r.lun.val r = none ∧ r.op.val ≠ 9 ∧ LunFree ch.val l d0 ∧ d0.muleGoes ch.val = true ∧
      (d0.isPE ch.val r.op.val = true → d0.mayPE ch.val q = true) ∧
      (d0.opClass ch.val r.op.val = 0 → r.spurOk = true → d0.spurRule ch.val l q = .queue) ∧ SeqValid ch.val r.op.val d0) ∧
    (let s : State := st (mDev); let ch : Ch := (5 : Ch); let r : MuleReq := (mReq 3 2 5); let d0 := s.dev; let l := r.lun.val;
      let q := d0.mkReq ch.val r none; Running s ∧ TakenUp s.dev ∧ Alone (s.dev.mkReq ch.val r none) s.dev ∧
      s.dev.refusal ch.val r.lun.val r = none ∧ r.op.val ≠ 9 ∧ LunFree ch.val l d0 ∧ d0.muleGoes ch.val = true ∧
      (d0.isPE ch.val r.op.val = true → d0.mayPE ch.val q = true) ∧
      (d0.opClass ch.val r.op.val = 0 → r.spurOk = true → d0.spurRule ch.val l q = .queue) ∧ ¬ SeqValid ch.val r.op.val d0) ∧
    (let s : State := st ((mRun 2 2 (mQ 4 5 2 5) mDev)); let ch : Ch := (5 : Ch); let r : MuleReq := (mReq 0 2 5); let d0 := s.dev;
      let l := r.lun.val; Running s ∧ TakenUp s.dev ∧ Alone (s.dev.mkReq ch.val r none) s.dev ∧ s.dev.refusal ch.val r.lun.val r = none ∧
      r.op.val ≠ 9 ∧ (d0.lun ch.val l).run.isSome = true ∧ (d0.opClass ch.val r.op.val = 0 → r.spurOk = false)) ∧
    (let s : State := st (((mRun 2 2 (mQ 4 5 2 5) mDev).wr64 (A.MULE_SUSP_PRG 5) 0x104).wr64 A.COL_SPUR_THR 100); let ch : Ch := (5 : Ch);
      let r : MuleReq := { mReq 0 2 9 with spurOk := true }; let e := (mQ 4 5 2 5); let d0 := s.dev; let l := r.lun.val;
      let q := d0.mkReq ch.val r none; Running s ∧ TakenUp s.dev ∧ Alone (s.dev.mkReq ch.val r none) s.dev ∧
      s.dev.refusal ch.val r.lun.val r = none ∧ r.op.val ≠ 9 ∧ (d0.lun ch.val l).run = some e ∧ d0.opClass ch.val r.op.val = 0 ∧
      r.spurOk = true ∧ d0.spurRule ch.val l q = .suspend ∧ (d0.lun ch.val l).queue = [] ∧ SeqValid ch.val r.op.val d0) ∧
    (let s : State := st { (((mRun 2 2 (mQ 4 5 2 5) (goDev (List.range 16) mDev)).wr64 A.COL_CTL 3).wr64 A.COL_SPUR_THR 100) with mules := { ((((mRun 2 2 (mQ 4 5 2 5) (goDev (List.range 16) mDev)).wr64 A.COL_CTL 3).wr64 A.COL_SPUR_THR 100)).mules with spurBud := 5000 } };
      let ch : Ch := 5; let r : MuleReq := { mReq 0 2 9 with spurOk := true };
      let chs : List Nat := [0, 1, 2, 3, 4, 6, 7, 8, 9, 10, 11, 12, 13, 14]; let d0 := s.dev; let l := r.lun.val;
      let q := d0.mkReq ch.val r none; Running s ∧ TakenUp s.dev ∧ Alone (s.dev.mkReq ch.val r none) s.dev ∧
      s.dev.refusal ch.val r.lun.val r = none ∧ r.op.val ≠ 9 ∧ d0.opClass ch.val r.op.val = 0 ∧ r.spurOk = true ∧
      d0.spurRule ch.val l q = .spur chs ∧
      (∀ c ∈ chs, d0.refusal c l r = none ∧ SeqValid c r.op.val d0 ∧ (d0.lun c l).susp = none ∧ (d0.lun c l).queue = [])) ∧
    (let s : State := st ({ mDev with mules := { (mDev).mules with acc := [(5, ({ row := 3, want := 5, got := 2, p := [], q := [] } : Acc))] } });
      let ch : Ch := (5 : Ch); let row : Nat := 3; let a : Acc := ({ row := 3, want := 5, got := 2, p := [], q := [] } : Acc); Running s ∧
      SMap.find s.dev.mules.acc ch.val = some a ∧ a.row = row ∧ a.got < a.want) ∧
    (let s : State := st { (((mRun 2 2 (mQ 4 5 2 5) (goDev (List.range 16) mDev)).wr64 A.COL_CTL 3).wr64 A.COL_SPUR_THR 100) with mules := { ((((mRun 2 2 (mQ 4 5 2 5) (goDev (List.range 16) mDev)).wr64 A.COL_CTL 3).wr64 A.COL_SPUR_THR 100)).mules with spurBud := 5000 } };
      let ch : Ch := 5; let row : Nat := 3; Running s ∧
      (∀ a, SMap.find s.dev.mules.acc ch.val = some a → ¬ (a.row = row ∧ a.got < a.want))) ∧
    (let s : State := st ((mDev.setLun 5 2 { run := none, susp := some (mQ 4 5 2 5), queue := [], reads := 0, runUs := 0 }));
      let ch : Ch := (5 : Ch); let l : LunN := (2 : LunN); let e := (mQ 4 5 2 5); Running s ∧ TakenUp s.dev ∧
      (s.dev.lun ch.val l.val).susp = some e ∧ (s.dev.lun ch.val l.val).run = none) ∧
    (let s : State := st ((mDev.setLun 5 2 { run := some (mQ 6 0 2 9), susp := some (mQ 4 5 2 5), queue := [], reads := 0, runUs := 0 }));
      let ch : Ch := (5 : Ch); let l : LunN := (2 : LunN); let e := (mQ 4 5 2 5); let x := (mQ 6 0 2 9); Running s ∧ TakenUp s.dev ∧
      (s.dev.lun ch.val l.val).susp = some e ∧ (s.dev.lun ch.val l.val).run = some x) ∧
    (let s : State := st { (((mRun 2 2 (mQ 4 5 2 5) (goDev (List.range 16) mDev)).wr64 A.COL_CTL 3).wr64 A.COL_SPUR_THR 100) with mules := { ((((mRun 2 2 (mQ 4 5 2 5) (goDev (List.range 16) mDev)).wr64 A.COL_CTL 3).wr64 A.COL_SPUR_THR 100)).mules with spurBud := 5000 } };
      let ch : Ch := 5; let l : LunN := (2 : LunN); Running s ∧ TakenUp s.dev ∧ (s.dev.lun ch.val l.val).susp = none) ∧
    (let s : State := st { (((mRun 2 2 (mQ 4 5 2 5) (goDev (List.range 16) mDev)).wr64 A.COL_CTL 3).wr64 A.COL_SPUR_THR 100) with mules := { ((((mRun 2 2 (mQ 4 5 2 5) (goDev (List.range 16) mDev)).wr64 A.COL_CTL 3).wr64 A.COL_SPUR_THR 100)).mules with spurBud := 5000 } };
      let ch : Ch := 5; Reach (A.MULE_CTL ch.val) s ∧ TakenUp s.dev ∧ s.dev.bit (A.MULE_STAT ch.val) 1 = false ∧
      (∀ l, l < 32 → (s.dev.lun ch.val l).queue = [] ∨ ((s.dev.lun ch.val l).susp = none ∧ ∀ q ∈ (s.dev.lun ch.val l).queue, SeqValid ch.val q.r.op.val s.dev))) ∧
    (let s : State := st (mDev.wr64 (A.MULE_STAT 5) 3); let ch : Ch := (5 : Ch); Reach (A.MULE_CTL ch.val) s ∧ TakenUp s.dev ∧
      s.dev.bit (A.MULE_STAT ch.val) 1 = true) := by
  refine ⟨?_, ?_, ?_, ?_, ?_, ?_, ?_, ?_, ?_, ?_, ?_, ?_, ?_, ?_, ?_, ?_⟩
  · unfold Alone Running TakenUp; decide +kernel
  · unfold Alone Running TakenUp; decide +kernel
  · unfold Alone Running TakenUp; decide +kernel
  · unfold Alone Running TakenUp; decide +kernel
  · unfold Alone LunFree Running SeqValid TakenUp; decide +kernel
  · unfold Alone LunFree Running SeqValid TakenUp; decide +kernel
  · unfold Alone Running TakenUp; decide +kernel
  · unfold Alone Running SeqValid TakenUp; decide +kernel
  · unfold Alone Running SeqValid TakenUp; decide +kernel
  · unfold Running; decide +kernel
  · unfold Running; decide +kernel
  · unfold Running TakenUp; decide +kernel
  · unfold Running TakenUp; decide +kernel
  · unfold Running TakenUp; decide +kernel
  · unfold Reach Reaches Running SeqValid TakenUp; decide +kernel
  · unfold Reach Reaches Running TakenUp; decide +kernel

theorem test_MuleRequests_2_inputs :
    (let s : State := st { (((mRun 2 2 (mQ 4 5 2 5) (goDev (List.range 16) mDev)).wr64 A.COL_CTL 3).wr64 A.COL_SPUR_THR 100) with mules := { ((((mRun 2 2 (mQ 4 5 2 5) (goDev (List.range 16) mDev)).wr64 A.COL_CTL 3).wr64 A.COL_SPUR_THR 100)).mules with spurBud := 5000 } };
      let ch : Ch := 5; Reach (A.MULE_TBL_DATA ch.val) s) := by
  unfold Reach Reaches Running; decide +kernel

theorem test_MuleEnds_inputs :
    (let s : State := st (mDev); let ch : Ch := (5 : Ch); let l : LunN := (2 : LunN); Running s ∧ (s.dev.lun ch.val l.val).run = none) ∧
    (let s : State := st ((mRun 2 1 (mQ 4 0 2 5) mDev)); let ch : Ch := (5 : Ch); let l : LunN := (2 : LunN); let us : Nat := 9;
      let q := (mQ 4 0 2 5); let res := MResult.pass;
      let w := (match mDev.walkOf 5 (mQ 4 0 2 5) [.din [{ cwR with iters := 4, corr := 7 }]] with | .done _ w => w | .waits w => w);
      let i := (Instr.muleSequenceEnd 5 2 [.din [{ cwR with iters := 4, corr := 7 }]] 9); let d0 := s.dev;
      let cls := d0.opClass ch.val q.r.op.val; Running s ∧ TakenUp s.dev ∧ (∀ k, k < 32 → (s.dev.lun ch.val k).queue = []) ∧
      Ends ch l q res w us i s.dev ∧ LunRuns ch.val l.val q s.dev ∧ Settled ch.val s.dev ∧ Alone q s.dev ∧ q.r.op.val ≠ 9 ∧
      res ≠ .timeout ∧ cls ≠ 1 ∧ cls ≠ 2) ∧
    (let j : FoldJob := { copy := { nsx := 0, lba := 0, secs := [sec0 0], burst := true, lost := false, row := rowKey true 128 5, unit := 21 }, pages := 1, passed := [(0, 0, 3)] };
      let s : State := st { mRun 2 2 (mQ 4 5 2 5) mDev with wr := { mDev.wr with foldJobs := [{ copy := { nsx := 0, lba := 0, secs := [sec0 0], burst := true, lost := false, row := rowKey true 128 5, unit := 21 }, pages := 1, passed := [(0, 0, 3)] }], entries := [{ tEnt with acked := true, zoned := true, secs := [sec0 0] }] } };
      let ch : Ch := (5 : Ch); let l : LunN := (2 : LunN); let q := (mQ 4 5 2 5); let res := MResult.pass;
      let w := (match mDev.walkOf 5 (mQ 4 5 2 5) [.stat 0] with | .done _ w => w | .waits w => w); let us : Nat := 9;
      let i := (Instr.muleSequenceEnd 5 2 [.stat 0] 9); let d0 := s.dev; let cls := d0.opClass ch.val q.r.op.val; Running s ∧
      TakenUp s.dev ∧ (∀ k, k < 32 → (s.dev.lun ch.val k).queue = []) ∧ Ends ch l q res w us i s.dev ∧ LunRuns ch.val l.val q s.dev ∧
      Settled ch.val s.dev ∧ Alone q s.dev ∧ q.r.op.val ≠ 9 ∧ res = .pass ∧ cls = 1 ∧ d0.wr.foldJobs = [j] ∧
      d0.spareOn ch.val l.val q.r.lbn = false ∧ d0.jobOn j ch.val l.val q.r.lbn = true ∧ j.copy.unit / 7 ≤ q.r.page ∧
      q.r.page < j.copy.unit / 7 + j.pages ∧ (ch.val, l.val, q.r.page) ∉ j.passed ∧ j.passed.length + 1 < 8 * j.pages) ∧
    (let j : FoldJob := { copy := { nsx := 0, lba := 0, secs := [sec0 0], burst := true, lost := false, row := rowKey true 128 5, unit := 21 }, pages := 1, passed := (List.range 7).map (fun i => (i, 0, 3)) };
      let s : State := st { mRun 2 2 (mQ 4 5 2 5) mDev with wr := { mDev.wr with foldJobs := [{ copy := { nsx := 0, lba := 0, secs := [sec0 0], burst := true, lost := false, row := rowKey true 128 5, unit := 21 }, pages := 1, passed := (List.range 7).map (fun i => (i, 0, 3)) }], entries := [{ tEnt with acked := true, zoned := true, secs := [sec0 0] }] } };
      let ch : Ch := (5 : Ch); let l : LunN := (2 : LunN); let q := (mQ 4 5 2 5); let res := MResult.pass;
      let w := (match mDev.walkOf 5 (mQ 4 5 2 5) [.stat 0] with | .done _ w => w | .waits w => w); let us : Nat := 9;
      let i := (Instr.muleSequenceEnd 5 2 [.stat 0] 9); let d0 := s.dev; let cls := d0.opClass ch.val q.r.op.val; Running s ∧
      TakenUp s.dev ∧ (∀ k, k < 32 → (s.dev.lun ch.val k).queue = []) ∧ Ends ch l q res w us i s.dev ∧ LunRuns ch.val l.val q s.dev ∧
      Settled ch.val s.dev ∧ Alone q s.dev ∧ q.r.op.val ≠ 9 ∧ res = .pass ∧ cls = 1 ∧ d0.wr.foldJobs = [j] ∧
      d0.spareOn ch.val l.val q.r.lbn = false ∧ d0.jobOn j ch.val l.val q.r.lbn = true ∧ j.copy.unit / 7 ≤ q.r.page ∧
      q.r.page < j.copy.unit / 7 + j.pages ∧ (ch.val, l.val, q.r.page) ∉ j.passed ∧ 8 * j.pages ≤ j.passed.length + 1 ∧ d0.tees = false ∧
      (∀ k x, j.copy.secs[k]? = some x → d0.latest j.copy.nsx (j.copy.lba + k) = some x)) ∧
    (let s : State := st ((mRun 2 3 (mQ 4 7 2 5) mDev)); let ch : Ch := (5 : Ch); let l : LunN := (2 : LunN); let q := (mQ 4 7 2 5);
      let res := MResult.pass; let w := Walk.zero; let us : Nat := 9; let i := (Instr.muleSequenceEnd 5 2 [] 9); let d0 := s.dev;
      let cls := d0.opClass ch.val q.r.op.val; Running s ∧ TakenUp s.dev ∧ (∀ k, k < 32 → (s.dev.lun ch.val k).queue = []) ∧
      Ends ch l q res w us i s.dev ∧ LunRuns ch.val l.val q s.dev ∧ Settled ch.val s.dev ∧ Alone q s.dev ∧ q.r.op.val ≠ 9 ∧ res = .pass ∧
      cls = 2 ∧ d0.wr.waiting = [] ∧ d0.wr.opens = []) ∧
    (let s : State := st ((mRun 2 2 (mQ 4 5 2 5) mDev)); let ch : Ch := (5 : Ch); let l : LunN := (2 : LunN); let q := (mQ 4 5 2 5);
      let res := MResult.fail; let w := (match mDev.walkOf 5 (mQ 4 5 2 5) [.stat 1] with | .done _ w => w | .waits w => w);
      let us : Nat := 9; let i := (Instr.muleSequenceEnd 5 2 [.stat 1] 9); let d0 := s.dev; let cls := d0.opClass ch.val q.r.op.val;
      Running s ∧ TakenUp s.dev ∧ (∀ k, k < 32 → (s.dev.lun ch.val k).queue = []) ∧ Ends ch l q res w us i s.dev ∧
      LunRuns ch.val l.val q s.dev ∧ Settled ch.val s.dev ∧ Alone q s.dev ∧ q.r.op.val ≠ 9 ∧ res = .fail ∧ cls = 1) ∧
    (let s : State := st ((mRun 2 2 (mQ 4 5 2 5) mDev)); let ch : Ch := (5 : Ch); let l : LunN := (2 : LunN); let q := (mQ 4 5 2 5);
      let res := MResult.timeout; let w := Walk.zero; let us : Nat := 0; let i := (Instr.busyTimeout 5 2); let d0 := s.dev; Running s ∧
      TakenUp s.dev ∧ (∀ k, k < 32 → (s.dev.lun ch.val k).queue = []) ∧ Ends ch l q res w us i s.dev ∧ LunRuns ch.val l.val q s.dev ∧
      Settled ch.val s.dev ∧ Alone q s.dev ∧ q.r.op.val ≠ 9 ∧ res = .timeout ∧ SeqValid ch.val 9 d0) ∧
    (let s : State := st ((mRun 2 1 (mQ 4 9 2 5) mDev)); let ch : Ch := (5 : Ch); let l : LunN := (2 : LunN); let q := (mQ 4 9 2 5);
      let w := Walk.zero; let us : Nat := 0; let i := (Instr.busyTimeout 5 2); Running s ∧ TakenUp s.dev ∧
      (∀ k, k < 32 → (s.dev.lun ch.val k).queue = []) ∧ Ends ch l q .timeout w us i s.dev ∧ LunRuns ch.val l.val q s.dev ∧
      Settled ch.val s.dev ∧ Alone q s.dev ∧ q.r.op.val = 9) ∧
    (let s : State := st ((mDev.setLun 5 2 { run := some (mQ 6 0 2 9), susp := some (mQ 4 5 2 5), queue := [], reads := 0, runUs := 0 }));
      let ch : Ch := (5 : Ch); let l : LunN := (2 : LunN); let q := (mQ 6 0 2 9); let e := (mQ 4 5 2 5); let res := MResult.pass;
      let w := (match mDev.walkOf 5 (mQ 4 0 2 5) [.din [{ cwR with iters := 4, corr := 7 }]] with | .done _ w => w | .waits w => w);
      let us : Nat := 9; let i := (Instr.muleSequenceEnd 5 2 [.din [{ cwR with iters := 4, corr := 7 }]] 9); Running s ∧ TakenUp s.dev ∧
      (∀ k, k < 32 → (s.dev.lun ch.val k).queue = []) ∧ Ends ch l q res w us i s.dev ∧ res ≠ .timeout ∧
      (s.dev.lun ch.val l.val).run = some q ∧ (s.dev.lun ch.val l.val).susp = some e ∧ Settled ch.val s.dev ∧ Alone q s.dev ∧
      q.r.op.val ≠ 9 ∧ s.dev.opClass ch.val q.r.op.val = 0) ∧
    (let s : State := st (mDev); let ch : Ch := (5 : Ch); let l : LunN := (2 : LunN); Running s ∧ TakenUp s.dev ∧
      s.dev.refusal ch.val l.val (s.dev.op9 l.val).r = none ∧ s.dev.muleGoes ch.val = true ∧ SeqValid ch.val 9 s.dev ∧
      (s.dev.lun ch.val l.val).run = none ∧ (s.dev.lun ch.val l.val).susp = none) ∧
    (let s : State := st { mRun 2 2 (mQ 4 5 2 5) mDev with wr := { mDev.wr with foldJobs := [{ copy := { nsx := 0, lba := 0, secs := [sec0 0], burst := true, lost := false, row := rowKey true 128 5, unit := 21 }, pages := 1, passed := [(0, 0, 3)] }], entries := [{ tEnt with acked := true, zoned := true, secs := [sec0 0] }] } };
      let ch : Ch := (5 : Ch); let l : LunN := (2 : LunN); let e := (mQ 4 5 2 5); Running s ∧ TakenUp s.dev ∧
      s.dev.refusal ch.val l.val (s.dev.op9 l.val).r = none ∧ s.dev.muleGoes ch.val = true ∧ SeqValid ch.val 9 s.dev ∧
      (s.dev.lun ch.val l.val).run = some e ∧ (s.dev.lun ch.val l.val).susp = none ∧ s.dev.isPE ch.val e.r.op.val = true ∧ Alone e s.dev) ∧
    (let s : State := st ((mDev.setReg (A.MULE_LUN 5 2) 6)); let ch : Ch := (5 : Ch); let l : LunN := (2 : LunN);
      Reach (A.MULE_LUN ch.val l.val) s ∧ TakenUp s.dev ∧ s.dev.lunOos ch.val l.val = true ∧ LunFree ch.val l.val s.dev) ∧
    (let s : State := st ((mRun 2 1 (mQ 4 0 2 5) mDev)); let ch : Ch := (5 : Ch); let l : LunN := (2 : LunN);
      Reach (A.MULE_LUN ch.val l.val) s ∧ TakenUp s.dev ∧ s.dev.lunOos ch.val l.val = false) ∧
    (let s : State := st ((mRun 2 1 (mQ 4 0 2 5) mDev)); let ch : Ch := (5 : Ch); let l : LunN := (2 : LunN);
      let k := ch.val * 32 + l.val; Running s ∧ TakenUp s.dev ∧ SMap.find s.dev.media.oos k = none) ∧
    (let s : State := st ({ (mDev.setReg (A.MULE_LUN 5 2) 6) with media := { ((mDev.setReg (A.MULE_LUN 5 2) 6)).media with oos := [(162, 1)] } });
      let ch : Ch := (5 : Ch); let l : LunN := (2 : LunN); let n : Nat := 1; let k := ch.val * 32 + l.val; Running s ∧ TakenUp s.dev ∧
      SMap.find s.dev.media.oos k = some n ∧ LunFree ch.val l.val s.dev) ∧
    (let s : State := st ({ (mDev.setReg (A.MULE_LUN 5 2) 6) with media := { ((mDev.setReg (A.MULE_LUN 5 2) 6)).media with oos := [(162, 1)] } });
      let ch : Ch := (5 : Ch); let l : LunN := (2 : LunN); let n : Nat := 1; let k := ch.val * 32 + l.val; Running s ∧ TakenUp s.dev ∧
      SMap.find s.dev.media.oos k = some n ∧ n < 2) := by
  refine ⟨?_, ?_, ?_, ?_, ?_, ?_, ?_, ?_, ?_, ?_, ?_, ?_, ?_, ?_, ?_, ?_⟩
  · unfold Running; decide +kernel
  · exact ⟨(by unfold Running; decide +kernel), (by unfold TakenUp; decide +kernel), by decide +kernel, Or.inl ⟨_, rfl, by decide +kernel⟩, (by unfold LunRuns; decide +kernel), (by unfold Settled; decide +kernel), (by unfold Alone; decide +kernel), by decide +kernel, by decide +kernel, by decide +kernel, by decide +kernel⟩
  · exact ⟨(by unfold Running; decide +kernel), (by unfold TakenUp; decide +kernel), by decide +kernel, Or.inl ⟨_, rfl, by decide +kernel⟩, (by unfold LunRuns; decide +kernel), (by unfold Settled; decide +kernel), (by unfold Alone; decide +kernel), by decide +kernel, by decide +kernel, by decide +kernel, by decide +kernel, by decide +kernel, by decide +kernel, by decide +kernel, by decide +kernel, by decide +kernel, by decide +kernel⟩
  · exact ⟨(by unfold Running; decide +kernel), (by unfold TakenUp; decide +kernel), by decide +kernel, Or.inl ⟨_, rfl, by decide +kernel⟩, (by unfold LunRuns; decide +kernel), (by unfold Settled; decide +kernel), (by unfold Alone; decide +kernel), by decide +kernel, by decide +kernel, by decide +kernel, by decide +kernel, by decide +kernel, by decide +kernel, by decide +kernel, by decide +kernel, by decide +kernel, by decide +kernel, by decide +kernel, one_get (by decide +kernel)⟩
  · exact ⟨(by unfold Running; decide +kernel), (by unfold TakenUp; decide +kernel), by decide +kernel, Or.inl ⟨_, rfl, by decide +kernel⟩, (by unfold LunRuns; decide +kernel), (by unfold Settled; decide +kernel), (by unfold Alone; decide +kernel), by decide +kernel, by decide +kernel, by decide +kernel, by decide +kernel, by decide +kernel⟩
  · exact ⟨(by unfold Running; decide +kernel), (by unfold TakenUp; decide +kernel), by decide +kernel, Or.inl ⟨_, rfl, by decide +kernel⟩, (by unfold LunRuns; decide +kernel), (by unfold Settled; decide +kernel), (by unfold Alone; decide +kernel), by decide +kernel, by decide +kernel, by decide +kernel⟩
  · exact ⟨(by unfold Running; decide +kernel), (by unfold TakenUp; decide +kernel), by decide +kernel, Or.inr ⟨rfl, rfl, rfl, rfl⟩, (by unfold LunRuns; decide +kernel), (by unfold Settled; decide +kernel), (by unfold Alone; decide +kernel), by decide +kernel, by decide +kernel, (by unfold SeqValid; decide +kernel)⟩
  · exact ⟨(by unfold Running; decide +kernel), (by unfold TakenUp; decide +kernel), by decide +kernel, Or.inr ⟨rfl, rfl, rfl, rfl⟩, (by unfold LunRuns; decide +kernel), (by unfold Settled; decide +kernel), (by unfold Alone; decide +kernel), by decide +kernel⟩
  · exact ⟨(by unfold Running; decide +kernel), (by unfold TakenUp; decide +kernel), by decide +kernel, Or.inl ⟨_, rfl, by decide +kernel⟩, by decide +kernel, by decide +kernel, by decide +kernel, (by unfold Settled; decide +kernel), (by unfold Alone; decide +kernel), by decide +kernel, by decide +kernel⟩
  · unfold Running SeqValid TakenUp; decide +kernel
  · unfold Alone Running SeqValid TakenUp; decide +kernel
  · unfold LunFree Reach Reaches Running TakenUp; decide +kernel
  · unfold Reach Reaches Running TakenUp; decide +kernel
  · unfold Running TakenUp; decide +kernel
  · unfold LunFree Running TakenUp; decide +kernel
  · unfold Running TakenUp; decide +kernel

theorem test_MuleEnds_2_inputs :
    (let s : State := st ({ (mDev.setReg (A.MULE_LUN 5 2) 6) with media := { ((mDev.setReg (A.MULE_LUN 5 2) 6)).media with oos := [(162, 2)] } });
      let ch : Ch := (5 : Ch); let l : LunN := (2 : LunN); let n : Nat := 2; let k := ch.val * 32 + l.val; Running s ∧ TakenUp s.dev ∧
      SMap.find s.dev.media.oos k = some n ∧ 2 ≤ n) ∧
    (let s : State := st ((mRun 2 1 (mQ 4 0 2 5) mDev)); let ch : Ch := (5 : Ch); let l : LunN := (2 : LunN);
      let rs := ([] : List SeqResp); let q := (mQ 4 0 2 5); Running s ∧ (s.dev.lun ch.val l.val).run = some q ∧
      (∃ w, s.dev.walkOf ch.val q rs = .waits w)) := by
  refine ⟨?_, ?_⟩
  · unfold Running TakenUp; decide +kernel
  · exact ⟨by unfold Running; decide +kernel, by decide +kernel, ex_waits (by decide +kernel)⟩

theorem test_Placement_inputs :
    (let seven : Bool := false; let o : Nat := 17; o < zcap seven ∧ seven = false) ∧
    (let seven : Bool := false; let o : Nat := 17; let p : Nat := 17; o < zcap seven ∧ p < zcap seven ∧ locate seven o = locate seven p) ∧
    (let seven : Bool := false; let o : Nat := 17; let p : Nat := 17; let d : Dev := tDev; let g : Nat := 5; let b : Nat := 9;
      o < zcap seven ∧ p < zcap seven ∧ d.zoneKey seven g b o = d.zoneKey seven g b p) ∧
    (let seven : Bool := false; let T : Nat := 8; let L : Nat := 4; let g : Nat := 5; let p : Nat := 1; let q : Nat := 1; 0 < T ∧ 0 < L ∧
      g < groupCount seven T L ∧ p < members seven ∧ q < members seven ∧ (memberOf seven T g p).1 = (memberOf seven T g q).1) := by
  refine ⟨?_, ?_, ?_, ?_⟩
  · decide +kernel
  · decide +kernel
  · exact ⟨by decide +kernel, by decide +kernel, rfl⟩
  · decide +kernel

theorem test_MediaWork_inputs :
    (let s : State := st { nDev with media := { nDev.media with nss := [{ zns with nzones := 3 }], rows := [(rowKey false 0 12, { wear := 0, tfSum := 0, tfN := 0, age := 3, cls := 2, swept := false, meas := 0, sweepMean := 0, hot := false, unknown := true, inPass := false })], pool14 := [{ seven := false, group := 0, lbn := 21, wear := 400, dirty := false }, { seven := false, group := 0, lbn := 22, wear := 0, dirty := false }] } };
      let group : Nat := 0; let lbn : Nat := 10; let seven := false; Running s ∧ lbn < 16384 ∧ group < 512 ∧
      s.dev.goatTakes (rowKey seven group lbn) = false) ∧
    (let s : State := st { nDev with media := { nDev.media with rows := [(rowKey false 0 10, { wear := 0, tfSum := 0, tfN := 0, age := 3, cls := 2, swept := false, meas := 0, sweepMean := 0, hot := false, unknown := false, inPass := false })] } };
      let group : Nat := 0; let lbn : Nat := 10; let seven := false; let best : Nat := 5; let finds := ([] : List GoatFind);
      let i : RowInfo := { wear := 0, tfSum := 0, tfN := 0, age := 3, cls := 2, swept := false, meas := 0, sweepMean := 0, hot := false, unknown := false, inPass := false };
      Running s ∧ lbn < 16384 ∧ group < 512 ∧ s.dev.goatTakes (rowKey seven group lbn) = true ∧
      SMap.find s.dev.media.rows (rowKey seven group lbn) = some i ∧ finds.any goatBad = false ∧ best < 12) ∧
    (let plane : Fin 4 := 1; let s : State := st { nDev with media := { nDev.media with finds := [(blkKey 5 2 1 10, .progFail, 0)] } };
      let lbn : Nat := 10; let group : Nat := 0; let seven := false; let best : Nat := 5;
      let finds := [({ pos := 3, plane := 1, depth := 4, soft := true, uncorr := false } : GoatFind)]; let ix : Nat := 0; let n := zns;
      Running s ∧ lbn < 16384 ∧ group < 512 ∧ (finds.any goatBad = true ∨ 12 ≤ best) ∧ s.dev.goatTakes (rowKey seven group lbn) = true ∧
      s.dev.zoneAt seven group lbn = some ix ∧ s.dev.media.nss.find? (fun x => x.nsx == (s.dev.zd ix).nsx) = some n ∧ n.zoned = true) ∧
    (let s : State := st { uDev with media := { uDev.media with units := [(unitKey 2 3, 5)], curUnit := [(gcKey 2, 4 * 2 ^ 18)], conv := [(2 * 2 ^ 40 + 9, { unit := 3, sec := { sec0 9 with nsx := 2 } })] } };
      Running s) ∧
    (let s : State := st (nDev.wr64 A.THERM_STAT 0x10); let nsid : Nat := 1; let n := zns; Running s ∧ s.dev.nsOf nsid = some n ∧
      (s.dev.fwFlag = true ∨ s.dev.tor.latch = true)) ∧
    (let x := { dirtyRow with lbn := 21, wear := 5 }; let r := dirtyRow;
      let s : State := st { nDev with media := { nDev.media with pool14 := [dirtyRow, x] } }; let nsid : Nat := 1; let zone : Nat := 0;
      let n := zns; let ix := n.base + zone; let z := s.dev.zd ix; Running s ∧ s.dev.nsOf nsid = some n ∧ s.dev.fwFlag = false ∧
      s.dev.tor.latch = false ∧ n.zoned = true ∧ zone < n.nzones ∧ (z.active = true ∨ z.st = zFull ∨ z.st = zRO) ∧
      s.dev.media.relocs.any (fun x => !x.conv && x.zone == ix) = false ∧ s.dev.wr.groups.any (fun g => g.ix == ix && !g.failed) = false ∧
      s.dev.bestRow z.seven z.nsx = some r ∧
      (s.dev.emptyAt (s.dev.homeOf z.nsx) z.seven).length < (s.dev.poolAt (s.dev.homeOf z.nsx) z.seven).length ∧ r.stale = true) ∧
    (let x := { dirtyRow with lbn := 21, wear := 5 }; let r := { dirtyRow with dirty := false };
      let s : State := st { nDev with media := { nDev.media with pool14 := [r, x] } }; let nsid : Nat := 1; let zone : Nat := 0;
      let n := zns; let ix := n.base + zone; let z := s.dev.zd ix; Running s ∧ s.dev.nsOf nsid = some n ∧ s.dev.fwFlag = false ∧
      s.dev.tor.latch = false ∧ n.zoned = true ∧ zone < n.nzones ∧ (z.active = true ∨ z.st = zFull ∨ z.st = zRO) ∧
      s.dev.media.relocs.any (fun x => !x.conv && x.zone == ix) = false ∧ s.dev.wr.groups.any (fun g => g.ix == ix && !g.failed) = false ∧
      s.dev.bestRow z.seven z.nsx = some r ∧
      (s.dev.emptyAt (s.dev.homeOf z.nsx) z.seven).length < (s.dev.poolAt (s.dev.homeOf z.nsx) z.seven).length ∧ r.stale = false) ∧
    (let s : State := st { uDev with media := { uDev.media with units := [(unitKey 2 3, 5)], curUnit := [(gcKey 2, 4 * 2 ^ 18)], conv := [(2 * 2 ^ 40 + 9, { unit := 3, sec := { sec0 9 with nsx := 2 } })] } };
      let nsid : Nat := 3; let zone : Nat := 3; let n := cns; let p : Nat := 4 * 2 ^ 18; Running s ∧ s.dev.nsOf nsid = some n ∧
      s.dev.fwFlag = false ∧ s.dev.tor.latch = false ∧ n.zoned = false ∧ s.dev.unitMoves n.nsx zone = false ∧
      (SMap.find s.dev.media.units (unitKey n.nsx zone)).isSome = true ∧ SMap.find s.dev.media.curUnit (gcKey n.nsx) = some p ∧
      p % 2 ^ 18 + (s.dev.unitSectors n.nsx zone).length ≤ 229376) ∧
    (let s : State := st { uDev with media := { uDev.media with units := [(unitKey 2 3, 5)], curUnit := [(gcKey 2, 4 * 2 ^ 18)], conv := [(2 * 2 ^ 40 + 9, { unit := 3, sec := { sec0 9 with nsx := 2 } })] } };
      let nsid : Nat := 3; let n := cns; Running s ∧ s.dev.nsOf nsid = some n ∧
      (n.zoned = true ∨ n.reserve ≤ 2 * n.freeRu ∨ s.dev.fwFlag = true ∨ s.dev.tor.latch = true)) ∧
    (let s : State := st { nDev with media := { nDev.media with nss := [zns, { cns with freeRu := 1 }], units := [(unitKey 2 3, 5), (unitKey 2 5, 100)], curUnit := [(gcKey 2, 4 * 2 ^ 18)], conv := [(2 * 2 ^ 40 + 9, { unit := 3, sec := { sec0 9 with nsx := 2 } })] } };
      let nsid : Nat := 3; let n := { cns with freeRu := 1 }; let u : Nat := 3; let v : Nat := 5; let p : Nat := 4 * 2 ^ 18;
      let e : Nat × Nat := (unitKey 2 5, 100); Running s ∧ s.dev.nsOf nsid = some n ∧ n.zoned = false ∧ 2 * n.freeRu < n.reserve ∧
      s.dev.fwFlag = false ∧ s.dev.tor.latch = false ∧ s.dev.victimUnit n.nsx = some (u, v) ∧
      (SMap.find s.dev.media.units (unitKey n.nsx u)).isSome = true ∧ SMap.find s.dev.media.curUnit (gcKey n.nsx) = some p ∧
      p % 2 ^ 18 + (s.dev.unitSectors n.nsx u).length ≤ 229376 ∧ e ∈ s.dev.media.units ∧ e.1 / 2 ^ 21 = n.nsx ∧
      e.1 % 2 ^ 21 ≠ p / 2 ^ 18 ∧ e.1 % 2 ^ 21 ∉ s.dev.curUnits n.nsx ∧ s.dev.unitMoves n.nsx (e.1 % 2 ^ 21) = false) ∧
    (let s : State := st { uDev with media := { uDev.media with units := [(unitKey 2 3, 5)], curUnit := [(gcKey 2, 4 * 2 ^ 18)], conv := [(2 * 2 ^ 40 + 9, { unit := 3, sec := { sec0 9 with nsx := 2 } })] } };
      let ch : Ch := 5; let ws := s.dev.chWear ch.val; let spread := ws.foldl Nat.max 0 - ws.foldl Nat.min (ws.foldl Nat.max 0);
      let rated := s.dev.board.ratedQlc * s.dev.board.ratedSlc; Running s ∧
      (10 * spread ≤ rated ∨ s.dev.fwFlag = true ∨ s.dev.tor.latch = true)) ∧
    (let r : Row := { seven := false, group := 0, lbn := 21, wear := 400, dirty := false };
      let x : Row := { seven := false, group := 0, lbn := 22, wear := 0, dirty := false };
      let s : State := st { nDev with media := { nDev.media with nss := [{ zns with nzones := 3 }], rows := [(rowKey false 0 12, { wear := 0, tfSum := 0, tfN := 0, age := 3, cls := 2, swept := false, meas := 0, sweepMean := 0, hot := false, unknown := true, inPass := false })], pool14 := [{ seven := false, group := 0, lbn := 21, wear := 400, dirty := false }, { seven := false, group := 0, lbn := 22, wear := 0, dirty := false }] } };
      let ch : Ch := 5; let ix : Nat := 2; let ws := s.dev.chWear ch.val;
      let spread := ws.foldl Nat.max 0 - ws.foldl Nat.min (ws.foldl Nat.max 0); let rated := s.dev.board.ratedQlc * s.dev.board.ratedSlc;
      Running s ∧ rated < 10 * spread ∧ s.dev.fwFlag = false ∧ s.dev.tor.latch = false ∧ s.dev.coldest ch.val = some ix ∧
      s.dev.coldUnit ch.val = none ∧ s.dev.copyable ix = true ∧ s.dev.worstRow (s.dev.zd ix).seven (s.dev.zd ix).nsx = some r ∧
      (s.dev.emptyAt (s.dev.homeOf (s.dev.zd ix).nsx) (s.dev.zd ix).seven).length < (s.dev.poolAt (s.dev.homeOf (s.dev.zd ix).nsx) (s.dev.zd ix).seven).length ∧
      x ∈ s.dev.rowsFor (s.dev.zd ix).seven (s.dev.zd ix).nsx) ∧
    (let r : Row := { seven := false, group := 0, lbn := 21, wear := 400, dirty := false };
      let s : State := st { nDev with media := { nDev.media with nss := [{ zns with nzones := 3 }], rows := [(rowKey false 0 12, { wear := 0, tfSum := 0, tfN := 0, age := 3, cls := 2, swept := false, meas := 0, sweepMean := 0, hot := false, unknown := true, inPass := false })], pool14 := [{ seven := false, group := 0, lbn := 21, wear := 400, dirty := false }, { seven := false, group := 0, lbn := 22, wear := 0, dirty := false }] } };
      let ch : Ch := 5; let ix : Nat := 2; let ws := s.dev.chWear ch.val;
      let spread := ws.foldl Nat.max 0 - ws.foldl Nat.min (ws.foldl Nat.max 0); let rated := s.dev.board.ratedQlc * s.dev.board.ratedSlc;
      Running s ∧ rated < 10 * spread ∧ s.dev.fwFlag = false ∧ s.dev.tor.latch = false ∧ s.dev.coldest ch.val = some ix ∧
      s.dev.coldUnit ch.val = none ∧ s.dev.copyable ix = true ∧ s.dev.worstRow (s.dev.zd ix).seven (s.dev.zd ix).nsx = some r ∧
      (s.dev.emptyAt (s.dev.homeOf (s.dev.zd ix).nsx) (s.dev.zd ix).seven).length < (s.dev.poolAt (s.dev.homeOf (s.dev.zd ix).nsx) (s.dev.zd ix).seven).length ∧
      r.stale = false) ∧
    (let u : Nat × Nat := (unitKey 2 3, rowKey false 0 12); let e : Nat × Nat := (unitKey 2 3, rowKey false 0 12);
      let s : State := st { nDev with media := { nDev.media with zt := [], rows := [(rowKey false 0 12, { wear := 0, tfSum := 0, tfN := 0, age := 3, cls := 2, swept := false, meas := 0, sweepMean := 0, hot := false, unknown := true, inPass := false })], urow := [(unitKey 2 3, rowKey false 0 12)], pool14 := [{ seven := false, group := 0, lbn := 21, wear := 400, dirty := false }] } };
      let ch : Ch := 5; let ws := s.dev.chWear ch.val; let spread := ws.foldl Nat.max 0 - ws.foldl Nat.min (ws.foldl Nat.max 0);
      let rated := s.dev.board.ratedQlc * s.dev.board.ratedSlc; Running s ∧ rated < 10 * spread ∧ s.dev.fwFlag = false ∧
      s.dev.tor.latch = false ∧ s.dev.coldest ch.val = none ∧ s.dev.coldUnit ch.val = some u ∧ e ∈ s.dev.media.urow ∧
      ch.val ∈ groupChannels false (keyGroup e.2) ∧ s.dev.unitMoves (e.1 / 2 ^ 21) (e.1 % 2 ^ 21) = false ∧ s.dev.media.curUnit = []) ∧
    (let s : State := st { uDev with media := { uDev.media with units := [(unitKey 2 3, 5)], curUnit := [(gcKey 2, 4 * 2 ^ 18)], conv := [(2 * 2 ^ 40 + 9, { unit := 3, sec := { sec0 9 with nsx := 2 } })] } };
      let ch : Ch := 5; let l : LunN := 2; let plane : Fin 4 := 1; let lbn : Nat := 10;
      let busy := s.dev.media.spareCopies.any (fun c => c.ch == ch.val && c.l == l.val && c.plane == plane.val);
      let starts := (s.dev.retireDue ch.val l.val plane.val lbn = true ∧ s.dev.tor.latch = false ∧ busy = false ∧ SMap.find s.dev.media.oos (ch.val * 32 + l.val) = none);
      Running s ∧ lbn < 16384 ∧ ¬ starts) ∧
    (let s : State := st { nDev with media := { nDev.media with finds := [(blkKey 5 2 1 10, .progFail, 0)] } }; let ch : Ch := 5;
      let l : LunN := 2; let plane : Fin 4 := 1; let lbn : Nat := 10; let new : Nat := (nDev.goodSpares 5 2 1).getD 0 0;
      let k := (ch.val * 32 + l.val) * 4 + plane.val; let used := SMap.get (fun _ => 0) s.dev.media.spareUse k;
      let busy := s.dev.media.spareCopies.any (fun c => c.ch == ch.val && c.l == l.val && c.plane == plane.val);
      let starts := (s.dev.retireDue ch.val l.val plane.val lbn = true ∧ s.dev.tor.latch = false ∧ busy = false ∧ SMap.find s.dev.media.oos (ch.val * 32 + l.val) = none);
      let m := s.dev.copyPrograms ch.val l.val plane.val lbn; Running s ∧ lbn < 16384 ∧ starts ∧
      (s.dev.goodSpares ch.val l.val plane.val)[used]? = some new ∧ used < s.dev.sparesOf ∧ new < 16384 ∧ m = 0) := by
  refine ⟨?_, ?_, ?_, ?_, ?_, ?_, ?_, ?_, ?_, ?_, ?_, ?_, ?_, ?_, ?_, ?_⟩
  · unfold Running; decide +kernel
  · unfold Running; decide +kernel
  · unfold Running; decide +kernel
  · unfold Running; decide +kernel
  · unfold Running; decide +kernel
  · unfold Running; decide +kernel
  · unfold Running; decide +kernel
  · unfold Running; decide +kernel
  · unfold Running; decide +kernel
  · unfold Running; decide +kernel
  · unfold Running; decide +kernel
  · unfold Running; decide +kernel
  · unfold Running; decide +kernel
  · unfold Running; decide +kernel
  · unfold Running; decide +kernel
  · unfold Running; decide +kernel

theorem test_MediaWork_2_inputs :
    (let s : State := st { nDev with mules := { Mules.cold with loaded := List.range 64 }, media := { nDev.media with finds := [(blkKey 5 2 1 10, .progFail, 0)], flash := [(flashKey 5 2 10 3 1 0, sec0 3), (flashKey 5 2 10 9 1 2, sec0 4)] } };
      let ch : Ch := 5; let l : LunN := 2; let plane : Fin 4 := 1; let lbn : Nat := 10; let new : Nat := (nDev.goodSpares 5 2 1).getD 0 0;
      let k := (ch.val * 32 + l.val) * 4 + plane.val; let used := SMap.get (fun _ => 0) s.dev.media.spareUse k;
      let busy := s.dev.media.spareCopies.any (fun c => c.ch == ch.val && c.l == l.val && c.plane == plane.val);
      let starts := (s.dev.retireDue ch.val l.val plane.val lbn = true ∧ s.dev.tor.latch = false ∧ busy = false ∧ SMap.find s.dev.media.oos (ch.val * 32 + l.val) = none);
      let m := s.dev.copyPrograms ch.val l.val plane.val lbn; Running s ∧ lbn < 16384 ∧ starts ∧
      (s.dev.goodSpares ch.val l.val plane.val)[used]? = some new ∧ used < s.dev.sparesOf ∧ new < 16384 ∧ m ≠ 0) ∧
    (let s : State := st { nDev with media := { nDev.media with finds := [(blkKey 5 2 1 10, .progFail, 0)], spareUse := [((5 * 32 + 2) * 4 + 1, 600)] } };
      let ch : Ch := 5; let l : LunN := 2; let plane : Fin 4 := 1; let lbn : Nat := 10; let k := (ch.val * 32 + l.val) * 4 + plane.val;
      let used := SMap.get (fun _ => 0) s.dev.media.spareUse k;
      let busy := s.dev.media.spareCopies.any (fun c => c.ch == ch.val && c.l == l.val && c.plane == plane.val);
      let starts := (s.dev.retireDue ch.val l.val plane.val lbn = true ∧ s.dev.tor.latch = false ∧ busy = false ∧ SMap.find s.dev.media.oos (ch.val * 32 + l.val) = none);
      Running s ∧ lbn < 16384 ∧ starts ∧ (s.dev.sparesOf ≤ used ∨ (s.dev.goodSpares ch.val l.val plane.val)[used]? = none)) ∧
    (let d : Dev := { nDev with mules := { Mules.cold with loaded := List.range 64 } };
      let s : State := st ({ d with media := { d.media with zt := [(0, { zd0 with st := zImp, lbn := 10, wp := 16, fp := 2 }.word)], relocs := [({ nsx := 0, zone := 0, conv := false, src := { seven := false, group := 0, lbn := 10, wear := 0, dirty := true }, dst := { seven := false, group := 1, lbn := 20, wear := 0, dirty := false }, unit := 0, moved := [] } : Reloc)], flash := [(d.zoneKey false 0 10 1, sec0 1)] } });
      let r := ({ nsx := 0, zone := 0, conv := false, src := { seven := false, group := 0, lbn := 10, wear := 0, dirty := true }, dst := { seven := false, group := 1, lbn := 20, wear := 0, dirty := false }, unit := 0, moved := [] } : Reloc);
      let z := s.dev.zd r.zone; Running s ∧ s.dev.media.relocs.find? Reloc.ready = some r ∧ s.dev.tor.latch = false ∧ r.conv = false ∧
      z.nsx = r.nsx ∧ z.seven = r.src.seven ∧ z.group = r.src.group ∧ z.lbn = r.src.lbn ∧ (z.active = true ∨ z.st = zFull ∨ z.st = zRO) ∧
      z.fp ≤ zcap z.seven ∧
      (∀ o p, o < z.fp → p < z.fp → s.dev.zoneKey z.seven z.group z.lbn o ≠ s.dev.zoneKey z.seven r.dst.group r.dst.lbn p)) ∧
    (let c : SpareCopy := { ch := 5, l := 2, plane := 1, lbn := 10, new := (nDev.goodSpares 5 2 1).getD 0 0, left := 0 };
      let s : State := st { nDev with media := { nDev.media with spareCopies := [{ ch := 5, l := 2, plane := 1, lbn := 10, new := (nDev.goodSpares 5 2 1).getD 0 0, left := 0 }], spareUse := [((5 * 32 + 2) * 4 + 1, 1)], flash := [(flashKey 5 2 10 3 1 0, sec0 3), (flashKey 5 2 10 9 1 2, sec0 4)] } };
      let k := (c.ch * 32 + c.l) * 4 + c.plane; Running s ∧ s.dev.media.relocs.find? Reloc.ready = none ∧
      s.dev.media.spareCopies.find? (fun c => decide (c.left = 0)) = some c ∧ s.dev.tor.latch = false ∧ c.ch < 64 ∧ c.l < 32 ∧
      c.plane < 4 ∧ c.lbn < 16384 ∧ c.new < 16384 ∧ 0 < SMap.get (fun _ => 0) s.dev.media.spareUse k ∧
      SMap.get (fun _ => 0) s.dev.media.spareUse k ≤ s.dev.sparesOf) ∧
    (let s : State := st ({ nDev with media := { (nDev).media with relocs := [({ nsx := 0, zone := 0, conv := false, src := { seven := false, group := 0, lbn := 99, wear := 0, dirty := true }, dst := { seven := false, group := 1, lbn := 20, wear := 0, dirty := false }, unit := 0, moved := [] } : Reloc)] } });
      let r := ({ nsx := 0, zone := 0, conv := false, src := { seven := false, group := 0, lbn := 99, wear := 0, dirty := true }, dst := { seven := false, group := 1, lbn := 20, wear := 0, dirty := false }, unit := 0, moved := [] } : Reloc);
      Running s ∧ s.dev.media.relocs.find? Reloc.ready = some r ∧ s.dev.tor.latch = false ∧ r.conv = false ∧
      (s.dev.zd r.zone).lbn ≠ r.src.lbn) ∧
    (let s : State := st ({ nDev with media := { (nDev).media with relocs := [({ nsx := 2, zone := 0, conv := true, src := ({ seven := false, group := 1, lbn := 20, wear := 0, dirty := false } : Row), dst := ({ seven := false, group := 1, lbn := 20, wear := 0, dirty := false } : Row), unit := 3, moved := [(2 * 2 ^ 40 + 8, ({ unit := 3, sec := { sec0 8 with nsx := 2 } } : ConvEnt))] } : Reloc)], conv := [(2 * 2 ^ 40 + 8, ({ unit := 3, sec := { sec0 8 with nsx := 2 } } : ConvEnt)), (2 * 2 ^ 40 + 9, ({ unit := 3, sec := { sec0 8 with nsx := 2 } } : ConvEnt))] } });
      let r := ({ nsx := 2, zone := 0, conv := true, src := ({ seven := false, group := 1, lbn := 20, wear := 0, dirty := false } : Row), dst := ({ seven := false, group := 1, lbn := 20, wear := 0, dirty := false } : Row), unit := 3, moved := [(2 * 2 ^ 40 + 8, ({ unit := 3, sec := { sec0 8 with nsx := 2 } } : ConvEnt))] } : Reloc);
      let n := cns; Running s ∧ s.dev.media.relocs.find? Reloc.ready = some r ∧ s.dev.tor.latch = false ∧ r.conv = true ∧
      s.dev.media.nss.find? (fun x => x.nsx == r.nsx) = some n ∧ MapGood n s.dev ∧ (∀ e, e ∈ r.moved → e.1 / 2 ^ 40 = r.nsx) ∧
      (r.moved.map Prod.fst).Nodup ∧ s.dev.wr.waiting = []) := by
  refine ⟨?_, ?_, ?_, ?_, ?_, ?_⟩
  · unfold Running; decide +kernel
  · unfold Running; decide +kernel
  · exact ⟨(by unfold Running; decide +kernel), by decide +kernel, by decide +kernel, by decide +kernel, by decide +kernel, by decide +kernel, by decide +kernel, by decide +kernel, by decide +kernel, by decide +kernel, pairs_lt (by decide +kernel)⟩
  · unfold Running; decide +kernel
  · unfold Running; decide +kernel
  · exact ⟨(by unfold Running; decide +kernel), by decide +kernel, by decide +kernel, by decide +kernel, by decide +kernel, Or.inr (fun _ _ _ _ => quiet_burst _ rfl rfl _), by decide +kernel, by decide +kernel, by decide +kernel⟩

theorem test_CheckpointRecovery_inputs :
    (let s : State := st { { tDev with fw := { (tDev).fw with mode := .init, replayed := false, cfgSlot := 0, calValid := true } } with media := { ({ tDev with fw := { (tDev).fw with mode := .init, replayed := false, cfgSlot := 0, calValid := true } }).media with journal := [({ seq := 0, flushed := true, body := .erase 0 3 4 0, peer := false } : JRec)] } };
      Running s ∧ s.dev.wr.waiting = []) ∧
    (let s : State := st (nDev); Running s ∧
      (s.dev.fw.mode ≠ .init ∨ s.dev.fw.replayed = true ∨ s.dev.fw.cfgSlot = 2 ∨ s.dev.fw.calValid = false)) ∧
    (let s : State := st ({ { tDev with fw := { (tDev).fw with mode := .init, replayed := false, cfgSlot := 0, calValid := true } } with pins := { ({ tDev with fw := { (tDev).fw with mode := .init, replayed := false, cfgSlot := 0, calValid := true } }).pins with fenceIn := true } });
      Running s ∧ s.dev.fw.mode = .init ∧ s.dev.fw.replayed = false ∧ s.dev.fw.cfgSlot ≠ 2 ∧ s.dev.fw.calValid = true ∧
      s.dev.hasPair = true ∧ s.dev.fenceIn = true) ∧
    (let s : State := st ({ { tDev with fw := { (tDev).fw with mode := .init, replayed := false, cfgSlot := 0, calValid := true } } with board := { Board.shipped with code := 1 } });
      Running s ∧ s.dev.fw.mode = .init ∧ s.dev.fw.replayed = false ∧ s.dev.fw.cfgSlot ≠ 2 ∧ s.dev.fw.calValid = true ∧
      s.dev.hasPair = false) ∧
    (let s : State := st { { tDev with fw := { (tDev).fw with mode := .init, replayed := false, cfgSlot := 0, calValid := true } } with media := { ({ tDev with fw := { (tDev).fw with mode := .init, replayed := false, cfgSlot := 0, calValid := true } }).media with journal := [({ seq := 0, flushed := true, body := .erase 0 3 4 0, peer := false } : JRec)] } };
      let js := s.dev.media.journal.takeWhile s.dev.recordCounts; Running s ∧ s.dev.fw.mode = .init ∧ s.dev.fw.replayed = false ∧
      s.dev.fw.cfgSlot ≠ 2 ∧ s.dev.fw.calValid = true ∧ s.dev.fenceIn = false ∧
      orderBad s.dev.zoneSeven { used := [], freed := [] } js = true) ∧
    (let s : State := st ({ nDev with fw := { (nDev).fw with mode := .init, replayed := false, cfgSlot := 0, calValid := true } });
      let js := s.dev.media.journal.takeWhile s.dev.recordCounts; Running s ∧ s.dev.fw.mode = .init ∧ s.dev.fw.replayed = false ∧
      s.dev.fw.cfgSlot ≠ 2 ∧ s.dev.fw.calValid = true ∧ js = []) ∧
    (let s : State := st ({ { tDev with fw := { (tDev).fw with mode := .init, replayed := false, cfgSlot := 0, calValid := true } } with media := { ({ tDev with fw := { (tDev).fw with mode := .init, replayed := false, cfgSlot := 0, calValid := true } }).media with journal := [({ seq := 0, flushed := true, body := .erase 0 3 4 1, peer := false } : JRec)] } });
      let segs := ([] : List (Nat × Nat)); let js := s.dev.media.journal.takeWhile s.dev.recordCounts; Running s ∧ s.dev.fw.mode = .init ∧
      s.dev.fw.replayed = false ∧ s.dev.fw.cfgSlot ≠ 2 ∧ s.dev.fw.calValid = true ∧ js ≠ [] ∧ js = s.dev.media.journal ∧
      s.dev.hasPair = true ∧ s.dev.fenceIn = false ∧ orderBad s.dev.zoneSeven { used := [], freed := [] } js = false ∧
      s.dev.wr.groups = [] ∧ s.dev.media.relocs = [] ∧ (∀ e, e ∈ s.dev.replayed segs → (Zd.ofWord e.2).active = false)) := by
  refine ⟨?_, ?_, ?_, ?_, ?_, ?_, ?_⟩
  · unfold Running; decide +kernel
  · unfold Running; decide +kernel
  · unfold Running; decide +kernel
  · unfold Running; decide +kernel
  · unfold Running; decide +kernel
  · unfold Running; decide +kernel
  · unfold Running; decide +kernel

theorem test_CirquePrograms_inputs :
    (let s : State := st (tDev); Reach A.CIRQUE_PCMD s ∧ (s.dev.cqActive = false ∨ s.dev.bit A.CIRQUE_PCMD 12 = true)) ∧
    (let s : State := st ((tDev.wr64 A.CIRQUE_STAT 1)); let w := s.dev.fld A.CIRQUE_PADDR 26 5; Reach A.CIRQUE_PCMD s ∧
      s.dev.cqActive = true ∧ s.dev.bit A.CIRQUE_PCMD 12 = false ∧ s.dev.cirque.prog = none ∧ s.dev.progRefusal w = none) ∧
    (let s : State := st ({ (tDev.wr64 A.CIRQUE_STAT 1) with cirque := { ((tDev.wr64 A.CIRQUE_STAT 1)).cirque with words := [(0, 5)] } });
      let r : Nat := 3; let w := s.dev.fld A.CIRQUE_PADDR 26 5; Reach A.CIRQUE_PCMD s ∧ s.dev.cqActive = true ∧
      s.dev.bit A.CIRQUE_PCMD 12 = false ∧ s.dev.cirque.prog = none ∧ s.dev.progRefusal w = some r ∧ s.dev.cirque.fifo.length < 4 ∧
      s.dev.bit A.CIRQUE_STAT 1 = false) ∧
    (let s : State := st (tDev); Running s ∧ s.dev.cirque.prog = none) ∧
    (let s : State := st ({ ((tDev.wr64 A.CIRQUE_STAT 1)).wr64 (A.CIRQUE_ESTAT 0) 1 with cirque := { (((tDev.wr64 A.CIRQUE_STAT 1)).wr64 (A.CIRQUE_ESTAT 0) 1).cirque with prog := some ({ word := 3, data := 5, fifo := false } : CqProg), esec := [(0, 5)] } });
      let p := ({ word := 3, data := 5, fifo := false } : CqProg); Running s ∧ s.dev.cirque.prog = some p ∧
      s.dev.fld (A.CIRQUE_ESTAT (bankOf p.word)) 1 0 = 1 ∧ s.dev.erasing (sectorOf p.word) = false) ∧
    (let s : State := st ({ (tDev.wr64 A.CIRQUE_STAT 1) with cirque := { ((tDev.wr64 A.CIRQUE_STAT 1)).cirque with prog := some ({ word := 3, data := 5, fifo := false } : CqProg) } });
      let p := ({ word := 3, data := 5, fifo := false } : CqProg); Running s ∧ s.dev.cirque.prog = some p ∧
      s.dev.fld (A.CIRQUE_ESTAT (bankOf p.word)) 1 0 ≠ 1 ∧ s.dev.erasing (sectorOf p.word) = false ∧ s.dev.cirque.fifo.length < 4 ∧
      s.dev.bit A.CIRQUE_STAT 1 = false ∧ p.fifo = false) ∧
    (let s : State := st ({ (tDev.wr64 A.CIRQUE_STAT 1) with cirque := { ((tDev.wr64 A.CIRQUE_STAT 1)).cirque with prog := some ({ word := 3, data := 5, fifo := true } : CqProg) } });
      let corr : Nat := 1; let p := ({ word := 3, data := 5, fifo := true } : CqProg); Running s ∧ s.dev.cirque.prog = some p ∧
      s.dev.fld (A.CIRQUE_ESTAT (bankOf p.word)) 1 0 ≠ 1 ∧ s.dev.erasing (sectorOf p.word) = false ∧ s.dev.cirque.fifo.length < 4 ∧
      s.dev.bit A.CIRQUE_STAT 1 = false ∧ p.fifo = true ∧ corr ≤ 3 ∧ s.dev.bit A.CIRQUE_PCMD 12 = false) ∧
    (let s : State := st ({ (tDev.wr64 A.CIRQUE_STAT 1) with cirque := { ((tDev.wr64 A.CIRQUE_STAT 1)).cirque with prog := some ({ word := 3, data := 5, fifo := true } : CqProg) } });
      let corr : Nat := 4; let p := ({ word := 3, data := 5, fifo := true } : CqProg); Running s ∧ s.dev.cirque.prog = some p ∧
      s.dev.fld (A.CIRQUE_ESTAT (bankOf p.word)) 1 0 ≠ 1 ∧ s.dev.erasing (sectorOf p.word) = false ∧ s.dev.cirque.fifo.length < 4 ∧
      s.dev.bit A.CIRQUE_STAT 1 = false ∧ p.fifo = true ∧ 3 < corr ∧ s.dev.bit A.CIRQUE_PCMD 12 = false) ∧
    (let s : State := st (tDev); Reach A.CIRQUE_PFIFO s ∧ (s.dev.cqActive = false ∨ s.dev.bit A.CIRQUE_STAT 3 = true)) ∧
    (let s : State := st ((tDev.wr64 A.CIRQUE_STAT 1)); Reach A.CIRQUE_PFIFO s ∧ s.dev.cqActive = true ∧
      s.dev.bit A.CIRQUE_STAT 3 = false ∧ s.dev.bit A.CIRQUE_PCMD 12 = false ∧ s.dev.cirque.prog = none ∧
      s.dev.bit A.CIRQUE_STAT 1 = false ∧ s.dev.cirque.fifo.length < 3) ∧
    (let s : State := st ({ (tDev.wr64 A.CIRQUE_STAT 1) with cirque := { ((tDev.wr64 A.CIRQUE_STAT 1)).cirque with fifo := [1#64, 2#64, 3#64] } });
      let a := 1#64; let b := 2#64; let c := 3#64; Reach A.CIRQUE_PFIFO s ∧ s.dev.cqActive = true ∧ s.dev.bit A.CIRQUE_STAT 3 = false ∧
      s.dev.bit A.CIRQUE_PCMD 12 = false ∧ s.dev.cirque.prog = none ∧ s.dev.bit A.CIRQUE_STAT 1 = false ∧ s.dev.cirque.fifo = [a, b, c] ∧
      s.dev.progRefusal (s.dev.fld A.CIRQUE_PADDR 26 5) = none) := by
  refine ⟨?_, ?_, ?_, ?_, ?_, ?_, ?_, ?_, ?_, ?_, ?_⟩
  · unfold Reach Reaches Running; decide +kernel
  · unfold Reach Reaches Running; decide +kernel
  · unfold Reach Reaches Running; decide +kernel
  · unfold Running; decide +kernel
  · unfold Running; decide +kernel
  · unfold Running; decide +kernel
  · unfold Running; decide +kernel
  · unfold Running; decide +kernel
  · unfold Reach Reaches Running; decide +kernel
  · unfold Reach Reaches Running; decide +kernel
  · unfold Reach Reaches Running; decide +kernel

theorem test_CirqueErasesAndRows_inputs :
    (let s : State := st ((tDev.wr64 A.CIRQUE_STAT 1)); let b : BankN := (2 : BankN); let addr : Nat := 8200 * 4096;
      let sec := addr / 4096 % 2 ^ 15; let st := s.dev.fld (A.CIRQUE_ESTAT b.val) 1 0; Reach (A.CIRQUE_ECMD b.val) s ∧
      sec / 4096 = b.val ∧ st = 0 ∧ s.dev.cqActive = true) ∧
    (let s : State := st (tDev); let b : BankN := (2 : BankN); let addr : Nat := 8200 * 4096; let sec := addr / 4096 % 2 ^ 15;
      let st := s.dev.fld (A.CIRQUE_ESTAT b.val) 1 0; Reach (A.CIRQUE_ECMD b.val) s ∧
      (sec / 4096 ≠ b.val ∨ st ≠ 0 ∨ s.dev.cqActive = false)) ∧
    (let s : State := st ({ ((tDev.wr64 A.CIRQUE_STAT 1)).wr64 (A.CIRQUE_ESTAT 2) 1 with cirque := { (((tDev.wr64 A.CIRQUE_STAT 1)).wr64 (A.CIRQUE_ESTAT 2) 1).cirque with esec := [(2, 8200)], why := [(2, 0)] } });
      let b : BankN := (2 : BankN); let st := s.dev.fld (A.CIRQUE_ESTAT b.val) 1 0; let n := s.dev.fld (A.CIRQUE_ESTAT b.val) 15 8;
      Reach (A.CIRQUE_ECMD b.val) s ∧ st = 1 ∧ n < 100) ∧
    (let s : State := st ((tDev.wr64 A.CIRQUE_STAT 1)); let b : BankN := (2 : BankN); let st := s.dev.fld (A.CIRQUE_ESTAT b.val) 1 0;
      let n := s.dev.fld (A.CIRQUE_ESTAT b.val) 15 8; Reach (A.CIRQUE_ECMD b.val) s ∧ (st = 0 ∨ (st = 1 ∧ 100 ≤ n))) ∧
    (let s : State := st ({ ((tDev.wr64 A.CIRQUE_STAT 1)).wr64 (A.CIRQUE_ESTAT 2) 2 with cirque := { (((tDev.wr64 A.CIRQUE_STAT 1)).wr64 (A.CIRQUE_ESTAT 2) 2).cirque with esec := [(2, 8200)], why := [(2, 2)] } });
      let b : BankN := (2 : BankN); let st := s.dev.fld (A.CIRQUE_ESTAT b.val) 1 0; Reach (A.CIRQUE_ECMD b.val) s ∧ st = 2 ∧
      SMap.get (fun _ => 0) s.dev.cirque.why b.val = 2) ∧
    (let s : State := st ((tDev.wr64 A.CIRQUE_STAT 1)); let b : BankN := (2 : BankN); let st := s.dev.fld (A.CIRQUE_ESTAT b.val) 1 0;
      Reach (A.CIRQUE_ECMD b.val) s ∧ st ≠ 2) ∧
    (let s : State := st ({ ((tDev.wr64 A.CIRQUE_STAT 1)).wr64 (A.CIRQUE_ESTAT 2) 2 with cirque := { (((tDev.wr64 A.CIRQUE_STAT 1)).wr64 (A.CIRQUE_ESTAT 2) 2).cirque with esec := [(2, 8200)], why := [(2, 1)] } });
      let b : BankN := (2 : BankN); let st := s.dev.fld (A.CIRQUE_ESTAT b.val) 1 0; Running s ∧ st = 2 ∧
      SMap.get (fun _ => 0) s.dev.cirque.why b.val = 1) ∧
    (let s : State := st ({ ((tDev.wr64 A.CIRQUE_STAT 1)).wr64 (A.CIRQUE_ESTAT 2) 2 with cirque := { (((tDev.wr64 A.CIRQUE_STAT 1)).wr64 (A.CIRQUE_ESTAT 2) 2).cirque with esec := [(2, 8200)], why := [(2, 2)] } });
      let b : BankN := (2 : BankN); let st := s.dev.fld (A.CIRQUE_ESTAT b.val) 1 0; Running s ∧ st = 2 ∧
      SMap.get (fun _ => 0) s.dev.cirque.why b.val ≠ 1) ∧
    (let s : State := st ({ ((tDev.wr64 A.CIRQUE_STAT 1)).wr64 (A.CIRQUE_ESTAT 2) 2 with cirque := { (((tDev.wr64 A.CIRQUE_STAT 1)).wr64 (A.CIRQUE_ESTAT 2) 2).cirque with esec := [(2, 8200)], why := [(2, 2)] } });
      let b : BankN := (2 : BankN); let sec : Nat := 8200; let st := s.dev.fld (A.CIRQUE_ESTAT b.val) 1 0; Running s ∧
      SMap.find s.dev.cirque.esec b.val = some sec ∧ sec / 4096 = b.val ∧ st ≠ 1) ∧
    (let s : State := st ({ ((tDev.wr64 A.CIRQUE_STAT 1)).wr64 (A.CIRQUE_ESTAT 2) 1 with cirque := { (((tDev.wr64 A.CIRQUE_STAT 1)).wr64 (A.CIRQUE_ESTAT 2) 1).cirque with esec := [(2, 8200)], why := [(2, 0)] } });
      let b : BankN := (2 : BankN); let sec : Nat := 8200; let st := s.dev.fld (A.CIRQUE_ESTAT b.val) 1 0; Running s ∧
      SMap.find s.dev.cirque.esec b.val = some sec ∧ sec / 4096 = b.val ∧ st = 1) ∧
    (let s : State := st ({ tDev with regs := SMap.put tDev.regs A.CLK_ENSTAT 0 }); let who := (Reqr.core 0 true); let w : Nat := 1049600;
      let e := (match ({ tDev with regs := SMap.put tDev.regs A.CLK_ENSTAT 0 } : Dev).accessErr (.core 0 true) (0x0100000000 + 32 * 1049600) false with | some e => e | none => .decode);
      let n := (0 : CoreN); let m := true; let a := 0x0100000000 + 32 * w; Running s ∧ w < 2 ^ 22 ∧ who = .core n m ∧
      s.dev.accessErr who a false = some e) ∧
    (let s : State := st ((tDev.wr64 A.CIRQUE_STAT 1)); let who := (Reqr.core 0 true); let w : Nat := 1049600;
      let a := 0x0100000000 + 32 * w; Running s ∧ w < 2 ^ 22 ∧ s.dev.accessErr who a false = none ∧ sectorOf w ∉ s.dev.cirque.cut ∧
      SMap.find s.dev.cirque.words w = none) ∧
    (let s : State := st ({ (tDev.wr64 A.CIRQUE_STAT 1) with cirque := { ((tDev.wr64 A.CIRQUE_STAT 1)).cirque with words := [(1049600, 5#256)] } });
      let who := (Reqr.core 0 true); let w : Nat := 1049600; let corr : Nat := 1; let x := 5#256; let a := 0x0100000000 + 32 * w;
      Running s ∧ w < 2 ^ 22 ∧ s.dev.accessErr who a false = none ∧ sectorOf w ∉ s.dev.cirque.cut ∧
      SMap.find s.dev.cirque.words w = some x ∧ corr ≤ 3) ∧
    (let s : State := st ({ (tDev.wr64 A.CIRQUE_STAT 1) with cirque := { ((tDev.wr64 A.CIRQUE_STAT 1)).cirque with words := [(1049600, 5#256)] } });
      let who := (Reqr.core 0 true); let w : Nat := 1049600; let corr : Nat := 4; let x := 5#256; let a := 0x0100000000 + 32 * w;
      Running s ∧ w < 2 ^ 22 ∧ s.dev.accessErr who a false = none ∧ sectorOf w ∉ s.dev.cirque.cut ∧
      SMap.find s.dev.cirque.words w = some x ∧ 3 < corr) ∧
    (let s : State := st ({ (tDev.wr64 A.CIRQUE_STAT 1) with cirque := { ((tDev.wr64 A.CIRQUE_STAT 1)).cirque with cut := [8200] } });
      let who := (Reqr.core 0 true); let w : Nat := 1049600; let a := 0x0100000000 + 32 * w; Running s ∧ w < 2 ^ 22 ∧
      s.dev.accessErr who a false = none ∧ sectorOf w ∈ s.dev.cirque.cut) ∧
    (let s : State := st (tDev); Reach A.CIRQUE_OTP_CMD s ∧ s.dev.cqActive = false) := by
  refine ⟨?_, ?_, ?_, ?_, ?_, ?_, ?_, ?_, ?_, ?_, ?_, ?_, ?_, ?_, ?_, ?_⟩
  · unfold Reach Reaches Running; decide +kernel
  · unfold Reach Reaches Running; decide +kernel
  · unfold Reach Reaches Running; decide +kernel
  · unfold Reach Reaches Running; decide +kernel
  · unfold Reach Reaches Running; decide +kernel
  · unfold Reach Reaches Running; decide +kernel
  · unfold Running; decide +kernel
  · unfold Running; decide +kernel
  · unfold Running; decide +kernel
  · unfold Running; decide +kernel
  · unfold Running; decide +kernel
  · unfold Running; decide +kernel
  · unfold Running; decide +kernel
  · unfold Running; decide +kernel
  · unfold Running; decide +kernel
  · unfold Reach Reaches Running; decide +kernel

theorem test_CirqueErasesAndRows_2_inputs :
    (let s : State := st ({ (tDev.wr64 A.CIRQUE_STAT 1) with cirque := { ((tDev.wr64 A.CIRQUE_STAT 1)).cirque with otp := [(0, 1)] } });
      let w : Fin 64 := (9 : Fin 64); Reach A.CIRQUE_OTP_CMD s ∧ s.dev.cqActive = true ∧ s.dev.otpLocked w.val = true) ∧
    (let s : State := st ({ (tDev.wr64 A.CIRQUE_STAT 1) with cirque := { ((tDev.wr64 A.CIRQUE_STAT 1)).cirque with otp := [(9, 1)] } });
      let w : Fin 64 := (9 : Fin 64); Reach A.CIRQUE_OTP_CMD s ∧ s.dev.cqActive = true ∧ s.dev.otpLocked w.val = false ∧
      (SMap.find s.dev.cirque.otp w.val).isSome = true) ∧
    (let s : State := st ((tDev.wr64 A.CIRQUE_STAT 1)); let w : Fin 64 := 1049600; Reach A.CIRQUE_OTP_CMD s ∧ s.dev.cqActive = true ∧
      s.dev.otpLocked w.val = false ∧ SMap.find s.dev.cirque.otp w.val = none) ∧
    (let s : State := st ((tDev.wr64 A.CIRQUE_STAT 1)); Reach A.CIRQUE_FROW_ADDR s) ∧
    (let s : State := st ((tDev.wr64 A.CIRQUE_STAT 1)); Reach A.CIRQUE_CTL s ∧ s.dev.bit A.CIRQUE_STAT 1 = false) ∧
    (let s : State := st (tDev.wr64 A.CIRQUE_STAT 2); Reach A.CIRQUE_CTL s ∧ s.dev.bit A.CIRQUE_STAT 1 = true) := by
  refine ⟨?_, ?_, ?_, ?_, ?_, ?_⟩
  · unfold Reach Reaches Running; decide +kernel
  · unfold Reach Reaches Running; decide +kernel
  · unfold Reach Reaches Running; decide +kernel
  · unfold Reach Reaches Running; decide +kernel
  · unfold Reach Reaches Running; decide +kernel
  · unfold Reach Reaches Running; decide +kernel

theorem test_OxChannels_inputs :
    (let s : State := st ((((((tDev.wr64 (A.OX_SRC 3) 0x10000000).wr64 (A.OX_DST 3) 0x10001000).wr64 (A.OX_LEN 3) 0x104).wr64 (A.OX_CFG 3) 0).wr64 A.OX_GSTAT 1));
      let n : OxN := (3 : OxN); let sh := s.dev.oxShadow n.val; Reach (A.OX_CMD n.val) s ∧ s.dev.oxGood sh = false) ∧
    (let s : State := st ((((((tDev.wr64 (A.OX_SRC 3) 0x10000000).wr64 (A.OX_DST 3) 0x10001000).wr64 (A.OX_LEN 3) 0x100).wr64 (A.OX_CFG 3) 0).wr64 A.OX_GSTAT 0));
      let n : OxN := (3 : OxN); let sh := s.dev.oxShadow n.val; Reach (A.OX_CMD n.val) s ∧ s.dev.oxGood sh = true ∧
      (s.dev.oxActive = false ∨ s.dev.oxState n.val = 1)) ∧
    (let s : State := st ((((((tDev.wr64 (A.OX_SRC 3) 0x10000000).wr64 (A.OX_DST 3) 0x10001000).wr64 (A.OX_LEN 3) 0x100).wr64 (A.OX_CFG 3) 0).wr64 A.OX_GSTAT 1));
      let n : OxN := (3 : OxN); let sh := s.dev.oxShadow n.val; Reach (A.OX_CMD n.val) s ∧ s.dev.oxGood sh = true ∧
      s.dev.oxActive = true ∧ s.dev.oxState n.val ≠ 1) ∧
    (let s : State := st ({ ((((((tDev.wr64 (A.OX_SRC 3) 0x10000000).wr64 (A.OX_DST 3) 0x10001000).wr64 (A.OX_LEN 3) 0x100).wr64 (A.OX_CFG 3) 0).wr64 A.OX_GSTAT 1).wr64 (A.OX_STAT 3) 1) with ox := { (((((((tDev.wr64 (A.OX_SRC 3) 0x10000000).wr64 (A.OX_DST 3) 0x10001000).wr64 (A.OX_LEN 3) 0x100).wr64 (A.OX_CFG 3) 0).wr64 A.OX_GSTAT 1).wr64 (A.OX_STAT 3) 1)).ox with act := [(3, ({ cfg := 0, src := 0x10000000, dst := 0x10001000, idx := 0, len := 0x100, arg := 0 } : OxSet))], flight := [3] } });
      let n : OxN := (3 : OxN); Reach (A.OX_CMD n.val) s ∧ s.dev.oxState n.val = 1 ∧ n.val ∈ s.dev.ox.flight) ∧
    (let s : State := st ({ ((((((tDev.wr64 (A.OX_SRC 3) 0x10000000).wr64 (A.OX_DST 3) 0x10001000).wr64 (A.OX_LEN 3) 0x100).wr64 (A.OX_CFG 3) 0).wr64 A.OX_GSTAT 1).wr64 (A.OX_STAT 3) 1) with ox := { (((((((tDev.wr64 (A.OX_SRC 3) 0x10000000).wr64 (A.OX_DST 3) 0x10001000).wr64 (A.OX_LEN 3) 0x100).wr64 (A.OX_CFG 3) 0).wr64 A.OX_GSTAT 1).wr64 (A.OX_STAT 3) 1)).ox with act := [(3, ({ cfg := 0, src := 0x10000000, dst := 0x10001000, idx := 0, len := 0x100, arg := 0 } : OxSet))] } });
      let n : OxN := (3 : OxN); Reach (A.OX_CMD n.val) s ∧ s.dev.oxState n.val = 1 ∧ n.val ∉ s.dev.ox.flight) ∧
    (let s : State := st (tDev.wr64 A.OX_GSTAT 2); Reach A.OX_CTL s ∧ s.dev.bit A.OX_GSTAT 1 = true) ∧
    (let s : State := st ((((((tDev.wr64 (A.OX_SRC 3) 0x10000000).wr64 (A.OX_DST 3) 0x10001000).wr64 (A.OX_LEN 3) 0x104).wr64 (A.OX_CFG 3) 0).wr64 A.OX_GSTAT 1));
      Reach A.OX_CTL s ∧ s.dev.bit A.OX_GSTAT 1 = false ∧ s.dev.oxActive = true) ∧
    (let s : State := st ((((((tDev.wr64 (A.OX_SRC 3) 0x10000000).wr64 (A.OX_DST 3) 0x10001000).wr64 (A.OX_LEN 3) 0x100).wr64 (A.OX_CFG 3) 0).wr64 A.OX_GSTAT 0));
      Reach A.OX_CTL s ∧ s.dev.bit A.OX_GSTAT 1 = false ∧ s.dev.oxActive = false) ∧
    (let s : State := st ((((((tDev.wr64 (A.OX_SRC 3) 0x10000000).wr64 (A.OX_DST 3) 0x10001000).wr64 (A.OX_LEN 3) 0x100).wr64 (A.OX_CFG 3) 0).wr64 A.OX_GSTAT 0));
      Running s ∧ (s.dev.oxActive = false ∨ s.dev.ox.flight ≠ [])) ∧
    (let s : State := st ({ ((((((tDev.wr64 (A.OX_SRC 3) 0x10000000).wr64 (A.OX_DST 3) 0x10001000).wr64 (A.OX_LEN 3) 0x100).wr64 (A.OX_CFG 3) 0x40).wr64 A.OX_GSTAT 1).wr64 (A.OX_STAT 3) 1) with ox := { (((((((tDev.wr64 (A.OX_SRC 3) 0x10000000).wr64 (A.OX_DST 3) 0x10001000).wr64 (A.OX_LEN 3) 0x100).wr64 (A.OX_CFG 3) 0x40).wr64 A.OX_GSTAT 1).wr64 (A.OX_STAT 3) 1)).ox with act := [(3, ({ cfg := 0x40, src := 0x10000000, dst := 0x10001000, idx := 0, len := 0x100, arg := 0 } : OxSet))] } });
      let line : Byte := 0x40#8; let n : Nat := 3; Running s ∧ n < 32 ∧ s.dev.oxActive = true ∧ s.dev.ox.flight = [] ∧
      s.dev.ox.stopping = [] ∧ s.dev.oxState n = 1 ∧ (s.dev.oxAct n).req = line.toNat ∧ (∀ m, m < 32 → m ≠ n → s.dev.oxState m ≠ 1)) ∧
    (let s : State := st ((((((tDev.wr64 (A.OX_SRC 3) 0x10000000).wr64 (A.OX_DST 3) 0x10001000).wr64 (A.OX_LEN 3) 0x104).wr64 (A.OX_CFG 3) 0).wr64 A.OX_GSTAT 1));
      let n : OxN := (3 : OxN); Running s ∧ s.dev.ox.flight ≠ [n.val]) ∧
    (let s : State := st ({ ((((((tDev.wr64 (A.OX_SRC 3) 0x10000000).wr64 (A.OX_DST 3) 0x10001000).wr64 (A.OX_LEN 3) 0x100).wr64 (A.OX_CFG 3) 0).wr64 A.OX_GSTAT 1).wr64 (A.OX_STAT 3) 1) with ox := { (((((((tDev.wr64 (A.OX_SRC 3) 0x10000000).wr64 (A.OX_DST 3) 0x10001000).wr64 (A.OX_LEN 3) 0x100).wr64 (A.OX_CFG 3) 0).wr64 A.OX_GSTAT 1).wr64 (A.OX_STAT 3) 1)).ox with act := [(3, ({ cfg := 0, src := 0x10000000, dst := 0x10001000, idx := 0, len := 0x100, arg := 0 } : OxSet))], flight := [3] } });
      let n : OxN := (3 : OxN); let err := (none : Option (Fin 8 × W64)); let hit : Hit := .none; let st := s.dev.oxAct n.val;
      let old := s.dev.fld (A.OX_DONE n.val) 27 0; Running s ∧ s.dev.ox.flight = [n.val] ∧ st.req = 0 ∧ st.mode = 0 ∧ old < st.len ∧
      st.len < 2 ^ 28 ∧ 0x10000000 ≤ st.src ∧ st.src + st.len ≤ 0x11000000 ∧ 0x10000000 ≤ st.dst ∧ st.dst + st.len ≤ 0x11000000 ∧
      err = none ∧ hit = .none ∧ s.dev.bit A.OX_GSTAT 1 = false ∧ n.val ∉ s.dev.ox.stopping) ∧
    (let s : State := st ({ ((((((tDev.wr64 (A.OX_SRC 3) 0x10000000).wr64 (A.OX_DST 3) 0x10001000).wr64 (A.OX_LEN 3) 0x100).wr64 (A.OX_CFG 3) 0).wr64 A.OX_GSTAT 1).wr64 (A.OX_STAT 3) 1) with ox := { (((((((tDev.wr64 (A.OX_SRC 3) 0x10000000).wr64 (A.OX_DST 3) 0x10001000).wr64 (A.OX_LEN 3) 0x100).wr64 (A.OX_CFG 3) 0).wr64 A.OX_GSTAT 1).wr64 (A.OX_STAT 3) 1)).ox with act := [(3, ({ cfg := 0, src := 0x60000000, dst := 0x10001000, idx := 0, len := 0x100, arg := 0 } : OxSet))], flight := [3] } });
      let n : OxN := (3 : OxN); let err := (none : Option (Fin 8 × W64)); let e := BusErr.decode; let a := 0x60000000; let w := false;
      let hit : Hit := .none; let st := s.dev.oxAct n.val; let old := s.dev.fld (A.OX_DONE n.val) 27 0;
      let len := Nat.min (256 - (st.src + old) % 256) (st.len - old); Running s ∧ s.dev.ox.flight = [n.val] ∧ st.mode = 0 ∧
      s.dev.oxError n st (st.src + old) (oxAddrs st old).2 len err hit = some (e, a, w) ∧ s.dev.bit A.OX_GSTAT 1 = false) := by
  refine ⟨?_, ?_, ?_, ?_, ?_, ?_, ?_, ?_, ?_, ?_, ?_, ?_, ?_⟩
  · unfold Reach Reaches Running; decide +kernel
  · unfold Reach Reaches Running; decide +kernel
  · unfold Reach Reaches Running; decide +kernel
  · unfold Reach Reaches Running; decide +kernel
  · unfold Reach Reaches Running; decide +kernel
  · unfold Reach Reaches Running; decide +kernel
  · unfold Reach Reaches Running; decide +kernel
  · unfold Reach Reaches Running; decide +kernel
  · unfold Running; decide +kernel
  · unfold Running; decide +kernel
  · unfold Running; decide +kernel
  · unfold Running; decide +kernel
  · unfold Running; decide +kernel

theorem test_CairnRecorder_inputs :
    (let s : State := st (tDev); let core : CoreN := (2 : CoreN); Reaches core A.CAIRN_POST_CMD s) ∧
    (let s : State := st (tDev); Running s ∧ s.dev.cairnOn = true ∧ s.dev.cairn.fifo.length < 64) ∧
    (let s : State := st ({ tDev with cairn := { (tDev).cairn with fifo := List.replicate 64 ({ post := mkPost 0x500 3 2 7, time := 0, logs := [devLog] } : FifoEnt) } });
      Running s ∧ s.dev.cairnOn = true ∧ 64 ≤ s.dev.cairn.fifo.length) ∧
    (let s : State := st (tDev.wr64 A.CAIRN_STAT 0); Running s ∧ s.dev.cairnOn = false) ∧
    (let s : State := st (tDev); Running s ∧ s.dev.cairn.fifo = []) ∧
    (let s : State := st ({ tDev with cairn := { (tDev).cairn with fifo := [({ post := mkPost 0x500 3 2 7, time := 0, logs := [devLog] } : FifoEnt)] } });
      let e := ({ post := mkPost 0x500 3 2 7, time := 0, logs := [devLog] } : FifoEnt); let t := ([] : List FifoEnt); Running s ∧
      s.dev.cairn.fifo = e :: t ∧ e.logs.Nodup) ∧
    (let s : State := st (tDev); let log : W16 := 0x0001#16; let l := log.toNat; Reach A.CAIRN_CLR s ∧ logExists l = true) ∧
    (let s : State := st (tDev); let log : W16 := 0xEFFF#16; let l := log.toNat; Reach A.CAIRN_CLR s ∧ logExists l = false) ∧
    (let s : State := st (tDev); Reach A.CAIRN_CTL s ∧ s.dev.bit A.CAIRN_STAT 1 = false) ∧
    (let s : State := st (tDev.wr64 A.CAIRN_STAT 2); Reach A.CAIRN_CTL s ∧ s.dev.bit A.CAIRN_STAT 1 = true) ∧
    (let s : State := st ({ tDev with cairn := { (tDev).cairn with logs := [(devLog, ({ recs := [({ slot := 0, stamp := 0, seq := 1, time := 0, post := mkPost 0x500 3 2 7, rep := 0 } : LogRec)], seq := 1, drops := 0, cleared := 0, stamp := 1, last := some 0, occ := 0 } : Log))] } });
      let k : Nat := 0; let r := ({ slot := 0, stamp := 0, seq := 1, time := 0, post := mkPost 0x500 3 2 7, rep := 0 } : LogRec);
      Running s ∧ (s.dev.log devLog).last = some k ∧ (s.dev.log devLog).at k = some r) ∧
    (let s : State := st (tDev); Running s ∧ (s.dev.log devLog).last = none) := by
  refine ⟨?_, ?_, ?_, ?_, ?_, ?_, ?_, ?_, ?_, ?_, ?_, ?_⟩
  · unfold Reaches Running; decide +kernel
  · unfold Running; decide +kernel
  · unfold Running; decide +kernel
  · unfold Running; decide +kernel
  · unfold Running; decide +kernel
  · unfold Running; decide +kernel
  · unfold Reach Reaches Running; decide +kernel
  · unfold Reach Reaches Running; decide +kernel
  · unfold Reach Reaches Running; decide +kernel
  · unfold Reach Reaches Running; decide +kernel
  · unfold Running; decide +kernel
  · unfold Running; decide +kernel

theorem test_ScrubberAndTestPort_inputs :
    (let s : State := st ((tDev.wr64 A.HEN_STAT 1).wr64 A.HEN_PTR 0x1000000000); let v : BitVec 3 := 1#3; Reach A.HEN_CTL s ∧
      v.getLsbD 0 = true ∧ s.dev.bit A.HEN_STAT 1 = false) ∧
    (let s : State := st (tDev.wr64 A.HEN_STAT 2); let v : BitVec 3 := 1#3; Reach A.HEN_CTL s ∧ v.getLsbD 0 = true ∧
      s.dev.bit A.HEN_STAT 1 = true) ∧
    (let s : State := st ((tDev.wr64 A.HEN_STAT 1).wr64 A.HEN_PTR 0x1000000000); let v : BitVec 3 := 0#3; Reach A.HEN_CTL s ∧
      v.getLsbD 0 = false) ∧
    (let s : State := st (tDev); Running s ∧ s.dev.bit A.HEN_STAT 0 = false ∧ s.dev.bit A.HEN_STAT 1 = false) ∧
    (let s : State := st ((tDev.wr64 A.HEN_STAT 1).wr64 A.HEN_PTR 0x1000000000); let devs : List (Fin 10) := ([] : List (Fin 10));
      let x := ((tDev.wr64 A.HEN_STAT 1).wr64 A.HEN_PTR 0x1000000000).burstMem 0x1000000000; let p := (s.dev.rd A.HEN_PTR).toNat;
      Running s ∧ s.dev.bit A.HEN_STAT 0 = true ∧ s.dev.bit A.HEN_STAT 1 = false ∧
      (s.dev.armed p = true ∨ s.dev.henWalks p = false ∨ (s.dev.burstAt p = .clean x ∧ devs = [])) ∧ p < s.dev.henLast ∧ p + 64 < 2 ^ 64) ∧
    (let s : State := st ((tDev.wr64 A.HEN_STAT 1).wr64 A.HEN_PTR 0x2000000000000); let devs : List (Fin 10) := ([] : List (Fin 10));
      let x := tDev.burstMem 0x2000000000000; let p := (s.dev.rd A.HEN_PTR).toNat; Running s ∧ s.dev.bit A.HEN_STAT 0 = true ∧
      s.dev.bit A.HEN_STAT 1 = false ∧ (s.dev.armed p = true ∨ s.dev.henWalks p = false ∨ (s.dev.burstAt p = .clean x ∧ devs = [])) ∧
      s.dev.henLast ≤ p) ∧
    (let s : State := st ((tDev.wr64 A.HEN_STAT 1).wr64 A.HEN_PTR 0x1000000000); let devs : List (Fin 10) := ([3] : List (Fin 10));
      let v := (3 : Fin 10); let p := (s.dev.rd A.HEN_PTR).toNat; Running s ∧ s.dev.bit A.HEN_STAT 0 = true ∧
      s.dev.bit A.HEN_STAT 1 = false ∧ s.dev.armed p = false ∧ s.dev.henWalks p = true ∧
      ((∃ x, s.dev.burstAt p = .clean x ∧ devs = [v]) ∨ (∃ x, s.dev.burstAt p = .corr v.val x ∧ (devs = [] ∨ devs = [v])))) ∧
    (let s : State := st ((tDev.wr64 A.HEN_STAT 1).wr64 A.HEN_PTR 0x1000000000); let devs : List (Fin 10) := ([3, 4] : List (Fin 10));
      let p := (s.dev.rd A.HEN_PTR).toNat; Running s ∧ s.dev.bit A.HEN_STAT 0 = true ∧ s.dev.bit A.HEN_STAT 1 = false ∧
      s.dev.armed p = false ∧ s.dev.henWalks p = true ∧
      (s.dev.burstAt p = .unc ∨ ∃ x v w, s.dev.burstAt p = .clean x ∧ devs = [v, w] ∧ v ≠ w)) ∧
    (let s : State := st ((tDev.wr64 A.HEN_STAT 1).wr64 A.HEN_PTR 0x1000000000); Reach A.DRAMC_ECCTEST s ∧
      s.dev.bit A.DRAMC_ECCTEST 4 = false) ∧
    (let s : State := st ((tDev.wr64 A.DRAMC_ECCTEST 0x10).wr64 A.DRAMC_TESTADDR 0x1000000000); Reach A.DRAMC_ECCTEST s ∧
      s.dev.bit A.DRAMC_ECCTEST 4 = true) := by
  refine ⟨?_, ?_, ?_, ?_, ?_, ?_, ?_, ?_, ?_, ?_⟩
  · unfold Reach Reaches Running; decide +kernel
  · unfold Reach Reaches Running; decide +kernel
  · unfold Reach Reaches Running; decide +kernel
  · unfold Running; decide +kernel
  · unfold Running; decide +kernel
  · unfold Running; decide +kernel
  · exact ⟨(by unfold Running; decide +kernel), by decide +kernel, by decide +kernel, by decide +kernel, by decide +kernel, Or.inl ⟨_, rfl, rfl⟩⟩
  · exact ⟨(by unfold Running; decide +kernel), by decide +kernel, by decide +kernel, by decide +kernel, by decide +kernel, Or.inr ⟨_, _, _, rfl, rfl, by decide⟩⟩
  · unfold Reach Reaches Running; decide +kernel
  · unfold Reach Reaches Running; decide +kernel

theorem test_CipherLaws_inputs :
    (let p := ([1#64, 2#64, 3#64] : List (BitVec 64)); p ≠ []) ∧
    (let x : Ctx := ({ dec := false, slot := 9, slotgen := 0, blk := 0, du := 5, tval := 3, len := 4 } : Ctx); x.slot < 65536 ∧
      x.slotgen < 65536 ∧ x.blk < 65536 ∧ x.du < 2 ^ 64 ∧ x.len < 65536) := by
  refine ⟨?_, ?_⟩
  · decide +kernel
  · decide +kernel

theorem test_CipherKeys_inputs :
    (let s : State := st ((tDev.wr64 (A.CIPHER_JOB 2) 0x40090).wr64 (A.CIPHER_LOCK 2) 1); Reach A.CIPHER_KOP s ∧
      s.dev.cipherAlarmed = false ∧ halvesEqual (BitVec.ofNat 512 s.dev.kin) = true) ∧
    (let s : State := st ({ tDev with cipher := { (tDev).cipher with kin := [(0, 5)] } }); Reach A.CIPHER_KOP s ∧
      s.dev.cipherAlarmed = false ∧ halvesEqual (BitVec.ofNat 512 s.dev.kin) = false) ∧
    (let s : State := st ({ tDev with cipher := { (tDev).cipher with slots := [(9, .key (BitVec.ofNat 512 123456789) 0)] } });
      let slot : SlotN := (9 : SlotN); let pwk := false; let k := (BitVec.ofNat 512 123456789); let a := 0#128; let n := slot.val;
      Reach A.CIPHER_KOP s ∧ s.dev.cipherAlarmed = false ∧ s.dev.wrapKw pwk = none ∧ s.dev.slot n = .key k a) ∧
    (let s : State := st ({ tDev.wr64 (A.CIPHER_PENRANGE 7) 0x00400008 with cipher := { (tDev.wr64 (A.CIPHER_PENRANGE 7) 0x00400008).cipher with kwk := some 5#256, slots := [(9, .key (BitVec.ofNat 512 123456789) 0)] } });
      let slot : SlotN := (9 : SlotN); let pwk := false; let kw := (5#256); let k := (BitVec.ofNat 512 123456789); let a := 0#128;
      let n := slot.val; Reach A.CIPHER_KOP s ∧ s.dev.cipherAlarmed = false ∧ s.dev.wrapKw pwk = some kw ∧ s.dev.slot n = .key k a) ∧
    (let s : State := st ((tDev.wr64 (A.CIPHER_JOB 2) 0x40090).wr64 (A.CIPHER_LOCK 2) 1); let slot : SlotN := (9 : SlotN);
      let n := slot.val; Reach A.CIPHER_KOP s ∧ s.dev.cipherAlarmed = false ∧ (s.dev.slot n = .empty ∨ s.dev.slot n = .bypass)) ∧
    (let s : State := st (tDev.wr64 A.CIPHER_STAT 2); Reach A.CIPHER_KOP s ∧ s.dev.cipherAlarmed = true) ∧
    (let s : State := st ((tDev.wr64 (A.CIPHER_JOB 2) 0x40090).wr64 (A.CIPHER_LOCK 2) 1); let op : BitVec 4 := 9#4; Reach A.CIPHER_KOP s ∧
      7 ≤ op.toNat) ∧
    (let s : State := st ({ tDev with board := { Board.shipped with code := 2 } }); Running s ∧ s.dev.board.code.val = 2) ∧
    (let s : State := st ((tDev.wr64 (A.CIPHER_JOB 2) 0x40090).wr64 (A.CIPHER_LOCK 2) 1); Running s ∧ s.dev.board.code.val ≠ 2 ∧
      (s.dev.otpWord 2 = BitVec.allOnes 256 ∨ s.dev.cipherAlarmed = true)) ∧
    (let s : State := st ({ tDev with cirque := { (tDev).cirque with otp := [(2, 77)] } }); Running s ∧ s.dev.board.code.val ≠ 2 ∧
      s.dev.otpWord 2 ≠ BitVec.allOnes 256 ∧ s.dev.cipherAlarmed = false) ∧
    (let s : State := st ((tDev.wr64 (A.CIPHER_JOB 2) 0x40090).wr64 (A.CIPHER_LOCK 2) 1); let n : Nat := 3; let i := Instr.debugAlarm;
      s.dev.board.code.val ≠ 2 ∧
      ((i = .cipherAlarmSet ∧ n = 0 ∧ Reach A.CIPHER_ALARM_SET s) ∨ (i = .vmonAlarm ∧ n = 1 ∧ Running s) ∨ (i = .debugAlarm ∧ n = 3 ∧ Running s) ∨ (i = .kwkDerivation true ∧ n = 5 ∧ Running s))) ∧
    (let s : State := st ((tDev.wr64 (A.CIPHER_JOB 2) 0x40090).wr64 (A.CIPHER_LOCK 2) 1); s.dev.board.code.val ≠ 2 ∧ Reach A.CIPHER_KOP s) ∧
    (let s : State := st ((tDev.wr64 (A.CIPHER_JOB 2) 0x40090).wr64 (A.CIPHER_LOCK 2) 1); let c : CipherN := 2; let who : CoreN := 0;
      s.dev.board.code.val ≠ 2 ∧ Reaches who (A.CIPHER_JOB c.val) s ∧ s.dev.jobResult c.val ≠ 1 ∧ (s.dev.ccore c.val).ctx = none ∧
      2 ≤ s.dev.fld (A.CIPHER_JOB c.val) 31 16) ∧
    (let s : State := st ({ tDev with board := { Board.shipped with code := 2 } }); let i := Instr.debugAlarm; Running s ∧
      s.dev.board.code.val = 2 ∧ i ∈ [Instr.vmonAlarm, .debugAlarm]) ∧
    (let s : State := st (tDev.wr64 A.CIPHER_STAT 2); let slot : SlotN := (9 : SlotN); let i := Instr.generate 9; Reach A.CIPHER_KOP s ∧
      s.dev.cipherAlarmed = true ∧ i ∈ [Instr.generate slot, .loadClear slot, .loadWrapped slot false, .loadWrapped slot true]) := by
  refine ⟨?_, ?_, ?_, ?_, ?_, ?_, ?_, ?_, ?_, ?_, ?_, ?_, ?_, ?_, ?_⟩
  · unfold Reach Reaches Running; decide +kernel
  · unfold Reach Reaches Running; decide +kernel
  · unfold Reach Reaches Running; decide +kernel
  · unfold Reach Reaches Running; decide +kernel
  · unfold Reach Reaches Running; decide +kernel
  · unfold Reach Reaches Running; decide +kernel
  · unfold Reach Reaches Running; decide +kernel
  · unfold Running; decide +kernel
  · unfold Running; decide +kernel
  · unfold Running; decide +kernel
  · unfold Reach Reaches Running; decide +kernel
  · unfold Reach Reaches Running; decide +kernel
  · unfold Reaches Running; decide +kernel
  · exact ⟨(by unfold Running; decide +kernel), by decide +kernel, by simp⟩
  · exact ⟨(by unfold Reach Reaches Running; decide +kernel), by decide +kernel, by simp⟩

theorem test_CipherJobs_inputs :
    (let s : State := st ({ (tDev.wr64 (A.CIPHER_LOCK 2) 1) with cipher := { ((tDev.wr64 (A.CIPHER_LOCK 2) 1)).cipher with slots := [(9, .key (BitVec.ofNat 512 123456789) 0)], cores := [(2, { ({ run := none, since := 0, susp := none, ctx := none } : CCore) with ctx := some ({ dec := false, slot := 9, slotgen := 0, blk := 0, du := 5, tval := 3, len := 4 } : Ctx) })], kwk := some 5#256 } });
      let c : CipherN := (2 : CipherN); let who := (0 : CoreN);
      let x := match (s.dev.ccore c.val).ctx with | some k => if (s.dev.ccore c.val).restored then k else s.dev.newCtx c.val | none => s.dev.newCtx c.val;
      Reaches who (A.CIPHER_JOB c.val) s ∧ (s.dev.jobResult c.val = 1 ∨ x.len < 2)) ∧
    (let s : State := st (((((tDev.wr64 (A.CIPHER_JOB 2) 0x40090).wr64 (A.CIPHER_JOB_SRC 2) 0x10000000).wr64 (A.CIPHER_JOB_DST 2) 0x10001000).wr64 (A.CIPHER_LOCK 2) 1).wr64 A.CIPHER_STAT 2);
      let c : CipherN := (2 : CipherN); let who := (0 : CoreN);
      let x := match (s.dev.ccore c.val).ctx with | some k => if (s.dev.ccore c.val).restored then k else s.dev.newCtx c.val | none => s.dev.newCtx c.val;
      Reaches who (A.CIPHER_JOB c.val) s ∧ s.dev.jobResult c.val ≠ 1 ∧ 2 ≤ x.len ∧ s.dev.cipherAlarmed = true) ∧
    (let s : State := st (((((tDev.wr64 (A.CIPHER_JOB 2) 0x40090).wr64 (A.CIPHER_JOB_SRC 2) 0x10000000).wr64 (A.CIPHER_JOB_DST 2) 0x10001000).wr64 (A.CIPHER_LOCK 2) 1));
      let c : CipherN := (2 : CipherN); let who := (0 : CoreN);
      let x := match (s.dev.ccore c.val).ctx with | some k => if (s.dev.ccore c.val).restored then k else s.dev.newCtx c.val | none => s.dev.newCtx c.val;
      Reaches who (A.CIPHER_JOB c.val) s ∧ s.dev.jobResult c.val ≠ 1 ∧ 2 ≤ x.len ∧ s.dev.cipherAlarmed = false ∧
      s.dev.slot x.slot = .empty) ∧
    (let s : State := st ({ ((((tDev.wr64 (A.CIPHER_JOB 2) 0x40090).wr64 (A.CIPHER_JOB_SRC 2) 0x10000000).wr64 (A.CIPHER_JOB_DST 2) 0x10001000).wr64 (A.CIPHER_LOCK 2) 1) with cipher := { (((((tDev.wr64 (A.CIPHER_JOB 2) 0x40090).wr64 (A.CIPHER_JOB_SRC 2) 0x10000000).wr64 (A.CIPHER_JOB_DST 2) 0x10001000).wr64 (A.CIPHER_LOCK 2) 1)).cipher with slots := [(9, .key (BitVec.ofNat 512 123456789) 0)] } });
      let c : CipherN := (2 : CipherN); let who := (0 : CoreN);
      let x := match (s.dev.ccore c.val).ctx with | some k => if (s.dev.ccore c.val).restored then k else s.dev.newCtx c.val | none => s.dev.newCtx c.val;
      Reaches who (A.CIPHER_JOB c.val) s ∧ s.dev.jobResult c.val ≠ 1 ∧ 2 ≤ x.len ∧ s.dev.cipherAlarmed = false ∧
      s.dev.slot x.slot ≠ .empty) ∧
    (let s : State := st (((((tDev.wr64 (A.CIPHER_JOB 2) 0x40090).wr64 (A.CIPHER_JOB_SRC 2) 0x10000000).wr64 (A.CIPHER_JOB_DST 2) 0x10001000).wr64 (A.CIPHER_LOCK 2) 1).wr64 A.CIPHER_STAT 2);
      let c : CipherN := (2 : CipherN); let who := (0 : CoreN); Reaches who (A.CIPHER_JOB c.val) s ∧ (s.dev.ccore c.val).ctx = none) ∧
    (let s : State := st ({ (tDev.wr64 (A.CIPHER_LOCK 2) 1) with cipher := { ((tDev.wr64 (A.CIPHER_LOCK 2) 1)).cipher with slots := [(9, .key (BitVec.ofNat 512 123456789) 0)], cores := [(2, { ({ run := none, since := 0, susp := none, ctx := none } : CCore) with ctx := some ({ dec := false, slot := 9, slotgen := 0, blk := 0, du := 5, tval := 3, len := 4 } : Ctx) })], kwk := some 5#256 } });
      let c : CipherN := (2 : CipherN); let who := (0 : CoreN);
      let k := ({ dec := false, slot := 9, slotgen := 0, blk := 0, du := 5, tval := 3, len := 4 } : Ctx);
      Reaches who (A.CIPHER_JOB c.val) s ∧ (s.dev.ccore c.val).ctx = some k ∧ s.dev.jobResult c.val ≠ 1) ∧
    (let s : State := st ({ (((((tDev.wr64 (A.CIPHER_JOB 2) 0x40090).wr64 (A.CIPHER_JOB_SRC 2) 0x10000000).wr64 (A.CIPHER_JOB_DST 2) 0x10001000).wr64 (A.CIPHER_LOCK 2) 1).wr64 (A.CIPHER_JOB_STAT 2) 1) with cipher := { ((((((tDev.wr64 (A.CIPHER_JOB 2) 0x40090).wr64 (A.CIPHER_JOB_SRC 2) 0x10000000).wr64 (A.CIPHER_JOB_DST 2) 0x10001000).wr64 (A.CIPHER_LOCK 2) 1).wr64 (A.CIPHER_JOB_STAT 2) 1)).cipher with slots := [(9, .key (BitVec.ofNat 512 123456789) 0)], cores := [(2, { ({ run := none, since := 0, susp := none, ctx := none } : CCore) with ctx := some ({ dec := false, slot := 9, slotgen := 0, blk := 0, du := 5, tval := 3, len := 4 } : Ctx) })] } });
      let c : CipherN := (2 : CipherN); let who := (0 : CoreN);
      let k := ({ dec := false, slot := 9, slotgen := 0, blk := 0, du := 5, tval := 3, len := 4 } : Ctx);
      Reaches who (A.CIPHER_JOB c.val) s ∧ (s.dev.ccore c.val).ctx = some k ∧ s.dev.jobResult c.val = 1 ∧ JobInHub c.val k s.dev ∧
      k.len < 65536 ∧ k.blk < k.len) ∧
    (let s : State := st (((((tDev.wr64 (A.CIPHER_JOB 2) 0x40090).wr64 (A.CIPHER_JOB_SRC 2) 0x10000000).wr64 (A.CIPHER_JOB_DST 2) 0x10001000).wr64 (A.CIPHER_LOCK 2) 1).wr64 A.CIPHER_STAT 2);
      let c : CipherN := (2 : CipherN); Running s ∧ (s.dev.ccore c.val).ctx = none) ∧
    (let s : State := st ({ (((((tDev.wr64 (A.CIPHER_JOB 2) 0x40090).wr64 (A.CIPHER_JOB_SRC 2) 0x10000000).wr64 (A.CIPHER_JOB_DST 2) 0x10001000).wr64 (A.CIPHER_LOCK 2) 1).wr64 (A.CIPHER_JOB_STAT 2) 1) with cipher := { ((((((tDev.wr64 (A.CIPHER_JOB 2) 0x40090).wr64 (A.CIPHER_JOB_SRC 2) 0x10000000).wr64 (A.CIPHER_JOB_DST 2) 0x10001000).wr64 (A.CIPHER_LOCK 2) 1).wr64 (A.CIPHER_JOB_STAT 2) 1)).cipher with slots := [(9, .key (BitVec.ofNat 512 123456789) 0)], cores := [(2, { ({ run := none, since := 0, susp := none, ctx := none } : CCore) with ctx := some ({ dec := false, slot := 9, slotgen := 0, blk := 0, du := 5, tval := 3, len := 4 } : Ctx) })] } });
      let c : CipherN := (2 : CipherN);
      let k := ({ dec := false, slot := 9, slotgen := 0, blk := 0, du := 5, tval := 3, len := 4 } : Ctx); Running s ∧
      (s.dev.ccore c.val).ctx = some k ∧ s.dev.jobResult c.val = 1 ∧ JobInHub c.val k s.dev ∧ k.len < 65536) ∧
    (let s : State := st ({ (((((tDev.wr64 (A.CIPHER_JOB 2) 0x40090).wr64 (A.CIPHER_JOB_SRC 2) 0x10000000).wr64 (A.CIPHER_JOB_DST 2) 0x10001000).wr64 (A.CIPHER_LOCK 2) 1).wr64 (A.CIPHER_JOB_STAT 2) 1) with cipher := { ((((((tDev.wr64 (A.CIPHER_JOB 2) 0x40090).wr64 (A.CIPHER_JOB_SRC 2) 0x10000000).wr64 (A.CIPHER_JOB_DST 2) 0x10001000).wr64 (A.CIPHER_LOCK 2) 1).wr64 (A.CIPHER_JOB_STAT 2) 1)).cipher with slots := [(9, .key (BitVec.ofNat 512 123456789) 0)], cores := [(2, { ({ run := none, since := 0, susp := none, ctx := none } : CCore) with ctx := some ({ dec := false, slot := 9, slotgen := 0, blk := 0, du := 5, tval := 3, len := 4 } : Ctx) })] } });
      let c : CipherN := (2 : CipherN);
      let k := ({ dec := false, slot := 9, slotgen := 0, blk := 0, du := 5, tval := 3, len := 4 } : Ctx);
      let e := (match errOfCode 2 with | some e => e | none => .decode); let err := (2 : Fin 8); Running s ∧
      (s.dev.ccore c.val).ctx = some k ∧ s.dev.jobResult c.val = 1 ∧ JobInHub c.val k s.dev ∧ errOfCode (Fin.val err) = some e) ∧
    (let s : State := st ({ (tDev.wr64 (A.CIPHER_LOCK 2) 1) with cipher := { ((tDev.wr64 (A.CIPHER_LOCK 2) 1)).cipher with slots := [(9, .key (BitVec.ofNat 512 123456789) 0)], cores := [(2, { ({ run := none, since := 0, susp := none, ctx := none } : CCore) with ctx := some ({ dec := false, slot := 9, slotgen := 0, blk := 0, du := 5, tval := 3, len := 4 } : Ctx) })], kwk := some 5#256 } });
      let c : CipherN := (2 : CipherN); let who := (0 : CoreN);
      let x := ({ dec := false, slot := 9, slotgen := 0, blk := 0, du := 5, tval := 3, len := 4 } : Ctx); let k := (5#256);
      Reaches who (A.CIPHER_CTXOP c.val) s ∧ s.dev.cipherAlarmed = false ∧ s.dev.jobResult c.val ≠ 1 ∧ (s.dev.ccore c.val).ctx = some x ∧
      s.dev.cipher.kwk = some k) ∧
    (let s : State := st (((((tDev.wr64 (A.CIPHER_JOB 2) 0x40090).wr64 (A.CIPHER_JOB_SRC 2) 0x10000000).wr64 (A.CIPHER_JOB_DST 2) 0x10001000).wr64 (A.CIPHER_LOCK 2) 1).wr64 A.CIPHER_STAT 2);
      let c : CipherN := (2 : CipherN); let who := (0 : CoreN); let o : BitVec 4 := 9#4; Reaches who (A.CIPHER_CTXOP c.val) s ∧
      5 ≤ o.toNat) ∧
    (let s : State := st ((tDev.wr64 (A.CIPHER_LOCK 2) 1).wr64 A.CIPHER_STAT 2); let c : CipherN := (2 : CipherN); let who := (0 : CoreN);
      let i := Instr.saveClear 2 0; Reaches who (A.CIPHER_CTXOP c.val) s ∧
      i ∈ [Instr.saveClear c who, .saveWrapped c who, .restoreClear c who, .restoreWrapped c who] ∧ s.dev.cipherAlarmed = true) ∧
    (let s : State := st ({ (((((tDev.wr64 (A.CIPHER_JOB 2) 0x40090).wr64 (A.CIPHER_JOB_SRC 2) 0x10000000).wr64 (A.CIPHER_JOB_DST 2) 0x10001000).wr64 (A.CIPHER_LOCK 2) 1).wr64 (A.CIPHER_JOB_STAT 2) 1) with cipher := { ((((((tDev.wr64 (A.CIPHER_JOB 2) 0x40090).wr64 (A.CIPHER_JOB_SRC 2) 0x10000000).wr64 (A.CIPHER_JOB_DST 2) 0x10001000).wr64 (A.CIPHER_LOCK 2) 1).wr64 (A.CIPHER_JOB_STAT 2) 1)).cipher with slots := [(9, .key (BitVec.ofNat 512 123456789) 0)], cores := [(2, { ({ run := none, since := 0, susp := none, ctx := none } : CCore) with ctx := some ({ dec := false, slot := 9, slotgen := 0, blk := 0, du := 5, tval := 3, len := 4 } : Ctx) })] } });
      let c : CipherN := (2 : CipherN); let who := (0 : CoreN); let i := Instr.saveClear 2 0; Reaches who (A.CIPHER_CTXOP c.val) s ∧
      i ∈ [Instr.saveClear c who, .saveWrapped c who, .restoreClear c who, .restoreWrapped c who] ∧ s.dev.cipherAlarmed = false ∧
      s.dev.jobResult c.val = 1) ∧
    (let s : State := st ((tDev.wr64 (A.CIPHER_LOCK 2) 1)); let c : CipherN := (2 : CipherN); let who := (0 : CoreN);
      let i := Instr.restoreClear 2 0; let o := (none : Option Ctx); Reaches who (A.CIPHER_CTXOP c.val) s ∧
      ((i, o) ∈ [(Instr.restoreClear c who, ctxOfWord (s.dev.ctxBuf c.val 6)), (.restoreWrapped c who, s.dev.ctxOpened c.val)]) ∧
      s.dev.cipherAlarmed = false ∧ s.dev.jobResult c.val ≠ 1 ∧ o = none) ∧
    (let s : State := st ({ ((List.range 6).foldl (fun d k => d.wr64 (A.CIPHER_CTXBUF 2 k) (BitVec.ofNat 64 (({ ({ dec := false, slot := 9, slotgen := 0, blk := 0, du := 5, tval := 3, len := 4 } : Ctx) with slotgen := 3 } : Ctx).word / 2 ^ (64 * k) % 2 ^ 64))) (tDev.wr64 (A.CIPHER_LOCK 2) 1)) with cipher := { (((List.range 6).foldl (fun d k => d.wr64 (A.CIPHER_CTXBUF 2 k) (BitVec.ofNat 64 (({ ({ dec := false, slot := 9, slotgen := 0, blk := 0, du := 5, tval := 3, len := 4 } : Ctx) with slotgen := 3 } : Ctx).word / 2 ^ (64 * k) % 2 ^ 64))) (tDev.wr64 (A.CIPHER_LOCK 2) 1))).cipher with slots := [(9, .key (BitVec.ofNat 512 123456789) 0)] } });
      let c : CipherN := (2 : CipherN); let who := (0 : CoreN); let i := Instr.restoreClear 2 0;
      let o := (some { ({ dec := false, slot := 9, slotgen := 0, blk := 0, du := 5, tval := 3, len := 4 } : Ctx) with slotgen := 3 } : Option Ctx);
      let k := ({ ({ dec := false, slot := 9, slotgen := 0, blk := 0, du := 5, tval := 3, len := 4 } : Ctx) with slotgen := 3 } : Ctx);
      Reaches who (A.CIPHER_CTXOP c.val) s ∧
      ((i, o) ∈ [(Instr.restoreClear c who, ctxOfWord (s.dev.ctxBuf c.val 6)), (.restoreWrapped c who, s.dev.ctxOpened c.val)]) ∧
      s.dev.cipherAlarmed = false ∧ s.dev.jobResult c.val ≠ 1 ∧ o = some k ∧ k.slotgen ≠ s.dev.slotGen k.slot) := by
  refine ⟨?_, ?_, ?_, ?_, ?_, ?_, ?_, ?_, ?_, ?_, ?_, ?_, ?_, ?_, ?_, ?_⟩
  · unfold Reaches Running; decide +kernel
  · unfold Reaches Running; decide +kernel
  · unfold Reaches Running; decide +kernel
  · unfold Reaches Running; decide +kernel
  · unfold Reaches Running; decide +kernel
  · unfold Reaches Running; decide +kernel
  · unfold JobInHub Reaches Running; decide +kernel
  · unfold Running; decide +kernel
  · unfold JobInHub Running; decide +kernel
  · unfold JobInHub Running; decide +kernel
  · unfold Reaches Running; decide +kernel
  · unfold Reaches Running; decide +kernel
  · exact ⟨(by unfold Reaches Running; decide +kernel), by simp, by decide +kernel⟩
  · exact ⟨(by unfold Reaches Running; decide +kernel), by simp, by decide +kernel, by decide +kernel⟩
  · exact ⟨(by unfold Reaches Running; decide +kernel), List.mem_cons.2 (Or.inl (Prod.ext rfl (by decide +kernel))), by decide +kernel, by decide +kernel, by decide +kernel⟩
  · exact ⟨(by unfold Reaches Running; decide +kernel), List.mem_cons.2 (Or.inl (Prod.ext rfl (by decide +kernel))), by decide +kernel, by decide +kernel, by decide +kernel, by decide +kernel⟩

theorem test_CipherJobs_2_inputs :
    (let s : State := st ({ ((List.range 6).foldl (fun d k => d.wr64 (A.CIPHER_CTXBUF 2 k) (BitVec.ofNat 64 (({ ({ dec := false, slot := 9, slotgen := 0, blk := 0, du := 5, tval := 3, len := 4 } : Ctx) with slotgen := 0 } : Ctx).word / 2 ^ (64 * k) % 2 ^ 64))) (tDev.wr64 (A.CIPHER_LOCK 2) 1)) with cipher := { (((List.range 6).foldl (fun d k => d.wr64 (A.CIPHER_CTXBUF 2 k) (BitVec.ofNat 64 (({ ({ dec := false, slot := 9, slotgen := 0, blk := 0, du := 5, tval := 3, len := 4 } : Ctx) with slotgen := 0 } : Ctx).word / 2 ^ (64 * k) % 2 ^ 64))) (tDev.wr64 (A.CIPHER_LOCK 2) 1))).cipher with slots := [(9, .key (BitVec.ofNat 512 123456789) 0)] } });
      let c : CipherN := (2 : CipherN); let who := (0 : CoreN); let i := Instr.restoreClear 2 0;
      let o := (some ({ dec := false, slot := 9, slotgen := 0, blk := 0, du := 5, tval := 3, len := 4 } : Ctx) : Option Ctx);
      let k := ({ dec := false, slot := 9, slotgen := 0, blk := 0, du := 5, tval := 3, len := 4 } : Ctx);
      Reaches who (A.CIPHER_CTXOP c.val) s ∧
      ((i, o) ∈ [(Instr.restoreClear c who, ctxOfWord (s.dev.ctxBuf c.val 6)), (.restoreWrapped c who, s.dev.ctxOpened c.val)]) ∧
      s.dev.cipherAlarmed = false ∧ s.dev.jobResult c.val ≠ 1 ∧ o = some k ∧ k.slotgen = s.dev.slotGen k.slot) := by
  exact ⟨(by unfold Reaches Running; decide +kernel), List.mem_cons.2 (Or.inl (Prod.ext rfl (by decide +kernel))), by decide +kernel, by decide +kernel, by decide +kernel, by decide +kernel⟩

theorem test_CipherMessages_inputs :
    (let s : State := st ({ tDev with board := { Board.shipped with code := 2 } }); Running s ∧ s.dev.board.code.val = 2) ∧
    (let s : State := st (tDev);
      let m := ({ id := 4, pen := 7, slot := 9, cls := 0, rid := 1, read := true, blocks := 256, cmd := { fn := 0, qid := 1, cid := 7 } } : CMsg);
      Running s ∧ s.dev.board.code.val ≠ 2 ∧ (s.dev.slot m.slot.val = .empty ∨ m.slot.val ∉ bypassSlots s.dev.media.nss)) ∧
    (let s : State := st (tDev);
      let m := ({ id := 4, pen := 7, slot := 9, cls := 0, rid := 1, read := true, blocks := 256, cmd := { fn := 0, qid := 1, cid := 7 } } : CMsg);
      let inPen := s.dev.inPenRange m.pen.val m.slot.val;
      let stranger := (s.dev.host.reads.find? (fun r => r.h == m.cmd) = none ∧ s.dev.wr.entries.find? (fun e => decide (e.h = m.cmd) && !e.acked && decide (e.q ≠ peerQ)) = none);
      Running s ∧ s.dev.board.code.val ≠ 2 ∧ s.dev.host.stopped = false ∧ stranger ∧ (inPen = false ∨ s.dev.slot m.slot.val = .empty)) ∧
    (let s : State := st ({ (((tDev.wr64 (A.CIPHER_PENRANGE 7) 0x00400008).wr64 A.CIPHER_STAT 1).wr64 (A.CIPHER_CORE_STAT 3) 1) with cipher := { ((((tDev.wr64 (A.CIPHER_PENRANGE 7) 0x00400008).wr64 A.CIPHER_STAT 1).wr64 (A.CIPHER_CORE_STAT 3) 1)).cipher with slots := [(9, .key (BitVec.ofNat 512 123456789) 0)] } });
      let m := ({ id := 4, pen := 7, slot := 9, cls := 0, rid := 1, read := true, blocks := 256, cmd := { fn := 0, qid := 1, cid := 7 } } : CMsg);
      let c : Nat := 3; let inPen := s.dev.inPenRange m.pen.val m.slot.val; Running s ∧ s.dev.board.code.val ≠ 2 ∧ inPen = true ∧
      s.dev.slot m.slot.val ≠ .empty ∧ s.dev.bit A.CIPHER_STAT 0 = true ∧ s.dev.freeCore = some c ∧ s.dev.cipher.queue = []) ∧
    (let s : State := st ({ (((tDev.wr64 (A.CIPHER_PENRANGE 7) 0x00400008).wr64 A.CIPHER_STAT 1).wr64 (A.CIPHER_CORE_STAT 3) 1) with cipher := { ((((tDev.wr64 (A.CIPHER_PENRANGE 7) 0x00400008).wr64 A.CIPHER_STAT 1).wr64 (A.CIPHER_CORE_STAT 3) 1)).cipher with slots := [(9, .key (BitVec.ofNat 512 123456789) 0)], cores := [(3, { ({ run := none, since := 0, susp := none, ctx := none } : CCore) with run := some ({ id := 4, pen := 7, slot := 9, cls := 2, rid := 1, read := true, blocks := 256, cmd := { fn := 0, qid := 1, cid := 7 } } : CMsg) })] } });
      let m := ({ id := 4, pen := 7, slot := 9, cls := 0, rid := 1, read := true, blocks := 256, cmd := { fn := 0, qid := 1, cid := 7 } } : CMsg);
      let c : Nat := 3;
      let v := ({ id := 4, pen := 7, slot := 9, cls := 2, rid := 1, read := true, blocks := 256, cmd := { fn := 0, qid := 1, cid := 7 } } : CMsg);
      let inPen := s.dev.inPenRange m.pen.val m.slot.val; Running s ∧ s.dev.board.code.val ≠ 2 ∧ inPen = true ∧
      s.dev.slot m.slot.val ≠ .empty ∧ s.dev.bit A.CIPHER_STAT 0 = true ∧ s.dev.freeCore = none ∧ m.read = true ∧ m.cls.val = 0 ∧
      s.dev.cipherVictim = some (c, v) ∧ s.dev.cipher.queue.find? (fun x => x.read && decide (x.cls.val = 0)) = none) ∧
    (let s : State := st ({ (((tDev.wr64 (A.CIPHER_PENRANGE 7) 0x00400008).wr64 A.CIPHER_STAT 1).wr64 (A.CIPHER_CORE_STAT 3) 1) with cipher := { ((((tDev.wr64 (A.CIPHER_PENRANGE 7) 0x00400008).wr64 A.CIPHER_STAT 1).wr64 (A.CIPHER_CORE_STAT 3) 1)).cipher with slots := [(9, .key (BitVec.ofNat 512 123456789) 0)], cores := [(3, { ({ run := none, since := 0, susp := none, ctx := none } : CCore) with run := some ({ id := 4, pen := 7, slot := 9, cls := 2, rid := 1, read := true, blocks := 256, cmd := { fn := 0, qid := 1, cid := 7 } } : CMsg) })] } });
      let m := ({ id := 4, pen := 7, slot := 9, cls := 1, rid := 1, read := true, blocks := 256, cmd := { fn := 0, qid := 1, cid := 7 } } : CMsg);
      let inPen := s.dev.inPenRange m.pen.val m.slot.val; Running s ∧ s.dev.board.code.val ≠ 2 ∧ inPen = true ∧
      s.dev.slot m.slot.val ≠ .empty ∧
      (s.dev.bit A.CIPHER_STAT 0 = false ∨ (s.dev.freeCore = none ∧ (s.dev.cipher.queue ++ [m]).find? (fun x => x.read && decide (x.cls.val = 0)) = none) ∨ (s.dev.freeCore = none ∧ s.dev.cipherVictim = none))) ∧
    (let s : State := st ({ (((tDev.wr64 (A.CIPHER_PENRANGE 7) 0x00400008).wr64 A.CIPHER_STAT 1).wr64 (A.CIPHER_CORE_STAT 3) 1) with cipher := { ((((tDev.wr64 (A.CIPHER_PENRANGE 7) 0x00400008).wr64 A.CIPHER_STAT 1).wr64 (A.CIPHER_CORE_STAT 3) 1)).cipher with slots := [(9, .key (BitVec.ofNat 512 123456789) 0)], cores := [(3, { ({ run := none, since := 0, susp := none, ctx := none } : CCore) with run := some ({ id := 4, pen := 7, slot := 9, cls := 2, rid := 1, read := true, blocks := 256, cmd := { fn := 0, qid := 1, cid := 7 } } : CMsg) })] } });
      let c : Nat := 3;
      let v := ({ id := 4, pen := 7, slot := 9, cls := 2, rid := 1, read := true, blocks := 256, cmd := { fn := 0, qid := 1, cid := 7 } } : CMsg);
      let k : Nat := 3;
      let w := ({ id := 4, pen := 7, slot := 9, cls := 2, rid := 1, read := true, blocks := 256, cmd := { fn := 0, qid := 1, cid := 7 } } : CMsg);
      s.dev.cipherVictim = some (c, v) ∧ k < 24 ∧ (s.dev.ccore k).run = some w ∧ s.dev.pooled k = true ∧ (s.dev.ccore k).susp = none) ∧
    (let s : State := st ({ tDev with board := { Board.shipped with code := 2 } }); let c : CipherN := 3; Running s ∧
      (s.dev.ccore c.val).run = none) ∧
    (let s : State := st ({ (((tDev.wr64 (A.CIPHER_PENRANGE 7) 0x00400008).wr64 A.CIPHER_STAT 1).wr64 (A.CIPHER_CORE_STAT 3) 1) with cipher := { ((((tDev.wr64 (A.CIPHER_PENRANGE 7) 0x00400008).wr64 A.CIPHER_STAT 1).wr64 (A.CIPHER_CORE_STAT 3) 1)).cipher with slots := [(9, .key (BitVec.ofNat 512 123456789) 0)], cores := [(3, { ({ run := none, since := 0, susp := none, ctx := none } : CCore) with run := some ({ id := 4, pen := 7, slot := 9, cls := 2, rid := 1, read := true, blocks := 256, cmd := { fn := 0, qid := 1, cid := 7 } } : CMsg) })] } });
      let c : CipherN := 3;
      let m := ({ id := 4, pen := 7, slot := 9, cls := 2, rid := 1, read := true, blocks := 256, cmd := { fn := 0, qid := 1, cid := 7 } } : CMsg);
      Running s ∧ (s.dev.ccore c.val).run = some m ∧ s.dev.cipher.queue = [] ∧ s.dev.bit (A.CIPHER_CORE_STAT c.val) 1 = false ∧
      s.dev.host.reads.find? (fun r => m.read && r.h == m.cmd && !r.failed) = none) ∧
    (let s : State := st ({ (((tDev.wr64 (A.CIPHER_PENRANGE 7) 0x00400008).wr64 A.CIPHER_STAT 1).wr64 (A.CIPHER_CORE_STAT 3) 1) with cipher := { ((((tDev.wr64 (A.CIPHER_PENRANGE 7) 0x00400008).wr64 A.CIPHER_STAT 1).wr64 (A.CIPHER_CORE_STAT 3) 1)).cipher with slots := [(9, .key (BitVec.ofNat 512 123456789) 0)], queue := [({ id := 4, pen := 7, slot := 9, cls := 1, rid := 1, read := true, blocks := 256, cmd := { fn := 0, qid := 1, cid := 8 } } : CMsg)], cores := [(3, { ({ run := none, since := 0, susp := none, ctx := none } : CCore) with run := some ({ id := 4, pen := 7, slot := 9, cls := 2, rid := 1, read := true, blocks := 256, cmd := { fn := 0, qid := 1, cid := 7 } } : CMsg) })] } });
      let c : CipherN := (3 : CipherN);
      let m := ({ id := 4, pen := 7, slot := 9, cls := 2, rid := 1, read := true, blocks := 256, cmd := { fn := 0, qid := 1, cid := 7 } } : CMsg);
      let x := ({ id := 4, pen := 7, slot := 9, cls := 1, rid := 1, read := true, blocks := 256, cmd := { fn := 0, qid := 1, cid := 8 } } : CMsg);
      Running s ∧ (s.dev.ccore c.val).run = some m ∧ (s.dev.ccore c.val).susp = none ∧ s.dev.cipher.queue = [x] ∧
      s.dev.slot x.slot.val ≠ .empty ∧ s.dev.inPenRange x.pen.val x.slot.val = true ∧ s.dev.bit A.CIPHER_STAT 0 = true ∧
      s.dev.pooled c.val = true ∧ s.dev.bit (A.CIPHER_CORE_STAT c.val) 1 = false ∧ s.dev.freeCore = none ∧
      s.dev.host.reads.find? (fun r => m.read && r.h == m.cmd && !r.failed) = none) ∧
    (let s : State := st (tDev); let c : CipherN := 3; let st := A.CIPHER_CORE_STAT c.val; Reach (A.CIPHER_CORE_CTL c.val) s ∧
      s.dev.cipher.queue = [] ∧ s.dev.pooled c.val = false ∧ s.dev.fld (A.CIPHER_LOCK c.val) 6 0 = 0 ∧ s.dev.bit st 1 = false) ∧
    (let s : State := st ({ (((tDev.wr64 (A.CIPHER_PENRANGE 7) 0x00400008).wr64 A.CIPHER_STAT 1).wr64 (A.CIPHER_CORE_STAT 3) 1) with cipher := { ((((tDev.wr64 (A.CIPHER_PENRANGE 7) 0x00400008).wr64 A.CIPHER_STAT 1).wr64 (A.CIPHER_CORE_STAT 3) 1)).cipher with slots := [(9, .key (BitVec.ofNat 512 123456789) 0)] } });
      let c : CipherN := 3; Reach (A.CIPHER_CORE_CTL c.val) s ∧ s.dev.cipher.queue = [] ∧ s.dev.pooled c.val = true ∧
      (s.dev.ccore c.val).run = none) ∧
    (let s : State := st ({ (((tDev.wr64 (A.CIPHER_PENRANGE 7) 0x00400008).wr64 A.CIPHER_STAT 1).wr64 (A.CIPHER_CORE_STAT 3) 1) with cipher := { ((((tDev.wr64 (A.CIPHER_PENRANGE 7) 0x00400008).wr64 A.CIPHER_STAT 1).wr64 (A.CIPHER_CORE_STAT 3) 1)).cipher with slots := [(9, .key (BitVec.ofNat 512 123456789) 0)], cores := [(3, { ({ run := none, since := 0, susp := none, ctx := none } : CCore) with run := some ({ id := 4, pen := 7, slot := 9, cls := 2, rid := 1, read := true, blocks := 256, cmd := { fn := 0, qid := 1, cid := 7 } } : CMsg) })] } });
      let c : CipherN := 3; Reach (A.CIPHER_CORE_CTL c.val) s ∧ s.dev.cipher.queue = [] ∧ s.dev.pooled c.val = true ∧
      (s.dev.ccore c.val).run ≠ none) ∧
    (let s : State := st ((tDev.wr64 (A.CIPHER_LOCK 3) 5)); let c : CipherN := (3 : CipherN); let who := (0 : CoreN);
      let cur := s.dev.fld (A.CIPHER_LOCK c.val) 6 0; Reaches who (A.CIPHER_LOCK c.val) s ∧ cur ≠ 0 ∧ cur ≠ who.val + 1) ∧
    (let s : State := st (tDev); let c : CipherN := 3; let o : BitVec 7 := 1#7; let who := (0 : CoreN);
      let cur := s.dev.fld (A.CIPHER_LOCK c.val) 6 0; Reaches who (A.CIPHER_LOCK c.val) s ∧ (cur = 0 ∨ cur = who.val + 1) ∧ o ≠ 0) ∧
    (let s : State := st (tDev); let c : CipherN := 3; let who := (0 : CoreN); let cur := s.dev.fld (A.CIPHER_LOCK c.val) 6 0;
      Reaches who (A.CIPHER_LOCK c.val) s ∧ (cur = 0 ∨ cur = who.val + 1) ∧ s.dev.bit (A.CIPHER_CORE_CTL c.val) 0 = false) := by
  refine ⟨?_, ?_, ?_, ?_, ?_, ?_, ?_, ?_, ?_, ?_, ?_, ?_, ?_, ?_, ?_, ?_⟩
  · unfold Running; decide +kernel
  · unfold Running; decide +kernel
  · unfold Running; decide +kernel
  · unfold Running; decide +kernel
  · unfold Running; decide +kernel
  · unfold Running; decide +kernel
  · decide +kernel
  · unfold Running; decide +kernel
  · unfold Running; decide +kernel
  · unfold Running; decide +kernel
  · unfold Reach Reaches Running; decide +kernel
  · unfold Reach Reaches Running; decide +kernel
  · unfold Reach Reaches Running; decide +kernel
  · unfold Reaches Running; decide +kernel
  · unfold Reaches Running; decide +kernel
  · unfold Reaches Running; decide +kernel

theorem test_CipherMessages_2_inputs :
    (let s : State := st (tDev.wr64 (A.CIPHER_CORE_CTL 3) 1); let c : CipherN := (3 : CipherN); let who := (0 : CoreN);
      let cur := s.dev.fld (A.CIPHER_LOCK c.val) 6 0; Reaches who (A.CIPHER_LOCK c.val) s ∧ (cur = 0 ∨ cur = who.val + 1) ∧
      s.dev.bit (A.CIPHER_CORE_CTL c.val) 0 = true ∧ s.dev.bit (A.CIPHER_CORE_STAT c.val) 1 = false ∧ s.dev.cipher.queue = []) := by
  unfold Reaches Running; decide +kernel

theorem test_RegisterAccess_inputs :
    (let i : Nat := 3; i < 64) ∧
    (let s : State := st tDev; let n := (2 : CoreN); let a : Addr := BitVec.ofNat 40 A.THERM_TJMAX;
      let r := ((regAt a.toNat).getD ({ off := 0 }, 0)).1; let i := ((regAt a.toNat).getD ({ off := 0 }, 0)).2; Reaches n a.toNat s ∧
      regAt a.toNat = some (r, i) ∧ blockOf a.toNat ∈ [2, 3, 13]) ∧
    (let s : State := st (tDev); let a : Addr := 0x10000100#40; Running s ∧ 0x10000000 ≤ a.toNat ∧ a.toNat + 8 ≤ 0x11000000) ∧
    (let s : State := st tDev; let a : Addr := BitVec.ofNat 40 A.CLK_CTL; let hit : Hit := .none; let n := (0 : CoreN);
      let r := ((regAt a.toNat).getD ({ off := 0 }, 0)).1; let i := ((regAt a.toNat).getD ({ off := 0 }, 0)).2; Running s ∧
      s.dev.accessErr (.core n true) a.toNat false hit = none ∧ regAt a.toNat = some (r, i) ∧ (∀ c : Ch, a.toNat ≠ A.MULE_TBL_DATA c.val)) ∧
    (let s : State := st { tDev with dram := { tDev.dram with bad := [0x1000000000] } }; Running s) ∧
    (let s : State := st tDev; let a : Addr := 0x0400000005; let hit : Hit := .none; let n := (0 : CoreN); let m := true;
      let e := BusErr.decode; Running s ∧ e ≠ .uncorr ∧ s.dev.accessErr (.core n m) a.toNat true hit = some e) ∧
    (let s : State := st tDev; let a : Addr := 0x0400000005; let hit : Hit := .none; let n := (0 : CoreN); let m := true;
      let e := BusErr.decode; Running s ∧ e ≠ .uncorr ∧ s.dev.accessErr (.core n m) a.toNat false hit = some e) ∧
    (let old : W64 := BitVec.ofNat 64 (2^63); let a : Nat := 0x0200050018; let i : Nat := 3; a < 2 ^ 40 ∧ bitOf old 63 = true ∧ i ≠ 62) ∧
    (let old : W64 := 5#64; let a : Nat := 0x0200050018; a < 2 ^ 40 ∧ bitOf old 63 = false) ∧
    (let s : State := st { tDev with dram := { tDev.dram with bad := [0x1000000000] } }; let n := (0 : CoreN); let m := true;
      let a : Addr := 0x1000000000; let hit : Hit := .none; Running s ∧ isDram a.toNat = true ∧
      s.dev.accessErr (.core n m) a.toNat false hit = some .uncorr) ∧
    (let s : State := st tDev; let a : Addr := 0x0400000005; let hit : Hit := .none; let n : OxN := (2 : OxN); let e := BusErr.decode;
      Running s ∧ e ≠ .uncorr ∧ e ≠ .locked ∧ s.dev.accessErr (.ox n) a.toNat true hit = some e) ∧
    (let s : State := st tDev; let a : Addr := 0x0400000005; Running s ∧ a.toNat / 2 ^ 32 = 4) ∧
    (let s : State := st tDev; let a : Addr := 0x14; let hit : Hit := .none; Running s ∧ s.dev.hostErr hit = none ∧ a.toNat = 0x14) ∧
    (let s : State := st tDev; let a : Addr := 0x24; let hit : Hit := .none; Running s ∧ s.dev.hostErr hit = none ∧ a.toNat = 0x24) ∧
    (let s : State := st tDev; let a : Addr := 0x30; let hit : Hit := .none; Running s ∧ s.dev.hostErr hit = none ∧
      (a.toNat = 0x28 ∨ a.toNat = 0x30)) ∧
    (let s : State := st tDev; let fn := (0 : FnN); let a : Addr := 0x0200000100; let hit : Hit := .none; Running s ∧
      s.dev.hostErr hit = none ∧ a.toNat = 2 * 2 ^ 32 + 0x100 ∧ s.dev.isPf fn.val = true) := by
  refine ⟨?_, ?_, ?_, ?_, ?_, ?_, ?_, ?_, ?_, ?_, ?_, ?_, ?_, ?_, ?_, ?_⟩
  · decide +kernel
  · exact ⟨(by unfold Reaches Running; decide +kernel), some_getD (by decide +kernel) ({ off := 0 }, 0), by decide +kernel⟩
  · unfold Running; decide +kernel
  · exact ⟨(by unfold Running; decide +kernel), by decide +kernel, some_getD (by decide +kernel) ({ off := 0 }, 0), by decide +kernel⟩
  · unfold Running; decide +kernel
  · unfold Running; decide +kernel
  · unfold Running; decide +kernel
  · decide +kernel
  · decide +kernel
  · unfold Running; decide +kernel
  · unfold Running; decide +kernel
  · unfold Running; decide +kernel
  · unfold Running; decide +kernel
  · unfold Running; decide +kernel
  · unfold Running; decide +kernel
  · unfold Running; decide +kernel

theorem test_RegisterAccess_2_inputs :
    (let s : State := st tDev; let fn := (3 : FnN); let a : Addr := 0x0200000000; let hit : Hit := .none; Running s ∧
      s.dev.hostErr hit = none ∧ a.toNat / 2 ^ 32 = 2 ∧ s.dev.isPf fn.val = false) ∧
    (let s : State := st tDev; let a : Addr := 0xFF00000000; let hit : Hit := .none; Running s ∧ s.dev.hostErr hit = none ∧
      a.toNat = 0xFF * 2 ^ 32) ∧
    (let s : State := st tDev; let a : Addr := 0x14; let hit : Hit := .xreset; let e := BusErr.xreset; Running s ∧
      s.dev.hostErr hit = some e ∧ a.toNat / 2 ^ 32 ≠ 4) ∧
    (let s : State := st (tDev); let v := 9#64; let c := ((A.CAIRN_CTL, Instr.cairnCtlEnWrite (bitOf 9#64 0)) : Nat × Instr);
      c ∈ [(A.CAIRN_CTL, Instr.cairnCtlEnWrite (bitOf v 0)), (A.OX_CTL, .oxCtlEnWrite (bitOf v 0)), (A.HEN_CTL, .henCtlEnWrite (v.setWidth 3)), (A.PAIR_FENCE, .pairFenceWrite (bitOf v 0)), (A.PAIR_CLAIM, .pairClaimWrite v), (A.PAIR_REL, .pairRelWrite v), (A.PAIR_CTL, .pairCtlEnWrite (v.setWidth 32)), (A.PEN_PCTL 255, .penPctlWrite 255 (bitOf v 1) (bitOf v 0)), (A.MULE_CTL 63, .muleCtlEnWrite 63 (bitOf v 0)), (A.MULE_TBL_DATA 63, .muleTblDataWrite 63 (v.setWidth 32)), (A.CIPHER_CORE_CTL 23, .cipherCoreEnWrite 23 (bitOf v 0))] ∧
      Reach c.1 s) := by
  refine ⟨?_, ?_, ?_, ?_⟩
  · unfold Running; decide +kernel
  · unfold Running; decide +kernel
  · unfold Running; decide +kernel
  · exact ⟨by simp, by unfold Reach Reaches Running; decide +kernel⟩

theorem test_UndecodedAddress_inputs :
    (let d : Dev := tDev; let a := 0x60000000; d.board.dramGib ≤ 128 ∧ Undecoded a d) ∧
    (let a : Addr := 0x60000000; let s : State := st (tDev); Running s ∧ s.dev.board.dramGib ≤ 128 ∧ Undecoded a.toNat s.dev) := by
  refine ⟨?_, ?_⟩
  · unfold Undecoded; decide +kernel
  · unfold Running Undecoded; decide +kernel

theorem test_PairRefused_inputs :
    (let s : State := st (tDev); let h : Hdr := hd; let one := true; let c := ((Instr.handback hd, PairAct.handback) : Instr × PairAct);
      Running s ∧ s.dev.isPf h.fn.val = true ∧ s.dev.host.stopped = false ∧
      c ∈ [(Instr.join h, PairAct.join), (.release h one, .release one), (.handback h, .handback), (.goSolo h, .goSolo)] ∧
      (¬ PairRow c.2 s.dev ∨ s.dev.fw.transit = true)) := by
  exact ⟨(by unfold Running; decide +kernel), by decide +kernel, by decide +kernel, by simp, (by unfold PairRow; decide +kernel)⟩

theorem test_MemoryAndMarks_inputs :
    (let d : Dev := tDev; memWf d.mem = true) ∧
    (let m : List Host.Cell := ([(5, 7#8)] : List Host.Cell); let n : List Host.Cell := ([(5, 7#8)] : List Host.Cell); memWf m = true ∧
      memWf n = true ∧ (∀ a, SMap.get memDefault m a = SMap.get memDefault n a)) ∧
    (let s : State := st ({ (((((({ nDev with pens := { (nDev).pens with recs := [(0, { r := { tPen with bufsh := 512 }, gen := 1, enabled := true }), (1, { r := { tPen with func0 := 8, bufsh := 512, cmbsh := 16 }, gen := 2, enabled := true })] } }).wr64 ((A.PEN_DLOG_CTL 1)) 1)).wr64 ((A.PEN_DLOG_WIN 1 0)) 0x10001001)).wr64 ((A.PEN_DLOG_MAP 1 0)) 40) with host := { ((((((({ nDev with pens := { (nDev).pens with recs := [(0, { r := { tPen with bufsh := 512 }, gen := 1, enabled := true }), (1, { r := { tPen with func0 := 8, bufsh := 512, cmbsh := 16 }, gen := 2, enabled := true })] } }).wr64 ((A.PEN_DLOG_CTL 1)) 1)).wr64 ((A.PEN_DLOG_WIN 1 0)) 0x10001001)).wr64 ((A.PEN_DLOG_MAP 1 0)) 40)).host with sqs := [({ fn := 3, sqid := 0, cqid := 0, q := 0, size := 16, inCmb := false, base := 0, cls := 1, head := 0, tail := 0, halted := false } : Sq)], cqs := [({ fn := 3, cqid := 0, size := 16, vector := 1, base := 0x10001000, head := 0, tail := 0, phase := true } : Cq)] } });
      let h : Hdr := ({ fn := 3, qid := 0, cid := 7 } : Hdr); let p : Nat := 1;
      let c := ({ fn := 3, cqid := 0, size := 16, vector := 1, base := 0x10001000, head := 0, tail := 0, phase := true } : Cq);
      let w : Fin 4 := (0 : Fin 4); let page := (c.base + c.tail * 16) / 4096; let first := s.dev.fld (A.PEN_DLOG_WIN p w.val) 63 12;
      Posting s ∧ s.dev.host.fw.find? (fun f => f.h == h) = none ∧ s.dev.penOf h.fn.val = some p ∧ s.dev.cqOf h = some c ∧
      s.dev.bit (A.PEN_DLOG_CTL p) 0 = true ∧ s.dev.bit (A.PEN_DLOG_WIN p w.val) 0 = true ∧ first ≤ page ∧
      page < first + s.dev.fld (A.PEN_DLOG_MAP p w.val) 31 0 ∧ (∀ v : Fin 4, v ≠ w → s.dev.bit (A.PEN_DLOG_WIN p v.val) 0 = false)) ∧
    (let s : State := st ({ (((((({ nDev with pens := { (nDev).pens with recs := [(0, { r := { tPen with bufsh := 512 }, gen := 1, enabled := true }), (1, { r := { tPen with func0 := 8, bufsh := 512, cmbsh := 16 }, gen := 2, enabled := true })] } }).wr64 ((A.PEN_DLOG_CTL 1)) 1)).wr64 ((A.PEN_DLOG_WIN 1 0)) 0x20001001)).wr64 ((A.PEN_DLOG_MAP 1 0)) 40) with host := { ((((((({ nDev with pens := { (nDev).pens with recs := [(0, { r := { tPen with bufsh := 512 }, gen := 1, enabled := true }), (1, { r := { tPen with func0 := 8, bufsh := 512, cmbsh := 16 }, gen := 2, enabled := true })] } }).wr64 ((A.PEN_DLOG_CTL 1)) 1)).wr64 ((A.PEN_DLOG_WIN 1 0)) 0x20001001)).wr64 ((A.PEN_DLOG_MAP 1 0)) 40)).host with sqs := [({ fn := 3, sqid := 0, cqid := 0, q := 0, size := 16, inCmb := false, base := 0, cls := 1, head := 0, tail := 0, halted := false } : Sq)], cqs := [({ fn := 3, cqid := 0, size := 16, vector := 1, base := 0x10001000, head := 0, tail := 0, phase := true } : Cq)] } });
      let h : Hdr := ({ fn := 3, qid := 0, cid := 7 } : Hdr); let p : Nat := 1;
      let c := ({ fn := 3, cqid := 0, size := 16, vector := 1, base := 0x10001000, head := 0, tail := 0, phase := true } : Cq);
      Posting s ∧ s.dev.penOf h.fn.val = some p ∧ s.dev.cqOf h = some c ∧
      (∀ w : Fin 4, s.dev.bit (A.PEN_DLOG_WIN p w.val) 0 = true → (c.base + c.tail * 16) / 4096 < s.dev.fld (A.PEN_DLOG_WIN p w.val) 63 12 ∨ s.dev.fld (A.PEN_DLOG_WIN p w.val) 63 12 + s.dev.fld (A.PEN_DLOG_MAP p w.val) 31 0 ≤ (c.base + c.tail * 16) / 4096)) := by
  refine ⟨?_, ?_, ?_, ?_⟩
  · decide +kernel
  · exact ⟨by decide +kernel, by decide +kernel, fun _ => rfl⟩
  · unfold Posting Running; decide +kernel
  · unfold Posting Running; decide +kernel

theorem test_Stepping_inputs :
    (let s : State := { st tDev with pending := [.checkpoint] }; let c := Instr.checkpoint; let rest := ([] : List Instr);
      s.pending = c :: rest) ∧
    (let s : State := st (tDev); Running s ∧ s.pending = [] ∧ s.dev.host.selfTest = none ∧ s.dev.tor.sleepReq = 0 ∧
      s.dev.fw.resetReq = none) := by
  refine ⟨?_, ?_⟩
  · decide +kernel
  · unfold Running; decide +kernel

theorem test_ResetState_inputs :
    ((0 : Nat) ≠ A.CLK_RSTCAUSE) := by
  decide +kernel

end Sys2Proof.Tests
end

section
/-! What power-on reset leaves (R12, R13, R29): one rule for a register after reset, the canonical form, and O59 from them. -/

namespace Sys2Proof

open Machine

/-- The one register of the cold part that differs from its Reset value names the power-on (R331). -/
theorem reset_rd (a : Nat) : State.reset.dev.rd a = if a = A.CLK_RSTCAUSE then 3 else regReset a := by
  change (SMap.find [(A.CLK_RSTCAUSE, (3 : W64))] a).getD (regReset a) = _
  by_cases h : a = A.CLK_RSTCAUSE
  · subst h; rfl
  · simp [SMap.find, h, Ne.symm h]

theorem reset_canon : Canon State.reset.dev := ⟨by decide +kernel, reset_memWf⟩

theorem reset_sound : Sound (fixedBoard Board.shipped) [] State.reset :=
  ⟨rfl, reset_canon, Nat.le_refl 0, fun _ _ h => by cases h⟩

/-- Settles O59: registers by `reset_rd`, the invariant by `reset_sound`; the rest are fields of the cold part. -/
theorem resetState : Obligations.ResetState := by
  unfold Obligations.ResetState
  refine ⟨fun a ha => ?_, ?_, rfl, rfl, rfl, fun _ => rfl, reset_sound⟩
  · rw [reset_rd, if_neg ha]
  · rw [reset_rd, if_pos rfl]

end Sys2Proof
end

section
/-! What a clause says of a command holds of the state that the command leaves: the way into each refutation. -/

namespace Sys2Proof

open Machine

theorem Gives.holds_of_exec {i : Instr} {s : State} {p : Dev → Prop} {d : Dev} {q : List Instr} (h : Gives i s p)
    (he : exec i s = .next { dev := d, pending := q }) : p d := by
  obtain ⟨t, ht, -, hp⟩ := h
  obtain rfl := Host.Outcome.next.inj (he.symm.trans ht)
  exact hp

end Sys2Proof
end

section
/-! A core's read that fails on the parity of the fabric (R23, R165): no register but the count of dropped records can change, so
DRAMC shows nothing of it. O53 says that every UNCORR of a read of DRAM sets DRAMC_ECCSTAT. -/

namespace Sys2Proof.Machine

theorem Dev.hwPost_rd (d : Dev) (src code sev param : Nat) {r : Nat} (h : r ≠ A.CAIRN_HWDROP) :
    (d.hwPost src code sev param).rd r = d.rd r := by
  unfold Dev.hwPost Dev.hwPostTo
  split
  · split
    · rfl
    · rw [Dev.count_rd, if_neg h]
  · rfl

/-- An UNCORR of the fabric at a core is counted in log page C2h, and its record and syndrome are no registers. -/
theorem Dev.failAccess_fabric_rd (d : Dev) (n : CoreN) (m : Bool) (a : Nat) (w : Bool) {r : Nat} (h : r ≠ A.CAIRN_HWDROP) :
    (d.failAccess (.core n m) a w .uncorr .fabric).rd r = d.rd r :=
  Dev.hwPost_rd (d.count2 128 1) _ _ _ _ h

theorem Dev.readAccess_core_fails {d : Dev} {n : CoreN} {m : Bool} {a : Nat} {hit : Hit} {e : BusErr}
    (h : d.accessErr (.core n m) a false hit = some e) :
    d.readAccess (.core n m) a hit = d.failAccess (.core n m) a false e hit := by
  simp only [Dev.readAccess, h]

end Sys2Proof.Machine

namespace Sys2Proof

open Machine

theorem exec_coreRead {s : State} (h : Running s) (n : CoreN) (m : Bool) (a : Addr) (hit : Hit) :
    exec (.readClearRegister (.core n m) (.reg a) hit) s = .next { s with dev := s.dev.readAccess (.core n m) a.toNat hit } := by
  change Host.Outcome.next { s with dev := if s.dev.tor.mainOn then s.dev.readAccess (.core n m) a.toNat hit else s.dev } = _
  rw [if_pos (show s.dev.tor.mainOn = true from h)]

/-- The part after reset with the clock of DRAMC on. -/
def dramClocked : State := { dev := Dev.cold.setBit A.CLK_ENSTAT 19 true, pending := [] }

theorem dramClocked_running : Running dramClocked := rfl

/-- A read of the first byte of DRAM whose answer fails the fabric's parity. -/
theorem dramClocked_fabric :
    dramClocked.dev.accessErr (.core 0 true) (0x1000000000 : Addr).toNat false .fabric = some .uncorr := by
  decide +kernel

/-- Refutes O53: its clause on an uncorrectable read of DRAM holds for every `hit`, but where the fabric's parity fails the
access (R165) DRAM is not at fault, and DRAMC_ECCSTAT stays 0. -/
theorem not_registerAccess : ¬ Obligations.RegisterAccess := by
  unfold Obligations.RegisterAccess
  rintro ⟨-, -, -, -, -, -, -, -, hunc, -⟩
  have he := exec_coreRead dramClocked_running 0 true 0x1000000000 .fabric
  rw [Dev.readAccess_core_fails dramClocked_fabric] at he
  obtain ⟨-, hecc, -⟩ :=
    (hunc dramClocked 0 true 0x1000000000 .fabric dramClocked_running (by decide +kernel) dramClocked_fabric).holds_of_exec he
  rw [Dev.bit_congr (Dev.failAccess_fabric_rd _ _ _ _ _ (by decide))] at hecc
  exact absurd hecc (by decide +kernel)

end Sys2Proof
end

section
/-! Messages that an earlier alarm has ended and the firmware has not sent again (R220). O50 lists what must be idle for an alarm to
keep to its frame, and leaves these out: with the next alarm they go to the scheduler, which may refuse one (R208). -/

namespace Sys2Proof

open Machine

/-- An unencrypted namespace: its slot 0 is a bypass slot. -/
def plainNs (nsx : Nat) : Ns :=
  { nsx := nsx, zoned := false, seven := false, base := 0, nzones := 0, gib := 0, md := 0, g64 := false, pi := 0, home := false,
    pen := 0, slot := 0, keyed := false, fns := [], wctr := 0, freeRu := 0, reserve := 0, prot := false, directive := false }

def adminHdr : Hdr := { fn := 0, qid := 0, cid := 0 }

/-- A message of the bypass slot. -/
def bypassMsg : CMsg := { id := 0, pen := 0, slot := 0, cls := 0, rid := 0, read := true, blocks := 2, cmd := adminHdr }

/-- The scheduler is active with core 0 in its pool; a bypass message is left of an earlier alarm, and CIPHER_PENRANGE of its Pen, still
at its Reset value, holds no slot. -/
def leftoverAlarm : State :=
  { dev := (((Dev.cold.setBit A.CIPHER_STAT 0 true).setBit (A.CIPHER_CORE_STAT 0) 0 true).onCipher
      (fun c => { c with alarmed := [bypassMsg] })).onMedia (fun m => { m with nss := [plainNs 0] })
    pending := [] }

theorem leftoverAlarm_noJob : NoJob leftoverAlarm.dev := by unfold NoJob; decide +kernel

theorem leftoverAlarm_noReadWait : NoReadWait leftoverAlarm.dev := ⟨rfl, rfl⟩

theorem leftoverAlarm_noKeyedCmds : leftoverAlarm.dev.keyedCmds = [] := by decide +kernel

theorem leftoverAlarm_refusals : leftoverAlarm.dev.rd A.CIPHER_CNT_REFUSE = 0 := by decide +kernel

/-- The message that is sent again is refused, and counted. -/
theorem leftoverAlarm_refusals_after : (leftoverAlarm.dev.alarmSeen 1).rd A.CIPHER_CNT_REFUSE = 1 := by decide +kernel

theorem cntRefuse_not_mem_zeroRegs : A.CIPHER_CNT_REFUSE ∉ zeroRegs := by decide +kernel

theorem exec_vmonAlarm (s : State) : exec .vmonAlarm s = .next { s with dev := s.dev.alarmSeen 1 } := rfl

/-- Refutes O50: an alarm while nothing runs may still change CIPHER_CNT_REFUSE, which is not among the registers of
zeroization: the premises do not ask that no message is left of an earlier alarm. -/
theorem not_cipherKeys : ¬ Obligations.CipherKeys := by
  unfold Obligations.CipherKeys
  rintro ⟨-, -, halarm, -⟩
  obtain ⟨-, hquiet⟩ :=
    (halarm leftoverAlarm 1 .vmonAlarm (by decide) (.inr (.inl ⟨rfl, rfl, rfl⟩))).holds_of_exec (exec_vmonAlarm leftoverAlarm)
  obtain ⟨-, -, -, hregs, -⟩ := hquiet leftoverAlarm_noJob leftoverAlarm_noReadWait rfl leftoverAlarm_noKeyedCmds rfl rfl
  have hsame := hregs A.CIPHER_CNT_REFUSE cntRefuse_not_mem_zeroRegs
  have hbits : (1 : W64) = 0 := leftoverAlarm_refusals_after.symm.trans (hsame.trans leftoverAlarm_refusals)
  exact absurd hbits (by decide)

end Sys2Proof
end

section
/-! COL_NS has 1,024 entries (R109), and the clause of O34 on NAMESPACE_DELETE leaves the namespace's index open, where that on a
peer's namespace asks for one below 1,024; `Dev.gotNss` takes whatever index a frame names. The place of the entry of index 4,112 is
that of PAIR_CNT 0, the count of frames sent. -/

namespace Sys2Proof

open Machine

/-- In the role DUO with the link up, a namespace of index 4,112; in READONLY, so that a lack of capacity changes no mode. -/
def pastColNs : State :=
  { dev := ((Dev.cold.setFld A.PAIR_STAT 1 0 2).onFw (fun f => { f with mode := .readonly, role := .duo })).onMedia
      (fun m => { m with nss := [plainNs 4112] })
    pending := [] }

theorem pastColNs_posting : Posting pastColNs := ⟨rfl, rfl⟩

theorem exec_namespaceDelete {s : State} (h : Running s) (hdr : Hdr) (nsid : Nat) :
    exec (.namespaceDelete hdr nsid) s = .next { s with dev := s.dev.nsDelete hdr nsid } :=
  mainDo_running h (fun d => d.nsDelete hdr nsid)

/-- COL_NS of the namespace is cleared, and the frame that tells the peer is counted in the same place. -/
theorem pastColNs_delete_counts_frame : (pastColNs.dev.nsDelete adminHdr 4113).rd (A.COL_NS (plainNs 4112).nsx) = 1 := by
  decide +kernel

/-- Refutes O34: where the index of a namespace is not below 1,024, NAMESPACE_DELETE need not leave its COL_NS 0. -/
theorem not_namespaceAdmin : ¬ Obligations.NamespaceAdmin := by
  unfold Obligations.NamespaceAdmin
  rintro ⟨-, -, -, -, -, -, -, -, hdelete, -⟩
  obtain ⟨-, hcol, -⟩ :=
    (hdelete pastColNs adminHdr 4113 (plainNs 4112) pastColNs_posting rfl (by decide) rfl rfl).holds_of_exec
      (exec_namespaceDelete pastColNs_posting.1 adminHdr 4113)
  exact absurd (pastColNs_delete_counts_frame.symm.trans hcol) (by decide)

end Sys2Proof
end

section
/-! A hold-up measurement that waits for the buffer to drain (R70). A heartbeat brings the peer's ceiling, after which what waits for
the occupancy goes on: the measurement starts, and drives the test pin. The clause of O20 on heartbeats asks that no write and no
Flush waits, and leaves the measurement out. -/

namespace Sys2Proof

open Machine

/-- With the link up and an empty buffer, a measurement waits. -/
def measureWaits : State :=
  { dev := (Dev.cold.setFld A.PAIR_STAT 1 0 2).onWr (fun w => { w with measuring := 4 }), pending := [] }

theorem measureWaits_running : Running measureWaits := rfl

theorem measureWaits_linkUp : measureWaits.dev.linkUp = true := by decide +kernel

theorem measureWaits_testGpio : measureWaits.dev.pins.testGpio = false := rfl

/-- The heartbeat starts the measurement. -/
theorem measureWaits_hb_testGpio : (measureWaits.dev.rxOther (fun d => d.gotHb 1 0)).pins.testGpio = true := by decide +kernel

theorem exec_hb {s : State} (h : Running s) (seq : W32) (devstat occ bceil : W16) (mseqRx : W64) :
    exec (.hb seq devstat occ bceil mseqRx) s = .next { s with dev := s.dev.rxOther (fun d => d.gotHb seq bceil) } :=
  mainDo_running h (fun d => d.rxOther (fun d => d.gotHb seq bceil))

/-- Refutes O20: where a measurement waits, HB drives the test pin, and the clause on HB keeps the pins as they were. -/
theorem not_peerLoss : ¬ Obligations.PeerLoss := by
  unfold Obligations.PeerLoss
  rintro ⟨-, -, hhb, -⟩
  obtain ⟨-, -, -, -, -, hparts, -⟩ :=
    (hhb measureWaits 1 0 0 0 0 measureWaits_running measureWaits_linkUp rfl rfl rfl).holds_of_exec
      (exec_hb measureWaits_running 1 0 0 0 0)
  have hpins : (measureWaits.dev.rxOther (fun d => d.gotHb 1 0)).pins = measureWaits.dev.pins := hparts .pins (by decide)
  have hpin := measureWaits_hb_testGpio
  rw [hpins, measureWaits_testGpio] at hpin
  exact Bool.false_ne_true hpin

end Sys2Proof
end

section
/-! The class of a background request (R95, R97). From requester ID 4,096 on, a Mule takes a request as one of class 3, whatever class
it was sent with; the clause of O39 on a request that starts says that what runs is the request as it was sent. -/

namespace Sys2Proof

open Machine

/-- The Mule of channel 5 goes, with a sequence for op 0. -/
def muleGoing : State :=
  { dev := (((Dev.cold.setBit A.PAIR_OWN 5 true).setBit (A.MULE_STAT 5) 0 true).setReg (A.MULE_GEOM 5) (0x38 + 1000 * 256)).setBit
      (A.MULE_SEQHDR 5 0) 63 true
    pending := [] }

/-- A read by requester 4,096, sent with class 1. -/
def backgroundRead : MuleReq :=
  { op := 0, lun := 2, lbn := 5, page := 3, plane := 1, cw := 2, ncw := 1, rid := 4096, deadline := 0, cls := 1, flush := false,
    spurOk := false, nsx := 0, lba := 0, gen := 0, data := [] }

theorem exec_muleRequest {s : State} (h : Running s) (ch : Ch) (r : MuleReq) :
    exec (.muleRequest ch r) s = .next { s with dev := (s.dev.request ch.val r.lun.val r none).takeUp 256 } :=
  mainDo_running h (fun d => (d.request ch.val r.lun.val r none).takeUp 256)

theorem muleGoing_running : Running muleGoing := rfl

theorem muleGoing_takenUp : TakenUp muleGoing.dev := rfl

theorem muleGoing_alone : Alone (muleGoing.dev.mkReq 5 backgroundRead none) muleGoing.dev := by
  unfold Alone; decide +kernel

theorem muleGoing_lunFree : LunFree 5 2 muleGoing.dev := ⟨rfl, rfl, rfl⟩

theorem muleGoing_refusal : muleGoing.dev.refusal 5 2 backgroundRead = none := by decide +kernel

theorem muleGoing_goes : muleGoing.dev.muleGoes 5 = true := by decide +kernel

theorem muleGoing_mayPE : muleGoing.dev.mayPE 5 (muleGoing.dev.mkReq 5 backgroundRead none) = true := by decide +kernel

theorem muleGoing_seqValid : SeqValid 5 0 muleGoing.dev := by unfold SeqValid; decide +kernel

/-- The read runs with class 3. -/
theorem muleGoing_runs_class :
    (((muleGoing.dev.request 5 2 backgroundRead none).takeUp 256).lun 5 2).run.map (fun q => q.r.cls) = some 3 := by
  decide +kernel

/-- Refutes O39: the read of a background requester runs with class 3, and not as the request that was sent. -/
theorem not_muleRequests : ¬ Obligations.MuleRequests := by
  unfold Obligations.MuleRequests
  rintro ⟨-, hstart, -⟩
  obtain ⟨hfree, -⟩ := hstart muleGoing 5 backgroundRead muleGoing_running muleGoing_takenUp muleGoing_alone muleGoing_refusal (by decide)
  obtain ⟨hvalid, -⟩ := hfree muleGoing_lunFree muleGoing_goes (fun _ => muleGoing_mayPE) (fun _ h => nomatch h)
  obtain ⟨⟨x, hx, -, hr, -⟩, -⟩ :=
    (hvalid muleGoing_seqValid).holds_of_exec (exec_muleRequest muleGoing_running 5 backgroundRead)
  have hcls := muleGoing_runs_class
  rw [show (((muleGoing.dev.request 5 2 backgroundRead none).takeUp 256).lun 5 2).run = some x from hx, Option.map_some, hr] at hcls
  exact absurd hcls (by decide)

end Sys2Proof
end

section
/-! A write whose message the cipher refuses (R208). The refusal is counted in CIPHER_CNT_REFUSE; the clause of O28 on a write that
fails its checks (`Dev.rwCheck`, in which that refusal is one) lets no register change. -/

namespace Sys2Proof

open Machine

/-- A conventional namespace of 1 GiB of function 0; its slot is a bypass slot. -/
def attachedNs : Ns := { plainNs 0 with gib := 1, fns := [0] }

/-- The normal mode, with CIPHER_PENRANGE of Pen 0 still at its Reset value: the Pen holds no slot. -/
def noSlots : State :=
  { dev := (Dev.cold.onFw (fun f => { f with mode := .solo })).onMedia (fun m => { m with nss := [attachedNs] }), pending := [] }

/-- One LBA. -/
def oneLba : RwCmd :=
  { nsid := 1, slba := 0, nlb := 1, prchk := 0, pract := false, ilbrt := 0, app := 0, mask := 0, fua := false, pid := 0, pages := [] }

theorem exec_write {s : State} {h : Hdr} (hio : Io h s) (c : RwCmd) (data : List Lba) :
    exec (.write h c data) s = .next { s with dev := s.dev.write h c data false } := by
  obtain ⟨⟨hrun, -⟩, hwaits⟩ := hio
  have hstep := mainDo_running hrun (fun d => if d.waitsTokens h then d else d.write h c data false)
  simp only [hwaits] at hstep
  exact hstep

theorem noSlots_io : Io adminHdr noSlots := ⟨⟨rfl, rfl⟩, by decide +kernel⟩

theorem noSlots_rwCheck : noSlots.dev.rwCheck adminHdr oneLba attachedNs = some .internal := by decide +kernel

theorem noSlots_refusals : noSlots.dev.rd A.CIPHER_CNT_REFUSE = 0 := by decide +kernel

/-- The refusal of the write is counted. -/
theorem noSlots_write_refusals : (noSlots.dev.write adminHdr oneLba [] false).rd A.CIPHER_CNT_REFUSE = 1 := by decide +kernel

/-- Refutes O28: a write that its slot refuses counts in CIPHER_CNT_REFUSE, where the clause on a failed check keeps every register. -/
theorem not_hostWrites : ¬ Obligations.HostWrites := by
  unfold Obligations.HostWrites
  rintro ⟨-, -, -, -, -, -, -, -, -, hcheck, -⟩
  obtain ⟨-, -, -, hregs, -⟩ :=
    (hcheck noSlots adminHdr oneLba attachedNs [] .internal noSlots_io rfl noSlots_rwCheck (.write adminHdr oneLba [])
      List.mem_cons_self).holds_of_exec (exec_write noSlots_io oneLba [])
  have hsame : (noSlots.dev.write adminHdr oneLba [] false).rd A.CIPHER_CNT_REFUSE = noSlots.dev.rd A.CIPHER_CNT_REFUSE :=
    hregs _ List.not_mem_nil
  rw [noSlots_write_refusals, noSlots_refusals] at hsame
  exact absurd hsame (by decide)

end Sys2Proof
end

section
/-! A register map with two entries for one register. The first is the one that is read; a reset drops an entry that it takes to the
Reset value, and so uncovers the second. The clause of O38 on SERVICE_DIAG_RESET asks for every register's value after the reset, of
states whose map need not be in the canonical form (`Canon`). -/

namespace Sys2Proof

open Machine

/-- The mode SERVICE; TOR_FAULT is 0 by the entry that is read, and an entry behind it holds bit 0. -/
def twiceListed : State :=
  { dev := { Dev.cold.onFw (fun f => { f with mode := .service }) with regs := [(A.TOR_FAULT, 0), (A.TOR_FAULT, 1)] }, pending := [] }

theorem exec_serviceDiagReset {s : State} (h : Running s) (hdr : Hdr) :
    exec (.serviceDiagReset hdr) s = .next { s with dev := s.dev.serviceReset hdr } :=
  mainDo_running h (fun d => d.serviceReset hdr)

theorem twiceListed_service : Service adminHdr twiceListed := ⟨⟨rfl, rfl⟩, by decide +kernel, rfl⟩

theorem twiceListed_not_canon : ¬ Canon twiceListed.dev := fun h => absurd h.1 (by decide +kernel)

theorem twiceListed_fault : blockResetVal A.TOR_FAULT (twiceListed.dev.rd A.TOR_FAULT) = 0 := by decide +kernel

/-- The reset keeps the Tor bits of the second entry, and that is then the first. -/
theorem twiceListed_reset_fault : (twiceListed.dev.serviceReset adminHdr).rd A.TOR_FAULT = 1 := by decide +kernel

/-- Refutes O38: the premises of its clause on SERVICE_DIAG_RESET take in register maps out of canonical form, and of one of these
TOR_FAULT, which the reset should keep at 0, reads 1. -/
theorem not_vendorCommands : ¬ Obligations.VendorCommands := by
  unfold Obligations.VendorCommands
  rintro ⟨-, -, -, -, -, -, -, -, hreset, -⟩
  obtain ⟨hdone, -⟩ := hreset twiceListed adminHdr twiceListed_service
  obtain ⟨⟨-, hregs, -⟩, -⟩ :=
    (hdone (by decide +kernel)).holds_of_exec (exec_serviceDiagReset (show Running twiceListed from rfl) adminHdr)
  have hfault := hregs A.TOR_FAULT (by decide +kernel)
  rw [twiceListed_reset_fault, twiceListed_fault] at hfault
  exact absurd hfault (by decide)

end Sys2Proof
end

section
/-! A post by hardware (R295, R302): what it queues, and its frame. -/

namespace Sys2Proof.Machine

theorem Dev.hwPostTo_fifo {d : Dev} {logs : List Nat} {p : Post} (hon : d.cairnOn = true) (hroom : d.cairn.fifo.length < 64) :
    (d.hwPostTo logs p).cairn.fifo = d.cairn.fifo ++ [d.fifoEnt p logs] := by
  simp only [Dev.hwPostTo, hon, hroom, if_true, Dev.onCairn]

@[simp] theorem Dev.hwPost_cores (d : Dev) (src code sev param : Nat) : (d.hwPost src code sev param).cores = d.cores := by
  unfold Dev.hwPost Dev.hwPostTo
  split
  · split <;> rfl
  · rfl

/-- An error that has no counter of its own is what the core takes. -/
theorem Dev.failAccess_core {e : BusErr} (hl : e ≠ .locked) (hu : e ≠ .uncorr) (d : Dev) (n : CoreN) (m : Bool) (a : Nat)
    (w : Bool) (hit : Hit) : d.failAccess (.core n m) a w e hit = d.busErr (.core n m) a w e := by
  simp only [Dev.failAccess, hl, hu, if_false]

theorem Dev.writeAccess_core_fails {d : Dev} {n : CoreN} {m : Bool} {a : Nat} {v : W64} {hit : Hit} {e : BusErr}
    (h : d.accessErr (.core n m) a true hit = some e) :
    d.writeAccess (.core n m) a v hit = d.failAccess (.core n m) a true e hit := by
  simp only [Dev.writeAccess, h]

theorem Dev.accessErr_of_not_decodes {d : Dev} {a : Nat} (h : d.decodes a = false) (who : Reqr) (w : Bool) (hit : Hit) :
    d.accessErr who a w hit = some .decode := by
  simp only [Dev.accessErr, h, Bool.not_false, if_true]

end Sys2Proof.Machine

namespace Sys2Proof

open Machine

theorem Frame.hwPostTo {P : List Part} {R : List Nat} {a d : Dev} {logs : List Nat} {p : Post} (h : Frame P R a d)
    (hp : Part.cairn ∈ P) (hr : A.CAIRN_HWDROP ∈ R) : Frame P R a (d.hwPostTo logs p) := by
  unfold Dev.hwPostTo
  exact Frame.ite (Frame.ite (h.onCairn hp) (h.count hr)) h

/-! A bus error at a control core (R23 to R25). -/

theorem frame_busErr_core (d : Dev) (n : CoreN) (m : Bool) (a : Nat) (w : Bool) (e : BusErr) :
    Frame [.cairn, .cores] [A.CAIRN_HWDROP] d (d.busErr (.core n m) a w e) :=
  ((Frame.refl _ _ d).hwPostTo (by decide) (by decide)).onCores (by decide)

theorem coreFault_busErr (d : Dev) (n : CoreN) (m : Bool) (a : Nat) (w : Bool) (e : BusErr) :
    CoreFault n a w e d (d.busErr (.core n m) a w e) := by
  refine ⟨fun hon hroom => ?_, ?_, ?_, fun k hk => ?_⟩
  · refine (Dev.hwPostTo_fifo hon hroom).trans ?_
    simp [Dev.fifoEnt, mkPost, errSource, reqrNum]
  · simp [Dev.busErr, Dev.onCores]
  · simp [Dev.busErr, Dev.onCores]
  · simp [Dev.busErr, Dev.onCores, SMap.get_set_ne _ _ _ hk]

/-! What decodes to nothing (R21). -/

/-- The three ways not to decode: outside both tables, absent DRAM, a hole of the peripheral region. -/
theorem Undecoded.decodes_eq_false {a : Nat} {d : Dev} (h : Undecoded a d) (hgib : d.board.dramGib ≤ 128) : d.decodes a = false := by
  unfold Undecoded at h
  obtain hout | hdram | ⟨hlo, hhi, hhole⟩ := h
  · simp only [List.forall_mem_cons, List.not_mem_nil, false_implies, implies_true, and_true] at hout
    have hperi : ¬ (periBase ≤ a ∧ a < periBase + 0x1000000) := by simp only [periBase]; omega
    simp only [Dev.decodes, hperi, if_false, Bool.or_eq_false_iff, Bool.and_eq_false_iff, decide_eq_false_iff_not]
    omega
  · have hperi : ¬ (periBase ≤ a ∧ a < periBase + 0x1000000) := by simp only [periBase]; omega
    simp only [Dev.decodes, hperi, if_false, Bool.or_eq_false_iff, Bool.and_eq_false_iff, decide_eq_false_iff_not]
    omega
  · have hperi : periBase ≤ a ∧ a < periBase + 0x1000000 := by simp only [periBase]; omega
    simp only [Dev.decodes, hperi, if_true, hhole, Option.isSome_none, ite_self, and_self]

theorem exec_coreWrite {s : State} (h : Running s) (n : CoreN) (m : Bool) (a : Addr) (v : W64) (hit : Hit) :
    exec (.registerWrite (.core n m) a v hit) s = .next { s with dev := s.dev.writeAccess (.core n m) a.toNat v hit } := by
  change Host.Outcome.next { s with dev := if s.dev.tor.mainOn then s.dev.writeAccess (.core n m) a.toNat v hit else s.dev } = _
  rw [if_pos (show s.dev.tor.mainOn = true from h)]

/-- What a core that gets DECODE sees, in one place for its write and its read. -/
theorem coreFault_decode (d : Dev) (n : CoreN) (m : Bool) (a : Nat) (w : Bool) (hit : Hit) :
    CoreFault n a w .decode d (d.failAccess (.core n m) a w .decode hit) ∧
      Frame [.cairn, .cores] [A.CAIRN_HWDROP] d (d.failAccess (.core n m) a w .decode hit) := by
  rw [Dev.failAccess_core (by decide) (by decide)]
  exact ⟨coreFault_busErr d n m a w .decode, frame_busErr_core d n m a w .decode⟩

/-- Settles O54: the address does not decode, which `Dev.accessErr` tests before all else; the rest is DECODE at a core. -/
theorem undecodedAddress : Obligations.UndecodedAddress := by
  unfold Obligations.UndecodedAddress
  have herr : ∀ (d : Dev) who a w hit, d.board.dramGib ≤ 128 → Undecoded a d → d.accessErr who a w hit = some .decode :=
    fun _ who _ w hit hgib hund => Dev.accessErr_of_not_decodes (hund.decodes_eq_false hgib) who w hit
  refine ⟨herr, fun s n m a v hit hrun hgib hund => ⟨?_, ?_⟩⟩
  · refine ⟨_, exec_coreWrite hrun n m a v hit, rfl, ?_⟩
    dsimp only
    rw [Dev.writeAccess_core_fails (herr _ _ _ _ _ hgib hund)]
    exact coreFault_decode s.dev n m a.toNat true hit
  · refine ⟨_, exec_coreRead hrun n m a hit, rfl, ?_⟩
    dsimp only
    rw [Dev.readAccess_core_fails (herr _ _ _ _ _ hgib hund)]
    exact coreFault_decode s.dev n m a.toNat false hit

end Sys2Proof
end

section
/-! The program engine of Cirque (R278, R279, R288 to R290): what each of its steps changes, and what it reads as after them. -/

namespace Sys2Proof.Machine

theorem Dev.count_rd_self (d : Dev) (a n : Nat) : (d.count a 64 n).rd a = d.rd a + BitVec.ofNat 64 n := by
  rw [Dev.count_rd, if_pos rfl]
  apply BitVec.eq_of_toNat_eq
  simp [BitVec.toNat_add]

@[simp] theorem Dev.oxGrant_cirque (d : Dev) : d.oxGrant.cirque = d.cirque := by
  unfold Dev.oxGrant
  split
  · split <;> rfl
  · rfl

@[simp] theorem Dev.oxGrant_rd (d : Dev) (r : Nat) : d.oxGrant.rd r = d.rd r := by
  unfold Dev.oxGrant
  split
  · split <;> rfl
  · rfl

theorem Dev.erasing_congr {d e : Dev} {sec : Nat} (hestat : e.rd (A.CIRQUE_ESTAT (sec / 4096)) = d.rd (A.CIRQUE_ESTAT (sec / 4096)))
    (hesec : e.cirque.esec = d.cirque.esec) : e.erasing sec = d.erasing sec := by
  simp only [Dev.erasing, Dev.fld_congr hestat, hesec]

theorem Dev.progRefusal_congr {d e : Dev} {w : Nat} (hestat : ∀ b, e.rd (A.CIRQUE_ESTAT b) = d.rd (A.CIRQUE_ESTAT b))
    (hesec : e.cirque.esec = d.cirque.esec) (hcut : e.cirque.cut = d.cirque.cut) (hwords : e.cirque.words = d.cirque.words)
    (hregion : e.regionWord w = d.regionWord w) (hfree : e.free = d.free) : e.progRefusal w = d.progRefusal w := by
  have herasing : e.erasing (sectorOf w) = d.erasing (sectorOf w) := Dev.erasing_congr (hestat _) hesec
  have hflag : e.flagSet w = d.flagSet w := by
    simp only [Dev.flagSet, Dev.cqHeld, hcut, hwords, hregion, hfree]
  simp only [Dev.progRefusal, herasing, hflag]

theorem Dev.not_erasing_of_progRefusal {d : Dev} {w : Nat} (h : d.progRefusal w = none) : d.erasing (sectorOf w) = false := by
  cases he : d.erasing (sectorOf w) with
  | false => rfl
  | true => simp [Dev.progRefusal, he] at h

/-! What a program's end is made of. -/

/-- CIRQUE_PCMD shows the result of a register program, and the corrected bits where it returns them. -/
def Dev.pcmdShown (d : Dev) (res : Nat) (corr : Option Nat) : Dev :=
  let d := (d.setBit A.CIRQUE_PCMD 12 false).setFld A.CIRQUE_PCMD 6 4 res
  match corr with | some c => d.setFld A.CIRQUE_PCMD 11 8 c | none => d

/-- A DOUBLE is counted. -/
def Dev.resCount (d : Dev) (res : Nat) : Dev := if res = 3 then d.count (A.CIRQUE_CNT 4) 64 1 else d

theorem Dev.pcmdEnd_eq (d : Dev) (res : Nat) (corr : Option Nat) :
    d.pcmdEnd res corr =
      (let e := (d.pcmdShown res corr).resCount res
       if e.bit A.CIRQUE_PCMD 1 then e.paddrNext else e) := rfl

theorem Dev.pfifoEnd_eq (d : Dev) (res : Nat) :
    d.pfifoEnd res =
      (let e := (d.resCount res).paddrNext
       if res ≤ 1 then e else ((e.setBit A.CIRQUE_STAT 3 true).onCirque (fun c => { c with fifo := [] })).oxWithdraw 1) := rfl

/-! The steps of the engine, case by case. -/

theorem Dev.cqDrained_of_busy {d : Dev} (h : d.cirque.prog.isSome = true) : d.cqDrained = d := by
  simp [Dev.cqDrained, Option.isNone_eq_false_iff.mpr h]

theorem Dev.cqDrained_of_not_draining {d : Dev} (h : d.bit A.CIRQUE_STAT 1 = false) : d.cqDrained = d := by
  simp [Dev.cqDrained, h]

theorem Dev.pfifoStart_zero (d : Dev) : d.pfifoStart 0 = d := rfl

/-- With no register program that waits the FIFO is next. -/
theorem Dev.cqNext_of_fifo {d : Dev} (hprog : d.cirque.prog = none) (hcmd : d.bit A.CIRQUE_PCMD 12 = false) :
    d.cqNext = ((d.setBit A.CIRQUE_STAT 2 false).pfifoStart (d.cirque.fifo.length / 4)).cqDrained := by
  have hcmd' : (d.setBit A.CIRQUE_STAT 2 false).bit A.CIRQUE_PCMD 12 = false := by
    rw [Dev.setBit_bit _ _ _ _ _ _ (by decide), if_neg (by decide), hcmd]
  simp [Dev.cqNext, hprog, hcmd']

/-- With nothing that waits the engine just stands idle. -/
theorem Dev.cqNext_of_idle {d : Dev} (hprog : d.cirque.prog = none) (hcmd : d.bit A.CIRQUE_PCMD 12 = false)
    (hfifo : d.cirque.fifo.length < 4) (hdrain : d.bit A.CIRQUE_STAT 1 = false) : d.cqNext = d.setBit A.CIRQUE_STAT 2 false := by
  have hdrain' : (d.setBit A.CIRQUE_STAT 2 false).bit A.CIRQUE_STAT 1 = false := by
    rw [Dev.setBit_bit _ _ _ _ _ _ (by decide), if_neg (by decide), hdrain]
  rw [Dev.cqNext_of_fifo hprog hcmd, Nat.div_eq_of_lt hfifo, Dev.pfifoStart_zero, Dev.cqDrained_of_not_draining hdrain']

/-- A register program that waits goes first. -/
theorem Dev.cqNext_of_pcmd {d : Dev} (hprog : d.cirque.prog = none) (hcmd : d.bit A.CIRQUE_PCMD 12 = true) :
    d.cqNext =
      (let e := (d.setBit A.CIRQUE_STAT 2 false).pcmdStart
       (if e.cirque.prog.isNone then e.pfifoStart (e.cirque.fifo.length / 4) else e).cqDrained) := by
  have hcmd' : (d.setBit A.CIRQUE_STAT 2 false).bit A.CIRQUE_PCMD 12 = true := by
    rw [Dev.setBit_bit _ _ _ _ _ _ (by decide), if_neg (by decide), hcmd]
  simp [Dev.cqNext, hprog, hcmd']

@[simp] theorem Dev.drawFlag_cirque (d : Dev) (w : Nat) : (d.drawFlag w).cirque = d.cirque := by
  unfold Dev.drawFlag; split <;> rfl

@[simp] theorem Dev.drawFlag_rd (d : Dev) (w r : Nat) : (d.drawFlag w).rd r = d.rd r := by
  unfold Dev.drawFlag; split <;> rfl

theorem Dev.cqBegin_prog (d : Dev) (w : Nat) (x : BitVec 256) (fifo : Bool) :
    (d.cqBegin w x fifo).cirque.prog = some { word := w, data := x, fifo := fifo } := rfl

theorem Dev.cqAccess_keeps (d : Dev) (w : Nat) :
    (d.cqAccess w).cirque.words = d.cirque.words ∧ (d.cqAccess w).cirque.fifo = d.cirque.fifo := by
  simp only [Dev.cqAccess]
  split <;> exact ⟨rfl, rfl⟩

/-- An access to a bank whose erase may be suspended suspends it. -/
theorem Dev.cqAccess_suspends {d : Dev} {w : Nat} (hruns : d.fld (A.CIRQUE_ESTAT (bankOf w)) 1 0 = 1)
    (hother : d.erasing (sectorOf w) = false) (hcap : d.fld (A.CIRQUE_ESTAT (bankOf w)) 15 8 < 100) :
    d.cqAccess w = d.suspBank (bankOf w) 1 := by
  simp [Dev.cqAccess, hruns, hother, hcap]

theorem bankOf_lt (w : Nat) : bankOf w < 8 := Nat.mod_lt _ (by decide)

theorem Dev.suspBank_suspended (d : Dev) {b : Nat} (hb : b < 8) (why : Nat) : (d.suspBank b why).fld (A.CIRQUE_ESTAT b) 1 0 = 2 := by
  have hcnt : A.CIRQUE_ESTAT b ≠ A.CIRQUE_CNT 5 := by simp only [A.CIRQUE_ESTAT, A.CIRQUE_CNT]; omega
  have hstat : A.CIRQUE_ESTAT b ≠ A.CIRQUE_STAT := by simp only [A.CIRQUE_ESTAT, A.CIRQUE_STAT]; omega
  let e := (d.setFld (A.CIRQUE_ESTAT b) 1 0 2).setFld (A.CIRQUE_ESTAT b) 15 8 (d.fld (A.CIRQUE_ESTAT b) 15 8 + 1)
  calc (d.suspBank b why).fld (A.CIRQUE_ESTAT b) 1 0
    _ = (e.setBit A.CIRQUE_STAT (16 + b) true).fld (A.CIRQUE_ESTAT b) 1 0 := Dev.fld_congr (by
        simp only [Dev.suspBank, Dev.onCirque_rd, Dev.count_rd, if_neg hcnt]; rfl) 1 0
    _ = e.fld (A.CIRQUE_ESTAT b) 1 0 := Dev.setBit_fld _ _ _ _ _ _ _ (by omega) (.inl hstat)
    _ = 2 := by
        rw [Dev.setFld_fld_other _ _ _ _ _ _ _ _ (by decide) (by decide) (.inr (.inl (by decide))),
          Dev.setFld_fld _ _ _ _ _ (by decide) (by decide)]
        rfl

/-- A program in a bank whose erase may be suspended suspends it. -/
theorem Dev.cqBegin_suspends {d : Dev} {w : Nat} (x : BitVec 256) (fifo : Bool) (hruns : d.fld (A.CIRQUE_ESTAT (bankOf w)) 1 0 = 1)
    (hother : d.erasing (sectorOf w) = false) (hcap : d.fld (A.CIRQUE_ESTAT (bankOf w)) 15 8 < 100) :
    (d.cqBegin w x fifo).fld (A.CIRQUE_ESTAT (bankOf w)) 1 0 = 2 := by
  have hstat : A.CIRQUE_ESTAT (bankOf w) ≠ A.CIRQUE_STAT := by simp only [A.CIRQUE_ESTAT, A.CIRQUE_STAT]; omega
  rw [Dev.cqBegin, Dev.onCirque_fld, Dev.setBit_fld _ _ _ _ _ _ _ (by decide) (.inl hstat), Dev.cqAccess_suspends hruns hother hcap]
  exact Dev.suspBank_suspended d (bankOf_lt w) 1

theorem Dev.cqBegin_busy (d : Dev) (w : Nat) (x : BitVec 256) (fifo : Bool) : (d.cqBegin w x fifo).bit A.CIRQUE_STAT 2 = true := by
  rw [Dev.cqBegin, Dev.onCirque_bit, Dev.setBit_bit _ _ _ _ _ _ (by decide), if_pos ⟨rfl, rfl⟩]

end Sys2Proof.Machine

namespace Sys2Proof

open Machine

section
variable {P : List Part} {R : List Nat} {a d : Dev}

theorem Frame.rd_eq {r : Nat} (h : Frame P R a d) (hr : r ∉ R) : d.rd r = a.rd r := h.2.2.1 r hr
theorem Frame.bit_eq {r : Nat} (h : Frame P R a d) (hr : r ∉ R) (n : Nat) : d.bit r n = a.bit r n := Dev.bit_congr (h.rd_eq hr) n
theorem Frame.fld_eq {r : Nat} (h : Frame P R a d) (hr : r ∉ R) (hi lo : Nat) : d.fld r hi lo = a.fld r hi lo :=
  Dev.fld_congr (h.rd_eq hr) hi lo

/-- Where the journal stands still, so does Cirque outside the listed parts. -/
theorem Frame.cirque_eq (h : Frame P R a d) (hc : Part.cirque ∉ P) (hm : Part.media ∉ P) : d.cirque = a.cirque := by
  have hmedia : d.media = a.media := h.2.1 .media hm
  obtain hsame | ⟨hlt, -⟩ : CirqueSame a d := h.2.1 .cirque hc
  · exact hsame
  · rw [hmedia] at hlt
    exact absurd hlt (Nat.lt_irrefl _)

theorem Frame.drawFlag {w : Nat} (h : Frame P R a d) (hp : Part.free ∈ P) : Frame P R a (d.drawFlag w) := by
  unfold Dev.drawFlag
  exact Frame.ite (h.draw hp) h

theorem Frame.suspBank {b why : Nat} (h : Frame P R a d) (hp : Part.cirque ∈ P) (he : A.CIRQUE_ESTAT b ∈ R) (hs : A.CIRQUE_STAT ∈ R)
    (hc : A.CIRQUE_CNT 5 ∈ R) : Frame P R a (d.suspBank b why) :=
  ((((h.setFld he).setFld he).setBit hs).count hc).onCirque hp

theorem Frame.cqAccess {w : Nat} (h : Frame P R a d) (hp : Part.cirque ∈ P) (he : A.CIRQUE_ESTAT (bankOf w) ∈ R)
    (hs : A.CIRQUE_STAT ∈ R) (hc : A.CIRQUE_CNT 5 ∈ R) : Frame P R a (d.cqAccess w) :=
  Frame.ite (h.suspBank hp he hs hc) h

theorem Frame.cqBegin {w : Nat} {x : BitVec 256} {fifo : Bool} (h : Frame P R a d) (hp : Part.cirque ∈ P)
    (he : A.CIRQUE_ESTAT (bankOf w) ∈ R) (hs : A.CIRQUE_STAT ∈ R) (hc : A.CIRQUE_CNT 5 ∈ R) : Frame P R a (d.cqBegin w x fifo) :=
  ((h.cqAccess hp he hs hc).setBit hs).onCirque hp

theorem Frame.paddrNext (h : Frame P R a d) (hr : A.CIRQUE_PADDR ∈ R) : Frame P R a d.paddrNext := h.setFld hr

theorem Frame.pcmdShown {res : Nat} {corr : Option Nat} (h : Frame P R a d) (hr : A.CIRQUE_PCMD ∈ R) :
    Frame P R a (d.pcmdShown res corr) := by
  cases corr with
  | none => exact (h.setBit hr).setFld hr
  | some c => exact ((h.setBit hr).setFld hr).setFld hr

theorem Frame.resCount {res : Nat} (h : Frame P R a d) (hc : res = 3 → A.CIRQUE_CNT 4 ∈ R) : Frame P R a (d.resCount res) := by
  unfold Dev.resCount
  split
  · exact h.count (hc ‹_›)
  · exact h

theorem Frame.pcmdEnd {res : Nat} {corr : Option Nat} (h : Frame P R a d) (hr : A.CIRQUE_PCMD ∈ R) (ha : A.CIRQUE_PADDR ∈ R)
    (hc : res = 3 → A.CIRQUE_CNT 4 ∈ R) : Frame P R a (d.pcmdEnd res corr) := by
  rw [Dev.pcmdEnd_eq]
  exact Frame.ite (((h.pcmdShown hr).resCount hc).paddrNext ha) ((h.pcmdShown hr).resCount hc)

theorem Frame.oxGrant (h : Frame P R a d) (hp : Part.ox ∈ P) : Frame P R a d.oxGrant := by
  unfold Dev.oxGrant
  refine Frame.ite ?_ h
  cases d.oxBest with
  | none => exact h
  | some n => exact h.onOx hp

end

/-! What a register program shows at its end. -/

theorem frame_pcmdEnd_shown (d : Dev) (res : Nat) (corr : Option Nat) :
    Frame [] [A.CIRQUE_PADDR, A.CIRQUE_CNT 4] (d.pcmdShown res corr) (d.pcmdEnd res corr) := by
  have hcount : Frame [] [A.CIRQUE_PADDR, A.CIRQUE_CNT 4] (d.pcmdShown res corr) ((d.pcmdShown res corr).resCount res) :=
    (Frame.refl _ _ _).resCount (fun _ => by decide)
  rw [Dev.pcmdEnd_eq]
  exact Frame.ite (hcount.paddrNext (by decide)) hcount

theorem pcmdEnd_not_busy (d : Dev) (res : Nat) (corr : Option Nat) : (d.pcmdEnd res corr).bit A.CIRQUE_PCMD 12 = false := by
  rw [(frame_pcmdEnd_shown d res corr).bit_eq (by decide)]
  cases corr <;> simp [Dev.pcmdShown, Dev.setFld_bit, Dev.setBit_bit]

theorem pcmdEnd_ainc (d : Dev) (res : Nat) (corr : Option Nat) :
    (d.pcmdEnd res corr).bit A.CIRQUE_PCMD 1 = d.bit A.CIRQUE_PCMD 1 := by
  rw [(frame_pcmdEnd_shown d res corr).bit_eq (by decide)]
  cases corr <;> simp [Dev.pcmdShown, Dev.setFld_bit, Dev.setBit_bit]

theorem pcmdEnd_result (d : Dev) {res : Nat} (hres : res < 8) (corr : Option Nat) :
    (d.pcmdEnd res corr).fld A.CIRQUE_PCMD 6 4 = res := by
  rw [(frame_pcmdEnd_shown d res corr).fld_eq (by decide)]
  cases corr with
  | none => simp [Dev.pcmdShown, Dev.setFld_fld, Nat.mod_eq_of_lt hres]
  | some c =>
    simp only [Dev.pcmdShown]
    rw [Dev.setFld_fld_other _ _ _ _ _ _ _ _ (by decide) (by decide) (.inr (.inl (by decide)))]
    simp [Dev.setFld_fld, Nat.mod_eq_of_lt hres]

theorem pcmdEnd_corrected (d : Dev) (res : Nat) {c : Nat} (hc : c < 16) :
    (d.pcmdEnd res (some c)).fld A.CIRQUE_PCMD 11 8 = c := by
  rw [(frame_pcmdEnd_shown d res (some c)).fld_eq (by decide)]
  simp [Dev.pcmdShown, Dev.setFld_fld, Nat.mod_eq_of_lt hc]

theorem pcmdEnd_uncorrected (d : Dev) (res : Nat) :
    (d.pcmdEnd res none).fld A.CIRQUE_PCMD 11 8 = d.fld A.CIRQUE_PCMD 11 8 := by
  rw [(frame_pcmdEnd_shown d res none).fld_eq (by decide)]
  simp only [Dev.pcmdShown]
  rw [Dev.setFld_fld_other _ _ _ _ _ _ _ _ (by decide) (by decide) (.inr (.inr (by decide))),
    Dev.setBit_fld _ _ _ _ _ _ _ (by decide) (.inr (.inr (by decide)))]

theorem paddrNext_paddr (d : Dev) : d.paddrNext.fld A.CIRQUE_PADDR 26 5 = (d.fld A.CIRQUE_PADDR 26 5 + 1) % 2 ^ 22 :=
  Dev.setFld_fld _ _ _ _ _ (by decide) (by decide)

theorem pcmdEnd_paddr (d : Dev) (res : Nat) (corr : Option Nat) :
    (d.pcmdEnd res corr).fld A.CIRQUE_PADDR 26 5 =
      if d.bit A.CIRQUE_PCMD 1 then (d.fld A.CIRQUE_PADDR 26 5 + 1) % 2 ^ 22 else d.fld A.CIRQUE_PADDR 26 5 := by
  have hshown : Frame [] [A.CIRQUE_PCMD, A.CIRQUE_CNT 4] d ((d.pcmdShown res corr).resCount res) :=
    ((Frame.refl _ _ d).pcmdShown (by decide)).resCount (fun _ => by decide)
  have hainc : ((d.pcmdShown res corr).resCount res).bit A.CIRQUE_PCMD 1 = d.bit A.CIRQUE_PCMD 1 := by
    rw [← pcmdEnd_ainc d res corr, Dev.pcmdEnd_eq]
    dsimp only
    split
    · exact (((Frame.refl [] [A.CIRQUE_PADDR] _).paddrNext (by decide)).bit_eq (by decide) 1).symm
    · rfl
  rw [Dev.pcmdEnd_eq]
  simp only [hainc]
  split
  · rw [paddrNext_paddr, hshown.fld_eq (by decide)]
  · rw [hshown.fld_eq (by decide)]

theorem pcmdEnd_doubles (d : Dev) (res : Nat) (corr : Option Nat) :
    (d.pcmdEnd res corr).rd (A.CIRQUE_CNT 4) = if res = 3 then d.rd (A.CIRQUE_CNT 4) + 1 else d.rd (A.CIRQUE_CNT 4) := by
  have hend : Frame [] [A.CIRQUE_PADDR] ((d.pcmdShown res corr).resCount res) (d.pcmdEnd res corr) := by
    rw [Dev.pcmdEnd_eq]
    exact Frame.ite ((Frame.refl _ _ _).paddrNext (by decide)) (Frame.refl _ _ _)
  have hshown : (d.pcmdShown res corr).rd (A.CIRQUE_CNT 4) = d.rd (A.CIRQUE_CNT 4) :=
    ((Frame.refl [] [A.CIRQUE_PCMD] d).pcmdShown (by decide)).rd_eq (by decide)
  rw [hend.rd_eq (by decide), Dev.resCount]
  split
  · rw [Dev.count_rd_self, hshown]; rfl
  · exact hshown

theorem pcmdEnd_cirque (d : Dev) (res : Nat) (corr : Option Nat) : (d.pcmdEnd res corr).cirque = d.cirque :=
  ((Frame.refl [] [A.CIRQUE_PCMD, A.CIRQUE_PADDR, A.CIRQUE_CNT 4] d).pcmdEnd (by decide) (by decide) (fun _ => by decide)).cirque_eq
    (by decide) (by decide)

end Sys2Proof

namespace Sys2Proof.Machine

/-! A program that its verify ends (R278, R288, R290). -/

theorem Dev.fwPost_cirque (d : Dev) (src code sev param : Nat) : (d.fwPost src code sev param).cirque = d.cirque := by
  unfold Dev.fwPost Dev.fwPostTo
  split
  · split <;> rfl
  · rfl

/-- A sector joins those that are retired, and nothing else of Cirque changes. -/
theorem Dev.cqRetire_cirque (d : Dev) (sec : Nat) :
    (d.cqRetire sec).cirque =
      if wearable sec ∧ sec ∉ d.cirque.retired then { d.cirque with retired := d.cirque.retired ++ [sec] } else d.cirque := by
  unfold Dev.cqRetire
  split
  · dsimp only
    split
    · exact Dev.fwPost_cirque _ _ _ _ _
    · rfl
  · rfl

theorem Dev.cqRetire_rest (d : Dev) (sec : Nat) :
    (d.cqRetire sec).cirque.prog = d.cirque.prog ∧ (d.cqRetire sec).cirque.words = d.cirque.words ∧
      (d.cqRetire sec).cirque.fifo = d.cirque.fifo := by
  rw [Dev.cqRetire_cirque]
  split <;> exact ⟨rfl, rfl, rfl⟩

theorem Dev.cqRetire_retired (d : Dev) {sec : Nat} (h : wearable sec = true) : sec ∈ (d.cqRetire sec).cirque.retired := by
  rw [Dev.cqRetire_cirque]
  split
  · exact List.mem_append_right _ (List.mem_singleton.mpr rfl)
  · exact not_not.mp (fun hn => ‹¬ (_ ∧ _)› ⟨h, hn⟩)

theorem Dev.cqCorr_cirque (d : Dev) (w corr : Nat) : (d.cqCorr w corr).cirque = d.cirque := by
  unfold Dev.cqCorr
  split
  · rfl
  · rw [Dev.setReg_cirque, Dev.count_cirque]

/-- The word stands, and what the verify corrected is counted. -/
def Dev.cqCounted (d : Dev) (p : CqProg) (corr : Nat) : Dev :=
  let d := (d.onCirque (fun c => { c with prog := none, words := SMap.put c.words p.word p.data })).count (A.CIRQUE_CNT 2) 64 1
  if corr ≤ 3 then d.cqCorr p.word corr else d.count (A.CIRQUE_CNT 1) 64 1

/-- And where it corrected much the sector is worn. -/
def Dev.cqVerified (d : Dev) (p : CqProg) (corr : Nat) : Dev :=
  if 1 ≤ verifyResult corr then (d.cqCounted p corr).cqRetire (sectorOf p.word) else d.cqCounted p corr

theorem Dev.cqProgEnd_waits {d : Dev} {corr : Nat} {p : CqProg} (hp : d.cirque.prog = some p)
    (hruns : d.fld (A.CIRQUE_ESTAT (bankOf p.word)) 1 0 = 1) (hother : d.erasing (sectorOf p.word) = false) :
    d.cqProgEnd corr = d := by
  simp [Dev.cqProgEnd, hp, hruns, hother]

theorem Dev.cqProgEnd_verifies {d : Dev} {corr : Nat} {p : CqProg} (hp : d.cirque.prog = some p)
    (hruns : d.fld (A.CIRQUE_ESTAT (bankOf p.word)) 1 0 ≠ 1) (hother : d.erasing (sectorOf p.word) = false) :
    d.cqProgEnd corr =
      (((if p.fifo then (d.cqVerified p corr).pfifoEnd (verifyResult corr)
        else (d.cqVerified p corr).pcmdEnd (verifyResult corr) (some (Nat.min corr 15))).cqNext).oxGrant) := by
  simp [Dev.cqProgEnd, hp, hruns, hother, Dev.cqVerified, Dev.cqCounted]

theorem Dev.cqCounted_cirque (d : Dev) (p : CqProg) (corr : Nat) :
    (d.cqCounted p corr).cirque = { d.cirque with prog := none, words := SMap.put d.cirque.words p.word p.data } := by
  unfold Dev.cqCounted
  dsimp only
  split
  · rw [Dev.cqCorr_cirque]; rfl
  · rfl

theorem Dev.cqVerified_cirque (d : Dev) (p : CqProg) (corr : Nat) :
    (d.cqVerified p corr).cirque.prog = none ∧
      (d.cqVerified p corr).cirque.words = SMap.put d.cirque.words p.word p.data ∧
      (d.cqVerified p corr).cirque.fifo = d.cirque.fifo := by
  have hcounted := d.cqCounted_cirque p corr
  rw [Dev.cqVerified]
  split
  · obtain ⟨hprog, hwords, hfifo⟩ := (d.cqCounted p corr).cqRetire_rest (sectorOf p.word)
    rw [hprog, hwords, hfifo, hcounted]
    exact ⟨rfl, rfl, rfl⟩
  · rw [hcounted]
    exact ⟨rfl, rfl, rfl⟩

theorem verifyResult_le (corr : Nat) : verifyResult corr ≤ 2 := by
  unfold verifyResult; split
  · decide
  · split <;> decide

theorem Dev.cqVerified_retired (d : Dev) {p : CqProg} {corr : Nat} (hcorr : 2 ≤ corr) (hsec : 0x1500 ≤ sectorOf p.word) :
    sectorOf p.word ∈ (d.cqVerified p corr).cirque.retired := by
  have hworn : 1 ≤ verifyResult corr := by unfold verifyResult; rw [if_neg (by omega)]; split <;> decide
  rw [Dev.cqVerified, if_pos hworn]
  exact Dev.cqRetire_retired _ (by simpa [wearable] using hsec)

theorem Dev.pfifoEnd_of_good {d : Dev} {res : Nat} (h : res ≤ 1) : d.pfifoEnd res = d.paddrNext := by
  rw [Dev.pfifoEnd_eq]
  simp only [if_pos h, Dev.resCount, if_neg (show res ≠ 3 by omega)]

end Sys2Proof.Machine

namespace Sys2Proof

open Machine

section
variable {P : List Part} {R : List Nat} {a d : Dev}

theorem Frame.fwPost {src code sev param : Nat} (h : Frame P R a d) (hp : Part.cairn ∈ P) :
    Frame P R a (d.fwPost src code sev param) := by
  unfold Dev.fwPost Dev.fwPostTo
  exact Frame.ite (Frame.ite (h.onCairn hp) (h.onCairn hp)) h

theorem Frame.cqRetire {sec : Nat} (h : Frame P R a d) (hp : Part.cirque ∈ P) (hc : Part.cairn ∈ P) : Frame P R a (d.cqRetire sec) :=
  Frame.ite (Frame.ite ((h.onCirque hp).fwPost hc) (h.onCirque hp)) h

theorem Frame.cqCorr {w corr : Nat} (h : Frame P R a d) (hc : A.CIRQUE_CNT 0 ∈ R) (hl : A.CIRQUE_CORR_LAST ∈ R) :
    Frame P R a (d.cqCorr w corr) :=
  Frame.ite h ((h.count hc).setReg hl)

theorem Frame.cqCounted {p : CqProg} {corr : Nat} (h : Frame P R a d) (hp : Part.cirque ∈ P) (h0 : A.CIRQUE_CNT 0 ∈ R)
    (h1 : 3 < corr → A.CIRQUE_CNT 1 ∈ R) (h2 : A.CIRQUE_CNT 2 ∈ R) (hl : A.CIRQUE_CORR_LAST ∈ R) :
    Frame P R a (d.cqCounted p corr) := by
  unfold Dev.cqCounted
  dsimp only
  split
  · exact ((h.onCirque hp).count h2).cqCorr h0 hl
  · exact ((h.onCirque hp).count h2).count (h1 (by omega))

theorem Frame.cqVerified {p : CqProg} {corr : Nat} (h : Frame P R a d) (hp : Part.cirque ∈ P) (hc : Part.cairn ∈ P)
    (h0 : A.CIRQUE_CNT 0 ∈ R) (h1 : 3 < corr → A.CIRQUE_CNT 1 ∈ R) (h2 : A.CIRQUE_CNT 2 ∈ R) (hl : A.CIRQUE_CORR_LAST ∈ R) :
    Frame P R a (d.cqVerified p corr) := by
  rw [Dev.cqVerified]
  exact Frame.ite ((h.cqCounted hp h0 h1 h2 hl).cqRetire hp hc) (h.cqCounted hp h0 h1 h2 hl)

end

/-- A worn sector is no register. -/
theorem cqVerified_rd (d : Dev) (p : CqProg) (corr r : Nat) : (d.cqVerified p corr).rd r = (d.cqCounted p corr).rd r := by
  rw [Dev.cqVerified]
  split
  · exact ((Frame.refl [.cirque, .cairn] [] _).cqRetire (by decide) (by decide)).rd_eq List.not_mem_nil
  · rfl

theorem cqCorr_rd_counter (d : Dev) (w corr : Nat) :
    (d.cqCorr w corr).rd (A.CIRQUE_CNT 0) = d.rd (A.CIRQUE_CNT 0) + BitVec.ofNat 64 corr := by
  unfold Dev.cqCorr
  split
  · subst corr; simp
  · rw [Dev.setReg_rd, if_neg (by decide), Dev.count_rd_self]

theorem cqVerified_programs (d : Dev) (p : CqProg) (corr : Nat) :
    (d.cqVerified p corr).rd (A.CIRQUE_CNT 2) = d.rd (A.CIRQUE_CNT 2) + 1 := by
  rw [cqVerified_rd, Dev.cqCounted]
  have hprogs := Dev.count_rd_self (d.onCirque (fun c => { c with prog := none, words := SMap.put c.words p.word p.data }))
    (A.CIRQUE_CNT 2) 1
  split
  · rw [((Frame.refl [] [A.CIRQUE_CNT 0, A.CIRQUE_CORR_LAST] _).cqCorr (by decide) (by decide)).rd_eq (by decide), hprogs]; rfl
  · rw [Dev.count_rd, if_neg (by decide), hprogs]; rfl

theorem cqVerified_corrected (d : Dev) (p : CqProg) (corr : Nat) :
    (d.cqVerified p corr).rd (A.CIRQUE_CNT 0) =
      if corr ≤ 3 then d.rd (A.CIRQUE_CNT 0) + BitVec.ofNat 64 corr else d.rd (A.CIRQUE_CNT 0) := by
  rw [cqVerified_rd, Dev.cqCounted]
  split
  · rw [cqCorr_rd_counter, Dev.count_rd, if_neg (by decide)]; rfl
  · rw [Dev.count_rd, if_neg (by decide), Dev.count_rd, if_neg (by decide)]; rfl

theorem cqVerified_uncorrectable (d : Dev) (p : CqProg) (corr : Nat) :
    (d.cqVerified p corr).rd (A.CIRQUE_CNT 1) = if corr ≤ 3 then d.rd (A.CIRQUE_CNT 1) else d.rd (A.CIRQUE_CNT 1) + 1 := by
  rw [cqVerified_rd, Dev.cqCounted]
  split
  · rw [((Frame.refl [] [A.CIRQUE_CNT 0, A.CIRQUE_CORR_LAST] _).cqCorr (by decide) (by decide)).rd_eq (by decide), Dev.count_rd,
      if_neg (by decide)]
    rfl
  · rw [Dev.count_rd_self, Dev.count_rd, if_neg (by decide)]; rfl

end Sys2Proof
end

section
/-! A peripheral withdraws its request (R310): the channels of its line that are not in flight end WITHDRAWN. -/

namespace Sys2Proof

open Machine

/-- The registers that a withdrawal can write. -/
def withdrawRegs : List Nat := A.OX_ERRST :: (List.range 32).map A.OX_STAT

theorem oxStat_mem_withdrawRegs {n : Nat} (hn : n < 32) : A.OX_STAT n ∈ withdrawRegs :=
  List.mem_cons_of_mem _ (List.mem_map_of_mem (List.mem_range.mpr hn))

section
variable {P : List Part} {R : List Nat} {a d : Dev}

theorem Frame.irqTo {core src : Nat} (h : Frame P R a d) (hp : Part.cores ∈ P) : Frame P R a (d.irqTo core src) := h.onCores hp

theorem Frame.oxHalt {n st : Nat} (h : Frame P R a d) (hp : Part.ox ∈ P) (hc : Part.cores ∈ P) (hs : A.OX_STAT n ∈ R)
    (he : A.OX_ERRST ∈ R) : Frame P R a (d.oxHalt n st) :=
  Frame.ite ((((h.setFld hs).onOx hp).setBit he).irqTo hc) ((h.setFld hs).onOx hp)

end

/-- The step of a withdrawal for one channel of the line. -/
def withdrawOne (d : Dev) (n : Nat) : Dev :=
  if n ∈ d.ox.flight then d.onOx (fun o => { o with wdraw := o.wdraw.filter (· != n) ++ [n] }) else d.oxHalt n 3

/-- The channels of a line that run. -/
def lineChannels (d : Dev) (line : Nat) : List Nat :=
  (List.range 32).filter (fun n => decide (d.oxState n = 1) && decide ((d.oxAct n).req = line))

theorem oxWithdraw_eq (d : Dev) (line : Nat) :
    d.oxWithdraw line =
      (let e := d.onOx (fun o => { o with lines := o.lines.filter (· != line) })
       (e.each (lineChannels d line) withdrawOne).oxGrant) := rfl

theorem withdrawOne_flight (d : Dev) (n : Nat) : (withdrawOne d n).ox.flight = d.ox.flight := by
  unfold withdrawOne
  split <;> rfl

theorem oxHalt_withdrawn (d : Dev) (n : Nat) : (d.oxHalt n 3).oxState n = 3 := by
  have hstat : A.OX_STAT n ≠ A.OX_ERRST := by simp only [A.OX_STAT, A.OX_ERRST]; omega
  calc (d.oxHalt n 3).oxState n
    _ = (d.setFld (A.OX_STAT n) 2 0 3).oxState n := Dev.fld_congr ((Dev.setBit_rd _ _ _ _ _).trans (if_neg hstat)) 2 0
    _ = 3 := (Dev.setFld_fld _ _ _ _ _ (by decide) (by decide)).trans (by decide)

theorem oxHalt_other (d : Dev) {n m : Nat} (hn : n ≠ m) (st : Nat) : (d.oxHalt m st).oxState n = d.oxState n :=
  ((Frame.refl [.ox, .cores] [A.OX_STAT m, A.OX_ERRST] d).oxHalt (by decide) (by decide) List.mem_cons_self (by simp)).fld_eq
    (by simp only [List.mem_cons, List.not_mem_nil, or_false, A.OX_STAT, A.OX_ERRST]; omega) 2 0

/-- A step leaves no channel of the line that is not in flight as it was, and keeps those that are WITHDRAWN. -/
theorem withdrawOne_state (d : Dev) {n m : Nat} (hflight : n ∉ d.ox.flight) (h : n = m ∨ d.oxState n = 3) :
    (withdrawOne d m).oxState n = 3 := by
  by_cases hnm : n = m
  · subst hnm
    rw [withdrawOne, if_neg hflight]
    exact oxHalt_withdrawn d n
  · rw [withdrawOne]
    split
    · exact h.resolve_left hnm
    · rw [oxHalt_other d hnm]
      exact h.resolve_left hnm

theorem each_withdrawOne_state (l : List Nat) (d : Dev) {n : Nat} (hflight : n ∉ d.ox.flight) (h : n ∈ l ∨ d.oxState n = 3) :
    (d.each l withdrawOne).oxState n = 3 := by
  induction l generalizing d with
  | nil => exact h.resolve_left List.not_mem_nil
  | cons m t ih =>
    refine ih (withdrawOne d m) (by rwa [withdrawOne_flight]) ?_
    rcases h with h | h
    · rcases List.mem_cons.mp h with h | h
      · exact .inr (withdrawOne_state d hflight (.inl h))
      · exact .inl h
    · exact .inr (withdrawOne_state d hflight (.inr h))

theorem oxWithdraw_withdrawn (d : Dev) {line n : Nat} (hn : n < 32) (hruns : d.oxState n = 1) (hline : (d.oxAct n).req = line)
    (hflight : n ∉ d.ox.flight) : (d.oxWithdraw line).oxState n = 3 := by
  have hmem : n ∈ lineChannels d line := by simp [lineChannels, hn, hruns, hline]
  rw [oxWithdraw_eq, Dev.oxState, Dev.fld_congr (Dev.oxGrant_rd _ _)]
  exact each_withdrawOne_state _ _ hflight (.inl hmem)

theorem Frame.oxWithdraw {P : List Part} {R : List Nat} {a d : Dev} {line : Nat} (h : Frame P R a d) (hp : Part.ox ∈ P)
    (hc : Part.cores ∈ P) (hr : ∀ r ∈ withdrawRegs, r ∈ R) : Frame P R a (d.oxWithdraw line) := by
  rw [oxWithdraw_eq]
  refine Frame.oxGrant (Frame.each (h.onOx hp) fun n hn e he => ?_) hp
  have hn32 : n < 32 := List.mem_range.mp (List.mem_filter.mp hn).1
  exact Frame.ite (he.onOx hp) (he.oxHalt hp hc (hr _ (oxStat_mem_withdrawRegs hn32)) (hr _ List.mem_cons_self))

end Sys2Proof
end

section
namespace Sys2Proof

open Machine

/-! The clauses of O44. -/

/-- GO is discarded while CIRQUE accepts none or one is busy. -/
theorem cqGo_discarded {d : Dev} (ainc : Bool) (h : d.cqActive = false ∨ d.bit A.CIRQUE_PCMD 12 = true) :
    d.cqGo ainc = d.setBit A.CIRQUE_PCMD 1 ainc := by
  have hactive : (d.setBit A.CIRQUE_PCMD 1 ainc).cqActive = d.cqActive := by
    simp [Dev.cqActive, Dev.setBit_bit, A.CIRQUE_STAT, A.CIRQUE_PCMD]
  rcases h with h | h <;> simp [Dev.cqGo, hactive, h]

/-- The engine with GO written: idle, and the program waits. -/
def pcmdWaits (d : Dev) (ainc : Bool) : Dev := ((d.setBit A.CIRQUE_PCMD 1 ainc).setBit A.CIRQUE_PCMD 12 true).setBit A.CIRQUE_STAT 2 false

theorem frame_pcmdWaits (d : Dev) (ainc : Bool) : Frame [] [A.CIRQUE_PCMD, A.CIRQUE_STAT] d (pcmdWaits d ainc) :=
  (((Frame.refl _ _ d).setBit (by decide)).setBit (by decide)).setBit (by decide)

theorem pcmdWaits_bits (d : Dev) (ainc : Bool) :
    (pcmdWaits d ainc).bit A.CIRQUE_PCMD 12 = true ∧ (pcmdWaits d ainc).bit A.CIRQUE_PCMD 1 = ainc ∧
      (pcmdWaits d ainc).bit A.CIRQUE_STAT 1 = d.bit A.CIRQUE_STAT 1 ∧
      (pcmdWaits d ainc).fld A.CIRQUE_PCMD 11 8 = d.fld A.CIRQUE_PCMD 11 8 := by
  refine ⟨?_, ?_, ?_, ?_⟩
  · simp [pcmdWaits, Dev.setBit_bit, A.CIRQUE_STAT, A.CIRQUE_PCMD]
  · simp [pcmdWaits, Dev.setBit_bit, A.CIRQUE_STAT, A.CIRQUE_PCMD]
  · simp [pcmdWaits, Dev.setBit_bit, A.CIRQUE_STAT, A.CIRQUE_PCMD]
  · simp only [pcmdWaits]
    rw [Dev.setBit_fld _ _ _ _ _ _ _ (by decide) (.inl (by decide)), Dev.setBit_fld _ _ _ _ _ _ _ (by decide) (.inr (.inr (by decide))),
      Dev.setBit_fld _ _ _ _ _ _ _ (by decide) (.inr (.inl (by decide)))]

theorem pcmdWaits_progRefusal (d : Dev) (ainc : Bool) (w : Nat) : (pcmdWaits d ainc).progRefusal w = d.progRefusal w :=
  Dev.progRefusal_congr (fun b => (frame_pcmdWaits d ainc).rd_eq (by
    simp only [List.mem_cons, List.not_mem_nil, or_false, A.CIRQUE_ESTAT, A.CIRQUE_PCMD, A.CIRQUE_STAT]; omega)) rfl rfl rfl rfl rfl

theorem pcmdWaits_pdata (d : Dev) (ainc : Bool) : (pcmdWaits d ainc).pdata = d.pdata := by
  have hdata : ∀ i < 4, (pcmdWaits d ainc).rd (A.CIRQUE_PDATA i) = d.rd (A.CIRQUE_PDATA i) := fun i hi =>
    (frame_pcmdWaits d ainc).rd_eq (by
      simp only [List.mem_cons, List.not_mem_nil, or_false, A.CIRQUE_PDATA, A.CIRQUE_PCMD, A.CIRQUE_STAT]; omega)
  exact congrArg (BitVec.ofNat 256) (List.foldl_ext _ _ _ fun x i hi => by rw [hdata i (List.mem_range.mp hi)])

theorem pcmdWaits_paddr (d : Dev) (ainc : Bool) : (pcmdWaits d ainc).fld A.CIRQUE_PADDR 26 5 = d.fld A.CIRQUE_PADDR 26 5 :=
  (frame_pcmdWaits d ainc).fld_eq (by decide) 26 5

/-- An accepted GO is taken up at once by an idle engine. -/
theorem cqGo_taken {d : Dev} (ainc : Bool) (hactive : d.cqActive = true) (hidle : d.bit A.CIRQUE_PCMD 12 = false)
    (hprog : d.cirque.prog = none) :
    d.cqGo ainc =
      (let e := (pcmdWaits d ainc).pcmdStart
       (if e.cirque.prog.isNone then e.pfifoStart (e.cirque.fifo.length / 4) else e).cqDrained) := by
  have hactive' : (d.setBit A.CIRQUE_PCMD 1 ainc).cqActive = true := by
    simpa [Dev.cqActive, Dev.setBit_bit, A.CIRQUE_STAT, A.CIRQUE_PCMD] using hactive
  have hgo : d.cqGo ainc = ((d.setBit A.CIRQUE_PCMD 1 ainc).setBit A.CIRQUE_PCMD 12 true).cqNext := by
    simp [Dev.cqGo, hactive', hidle]
  rw [hgo, Dev.cqNext_of_pcmd (by exact hprog) (by simp [Dev.setBit_bit])]
  rfl

theorem cqGo_starts {d : Dev} (ainc : Bool) (hactive : d.cqActive = true) (hidle : d.bit A.CIRQUE_PCMD 12 = false)
    (hprog : d.cirque.prog = none) (hok : d.progRefusal (d.fld A.CIRQUE_PADDR 26 5) = none) :
    d.cqGo ainc =
      ((pcmdWaits d ainc).drawFlag (d.fld A.CIRQUE_PADDR 26 5)).cqBegin (d.fld A.CIRQUE_PADDR 26 5) d.pdata false := by
  have hstart : (pcmdWaits d ainc).pcmdStart =
      ((pcmdWaits d ainc).drawFlag (d.fld A.CIRQUE_PADDR 26 5)).cqBegin (d.fld A.CIRQUE_PADDR 26 5) d.pdata false := by
    simp only [Dev.pcmdStart, pcmdWaits_paddr, pcmdWaits_progRefusal, hok, pcmdWaits_pdata]
  rw [cqGo_taken ainc hactive hidle hprog, hstart]
  simp only [Dev.cqBegin_prog, Option.isNone_some, Bool.false_eq_true, if_false]
  exact Dev.cqDrained_of_busy rfl

theorem cqGo_refused {d : Dev} (ainc : Bool) {r : Nat} (hactive : d.cqActive = true) (hidle : d.bit A.CIRQUE_PCMD 12 = false)
    (hprog : d.cirque.prog = none) (hrefused : d.progRefusal (d.fld A.CIRQUE_PADDR 26 5) = some r) (hfifo : d.cirque.fifo.length < 4)
    (hdrain : d.bit A.CIRQUE_STAT 1 = false) :
    d.cqGo ainc = ((pcmdWaits d ainc).drawFlag (d.fld A.CIRQUE_PADDR 26 5)).pcmdEnd r none := by
  have hstart : (pcmdWaits d ainc).pcmdStart = ((pcmdWaits d ainc).drawFlag (d.fld A.CIRQUE_PADDR 26 5)).pcmdEnd r none := by
    simp only [Dev.pcmdStart, pcmdWaits_paddr, pcmdWaits_progRefusal, hrefused]
  obtain ⟨-, -, hwaits, -⟩ := pcmdWaits_bits d ainc
  have hcirque : (((pcmdWaits d ainc).drawFlag (d.fld A.CIRQUE_PADDR 26 5)).pcmdEnd r none).cirque = d.cirque := by
    rw [pcmdEnd_cirque, Dev.drawFlag_cirque]; rfl
  have hstat : (((pcmdWaits d ainc).drawFlag (d.fld A.CIRQUE_PADDR 26 5)).pcmdEnd r none).bit A.CIRQUE_STAT 1 = false := by
    rw [((Frame.refl [] [A.CIRQUE_PCMD, A.CIRQUE_PADDR, A.CIRQUE_CNT 4] _).pcmdEnd (by decide) (by decide)
        (fun _ => by decide)).bit_eq (by decide), Dev.bit_congr (Dev.drawFlag_rd _ _ _), hwaits, hdrain]
  rw [cqGo_taken ainc hactive hidle hprog, hstart]
  simp only [hcirque, hprog, Option.isNone_none, if_true, Nat.div_eq_of_lt hfifo, Dev.pfifoStart_zero,
    Dev.cqDrained_of_not_draining hstat]

theorem progRefusal_cases {d : Dev} {w r : Nat} (h : d.progRefusal w = some r) : r = 4 ∨ r = 3 := by
  unfold Dev.progRefusal at h
  split at h
  · exact .inl (Option.some.inj h).symm
  · split at h
    · exact .inr (Option.some.inj h).symm
    · cases h

theorem exec_cirqueProgramGo {s : State} (h : Reach A.CIRQUE_PCMD s) (ainc : Bool) :
    exec (.cirqueProgramGo ainc) s = .next { s with dev := s.dev.cqGo ainc } := regDo_reach h (fun d => d.cqGo ainc)

theorem exec_cirqueProgramEnd {s : State} (h : Running s) (corr : Nat) :
    exec (.cirqueProgramEnd corr) s = .next { s with dev := s.dev.cqProgEnd corr } := mainDo_running h (fun d => d.cqProgEnd corr)

theorem exec_pfifoWrite {s : State} (h : Reach A.CIRQUE_PFIFO s) (x : W64) :
    exec (.pfifoWrite x) s = .next { s with dev := (s.dev.pfifoPush x).oxGrant } := regDo_reach h (fun d => (d.pfifoPush x).oxGrant)

/-- The registers that the start of a program in a bank can write. -/
def beginRegs (b : Nat) : List Nat := [A.CIRQUE_ESTAT b, A.CIRQUE_STAT, A.CIRQUE_CNT 5]

theorem pcmd_not_mem_beginRegs (b : Nat) : A.CIRQUE_PCMD ∉ beginRegs b := by
  simp only [beginRegs, List.mem_cons, List.not_mem_nil, or_false, A.CIRQUE_PCMD, A.CIRQUE_ESTAT, A.CIRQUE_STAT, A.CIRQUE_CNT]
  omega

theorem paddr_not_mem_beginRegs (b : Nat) : A.CIRQUE_PADDR ∉ beginRegs b := by
  simp only [beginRegs, List.mem_cons, List.not_mem_nil, or_false, A.CIRQUE_PADDR, A.CIRQUE_ESTAT, A.CIRQUE_STAT, A.CIRQUE_CNT]
  omega

theorem frame_cqBegin (d : Dev) (w : Nat) (x : BitVec 256) (fifo : Bool) :
    Frame [.cirque] (beginRegs (bankOf w)) d (d.cqBegin w x fifo) :=
  (Frame.refl _ _ d).cqBegin (by decide) (by simp [beginRegs]) (by simp [beginRegs]) (by simp [beginRegs])

theorem estat_not_mem_waits (b : Nat) : A.CIRQUE_ESTAT b ∉ [A.CIRQUE_PCMD, A.CIRQUE_STAT] := by
  simp only [List.mem_cons, List.not_mem_nil, or_false, A.CIRQUE_ESTAT, A.CIRQUE_PCMD, A.CIRQUE_STAT]
  omega

/-- The program that GO starts. -/
theorem cqGo_starts_holds {d : Dev} (ainc : Bool) (hactive : d.cqActive = true) (hidle : d.bit A.CIRQUE_PCMD 12 = false)
    (hprog : d.cirque.prog = none) (hok : d.progRefusal (d.fld A.CIRQUE_PADDR 26 5) = none) :
    let w := d.fld A.CIRQUE_PADDR 26 5
    let e := d.cqGo ainc
    e.cirque.prog = some { word := w, data := d.pdata, fifo := false } ∧ e.cirque.words = d.cirque.words ∧
      e.bit A.CIRQUE_STAT 2 = true ∧ e.bit A.CIRQUE_PCMD 12 = true ∧ e.bit A.CIRQUE_PCMD 1 = ainc ∧
      (d.fld (A.CIRQUE_ESTAT (bankOf w)) 1 0 = 1 → d.fld (A.CIRQUE_ESTAT (bankOf w)) 15 8 < 100 →
        e.fld (A.CIRQUE_ESTAT (bankOf w)) 1 0 = 2) ∧
      Frame [.cirque, .free] [A.CIRQUE_PCMD, A.CIRQUE_STAT, A.CIRQUE_ESTAT (bankOf w), A.CIRQUE_CNT 5] d e := by
  intro w e
  obtain he : e = ((pcmdWaits d ainc).drawFlag w).cqBegin w d.pdata false := cqGo_starts ainc hactive hidle hprog hok
  have hwaits : Frame [.free] [A.CIRQUE_PCMD, A.CIRQUE_STAT] d ((pcmdWaits d ainc).drawFlag w) :=
    ((frame_pcmdWaits d ainc).mono (by simp) (fun _ h => h)).drawFlag (by decide)
  obtain ⟨hbusy, hainc, -, -⟩ := pcmdWaits_bits d ainc
  have hpcmd : e.rd A.CIRQUE_PCMD = (pcmdWaits d ainc).rd A.CIRQUE_PCMD := by
    rw [he, (frame_cqBegin _ w _ _).rd_eq (pcmd_not_mem_beginRegs _), Dev.drawFlag_rd]
  refine ⟨by rw [he]; rfl, ?_, by rw [he]; exact Dev.cqBegin_busy .., ?_, ?_, ?_, ?_⟩
  · rw [he]
    exact (Dev.cqAccess_keeps _ w).1.trans (by rw [Dev.drawFlag_cirque]; rfl)
  · rw [Dev.bit_congr hpcmd, hbusy]
  · rw [Dev.bit_congr hpcmd, hainc]
  · intro hruns hcap
    rw [he]
    refine Dev.cqBegin_suspends _ _ ?_ ?_ ?_
    · rw [hwaits.fld_eq (estat_not_mem_waits _), hruns]
    · rw [Dev.erasing_congr (hwaits.rd_eq (estat_not_mem_waits _)) (by rw [Dev.drawFlag_cirque]; rfl)]
      exact Dev.not_erasing_of_progRefusal hok
    · rwa [hwaits.fld_eq (estat_not_mem_waits _)]
  · rw [he]
    exact Frame.cqBegin (hwaits.mono (by simp) (by simp)) (by decide) (by simp) (by simp) (by simp)

/-- The program that GO starts and that is refused. -/
theorem cqGo_refused_holds {d : Dev} (ainc : Bool) {r : Nat} (hactive : d.cqActive = true) (hidle : d.bit A.CIRQUE_PCMD 12 = false)
    (hprog : d.cirque.prog = none) (hrefused : d.progRefusal (d.fld A.CIRQUE_PADDR 26 5) = some r) (hfifo : d.cirque.fifo.length < 4)
    (hdrain : d.bit A.CIRQUE_STAT 1 = false) :
    let w := d.fld A.CIRQUE_PADDR 26 5
    let e := d.cqGo ainc
    e.bit A.CIRQUE_PCMD 12 = false ∧ e.fld A.CIRQUE_PCMD 6 4 = r ∧ e.fld A.CIRQUE_PCMD 11 8 = d.fld A.CIRQUE_PCMD 11 8 ∧
      e.fld A.CIRQUE_PADDR 26 5 = (if ainc then (w + 1) % 2 ^ 22 else w) ∧
      e.rd (A.CIRQUE_CNT 4) = (if r = 3 then d.rd (A.CIRQUE_CNT 4) + 1 else d.rd (A.CIRQUE_CNT 4)) ∧
      e.cirque = d.cirque ∧ Frame [.free] [A.CIRQUE_PCMD, A.CIRQUE_STAT, A.CIRQUE_PADDR, A.CIRQUE_CNT 4] d e := by
  intro w e
  have hwaits : Frame [.free] [A.CIRQUE_PCMD, A.CIRQUE_STAT] d ((pcmdWaits d ainc).drawFlag w) :=
    ((frame_pcmdWaits d ainc).mono (by simp) (fun _ h => h)).drawFlag (by decide)
  obtain ⟨-, hainc, -, hcorr⟩ := pcmdWaits_bits d ainc
  obtain he : e = ((pcmdWaits d ainc).drawFlag w).pcmdEnd r none := cqGo_refused ainc hactive hidle hprog hrefused hfifo hdrain
  have hr : r < 8 := by rcases progRefusal_cases hrefused with rfl | rfl <;> decide
  rw [he]
  refine ⟨pcmdEnd_not_busy .., pcmdEnd_result _ hr _, ?_, ?_, ?_, ?_, ?_⟩
  · rw [pcmdEnd_uncorrected, Dev.fld_congr (Dev.drawFlag_rd ..), hcorr]
  · rw [pcmdEnd_paddr, Dev.bit_congr (Dev.drawFlag_rd ..), hainc, hwaits.fld_eq (by decide)]
  · rw [pcmdEnd_doubles, hwaits.rd_eq (by decide)]
  · rw [pcmdEnd_cirque, Dev.drawFlag_cirque]; rfl
  · exact (hwaits.mono (fun _ h => h) (by simp)).pcmdEnd (by decide) (by decide) (fun _ => by decide)

/-! The end of a program. -/

/-- The engine stands idle, and Ox arbitrates. -/
def cqRests (d : Dev) : Dev := (d.setBit A.CIRQUE_STAT 2 false).oxGrant

theorem frame_cqRests (d : Dev) : Frame [.ox] [A.CIRQUE_STAT] d (cqRests d) :=
  ((Frame.refl _ _ d).setBit (by decide)).oxGrant (by decide)

theorem cqRests_cirque (d : Dev) : (cqRests d).cirque = d.cirque := (frame_cqRests d).cirque_eq (by decide) (by decide)

theorem frame_cqVerified (d : Dev) (p : CqProg) (corr : Nat) :
    Frame [.cirque, .cairn] [A.CIRQUE_CNT 0, A.CIRQUE_CNT 1, A.CIRQUE_CNT 2, A.CIRQUE_CORR_LAST] d (d.cqVerified p corr) :=
  (Frame.refl _ _ d).cqVerified (by decide) (by decide) (by decide) (fun _ => by decide) (by decide) (by decide)

theorem frame_pcmdEnd (d : Dev) {res : Nat} (hres : res ≤ 2) (corr : Option Nat) :
    Frame [] [A.CIRQUE_PCMD, A.CIRQUE_PADDR] d (d.pcmdEnd res corr) :=
  (Frame.refl _ _ d).pcmdEnd (by decide) (by decide) (fun h => by omega)

/-- A register program whose verify ends it. -/
theorem cqProgEnd_of_pcmd {d : Dev} {p : CqProg} (corr : Nat) (hp : d.cirque.prog = some p)
    (hruns : d.fld (A.CIRQUE_ESTAT (bankOf p.word)) 1 0 ≠ 1) (hother : d.erasing (sectorOf p.word) = false)
    (hfifo : d.cirque.fifo.length < 4) (hdrain : d.bit A.CIRQUE_STAT 1 = false) (hreg : p.fifo = false) :
    d.cqProgEnd corr = cqRests ((d.cqVerified p corr).pcmdEnd (verifyResult corr) (some (Nat.min corr 15))) := by
  obtain ⟨hprog, -, hsame⟩ := d.cqVerified_cirque p corr
  have hstat : ((d.cqVerified p corr).pcmdEnd (verifyResult corr) (some (Nat.min corr 15))).bit A.CIRQUE_STAT 1 = false := by
    rw [(frame_pcmdEnd _ (verifyResult_le corr) _).bit_eq (by decide), (frame_cqVerified d p corr).bit_eq (by decide), hdrain]
  rw [Dev.cqProgEnd_verifies hp hruns hother]
  simp only [hreg, Bool.false_eq_true, if_false]
  rw [Dev.cqNext_of_idle (by rw [pcmdEnd_cirque, hprog]) (pcmdEnd_not_busy ..) (by rwa [pcmdEnd_cirque, hsame]) hstat]
  rfl

theorem cqProgEnd_pcmd_holds {d : Dev} {p : CqProg} (corr : Nat) (hp : d.cirque.prog = some p)
    (hruns : d.fld (A.CIRQUE_ESTAT (bankOf p.word)) 1 0 ≠ 1) (hother : d.erasing (sectorOf p.word) = false)
    (hfifo : d.cirque.fifo.length < 4) (hdrain : d.bit A.CIRQUE_STAT 1 = false) (hreg : p.fifo = false) :
    let e := d.cqProgEnd corr
    e.cirque.prog = none ∧ SMap.find e.cirque.words p.word = some p.data ∧
      (∀ w, w ≠ p.word → SMap.find e.cirque.words w = SMap.find d.cirque.words w) ∧
      e.rd (A.CIRQUE_CNT 2) = d.rd (A.CIRQUE_CNT 2) + 1 ∧
      e.rd (A.CIRQUE_CNT 0) = (if corr ≤ 3 then d.rd (A.CIRQUE_CNT 0) + BitVec.ofNat 64 corr else d.rd (A.CIRQUE_CNT 0)) ∧
      e.rd (A.CIRQUE_CNT 1) = (if corr ≤ 3 then d.rd (A.CIRQUE_CNT 1) else d.rd (A.CIRQUE_CNT 1) + 1) ∧
      (d.bit A.CIRQUE_PCMD 12 = true →
        e.bit A.CIRQUE_PCMD 12 = false ∧ e.fld A.CIRQUE_PCMD 6 4 = (if corr ≤ 1 then 0 else if corr ≤ 3 then 1 else 2) ∧
        e.fld A.CIRQUE_PCMD 11 8 = Nat.min corr 15 ∧
        e.fld A.CIRQUE_PADDR 26 5 =
          (if d.bit A.CIRQUE_PCMD 1 then (d.fld A.CIRQUE_PADDR 26 5 + 1) % 2 ^ 22 else d.fld A.CIRQUE_PADDR 26 5)) ∧
      (2 ≤ corr → 0x1500 ≤ sectorOf p.word → sectorOf p.word ∈ e.cirque.retired) ∧
      Frame [.cairn, .cirque, .ox] [A.CIRQUE_PCMD, A.CIRQUE_PADDR, A.CIRQUE_STAT, A.CIRQUE_CNT 0, A.CIRQUE_CNT 1, A.CIRQUE_CNT 2,
        A.CIRQUE_CORR_LAST] d e := by
  intro e
  let v := d.cqVerified p corr
  let x := v.pcmdEnd (verifyResult corr) (some (Nat.min corr 15))
  have he : e = cqRests x := cqProgEnd_of_pcmd corr hp hruns hother hfifo hdrain hreg
  obtain ⟨hprog, hwords, -⟩ := d.cqVerified_cirque p corr
  have hv := frame_cqVerified d p corr
  have hx := frame_pcmdEnd v (verifyResult_le corr) (some (Nat.min corr 15))
  have hcirque : e.cirque = v.cirque := by rw [he, cqRests_cirque, pcmdEnd_cirque]
  have hrest : ∀ r, r ≠ A.CIRQUE_STAT → e.rd r = x.rd r := fun r hr => by
    rw [he]; exact (frame_cqRests x).rd_eq (by simpa using hr)
  have hcorr : Nat.min corr 15 < 16 := Nat.lt_succ_of_le (Nat.min_le_right _ _)
  refine ⟨by rw [hcirque, hprog], ?_, fun w hw => ?_, ?_, ?_, ?_, fun _ => ⟨?_, ?_, ?_, ?_⟩, fun h2 hsec => ?_, ?_⟩
  · rw [hcirque, hwords, SMap.find_put, if_pos rfl]
  · rw [hcirque, hwords, SMap.find_put, if_neg hw]
  · rw [hrest _ (by decide), hx.rd_eq (by decide), cqVerified_programs]
  · rw [hrest _ (by decide), hx.rd_eq (by decide), cqVerified_corrected]
  · rw [hrest _ (by decide), hx.rd_eq (by decide), cqVerified_uncorrectable]
  · rw [Dev.bit_congr (hrest _ (by decide)), pcmdEnd_not_busy]
  · rw [Dev.fld_congr (hrest _ (by decide)), pcmdEnd_result _ (by have := verifyResult_le corr; omega)]
    rfl
  · rw [Dev.fld_congr (hrest _ (by decide)), pcmdEnd_corrected _ _ hcorr]
  · rw [Dev.fld_congr (hrest _ (by decide)), pcmdEnd_paddr, hv.bit_eq (by decide), hv.fld_eq (by decide)]
  · rw [hcirque]
    exact d.cqVerified_retired h2 hsec
  · rw [he]
    refine Frame.oxGrant (Frame.setBit ?_ (by decide)) (by decide)
    exact Frame.pcmdEnd (hv.mono (by simp) (by simp)) (by decide) (by decide) (fun h => absurd (verifyResult_le corr) (by omega))

theorem frame_paddrNext (d : Dev) : Frame [] [A.CIRQUE_PADDR] d d.paddrNext := (Frame.refl _ _ d).paddrNext (by decide)

theorem paddrNext_cirque (d : Dev) : d.paddrNext.cirque = d.cirque := (frame_paddrNext d).cirque_eq (by decide) (by decide)

/-- A FIFO word whose verify passes. -/
theorem cqProgEnd_fifo_passes {d : Dev} {p : CqProg} {corr : Nat} (hp : d.cirque.prog = some p)
    (hruns : d.fld (A.CIRQUE_ESTAT (bankOf p.word)) 1 0 ≠ 1) (hother : d.erasing (sectorOf p.word) = false)
    (hfifo : d.cirque.fifo.length < 4) (hdrain : d.bit A.CIRQUE_STAT 1 = false) (hport : p.fifo = true) (hcorr : corr ≤ 3)
    (hidle : d.bit A.CIRQUE_PCMD 12 = false) :
    let e := d.cqProgEnd corr
    e.cirque.prog = none ∧ SMap.find e.cirque.words p.word = some p.data ∧ e.cirque.fifo = d.cirque.fifo ∧
      e.fld A.CIRQUE_PADDR 26 5 = (d.fld A.CIRQUE_PADDR 26 5 + 1) % 2 ^ 22 ∧
      Frame [.cairn, .cirque, .ox] [A.CIRQUE_PADDR, A.CIRQUE_STAT, A.CIRQUE_CNT 0, A.CIRQUE_CNT 2, A.CIRQUE_CORR_LAST] d e := by
  intro e
  let v := d.cqVerified p corr
  obtain ⟨hprog, hwords, hsame⟩ := d.cqVerified_cirque p corr
  have hv := frame_cqVerified d p corr
  have hgood : verifyResult corr ≤ 1 := by unfold verifyResult; split <;> simp_all
  have he : e = cqRests v.paddrNext := by
    have hstat : v.paddrNext.bit A.CIRQUE_STAT 1 = false := by
      rw [(frame_paddrNext v).bit_eq (by decide), hv.bit_eq (by decide), hdrain]
    have hcmd : v.paddrNext.bit A.CIRQUE_PCMD 12 = false := by
      rw [(frame_paddrNext v).bit_eq (by decide), hv.bit_eq (by decide), hidle]
    refine (Dev.cqProgEnd_verifies hp hruns hother).trans ?_
    simp only [hport, if_true, Dev.pfifoEnd_of_good hgood]
    rw [Dev.cqNext_of_idle (by rw [paddrNext_cirque, hprog]) hcmd (by rwa [paddrNext_cirque, hsame]) hstat]
    rfl
  have hcirque : e.cirque = v.cirque := by rw [he, cqRests_cirque, paddrNext_cirque]
  refine ⟨by rw [hcirque, hprog], ?_, by rw [hcirque, hsame], ?_, ?_⟩
  · rw [hcirque, hwords, SMap.find_put, if_pos rfl]
  · rw [he, (frame_cqRests _).fld_eq (by decide), paddrNext_paddr, hv.fld_eq (by decide)]
  · rw [he]
    refine Frame.oxGrant (Frame.setBit (Frame.paddrNext ?_ (by decide)) (by decide)) (by decide)
    exact (Frame.refl _ _ d).cqVerified (by decide) (by decide) (by decide) (fun h => absurd h (by omega)) (by decide) (by decide)

/-- The port is stopped: the word pointer has gone on, STAT shows it, and the FIFO is empty. -/
def portStopped (d : Dev) : Dev := (d.paddrNext.setBit A.CIRQUE_STAT 3 true).onCirque (fun c => { c with fifo := [] })

theorem pfifoEnd_uncorrectable (d : Dev) : d.pfifoEnd 2 = (portStopped d).oxWithdraw 1 := rfl

theorem frame_portStopped (d : Dev) : Frame [.cirque] [A.CIRQUE_PADDR, A.CIRQUE_STAT] d (portStopped d) :=
  (((Frame.refl _ _ d).paddrNext (by decide)).setBit (by decide)).onCirque (by decide)

theorem portStopped_stat (d : Dev) :
    (portStopped d).bit A.CIRQUE_STAT 3 = true ∧ (portStopped d).bit A.CIRQUE_STAT 1 = d.bit A.CIRQUE_STAT 1 := by
  have hpaddr : d.paddrNext.bit A.CIRQUE_STAT 1 = d.bit A.CIRQUE_STAT 1 := (frame_paddrNext d).bit_eq (by decide) 1
  simp [portStopped, Dev.setBit_bit, hpaddr]

theorem frame_oxWithdraw (d : Dev) (line : Nat) : Frame [.ox, .cores] withdrawRegs d (d.oxWithdraw line) :=
  (Frame.refl _ _ d).oxWithdraw (by decide) (by decide) (fun _ h => h)

/-- No register of CIRQUE is one of a channel of Ox. -/
theorem cirqueReg_not_mem_withdrawRegs {r : Nat} (h : r < 0x0200080000) : r ∉ withdrawRegs := by
  simp only [withdrawRegs, List.mem_cons, List.mem_map, A.OX_ERRST, A.OX_STAT]
  rintro (h | ⟨n, -, h⟩) <;> omega

theorem oxStat_not_mem_of_lt {n : Nat} {R : List Nat} (h : ∀ r ∈ R, r < 0x0200080000) : A.OX_STAT n ∉ R := fun hm => by
  have hlt := h _ hm
  simp only [A.OX_STAT] at hlt
  omega

/-- A FIFO word that the verify cannot correct stops the FIFO, and its request is withdrawn. -/
theorem cqProgEnd_fifo_fails {d : Dev} {p : CqProg} {corr : Nat} (hp : d.cirque.prog = some p)
    (hruns : d.fld (A.CIRQUE_ESTAT (bankOf p.word)) 1 0 ≠ 1) (hother : d.erasing (sectorOf p.word) = false)
    (hdrain : d.bit A.CIRQUE_STAT 1 = false) (hport : p.fifo = true) (hcorr : 3 < corr) (hidle : d.bit A.CIRQUE_PCMD 12 = false) :
    let e := d.cqProgEnd corr
    e.bit A.CIRQUE_STAT 3 = true ∧ e.cirque.fifo = [] ∧ e.cirque.prog = none ∧
      (∀ n, n < 32 → d.oxState n = 1 → (d.oxAct n).req = 1 → n ∉ d.ox.flight → e.oxState n = 3) := by
  intro e
  let v := d.cqVerified p corr
  let x := portStopped v
  let y := x.oxWithdraw 1
  obtain ⟨hprog, -, -⟩ := d.cqVerified_cirque p corr
  have hv := frame_cqVerified d p corr
  have hx := frame_portStopped v
  have hy := frame_oxWithdraw x 1
  have hbad : verifyResult corr = 2 := by simp [verifyResult, show ¬ corr ≤ 1 by omega, show ¬ corr ≤ 3 by omega]
  have hycirque : y.cirque = x.cirque := hy.cirque_eq (by decide) (by decide)
  have hyprog : y.cirque.prog = none := by rw [hycirque]; exact (congrArg Cirque.prog (paddrNext_cirque v)).trans hprog
  have hyfifo : y.cirque.fifo = [] := by rw [hycirque]; rfl
  have hylen : y.cirque.fifo.length < 4 := by rw [hyfifo]; decide
  have hydrain : y.bit A.CIRQUE_STAT 1 = false := by
    rw [hy.bit_eq (cirqueReg_not_mem_withdrawRegs (by decide)), (portStopped_stat v).2, hv.bit_eq (by decide), hdrain]
  have hycmd : y.bit A.CIRQUE_PCMD 12 = false := by
    rw [hy.bit_eq (cirqueReg_not_mem_withdrawRegs (by decide)), hx.bit_eq (by decide), hv.bit_eq (by decide), hidle]
  have he : e = cqRests y := by
    refine (Dev.cqProgEnd_verifies hp hruns hother).trans ?_
    simp only [hport, if_true, hbad, pfifoEnd_uncorrectable]
    exact congrArg Dev.oxGrant (Dev.cqNext_of_idle hyprog hycmd hylen hydrain)
  refine ⟨?_, by rw [he, cqRests_cirque, hyfifo], by rw [he, cqRests_cirque, hyprog], fun n hn hrun hline hflight => ?_⟩
  · have hstop : y.bit A.CIRQUE_STAT 3 = true := by
      rw [hy.bit_eq (cirqueReg_not_mem_withdrawRegs (by decide)), (portStopped_stat v).1]
    rw [he, cqRests, Dev.bit_congr (Dev.oxGrant_rd _ _), Dev.setBit_bit _ _ _ _ _ _ (by decide), if_neg (by decide), hstop]
  · have hox : x.ox = d.ox := (hx.2.1 .ox (by decide)).trans (hv.2.1 .ox (by decide))
    have hstate : x.oxState n = d.oxState n := by
      rw [Dev.oxState, hx.fld_eq (oxStat_not_mem_of_lt (by decide)), hv.fld_eq (oxStat_not_mem_of_lt (by decide))]; rfl
    rw [he, Dev.oxState, (frame_cqRests y).fld_eq (oxStat_not_mem_of_lt (by decide))]
    exact oxWithdraw_withdrawn x hn (hstate.trans hrun) (by rw [Dev.oxAct, hox]; exact hline) (by rwa [hox])

/-! Writes to the FIFO port. -/

theorem pfifoPush_discarded {d : Dev} (x : W64) (h : d.cqActive = false ∨ d.bit A.CIRQUE_STAT 3 = true) : d.pfifoPush x = d := by
  rcases h with h | h <;> simp [Dev.pfifoPush, h]

/-- A word of the port joins the FIFO. -/
def portPushed (d : Dev) (x : W64) : Dev := d.onCirque (fun q => { q with fifo := q.fifo ++ [x] })

theorem pfifoPush_accepted {d : Dev} (x : W64) (hactive : d.cqActive = true) (hopen : d.bit A.CIRQUE_STAT 3 = false) :
    d.pfifoPush x = (portPushed d x).cqNext := by
  simp only [Dev.pfifoPush, hactive, hopen, Bool.not_false, Bool.and_self, if_true]
  rfl

/-- A word of the port that is not the fourth waits. -/
theorem pfifoPush_waits {d : Dev} (x : W64) (hactive : d.cqActive = true) (hopen : d.bit A.CIRQUE_STAT 3 = false)
    (hidle : d.bit A.CIRQUE_PCMD 12 = false) (hprog : d.cirque.prog = none) (hdrain : d.bit A.CIRQUE_STAT 1 = false)
    (hfifo : d.cirque.fifo.length < 3) :
    (d.pfifoPush x).oxGrant = cqRests (portPushed d x) := by
  have hnext := Dev.cqNext_of_idle (d := portPushed d x) hprog hidle
    (by simp only [portPushed, Dev.onCirque_cirque, List.length_append, List.length_singleton]; omega) hdrain
  rw [pfifoPush_accepted x hactive hopen, hnext]
  rfl

theorem toNat_append_eq_add {m n : Nat} (x : BitVec m) (y : BitVec n) : (x ++ y).toNat = x.toNat * 2 ^ n + y.toNat := by
  rw [BitVec.toNat_append, ← Nat.shiftLeft_add_eq_or_of_lt y.isLt, Nat.shiftLeft_eq]

/-- Four words of the port are a code word, the first lowest. -/
theorem ofNat_eq_append (a b c x : W64) :
    BitVec.ofNat 256 (a.toNat + b.toNat * 2 ^ 64 + c.toNat * 2 ^ 128 + x.toNat * 2 ^ 192) = x ++ c ++ b ++ a := by
  apply BitVec.eq_of_toNat_eq
  simp only [toNat_append_eq_add, BitVec.toNat_ofNat]
  omega

/-- The engine with the fourth word of the port: the FIFO is empty again, and the code word is taken. -/
def portTakes (d : Dev) : Dev := (d.setBit A.CIRQUE_STAT 2 false).onCirque (fun c => { c with fifo := [] })

theorem frame_portTakes (d : Dev) : Frame [.cirque] [A.CIRQUE_STAT] d (portTakes d) :=
  ((Frame.refl _ _ d).setBit (by decide)).onCirque (by decide)

theorem portTakes_progRefusal (d : Dev) (w : Nat) : (portTakes d).progRefusal w = d.progRefusal w :=
  Dev.progRefusal_congr (fun b => (frame_portTakes d).rd_eq (by
    simp only [List.mem_cons, List.not_mem_nil, or_false, A.CIRQUE_ESTAT, A.CIRQUE_STAT]; omega)) rfl rfl rfl rfl rfl

theorem pfifoPush_starts {d : Dev} {a b c : W64} (x : W64) (hactive : d.cqActive = true) (hopen : d.bit A.CIRQUE_STAT 3 = false)
    (hidle : d.bit A.CIRQUE_PCMD 12 = false) (hprog : d.cirque.prog = none) (hfifo : d.cirque.fifo = [a, b, c])
    (hok : d.progRefusal (d.fld A.CIRQUE_PADDR 26 5) = none) :
    d.pfifoPush x =
      ((portTakes d).drawFlag (d.fld A.CIRQUE_PADDR 26 5)).cqBegin (d.fld A.CIRQUE_PADDR 26 5) (x ++ c ++ b ++ a) true := by
  let e := (portPushed d x).setBit A.CIRQUE_STAT 2 false
  have hfour : e.cirque.fifo = [a, b, c, x] := by
    simp only [e, portPushed, Dev.setBit_cirque, Dev.onCirque_cirque, hfifo]; rfl
  have hpaddr : (portTakes d).fld A.CIRQUE_PADDR 26 5 = d.fld A.CIRQUE_PADDR 26 5 := (frame_portTakes d).fld_eq (by decide) 26 5
  have htakes : e.onCirque (fun q => { q with fifo := [] }) = portTakes d := rfl
  have hstart : e.pfifoStart 1 =
      ((portTakes d).drawFlag (d.fld A.CIRQUE_PADDR 26 5)).cqBegin (d.fld A.CIRQUE_PADDR 26 5) (x ++ c ++ b ++ a) true := by
    simp only [Dev.pfifoStart, hfour, htakes, hpaddr, portTakes_progRefusal, hok, ofNat_eq_append]
  have hnext : (portPushed d x).cqNext = (e.pfifoStart 1).cqDrained := by
    refine (Dev.cqNext_of_fifo (d := portPushed d x) hprog hidle).trans ?_
    rw [show (portPushed d x).cirque.fifo = [a, b, c, x] from hfour, show [a, b, c, x].length / 4 = 1 by simp]
  rw [pfifoPush_accepted x hactive hopen, hnext, hstart]
  exact Dev.cqDrained_of_busy rfl

/-- Settles O44: what GO, the end of a program and a word of the port do, by the cases of the engine's step. -/
theorem cirquePrograms : Obligations.CirquePrograms := by
  unfold Obligations.CirquePrograms
  refine ⟨fun s ainc hreach => ⟨fun hoff => ?_, fun hactive hidle hprog => ⟨fun hok => ?_, fun r hrefused hfifo hdrain => ?_⟩⟩,
    fun s corr hrun => ⟨fun hnone => ?_, fun p hp hruns hother => ?_, fun p hp hruns hother hfifo hdrain => ⟨fun hreg => ?_,
      fun hport hcorr hidle => ?_, fun hport hcorr hidle => ?_⟩⟩,
    fun s x hreach => ⟨fun hoff => ?_, fun hactive hopen hidle hprog hdrain => ⟨fun hfifo => ?_, fun a b c hfifo hok => ?_⟩⟩⟩
  · refine ⟨_, exec_cirqueProgramGo hreach ainc, rfl, ?_⟩
    dsimp only
    rw [cqGo_discarded ainc hoff]
    refine ⟨?_, ?_, (Frame.refl _ _ _).setBit List.mem_cons_self⟩ <;> simp [Dev.setBit_bit]
  · exact ⟨_, exec_cirqueProgramGo hreach ainc, rfl, cqGo_starts_holds ainc hactive hidle hprog hok⟩
  · exact ⟨_, exec_cirqueProgramGo hreach ainc, rfl, cqGo_refused_holds ainc hactive hidle hprog hrefused hfifo hdrain⟩
  · exact ⟨_, exec_cirqueProgramEnd hrun corr, rfl, by simp [Dev.cqProgEnd, hnone]⟩
  · exact ⟨_, exec_cirqueProgramEnd hrun corr, rfl, Dev.cqProgEnd_waits hp hruns hother⟩
  · exact ⟨_, exec_cirqueProgramEnd hrun corr, rfl, cqProgEnd_pcmd_holds corr hp hruns hother hfifo hdrain hreg⟩
  · exact ⟨_, exec_cirqueProgramEnd hrun corr, rfl, cqProgEnd_fifo_passes hp hruns hother hfifo hdrain hport hcorr hidle⟩
  · exact ⟨_, exec_cirqueProgramEnd hrun corr, rfl, cqProgEnd_fifo_fails hp hruns hother hdrain hport hcorr hidle⟩
  · refine ⟨_, exec_pfifoWrite hreach x, rfl, ?_⟩
    dsimp only
    rw [pfifoPush_discarded x hoff]
    exact ⟨Dev.oxGrant_cirque _, (Frame.refl _ _ _).oxGrant (by decide)⟩
  · refine ⟨_, exec_pfifoWrite hreach x, rfl, ?_⟩
    dsimp only
    rw [pfifoPush_waits x hactive hopen hidle hprog hdrain hfifo]
    exact ⟨cqRests_cirque _, (((Frame.refl _ _ _).onCirque (by decide)).setBit (by decide)).oxGrant (by decide)⟩
  · refine ⟨_, exec_pfifoWrite hreach x, rfl, ?_⟩
    dsimp only
    rw [pfifoPush_starts x hactive hopen hidle hprog hfifo hok, Dev.oxGrant_cirque]
    refine ⟨rfl, ?_, ?_, ?_⟩
    · exact (Dev.cqAccess_keeps _ _).2.trans (by rw [Dev.drawFlag_cirque]; rfl)
    · rw [Dev.bit_congr (Dev.oxGrant_rd _ _)]
      exact Dev.cqBegin_busy ..
    · rw [Dev.oxGrant_rd, (frame_cqBegin _ _ _ _).rd_eq (paddr_not_mem_beginRegs _), Dev.drawFlag_rd,
        (frame_portTakes _).rd_eq (by decide)]

end Sys2Proof
end

section
/-! Numbers without a bound in a record. COL_SQ has 4,096 entries (R96) and PEN_DLOG_CTL one for each Pen (R196), but the clause
of O32 on Delete I/O Submission Queue takes every index that a queue holds, and every number that a Pen has. COL_SQ of the one and
PEN_DLOG_CTL of the other may then be the same place, here that of MULE_RETRY_CFG of channel 0, whose Reset value has bit 0: the
deletion, which takes COL_SQ to its Reset value, starts the log, and the completion after it marks a page. -/

namespace Sys2Proof

open Machine

/-- A Pen number whose PEN_DLOG_CTL is at MULE_RETRY_CFG of channel 0. -/
def strayPen : Nat := 62417

/-- A queue index whose COL_SQ is there too. -/
def strayIndex : Nat := 97297

theorem strayPen_dlogCtl : A.PEN_DLOG_CTL strayPen = A.MULE_RETRY_CFG 0 := by decide

/-- The record of a Pen that holds function 1. -/
def strayRec : PenRec :=
  { func0 := 2, func1 := 0, ioq := 8, nsq := 8, ksbase := 0, kscount := 8, cmbsh := 0, cmboff := 0, bufsh := 16, hold := 0, morq := 8,
    marq := 8, convq := 0, tgt0 := 10, tgt1 := 10, tgt2 := 10, tgt3 := 10, rdfloor := 16, wrfloor := 16, rdceil := 0xFFFF,
    wrceil := 0xFFFF, weight := 1, c0allow := 1 }

/-- A submission queue of function 1 under an index beyond COL_SQ. -/
def straySq : Sq := { adminSq 1 4096 0 with sqid := 1, q := strayIndex }

/-- Function 1 has its admin queues and that queue; its Pen logs nothing, and window 0 of the log would take page 0. -/
def strayQueue : State :=
  { dev := ((((Dev.cold.wr64 (A.MULE_RETRY_CFG 0) 0).setBit (A.PEN_DLOG_WIN strayPen 0) 0 true).wr64
      (A.PEN_DLOG_MAP strayPen 0) 1).onPens (fun p =>
        { p with recs := [(strayPen, { r := strayRec, gen := 1, enabled := true })] })).onHost (fun h =>
        { h with sqs := [adminSq 1 4096 0, straySq], cqs := [adminCq 1 4096 0] })
    pending := [] }

/-- An admin command of function 1. -/
def strayHdr : Hdr := { fn := 1, qid := 0, cid := 0 }

theorem exec_deleteSq {s : State} (h : Running s) (hdr : Hdr) (sqid : Nat) :
    exec (.deleteIoSubmissionQueue hdr sqid) s = .next { s with dev := s.dev.sqDelete hdr sqid } :=
  mainDo_running h (fun d => d.sqDelete hdr sqid)

theorem strayQueue_posting : Posting strayQueue := ⟨rfl, rfl⟩

theorem strayQueue_penOf : strayQueue.dev.penOf 1 = some strayPen := by decide +kernel

theorem strayQueue_log_off : strayQueue.dev.bit (A.PEN_DLOG_CTL strayPen) 0 = false := by
  rw [strayPen_dlogCtl]
  decide +kernel

theorem strayQueue_notLogging : NotLogging 1 strayQueue.dev := fun p hp => by
  obtain rfl := Option.some.inj (strayQueue_penOf.symm.trans hp)
  exact strayQueue_log_off

theorem strayQueue_find :
    strayQueue.dev.host.sqs.find? (fun q => q.fn == strayHdr.fn.val && q.sqid == 1 && q.sqid != 0) = some straySq := by
  decide +kernel

theorem strayQueue_byte : strayQueue.dev.byte (2 ^ 27) = 0 := by decide +kernel

/-- The completion of the deletion marks page 0 in copy 1 of the log. -/
theorem strayQueue_delete_byte : (strayQueue.dev.sqDelete strayHdr 1).byte (2 ^ 27) = 1 := by decide +kernel

/-- Refutes O32: where the index of a queue and the number of a Pen are out of bounds, the deletion of the queue can start the
Pen's dirty log, and its completion then changes a byte of memory. -/
theorem not_hostQueues : ¬ Obligations.HostQueues := by
  unfold Obligations.HostQueues
  rintro ⟨-, -, -, hdelete, -⟩
  obtain ⟨-, -, -, -, -, -, -, hmem⟩ :=
    (hdelete strayQueue strayHdr 1 straySq strayQueue_posting strayQueue_find).holds_of_exec
      (exec_deleteSq strayQueue_posting.1 strayHdr 1)
  have hsame : (strayQueue.dev.sqDelete strayHdr 1).byte (2 ^ 27) = strayQueue.dev.byte (2 ^ 27) :=
    hmem strayQueue_notLogging (2 ^ 27)
  rw [strayQueue_delete_byte, strayQueue_byte] at hsame
  exact absurd hsame (by decide)

end Sys2Proof
end

section
/-! A read whose message the cipher refuses (R208). The refusal is counted in CIPHER_CNT_REFUSE; the clause of O26 on a read that
fails its checks (`Dev.readCheck`, in which that refusal is one) lets no register change. -/

namespace Sys2Proof

open Machine

theorem exec_read {s : State} {h : Hdr} (hio : Io h s) (c : RwCmd) (bad : List (Nat × ReadErr)) :
    exec (.read h c bad) s = .next { s with dev := s.dev.readCmd h c bad } := by
  obtain ⟨⟨hrun, -⟩, hwaits⟩ := hio
  have hstep := mainDo_running hrun (fun d => if d.waitsTokens h then d else d.readCmd h c bad)
  simp only [hwaits] at hstep
  exact hstep

theorem noSlots_noReadWait : NoReadWait noSlots.dev := ⟨rfl, rfl⟩

theorem noSlots_readCheck : noSlots.dev.readCheck adminHdr oneLba = .error .internal := rfl

/-- The refusal of the read is counted. -/
theorem noSlots_read_refusals : (noSlots.dev.readCmd adminHdr oneLba []).rd A.CIPHER_CNT_REFUSE = 1 := rfl

/-- Refutes O26: a read that its slot refuses counts in CIPHER_CNT_REFUSE, where the clause on a failed check keeps every register. -/
theorem not_hostReads : ¬ Obligations.HostReads := by
  unfold Obligations.HostReads
  rintro ⟨-, -, -, hcheck, -⟩
  obtain ⟨hfails, -⟩ := hcheck noSlots adminHdr oneLba [] [] .internal noSlots_io noSlots_noReadWait
  obtain ⟨-, -, -, hregs, -⟩ :=
    (hfails noSlots_readCheck (.read adminHdr oneLba []) List.mem_cons_self).holds_of_exec (exec_read noSlots_io oneLba [])
  have hsame : (noSlots.dev.readCmd adminHdr oneLba []).rd A.CIPHER_CNT_REFUSE = noSlots.dev.rd A.CIPHER_CNT_REFUSE :=
    hregs _ List.not_mem_nil
  rw [noSlots_read_refusals, noSlots_refusals] at hsame
  exact absurd hsame (by decide)

end Sys2Proof
end

section
/-! A write that waits, and whose message the cipher refuses when it is tried again (R72, R208). A recomputed ceiling tries the waiting
writes, and the refusal is counted in CIPHER_CNT_REFUSE; the first clause of O31 leaves the registers of a mirrored write open and no
other. -/

namespace Sys2Proof

open Machine

/-- A write waits for the ceiling; its Pen holds no slot. -/
def ceilWaits : State :=
  { noSlots with
    dev := noSlots.dev.onWr (fun w =>
      { w with waiting := [{ h := adminHdr, c := oneLba, d := [], app := false, pen := 0, unc := false }] }) }

theorem exec_bufferCeilingRecompute {s : State} (h : Running s) (mv : Nat) :
    exec (.bufferCeilingRecompute mv) s = .next { s with dev := s.dev.ceilRecompute mv } :=
  mainDo_running h (fun d => d.ceilRecompute mv)

theorem ceilWaits_running : Running ceilWaits := rfl

theorem ceilWaits_refusals : ceilWaits.dev.rd A.CIPHER_CNT_REFUSE = 0 := rfl

/-- The recomputation tries the write, and its refusal is counted. -/
theorem ceilWaits_recompute_refusals : (ceilWaits.dev.ceilRecompute 0).rd A.CIPHER_CNT_REFUSE = 1 := rfl

theorem refusals_not_teeRegs : A.CIPHER_CNT_REFUSE ∉ teeRegs := by decide

/-- Refutes O31: a recomputed ceiling lets a waiting write go on, and where its slot refuses it CIPHER_CNT_REFUSE counts. -/
theorem not_bufferCeiling : ¬ Obligations.BufferCeiling := by
  unfold Obligations.BufferCeiling
  rintro ⟨hrecompute, -⟩
  obtain ⟨-, -, -, -, -, -, hregs, -⟩ :=
    (hrecompute ceilWaits 0 ceilWaits_running (Or.inr rfl)).holds_of_exec (exec_bufferCeilingRecompute ceilWaits_running 0)
  have hsame : (ceilWaits.dev.ceilRecompute 0).rd A.CIPHER_CNT_REFUSE = ceilWaits.dev.rd A.CIPHER_CNT_REFUSE :=
    hregs _ refusals_not_teeRegs
  rw [ceilWaits_recompute_refusals, ceilWaits_refusals] at hsame
  exact absurd hsame (by decide)

end Sys2Proof
end

section
/-! A LUN that comes back into service while programs wait for it (R117, R131). They are requested again, so the Mules change; the clause
of O40 on a retry that passes leaves the media and MULE_LUN open and nothing else. -/

namespace Sys2Proof

open Machine

/-- A program of a requester of the host, which the LUN has turned away. -/
def heldProgram : MuleReq := { backgroundRead with op := 1, rid := 1 }

/-- LUN 2 of channel 5 is out of service after no retry, and a program waits for it. -/
def lunReturns : State :=
  { muleGoing with
    dev := (((muleGoing.dev.setFld (A.MULE_LUN 5 2) 2 0 6).onMedia (fun m => { m with oos := [(5 * 32 + 2, 0)] })).onMules (fun m =>
      { m with oosWait := [(5, 2, heldProgram)] })) }

theorem exec_lunRestoreRetry {s : State} (h : Running s) (ch : Ch) (l : LunN) (pass : Bool) :
    exec (.lunRestoreRetry ch l pass) s = .next { s with dev := s.dev.restoreTry ch.val l.val pass } :=
  mainDo_running h (fun d => d.restoreTry ch.val l.val pass)

theorem lunReturns_running : Running lunReturns := rfl

theorem lunReturns_takenUp : TakenUp lunReturns.dev := rfl

theorem lunReturns_lunFree : LunFree 5 2 lunReturns.dev := ⟨rfl, rfl, rfl⟩

theorem lunReturns_oos : SMap.find lunReturns.dev.media.oos (5 * 32 + 2) = some 0 := rfl

/-- The program waits no more. -/
theorem lunReturns_restore_oosWait : (lunReturns.dev.restoreTry 5 2 true).mules.oosWait = [] := rfl

/-- Refutes O40: a retry that passes takes the waiting program from its list, and the frame of its clause keeps the Mules as they were. -/
theorem not_muleEnds : ¬ Obligations.MuleEnds := by
  unfold Obligations.MuleEnds
  rintro ⟨-, -, -, -, -, -, hretry⟩
  obtain ⟨-, hknown⟩ := hretry lunReturns 5 2 lunReturns_running lunReturns_takenUp
  obtain ⟨hfree, -⟩ := hknown 0 lunReturns_oos
  obtain ⟨-, -, -, hparts, -⟩ :=
    (hfree lunReturns_lunFree).holds_of_exec (exec_lunRestoreRetry lunReturns_running 5 2 true)
  have hmules : (lunReturns.dev.restoreTry 5 2 true).mules = lunReturns.dev.mules := hparts .mules (by decide)
  have hwait := lunReturns_restore_oosWait
  rw [hmules] at hwait
  exact List.cons_ne_nil _ _ hwait

end Sys2Proof
end

section
/-! A program that the cap of its channel holds (R82, R97, R334). A Power Management feature that raises the cap lets it go on at once;
the clause of O33 on power states 0 and 1 keeps the Mules as they were. -/

namespace Sys2Proof

open Machine

/-- The cap of channel 5 is 0, and a program waits on LUN 2. -/
def capHolds : State :=
  { muleGoing with
    dev := ((muleGoing.dev.setReg (A.MULE_SEQMAP 5 1) 1).setReg (A.MULE_SEQHDR 5 1) (2 ^ 63 + 2 ^ 61)).setReg (A.MULE_PE_CAP 5) 0
      |>.setLun 5 2 { lunIdle 0 with queue := [muleGoing.dev.mkReq 5 { backgroundRead with op := 1, rid := 1 } none] } }

theorem exec_setFeatures {s : State} (h : Running s) (hdr : Hdr) (fid : Byte) (v : W64) :
    exec (.setFeatures hdr fid v) s = .next { s with dev := s.dev.setFeat hdr fid.toNat v.toNat } :=
  mainDo_running h (fun d => d.setFeat hdr fid.toNat v.toNat)

theorem capHolds_posting : Posting capHolds := ⟨rfl, rfl⟩

theorem capHolds_idle : (capHolds.dev.lun 5 2).run = none := rfl

set_option maxRecDepth 10000 in
/-- Power state 0 raises the cap to 28, and the program starts. -/
theorem capHolds_ps_runs : ((capHolds.dev.setFeat adminHdr 2 0).lun 5 2).run.isSome = true := rfl

/-- Refutes O33: with the cap that Set Features gives for power state 0 a program that waited for it runs, so the Mules change. -/
theorem not_adminData : ¬ Obligations.AdminData := by
  unfold Obligations.AdminData
  rintro ⟨-, -, -, -, -, -, hset, -⟩
  obtain ⟨hlow, -⟩ := hset capHolds adminHdr 0 capHolds_posting
  obtain ⟨-, -, -, -, hparts, -⟩ := (hlow (by decide)).holds_of_exec (exec_setFeatures capHolds_posting.1 adminHdr 2 0)
  have hmules : (capHolds.dev.setFeat adminHdr 2 0).mules = capHolds.dev.mules := hparts .mules (by decide)
  have hlun : (capHolds.dev.setFeat adminHdr 2 0).lun 5 2 = capHolds.dev.lun 5 2 := by simp only [Dev.lun, hmules]
  have hruns := capHolds_ps_runs
  rw [hlun, capHolds_idle] at hruns
  exact Bool.false_ne_true hruns

end Sys2Proof
end

section
/-! A Fold row that cannot be rebuilt (R81, R196). Its zone goes Read Only with an event to the functions of its Pen; HOSTIF writes the
completion of an outstanding event request, and marks the page where the Pen logs. The clause of O30 on a stripe error while folding
leaves no byte of memory open. -/

namespace Sys2Proof

open Machine

/-- A zoned namespace of one zone, of function 0. -/
def oneZoneNs : Ns := { plainNs 0 with zoned := true, nzones := 1, fns := [0] }

/-- The zone is Full; Fold still holds its first LBA. -/
def fullZone : Zd :=
  { st := zFull, seven := false, colok := true, group := 0, lbn := 0, wp := zcap false, fp := 0, nsx := 0, kslot := 0, pen := 0
    zseq := 1 }

/-- The Fold copy of LBA 0. -/
def brokenCopy : FoldCopy := { nsx := 0, lba := 0, secs := [peerSector 0 0 1], burst := false, lost := false }

/-- Pen 0 logs page 0 into copy 1 of its log; the physical function has its admin queues and an outstanding event request. -/
def foldBroken : State :=
  { dev := ((((((Dev.cold.setReg (A.PEN_DLOG_CTL 0) 5).setBit (A.PEN_DLOG_WIN 0 0) 0 true).wr64 (A.PEN_DLOG_MAP 0 0) 1).onMedia
      (fun m => { m with nss := [oneZoneNs], zt := [(0, fullZone.word)] })).onWr (fun w => { w with fold := [brokenCopy] })).onHost
      (fun h => { h with sqs := [adminSq 0 4096 0], cqs := [adminCq 0 4096 0], aers := [adminHdr] }))
    pending := [] }

theorem exec_folding {s : State} (h : Running s) (nsid zone : Nat) (bad : List (Nat × ReadErr)) :
    exec (.folding nsid zone bad) s = .next { s with dev := s.dev.foldBack nsid zone bad } :=
  mainDo_running h (fun d => d.foldBack nsid zone bad)

theorem foldBroken_running : Running foldBroken := rfl

theorem foldBroken_nsOf : foldBroken.dev.nsOf 1 = some oneZoneNs := rfl

theorem foldBroken_zoneIx : foldBroken.dev.zoneIx 1 0 = some (0, 0) := rfl

theorem foldBroken_full : (foldBroken.dev.zd 0).st = zFull := rfl

theorem foldBroken_byte : foldBroken.dev.byte (2 ^ 27) = 0 := rfl

/-- The completion of the event request marks page 0. -/
theorem foldBroken_folding_byte : (foldBroken.dev.foldBack 1 0 [(0, .stripe)]).byte (2 ^ 27) = 1 := rfl

/-- Refutes O30: the event of a zone that folding takes Read Only marks a page of a log, and the frame of its clause keeps every byte. -/
theorem not_bufferMoves : ¬ Obligations.BufferMoves := by
  unfold Obligations.BufferMoves
  rintro ⟨-, -, -, hgroup, -⟩
  obtain ⟨-, -, -, hstripe⟩ :=
    hgroup foldBroken 1 0 0 0 [(0, .stripe)] [] oneZoneNs foldBroken_running foldBroken_nsOf foldBroken_zoneIx (Or.inr rfl)
  obtain ⟨-, -, -, -, -, -, -, -, hmem⟩ :=
    (hstripe (0, .stripe) brokenCopy List.mem_cons_self rfl (by decide) List.mem_cons_self rfl (Nat.zero_le _) (by decide)
      (Or.inr foldBroken_full) rfl).holds_of_exec (exec_folding foldBroken_running 1 0 [(0, .stripe)])
  have hsame : (foldBroken.dev.foldBack 1 0 [(0, .stripe)]).byte (2 ^ 27) = foldBroken.dev.byte (2 ^ 27) := hmem (2 ^ 27)
  rw [foldBroken_folding_byte, foldBroken_byte] at hsame
  exact absurd hsame (by decide)

end Sys2Proof
end
section
/-! The zone commands: their operations, and then the obligation. The theorems here are checked one after another, as the tests are:
the text is large and each checking thread takes memory. -/

set_option Elab.async false

section
/-! Descriptors of zones and their words (R40). -/

namespace Sys2Proof.Machine

/-- A descriptor as its word holds it: each field in its width. -/
def Zd.trim (z : Zd) : Zd :=
  { z with
    st := z.st % 16, group := z.group % 256, lbn := z.lbn % 16384, wp := z.wp % 2 ^ 18, fp := z.fp % 2 ^ 18, nsx := z.nsx % 1024
    kslot := z.kslot % 4096, pen := z.pen % 256, zseq := z.zseq % 2 ^ 32 }

/-- Each field is in the width that the word gives it. -/
structure Zd.Fits (z : Zd) : Prop where
  st : z.st < 16
  group : z.group < 256
  lbn : z.lbn < 16384
  wp : z.wp < 2 ^ 18
  fp : z.fp < 2 ^ 18
  nsx : z.nsx < 1024
  kslot : z.kslot < 4096
  pen : z.pen < 256
  zseq : z.zseq < 2 ^ 32

theorem Zd.trim_fits (z : Zd) : z.trim.Fits := by
  constructor <;> exact Nat.mod_lt _ (by decide)

theorem Zd.Fits.trim_eq {z : Zd} (h : z.Fits) : z.trim = z := by
  simp only [Zd.trim, Nat.mod_eq_of_lt h.st, Nat.mod_eq_of_lt h.group, Nat.mod_eq_of_lt h.lbn, Nat.mod_eq_of_lt h.wp,
    Nat.mod_eq_of_lt h.fp, Nat.mod_eq_of_lt h.nsx, Nat.mod_eq_of_lt h.kslot, Nat.mod_eq_of_lt h.pen, Nat.mod_eq_of_lt h.zseq]

theorem Zd.word_trim (z : Zd) : z.trim.word = z.word := by
  simp only [Zd.word, Zd.trim, Nat.mod_mod]
  rfl

/-- The number of a word whose fields fit: no field reaches into the one above it. -/
theorem Zd.Fits.word_toNat {z : Zd} (h : z.Fits) :
    z.word.toNat = z.st * 2 ^ 124 + z.seven.toNat * 2 ^ 123 + z.colok.toNat * 2 ^ 122 + z.group * 2 ^ 114 + z.lbn * 2 ^ 100 +
      z.wp * 2 ^ 82 + z.fp * 2 ^ 64 + z.nsx * 2 ^ 54 + z.kslot * 2 ^ 42 + z.pen * 2 ^ 34 + z.zseq := by
  have hseven : (if z.seven = true then 2 ^ 123 else 0) = z.seven.toNat * 2 ^ 123 := by cases z.seven <;> rfl
  have hcolok : (if z.colok = true then 2 ^ 122 else 0) = z.colok.toNat * 2 ^ 122 := by cases z.colok <;> rfl
  have hs := z.seven.toNat_lt
  have hc := z.colok.toNat_lt
  obtain ⟨hst, hgroup, hlbn, hwp, hfp, hnsx, hkslot, hpen, hzseq⟩ := h
  rw [Zd.word, hseven, hcolok, BitVec.toNat_ofNat, Nat.mod_eq_of_lt hst, Nat.mod_eq_of_lt hgroup, Nat.mod_eq_of_lt hlbn,
    Nat.mod_eq_of_lt hwp, Nat.mod_eq_of_lt hfp, Nat.mod_eq_of_lt hnsx, Nat.mod_eq_of_lt hkslot, Nat.mod_eq_of_lt hpen,
    Nat.mod_eq_of_lt hzseq]
  exact Nat.mod_eq_of_lt (by omega)

theorem testBit_eq_of_div {n i : Nat} {b : Bool} (h : n / 2 ^ i % 2 = b.toNat) : n.testBit i = b := by
  rw [Nat.testBit_eq_decide_div_mod_eq, h]
  cases b <;> rfl

theorem Zd.Fits.ofWord_word {z : Zd} (h : z.Fits) : Zd.ofWord z.word = z := by
  have hs := z.seven.toNat_lt
  have hc := z.colok.toNat_lt
  have hword := h.word_toNat
  obtain ⟨hst, hgroup, hlbn, hwp, hfp, hnsx, hkslot, hpen, hzseq⟩ := h
  simp only [Zd.ofWord, natFld, BitVec.getLsbD]
  generalize z.word.toNat = n at *
  obtain ⟨st, seven, colok, group, lbn, wp, fp, nsx, kslot, pen, zseq⟩ := z
  simp only [Zd.mk.injEq] at *
  refine ⟨?_, testBit_eq_of_div ?_, testBit_eq_of_div ?_, ?_, ?_, ?_, ?_, ?_, ?_, ?_, ?_⟩ <;> omega

theorem Zd.ofWord_word (z : Zd) : Zd.ofWord z.word = z.trim := by
  rw [← z.word_trim, z.trim_fits.ofWord_word]

/-- What a word gives fits. -/
theorem Dev.zd_fits (d : Dev) (ix : Nat) : (d.zd ix).Fits := by
  unfold Dev.zd Zd.ofWord
  constructor <;> exact Nat.mod_lt _ (by decide)

theorem Dev.zd_congr {a b : Dev} (h : b.media.zt = a.media.zt) (ix : Nat) : b.zd ix = a.zd ix := by
  simp only [Dev.zd, h]

end Sys2Proof.Machine
end

section
/-! What a span of a command keeps. A completion writes memory only where a Pen logs (R196), so a frame over several steps also carries
what decides that: the logs' enables and the Pens' records; and whether HOSTIF posts (R149). -/

namespace Sys2Proof

open Machine

/-- Only the listed parts and registers may differ, and memory where a Pen of a test logs. The enables of the logs, the records of the
Pens and the stop of posting stay, and the journal does not go back. -/
structure Keeps (Q : Nat → Prop) (P : List Part) (R : List Nat) (a b : Dev) : Prop where
  board : b.board = a.board
  parts : ∀ p, p ∉ P → p.same a b
  regs : ∀ r, r ∉ R → b.rd r = a.rd r
  mem : (∀ p, Q p → a.bit (A.PEN_DLOG_CTL p) 0 = false) → ∀ x, b.byte x = a.byte x
  logs : ∀ p, b.bit (A.PEN_DLOG_CTL p) 0 = a.bit (A.PEN_DLOG_CTL p) 0
  recs : b.pens.recs = a.pens.recs
  stopped : b.host.stopped = a.host.stopped
  jseq : a.media.jseq ≤ b.media.jseq

variable {Q : Nat → Prop} {P P' : List Part} {R R' : List Nat} {a b c : Dev}

theorem Keeps.refl (a : Dev) : Keeps Q P R a a :=
  ⟨rfl, fun p _ => Part.same_refl p a, fun _ _ => rfl, fun _ _ => rfl, fun _ => rfl, rfl, rfl, Nat.le_refl _⟩

/-- A further span inside the same parts and registers. -/
theorem Keeps.next (h : Keeps Q P R a b) (g : Keeps Q P' R' b c) (hP : P' ⊆ P := by decide) (hR : R' ⊆ R := by decide) :
    Keeps Q P R a c where
  board := g.board.trans h.board
  parts p hp := by
    have hg := g.parts p (fun hm => hp (hP hm))
    by_cases hc : p = .cirque
    · subst hc
      exact CirqueSame.trans (h.parts .cirque hp) hg h.jseq g.jseq
    · exact Part.same_trans (h.parts p hp) hg hc
  regs r hr := (g.regs r (fun hm => hr (hR hm))).trans (h.regs r hr)
  mem hq x := (g.mem (fun p hp => (h.logs p).trans (hq p hp)) x).trans (h.mem hq x)
  logs p := (g.logs p).trans (h.logs p)
  recs := g.recs.trans h.recs
  stopped := g.stopped.trans h.stopped
  jseq := Nat.le_trans h.jseq g.jseq

theorem Keeps.mono (h : Keeps Q P' R' a b) (hP : P' ⊆ P := by decide) (hR : R' ⊆ R := by decide) : Keeps Q P R a b :=
  (Keeps.refl a).next h hP hR

/-- A span inside a frame that spares the logs' registers. -/
theorem Keeps.of_frame (h : Frame P R a b) (hR : ∀ p, A.PEN_DLOG_CTL p ∉ R) (hrecs : b.pens.recs = a.pens.recs)
    (hstop : b.host.stopped = a.host.stopped) (hj : a.media.jseq ≤ b.media.jseq) : Keeps Q P R a b where
  board := h.1
  parts := h.2.1
  regs := h.2.2.1
  mem _ := h.2.2.2
  logs p := h.bit_eq (hR p) 0
  recs := hrecs
  stopped := hstop
  jseq := hj

theorem Keeps.penOf (h : Keeps Q P R a b) (fn : Nat) : b.penOf fn = a.penOf fn := by
  unfold Dev.penOf
  rw [h.recs, h.board]

/-- The Pens that a command of a function may mark pages for. -/
def pensOf (fn : FnN) (d : Dev) (p : Nat) : Prop := d.penOf fn.val = some p

theorem Keeps.frameHost {fn : FnN} (h : Keeps (pensOf fn a) P R a b) : FrameHost fn P R a b := ⟨h.board, h.parts, h.regs, h.mem⟩

theorem Keeps.frameLog (h : Keeps (fun _ => True) P R a b) : FrameLog P R a b :=
  ⟨h.board, h.parts, h.regs, fun hq => h.mem (fun p _ => hq p)⟩

theorem pairCnt_not_log (p : Nat) : A.PEN_DLOG_CTL p ∉ [A.PAIR_CNT 0] := by
  simp only [List.mem_singleton, A.PEN_DLOG_CTL, A.PAIR_CNT]
  omega

end Sys2Proof
end

section
/-! What HOSTIF does with a completion or an event (R107, R149, R194, R196): it changes itself, and marks pages in memory. -/

namespace Sys2Proof

open Machine

variable {Q : Nat → Prop} {P : List Part} {R : List Nat} {a : Dev}

/-- Steps over a list, each inside the same parts and registers. -/
theorem Keeps.each {α : Type} {f : Dev → α → Dev} {l : List α} (d : Dev)
    (hf : ∀ x ∈ l, ∀ e, Keeps Q P R d e → Keeps Q P R e (f e x)) : Keeps Q P R d (d.each l f) := by
  suffices H : ∀ (l : List α) e, (∀ x ∈ l, ∀ e, Keeps Q P R d e → Keeps Q P R e (f e x)) → Keeps Q P R d e →
      Keeps Q P R d (l.foldl f e) from H l d hf (Keeps.refl d)
  intro l
  induction l with
  | nil => exact fun e _ he => he
  | cons x t ih =>
    exact fun e hf he => ih _ (fun y hy => hf y (List.mem_cons_of_mem _ hy))
      (he.next (hf x List.mem_cons_self e he) (List.Subset.refl _) (List.Subset.refl _))

theorem Keeps.onHost (d : Dev) {f : Machine.HostIf → Machine.HostIf} (hs : (f d.host).stopped = d.host.stopped) :
    Keeps Q [.host] [] d (d.onHost f) :=
  .of_frame ((Frame.refl _ _ d).onHost List.mem_cons_self) (fun _ => List.not_mem_nil) rfl hs (Nat.le_refl _)

/-- Where the log of the Pen is on, what happens to memory is left open. -/
theorem Keeps.memory (d : Dev) {p : Nat} (hq : Q p) (hlog : d.bit (A.PEN_DLOG_CTL p) 0 = true) (m : List Host.Cell) :
    Keeps Q [] [] d { d with mem := m } where
  board := rfl
  parts p _ := by cases p <;> first | exact CirqueSame.refl d | rfl
  regs _ _ := rfl
  mem hoff := absurd ((hoff p hq).symm.trans hlog) Bool.false_ne_true
  logs _ := rfl
  recs := rfl
  stopped := rfl
  jseq := Nat.le_refl _

end Sys2Proof

namespace Sys2Proof.Machine

/-- Steps that change memory alone, over a list. -/
theorem Dev.each_mem {α : Type} {f : Dev → α → Dev} (hf : ∀ e x, ∃ m, f e x = { e with mem := m }) (l : List α) (d : Dev) :
    ∃ m, d.each l f = { d with mem := m } := by
  unfold Dev.each
  induction l generalizing d with
  | nil => exact ⟨d.mem, rfl⟩
  | cons x t ih =>
    obtain ⟨m, hm⟩ := hf d x
    obtain ⟨m', hm'⟩ := ih { d with mem := m }
    exact ⟨m', by rw [List.foldl_cons, hm, hm']⟩

theorem Dev.markPage_off {d : Dev} {p : Nat} (h : d.bit (A.PEN_DLOG_CTL p) 0 = false) (page : Nat) : d.markPage p page = d := by
  simp [Dev.markPage, h]

theorem Dev.markPage_eq (d : Dev) (p page : Nat) : ∃ m, d.markPage p page = { d with mem := m } := by
  unfold Dev.markPage
  split
  · exact Dev.each_mem (fun e w => ⟨_, rfl⟩) _ d
  · exact ⟨d.mem, rfl⟩

end Sys2Proof.Machine

namespace Sys2Proof

open Machine

variable {Q : Nat → Prop}

theorem Keeps.markPage (d : Dev) {p : Nat} (hq : Q p) (page : Nat) : Keeps Q [] [] d (d.markPage p page) := by
  cases hlog : d.bit (A.PEN_DLOG_CTL p) 0 with
  | false => rw [Dev.markPage_off hlog]; exact Keeps.refl d
  | true =>
    obtain ⟨m, hm⟩ := Dev.markPage_eq d p page
    rw [hm]
    exact Keeps.memory d hq hlog m

theorem Keeps.markPages (d : Dev) {fn : Nat} (hq : ∀ p, d.penOf fn = some p → Q p) (pages : List Nat) :
    Keeps Q [] [] d (d.markPages fn pages) := by
  unfold Dev.markPages
  split
  case h_1 p hp => exact Keeps.each d (fun g _ e _ => Keeps.markPage e (hq p hp) g)
  case h_2 => exact Keeps.refl d

end Sys2Proof
end

section
/-! Completions and events: what they send, and what they leave. -/

namespace Sys2Proof

open Machine

/-- A command's completion counts its latency in HOSTIF, and sends nothing yet. -/
theorem closeFw_eq (d : Dev) (h : Hdr) :
    ∃ f : Machine.HostIf → Machine.HostIf, d.closeFw h = d.onHost f ∧ (f d.host).out = d.host.out ∧
      (f d.host).stopped = d.host.stopped := by
  unfold Dev.closeFw Dev.histCount Dev.penCount
  split
  · split
    · exact ⟨_, rfl, rfl, rfl⟩
    · exact ⟨_, rfl, rfl, rfl⟩
    · exact ⟨id, rfl, rfl, rfl⟩
  · rename_i f _
    by_cases hadm : 4096 ≤ f.q
    · rw [if_pos hadm]; exact ⟨_, rfl, rfl, rfl⟩
    · rw [if_neg hadm]
      by_cases hread : isReadOpc f.e.opc = true
      · rw [if_pos hread]; exact ⟨fun _ => _, rfl, rfl, rfl⟩
      · rw [if_neg hread]; exact ⟨fun _ => _, rfl, rfl, rfl⟩

variable {Q : Nat → Prop}

theorem Keeps.closeFw (d : Dev) (h : Hdr) : Keeps Q [.host] [] d (d.closeFw h) := by
  obtain ⟨f, hf, -, hstop⟩ := closeFw_eq d h
  rw [hf]
  exact Keeps.onHost d hstop

theorem closeFw_out (d : Dev) (h : Hdr) : (d.closeFw h).host.out = d.host.out := by
  obtain ⟨f, hf, hout, -⟩ := closeFw_eq d h
  rw [hf]
  exact hout

theorem Keeps.cqWrite (d : Dev) (h : Hdr) (hq : ∀ p, d.penOf h.fn.val = some p → Q p) : Keeps Q [.host] [] d (d.cqWrite h) := by
  unfold Dev.cqWrite
  split
  · exact Keeps.refl d
  · exact ((Keeps.markPages d hq _).mono).next (Keeps.onHost _ rfl)

theorem markPages_host (d : Dev) (fn : Nat) (pages : List Nat) : (d.markPages fn pages).host = d.host :=
  (Keeps.markPages (Q := fun _ => True) d (fun _ _ => trivial) pages).parts .host List.not_mem_nil

theorem cqWrite_out (d : Dev) (h : Hdr) : (d.cqWrite h).host.out = d.host.out := by
  unfold Dev.cqWrite
  split
  · rfl
  · exact congrArg (·.out) (markPages_host d _ _)

theorem Keeps.complete (d : Dev) (h : Hdr) (hq : ∀ p, d.penOf h.fn.val = some p → Q p) (st : Status) (dnr : Bool) (r0 r1 : Nat) :
    Keeps Q [.host] [] d (d.complete h st dnr r0 r1) := by
  unfold Dev.complete
  split
  · exact Keeps.refl d
  · have hclose : Keeps Q [.host] [] d (d.closeFw h) := Keeps.closeFw d h
    exact (hclose.next (Keeps.cqWrite _ h (fun p hp => hq p ((hclose.penOf _).symm.trans hp)))).next (Keeps.onHost _ rfl)

/-- A completion posts its entry. -/
theorem complete_sent {d : Dev} (hpost : d.host.stopped = false) (h : Hdr) (st : Status) (dnr : Bool) (r0 r1 : Nat) :
    Sent d (d.complete h st dnr r0 r1) [.cqe { h := h, st := st, dnr := dnr, res0 := r0, res1 := r1 }] := by
  unfold Sent Dev.complete
  rw [if_neg (by simp [hpost])]
  exact congrArg (· ++ _) ((cqWrite_out _ h).trans (closeFw_out d h))

theorem complete_media (d : Dev) (h : Hdr) (st : Status) (dnr : Bool) (r0 r1 : Nat) : (d.complete h st dnr r0 r1).media = d.media :=
  (Keeps.complete (Q := fun _ => True) d h (fun _ _ => trivial) st dnr r0 r1).parts .media (by decide)

theorem complete_wr (d : Dev) (h : Hdr) (st : Status) (dnr : Bool) (r0 r1 : Nat) : (d.complete h st dnr r0 r1).wr = d.wr :=
  (Keeps.complete (Q := fun _ => True) d h (fun _ _ => trivial) st dnr r0 r1).parts .wr (by decide)

/-- An event for a function completes a request of that function, or waits. -/
theorem Keeps.aenOne (d : Dev) (fn type info log : Nat) : Keeps (fun _ => True) [.host] [] d (d.aenOne fn type info log) := by
  unfold Dev.aenOne
  split
  · exact (Keeps.cqWrite d _ (fun _ _ => trivial)).next (Keeps.onHost _ rfl)
  · exact Keeps.onHost d rfl

theorem Keeps.aenTo (d : Dev) (fns : List Nat) (type info log : Nat) :
    Keeps (fun _ => True) [.host] [] d (d.aenTo fns type info log) :=
  Keeps.each d (fun f _ e _ => Keeps.aenOne e f type info log)

theorem Keeps.failCmd (d : Dev) (h : Hdr) (hq : ∀ p, d.penOf h.fn.val = some p → Q p) (st : Status) :
    Keeps Q [.host] [] d (d.failCmd h st) := by
  unfold Dev.failCmd
  split
  · exact (Keeps.complete d h hq st _ 0 0).next (Keeps.onHost _ rfl)
  · exact Keeps.complete d h hq st _ 0 0

theorem failCmd_sent {d : Dev} (hpost : d.host.stopped = false) (h : Hdr) (st : Status) :
    Sent d (d.failCmd h st) [.cqe { h := h, st := st, dnr := d.dnr st, res0 := 0, res1 := 0 }] := by
  unfold Dev.failCmd
  split
  · exact complete_sent hpost h st _ 0 0
  · exact complete_sent hpost h st _ 0 0

end Sys2Proof
end

section
/-! Records of the journal and descriptors of zones, with the frames that carry them to the peer (R145, R233, R250, R283). -/

namespace Sys2Proof

open Machine

variable {Q : Nat → Prop}

theorem sendFrame_frame (d : Dev) (f : Machine.Frame) : Frame [.pair] [A.PAIR_CNT 0] d (d.sendFrame f) := by
  have hr := Frame.refl [.pair] [A.PAIR_CNT 0] d
  unfold Dev.sendFrame
  dsimp only
  split
  · exact (Frame.ite (hr.count List.mem_cons_self) hr).onPair List.mem_cons_self
  · exact hr

theorem sendFrame_media (d : Dev) (f : Machine.Frame) : (d.sendFrame f).media = d.media := (sendFrame_frame d f).2.1 .media (by decide)

theorem Keeps.sendFrame (d : Dev) (f : Machine.Frame) : Keeps Q [.pair] [A.PAIR_CNT 0] d (d.sendFrame f) :=
  .of_frame (sendFrame_frame d f) pairCnt_not_log (congrArg (·.recs) ((sendFrame_frame d f).2.1 .pens (by decide)))
    (congrArg (·.stopped) ((sendFrame_frame d f).2.1 .host (by decide))) (Nat.le_of_eq (congrArg (·.jseq) (sendFrame_media d f)).symm)

/-- A record in the ring erases sectors of the ring alone. -/
theorem putJ_cirque (d : Dev) (r : JRec) (hseq : d.media.jseq < r.seq) : CirqueSame d (d.putJ r) := by
  have herased : ∀ (e : Dev) (sec : Nat), ¬ (0x4000 ≤ sec ∧ sec < 0x8000) → e.ringErased sec = false := by
    intro e sec hsec
    rw [Dev.ringErased, Bool.eq_false_iff]
    intro h
    simp only [Bool.and_eq_true, decide_eq_true_eq] at h
    exact hsec ⟨h.1.1.1.1, h.1.1.1.2⟩
  have hfind : ∀ (m : SMap (BitVec 256)) (p : Nat → Bool) (w : Nat), p w = true →
      SMap.find (if m = [] then m else SMap.keep p m) w = SMap.find m w := by
    intro m p w hp
    split
    · rfl
    · rw [SMap.find_keep, if_pos hp]
  refine .inr ⟨hseq, rfl, fun w hw => hfind _ _ w ?_, fun x hx => List.mem_of_mem_filter hx, fun x hx hn => ?_⟩
  · rw [herased _ _ (by omega)]
    rfl
  · exact List.mem_filter.mpr ⟨hx, by rw [herased _ _ hn]; rfl⟩

theorem Keeps.putJ (d : Dev) (r : JRec) (hseq : d.media.jseq < r.seq) : Keeps Q [.media] [] d (d.putJ r) := by
  refine .of_frame ⟨rfl, fun p hp => ?_, fun _ _ => rfl, fun _ => rfl⟩ (fun _ => List.not_mem_nil) rfl rfl (Nat.le_of_lt hseq)
  cases p with
  | cirque => exact putJ_cirque d r hseq
  | media => exact absurd List.mem_cons_self hp
  | _ => rfl

theorem nextRec_seq (d : Dev) (f p : Bool) (b : JBody) : (d.nextRec f p b).seq = d.media.jseq + 1 := rfl
theorem nextRec_body (d : Dev) (f p : Bool) (b : JBody) : (d.nextRec f p b).body = b := rfl

theorem Keeps.journal (d : Dev) (b : JBody) : Keeps Q [.media, .pair] [A.PAIR_CNT 0] d (d.journal b) := by
  have hput : Keeps Q [.media, .pair] [A.PAIR_CNT 0] d (d.putJ (d.nextRec d.tor.latch false b)) :=
    (Keeps.putJ d _ ((Nat.lt_succ_self _).trans_eq (nextRec_seq ..).symm)).mono
  unfold Dev.journal
  dsimp only
  split
  · exact hput.next (Keeps.sendFrame _ _)
  · exact hput

theorem journal_wr (d : Dev) (b : JBody) : (d.journal b).wr = d.wr :=
  (Keeps.journal (Q := fun _ => True) d b).parts .wr (by decide)

theorem journal_media (d : Dev) (b : JBody) : (d.journal b).media = d.media.putRec (d.nextRec d.tor.latch false b) := by
  unfold Dev.journal
  dsimp only
  split
  · exact sendFrame_media _ _
  · rfl

theorem journal_zd (d : Dev) (b : JBody) (ix : Nat) : (d.journal b).zd ix = d.zd ix := by
  simp only [Dev.zd, journal_media, Media.putRec]

theorem journal_journaled (d : Dev) (b : JBody) : Journaled (d.journal b) b := by
  simp only [Journaled, journal_media, Media.putRec, List.getLast?_append, List.getLast?_singleton, Option.some_or, Option.map_some,
    nextRec_body]

/-- A record that the checkpoint does not cover stays in the ring while further ones are programmed (R147). -/
theorem journal_mem {d : Dev} {r : JRec} (h : r ∈ d.media.journal) (hseq : d.media.ckptSeq < r.seq) (b : JBody) :
    r ∈ (d.journal b).media.journal := by
  rw [journal_media]
  refine List.mem_append_left _ (List.mem_filter.mpr ⟨h, ?_⟩)
  have hstuck : (d.media.journal.any (fun y => decide (d.media.ckptSeq < y.seq) && decide (y.loc / 128 = r.loc / 128))) = true :=
    List.any_eq_true.mpr ⟨r, h, by simp [hseq]⟩
  simp [hstuck]

/-- The record just journaled is in the ring, past the checkpoint. -/
theorem journal_new {d : Dev} (hok : JournalOk d) (b : JBody) :
    ∃ r ∈ (d.journal b).media.journal, r.body = b ∧ (d.journal b).media.ckptSeq < r.seq := by
  refine ⟨d.nextRec d.tor.latch false b, ?_, nextRec_body .., ?_⟩
  · simp only [journal_media, Media.putRec, List.mem_append, List.mem_singleton, or_true]
  · simp only [journal_media, Media.putRec, nextRec_seq]
    exact Nat.lt_succ_of_le hok

theorem Keeps.onMedia (d : Dev) {f : Machine.Media → Machine.Media} (hj : (f d.media).jseq = d.media.jseq) :
    Keeps Q [.media] [] d (d.onMedia f) :=
  .of_frame ((Frame.refl _ _ d).onMedia List.mem_cons_self (Nat.le_of_eq hj.symm)) (fun _ => List.not_mem_nil) rfl rfl
    (Nat.le_of_eq hj.symm)

theorem Keeps.setZd (d : Dev) (ix : Nat) (z : Zd) : Keeps Q [.media, .pair] [A.PAIR_CNT 0] d (d.setZd ix z) := by
  have hput : Keeps Q [.media, .pair] [A.PAIR_CNT 0] d (d.onMedia (fun m => { m with zt := SMap.set zt0 m.zt ix z.word })) :=
    (Keeps.onMedia d rfl).mono
  unfold Dev.setZd
  dsimp only
  split
  · exact hput.next (Keeps.sendFrame _ _)
  · exact hput

theorem setZd_wr (d : Dev) (ix : Nat) (z : Zd) : (d.setZd ix z).wr = d.wr :=
  (Keeps.setZd (Q := fun _ => True) d ix z).parts .wr (by decide)

theorem setZd_host (d : Dev) (ix : Nat) (z : Zd) : (d.setZd ix z).host = d.host :=
  (Keeps.setZd (Q := fun _ => True) d ix z).parts .host (by decide)

theorem setZd_media (d : Dev) (ix : Nat) (z : Zd) :
    (d.setZd ix z).media = { d.media with zt := SMap.set zt0 d.media.zt ix z.word } := by
  unfold Dev.setZd
  dsimp only
  split
  · exact sendFrame_media _ _
  · rfl

theorem setZd_zd_same (d : Dev) (ix : Nat) (z : Zd) : (d.setZd ix z).zd ix = z.trim := by
  rw [Dev.zd, setZd_media, SMap.get_set_same, Zd.ofWord_word]

theorem setZd_zd_ne (d : Dev) {ix k : Nat} (h : k ≠ ix) (z : Zd) : (d.setZd ix z).zd k = d.zd k := by
  rw [Dev.zd, setZd_media, SMap.get_set_ne _ _ _ h, Dev.zd]

theorem setZd_journaled {d : Dev} {b : JBody} (h : Journaled d b) (ix : Nat) (z : Zd) : Journaled (d.setZd ix z) b := by
  rw [Journaled, setZd_media]
  exact h

end Sys2Proof
end

section
/-! Steps of the firmware on rows, pools, Fold and program groups (R53, R76, R79, R80, R130): none of them changes a descriptor, the
journal, the buffer, what Fold holds, or the reservations, and none takes a row from the erase queue. -/

namespace Sys2Proof

open Machine

structure Calm (a b : Dev) : Prop where
  frame : Frame [.wr, .media, .mules] [] a b
  zt : b.media.zt = a.media.zt
  journal : b.media.journal = a.media.journal
  jseq : b.media.jseq = a.media.jseq
  ckpt : b.media.ckptSeq = a.media.ckptSeq
  entries : b.wr.entries = a.wr.entries
  fold : b.wr.fold = a.wr.fold
  resv : b.wr.resv = a.wr.resv
  eraseQ : a.media.eraseQ ⊆ b.media.eraseQ

variable {Q : Nat → Prop} {a b c : Dev}

theorem Calm.refl (a : Dev) : Calm a a := ⟨Frame.refl _ _ a, rfl, rfl, rfl, rfl, rfl, rfl, rfl, List.Subset.refl _⟩

theorem Calm.trans (h : Calm a b) (g : Calm b c) : Calm a c where
  frame := h.frame.trans g.frame (Nat.le_of_eq h.jseq.symm) (Nat.le_of_eq g.jseq.symm)
  zt := g.zt.trans h.zt
  journal := g.journal.trans h.journal
  jseq := g.jseq.trans h.jseq
  ckpt := g.ckpt.trans h.ckpt
  entries := g.entries.trans h.entries
  fold := g.fold.trans h.fold
  resv := g.resv.trans h.resv
  eraseQ := List.Subset.trans h.eraseQ g.eraseQ

theorem Calm.keeps (h : Calm a b) : Keeps Q [.wr, .media, .mules] [] a b :=
  .of_frame h.frame (fun _ => List.not_mem_nil) (congrArg (·.recs) (h.frame.2.1 .pens (by decide)))
    (congrArg (·.stopped) (h.frame.2.1 .host (by decide))) (Nat.le_of_eq h.jseq.symm)

theorem Calm.zd (h : Calm a b) (ix : Nat) : b.zd ix = a.zd ix := Dev.zd_congr h.zt ix

theorem Calm.each {α : Type} {f : Dev → α → Dev} (hf : ∀ d x, Calm d (f d x)) (d : Dev) (l : List α) : Calm d (d.each l f) := by
  unfold Dev.each
  induction l generalizing d with
  | nil => exact Calm.refl d
  | cons x t ih => exact (hf d x).trans (ih (f d x))

theorem Calm.onWr (d : Dev) {f : Machine.Wr → Machine.Wr} (he : (f d.wr).entries = d.wr.entries) (hf : (f d.wr).fold = d.wr.fold)
    (hr : (f d.wr).resv = d.wr.resv) : Calm d (d.onWr f) :=
  ⟨(Frame.refl _ _ d).onWr (by simp), rfl, rfl, rfl, rfl, he, hf, hr, List.Subset.refl _⟩

theorem Calm.onMedia (d : Dev) {f : Machine.Media → Machine.Media} (hz : (f d.media).zt = d.media.zt)
    (hl : (f d.media).journal = d.media.journal) (hj : (f d.media).jseq = d.media.jseq) (hc : (f d.media).ckptSeq = d.media.ckptSeq)
    (hq : d.media.eraseQ ⊆ (f d.media).eraseQ) : Calm d (d.onMedia f) :=
  ⟨(Frame.refl _ _ d).onMedia (by simp) (Nat.le_of_eq hj.symm), hz, hl, hj, hc, rfl, rfl, rfl, hq⟩

theorem Calm.onMules (d : Dev) (f : Machine.Mules → Machine.Mules) : Calm d (d.onMules f) :=
  ⟨(Frame.refl _ _ d).onMules (by simp), rfl, rfl, rfl, rfl, rfl, rfl, rfl, List.Subset.refl _⟩

/-! Rows and pools. -/

theorem Calm.setPool (d : Dev) (seven : Bool) (l : List Row) : Calm d (d.setPool seven l) := by
  unfold Dev.setPool
  cases seven <;> exact Calm.onMedia d rfl rfl rfl rfl (List.Subset.refl _)

theorem Calm.queueErase (d : Dev) (r : Row) : Calm d (d.queueErase r) :=
  Calm.onMedia d rfl rfl rfl rfl (List.subset_append_left _ _)

theorem queueErase_mem (d : Dev) (r : Row) : { r with dirty := true } ∈ (d.queueErase r).media.eraseQ :=
  List.mem_append_right _ (List.mem_singleton.mpr rfl)

theorem Calm.giveSupply (d : Dev) (set : Nat) : Calm d (d.giveSupply set).1 := by
  unfold Dev.giveSupply
  dsimp only
  exact Calm.onMedia d rfl rfl rfl rfl (List.Subset.refl _)

theorem Calm.takeSupply (d : Dev) (seven : Bool) (set : Nat) : Calm d (d.takeSupply seven set) := by
  unfold Dev.takeSupply
  dsimp only
  split
  · exact (Calm.giveSupply d set).trans (Calm.setPool _ _ _)
  · exact (Calm.giveSupply d set).trans (Calm.setPool _ _ _)

theorem Calm.movePool (d : Dev) (home seven : Bool) : Calm d (d.movePool home seven) := by
  unfold Dev.movePool
  dsimp only
  split
  · split
    · split
      · exact Calm.onMedia d rfl rfl rfl rfl (List.Subset.refl _)
      · exact Calm.refl d
    · exact Calm.refl d
  · split
    · split
      · split
        · exact Calm.onMedia d rfl rfl rfl rfl (List.Subset.refl _)
        · exact Calm.refl d
      · exact Calm.refl d
    · exact Calm.refl d

theorem Calm.fillPool (d : Dev) (home seven : Bool) : Calm d (d.fillPool home seven) := by
  unfold Dev.fillPool
  dsimp only
  split
  · exact Calm.movePool d home seven
  · split
    · exact Calm.takeSupply d seven _
    · exact Calm.refl d

theorem Calm.setClass (d : Dev) (ch l lbn cls : Nat) : Calm d (d.setClass ch l lbn cls) := by
  unfold Dev.setClass Dev.setTbl
  exact Calm.onMules d _

theorem Calm.rowStart (d : Dev) (seven : Bool) (group lbn wear slc cls : Nat) : Calm d (d.rowStart seven group lbn wear slc cls) := by
  unfold Dev.rowStart
  dsimp only
  exact (Calm.onMedia d rfl rfl rfl rfl (List.Subset.refl _)).trans (Calm.each (fun e _ => Calm.setClass e ..) _ _)

/-! Fold. -/

theorem Calm.foldUse (d : Dev) (r : Row) : Calm d (d.foldUse r) := by
  unfold Dev.foldUse
  split
  · exact Calm.onWr d rfl rfl rfl
  · exact Calm.onWr d rfl rfl rfl

theorem Calm.foldTake {d e : Dev} {r : Row} (h : d.foldTake = some (e, r)) : Calm d e := by
  unfold Dev.foldTake at h
  split at h
  · obtain ⟨rfl, -⟩ := Prod.mk.inj (Option.some.inj h)
    exact Calm.foldUse d _
  · split at h
    · obtain ⟨rfl, -⟩ := Prod.mk.inj (Option.some.inj h)
      exact (Calm.giveSupply d _).trans (Calm.onWr _ rfl rfl rfl)
    · exact nomatch h

theorem Calm.foldOpen {d e : Dev} {burst : Bool} (h : d.foldOpen burst = some e) : Calm d e := by
  unfold Dev.foldOpen at h
  split at h
  · exact nomatch h
  · rename_i x r htake
    obtain rfl := Option.some.inj h
    have hx : Calm d x := by
      split at htake
      · exact nomatch htake
      · exact Calm.foldTake htake
    exact (hx.trans (Calm.rowStart ..)).trans (Calm.onWr _ rfl rfl rfl)

theorem Calm.foldPut (k : Nat) (d : Dev) (nsx lba : Nat) (secs : List Sector) (burst : Bool) (pid : Nat) :
    Calm d (d.foldPut k nsx lba secs burst pid) := by
  induction k generalizing d lba secs with
  | zero => exact Calm.refl d
  | succ k ih =>
    unfold Dev.foldPut
    split
    · exact Calm.refl d
    · split
      · split
        · rename_i e hopen
          exact (Calm.foldOpen hopen).trans (ih e lba secs)
        · exact Calm.refl d
      · exact (Calm.onWr d rfl rfl rfl).trans (ih _ _ _)

theorem Calm.foldMove (d : Dev) (nsx lo hi : Nat) (burst : Bool) : Calm d (d.foldMove nsx lo hi burst) := by
  unfold Dev.foldMove
  split
  · exact Calm.refl d
  · exact Calm.each (fun e _ => Calm.each (fun e _ => Calm.foldPut 64 e ..) e _) d _

theorem Calm.foldBackRow (d : Dev) (r : Row) : Calm d (d.foldBackRow r) := by
  unfold Dev.foldBackRow
  split
  · exact Calm.onWr d rfl rfl rfl
  · exact Calm.setPool d _ _

theorem Calm.foldTidy (d : Dev) : Calm d d.foldTidy := by
  unfold Dev.foldTidy
  dsimp only
  split
  · exact Calm.refl d
  · refine (Calm.onWr d rfl rfl rfl).trans (Calm.each (fun e f => ?_) _ _)
    split
    · exact Calm.queueErase e _
    · exact (Calm.queueErase e _).trans (Calm.foldBackRow _ _)

/-! Program groups. -/

theorem Calm.issueGroup (d : Dev) (ix zs below : Nat) : Calm d (d.issueGroup ix zs below) := by
  unfold Dev.issueGroup
  dsimp only
  split
  · exact Calm.refl d
  · split
    · exact Calm.refl d
    · exact Calm.onWr d rfl rfl rfl

theorem Calm.issueAll (d : Dev) (ix zs below : Nat) : Calm d (d.issueAll ix zs below) :=
  Calm.each (fun e _ => Calm.issueGroup e ix zs below) d _

end Sys2Proof
end

section
/-! Capacity and backing (R29, R53, R54, R55, R370): a change of the mode with its alert, and Empty zones that go Offline. -/

namespace Sys2Proof

open Machine

variable {Q : Nat → Prop} {ix : Nat} {a b c : Dev}

/-- An alert source other than 0 leaves bit 0 of every register alone. -/
theorem Keeps.alertSource (d : Dev) {n : Nat} (h0 : n ≠ 0) (hn : n < 64) :
    Keeps Q [] [A.SB_ALERTSRC] d (d.setBit A.SB_ALERTSRC n true) where
  board := rfl
  parts p hp := ((Frame.refl [] [A.SB_ALERTSRC] d).setBit List.mem_cons_self).2.1 p hp
  regs r hr := ((Frame.refl [] [A.SB_ALERTSRC] d).setBit List.mem_cons_self).2.2.1 r hr
  mem _ _ := rfl
  logs p := by rw [Dev.setBit_bit _ _ _ _ _ _ hn, if_neg (fun h => h0 h.2.symm)]
  recs := rfl
  stopped := rfl
  jseq := Nat.le_refl _

theorem signalAlert_frame (d : Dev) : Frame [.pins, .tor] [] d d.signalAlert := by
  have hr := Frame.refl [.pins, .tor] [] d
  unfold Dev.signalAlert
  dsimp only
  split
  · split
    · exact (hr.onPins (by simp)).onTor (by simp)
    · exact hr.onPins (by simp)
  · exact hr.onPins (by simp)

theorem Keeps.signalAlert (d : Dev) : Keeps Q [.pins, .tor] [] d d.signalAlert :=
  .of_frame (signalAlert_frame d) (fun _ => List.not_mem_nil) (congrArg (·.recs) ((signalAlert_frame d).2.1 .pens (by decide)))
    (congrArg (·.stopped) ((signalAlert_frame d).2.1 .host (by decide)))
    (Nat.le_of_eq (congrArg (·.jseq) ((signalAlert_frame d).2.1 .media (by decide))).symm)

theorem Keeps.alert (d : Dev) {n : Nat} (h0 : n ≠ 0) (hn : n < 64) : Keeps Q [.pins, .tor] [A.SB_ALERTSRC] d (d.alert n) := by
  have hset : Keeps Q [.pins, .tor] [A.SB_ALERTSRC] d (d.setBit A.SB_ALERTSRC n true) := (Keeps.alertSource d h0 hn).mono
  unfold Dev.alert
  dsimp only
  split
  · exact hset.next (Keeps.signalAlert _)
  · exact hset

/-- The mode of a part that has left INIT changes with an alert and no more. -/
theorem Keeps.setMode {d : Dev} (h : d.fw.mode ≠ .init) (m : Mode) :
    Keeps Q [.fw, .tor, .pins] [A.SB_ALERTSRC] d (d.setMode m) := by
  have hfw : ∀ f, Keeps Q [.fw, .tor, .pins] [A.SB_ALERTSRC] d (d.onFw f) := fun f =>
    (Keeps.of_frame ((Frame.refl [.fw] [] d).onFw List.mem_cons_self) (fun _ => List.not_mem_nil) rfl rfl (Nat.le_refl _)).mono
  unfold Dev.setMode
  dsimp only
  rw [if_neg h]
  split
  · exact Keeps.refl d
  · exact (hfw _).next (Keeps.alert _ (by decide) (by decide))

theorem Keeps.capacityCheck (d : Dev) : Keeps Q [.fw, .tor, .pins] [A.SB_ALERTSRC] d d.capacityCheck := by
  unfold Dev.capacityCheck
  split
  case isTrue h =>
    refine Keeps.setMode (fun hinit => ?_) _
    simp [Dev.writable, hinit] at h
  case isFalse => exact Keeps.refl d

theorem Keeps.capacityBack (d : Dev) : Keeps Q [.fw, .tor, .pins] [A.SB_ALERTSRC] d d.capacityBack := by
  unfold Dev.capacityBack
  split
  case isTrue h => exact Keeps.setMode (by rw [h.1]; decide) _
  case isFalse => exact Keeps.refl d

theorem capacityCheck_media (d : Dev) : d.capacityCheck.media = d.media :=
  (Keeps.capacityCheck (Q := fun _ => True) d).parts .media (by decide)
theorem capacityCheck_wr (d : Dev) : d.capacityCheck.wr = d.wr := (Keeps.capacityCheck (Q := fun _ => True) d).parts .wr (by decide)
theorem capacityBack_media (d : Dev) : d.capacityBack.media = d.media :=
  (Keeps.capacityBack (Q := fun _ => True) d).parts .media (by decide)
theorem capacityBack_wr (d : Dev) : d.capacityBack.wr = d.wr := (Keeps.capacityBack (Q := fun _ => True) d).parts .wr (by decide)

/-! Backing. -/

/-- What backing leaves of a zone and of the rest: the zone may have gone Offline. -/
structure Backed (ix : Nat) (a b : Dev) : Prop where
  keeps : Keeps (fun _ => True) [.media, .wr, .mules, .pair, .host] [A.PAIR_CNT 0] a b
  zd : b.zd ix = a.zd ix ∨ b.zd ix = { a.zd ix with st := zOff }
  entries : b.wr.entries = a.wr.entries
  fold : b.wr.fold = a.wr.fold
  ckpt : b.media.ckptSeq = a.media.ckptSeq
  records : ∀ r ∈ a.media.journal, a.media.ckptSeq < r.seq → r ∈ b.media.journal
  eraseQ : a.media.eraseQ ⊆ b.media.eraseQ

theorem Backed.refl (ix : Nat) (a : Dev) : Backed ix a a :=
  ⟨Keeps.refl a, .inl rfl, rfl, rfl, rfl, fun _ h _ => h, List.Subset.refl _⟩

theorem Backed.trans (h : Backed ix a b) (g : Backed ix b c) : Backed ix a c where
  keeps := h.keeps.next g.keeps
  zd := by
    rcases g.zd with hg | hg
    · rw [hg]; exact h.zd
    · refine .inr ?_
      rcases h.zd with hh | hh
      · rw [hg, hh]
      · rw [hg, hh]
  entries := g.entries.trans h.entries
  fold := g.fold.trans h.fold
  ckpt := g.ckpt.trans h.ckpt
  records r hr hs := g.records r (h.records r hr hs) (by rw [h.ckpt]; exact hs)
  eraseQ := List.Subset.trans h.eraseQ g.eraseQ

theorem Calm.backed (h : Calm a b) (ix : Nat) : Backed ix a b where
  keeps := h.keeps.mono
  zd := .inl (h.zd ix)
  entries := h.entries
  fold := h.fold
  ckpt := h.ckpt
  records r hr _ := h.journal ▸ hr
  eraseQ := h.eraseQ

theorem Backed.each {α : Type} {f : Dev → α → Dev} (hf : ∀ d x, Backed ix d (f d x)) (d : Dev) (l : List α) :
    Backed ix d (d.each l f) := by
  unfold Dev.each
  induction l generalizing d with
  | nil => exact Backed.refl ix d
  | cons x t ih => exact (hf d x).trans (ih (f d x))

theorem aenTo_media (d : Dev) (fns : List Nat) (type info log : Nat) : (d.aenTo fns type info log).media = d.media :=
  (Keeps.aenTo d fns type info log).parts .media (by decide)

theorem changedZone_media (d : Dev) (k : Nat) :
    (d.changedZone k).media = { d.media with changed := d.media.changed ++ [((d.zd k).nsx, k)] } := by
  unfold Dev.changedZone
  rw [aenTo_media]
  rfl

theorem Keeps.changedZone (d : Dev) (k : Nat) : Keeps (fun _ => True) [.media, .host] [] d (d.changedZone k) := by
  unfold Dev.changedZone
  exact ((Keeps.onMedia d rfl).mono).next (Keeps.aenTo _ _ _ _ _)

/-- An Empty zone goes Offline; its write pointer and its generation stay. -/
theorem Backed.offlineOne (ix : Nat) (d : Dev) (home seven : Bool) : Backed ix d (d.offlineOne home seven) := by
  unfold Dev.offlineOne
  split
  · exact Backed.refl ix d
  · rename_i k _
    dsimp only
    have hwr := (Keeps.changedZone ((d.journal (.zstate (d.zd k).nsx k zOff (d.zd k).wp)).setZd k { d.zd k with st := zOff }) k).parts
      .wr (by decide)
    rw [Part.same, setZd_wr, journal_wr] at hwr
    refine ⟨?_, ?_, congrArg (·.entries) hwr, congrArg (·.fold) hwr, ?_, fun r hr hs => ?_, ?_⟩
    · exact (((Keeps.journal d _).mono).next (Keeps.setZd _ _ _)).next (Keeps.changedZone _ _)
    · rw [Dev.zd_congr (congrArg (·.zt) (changedZone_media _ _))]
      by_cases hk : ix = k
      · subst hk
        refine .inr ?_
        rw [setZd_zd_same]
        exact Zd.Fits.trim_eq { d.zd_fits ix with st := (by decide : zOff < 16) }
      · rw [setZd_zd_ne _ hk, journal_zd]
        exact .inl rfl
    · rw [changedZone_media, setZd_media, journal_media]
      rfl
    · rw [changedZone_media, setZd_media]
      exact journal_mem hr hs _
    · rw [changedZone_media, setZd_media, journal_media]
      exact List.Subset.refl _

theorem Backed.backHome (ix : Nat) (d : Dev) (home seven : Bool) : Backed ix d (d.backHome home seven) := by
  unfold Dev.backHome
  dsimp only
  refine (Backed.each (fun e _ => ?_) d _).trans (Backed.each (fun e _ => Backed.offlineOne ix e home seven) _ _)
  split
  · exact Backed.refl ix e
  · exact (Calm.fillPool e home seven).backed ix

theorem Backed.backing (ix : Nat) (d : Dev) (seven : Bool) : Backed ix d (d.backing seven) :=
  Backed.each (fun e h => Backed.backHome ix e h seven) d _

end Sys2Proof
end

section
/-! Zone commands: how they run (R46, R61), and how they end. -/

namespace Sys2Proof

open Machine

variable {s : State} {h : Hdr} {a : ZoneArg} {n : Ns} {d e : Dev} {P : List Part} {R : List Nat} {Q : Nat → Prop}

theorem gives_io {i : Instr} {p : Dev → Prop} {f : Dev → Dev} (he : exec i s = ioDo h s f) (hio : Io h s) (hp : p (f s.dev)) :
    Gives i s p := by
  obtain ⟨⟨hrun, -⟩, hwaits⟩ := hio
  refine gives_main he hrun ?_
  rw [if_neg (by simp [hwaits])]
  exact hp

/-! Ends. -/

theorem failCmd_refused (hpost : d.host.stopped = false) {st : Status} (hdnr : d.dnr st = false) :
    Sent d (d.failCmd h st) [cqeOf h st] ∧ FrameHost h.fn [.host] [] d (d.failCmd h st) := by
  refine ⟨?_, (Keeps.failCmd d h (fun _ hp => hp) st).frameHost⟩
  have hsent := failCmd_sent hpost h st
  rwa [hdnr] at hsent

/-- A command that succeeds after a span in which HOSTIF rests. -/
theorem complete_after (hk : Keeps (pensOf h.fn d) P R d e) (hhost : e.host = d.host) (hpost : d.host.stopped = false)
    (hP : Part.host ∈ P) :
    Sent d (e.complete h .success) [cqeOf h .success] ∧ FrameHost h.fn P R d (e.complete h .success) := by
  constructor
  · have hsent := complete_sent (hhost ▸ hpost) h .success false 0 0
    rw [Sent, hhost] at hsent
    exact hsent
  · exact (hk.next (Keeps.complete e h (fun p hp => (hk.penOf h.fn.val).symm.trans hp) .success false 0 0)
      (by simpa using hP) (List.nil_subset _)).frameHost

theorem complete_success (hpost : d.host.stopped = false) :
    Sent d (d.complete h .success) [cqeOf h .success] ∧ FrameHost h.fn [.host] [] d (d.complete h .success) :=
  complete_after (Keeps.refl d) rfl hpost List.mem_cons_self

/-! Running. -/

theorem zoneCmd_run {c : ZCmd} (hchk : d.zoneCheck h a.nsid a.slba a.all = .ok n) (hwait : d.wr.zwait = [])
    (hreads : c = .resetZ → d.readsIn n (fun k => a.all || k == (n.zoneOf a.slba).1) = false) : d.zoneCmd c h a = d.zoneRun c h a := by
  have hnot : d.zoneWaits c h a = false := by
    simp only [Dev.zoneWaits, hchk, hwait, List.any_nil, Bool.false_or, Bool.and_eq_false_iff, decide_eq_false_iff_not]
    by_cases hc : c = .resetZ
    · exact .inr (hreads hc)
    · exact .inl hc
  rw [Dev.zoneCmd, hnot]
  rfl

theorem zoneCmd_unchecked {c : ZCmd} {st : Status} (hchk : d.zoneCheck h a.nsid a.slba a.all = .error st) :
    d.zoneCmd c h a = d.zoneRun c h a := by
  rw [Dev.zoneCmd, Dev.zoneWaits, hchk]
  rfl

variable {p : Zd → Bool} {f : Dev → Nat → Nat → Dev × Option Status}

theorem zoneAct_error {st : Status} (hchk : d.zoneCheck h a.nsid a.slba a.all = .error st) : d.zoneAct h a p f = d.failCmd h st := by
  rw [Dev.zoneAct, hchk]

/-- Select All where no zone is in the states that the command acts on. -/
theorem zoneAct_none (hchk : d.zoneCheck h a.nsid a.slba a.all = .ok n) (hall : a.all = true) (hnone : d.zonesOf n p = []) :
    d.zoneAct h a p f = d.complete h .success := by
  rw [Dev.zoneAct, hchk]
  simp only [hall, if_true, hnone, Dev.zoneAll, List.foldl_nil]

theorem zoneAct_done (hchk : d.zoneCheck h a.nsid a.slba a.all = .ok n) (hall : a.all = false)
    (hf : f d (n.base + (n.zoneOf a.slba).1) a.slba = (e, none)) : d.zoneAct h a p f = e.complete h .success := by
  rw [Dev.zoneAct, hchk]
  simp only [hall, hf]
  rfl

theorem zoneAct_refused {st : Status} (hchk : d.zoneCheck h a.nsid a.slba a.all = .ok n) (hall : a.all = false)
    (hf : f d (n.base + (n.zoneOf a.slba).1) a.slba = (e, some st)) : d.zoneAct h a p f = e.failCmd h st := by
  rw [Dev.zoneAct, hchk]
  simp only [hall, hf]
  rfl

theorem openCmd_error {st : Status} (hchk : d.zoneCheck h a.nsid a.slba a.all = .error st) :
    d.openCmd h a = d.zoneAct h a (fun z => decide (z.st = zClosed)) Dev.zOpen := by
  rw [Dev.openCmd, Dev.openRow, hchk]

theorem openCmd_all (hchk : d.zoneCheck h a.nsid a.slba a.all = .ok n) (hall : a.all = true) :
    d.openCmd h a = d.zoneAct h a (fun z => decide (z.st = zClosed)) Dev.zOpen := by
  rw [Dev.openCmd, Dev.openRow, hchk]
  simp only [hall, if_true]

theorem openCmd_now (hchk : d.zoneCheck h a.nsid a.slba a.all = .ok n) (hall : a.all = false)
    (hrow : d.openWaits (n.base + (n.zoneOf a.slba).1) = none) :
    d.openCmd h a = d.zoneAct h a (fun z => decide (z.st = zClosed)) Dev.zOpen := by
  rw [Dev.openCmd, Dev.openRow, hchk]
  simp only [hall, hrow]
  rfl

theorem openCmd_waits {r : Row} (hchk : d.zoneCheck h a.nsid a.slba a.all = .ok n) (hall : a.all = false)
    (hrow : d.openWaits (n.base + (n.zoneOf a.slba).1) = some r) :
    d.openCmd h a = (d.prepRow r).onWr (fun w => { w with opens := w.opens ++ [(h, a)] }) := by
  rw [Dev.openCmd, Dev.openRow, hchk]
  simp only [hall, hrow]
  rfl

theorem zoneCheck_one (hz : ZoneOn h a n s) : s.dev.zoneCheck h a.nsid a.slba a.all = .ok n := by
  obtain ⟨-, hall, hchk, -⟩ := hz
  rw [hall]
  exact hchk

/-- A command on one zone with nothing to wait for. -/
theorem zoneCmd_one {c : ZCmd} (hz : ZoneOn h a n s) (hc : c ≠ .resetZ) : s.dev.zoneCmd c h a = s.dev.zoneRun c h a :=
  zoneCmd_run (zoneCheck_one hz) hz.2.2.2 (fun hreset => absurd hreset hc)

theorem zoneCmd_reset (hz : ZoneOn h a n s) (hreads : s.dev.readsIn n (fun k => k == (n.zoneOf a.slba).1) = false) :
    s.dev.zoneCmd .resetZ h a = s.dev.zoneRun .resetZ h a := by
  refine zoneCmd_run (zoneCheck_one hz) hz.2.2.2 (fun _ => ?_)
  simp only [hz.2.1, Bool.false_or]
  exact hreads

variable {i : Instr} {g : Dev → Dev}

/-- A command on one zone that the zone's state refuses. -/
theorem zone_refused (hz : ZoneOn h a n s) (he : exec i s = ioDo h s g) (hg : g s.dev = s.dev.zoneAct h a p f) {st : Status}
    (hf : f s.dev (n.base + (n.zoneOf a.slba).1) a.slba = (s.dev, some st)) (hdnr : s.dev.dnr st = false) :
    Gives i s (fun d => Sent s.dev d [cqeOf h st] ∧ FrameHost h.fn [.host] [] s.dev d) := by
  refine gives_io he hz.1 ?_
  rw [hg, zoneAct_refused (zoneCheck_one hz) hz.2.1 hf]
  exact failCmd_refused hz.1.1.2 hdnr

/-- A command on one zone that is in the wanted state already. -/
theorem zone_unchanged (hz : ZoneOn h a n s) (he : exec i s = ioDo h s g) (hg : g s.dev = s.dev.zoneAct h a p f)
    (hf : f s.dev (n.base + (n.zoneOf a.slba).1) a.slba = (s.dev, none)) :
    Gives i s (fun d => Sent s.dev d [cqeOf h .success] ∧ FrameHost h.fn [.host] [] s.dev d) := by
  refine gives_io he hz.1 ?_
  rw [hg, zoneAct_done (zoneCheck_one hz) hz.2.1 hf]
  exact complete_success hz.1.1.2

end Sys2Proof
end

section
/-! Open Zone (R46, R47, R49, R53). -/

namespace Sys2Proof.Machine

variable {d : Dev} {ix : Nat}

theorem Zd.opened_iff {z : Zd} : z.opened = true ↔ z.st = zImp ∨ z.st = zExp := by
  rw [Zd.opened, decide_eq_true_iff]

theorem Zd.active_iff {z : Zd} : z.active = true ↔ z.opened = true ∨ z.st = zClosed := by
  rw [Zd.active, Bool.or_eq_true, decide_eq_true_iff]

theorem Zd.opened_false {z : Zd} {k : Nat} (h : z.st = k) (hi : k ≠ zImp) (he : k ≠ zExp) : z.opened = false := by
  rw [← Bool.not_eq_true, Zd.opened_iff, h]
  exact fun hk => hk.elim hi he

theorem Zd.active_false {z : Zd} (h : z.active = false) : z.opened = false ∧ z.st ≠ zClosed := by
  rw [Zd.active, Bool.or_eq_false_iff, decide_eq_false_iff_not] at h
  exact h

theorem Zd.opened_ne_empty {z : Zd} (h : z.opened = true) : z.st ≠ zEmpty := by
  rcases Zd.opened_iff.mp h with h | h <;> rw [h] <;> decide

theorem Dev.openWaits_of_ne {d : Dev} {ix : Nat} (h : (d.zd ix).st ≠ zEmpty) : d.openWaits ix = none := by
  unfold Dev.openWaits
  dsimp only
  rw [if_neg (fun hc => h hc.1)]

/-- An Empty zone that may open waits where the row that it would take is stale. -/
theorem Dev.openWaits_empty {r : Row} (hst : (d.zd ix).st = zEmpty) (hroom : d.activeRoom (d.zd ix) = true)
    (hslot : d.evict (d.zd ix).pen ≠ .refuse) (hrow : d.bestRow (d.zd ix).seven (d.zd ix).nsx = some r) :
    d.openWaits ix = if r.stale then some r else none := by
  unfold Dev.openWaits
  dsimp only
  rw [if_pos ⟨hst, hroom, hslot⟩, hrow]

theorem Dev.openWaits_no_room (hroom : d.activeRoom (d.zd ix) = false) : d.openWaits ix = none := by
  unfold Dev.openWaits
  dsimp only
  rw [if_neg (fun hc => Bool.false_ne_true (hroom.symm.trans hc.2.1))]

theorem Dev.openZone_opened (h : (d.zd ix).opened = true) :
    d.openZone ix true = (d.setZd ix { d.zd ix with st := zExp }, none) := by
  unfold Dev.openZone
  dsimp only
  rw [if_pos h, if_pos rfl]

theorem Dev.openZone_closed (hst : (d.zd ix).st = zClosed) (hslot : d.evict (d.zd ix).pen = .free) :
    d.openZone ix true = (d.setZd ix { d.zd ix with st := zExp }, none) := by
  unfold Dev.openZone
  dsimp only
  rw [if_neg (by simp [Zd.opened_false hst (by decide) (by decide)]), if_neg (fun hc => absurd (hst.symm.trans hc.1) (by decide)), hslot]
  dsimp only
  rw [if_pos hst, if_pos rfl]

theorem Dev.openZone_no_room (hst : (d.zd ix).st = zEmpty) (hroom : d.activeRoom (d.zd ix) = false) :
    d.openZone ix true = (d, some .tooManyActive) := by
  unfold Dev.openZone
  dsimp only
  rw [if_neg (by simp [Zd.opened_false hst (by decide) (by decide)]), if_pos ⟨hst, by simp [hroom]⟩]

theorem Dev.openZone_no_slot (hst : (d.zd ix).st = zClosed) (hslot : d.evict (d.zd ix).pen = .refuse) :
    d.openZone ix true = (d, some .tooManyOpen) := by
  unfold Dev.openZone
  dsimp only
  rw [if_neg (by simp [Zd.opened_false hst (by decide) (by decide)]), if_neg (fun hc => absurd (hst.symm.trans hc.1) (by decide)), hslot]

/-- A zone that opens takes its row: out of the pool, reserved, started and recorded. -/
def Dev.openTake (d : Dev) (ix : Nat) (r : Row) : Dev :=
  let z := d.zd ix
  let e := (d.setPool z.seven ((d.pool z.seven).filter (fun x => x != r))).onWr (fun w => { w with resv := w.resv ++ [ix] })
  ((e.rowStart r.seven r.group r.lbn r.wear r.slc).journal (.zopen z.nsx ix r.group r.lbn z.zseq z.seven)).moveOpened z.nsx ix

theorem Dev.openZone_fresh {r : Row} (hst : (d.zd ix).st = zEmpty) (hroom : d.activeRoom (d.zd ix) = true)
    (hslot : d.evict (d.zd ix).pen = .free) (hrow : d.bestRow (d.zd ix).seven (d.zd ix).nsx = some r) :
    d.openZone ix true =
      ((d.openTake ix r).setZd ix { d.zd ix with
        st := zExp, group := r.group, lbn := r.lbn, colok := !(d.openTake ix r).moving (d.zd ix).nsx }, none) := by
  unfold Dev.openZone
  dsimp only
  rw [if_neg (by simp [Zd.opened_false hst (by decide) (by decide)]), if_neg (by simp [hroom]), hslot]
  dsimp only
  rw [if_neg (by rw [hst]; decide), hrow, if_pos rfl]
  unfold Dev.openTake
  dsimp only

theorem Dev.zOpen_eq {zs : Nat} (h : (d.zd ix).opened = true ∨ (d.zd ix).st = zEmpty ∨ (d.zd ix).st = zClosed) :
    d.zOpen ix zs = d.openZone ix true := by
  unfold Dev.zOpen
  dsimp only
  rw [if_pos (by simpa [or_assoc] using h)]

theorem Dev.zOpen_other {zs : Nat} (hact : (d.zd ix).active = false) (hst : (d.zd ix).st ≠ zEmpty) :
    d.zOpen ix zs = (d, some .zoneTransition) := by
  obtain ⟨hopen, hclosed⟩ := Zd.active_false hact
  unfold Dev.zOpen
  dsimp only
  rw [if_neg (by simp [hopen, hclosed, hst])]

end Sys2Proof.Machine

namespace Sys2Proof

open Machine

variable {Q : Nat → Prop} {s : State} {h : Hdr} {a : ZoneArg} {n : Ns}

theorem Keeps.onWr (d : Dev) (f : Machine.Wr → Machine.Wr) : Keeps Q [.wr] [] d (d.onWr f) :=
  .of_frame ((Frame.refl _ _ d).onWr List.mem_cons_self) (fun _ => List.not_mem_nil) rfl rfl (Nat.le_refl _)

theorem Keeps.moveOpened (d : Dev) (nsx ix : Nat) : Keeps Q [.pens] [] d (d.moveOpened nsx ix) :=
  .of_frame ((Frame.refl _ _ d).onPens List.mem_cons_self) (fun _ => List.not_mem_nil) rfl rfl (Nat.le_refl _)

theorem moveOpened_moving (d : Dev) (nsx ix m : Nat) : (d.moveOpened nsx ix).moving m = d.moving m := by
  simp only [Dev.moving, Dev.moveOpened, Dev.onPens_pens, List.any_map]
  congr 1
  funext x
  simp only [Function.comp]
  split <;> rfl

/-- The row is taken: what changes by it, and what does not. -/
theorem Keeps.openTake (d : Dev) (ix : Nat) (r : Row) :
    Keeps Q [.wr, .media, .mules, .pair, .pens] [A.PAIR_CNT 0] d (d.openTake ix r) := by
  unfold Dev.openTake
  dsimp only
  exact (((((Calm.setPool d _ _).keeps.mono).next (Keeps.onWr _ _)).next (Calm.rowStart ..).keeps).next (Keeps.journal _ _)).next
    (Keeps.moveOpened _ _ _)

theorem openTake_zd (d : Dev) (ix : Nat) (r : Row) (k : Nat) : (d.openTake ix r).zd k = d.zd k := by
  unfold Dev.openTake
  dsimp only
  rw [show ∀ (e : Dev) m i, (e.moveOpened m i).zd k = e.zd k from fun _ _ _ => rfl, journal_zd, (Calm.rowStart ..).zd,
    show ∀ (e : Dev) f, (e.onWr f).zd k = e.zd k from fun _ _ => rfl, (Calm.setPool ..).zd]

theorem openTake_resv (d : Dev) (ix : Nat) (r : Row) : (d.openTake ix r).wr.resv = d.wr.resv ++ [ix] := by
  unfold Dev.openTake
  dsimp only
  rw [show ∀ (e : Dev) m i, (e.moveOpened m i).wr = e.wr from fun _ _ _ => rfl, journal_wr, (Calm.rowStart ..).resv]
  exact congrArg (· ++ [ix]) (Calm.setPool d _ _).resv

theorem openTake_host (d : Dev) (ix : Nat) (r : Row) : (d.openTake ix r).host = d.host :=
  (Keeps.openTake (Q := fun _ => True) d ix r).parts .host (by decide)

theorem openTake_journaled (d : Dev) (ix : Nat) (r : Row) :
    Journaled (d.openTake ix r) (.zopen (d.zd ix).nsx ix r.group r.lbn (d.zd ix).zseq (d.zd ix).seven) := by
  have hmove : ∀ (e : Dev) m i b, Journaled e b → Journaled (e.moveOpened m i) b := fun _ _ _ _ he => he
  unfold Dev.openTake
  dsimp only
  exact hmove _ _ _ _ (journal_journaled _ _)

theorem openTake_moving (d : Dev) (ix : Nat) (r : Row) (m : Nat) : (d.openTake ix r).moving m = d.moving m := by
  unfold Dev.openTake
  dsimp only
  rw [moveOpened_moving]
  have hpens : ∀ e : Dev, ∀ b, (e.journal b).pens = e.pens := fun e b =>
    (Keeps.journal (Q := fun _ => True) e b).parts .pens (by decide)
  rw [Dev.moving, hpens, (Calm.rowStart ..).frame.2.1 .pens (by decide), Dev.onWr_pens, (Calm.setPool ..).frame.2.1 .pens (by decide),
    Dev.moving]

end Sys2Proof
end

section
/-! The clauses of O29 on Open Zone. -/

namespace Sys2Proof

open Machine

variable {s : State} {h : Hdr} {a : ZoneArg} {n : Ns} {ix : Nat}

theorem exec_openZone (s : State) (h : Hdr) (a : ZoneArg) :
    exec (.openZone h a) s = ioDo h s (fun d => d.zoneCmd .openZ h a) := rfl

/-- Open Zone on a zone that waits for no row. -/
theorem openZone_now (hz : ZoneOn h a n s) (hrow : s.dev.openWaits (n.base + (n.zoneOf a.slba).1) = none) :
    s.dev.zoneCmd .openZ h a = s.dev.zoneAct h a (fun z => decide (z.st = zClosed)) Dev.zOpen := by
  rw [zoneCmd_one (c := .openZ) hz (by decide)]
  exact openCmd_now (zoneCheck_one hz) hz.2.1 hrow

/-- A refusal of Open Zone. -/
theorem openZone_refused (hz : ZoneOn h a n s) (hix : n.base + (n.zoneOf a.slba).1 = ix) (hrow : s.dev.openWaits ix = none) {st : Status}
    (hdnr : s.dev.dnr st = false) (hopen : s.dev.zOpen ix a.slba = (s.dev, some st)) :
    Gives (.openZone h a) s (fun d => Sent s.dev d [cqeOf h st] ∧ FrameHost h.fn [.host] [] s.dev d) := by
  subst hix
  exact zone_refused hz (exec_openZone s h a) (openZone_now hz hrow) hopen hdnr

theorem openZone_no_room (hz : ZoneOn h a n s) (hix : n.base + (n.zoneOf a.slba).1 = ix) (hst : (s.dev.zd ix).st = zEmpty)
    (hroom : s.dev.activeRoom (s.dev.zd ix) = false) :
    Gives (.openZone h a) s (fun d => Sent s.dev d [cqeOf h .tooManyActive] ∧ FrameHost h.fn [.host] [] s.dev d) :=
  openZone_refused hz hix (Dev.openWaits_no_room hroom) rfl
    ((Dev.zOpen_eq (.inr (.inl hst))).trans (Dev.openZone_no_room hst hroom))

theorem openZone_no_slot (hz : ZoneOn h a n s) (hix : n.base + (n.zoneOf a.slba).1 = ix) (hst : (s.dev.zd ix).st = zClosed)
    (hslot : s.dev.evict (s.dev.zd ix).pen = .refuse) :
    Gives (.openZone h a) s (fun d => Sent s.dev d [cqeOf h .tooManyOpen] ∧ FrameHost h.fn [.host] [] s.dev d) :=
  openZone_refused hz hix (Dev.openWaits_of_ne (by rw [hst]; decide)) rfl
    ((Dev.zOpen_eq (.inr (.inr hst))).trans (Dev.openZone_no_slot hst hslot))

theorem openZone_transition (hz : ZoneOn h a n s) (hix : n.base + (n.zoneOf a.slba).1 = ix) (hact : (s.dev.zd ix).active = false)
    (hst : (s.dev.zd ix).st ≠ zEmpty) :
    Gives (.openZone h a) s (fun d => Sent s.dev d [cqeOf h .zoneTransition] ∧ FrameHost h.fn [.host] [] s.dev d) :=
  openZone_refused hz hix (Dev.openWaits_of_ne hst) rfl (Dev.zOpen_other hact hst)

/-- An opened zone, or a closed one with a slot, is Explicitly Opened. -/
theorem openZone_again (hz : ZoneOn h a n s) (hix : n.base + (n.zoneOf a.slba).1 = ix)
    (hst : (s.dev.zd ix).opened = true ∨ ((s.dev.zd ix).st = zClosed ∧ s.dev.evict (s.dev.zd ix).pen = .free)) :
    Gives (.openZone h a) s (fun d =>
      d.zd ix = { s.dev.zd ix with st := zExp } ∧ (∀ k, k ≠ ix → d.zd k = s.dev.zd k) ∧ Sent s.dev d [cqeOf h .success] ∧
      FrameHost h.fn [.media, .pair, .host] [A.PAIR_CNT 0] s.dev d) := by
  subst hix
  have hne : (s.dev.zd (n.base + (n.zoneOf a.slba).1)).st ≠ zEmpty := by
    rcases hst with hopen | ⟨hclosed, -⟩
    · exact Zd.opened_ne_empty hopen
    · rw [hclosed]; decide
  have hopen : s.dev.zOpen (n.base + (n.zoneOf a.slba).1) a.slba =
      (s.dev.setZd (n.base + (n.zoneOf a.slba).1) { s.dev.zd (n.base + (n.zoneOf a.slba).1) with st := zExp }, none) := by
    rcases hst with hopen | ⟨hclosed, hslot⟩
    · exact (Dev.zOpen_eq (.inl hopen)).trans (Dev.openZone_opened hopen)
    · exact (Dev.zOpen_eq (.inr (.inr hclosed))).trans (Dev.openZone_closed hclosed hslot)
  refine gives_io (exec_openZone s h a) hz.1 ?_
  rw [openZone_now hz (Dev.openWaits_of_ne hne), zoneAct_done (zoneCheck_one hz) hz.2.1 hopen]
  refine ⟨?_, fun k hk => ?_, complete_after ((Keeps.setZd _ _ _).mono) (setZd_host ..) hz.1.1.2 (by simp)⟩
  · rw [Dev.zd_congr (congrArg (·.zt) (complete_media ..)), setZd_zd_same]
    exact Zd.Fits.trim_eq { s.dev.zd_fits _ with st := (by decide : zExp < 16) }
  · rw [Dev.zd_congr (congrArg (·.zt) (complete_media ..)), setZd_zd_ne _ hk]

theorem setPool_eraseQ (d : Dev) (seven : Bool) (l : List Row) : (d.setPool seven l).media.eraseQ = d.media.eraseQ := by
  cases seven <;> rfl

/-- A row that an open waits for is queued for its erase once. -/
theorem prepRow_effect (d : Dev) (r : Row) :
    (d.prepRow r).wr = d.wr ∧ (r.dirty = true → (d.prepRow r).media = d.media) ∧
      (r.dirty = false → (d.prepRow r).media.eraseQ = d.media.eraseQ ++ [{ r with dirty := true }]) ∧
      Frame [.wr, .media] [] d (d.prepRow r) := by
  unfold Dev.prepRow
  cases hdirty : r.dirty with
  | true => exact ⟨rfl, fun _ => rfl, fun h => Bool.noConfusion h, Frame.refl _ _ d⟩
  | false =>
    refine ⟨rfl, fun h => Bool.noConfusion h, fun _ => ?_, ?_⟩
    · exact setPool_eraseQ (d.queueErase r) _ _
    · exact ((Frame.refl _ _ d).onMedia (by simp) (Nat.le_refl _)).onMedia (by simp) (by cases r.seven <;> exact Nat.le_refl _)

/-- An Empty zone whose row awaits its erase: the command waits (R53). -/
theorem openZone_waits (hz : ZoneOn h a n s) (hix : n.base + (n.zoneOf a.slba).1 = ix) {r : Row} (hst : (s.dev.zd ix).st = zEmpty)
    (hroom : s.dev.activeRoom (s.dev.zd ix) = true) (hslot : s.dev.evict (s.dev.zd ix).pen ≠ .refuse)
    (hrow : s.dev.bestRow (s.dev.zd ix).seven (s.dev.zd ix).nsx = some r) (hstale : r.stale = true) :
    Gives (.openZone h a) s (fun d =>
      d.wr = { s.dev.wr with opens := s.dev.wr.opens ++ [(h, a)] } ∧ (r.dirty = true → d.media = s.dev.media) ∧
      (r.dirty = false → d.media.eraseQ = s.dev.media.eraseQ ++ [{ r with dirty := true }]) ∧ Frame [.wr, .media] [] s.dev d) := by
  subst hix
  have hwaits := Dev.openWaits_empty hst hroom hslot hrow
  rw [if_pos hstale] at hwaits
  refine gives_io (exec_openZone s h a) hz.1 ?_
  rw [zoneCmd_one (c := .openZ) hz (by decide)]
  rw [Dev.zoneRun, openCmd_waits (zoneCheck_one hz) hz.2.1 hwaits]
  obtain ⟨hwr, hmedia, herase, hframe⟩ := prepRow_effect s.dev r
  exact ⟨by rw [Dev.onWr_wr, hwr], hmedia, herase, hframe.onWr (by simp)⟩

/-- An Empty zone opens on its row. -/
theorem openZone_fresh (hz : ZoneOn h a n s) (hix : n.base + (n.zoneOf a.slba).1 = ix) {r : Row} (hst : (s.dev.zd ix).st = zEmpty)
    (hroom : s.dev.activeRoom (s.dev.zd ix) = true) (hslot : s.dev.evict (s.dev.zd ix).pen = .free)
    (hrow : s.dev.bestRow (s.dev.zd ix).seven (s.dev.zd ix).nsx = some r) (hstale : r.stale = false) :
    Gives (.openZone h a) s (fun d =>
      d.zd ix = { s.dev.zd ix with
        st := zExp, group := r.group % 256, lbn := r.lbn % 16384, colok := !s.dev.moving (s.dev.zd ix).nsx } ∧
      (∀ k, k ≠ ix → d.zd k = s.dev.zd k) ∧ d.wr.resv = s.dev.wr.resv ++ [ix] ∧
      Journaled d (.zopen (s.dev.zd ix).nsx ix r.group r.lbn (s.dev.zd ix).zseq (s.dev.zd ix).seven) ∧ Sent s.dev d [cqeOf h .success] ∧
      FrameHost h.fn [.wr, .media, .mules, .pair, .pens, .host] [A.PAIR_CNT 0] s.dev d) := by
  subst hix
  have hwaits := Dev.openWaits_empty hst hroom (by rw [hslot]; decide) hrow
  rw [if_neg (by simp [hstale])] at hwaits
  refine gives_io (exec_openZone s h a) hz.1 ?_
  rw [openZone_now hz hwaits, zoneAct_done (zoneCheck_one hz) hz.2.1
    ((Dev.zOpen_eq (.inr (.inl hst))).trans (Dev.openZone_fresh hst hroom hslot hrow))]
  refine ⟨?_, fun k hk => ?_, ?_, ?_, ?_⟩
  · rw [Dev.zd_congr (congrArg (·.zt) (complete_media ..)), setZd_zd_same, openTake_moving]
    have hfits := s.dev.zd_fits (n.base + (n.zoneOf a.slba).1)
    simp only [Zd.trim, Nat.mod_eq_of_lt hfits.wp, Nat.mod_eq_of_lt hfits.fp, Nat.mod_eq_of_lt hfits.nsx, Nat.mod_eq_of_lt hfits.kslot,
      Nat.mod_eq_of_lt hfits.pen, Nat.mod_eq_of_lt hfits.zseq]
    rfl
  · rw [Dev.zd_congr (congrArg (·.zt) (complete_media ..)), setZd_zd_ne _ hk, openTake_zd]
  · rw [complete_wr, setZd_wr, openTake_resv]
  · rw [Journaled, complete_media]
    exact setZd_journaled (openTake_journaled _ _ _) _ _
  · exact complete_after (((Keeps.openTake _ _ _).mono).next (Keeps.setZd _ _ _)) ((setZd_host ..).trans (openTake_host ..)) hz.1.1.2
      (by simp)

end Sys2Proof
end

section
/-! Close Zone, Finish Zone and Offline Zone (R46, R50). -/

namespace Sys2Proof

open Machine

variable {s : State} {h : Hdr} {a : ZoneArg} {n : Ns} {d : Dev} {ix : Nat} {Q : Nat → Prop}

theorem exec_closeZone (s : State) (h : Hdr) (a : ZoneArg) :
    exec (.closeZone h a) s = ioDo h s (fun d => d.zoneCmd .closeZ h a) := rfl

theorem exec_finishZone (s : State) (h : Hdr) (a : ZoneArg) :
    exec (.finishZone h a) s = ioDo h s (fun d => d.zoneCmd .finishZ h a) := rfl

theorem exec_offlineZone (s : State) (h : Hdr) (a : ZoneArg) :
    exec (.offlineZone h a) s = ioDo h s (fun d => d.zoneCmd .offlineZ h a) := rfl

/-! Close Zone. -/

/-- What closing a zone changes of descriptors, the journal and the host's side. -/
theorem closeZone_effect (d : Dev) (ix zs : Nat) :
    Keeps Q [.wr, .media, .mules, .pair] [A.PAIR_CNT 0] d (d.closeZone ix zs) ∧
      (d.closeZone ix zs).zd ix = { d.zd ix with st := zClosed } ∧ (∀ k, k ≠ ix → (d.closeZone ix zs).zd k = d.zd k) ∧
      Journaled (d.closeZone ix zs) (.zstate (d.zd ix).nsx ix zClosed (d.zd ix).wp) := by
  unfold Dev.closeZone
  dsimp only
  generalize hmoved : (d.issueAll ix zs (d.zd ix).wp).foldMove _ _ _ = e
  have hcalm : Calm d e := hmoved ▸ (Calm.issueAll d ix zs _).trans (Calm.foldMove _ _ _ _ _)
  refine ⟨?_, ?_, fun k hk => ?_, setZd_journaled (journal_journaled _ _) _ _⟩
  · exact ((hcalm.keeps.mono).next (Keeps.journal _ _)).next (Keeps.setZd _ _ _)
  · rw [setZd_zd_same, journal_zd, hcalm.zd]
    exact Zd.Fits.trim_eq { d.zd_fits ix with st := (by decide : zClosed < 16) }
  · rw [setZd_zd_ne _ hk, journal_zd, hcalm.zd]

theorem zClose_opened {zs : Nat} (h : (d.zd ix).opened = true) : d.zClose ix zs = (d.closeZone ix zs, none) := by
  unfold Dev.zClose
  exact if_pos h

theorem zClose_closed {zs : Nat} (h : (d.zd ix).st = zClosed) : d.zClose ix zs = (d, none) := by
  unfold Dev.zClose
  dsimp only
  rw [if_neg (by simp [Zd.opened_false h (by decide) (by decide)]), if_pos h]

theorem zClose_other {zs : Nat} (h : (d.zd ix).active = false) : d.zClose ix zs = (d, some .zoneTransition) := by
  obtain ⟨hopen, hclosed⟩ := Zd.active_false h
  unfold Dev.zClose
  dsimp only
  rw [if_neg (by simp [hopen]), if_neg hclosed]

theorem closeZone_opened (hz : ZoneOn h a n s) (hix : n.base + (n.zoneOf a.slba).1 = ix) (hst : (s.dev.zd ix).opened = true) :
    Gives (.closeZone h a) s (fun d =>
      (d.zd ix).st = zClosed ∧ (d.zd ix).wp = (s.dev.zd ix).wp ∧ (∀ k, k ≠ ix → d.zd k = s.dev.zd k) ∧
      Journaled d (.zstate (s.dev.zd ix).nsx ix zClosed (s.dev.zd ix).wp) ∧ Sent s.dev d [cqeOf h .success] ∧
      FrameHost h.fn [.wr, .media, .mules, .pair, .host] [A.PAIR_CNT 0] s.dev d) := by
  subst hix
  refine gives_io (exec_closeZone s h a) hz.1 ?_
  rw [zoneCmd_one (c := .closeZ) hz (by decide), Dev.zoneRun, zoneAct_done (zoneCheck_one hz) hz.2.1 (zClose_opened hst)]
  obtain ⟨hkeeps, hsame, hother, hlog⟩ :=
    closeZone_effect (Q := pensOf h.fn s.dev) s.dev (n.base + (n.zoneOf a.slba).1) a.slba
  have hzt := congrArg (·.zt) (complete_media (s.dev.closeZone (n.base + (n.zoneOf a.slba).1) a.slba) h .success false 0 0)
  refine ⟨?_, ?_, fun k hk => ?_, ?_, complete_after hkeeps.mono (hkeeps.parts .host (by decide)) hz.1.1.2 (by simp)⟩
  · rw [Dev.zd_congr hzt, hsame]
  · rw [Dev.zd_congr hzt, hsame]
  · rw [Dev.zd_congr hzt, hother k hk]
  · rw [Journaled, complete_media]
    exact hlog

theorem closeZone_closed (hz : ZoneOn h a n s) (hix : n.base + (n.zoneOf a.slba).1 = ix) (hst : (s.dev.zd ix).st = zClosed) :
    Gives (.closeZone h a) s (fun d => Sent s.dev d [cqeOf h .success] ∧ FrameHost h.fn [.host] [] s.dev d) := by
  subst hix
  exact zone_unchanged hz (exec_closeZone s h a) (zoneCmd_one (c := .closeZ) hz (by decide)) (zClose_closed hst)

theorem closeZone_transition (hz : ZoneOn h a n s) (hix : n.base + (n.zoneOf a.slba).1 = ix) (hst : (s.dev.zd ix).active = false) :
    Gives (.closeZone h a) s (fun d => Sent s.dev d [cqeOf h .zoneTransition] ∧ FrameHost h.fn [.host] [] s.dev d) := by
  subst hix
  exact zone_refused hz (exec_closeZone s h a) (zoneCmd_one (c := .closeZ) hz (by decide)) (zClose_other hst) rfl

/-! Offline Zone. -/

theorem zOffline_other {zs : Nat} (h : (d.zd ix).st ≠ zRO) : d.zOffline ix zs = (d, some .zoneTransition) := by
  unfold Dev.zOffline
  exact if_neg h

theorem offlineZone_transition (hz : ZoneOn h a n s) (hix : n.base + (n.zoneOf a.slba).1 = ix) (hst : (s.dev.zd ix).st ≠ zRO) :
    Gives (.offlineZone h a) s (fun d => Sent s.dev d [cqeOf h .zoneTransition] ∧ FrameHost h.fn [.host] [] s.dev d) := by
  subst hix
  exact zone_refused hz (exec_offlineZone s h a) (zoneCmd_one (c := .offlineZ) hz (by decide)) (zOffline_other hst) rfl

theorem Keeps.dropEntries (d : Dev) (nsx lo hi : Nat) : Keeps Q [.wr] [] d (d.dropEntries nsx lo hi) := Keeps.onWr d _

/-- The Fold copies of a range go; the rest of the firmware's state is as calm steps leave it. -/
theorem dropFold_effect (d : Dev) (nsx lo hi : Nat) :
    Keeps Q [.wr, .media, .mules] [] d (d.dropFold nsx lo hi) ∧ (d.dropFold nsx lo hi).wr.fold = d.wr.fold.flatMap (cutFold nsx lo hi) ∧
      (d.dropFold nsx lo hi).wr.resv = d.wr.resv ∧ (d.dropFold nsx lo hi).wr.entries = d.wr.entries ∧
      (d.dropFold nsx lo hi).media.zt = d.media.zt ∧ (d.dropFold nsx lo hi).media.journal = d.media.journal ∧
      (d.dropFold nsx lo hi).media.ckptSeq = d.media.ckptSeq ∧ d.media.eraseQ ⊆ (d.dropFold nsx lo hi).media.eraseQ := by
  unfold Dev.dropFold
  have hcalm := Calm.foldTidy (d.onWr (fun w =>
    { w with fold := w.fold.flatMap (cutFold nsx lo hi), foldJobs := w.foldJobs.flatMap (cutJob nsx lo hi) }))
  exact ⟨((Keeps.onWr d _).mono).next hcalm.keeps, hcalm.fold, hcalm.resv, hcalm.entries, hcalm.zt, hcalm.journal, hcalm.ckpt,
    hcalm.eraseQ⟩

/-- A Read Only zone goes Offline: recorded, its copies in Fold and the buffer released. -/
def releaseZone (d : Dev) (ix zs : Nat) : Dev :=
  let z := d.zd ix
  let e := ((d.journal (.zstate z.nsx ix zOff z.wp)).dropFold z.nsx zs (zs + zsze z.seven)).dropEntries z.nsx zs (zs + zsze z.seven)
  e.onWr (fun w => { w with resv := w.resv.filter (· != ix) })

theorem zOffline_readOnly {zs : Nat} (h : (d.zd ix).st = zRO) :
    d.zOffline ix zs = (((releaseZone d ix zs).setZd ix { d.zd ix with st := zOff }).capacityCheck, none) := by
  unfold Dev.zOffline releaseZone
  exact if_pos h

theorem releaseZone_effect (d : Dev) (ix zs : Nat) :
    let z := d.zd ix
    let e := releaseZone d ix zs
    Keeps Q [.wr, .media, .mules, .pair] [A.PAIR_CNT 0] d e ∧ e.wr.resv = d.wr.resv.filter (· != ix) ∧
      e.wr.fold = d.wr.fold.flatMap (cutFold z.nsx zs (zs + zsze z.seven)) ∧ (∀ k, e.zd k = d.zd k) ∧
      Journaled e (.zstate z.nsx ix zOff z.wp) := by
  unfold releaseZone
  dsimp only
  generalize d.zd ix = z
  obtain ⟨hkeeps, hfold, hresv, -, hzt, hjournal, -, -⟩ :=
    dropFold_effect (Q := Q) (d.journal (.zstate z.nsx ix zOff z.wp)) z.nsx zs (zs + zsze z.seven)
  refine ⟨?_, ?_, ?_, fun k => ?_, ?_⟩
  · exact ((((Keeps.journal d _).mono).next hkeeps).next (Keeps.dropEntries ..)).next (Keeps.onWr _ _)
  · simp only [Dev.onWr_wr, Dev.dropEntries, hresv, journal_wr]
  · simp only [Dev.onWr_wr, Dev.dropEntries, hfold, journal_wr]
  · rw [Dev.zd_congr (a := d.journal (.zstate z.nsx ix zOff z.wp)) (by simp only [Dev.onWr_media, Dev.dropEntries, hzt]), journal_zd]
  · simp only [Journaled, Dev.onWr_media, Dev.dropEntries, hjournal]
    exact journal_journaled _ _

theorem offlineZone_readOnly (hz : ZoneOn h a n s) (hix : n.base + (n.zoneOf a.slba).1 = ix) (hst : (s.dev.zd ix).st = zRO) :
    Gives (.offlineZone h a) s (fun d =>
      d.zd ix = { s.dev.zd ix with st := zOff } ∧ (∀ k, k ≠ ix → d.zd k = s.dev.zd k) ∧
      Journaled d (.zstate (s.dev.zd ix).nsx ix zOff (s.dev.zd ix).wp) ∧ d.wr.resv = s.dev.wr.resv.filter (· != ix) ∧
      d.wr.fold = s.dev.wr.fold.flatMap (cutFold (s.dev.zd ix).nsx a.slba (a.slba + zsze (s.dev.zd ix).seven)) ∧
      Sent s.dev d [cqeOf h .success] ∧
      FrameHost h.fn [.wr, .media, .mules, .pair, .host, .fw, .tor, .pins] [A.PAIR_CNT 0, A.SB_ALERTSRC] s.dev d) := by
  subst hix
  refine gives_io (exec_offlineZone s h a) hz.1 ?_
  rw [zoneCmd_one (c := .offlineZ) hz (by decide), Dev.zoneRun, zoneAct_done (zoneCheck_one hz) hz.2.1 (zOffline_readOnly hst)]
  obtain ⟨hkeeps, hresv, hfold, hzd, hlog⟩ :=
    releaseZone_effect (Q := pensOf h.fn s.dev) s.dev (n.base + (n.zoneOf a.slba).1) a.slba
  have hall : Keeps (pensOf h.fn s.dev) [.wr, .media, .mules, .pair, .fw, .tor, .pins] [A.PAIR_CNT 0, A.SB_ALERTSRC] s.dev _ :=
    ((hkeeps.mono).next (Keeps.setZd _ (n.base + (n.zoneOf a.slba).1)
      { s.dev.zd (n.base + (n.zoneOf a.slba).1) with st := zOff })).next (Keeps.capacityCheck _)
  refine ⟨?_, fun k hk => ?_, ?_, ?_, ?_, complete_after hall.mono (hall.parts .host (by decide)) hz.1.1.2 (by simp)⟩
  · rw [Dev.zd_congr (congrArg (·.zt) ((complete_media ..).trans (capacityCheck_media _))), setZd_zd_same]
    exact Zd.Fits.trim_eq { s.dev.zd_fits _ with st := (by decide : zOff < 16) }
  · rw [Dev.zd_congr (congrArg (·.zt) ((complete_media ..).trans (capacityCheck_media _))), setZd_zd_ne _ hk, hzd]
  · rw [Journaled, complete_media, capacityCheck_media]
    exact setZd_journaled hlog _ _
  · rw [complete_wr, capacityCheck_wr, setZd_wr, hresv]
  · rw [complete_wr, capacityCheck_wr, setZd_wr, hfold]

end Sys2Proof
end

section
/-! Finish Zone (R46, R50): what is not acknowledged fails, zeros fill the rest of the last group, and the zone is Full. -/

namespace Sys2Proof

open Machine

variable {s : State} {h : Hdr} {a : ZoneArg} {n : Ns} {d e : Dev} {ix : Nat} {Q : Nat → Prop}

/-- Entries leave the buffer, and each command fails with Zone Is Full. -/
def failLost (d : Dev) (l : List Entry) : Dev := d.each l (fun d e => (d.removeEntries (fun x => x.id == e.id)).failCmd e.h .zoneFull)

theorem Keeps.failLost (d : Dev) (l : List Entry) : Keeps (fun _ => True) [.wr, .host] [] d (failLost d l) :=
  Keeps.each d (fun x _ e _ => ((Keeps.onWr e _).mono).next (Keeps.failCmd _ x.h (fun _ _ => trivial) .zoneFull))

theorem failLost_sent (l : List Entry) (d : Dev) (hpost : d.host.stopped = false) :
    Sent d (failLost d l) (l.map (fun e => cqeOf e.h .zoneFull)) := by
  unfold failLost Dev.each
  induction l generalizing d with
  | nil => exact (List.append_nil _).symm
  | cons x t ih =>
    have hx : Sent d ((d.removeEntries (fun y => y.id == x.id)).failCmd x.h .zoneFull) [cqeOf x.h .zoneFull] :=
      (failCmd_refused (d := d.removeEntries (fun y => y.id == x.id)) hpost rfl).1
    have hstop := (Keeps.failCmd (Q := fun _ => True) (d.removeEntries (fun y => y.id == x.id)) x.h (fun _ _ => trivial) .zoneFull).stopped
    have ht := ih ((d.removeEntries (fun y => y.id == x.id)).failCmd x.h .zoneFull) (hstop.trans hpost)
    rw [Sent] at hx ht ⊢
    rw [List.foldl_cons, ht, hx, List.append_assoc]
    rfl

theorem Keeps.fillZero (d : Dev) (n : Ns) (zs o gen : Nat) : Keeps Q [.wr] [] d (d.fillZero n zs o gen) := by
  unfold Dev.fillZero
  exact Keeps.onWr d _

/-- Zeros stand in the buffer at some offsets of a zone. -/
def fillZeros (d : Dev) (n : Ns) (zs gen : Nat) (l : List Nat) : Dev := d.each l (fun d o => d.fillZero n zs o gen)

theorem Keeps.fillZeros (d : Dev) (n : Ns) (zs gen : Nat) (l : List Nat) : Keeps Q [.wr] [] d (fillZeros d n zs gen l) :=
  Keeps.each d (fun o _ e _ => Keeps.fillZero e n zs o gen)

/-- The reservation of a Full zone goes where nothing needs it. -/
theorem Keeps.dropResv (d : Dev) (ix : Nat) : Keeps Q [.wr] [] d (d.dropResv ix) := by
  unfold Dev.dropResv
  dsimp only
  split
  · exact Keeps.onWr d _
  · exact Keeps.refl d

theorem dropResv_media (d : Dev) (ix : Nat) : (d.dropResv ix).media = d.media :=
  (Keeps.dropResv (Q := fun _ => True) d ix).parts .media (by decide)

/-- A Full zone after its last group: written, recorded, and its groups started. -/
def fullUp (d : Dev) (ix zs top : Nat) (z : Zd) : Dev :=
  let e := ((d.setZd ix { z with st := zFull, wp := zcap z.seven }).journal (.zstate z.nsx ix zFull (zcap z.seven))).issueAll ix zs top
  ((e.onMedia (fun m => { m with lru := m.lru.filter (· != ix) })).dropResv ix).capacityCheck

theorem Calm.dropLru (d : Dev) (ix : Nat) : Calm d (d.onMedia (fun m => { m with lru := m.lru.filter (· != ix) })) :=
  Calm.onMedia d rfl rfl rfl rfl (List.Subset.refl _)

theorem Keeps.fullUp (d : Dev) (ix zs top : Nat) (z : Zd) :
    Keeps Q [.wr, .media, .mules, .pair, .fw, .tor, .pins] [A.PAIR_CNT 0, A.SB_ALERTSRC] d (fullUp d ix zs top z) := by
  unfold Sys2Proof.fullUp
  dsimp only
  have hset : Keeps Q [.wr, .media, .mules, .pair, .fw, .tor, .pins] [A.PAIR_CNT 0, A.SB_ALERTSRC] d _ :=
    ((Keeps.setZd d ix { z with st := zFull, wp := zcap z.seven }).mono).next (Keeps.journal _ (.zstate z.nsx ix zFull (zcap z.seven)))
  exact ((hset.next ((Calm.issueAll _ ix zs top).trans (Calm.dropLru _ ix)).keeps).next (Keeps.dropResv _ ix)).next (Keeps.capacityCheck _)

/-- The steps after the record leave descriptors and journal alone. -/
theorem fullUp_media (d : Dev) (ix zs top : Nat) (z : Zd) :
    (fullUp d ix zs top z).media.zt =
        ((d.setZd ix { z with st := zFull, wp := zcap z.seven }).journal (.zstate z.nsx ix zFull (zcap z.seven))).media.zt ∧
      (fullUp d ix zs top z).media.journal =
        ((d.setZd ix { z with st := zFull, wp := zcap z.seven }).journal (.zstate z.nsx ix zFull (zcap z.seven))).media.journal := by
  simp only [fullUp]
  generalize (d.setZd ix { z with st := zFull, wp := zcap z.seven }).journal (.zstate z.nsx ix zFull (zcap z.seven)) = e
  have hcalm := (Calm.issueAll e ix zs top).trans (Calm.dropLru _ ix)
  rw [capacityCheck_media, dropResv_media]
  exact ⟨hcalm.zt, hcalm.journal⟩

theorem zcap_lt (seven : Bool) : zcap seven < 2 ^ 18 := by cases seven <;> decide

theorem fullUp_effect (d : Dev) (ix zs top : Nat) :
    (fullUp d ix zs top (d.zd ix)).zd ix = { d.zd ix with st := zFull, wp := zcap (d.zd ix).seven } ∧
      (∀ k, k ≠ ix → (fullUp d ix zs top (d.zd ix)).zd k = d.zd k) ∧
      Journaled (fullUp d ix zs top (d.zd ix)) (.zstate (d.zd ix).nsx ix zFull (zcap (d.zd ix).seven)) := by
  obtain ⟨hzt, hjournal⟩ := fullUp_media d ix zs top (d.zd ix)
  refine ⟨?_, fun k hk => ?_, ?_⟩
  · rw [Dev.zd_congr hzt, journal_zd, setZd_zd_same]
    exact Zd.Fits.trim_eq { d.zd_fits ix with st := (by decide : zFull < 16), wp := zcap_lt _ }
  · rw [Dev.zd_congr hzt, journal_zd, setZd_zd_ne _ hk]
  · rw [Journaled, hjournal]
    exact journal_journaled _ _

/-- The writes of a zone that have been admitted and not acknowledged. -/
def lostIn (d : Dev) (nsx zs : Nat) : List Entry := d.wr.entries.filter (fun e => e.zoned && e.nsx == nsx && e.zone == zs && !e.acked)

theorem zFinish_active {zs : Nat} {m : Ns} (hact : (d.zd ix).active = true)
    (hns : d.media.nss.find? (fun x => x.nsx == (d.zd ix).nsx) = some m) :
    ∃ l top, d.zFinish ix zs =
      (fullUp (fillZeros (failLost d (lostIn d (d.zd ix).nsx zs)) m zs (d.zd ix).zseq l) ix zs top (d.zd ix), none) := by
  have hfull : (d.zd ix).st ≠ zFull := by
    intro hst
    rcases Zd.active_iff.mp hact with hopen | hclosed
    · exact absurd hopen (by rw [Zd.opened_false hst (by decide) (by decide)]; decide)
    · exact absurd (hst.symm.trans hclosed) (by decide)
  unfold Dev.zFinish failLost lostIn fillZeros fullUp
  dsimp only
  rw [if_neg hfull, if_neg (by simp [hact]), hns]
  exact ⟨_, _, rfl⟩

theorem zFinish_full {zs : Nat} (hst : (d.zd ix).st = zFull) : d.zFinish ix zs = (d, none) := by
  unfold Dev.zFinish
  exact if_pos hst

theorem zFinish_other {zs : Nat} (hact : (d.zd ix).active = false) (hst : (d.zd ix).st ≠ zFull) :
    d.zFinish ix zs = (d, some .zoneTransition) := by
  unfold Dev.zFinish
  dsimp only
  rw [if_neg hst, if_pos (by simp [hact])]

theorem finishZone_active (hz : ZoneOn h a n s) (hix : n.base + (n.zoneOf a.slba).1 = ix) {m : Ns} (hact : (s.dev.zd ix).active = true)
    (hns : s.dev.media.nss.find? (fun m => m.nsx == (s.dev.zd ix).nsx) = some m) :
    Gives (.finishZone h a) s (fun d =>
      d.zd ix = { s.dev.zd ix with st := zFull, wp := zcap (s.dev.zd ix).seven } ∧ (∀ k, k ≠ ix → d.zd k = s.dev.zd k) ∧
      Journaled d (.zstate (s.dev.zd ix).nsx ix zFull (zcap (s.dev.zd ix).seven)) ∧
      Sent s.dev d ((lostIn s.dev (s.dev.zd ix).nsx a.slba).map (fun e => cqeOf e.h .zoneFull) ++ [cqeOf h .success]) ∧
      FrameLog [.wr, .media, .mules, .pair, .host, .fw, .tor, .pins] [A.PAIR_CNT 0, A.SB_ALERTSRC] s.dev d) := by
  subst hix
  obtain ⟨l, top, hrun⟩ := zFinish_active (zs := a.slba) hact hns
  refine gives_io (exec_finishZone s h a) hz.1 ?_
  rw [zoneCmd_one (c := .finishZ) hz (by decide), Dev.zoneRun, zoneAct_done (zoneCheck_one hz) hz.2.1 hrun]
  generalize n.base + (n.zoneOf a.slba).1 = ix at *
  have hlost := Keeps.failLost s.dev (lostIn s.dev (s.dev.zd ix).nsx a.slba)
  have hsent := failLost_sent (lostIn s.dev (s.dev.zd ix).nsx a.slba) s.dev hz.1.1.2
  generalize failLost s.dev (lostIn s.dev (s.dev.zd ix).nsx a.slba) = e at *
  have hfill := Keeps.fillZeros (Q := fun _ => True) e m a.slba (s.dev.zd ix).zseq l
  generalize fillZeros e m a.slba (s.dev.zd ix).zseq l = f at *
  have hzd : ∀ k, f.zd k = s.dev.zd k := fun k =>
    Dev.zd_congr (congrArg (·.zt) ((hfill.parts .media (by decide)).trans (hlost.parts .media (by decide)))) k
  have hfull := Keeps.fullUp (Q := fun _ => True) f ix a.slba top (f.zd ix)
  obtain ⟨hsame, hother, hlog⟩ := fullUp_effect f ix a.slba top
  rw [hzd ix] at hfull hsame hother hlog
  generalize fullUp f ix a.slba top (s.dev.zd ix) = g at *
  have hall : Keeps (fun _ => True) [.wr, .media, .mules, .pair, .host, .fw, .tor, .pins] [A.PAIR_CNT 0, A.SB_ALERTSRC] s.dev g :=
    ((hlost.mono).next hfill).next hfull
  have hout : g.host.out = s.dev.host.out ++ (lostIn s.dev (s.dev.zd ix).nsx a.slba).map (fun e => cqeOf e.h .zoneFull) :=
    (congrArg Machine.HostIf.out ((hfull.parts .host (by decide)).trans (hfill.parts .host (by decide)))).trans hsent
  refine ⟨?_, fun k hk => ?_, ?_, ?_, ?_⟩
  · rw [Dev.zd_congr (congrArg (·.zt) (complete_media ..)), hsame]
  · rw [Dev.zd_congr (congrArg (·.zt) (complete_media ..)), hother k hk, hzd]
  · rw [Journaled, complete_media]
    exact hlog
  · have hend := complete_sent (hall.stopped.trans hz.1.1.2) h .success false 0 0
    rw [Sent] at hend ⊢
    rw [hend, hout, List.append_assoc]
    rfl
  · exact (hall.next (Keeps.complete g h (fun _ _ => trivial) .success false 0 0)).frameLog

theorem finishZone_full (hz : ZoneOn h a n s) (hix : n.base + (n.zoneOf a.slba).1 = ix) (hst : (s.dev.zd ix).st = zFull) :
    Gives (.finishZone h a) s (fun d => Sent s.dev d [cqeOf h .success] ∧ FrameHost h.fn [.host] [] s.dev d) := by
  subst hix
  exact zone_unchanged hz (exec_finishZone s h a) (zoneCmd_one (c := .finishZ) hz (by decide)) (zFinish_full hst)

theorem finishZone_transition (hz : ZoneOn h a n s) (hix : n.base + (n.zoneOf a.slba).1 = ix) (hact : (s.dev.zd ix).active = false)
    (hst : (s.dev.zd ix).st ≠ zFull) :
    Gives (.finishZone h a) s (fun d => Sent s.dev d [cqeOf h .zoneTransition] ∧ FrameHost h.fn [.host] [] s.dev d) := by
  subst hix
  exact zone_refused hz (exec_finishZone s h a) (zoneCmd_one (c := .finishZ) hz (by decide)) (zFinish_other hact hst) rfl

end Sys2Proof
end

section
/-! Reset Zone (R46, R53, R130): the record first, then Empty with the next generation; the row goes back, and pools that are short take
zones Offline. -/

namespace Sys2Proof

open Machine

variable {s : State} {h : Hdr} {a : ZoneArg} {n : Ns} {d e : Dev} {ix : Nat} {Q : Nat → Prop}

theorem exec_resetZone (s : State) (h : Hdr) (a : ZoneArg) :
    exec (.resetZone h a) s = ioDo h s (fun d => d.zoneCmd .resetZ h a) := rfl

theorem Keeps.completeAll (d : Dev) (l : List Hdr) (st : Status) (dnr : Bool) :
    Keeps (fun _ => True) [.host] [] d (d.completeAll l st dnr) :=
  Keeps.each d (fun h _ e _ => Keeps.complete e h (fun _ _ => trivial) st dnr 0 0)

/-- The writes of a zone that are not acknowledged end, and leave the buffer. -/
theorem endUnacked_effect (d : Dev) (nsx zs : Nat) (st : Status) :
    Keeps (fun _ => True) [.wr, .host] [] d (d.endUnacked nsx zs st) ∧ (d.endUnacked nsx zs st).media = d.media ∧
      (d.endUnacked nsx zs st).wr.fold = d.wr.fold ∧
      (d.endUnacked nsx zs st).wr.entries =
        d.wr.entries.filter (fun e => !(e.zoned && e.nsx == nsx && e.zone == zs && !e.acked)) := by
  simp only [Dev.endUnacked]
  have hend := Keeps.completeAll (d.onWr (fun w =>
      { w with entries := w.entries.filter (fun e => !(e.zoned && e.nsx == nsx && e.zone == zs && !e.acked)) }))
    ((d.wr.entries.filter (fun e => e.zoned && e.nsx == nsx && e.zone == zs && !e.acked)).map (·.h)) st false
  have hwr := hend.parts .wr (by decide)
  exact ⟨((Keeps.onWr d _).mono).next hend, hend.parts .media (by decide), congrArg (·.fold) hwr, congrArg (·.entries) hwr⟩

/-- The row of a zone that had one goes back: queued for its erase, and while it is whole in its pool again. -/
def rowBack (d : Dev) (had seven : Bool) (row : Row) : Dev :=
  let e := if had then d.queueErase row else d
  if had && !e.rowDead row then e.setPool seven (e.pool seven ++ [row]) else e

theorem Calm.rowBack (d : Dev) (had seven : Bool) (row : Row) : Calm d (rowBack d had seven row) := by
  have herase : Calm d (if had then d.queueErase row else d) := by
    split
    · exact Calm.queueErase d row
    · exact Calm.refl d
  rw [Sys2Proof.rowBack]
  generalize (if had = true then d.queueErase row else d) = e at *
  split
  · exact herase.trans (Calm.setPool _ _ _)
  · exact herase

theorem rowBack_mem (d : Dev) (seven : Bool) (row : Row) : { row with dirty := true } ∈ (rowBack d true seven row).media.eraseQ := by
  simp only [rowBack, if_true]
  split
  · exact (Calm.setPool _ _ _).eraseQ (queueErase_mem d row)
  · exact queueErase_mem d row

/-- A reset up to its record, with the old row back where there was one. -/
def resetStart (d : Dev) (ix zs : Nat) : Dev :=
  let z := d.zd ix
  let e := (d.endUnacked z.nsx zs .zoneInvalidWrite).journal (.zreset z.nsx ix (nextGen z.zseq) z.group z.lbn)
  rowBack e (z.active || decide (z.st = zFull)) z.seven (e.rowOf z.seven z.group z.lbn)

/-- The descriptor of a zone after its reset. -/
def Machine.Zd.emptied (z : Zd) : Zd := { z with st := zEmpty, wp := 0, fp := 0, zseq := nextGen z.zseq, group := 0, lbn := 0 }

/-- The zone is emptied: its copies are released, and its descriptor is that of an Empty zone. -/
def zoneEmptied (d : Dev) (ix zs : Nat) : Dev :=
  let z := d.zd ix
  let lo := zs
  let hi := zs + zsze z.seven
  let e := ((resetStart d ix zs).dropEntries z.nsx lo hi).dropFold z.nsx lo hi
  let e := e.onWr (fun w => { w with resv := w.resv.filter (· != ix), groups := w.groups.filter (fun g => decide (g.ix ≠ ix)) })
  (e.onMedia (fun m => { m with lru := m.lru.filter (· != ix) })).setZd ix z.emptied

theorem resetStart_effect (d : Dev) (ix zs : Nat) :
    Keeps (fun _ => True) [.wr, .media, .mules, .pair, .host] [A.PAIR_CNT 0] d (resetStart d ix zs) ∧
      (∀ k, (resetStart d ix zs).zd k = d.zd k) ∧ (resetStart d ix zs).wr.fold = d.wr.fold ∧
      (resetStart d ix zs).wr.entries =
        d.wr.entries.filter (fun e => !(e.zoned && e.nsx == (d.zd ix).nsx && e.zone == zs && !e.acked)) ∧
      (JournalOk d → ∃ r ∈ (resetStart d ix zs).media.journal,
        r.body = .zreset (d.zd ix).nsx ix (nextGen (d.zd ix).zseq) (d.zd ix).group (d.zd ix).lbn ∧
        (resetStart d ix zs).media.ckptSeq < r.seq) ∧
      ((d.zd ix).active = true ∨ (d.zd ix).st = zFull → ∃ r ∈ (resetStart d ix zs).media.eraseQ,
        r.seven = (d.zd ix).seven ∧ r.group = (d.zd ix).group ∧ r.lbn = (d.zd ix).lbn ∧ r.dirty = true) := by
  rw [resetStart]
  generalize d.zd ix = z
  obtain ⟨hend, hmedia, hfold, hentries⟩ := endUnacked_effect d z.nsx zs .zoneInvalidWrite
  generalize d.endUnacked z.nsx zs .zoneInvalidWrite = e at *
  have hlog := Keeps.journal (Q := fun _ => True) e (.zreset z.nsx ix (nextGen z.zseq) z.group z.lbn)
  have hnew := fun hok => journal_new (d := e) hok (.zreset z.nsx ix (nextGen z.zseq) z.group z.lbn)
  have hzd := fun k => (journal_zd e (.zreset z.nsx ix (nextGen z.zseq) z.group z.lbn) k).trans (Dev.zd_congr (congrArg (·.zt) hmedia) k)
  have hwr := journal_wr e (.zreset z.nsx ix (nextGen z.zseq) z.group z.lbn)
  generalize e.journal (.zreset z.nsx ix (nextGen z.zseq) z.group z.lbn) = f at *
  have hback := Calm.rowBack f (z.active || decide (z.st = zFull)) z.seven (f.rowOf z.seven z.group z.lbn)
  refine ⟨((hend.mono).next hlog).next hback.keeps, fun k => (hback.zd k).trans (hzd k), ?_, ?_, fun hok => ?_, fun hhad => ?_⟩
  · rw [hback.fold, hwr, hfold]
  · rw [hback.entries, hwr, hentries]
  · rw [hback.journal, hback.ckpt]
    exact hnew (by rw [JournalOk, hmedia]; exact hok)
  · rw [show (z.active || decide (z.st = zFull)) = true by simpa using hhad]
    exact ⟨_, rowBack_mem f z.seven (f.rowOf z.seven z.group z.lbn), rfl, rfl, rfl, rfl⟩

theorem nextGen_lt {g : Nat} (h : g < 2 ^ 32) : nextGen g < 2 ^ 32 := by
  unfold nextGen
  split <;> omega

theorem zoneEmptied_effect (d : Dev) (ix zs : Nat) :
    Keeps (fun _ => True) [.wr, .media, .mules, .pair, .host] [A.PAIR_CNT 0] d (zoneEmptied d ix zs) ∧
      (zoneEmptied d ix zs).zd ix = (d.zd ix).emptied ∧
      (zoneEmptied d ix zs).wr.fold = d.wr.fold.flatMap (cutFold (d.zd ix).nsx zs (zs + zsze (d.zd ix).seven)) ∧
      (zoneEmptied d ix zs).wr.entries =
        (d.wr.entries.filter (fun e => !(e.zoned && e.nsx == (d.zd ix).nsx && e.zone == zs && !e.acked))).flatMap
          (cutEntry (d.zd ix).nsx zs (zs + zsze (d.zd ix).seven)) ∧
      (JournalOk d → ∃ r ∈ (zoneEmptied d ix zs).media.journal,
        r.body = .zreset (d.zd ix).nsx ix (nextGen (d.zd ix).zseq) (d.zd ix).group (d.zd ix).lbn ∧
        (zoneEmptied d ix zs).media.ckptSeq < r.seq) ∧
      ((d.zd ix).active = true ∨ (d.zd ix).st = zFull → ∃ r ∈ (zoneEmptied d ix zs).media.eraseQ,
        r.seven = (d.zd ix).seven ∧ r.group = (d.zd ix).group ∧ r.lbn = (d.zd ix).lbn ∧ r.dirty = true) := by
  obtain ⟨hstart, -, hfold, hentries, hrecord, herase⟩ := resetStart_effect d ix zs
  have hfits := d.zd_fits ix
  rw [zoneEmptied]
  generalize resetStart d ix zs = e at *
  generalize d.zd ix = z at *
  obtain ⟨hdrop, hdfold, -, hdentries, -, hdjournal, hdckpt, hderase⟩ :=
    dropFold_effect (Q := fun _ => True) (e.dropEntries z.nsx zs (zs + zsze z.seven)) z.nsx zs (zs + zsze z.seven)
  generalize hf : (e.dropEntries z.nsx zs (zs + zsze z.seven)).dropFold z.nsx zs (zs + zsze z.seven) = f at *
  have hlru := Calm.dropLru (f.onWr (fun w =>
    { w with resv := w.resv.filter (· != ix), groups := w.groups.filter (fun g => decide (g.ix ≠ ix)) })) ix
  have hset : Keeps (fun _ => True) [.wr, .media, .mules, .pair, .host] [A.PAIR_CNT 0] d f :=
    (hstart.next (Keeps.dropEntries e ..)).next hdrop
  refine ⟨((hset.next (Keeps.onWr f _)).next hlru.keeps).next (Keeps.setZd _ _ _), ?_, ?_, ?_, fun hok => ?_, fun hhad => ?_⟩
  · rw [setZd_zd_same]
    exact Zd.Fits.trim_eq { hfits with
      st := (by decide : zEmpty < 16), wp := (by decide : 0 < 2 ^ 18), fp := (by decide : 0 < 2 ^ 18), zseq := nextGen_lt hfits.zseq
      group := (by decide : 0 < 256), lbn := (by decide : 0 < 16384) }
  · rw [setZd_wr, hlru.fold, Dev.onWr_wr, hdfold]
    exact congrArg _ hfold
  · rw [setZd_wr, hlru.entries, Dev.onWr_wr, hdentries]
    exact congrArg (List.flatMap _) hentries
  · rw [setZd_media, hlru.journal, hlru.ckpt, Dev.onWr_media, hdjournal, hdckpt]
    exact hrecord hok
  · rw [setZd_media]
    obtain ⟨r, hr, hrow⟩ := herase hhad
    exact ⟨r, hlru.eraseQ (hderase hr), hrow⟩

/-- What follows the descriptor: backing and capacity. -/
def backUp (d : Dev) (ix : Nat) (seven : Bool) : Dev :=
  let e := (d.backing seven).capacityCheck
  if (e.zd ix).st = zEmpty then e.capacityBack else e

theorem backUp_effect (d : Dev) (ix : Nat) (seven : Bool) :
    Keeps (fun _ => True) [.wr, .media, .mules, .pair, .host, .fw, .tor, .pins] [A.PAIR_CNT 0, A.SB_ALERTSRC] d (backUp d ix seven) ∧
      (backUp d ix seven).media = (d.backing seven).media ∧ (backUp d ix seven).wr = (d.backing seven).wr := by
  have hcheck : Keeps (fun _ => True) [.wr, .media, .mules, .pair, .host, .fw, .tor, .pins] [A.PAIR_CNT 0, A.SB_ALERTSRC] d
      (d.backing seven).capacityCheck := ((Backed.backing ix d seven).keeps.mono).next (Keeps.capacityCheck _)
  rw [backUp]
  split
  · exact ⟨hcheck.next (Keeps.capacityBack _), (capacityBack_media _).trans (capacityCheck_media _),
      (capacityBack_wr _).trans (capacityCheck_wr _)⟩
  · exact ⟨hcheck, capacityCheck_media _, capacityCheck_wr _⟩

/-- A reset is the emptying of the zone, and then the backing of its stripe type. -/
theorem resetZone_eq (d : Dev) (ix zs : Nat) : d.resetZone ix zs = backUp (zoneEmptied d ix zs) ix (d.zd ix).seven := rfl

theorem zReset_done {zs : Nat} (hst : (d.zd ix).active = true ∨ (d.zd ix).st = zEmpty ∨ (d.zd ix).st = zFull) :
    d.zReset ix zs = (d.resetZone ix zs, none) := by
  unfold Dev.zReset
  exact if_pos (by simpa [or_assoc] using hst)

theorem zReset_other {zs : Nat} (hact : (d.zd ix).active = false) (hempty : (d.zd ix).st ≠ zEmpty) (hfull : (d.zd ix).st ≠ zFull) :
    d.zReset ix zs = (d, some .zoneTransition) := by
  unfold Dev.zReset
  exact if_neg (by simp [hact, hempty, hfull])

theorem resetZone_transition (hz : ZoneOn h a n s) (hix : n.base + (n.zoneOf a.slba).1 = ix)
    (hreads : s.dev.readsIn n (fun k => k == (n.zoneOf a.slba).1) = false) (hact : (s.dev.zd ix).active = false)
    (hempty : (s.dev.zd ix).st ≠ zEmpty) (hfull : (s.dev.zd ix).st ≠ zFull) :
    Gives (.resetZone h a) s (fun d => Sent s.dev d [cqeOf h .zoneTransition] ∧ FrameHost h.fn [.host] [] s.dev d) := by
  subst hix
  exact zone_refused hz (exec_resetZone s h a) (zoneCmd_reset hz hreads) (zReset_other hact hempty hfull) rfl

/-- A reset waits for the reads of its zone that came before it (R46). -/
theorem resetZone_waits (hz : ZoneOn h a n s) (hreads : s.dev.readsIn n (fun k => k == (n.zoneOf a.slba).1) = true) :
    Gives (.resetZone h a) s (fun d => d.wr = { s.dev.wr with zwait := [(.resetZ, h, a)] } ∧ Frame [.wr] [] s.dev d) := by
  obtain ⟨hio, hall, hchk, hwait⟩ := hz
  refine gives_io (exec_resetZone s h a) hio ?_
  have hwaits : s.dev.zoneWaits .resetZ h a = true := by
    simp only [Dev.zoneWaits, hall, hchk, Bool.false_or, decide_true, Bool.true_and, hreads, Bool.or_true]
  rw [Dev.zoneCmd, if_pos hwaits]
  refine ⟨?_, (Frame.refl _ _ _).onWr List.mem_cons_self⟩
  rw [Dev.onWr_wr, hwait, List.nil_append]

theorem resetZone_done (hz : ZoneOn h a n s) (hix : n.base + (n.zoneOf a.slba).1 = ix)
    (hreads : s.dev.readsIn n (fun k => k == (n.zoneOf a.slba).1) = false)
    (hst : (s.dev.zd ix).active = true ∨ (s.dev.zd ix).st = zEmpty ∨ (s.dev.zd ix).st = zFull) :
    Gives (.resetZone h a) s (fun d =>
      ((d.zd ix).st = zEmpty ∨ (d.zd ix).st = zOff) ∧ (d.zd ix).wp = 0 ∧ (d.zd ix).fp = 0 ∧
      (d.zd ix).zseq = nextGen (s.dev.zd ix).zseq ∧
      d.wr.entries = (s.dev.wr.entries.filter (fun e =>
        !(e.zoned && e.nsx == (s.dev.zd ix).nsx && e.zone == a.slba && !e.acked))).flatMap
          (cutEntry (s.dev.zd ix).nsx a.slba (a.slba + zsze (s.dev.zd ix).seven)) ∧
      d.wr.fold = s.dev.wr.fold.flatMap (cutFold (s.dev.zd ix).nsx a.slba (a.slba + zsze (s.dev.zd ix).seven)) ∧
      (JournalOk s.dev → ∃ r ∈ d.media.journal,
        r.body = .zreset (s.dev.zd ix).nsx ix (nextGen (s.dev.zd ix).zseq) (s.dev.zd ix).group (s.dev.zd ix).lbn) ∧
      ((s.dev.zd ix).st ≠ zEmpty → ∃ r ∈ d.media.eraseQ,
        r.seven = (s.dev.zd ix).seven ∧ r.group = (s.dev.zd ix).group ∧ r.lbn = (s.dev.zd ix).lbn ∧ r.dirty = true) ∧
      d.host.out.getLast? = some (cqeOf h .success) ∧
      FrameLog [.wr, .media, .mules, .pair, .host, .fw, .tor, .pins] [A.PAIR_CNT 0, A.SB_ALERTSRC] s.dev d) := by
  subst hix
  refine gives_io (exec_resetZone s h a) hz.1 ?_
  rw [zoneCmd_reset hz hreads, Dev.zoneRun, zoneAct_done (zoneCheck_one hz) hz.2.1 (zReset_done hst), resetZone_eq]
  generalize n.base + (n.zoneOf a.slba).1 = ix at *
  obtain ⟨hempty, hzd, hfold, hentries, hrecord, herase⟩ := zoneEmptied_effect s.dev ix a.slba
  generalize zoneEmptied s.dev ix a.slba = e at *
  have hback := Backed.backing ix e (s.dev.zd ix).seven
  obtain ⟨hup, hmedia, hwr⟩ := backUp_effect e ix (s.dev.zd ix).seven
  generalize backUp e ix (s.dev.zd ix).seven = f at *
  have hall : Keeps (fun _ => True) [.wr, .media, .mules, .pair, .host, .fw, .tor, .pins] [A.PAIR_CNT 0, A.SB_ALERTSRC] s.dev f :=
    (hempty.mono).next hup
  have hend : (f.complete h .success).zd ix = (s.dev.zd ix).emptied ∨
      (f.complete h .success).zd ix = { (s.dev.zd ix).emptied with st := zOff } := by
    rw [Dev.zd_congr (congrArg (·.zt) ((complete_media ..).trans hmedia)), ← hzd]
    exact hback.zd
  refine ⟨?_, ?_, ?_, ?_, ?_, ?_, fun hok => ?_, fun hne => ?_, ?_, ?_⟩
  · rcases hend with hend | hend
    · exact .inl (by rw [hend]; rfl)
    · exact .inr (by rw [hend])
  · rcases hend with hend | hend <;> rw [hend] <;> rfl
  · rcases hend with hend | hend <;> rw [hend] <;> rfl
  · rcases hend with hend | hend <;> rw [hend] <;> rfl
  · rw [complete_wr, hwr, hback.entries, hentries]
  · rw [complete_wr, hwr, hback.fold, hfold]
  · rw [complete_media, hmedia]
    obtain ⟨r, hr, hbody, hseq⟩ := hrecord hok
    exact ⟨r, hback.records r hr hseq, hbody⟩
  · rw [complete_media, hmedia]
    obtain ⟨r, hr, hrow⟩ := herase (hst.imp_right (fun ho => ho.resolve_left hne))
    exact ⟨r, hback.eraseQ hr, hrow⟩
  · have hsent := complete_sent (hall.stopped.trans hz.1.1.2) h .success false 0 0
    rw [hsent, List.getLast?_append]
    rfl
  · exact (hall.next (Keeps.complete f h (fun _ _ => trivial) .success false 0 0)).frameLog

end Sys2Proof
end

section
/-! Report Zones, Select All, the checks of the zone commands (R43, R61), and O29 as a whole. -/

namespace Sys2Proof

open Machine

variable {s : State} {h : Hdr} {a : ZoneArg} {n : Ns} {d : Dev} {Q : Nat → Prop}

/-! Report Zones. -/

theorem exec_reportZones (s : State) (h : Hdr) (nsid slba k : Nat) (part : Bool) :
    exec (.reportZones h nsid slba k part) s = ioDo h s (fun d => d.report h nsid slba k part) := rfl

theorem Keeps.markData (d : Dev) (h : Hdr) (hq : ∀ p, d.penOf h.fn.val = some p → Q p) : Keeps Q [] [] d (d.markData h) := by
  unfold Dev.markData
  split
  · exact Keeps.markPages d hq _
  · exact Keeps.refl d

theorem Keeps.send (d : Dev) (h : Hdr) (hq : ∀ p, d.penOf h.fn.val = some p → Q p) (b : List Byte) :
    Keeps Q [.host] [] d (d.send h b) := by
  unfold Dev.send
  split
  · exact Keeps.refl d
  · exact ((Keeps.markData d h hq).mono).next (Keeps.onHost _ rfl)

theorem send_sent (hpost : d.host.stopped = false) (h : Hdr) (b : List Byte) : Sent d (d.send h b) [.bytes h b] := by
  unfold Sent Dev.send
  rw [if_neg (by simp [hpost])]
  exact congrArg (fun x => x.out ++ [.bytes h b])
    ((Keeps.markData (Q := fun _ => True) d h (fun _ _ => trivial)).parts .host List.not_mem_nil)

/-- Bytes for the host, and the completion after them. -/
theorem reply_done (hpost : d.host.stopped = false) (h : Hdr) (b : List Byte) :
    Sent d (d.reply h b) [.bytes h b, cqeOf h .success] ∧ FrameHost h.fn [.host] [] d (d.reply h b) := by
  unfold Dev.reply
  have hsend : Keeps (pensOf h.fn d) [.host] [] d (d.send h b) := Keeps.send d h (fun _ hp => hp) b
  constructor
  · have hcqe := complete_sent (hsend.stopped.trans hpost) h .success false 0 0
    have hbytes := send_sent hpost h b
    rw [Sent] at hcqe hbytes ⊢
    rw [hcqe, hbytes, List.append_assoc]
    rfl
  · exact (hsend.next (Keeps.complete _ h (fun p hp => (hsend.penOf _).symm.trans hp) .success false 0 0)).frameHost

theorem report_listed {nsid slba k : Nat} {part : Bool} (hchk : d.zoneCheck h nsid slba true = .ok n) (hin : slba < n.lbas) :
    d.report h nsid slba k part =
      let l := (d.zonesOf n (fun _ => true)).filter (fun ix => decide (n.base + slba / zsze n.seven ≤ ix))
      d.reply h (leBytes 8 (if part then (l.take k).length else l.length) ++ List.replicate 56 0 ++ (l.take k).flatMap d.zoneReport) := by
  unfold Dev.report
  rw [hchk]
  exact if_neg (Nat.not_le.mpr hin)

theorem report_beyond {nsid slba k : Nat} {part : Bool} (hchk : d.zoneCheck h nsid slba true = .ok n) (hout : n.lbas ≤ slba) :
    d.report h nsid slba k part = d.failCmd h .lbaRange := by
  unfold Dev.report
  rw [hchk]
  exact if_pos hout

theorem reportZones_holds (s : State) (h : Hdr) (nsid slba k : Nat) (part : Bool) (n : Ns) (hio : Io h s)
    (hchk : s.dev.zoneCheck h nsid slba true = .ok n) :
    (slba < n.lbas →
      Gives (.reportZones h nsid slba k part) s (fun d =>
        let l := (s.dev.zonesOf n (fun _ => true)).filter (fun ix => decide (n.base + slba / zsze n.seven ≤ ix))
        Sent s.dev d [.bytes h (leBytes 8 (if part then (l.take k).length else l.length) ++ List.replicate 56 0 ++
          (l.take k).flatMap s.dev.zoneReport), cqeOf h .success] ∧ FrameHost h.fn [.host] [] s.dev d)) ∧
    (n.lbas ≤ slba →
      Gives (.reportZones h nsid slba k part) s (fun d => Sent s.dev d [cqeOf h .lbaRange] ∧ FrameHost h.fn [.host] [] s.dev d)) := by
  refine ⟨fun hin => gives_io (exec_reportZones s h nsid slba k part) hio ?_,
    fun hout => gives_io (exec_reportZones s h nsid slba k part) hio ?_⟩
  · rw [report_listed hchk hin]
    exact reply_done hio.1.2 h _
  · rw [report_beyond hchk hout]
    exact failCmd_refused hio.1.2 rfl

/-! Checks and Select All. -/

theorem zoneRun_error {c : ZCmd} {st : Status} (hchk : d.zoneCheck h a.nsid a.slba a.all = .error st) :
    d.zoneRun c h a = d.failCmd h st := by
  cases c with
  | openZ => exact (openCmd_error hchk).trans (zoneAct_error hchk)
  | closeZ => exact zoneAct_error hchk
  | finishZ => exact zoneAct_error hchk
  | resetZ => exact zoneAct_error hchk
  | offlineZ => exact zoneAct_error hchk

/-- A zone command that fails its checks. -/
theorem zone_unchecked {i : Instr} {c : ZCmd} (he : exec i s = ioDo h s (fun d => d.zoneCmd c h a)) (hio : Io h s) {st : Status}
    (hchk : s.dev.zoneCheck h a.nsid a.slba a.all = .error st) :
    Gives i s (fun d => Sent s.dev d [.cqe { h := h, st := st, dnr := s.dev.dnr st, res0 := 0, res1 := 0 }] ∧
      FrameHost h.fn [.host] [] s.dev d) := by
  refine gives_io he hio ?_
  rw [zoneCmd_unchecked hchk, zoneRun_error hchk]
  exact ⟨failCmd_sent hio.1.2 h st, (Keeps.failCmd s.dev h (fun _ hp => hp) st).frameHost⟩

/-- Select All on a namespace without a zone in the states that the command acts on. -/
theorem zone_none {i : Instr} {c : ZCmd} {p : Zd → Bool} {f : Dev → Nat → Nat → Dev × Option Status}
    (he : exec i s = ioDo h s (fun d => d.zoneCmd c h a)) (hio : Io h s) (hall : a.all = true)
    (hchk : s.dev.zoneCheck h a.nsid a.slba true = .ok n) (hwait : s.dev.wr.zwait = []) (hreads : s.dev.readsIn n (fun _ => true) = false)
    (hrun : s.dev.zoneRun c h a = s.dev.zoneAct h a p f) (hnone : s.dev.zonesOf n p = []) :
    Gives i s (fun d => Sent s.dev d [cqeOf h .success] ∧ FrameHost h.fn [.host] [] s.dev d) := by
  have hchk' : s.dev.zoneCheck h a.nsid a.slba a.all = .ok n := by rw [hall]; exact hchk
  refine gives_io he hio ?_
  rw [zoneCmd_run hchk' hwait (fun _ => by simpa only [hall, Bool.true_or] using hreads), hrun, zoneAct_none hchk' hall hnone]
  exact complete_success hio.1.2

/-! O29. -/

/-- Settles O29: each command by its case of the zone's state. -/
theorem zoneCommands : Obligations.ZoneCommands := by
  unfold Obligations.ZoneCommands
  refine ⟨fun s h a n hz => ?_, fun s h a st hio hchk i hi => ?_, fun s h a n hio hall hchk hwait hreads c hc hnone => ?_,
    fun s h nsid slba k part n hio hchk => reportZones_holds s h nsid slba k part n hio hchk⟩
  · exact ⟨openZone_again hz rfl, fun r hst hroom hslot hrow hstale => openZone_waits hz rfl hst hroom hslot hrow hstale,
      fun r hst hroom hslot hrow hstale => openZone_fresh hz rfl hst hroom hslot hrow hstale, openZone_no_room hz rfl,
      openZone_no_slot hz rfl, openZone_transition hz rfl, closeZone_opened hz rfl, closeZone_closed hz rfl,
      closeZone_transition hz rfl, fun m hact hns => finishZone_active hz rfl hact hns, finishZone_full hz rfl,
      finishZone_transition hz rfl, resetZone_waits hz, resetZone_done hz rfl, resetZone_transition hz rfl,
      offlineZone_readOnly hz rfl, offlineZone_transition hz rfl⟩
  · simp only [List.mem_cons, List.not_mem_nil, or_false] at hi
    rcases hi with rfl | rfl | rfl | rfl | rfl
    · exact zone_unchecked (exec_openZone s h a) hio hchk
    · exact zone_unchecked (exec_closeZone s h a) hio hchk
    · exact zone_unchecked (exec_finishZone s h a) hio hchk
    · exact zone_unchecked (exec_resetZone s h a) hio hchk
    · exact zone_unchecked (exec_offlineZone s h a) hio hchk
  · have hopen := openCmd_all (d := s.dev) (h := h) (a := a) (n := n) (by rw [hall]; exact hchk) hall
    simp only [List.mem_cons, List.not_mem_nil, or_false] at hc
    rcases hc with rfl | rfl | rfl | rfl | rfl
    · exact zone_none (exec_openZone s h a) hio hall hchk hwait hreads hopen hnone
    · exact zone_none (exec_closeZone s h a) hio hall hchk hwait hreads rfl hnone
    · exact zone_none (exec_finishZone s h a) hio hall hchk hwait hreads rfl hnone
    · exact zone_none (exec_resetZone s h a) hio hall hchk hwait hreads rfl hnone
    · exact zone_none (exec_offlineZone s h a) hio hall hchk hwait hreads rfl hnone

end Sys2Proof
end

end

section
/-! A flash interface that is trained again (R111). A conversion that puts a case input 10 °C or more from the temperature at which the
interfaces of its channels were trained makes the firmware train them, and keep the new temperature. The clause of O11 on a flag that is
clear before the conversion lets nothing change but two registers. -/

namespace Sys2Proof

open Machine

/-- The interface of channel 0 was trained at 0 °C. -/
def trainedCold : State := { dev := Dev.cold.onMedia (fun m => { m with trained := [(0, 0)] }), pending := [] }

theorem exec_flashCaseConversion {s : State} (h : Running s) (k : Fin 16) (code : BitVec 10) (milli : Int) :
    exec (.flashCaseConversion k code milli) s = .next { s with dev := s.dev.flashCase k.val code.toNat milli } :=
  mainDo_running h (fun d => d.flashCase k.val code.toNat milli)

theorem trainedCold_running : Running trainedCold := rfl

theorem trainedCold_fwFlag : trainedCold.dev.fwFlag = false := rfl

/-- A reading of 20 °C: the interface is trained at it. -/
theorem trainedCold_flashCase_trained : SMap.find (trainedCold.dev.flashCase 0 0 20000).media.trained 0 = some 80 := by decide +kernel

/-- Refutes O11: a conversion that trains an interface again changes what the firmware keeps of its training, and the frame of the clause
keeps the media as they were. -/
theorem not_flashWindow : ¬ Obligations.FlashWindow := by
  unfold Obligations.FlashWindow
  intro hconv
  obtain ⟨-, -, -, hframe⟩ :=
    (hconv trainedCold 0 0 20000 trainedCold_running).holds_of_exec (exec_flashCaseConversion trainedCold_running 0 0 20000)
  obtain ⟨-, hparts, -⟩ := hframe (Or.inl trainedCold_fwFlag)
  have hmedia : (trainedCold.dev.flashCase 0 0 20000).media = trainedCold.dev.media := hparts .media List.not_mem_nil
  have htrained := trainedCold_flashCase_trained
  rw [hmedia] at htrained
  exact absurd htrained (by decide)

end Sys2Proof
end

section
/-! FLUSH_DONE during a flush (R150, R155). How many of the peer's entries the flush has programmed by then is a free value, which the frame
draws. The clause of O23 on FLUSH_DONE lets only the pair and the write buffer change. -/

namespace Sys2Proof

open Machine

/-- An entry of the peer without sectors. -/
def emptyMir : Mir := { m := { mseq := 1, nsx := 0, lba := 0, n := 0, pen := 0 }, secs := [], complete := true }

/-- The link is up, and the flush has an entry of the peer to program. -/
def peerFlushing : State :=
  { dev := ((Dev.cold.setFld A.PAIR_STAT 1 0 2).onTor (fun t => { t with latch := true })).onWr (fun w =>
      { w with flushPeer := [emptyMir] })
    pending := [] }

/-- The first frame of a link. -/
def firstFrame : FrameHdr := { fseq := 1, ackseq := 0 }

theorem exec_flushDone {s : State} (h : Running s) (f : FrameHdr) :
    exec (.flushDone f) s = .next { s with dev := s.dev.rx f Dev.gotFlushDone } :=
  mainDo_running h (fun d => d.rx f Dev.gotFlushDone)

theorem peerFlushing_inOrder : InOrder firstFrame peerFlushing := ⟨rfl, by decide +kernel, rfl, Or.inr rfl⟩

theorem peerFlushing_free : peerFlushing.dev.free = 0 := rfl

theorem peerFlushing_flushDone_free : (peerFlushing.dev.rx firstFrame Dev.gotFlushDone).free = 1 := by decide +kernel

/-- Refutes O23: FLUSH_DONE draws a free value while a flush programs the peer's entries, and the frame of its clause draws none. -/
theorem not_pairHandshake : ¬ Obligations.PairHandshake := by
  unfold Obligations.PairHandshake
  rintro ⟨-, -, -, -, hflushDone, -⟩
  obtain ⟨-, -, -, hparts, -⟩ :=
    (hflushDone peerFlushing firstFrame peerFlushing_inOrder).holds_of_exec (exec_flushDone peerFlushing_inOrder.1 firstFrame)
  have hfree : (peerFlushing.dev.rx firstFrame Dev.gotFlushDone).free = peerFlushing.dev.free := hparts .free (by decide)
  rw [peerFlushing_flushDone_free, peerFlushing_free] at hfree
  exact absurd hfree (by decide)

end Sys2Proof
end

section
/-! A media policy of the peer that is the earlier one (R275). Of two policies set in one epoch that of PAIR_ID 1 is the later, so
`Dev.peerPolicy` leaves its own in force there; the clause of O24 on a policy in bulk says that the peer's holds. -/

namespace Sys2Proof

open Machine

/-- PAIR_ID 1 with the link up; its own policy, as shipped, was set in this epoch. -/
def ownPolicy : State :=
  { dev := ({ Dev.cold.setFld A.PAIR_STAT 1 0 2 with board := { Board.shipped with pairId := true } } : Dev).onPair (fun p =>
      { p with polNow := true })
    pending := [] }

/-- The shipped policy with passes of 8 days. -/
def slowPatrol : Policy := { Policy.shipped with days := 8 }

theorem exec_bulk {s : State} (h : Running s) (f : FrameHdr) (st : Byte) (off : W32) (b : BulkData) :
    exec (.bulk f st off b) s = .next { s with dev := s.dev.rx f (fun d => d.gotBulk b) } :=
  mainDo_running h (fun d => d.rx f (fun d => d.gotBulk b))

theorem ownPolicy_inOrder : InOrder firstFrame ownPolicy := ⟨rfl, by decide +kernel, rfl, Or.inr rfl⟩

/-- The own policy stays. -/
theorem ownPolicy_bulk_policy : (ownPolicy.dev.rx firstFrame (fun d => d.gotBulk (.policy slowPatrol))).media.policy = Policy.shipped := by
  decide +kernel

/-- Refutes O24: PAIR_ID 1 keeps a policy of its own that was set in the same epoch, where the clause on a policy in bulk has the peer's. -/
theorem not_pairMirror : ¬ Obligations.PairMirror := by
  unfold Obligations.PairMirror
  rintro ⟨-, -, -, -, -, -, -, -, -, -, -, -, hpolicy, -⟩
  obtain ⟨-, htaken, -⟩ :=
    (hpolicy ownPolicy firstFrame 5 0 slowPatrol ownPolicy_inOrder).holds_of_exec
      (exec_bulk ownPolicy_inOrder.1 firstFrame 5 0 (.policy slowPatrol))
  have hsame : Policy.shipped = slowPatrol := ownPolicy_bulk_policy.symm.trans htaken
  exact absurd hsame (by decide)

end Sys2Proof
end

section
/-! Wear levelling of a reclaim unit (R121, R130). The row that the unit moves to is programmed from now on, and its blocks take their
class: the class tables of the Mules are written. The clause of O42 on a reclaim unit leaves the Mules out of what may change. -/

namespace Sys2Proof

open Machine

/-- The row on which the one reclaim unit stands. -/
def coldRow : Nat := rowKey false 0 12

/-- A free row of the same channels, worn by 400 erases. -/
def wornRow : Row := { seven := false, group := 0, lbn := 13, wear := 400, dirty := false }

/-- Channels 0 to 15 are owned; one conventional namespace has its unit on a row that nothing has worn. -/
def unevenWear : State :=
  { dev := (Dev.cold.wr64 A.PAIR_OWN 0xFFFF).onMedia (fun m =>
      { m with nss := [plainNs 0], urow := [(unitKey 0 coldRow, coldRow)], uFree := [wornRow] })
    pending := [] }

theorem exec_wearLevelling {s : State} (h : Running s) (ch : Ch) :
    exec (.wearLevelling ch) s = .next { s with dev := s.dev.level ch.val } :=
  mainDo_running h (fun d => d.level ch.val)

theorem unevenWear_running : Running unevenWear := rfl

theorem unevenWear_fwFlag : unevenWear.dev.fwFlag = false := rfl

/-- The spread is over a tenth of the rated cycles. -/
theorem unevenWear_spread :
    unevenWear.dev.board.ratedQlc * unevenWear.dev.board.ratedSlc <
      10 * ((unevenWear.dev.chWear 0).foldl Nat.max 0 - (unevenWear.dev.chWear 0).foldl Nat.min ((unevenWear.dev.chWear 0).foldl Nat.max 0)) := by
  decide +kernel

theorem unevenWear_coldest : unevenWear.dev.coldest 0 = none := rfl

theorem unevenWear_coldUnit : unevenWear.dev.coldUnit 0 = some (unitKey 0 coldRow, coldRow) := by decide +kernel

theorem unevenWear_cls : unevenWear.dev.mules.cls = [] := rfl

/-- The class tables of the members of the worn row are written. -/
theorem unevenWear_level_cls : (unevenWear.dev.level 0).mules.cls.isEmpty = false := by decide +kernel

/-- Refutes O42: a reclaim unit that wear levelling moves has the class of its new row written in the Mules, and the frame of the clause
keeps the Mules as they were. -/
theorem not_mediaWork : ¬ Obligations.MediaWork := by
  unfold Obligations.MediaWork
  rintro ⟨-, -, -, -, hlevel, -⟩
  obtain ⟨-, -, hunit⟩ := hlevel unevenWear 0 unevenWear_running
  obtain ⟨-, hgives⟩ :=
    hunit (unitKey 0 coldRow, coldRow) unevenWear_spread unevenWear_fwFlag rfl unevenWear_coldest unevenWear_coldUnit
  obtain ⟨-, -, -, hparts, -⟩ := hgives.holds_of_exec (exec_wearLevelling unevenWear_running 0)
  have hmules : (unevenWear.dev.level 0).mules = unevenWear.dev.mules := hparts .mules (by decide)
  have hcls := unevenWear_level_cls
  rw [hmules, unevenWear_cls] at hcls
  exact absurd hcls (by decide)

end Sys2Proof
end

section
/-! A submission entry that the controller memory buffer cannot give (R176, R196). Its queue halts with an event; where an event request of
the function is outstanding, HOSTIF writes the completion of that request, and marks the page where the function's Pen logs. The clause
of O27 on such an entry keeps every byte of memory, with no premise that the Pen does not log. -/

namespace Sys2Proof

open Machine

/-- An I/O submission queue of the physical function in the controller memory buffer. -/
def cmbSq : Sq := { adminSq 0 16 0 with sqid := 1, cqid := 1, q := 0, inCmb := true, cls := 1 }

/-- A Read whose submission entry is uncorrectable. -/
def lostSqe : Sqe := { readSqe oneLba 0 with eccBad := true }

/-- Pen 0 logs page 0 of its host at the base of DRAM; the physical function has its admin queues, whose completions go to that page, a
queue in the controller memory buffer, and an outstanding event request. -/
def loggedEvents : State :=
  { dev := ((((Dev.cold.setBit (A.PEN_DLOG_CTL 0) 0 true).wr64 A.PEN_DLOG_BASE 0x1000000000).setBit (A.PEN_DLOG_WIN 0 0) 0 true).wr64
      (A.PEN_DLOG_MAP 0 0) 1).onHost (fun h =>
        { h with sqs := [adminSq 0 4096 0, cmbSq], cqs := [adminCq 0 4096 0], aers := [adminHdr] })
    pending := [] }

theorem exec_sqTailDoorbell {s : State} (h : Running s) (fn : FnN) (qid tail : Nat) (e : Sqe) :
    exec (.sqTailDoorbell fn qid tail e) s = .next { s with dev := (s.dev.doorbell fn.val qid tail e fn).takeUp 256 } :=
  mainDo_running h (fun d => (d.doorbell fn.val qid tail e fn).takeUp 256)

theorem loggedEvents_running : Running loggedEvents := rfl

theorem loggedEvents_takenUp : TakenUp loggedEvents.dev := rfl

theorem loggedEvents_find : loggedEvents.dev.host.sqs.find? (fun x => x.fn == (0 : FnN).val && x.sqid == 1) = some cmbSq := rfl

theorem loggedEvents_fetches : loggedEvents.dev.fetches (0 : FnN).val = true := by decide +kernel

theorem loggedEvents_byte : loggedEvents.dev.byte 0x1000000000 = 0 := by decide +kernel

/-- The completion of the event request marks page 0. -/
theorem loggedEvents_doorbell_byte :
    ((loggedEvents.dev.doorbell (0 : FnN).val 1 1 lostSqe 0).takeUp 256).byte 0x1000000000 = 1 := by
  decide +kernel

/-- Refutes O27: the event of an uncorrectable submission entry completes an event request, which marks a page of a log, and the frame of
the clause keeps every byte. -/
theorem not_readAdmission : ¬ Obligations.ReadAdmission := by
  unfold Obligations.ReadAdmission
  rintro ⟨-, -, hlost, -⟩
  obtain ⟨-, -, -, -, -, -, hmem⟩ :=
    (hlost loggedEvents 0 1 1 lostSqe cmbSq loggedEvents_running loggedEvents_takenUp loggedEvents_find rfl rfl loggedEvents_fetches rfl
      rfl).holds_of_exec (exec_sqTailDoorbell loggedEvents_running 0 1 1 lostSqe)
  have hsame : ((loggedEvents.dev.doorbell (0 : FnN).val 1 1 lostSqe 0).takeUp 256).byte 0x1000000000 =
      loggedEvents.dev.byte 0x1000000000 := hmem 0x1000000000
  rw [loggedEvents_doorbell_byte, loggedEvents_byte] at hsame
  exact absurd hsame (by decide)

end Sys2Proof
end

section
/-! A correction of Hen that is the 1,025th of its device in a pass (R168, R169). The firmware's warning raises an event; where an event
request of the physical function is outstanding, HOSTIF writes the completion of that request, and marks the page where the function's Pen
logs (R196). The clause of O48 on a corrected burst keeps every byte outside the burst, with no premise that no Pen logs. -/

namespace Sys2Proof.Machine

theorem Dev.setBytes_byte_outside (l : List Byte) (d : Dev) {a x : Nat} (h : x < a ∨ a + l.length ≤ x) :
    (d.setBytes a l).byte x = d.byte x := by
  induction l generalizing d a with
  | nil => rfl
  | cons b t ih =>
    rw [List.length_cons] at h
    rw [Dev.setBytes, ih _ (by omega), Dev.setByte_byte, if_neg (by omega)]

theorem Dev.henStep_byte (d : Dev) (ms x : Nat) : (d.henStep ms).byte x = d.byte x := by
  unfold Dev.henStep
  dsimp only
  split
  · rw [Dev.setReg_byte]
  · rw [Dev.onDram_byte, Dev.setReg_byte, Dev.count_byte, Dev.wr64_byte]

theorem Dev.henDrained_byte (d : Dev) (x : Nat) : d.henDrained.byte x = d.byte x := by
  unfold Dev.henDrained
  split
  · dsimp only
    split
    · rw [Dev.onDram_byte, Dev.setBit_byte, Dev.setBit_byte]
    · rw [Dev.setBit_byte]
  · rfl

/-- What Hen writes back lies in the burst. -/
theorem Dev.henCorr_byte_outside (d : Dev) {p x : Nat} (v : Nat) (h : x < p ∨ p + 64 ≤ x) :
    (d.henCorr p v).byte x = (d.corrected p v).byte x := by
  unfold Dev.henCorr
  dsimp only
  split
  · have hback : ∀ y : BitVec 512,
        ((((d.corrected p v).count A.HEN_CNT_CORR 64 1).dramFresh p).setBytes p
          ((List.range 64).map (fun k => BitVec.ofNat 8 (byteAt y k)))).byte x = (d.corrected p v).byte x :=
      fun y => by
        rw [Dev.setBytes_byte_outside _ _ (by simpa using h), Dev.dramFresh, Dev.onDram_byte, Dev.count_byte]
    split
    · exact hback _
    · exact hback _
    · rw [Dev.count_byte]
  · rw [Dev.count_byte]

/-- Outside the burst, memory changes with a corrected burst as the warning on its device changes it. -/
theorem Dev.henRead_corr_byte_outside {d : Dev} {devs : List (Fin 10)} {p v x : Nat} {y : BitVec 512} (ms : Nat)
    (hon : d.bit A.HEN_STAT 0 = true) (hptr : (d.rd A.HEN_PTR).toNat = p) (harm : d.armed p = false) (hwalk : d.henWalks p = true)
    (hread : d.burstWith p devs = .corr v y) (hx : x < p ∨ p + 64 ≤ x) :
    (d.henRead devs ms).byte x = (d.corrected p v).byte x := by
  simp [Dev.henRead, Dev.henDrained_byte, Dev.henStep_byte, hon, hptr, harm, hwalk, hread, Dev.henCorr_byte_outside d v hx]

end Sys2Proof.Machine

namespace Sys2Proof

open Machine

theorem exec_henBurst {s : State} (h : Running s) (devs : List (Fin 10)) (ms : Nat) :
    exec (.henBurst devs ms) s = .next { s with dev := s.dev.henRead devs ms } :=
  mainDo_running h (fun d => d.henRead devs ms)

/-- The part of `loggedEvents` with Hen at the second burst of DRAM, and 1,024 corrections in this pass at device 3 of every subchannel:
in which of them the burst lies is open. -/
def loggedWarning : State :=
  { dev := ((loggedEvents.dev.setBit A.HEN_STAT 0 true).setReg A.HEN_PTR 0x1000000040).onDram (fun m =>
      { m with passCorr := (List.range 8).map (fun lane => (10 * lane + 3, 1024)) })
    pending := [] }

theorem loggedWarning_running : Running loggedWarning := rfl

theorem loggedWarning_active : loggedWarning.dev.bit A.HEN_STAT 0 = true := rfl

theorem loggedWarning_not_draining : loggedWarning.dev.bit A.HEN_STAT 1 = false := rfl

theorem loggedWarning_ptr : (loggedWarning.dev.rd A.HEN_PTR).toNat = 0x1000000040 := rfl

theorem loggedWarning_armed : loggedWarning.dev.armed 0x1000000040 = false := rfl

theorem loggedWarning_henWalks : loggedWarning.dev.henWalks 0x1000000040 = true := rfl

theorem loggedWarning_burstAt :
    loggedWarning.dev.burstAt 0x1000000040 = .clean (loggedWarning.dev.burstMem 0x1000000040) := rfl

theorem loggedWarning_byte : loggedWarning.dev.byte 0x1000000000 = 0 := rfl

/-- The completion of the event request marks page 0, whatever subchannel the burst lies in. -/
theorem loggedWarning_corrected_byte : (loggedWarning.dev.corrected 0x1000000040 3).byte 0x1000000000 = 1 := by
  have hlane : Config.dramLane 0x1000000040 % 8 < 8 := Nat.mod_lt _ (by decide)
  unfold Dev.corrected
  generalize Config.dramLane 0x1000000040 % 8 = lane at hlane ⊢
  interval_cases lane <;> rfl

theorem loggedWarning_henRead_byte : (loggedWarning.dev.henRead [3] 0).byte 0x1000000000 = 1 :=
  (Dev.henRead_corr_byte_outside 0 loggedWarning_active loggedWarning_ptr loggedWarning_armed loggedWarning_henWalks
    (show loggedWarning.dev.burstWith 0x1000000040 [3] = .corr 3 _ from rfl) (Or.inl (by decide))).trans loggedWarning_corrected_byte

/-- Refutes O48: the warning that a correction raises completes an event request, which marks a page of a log, and the frame of the
clause keeps every byte outside the burst. -/
theorem not_scrubberAndTestPort : ¬ Obligations.ScrubberAndTestPort := by
  unfold Obligations.ScrubberAndTestPort
  rintro ⟨-, -, hburst, -⟩
  obtain ⟨-, hcorr, -⟩ := hburst loggedWarning [3] 0 loggedWarning_running loggedWarning_active loggedWarning_not_draining
  rw [loggedWarning_ptr] at hcorr
  obtain ⟨-, -, -, -, -, -, -, hmem⟩ :=
    (hcorr 3 loggedWarning_armed loggedWarning_henWalks (Or.inl ⟨_, loggedWarning_burstAt, rfl⟩)).holds_of_exec
      (exec_henBurst loggedWarning_running [3] 0)
  have hsame : (loggedWarning.dev.henRead [3] 0).byte 0x1000000000 = loggedWarning.dev.byte 0x1000000000 :=
    hmem 0x1000000000 (by omega)
  rw [loggedWarning_henRead_byte, loggedWarning_byte] at hsame
  exact absurd hsame (by decide)

end Sys2Proof
end

section
/-! The pens: memory and the marks of a log, and stops of a Pen. The theorems here are checked one after another, as those of the zone
commands are: each checking thread takes memory. -/

set_option Elab.async false

section
/-! Memory (R19): equal contents in canonical form are equal data, and what a byte reads as after bytes have been written. -/

namespace Sys2Proof.Machine

theorem SMap.get_cons_self {α : Type} (d : Nat → α) (k : Nat) (v : α) (t : SMap α) : SMap.get d ((k, v) :: t) k = v := by
  simp [SMap.get, SMap.find]

theorem SMap.get_cons_ne {α : Type} (d : Nat → α) {k a : Nat} (v : α) (t : SMap α) (h : k ≠ a) :
    SMap.get d ((k, v) :: t) a = SMap.get d t a := by
  simp [SMap.get, SMap.find, h]

theorem SMap.get_above {α : Type} {d : Nat → α} {m : SMap α} {b a : Nat} (h : SMap.above b m = true) (ha : a ≤ b) :
    SMap.get d m a = d a := by
  rw [SMap.get, find_above h ha, Option.getD_none]

/-- Two maps in canonical form that read the same list the same: the least key of one is listed in the other. -/
theorem SMap.eq_of_get_eq {α : Type} [DecidableEq α] {d : Nat → α} {m n : SMap α} (hm : SMap.wf d m = true)
    (hn : SMap.wf d n = true) (h : ∀ a, SMap.get d m a = SMap.get d n a) : m = n := by
  simp only [SMap.wf, Bool.and_eq_true] at hm hn
  obtain ⟨hms, hmt⟩ := hm
  obtain ⟨hns, hnt⟩ := hn
  induction m generalizing n with
  | nil =>
    cases n with
    | nil => rfl
    | cons y t =>
      obtain ⟨k, v⟩ := y
      simp only [SMap.tight, Bool.and_eq_true, decide_eq_true_eq] at hnt
      exact absurd ((SMap.get_cons_self d k v t).symm.trans (h k).symm) hnt.1
  | cons x s ih =>
    obtain ⟨j, u⟩ := x
    simp only [SMap.tight, Bool.and_eq_true, decide_eq_true_eq] at hmt
    cases n with
    | nil => exact absurd ((SMap.get_cons_self d j u s).symm.trans (h j)) hmt.1
    | cons y t =>
      obtain ⟨k, v⟩ := y
      simp only [SMap.tight, Bool.and_eq_true, decide_eq_true_eq] at hnt
      have hs : SMap.above j s = true := hms
      have ht : SMap.above k t = true := hns
      have hlisted : ∀ {a b : Nat} {w : α} {r : SMap α}, a < b → SMap.above b r = true → SMap.get d ((b, w) :: r) a = d a :=
        fun hab hr => (SMap.get_cons_ne d _ _ (by omega)).trans (SMap.get_above hr (by omega))
      have hkey : j = k := by
        rcases Nat.lt_trichotomy j k with hlt | heq | hgt
        · exact absurd ((SMap.get_cons_self d j u s).symm.trans ((h j).trans (hlisted hlt ht))) hmt.1
        · exact heq
        · exact absurd ((SMap.get_cons_self d k v t).symm.trans ((h k).symm.trans (hlisted hgt hs))) hnt.1
      subst hkey
      have hval : u = v := (SMap.get_cons_self d j u s).symm.trans ((h j).trans (SMap.get_cons_self d j v t))
      have htail : s = t := by
        refine ih (fun a => ?_) (SMap.sorted_of_above hs) hmt.2 (SMap.sorted_of_above ht) hnt.2
        by_cases hja : j = a
        · rw [SMap.get_above hs (by omega), SMap.get_above ht (by omega)]
        · rw [← SMap.get_cons_ne d u s hja, h a, SMap.get_cons_ne d v t hja]
      rw [hval, htail]

theorem Dev.setBytes_byte (d : Dev) (a : Nat) (l : List Byte) (x : Nat) :
    (d.setBytes a l).byte x = if a ≤ x ∧ x < a + l.length then l.getD (x - a) 0 else d.byte x := by
  induction l generalizing d a with
  | nil => rw [if_neg (by simp only [List.length_nil]; omega)]; rfl
  | cons b t ih =>
    rw [Dev.setBytes, ih, Dev.setByte_byte, List.length_cons]
    by_cases hfirst : x = a
    · subst hfirst
      rw [if_neg (by omega), if_pos rfl, if_pos (by omega), Nat.sub_self, List.getD_cons_zero]
    · by_cases hin : a + 1 ≤ x ∧ x < a + 1 + t.length
      · rw [if_pos hin, if_pos (by omega), show x - a = x - (a + 1) + 1 by omega, List.getD_cons_succ]
      · rw [if_neg hin, if_neg hfirst, if_neg (by omega)]

end Sys2Proof.Machine
end

section
/-! The pages that HOSTIF marks (R196, R197): a window of a Pen's log takes a page or it does not. -/

namespace Sys2Proof.Machine

/-- A window of a Pen's log is valid and holds a page. -/
def Dev.windowTakes (d : Dev) (p page w : Nat) : Bool :=
  d.bit (A.PEN_DLOG_WIN p w) 0 && decide (d.fld (A.PEN_DLOG_WIN p w) 63 12 ≤ page) &&
    decide (page < d.fld (A.PEN_DLOG_WIN p w) 63 12 + d.fld (A.PEN_DLOG_MAP p w) 31 0)

theorem Dev.windowTakes_iff {d : Dev} {p page w : Nat} :
    d.windowTakes p page w = true ↔ d.bit (A.PEN_DLOG_WIN p w) 0 = true ∧ d.fld (A.PEN_DLOG_WIN p w) 63 12 ≤ page ∧
      page < d.fld (A.PEN_DLOG_WIN p w) 63 12 + d.fld (A.PEN_DLOG_MAP p w) 31 0 := by
  simp only [Dev.windowTakes, Bool.and_eq_true, decide_eq_true_eq, and_assoc]

/-- The bit of a page in the active copy of a window. -/
def Dev.pageBit (d : Dev) (p page w : Nat) : Nat × Nat :=
  d.dlogBit p w (d.fld (A.PEN_DLOG_CTL p) 2 2) (page - d.fld (A.PEN_DLOG_WIN p w) 63 12)

/-- The mark of a page in one copy of a window. -/
def Dev.markIn (d : Dev) (p copy page w : Nat) : Dev :=
  let b := d.dlogBit p w copy (page - d.fld (A.PEN_DLOG_WIN p w) 63 12)
  d.setByte b.1 (d.byte b.1 ||| BitVec.ofNat 8 (2 ^ b.2))

theorem Dev.markPage_on {d : Dev} {p : Nat} (h : d.bit (A.PEN_DLOG_CTL p) 0 = true) (page : Nat) :
    d.markPage p page =
      d.each ((List.range 4).filter (d.windowTakes p page)) (fun e w => e.markIn p (d.fld (A.PEN_DLOG_CTL p) 2 2) page w) :=
  if_pos h

/-- A page that no window takes is not marked. -/
theorem Dev.markPage_none {d : Dev} {p page : Nat} (h : ∀ w : Fin 4, d.windowTakes p page w.val = false) : d.markPage p page = d := by
  cases hlog : d.bit (A.PEN_DLOG_CTL p) 0 with
  | false => exact Dev.markPage_off hlog page
  | true =>
    have hnil : (List.range 4).filter (d.windowTakes p page) = [] :=
      List.filter_eq_nil_iff.mpr fun w hw => by rw [h ⟨w, List.mem_range.mp hw⟩]; exact Bool.false_ne_true
    rw [Dev.markPage_on hlog, hnil]
    rfl

/-- A page that one window takes is marked in its active copy. -/
theorem Dev.markPage_one {d : Dev} {p page : Nat} {w : Fin 4} (hlog : d.bit (A.PEN_DLOG_CTL p) 0 = true)
    (h : ∀ v : Fin 4, d.windowTakes p page v.val = decide (v.val = w.val)) :
    d.markPage p page =
      d.setByte (d.pageBit p page w.val).1 (d.byte (d.pageBit p page w.val).1 ||| BitVec.ofNat 8 (2 ^ (d.pageBit p page w.val).2)) := by
  have hone : (List.range 4).filter (d.windowTakes p page) = [w.val] := by
    rw [List.filter_congr (q := fun v => decide (v = w.val)) (fun v hv => h ⟨v, List.mem_range.mp hv⟩)]
    clear h
    revert w
    decide
  rw [Dev.markPage_on hlog, hone]
  rfl

end Sys2Proof.Machine
end

section
/-! What a completion of a command with a completion queue does (R149, R196): the queue moves on, and one page is marked. -/

namespace Sys2Proof

open Machine

/-- The host page of the queue's next entry. -/
def Machine.Cq.entryPage (c : Cq) : Nat := (c.base + c.tail * 16) / 4096

theorem closeFw_queues (d : Dev) (h : Hdr) :
    (d.closeFw h).host.sqs = d.host.sqs ∧ (d.closeFw h).host.cqs = d.host.cqs := by
  unfold Dev.closeFw Dev.histCount Dev.penCount
  split
  · split <;> exact ⟨rfl, rfl⟩
  · split
    · exact ⟨rfl, rfl⟩
    · split <;> exact ⟨rfl, rfl⟩

theorem closeFw_cqOf (d : Dev) (h : Hdr) : (d.closeFw h).cqOf h = d.cqOf h := by
  obtain ⟨hsqs, hcqs⟩ := closeFw_queues d h
  simp only [Dev.cqOf, hsqs, hcqs]

theorem cqOf_mem {d : Dev} {h : Hdr} {c : Cq} (hc : d.cqOf h = some c) : c ∈ d.host.cqs := by
  unfold Dev.cqOf at hc
  split at hc
  · exact List.mem_of_find?_eq_some hc
  · cases hc

theorem cqWrite_some {d : Dev} {h : Hdr} {c : Cq} (hc : d.cqOf h = some c) :
    d.cqWrite h = (d.markPages h.fn.val [c.entryPage]).onHost (fun x =>
      { x with cqs := x.cqs.map (fun y => if y = c then y.step else y) }) := by
  rw [Dev.cqWrite, hc]
  rfl

/-- Without a wrap the queue moves to the next entry. -/
theorem Machine.Cq.step_next {c : Cq} (h : c.size > c.tail + 1) : c.step = { c with tail := c.tail + 1 } := if_neg (by omega)

section
variable {d : Dev} {h : Hdr} {c : Cq} {p : Nat}

/-- A failing command posts its entry; an entry in the Error Information log besides is no memory and no queue. -/
theorem failCmd_queue_byte (hpost : d.host.stopped = false) (hc : d.cqOf h = some c) (st : Status) :
    c.step ∈ (d.failCmd h st).host.cqs ∧
      ∀ x, (d.failCmd h st).byte x = ((d.closeFw h).markPages h.fn.val [c.entryPage]).byte x := by
  have hcomp : d.complete h st (d.dnr st) = ((d.closeFw h).cqWrite h).onHost (fun x =>
      { x with out := x.out ++ [.cqe { h := h, st := st, dnr := d.dnr st, res0 := 0, res1 := 0 }] }) :=
    if_neg (by simp [hpost])
  rw [cqWrite_some ((closeFw_cqOf d h).trans hc)] at hcomp
  have hmem : c.step ∈ (d.complete h st (d.dnr st)).host.cqs := by
    rw [hcomp]
    have hin : c ∈ ((d.closeFw h).markPages h.fn.val [c.entryPage]).host.cqs := by
      rw [markPages_host, (closeFw_queues d h).2]
      exact cqOf_mem hc
    exact List.mem_map.mpr ⟨c, hin, if_pos rfl⟩
  unfold Dev.failCmd
  split
  · exact ⟨hmem, fun x => by rw [hcomp]; rfl⟩
  · exact ⟨hmem, fun x => by rw [hcomp]; rfl⟩

theorem markPages_pen (hp : d.penOf h.fn.val = some p) (page : Nat) : d.markPages h.fn.val [page] = d.markPage p page := by
  rw [Dev.markPages, hp]
  rfl

/-- Where one window takes the page of the entry, a failing command marks that page and writes no other byte. -/
theorem failCmd_byte_marked (hpost : d.host.stopped = false) (hc : d.cqOf h = some c) (hp : d.penOf h.fn.val = some p)
    (hlog : d.bit (A.PEN_DLOG_CTL p) 0 = true) {w : Fin 4}
    (hw : ∀ v : Fin 4, d.windowTakes p c.entryPage v.val = decide (v.val = w.val)) (st : Status) (x : Nat) :
    (d.failCmd h st).byte x =
      if x = (d.pageBit p c.entryPage w.val).1 then
        d.byte (d.pageBit p c.entryPage w.val).1 ||| BitVec.ofNat 8 (2 ^ (d.pageBit p c.entryPage w.val).2)
      else d.byte x := by
  obtain ⟨f, hf, -, -⟩ := closeFw_eq d h
  rw [(failCmd_queue_byte hpost hc st).2 x, hf, markPages_pen (d := d.onHost f) hp, Dev.markPage_one (d := d.onHost f) hlog hw]
  exact Dev.setByte_byte ..

/-- Where no window takes the page of the entry, a failing command writes no memory. -/
theorem failCmd_byte_unmarked (hpost : d.host.stopped = false) (hc : d.cqOf h = some c) (hp : d.penOf h.fn.val = some p)
    (hw : ∀ w : Fin 4, d.windowTakes p c.entryPage w.val = false) (st : Status) (x : Nat) : (d.failCmd h st).byte x = d.byte x := by
  obtain ⟨f, hf, -, -⟩ := closeFw_eq d h
  rw [(failCmd_queue_byte hpost hc st).2 x, hf, markPages_pen (d := d.onHost f) hp, Dev.markPage_none (d := d.onHost f) hw]
  rfl

end

/-- The status of a command that R256 does not list. -/
def unsupStatus (why : Unsup) : Status :=
  match why with
  | .opcode => .invalidOpcode
  | .field => .invalidField
  | .logPage => .invalidLogPage

theorem unsupportedCommand_gives {s : State} (h : Running s) {hdr : Hdr} {why : Unsup} {P : Dev → Prop}
    (hP : P (s.dev.failCmd hdr (unsupStatus why))) : Gives (.unsupportedCommand hdr why) s P :=
  gives_main (f := fun d => d.failCmd hdr (unsupStatus why)) rfl h hP

/-- Settles O56: memory by the laws of sparse maps; the marks by the one window that takes the page of the completion entry. -/
theorem memoryAndMarks : Obligations.MemoryAndMarks := by
  unfold Obligations.MemoryAndMarks
  refine ⟨fun d a b x => Dev.setByte_byte .., Dev.setBytes_byte, fun d a l => Dev.setBytes_memWf,
    fun m n => SMap.eq_of_get_eq, ?_, ?_⟩
  · intro s h why p c w hs _ hp hc hlog page first hvalid hlo hhi hothers a
    have hw : ∀ v : Fin 4, s.dev.windowTakes p c.entryPage v.val = decide (v.val = w.val) := by
      intro v
      by_cases hv : v = w
      · subst hv
        rw [decide_eq_true rfl]
        exact Dev.windowTakes_iff.mpr ⟨hvalid, hlo, hhi⟩
      · simp only [Dev.windowTakes, hothers v hv, Bool.false_and, Fin.val_inj, hv, decide_false]
    have hbyte := failCmd_byte_marked hs.2 hc hp hlog hw (unsupStatus why)
    have hkeep := Keeps.failCmd (Q := fun _ => True) s.dev h (fun _ _ => trivial) (unsupStatus why)
    refine unsupportedCommand_gives hs.1 ⟨(hbyte _).trans (if_pos rfl), fun hroom => ?_, hkeep.board, hkeep.parts, hkeep.regs,
      fun x hx => (hbyte x).trans (if_neg ?_)⟩
    · rw [← Cq.step_next hroom]
      exact (failCmd_queue_byte hs.2 hc _).1
    · show x ≠ a
      omega
  · intro s h why p c hs hp hc hout
    refine unsupportedCommand_gives hs.1 (failCmd_byte_unmarked hs.2 hc hp (fun w => ?_) _)
    rw [Bool.eq_false_iff, ne_eq, Dev.windowTakes_iff]
    rintro ⟨hvalid, hlo, hhi⟩
    rcases hout w hvalid with hbelow | hpast
    · exact absurd hlo (Nat.not_le.mpr hbelow)
    · exact absurd hhi (Nat.not_lt.mpr hpast)

end Sys2Proof
end

section
/-! Held writes of a Pen that stops (R86, R195). Each ends with Write Temperature Hold; where an ordinary write of a zone fails so,
the appends behind it in the zone take new offsets and go to the peer again (R69, R233). The clauses of O36 and O37 on a stop of a Pen
keep the pair and its registers as they were. -/

namespace Sys2Proof

open Machine

/-- A held write of one LBA by function 1 in the zone of the namespace of Pen 1, at the offset of its number. -/
def heldWrite (id : Nat) (app : Bool) : Entry :=
  { id := id, h := strayHdr, q := 0, nsx := 0, ofs := id, zone := 0, zoned := true, secs := [peerSector 0 id 0], pen := 1, app := app,
    ilbrt := 0, fua := false, mseq := 0, complete := true, mirrored := false, acked := false, held := true, t0 := 0 }

/-- In DUO with the link up: Pen 1 is enabled and holds an ordinary write and, behind it, an append. -/
def heldAppend : State :=
  { dev := ((((((((Dev.cold.setBit A.CLK_ENSTAT 24 true).setFld A.PAIR_STAT 1 0 2).setBit (A.PEN_PCTL 1) 0 true).setBit
      (A.PEN_STAT 1) 0 true).onFw (fun f => { f with mode := .duo, role := .duo })).onMedia (fun m =>
        { m with nss := [{ oneZoneNs with pen := 1, fns := [1] }] })).onPens (fun x =>
        { x with recs := [(1, { r := strayRec, gen := 1, enabled := true })] })).onWr (fun w =>
        { w with entries := [heldWrite 0 false, heldWrite 1 true] }))
    pending := [] }

theorem heldAppend_posting : Posting heldAppend := ⟨rfl, rfl⟩

theorem heldAppend_reach : Reach (A.PEN_PCTL 1) heldAppend := ⟨rfl, by decide +kernel⟩

theorem heldAppend_takenUp : TakenUp heldAppend.dev := rfl

theorem heldAppend_enabled : heldAppend.dev.bit (A.PEN_PCTL 1) 0 = true := by decide +kernel

theorem heldAppend_active : heldAppend.dev.bit (A.PEN_STAT 1) 0 = true := by decide +kernel

theorem heldAppend_mseq : heldAppend.dev.rd A.PAIR_MSEQ_TX = 0 := by decide +kernel

/-- The registers of Pen 1 that a stop may change are none of the pair's. -/
theorem pairMseqTx_not_pen : A.PAIR_MSEQ_TX ∉ [A.PEN_PCTL 1, A.PEN_STAT 1, A.PEN_DEBT 1] := by decide

theorem exec_penManageDisable {s : State} (h : Running s) (hdr : Hdr) (p : PenN) :
    exec (.penManageDisable hdr p) s = .next { s with dev := s.dev.penEnable hdr p.val false } :=
  mainDo_running h (fun d => d.penEnable hdr p.val false)

theorem exec_penPctlWrite {p : PenN} {s : State} (h : Reach (A.PEN_PCTL p.val) s) (quiesce en : Bool) :
    exec (.penPctlWrite p quiesce en) s = .next { s with dev := (s.dev.pctlWrite p.val quiesce en).takeUp 256 } :=
  regDo_reach h (fun d => (d.pctlWrite p.val quiesce en).takeUp 256)

/-- The append has gone to the peer once more, with the Disable as with a write of PEN_PCTL. -/
theorem heldAppend_disable_mseq : (heldAppend.dev.penEnable adminHdr 1 false).rd A.PAIR_MSEQ_TX = 1 := by decide +kernel

theorem heldAppend_pctl_mseq : ((heldAppend.dev.pctlWrite 1 false false).takeUp 256).rd A.PAIR_MSEQ_TX = 1 := by decide +kernel

/-- A device that has sent one mirror entry more is outside the frame of a stop of Pen 1. -/
theorem heldAppend_not_frame {d : Dev} (hd : d.rd A.PAIR_MSEQ_TX = 1) :
    ¬ FrameLog [.pens, .wr, .host] [A.PEN_PCTL 1, A.PEN_STAT 1, A.PEN_DEBT 1] heldAppend.dev d := by
  rintro ⟨-, -, hregs, -⟩
  have hsame := hregs A.PAIR_MSEQ_TX pairMseqTx_not_pen
  rw [hd, heldAppend_mseq] at hsame
  exact absurd hsame (by decide)

/-- Refutes O36: the Disable ends a held write, the append behind it goes to the peer again, and PAIR_MSEQ_TX is not in the frame. -/
theorem not_penCommands : ¬ Obligations.PenCommands := by
  unfold Obligations.PenCommands
  rintro ⟨-, -, henable, -⟩
  obtain ⟨-, -, hstop, -⟩ := henable heldAppend adminHdr 1 _ heldAppend_posting rfl rfl (by decide)
  obtain ⟨-, -, -, -, -, -, hframe⟩ :=
    (hstop heldAppend_enabled heldAppend_active List.not_mem_nil).holds_of_exec
      (exec_penManageDisable heldAppend_posting.1 adminHdr 1)
  exact heldAppend_not_frame heldAppend_disable_mseq hframe

/-- Refutes O37: a write of PEN_PCTL that clears EN does the same to the held writes of the Pen. -/
theorem not_penScheduler : ¬ Obligations.PenScheduler := by
  unfold Obligations.PenScheduler
  rintro ⟨-, -, -, -, hwrite, -⟩
  obtain ⟨-, -, -, -, -, hframe⟩ :=
    (hwrite heldAppend 1 false false heldAppend_reach heldAppend_takenUp (Or.inr fun q hq => nomatch hq)).holds_of_exec
      (exec_penPctlWrite heldAppend_reach false false)
  exact heldAppend_not_frame heldAppend_pctl_mseq hframe

end Sys2Proof
end

end

section
/-! Sector encryption: messages that wait, the laws of the ciphers, jobs that fail. The theorems here are checked one after another, as
those of the pens are: each checking thread takes memory. -/

set_option Elab.async false

section
/-! A waiting message that a free core could take (R208, R213). Every write of CIPHER_LOCK that takes effect has the scheduler look at what
waits; the clauses of O52 on the writes that claim a core, and on those that release one whose enable is clear, do not ask that nothing
waits, as that on a core which joins the pool does. `Dev.clockRecovery` leaves such a queue: it queues the messages of bypass slots that
the clock failure has ended, and gives them to no core. -/

namespace Sys2Proof

open Machine

/-- The scheduler is active with core 0 idle in its pool, and the message of the bypass slot, which Pen 0 holds, waits. -/
def messageWaits : State :=
  { dev := ((((Dev.cold.setBit A.CLK_ENSTAT 21 true).setBit A.CIPHER_STAT 0 true).setBit (A.CIPHER_CORE_STAT 0) 0 true).setReg
      (A.CIPHER_PENRANGE 0) 0x10000).onCipher (fun c => { c with slots := [(0, .bypass)], queue := [bypassMsg] })
    pending := [] }

theorem messageWaits_reaches : Reaches 0 (A.CIPHER_LOCK 1) messageWaits := ⟨rfl, by decide +kernel⟩

theorem messageWaits_unowned : messageWaits.dev.fld (A.CIPHER_LOCK 1) 6 0 = 0 := by decide +kernel

theorem messageWaits_queue : messageWaits.dev.cipher.queue = [bypassMsg] := rfl

/-- Control core 0 claims cipher core 1, and cipher core 0 takes the message. -/
theorem messageWaits_lockWrite_queue : (messageWaits.dev.lockWrite 1 1 0).cipher.queue = [] := by decide +kernel

theorem exec_cipherLockWrite {s : State} {c : CipherN} {who : CoreN} (h : Reaches who (A.CIPHER_LOCK c.val) s) (o : BitVec 7) :
    exec (.cipherLockWrite c o who) s = .next { s with dev := s.dev.lockWrite c.val o.toNat who.val } :=
  busDo_reaches h (fun d => d.lockWrite c.val o.toNat who.val)

/-- Refutes O52: a claim of a core starts a message that waits, and the frame of its clause keeps the cipher cluster as it was. -/
theorem not_cipherMessages : ¬ Obligations.CipherMessages := by
  unfold Obligations.CipherMessages
  rintro ⟨-, -, -, -, hlock⟩
  obtain ⟨-, hclaim, -⟩ := hlock messageWaits 1 1 0 messageWaits_reaches
  obtain ⟨-, -, hparts, -⟩ :=
    (hclaim (.inl messageWaits_unowned) (by decide)).holds_of_exec (exec_cipherLockWrite messageWaits_reaches 1)
  have hcipher : (messageWaits.dev.lockWrite 1 1 0).cipher = messageWaits.dev.cipher := hparts .cipher (by decide)
  have hqueue := messageWaits_lockWrite_queue
  rw [hcipher, messageWaits_queue] at hqueue
  exact List.cons_ne_nil _ _ hqueue

end Sys2Proof
end

section
/-! XTS (R204, R205): decryption undoes encryption block by block, a run goes on where another stopped, and blocks spell a number and
back. -/

namespace Sys2Proof.Machine

theorem xtsBlock_dec_enc (k : BitVec 512) (t p : BitVec 128) : xtsBlock true k t (xtsBlock false k t p) = p := by
  have henc : t ^^^ aesEnc (key1 k) (p ^^^ t) ^^^ t = aesEnc (key1 k) (p ^^^ t) := by
    rw [BitVec.xor_comm t, BitVec.xor_assoc, BitVec.xor_self, BitVec.xor_zero]
  simp only [xtsBlock, if_true, Bool.false_eq_true, if_false, henc, aesDec_aesEnc]
  rw [BitVec.xor_comm, BitVec.xor_assoc, BitVec.xor_self, BitVec.xor_zero]

theorem xtsRun_dec_enc (k : BitVec 512) (t : BitVec 128) (b : List (BitVec 128)) : xtsRun true k t (xtsRun false k t b) = b := by
  induction b generalizing t with
  | nil => rfl
  | cons p r ih => simp only [xtsRun, xtsBlock_dec_enc, ih]

theorem xtsRun_append (dec : Bool) (k : BitVec 512) (t : BitVec 128) (b c : List (BitVec 128)) :
    xtsRun dec k t (b ++ c) = xtsRun dec k t b ++ xtsRun dec k (tweakAfter b.length t) c := by
  induction b generalizing t with
  | nil => rfl
  | cons p r ih => simp only [List.cons_append, xtsRun, ih, List.length_cons, tweakAfter]

theorem xtsRun_length (dec : Bool) (k : BitVec 512) (t : BitVec 128) (b : List (BitVec 128)) :
    (xtsRun dec k t b).length = b.length := by
  induction b generalizing t with
  | nil => rfl
  | cons p r ih => simp only [xtsRun, List.length_cons, ih]

theorem blocksOf_length (n x : Nat) : (blocksOf n x).length = n := by simp [blocksOf]

theorem blocksOf_succ (n x : Nat) : blocksOf (n + 1) x = BitVec.ofNat 128 x :: blocksOf n (x / 2 ^ 128) := by
  simp only [blocksOf, List.range_succ_eq_map, List.map_cons, List.map_map, Nat.mul_zero, Nat.pow_zero, Nat.div_one]
  congr 1
  refine List.map_congr_left fun j _ => ?_
  simp only [Function.comp, Nat.succ_eq_add_one, Nat.mul_add, Nat.mul_one, Nat.div_div_eq_div_mul, ← Nat.pow_add, Nat.add_comm]

theorem ofBlocks_lt (l : List (BitVec 128)) : ofBlocks l < 2 ^ (128 * l.length) := by
  induction l with
  | nil => simp [ofBlocks]
  | cons b r ih =>
    have hb := b.isLt
    simp only [ofBlocks, List.length_cons, Nat.mul_add, Nat.pow_add]
    omega

theorem blocksOf_ofBlocks (l : List (BitVec 128)) : blocksOf l.length (ofBlocks l) = l := by
  induction l with
  | nil => rfl
  | cons b r ih =>
    have hb := b.isLt
    have hrest : ofBlocks (b :: r) / 2 ^ 128 = ofBlocks r := by simp only [ofBlocks]; omega
    have hfirst : BitVec.ofNat 128 (ofBlocks (b :: r)) = b := by
      apply BitVec.eq_of_toNat_eq
      simp only [ofBlocks, BitVec.toNat_ofNat]
      omega
    rw [List.length_cons, blocksOf_succ, hrest, ih, hfirst]

/-- The low digit and the rest of a number, in base 2 ^ w. -/
theorem mod_pow_split (x w n : Nat) : x % 2 ^ w + 2 ^ w * (x / 2 ^ w % 2 ^ n) = x % 2 ^ (w + n) := by
  rw [Nat.pow_add, Nat.mod_mul]

theorem ofBlocks_blocksOf (n x : Nat) : ofBlocks (blocksOf n x) = x % 2 ^ (128 * n) := by
  induction n generalizing x with
  | zero => simp [blocksOf, ofBlocks, Nat.mod_one]
  | succ n ih =>
    rw [blocksOf_succ, ofBlocks, ih, BitVec.toNat_ofNat, mod_pow_split, Nat.mul_succ, Nat.add_comm 128]

theorem ofNat_ofBlocks_blocksOf {w n : Nat} (h : 128 * n = w) (x : BitVec w) : BitVec.ofNat w (ofBlocks (blocksOf n x.toNat)) = x := by
  rw [ofBlocks_blocksOf, h, Nat.mod_eq_of_lt x.isLt, BitVec.ofNat_toNat, BitVec.setWidth_eq]

theorem toNat_ofBlocks {w : Nat} {l : List (BitVec 128)} (h : 128 * l.length = w) : (BitVec.ofNat w (ofBlocks l)).toNat = ofBlocks l := by
  rw [BitVec.toNat_ofNat, Nat.mod_eq_of_lt (h ▸ ofBlocks_lt l)]

theorem xtsLba_dec_enc (k : BitVec 512) (i : Nat) (x : LbaData) : xtsLba true k i (xtsLba false k i x) = x := by
  have hlen : (xtsRun false k (tweak0 k i) (blocksOf 256 x.toNat)).length = 256 := by rw [xtsRun_length, blocksOf_length]
  have hback := blocksOf_ofBlocks (xtsRun false k (tweak0 k i) (blocksOf 256 x.toNat))
  rw [hlen] at hback
  simp only [xtsLba]
  rw [toNat_ofBlocks (by rw [hlen]), hback, xtsRun_dec_enc, ofNat_ofBlocks_blocksOf (by decide)]

end Sys2Proof.Machine
end

section
/-! Key wrapping (R211): what was wrapped unwraps to itself, semiblocks as well as a key with the block beside it. -/

namespace Sys2Proof.Machine

theorem ofSemis_semis (n x : Nat) : ofSemis (semis n x) = x % 2 ^ (64 * n) := by
  induction n generalizing x with
  | zero => simp [semis, ofSemis, Nat.mod_one]
  | succ n ih =>
    rw [semis_succ, ofSemis, ih, BitVec.toNat_ofNat, mod_pow_split, Nat.mul_succ, Nat.add_comm 64]

theorem semis_length (n x : Nat) : (semis n x).length = n := by simp [semis]

theorem kwWrap_length (k : BitVec 256) (p : List W64) : (kwWrap k p).length = p.length + 1 := by
  simp only [kwWrap, List.length_cons, kwSteps_length]

theorem kwUnwrap_kwWrap (k : BitVec 256) {p : List W64} (h : p ≠ []) : kwUnwrap k (kwWrap k p) = some p := by
  have hback := kwBacks_kwSteps k p.length (List.range (6 * p.length)) (kwIcv, p) (List.length_pos_of_ne_nil h) rfl
  simp only [kwUnwrap, kwWrap, kwSteps_length, hback, if_true]

/-- The semiblocks of a wrap, spelled as a number that is kept whole, unwrap. -/
theorem kwUnwrap_semis_kwWrap (k : BitVec 256) {p : List W64} (h : p ≠ []) :
    kwUnwrap k (semis (p.length + 1) (ofSemis (kwWrap k p))) = some p := by
  rw [← kwWrap_length k p, semis_ofSemis, kwUnwrap_kwWrap k h]

theorem semis_ne_nil {n : Nat} (hn : 0 < n) (x : Nat) : semis n x ≠ [] :=
  List.ne_nil_of_length_pos (by rwa [semis_length])

theorem toNat_ofNat_ofSemis {w : Nat} {l : List W64} (h : 64 * l.length = w) : (BitVec.ofNat w (ofSemis l)).toNat = ofSemis l := by
  rw [BitVec.toNat_ofNat, Nat.mod_eq_of_lt (h ▸ ofSemis_lt l)]

theorem unwrapKey_wrapKey (kw : BitVec 256) (k : BitVec 512) (a : BitVec 128) : unwrapKey kw (wrapKey kw k a) = some (k, a) := by
  have hk := k.isLt
  have ha := a.isLt
  generalize hx : k.toNat + a.toNat * 2 ^ 512 = x
  have hunwrap := kwUnwrap_semis_kwWrap kw (semis_ne_nil (n := 10) (by decide) x)
  have hword : ofSemis (semis 10 x) = x := by rw [ofSemis_semis, Nat.mod_eq_of_lt (by omega)]
  have hkey : BitVec.ofNat 512 x = k := BitVec.eq_of_toNat_eq (by rw [BitVec.toNat_ofNat]; omega)
  have hattr : BitVec.ofNat 128 (x / 2 ^ 512) = a := BitVec.eq_of_toNat_eq (by rw [BitVec.toNat_ofNat]; omega)
  rw [semis_length] at hunwrap
  rw [unwrapKey, wrapKey, hx, toNat_ofNat_ofSemis (by rw [kwWrap_length, semis_length]), hunwrap, Option.map_some, hword, hkey, hattr]

/-! A generated key (R211). -/

theorem key1_xor (a b : BitVec 512) : key1 (a ^^^ b) = key1 a ^^^ key1 b := by
  simp only [key1, BitVec.ofNat_toNat, BitVec.setWidth_xor]

theorem key2_eq (k : BitVec 512) : key2 k = (k >>> 256).setWidth 256 := by
  apply BitVec.eq_of_toNat_eq
  simp only [key2, BitVec.toNat_ofNat, BitVec.toNat_setWidth, BitVec.toNat_ushiftRight, Nat.shiftRight_eq_div_pow]

theorem key2_xor (a b : BitVec 512) : key2 (a ^^^ b) = key2 a ^^^ key2 b := by
  simp only [key2_eq, BitVec.ushiftRight_xor_distrib, BitVec.setWidth_xor]

/-- What is added to the second half of a key changes that half alone. -/
theorem halvesEqual_xor_high {k : BitVec 512} {m : Nat} (h : halvesEqual k = true) (hpos : 0 < m) (hm : m < 2 ^ 256) :
    halvesEqual (k ^^^ BitVec.ofNat 512 (m * 2 ^ 256)) = false := by
  have hlow : key1 (BitVec.ofNat 512 (m * 2 ^ 256)) = 0#256 := by
    apply BitVec.eq_of_toNat_eq
    simp only [key1, BitVec.toNat_ofNat]
    omega
  have hhigh : (key2 (BitVec.ofNat 512 (m * 2 ^ 256))).toNat = m := by
    simp only [key2, BitVec.toNat_ofNat]
    omega
  simp only [halvesEqual, decide_eq_true_eq] at h
  simp only [halvesEqual, decide_eq_false_iff_not, key1_xor, key2_xor, hlow, h]
  intro hsame
  rw [← (BitVec.xor_right_inj _).mp hsame, BitVec.toNat_ofNat] at hhigh
  omega

theorem halvesEqual_freshKey (n : Nat) : halvesEqual (freshKey n) = false := by
  cases h : halvesEqual (Config.drbgKey n) with
  | false => rw [freshKey, if_neg (by rw [h]; exact Bool.false_ne_true), h]
  | true =>
    have hlt : Config.freeNat n % (2 ^ 256 - 1) < 2 ^ 256 - 1 := Nat.mod_lt _ (by decide)
    rw [freshKey, if_pos h]
    exact halvesEqual_xor_high h (by omega) (by omega)

end Sys2Proof.Machine
end

section
/-! A context as its 48 bytes, and back (R217). -/

namespace Sys2Proof.Machine

theorem ofLe_append (a b : List Byte) : ofLe (a ++ b) = ofLe a + 256 ^ a.length * ofLe b := by
  induction a with
  | nil => simp [ofLe]
  | cons x r ih =>
    simp only [List.cons_append, ofLe, ih, List.length_cons, Nat.pow_succ]
    ring

/-- A context whose fields fit is the number that they make at their places. -/
theorem Ctx.word_eq {x : Ctx} (hslot : x.slot < 65536) (hgen : x.slotgen < 65536) (hblk : x.blk < 65536) (hdu : x.du < 2 ^ 64)
    (hlen : x.len < 65536) :
    x.word = 1 + x.dec.toNat * 2 ^ 8 + x.slot * 2 ^ 16 + x.slotgen * 2 ^ 32 + x.blk * 2 ^ 48 + x.du * 2 ^ 64 + x.tval.toNat * 2 ^ 128 +
      x.len * 2 ^ 256 := by
  have hdec : ofLe [0x01, if x.dec then 1 else 0] = 1 + x.dec.toNat * 2 ^ 8 := by cases x.dec <;> rfl
  simp only [Ctx.word, ofLe_append, List.length_append, leBytes_length, hdec, ofLe_leBytes 2 _ hslot, ofLe_leBytes 2 _ hgen,
    ofLe_leBytes 2 _ hblk, ofLe_leBytes 8 _ (show x.du < 256 ^ 8 from hdu),
    ofLe_leBytes 16 _ (show x.tval.toNat < 256 ^ 16 from x.tval.isLt), ofLe_leBytes 2 _ hlen, List.length_cons, List.length_nil]
  omega

theorem Ctx.word_lt {x : Ctx} (hslot : x.slot < 65536) (hgen : x.slotgen < 65536) (hblk : x.blk < 65536) (hdu : x.du < 2 ^ 64)
    (hlen : x.len < 65536) : x.word < 2 ^ 384 := by
  rw [Ctx.word_eq hslot hgen hblk hdu hlen]
  have hdec := Bool.toNat_lt x.dec
  have htval := x.tval.isLt
  omega

theorem ctxOfWord_word {x : Ctx} (hslot : x.slot < 65536) (hgen : x.slotgen < 65536) (hblk : x.blk < 65536) (hdu : x.du < 2 ^ 64)
    (hlen : x.len < 65536) : ctxOfWord x.word = some x := by
  have hdec := Bool.toNat_lt x.dec
  have htval := x.tval.isLt
  have hword := Ctx.word_eq hslot hgen hblk hdu hlen
  generalize x.word = w at hword
  have fversion : natFld w 7 0 = 1 := by simp only [natFld]; omega
  have fdec : natFld w 8 8 = x.dec.toNat := by simp only [natFld]; omega
  have fslot : natFld w 31 16 = x.slot := by simp only [natFld]; omega
  have fgen : natFld w 47 32 = x.slotgen := by simp only [natFld]; omega
  have fblk : natFld w 63 48 = x.blk := by simp only [natFld]; omega
  have fdu : natFld w 127 64 = x.du := by simp only [natFld]; omega
  have ftval : natFld w 255 128 = x.tval.toNat := by simp only [natFld]; omega
  have flen : natFld w 271 256 = x.len := by simp only [natFld]; omega
  simp only [ctxOfWord, fversion, fdec, fslot, fgen, fblk, fdu, ftval, flen, ne_eq, not_true_eq_false, if_false]
  cases x with
  | mk dec => cases dec <;> simp

end Sys2Proof.Machine

namespace Sys2Proof

open Machine

/-- Settles O49: XTS by the inverse of AES under the same tweaks, wrapping by its steps taken back, contexts by the places of their
fields. -/
theorem cipherLaws : Obligations.CipherLaws := by
  unfold Obligations.CipherLaws
  exact ⟨xtsRun_dec_enc, xtsLba_dec_enc, xtsRun_append, fun k _ => kwUnwrap_kwWrap k, unwrapKey_wrapKey,
    fun _ hslot hgen hblk hdu hlen => ⟨Ctx.word_lt hslot hgen hblk hdu hlen, ctxOfWord_word hslot hgen hblk hdu hlen⟩,
    halvesEqual_freshKey⟩

end Sys2Proof
end

section
/-! A direct job that ends with a bus error (R222). What the model writes back to a core sets SUSPHELD anew by whether the core holds a
suspended message (R216); the clause of O51 on such an end keeps CIPHER_CORE_STAT, which those on the job's other ends leave open. Its
premises take in states in which SUSPHELD is not what the core holds. -/

namespace Sys2Proof

open Machine

/-- A job of two blocks at its first one. -/
def twoBlocks : Ctx := { dec := false, slot := 0, slotgen := 0, blk := 0, du := 0, tval := 0, len := 2 }

/-- Core 2 runs the job, in hub SRAM and through a bypass slot; SUSPHELD is 1, though the core holds no message. -/
def falselyHeld : State :=
  { dev := ((((Dev.cold.setReg (A.CIPHER_JOB_SRC 2) 0x10000000).setReg (A.CIPHER_JOB_DST 2) 0x10001000).setReg
      (A.CIPHER_JOB_STAT 2) 1).setBit (A.CIPHER_CORE_STAT 2) 2 true).onCipher
        (fun c => { c with cores := [(2, { coreIdle 2 with ctx := some twoBlocks, key := .bypass })] })
    pending := [] }

theorem falselyHeld_running : Running falselyHeld := rfl

theorem falselyHeld_ctx : (falselyHeld.dev.ccore 2).ctx = some twoBlocks := rfl

theorem falselyHeld_runs : falselyHeld.dev.jobResult 2 = 1 := by decide +kernel

theorem falselyHeld_inHub : JobInHub 2 twoBlocks falselyHeld.dev := by unfold JobInHub; decide +kernel

theorem falselyHeld_suspheld : falselyHeld.dev.bit (A.CIPHER_CORE_STAT 2) 2 = true := by decide +kernel

/-- The job ends with a bus error, and SUSPHELD is 0. -/
theorem falselyHeld_jobEnd_suspheld : (falselyHeld.dev.jobEnd 2 (some 2)).bit (A.CIPHER_CORE_STAT 2) 2 = false := by decide +kernel

theorem coreStat_not_mem_jobEnd : A.CIPHER_CORE_STAT 2 ∉ [A.CIPHER_JOB_STAT 2, A.CAIRN_HWDROP] := by decide

theorem exec_cipherJobEnd {s : State} (h : Running s) (c : CipherN) (err : Option (Fin 8)) :
    exec (.cipherJobEnd c err) s = .next { s with dev := s.dev.jobEnd c.val err } :=
  mainDo_running h (fun d => d.jobEnd c.val err)

/-- Refutes O51: where SUSPHELD is 1 and no message is suspended, the bus error of a job clears it, and CIPHER_CORE_STAT is not in the
frame of that clause. -/
theorem not_cipherJobs : ¬ Obligations.CipherJobs := by
  unfold Obligations.CipherJobs
  rintro ⟨-, hend, -⟩
  obtain ⟨-, -, herr⟩ := hend falselyHeld 2 falselyHeld_running
  obtain ⟨-, -, -, -, -, hregs, -⟩ :=
    (herr twoBlocks .decode 2 falselyHeld_ctx falselyHeld_runs falselyHeld_inHub rfl).holds_of_exec
      (exec_cipherJobEnd falselyHeld_running 2 (some 2))
  have hsame : (falselyHeld.dev.jobEnd 2 (some 2)).bit (A.CIPHER_CORE_STAT 2) 2 = falselyHeld.dev.bit (A.CIPHER_CORE_STAT 2) 2 :=
    Dev.bit_congr (hregs _ coreStat_not_mem_jobEnd) 2
  exact Bool.false_ne_true (falselyHeld_jobEnd_suspheld.symm.trans (hsame.trans falselyHeld_suspheld))

end Sys2Proof
end

end

section
/-! Downloads, commits and the Device Self-test: the records of the slots, the operations, and then the obligation. The theorems here are
checked one after another, for memory, as the tests are. -/

set_option Elab.async false

section
/-! Boot records (R393, R400) and what a commit does to one (R401): the slot's sectors hold its record, behind the longest container. -/

namespace Sys2Proof.Machine

/-- The longest container of a slot ends where the slot's record begins. -/
theorem recBase_eq : ∀ k < 4, recBase k = slotBase k + maxLen (decide (2 ≤ k)) / 32 := by decide

/-- A slot's record ends with the slot's last sector. -/
theorem recBase_end : ∀ k < 4, recBase k + 128 = (slotBase k / 128 + if k < 2 then 2048 else 256) * 128 := by decide

theorem slotBase_le_recBase : ∀ k < 4, slotBase k / 128 * 128 ≤ recBase k := by decide

theorem recBase_below_penBase : ∀ k < 4, recBase k + 128 ≤ penBase := by decide

variable {d e : Dev} {k i : Nat}

/-- The slots lie below every region that the firmware keeps its own records in (R283). -/
theorem Dev.cqHeld_below_penBase {w : Nat} (h : w < penBase) : d.cqHeld w = SMap.find d.cirque.words w := by
  have hregion : d.regionWord w = none := by
    unfold Dev.regionWord
    unfold penBase at *
    simp (disch := omega) only [if_neg]
  unfold Dev.cqHeld
  rw [hregion]
  cases SMap.find d.cirque.words w <;> rfl

/-- The number in a word of a boot record. -/
theorem Dev.recWord_eq (hk : k < 4) (hi : i < 128) (m : Nat) :
    d.recWord k i m =
      let x := ((SMap.find d.cirque.words (recBase k + i)).getD (BitVec.allOnes 256)).toNat
      if x % 2 ^ 32 = m ∧ (recBase k + i) / 128 ∉ d.cirque.cut then some (x / 2 ^ 32 % 2 ^ 32) else none := by
  have hlt := recBase_below_penBase k hk
  simp only [Dev.recWord, Dev.cqWord, Dev.cqHeld_below_penBase (show recBase k + i < penBase by omega)]

theorem Dev.recWord_congr (hc : e.cirque = d.cirque) (hk : k < 4) (hi : i < 128) (m : Nat) : e.recWord k i m = d.recWord k i m := by
  rw [Dev.recWord_eq hk hi, Dev.recWord_eq hk hi, hc]

/-- An erased word carries no activation. -/
theorem Dev.recWord_erased (hk : k < 4) (hi : i < 128) (hnone : SMap.find d.cirque.words (recBase k + i) = none) :
    d.recWord k i actvMagic = none := by
  rw [Dev.recWord_eq hk hi, hnone]
  exact if_neg fun h => absurd h.1 (by decide)

/-- A programmed ACTIVATE word counts, outside the sectors whose erase was cut (R406). -/
theorem Dev.recWord_cqSet (hk : k < 4) (hi : i < 128) (hcut : (recBase k + i) / 128 ∉ d.cirque.cut) (n : Nat) :
    (d.cqSet (recBase k + i) (recWordOf actvMagic n)).recWord k i actvMagic = some (n % 2 ^ 32) := by
  have hword : (recWordOf actvMagic n).toNat = actvMagic + n % 2 ^ 32 * 2 ^ 32 := by
    rw [recWordOf, BitVec.toNat_ofNat]
    exact Nat.mod_eq_of_lt (by unfold actvMagic; omega)
  have hfind : SMap.find (d.cqSet (recBase k + i) (recWordOf actvMagic n)).cirque.words (recBase k + i) =
      some (recWordOf actvMagic n) := by
    rw [Dev.cqSet, Dev.onCirque_cirque, SMap.find_put, if_pos rfl]
  rw [Dev.recWord_eq hk hi, hfind]
  simp only [Option.getD_some, hword]
  unfold actvMagic
  rw [if_pos ⟨by omega, hcut⟩]
  congr 1
  omega

theorem Dev.activation_none (h : ∀ i, i < 32 → d.recWord k i actvMagic = none) : d.activation k = none := by
  refine List.foldlRecOn (motive := (· = none)) (List.range 32) _ rfl fun b hb i hi => ?_
  rw [h i (List.mem_range.mp hi)]
  exact hb

/-- The sector of a slot's record has been erased, and nothing programmed there since. -/
def Dev.recErased (d : Dev) (k : Nat) : Prop :=
  ∀ i, i < 128 → SMap.find d.cirque.words (recBase k + i) = none ∧ (recBase k + i) / 128 ∉ d.cirque.cut

theorem Dev.eraseSlot_recErased (d : Dev) (hk : k < 4) : (d.eraseSlot k).recErased k := by
  intro i hi
  have hlo := slotBase_le_recBase k hk
  have hend := recBase_end k hk
  simp only [Dev.eraseSlot, Dev.cqWipeRange, Dev.onCirque_cirque]
  generalize (if k < 2 then 2048 else 256) = n at *
  constructor
  · rw [SMap.find_keep, if_neg]
    simp only [Bool.not_eq_true', Bool.and_eq_false_iff, decide_eq_false_iff_not]
    omega
  · simp only [List.mem_filter, Bool.not_eq_true', Bool.and_eq_false_iff, decide_eq_false_iff_not]
    omega

theorem wordsOf_length_le (n : Nat) (b : List Byte) : (wordsOf n b).length ≤ (b.length + 31) / 32 := by
  induction n generalizing b with
  | zero => exact Nat.zero_le _
  | succ n ih =>
    unfold wordsOf
    split
    · exact Nat.zero_le _
    · next hb =>
      have hpos := List.length_pos_iff.mpr hb
      have htail := ih (b.drop 32)
      rw [List.length_drop] at htail
      rw [List.length_cons]
      omega

/-- A program changes the words that it names, and no sector's cut. -/
theorem Dev.each_cqSet_outside (base w : Nat) (l : List (BitVec 256 × Nat)) (d : Dev) (hw : ∀ p ∈ l, base + p.2 ≠ w) :
    let c := (d.each l (fun d p => d.cqSet (base + p.2) p.1)).cirque
    SMap.find c.words w = SMap.find d.cirque.words w ∧ c.cut = d.cirque.cut := by
  refine List.foldlRecOn (motive := fun e : Dev => SMap.find e.cirque.words w = SMap.find d.cirque.words w ∧ e.cirque.cut = d.cirque.cut)
    l _ ⟨rfl, rfl⟩ fun e ⟨hwords, hcut⟩ p hp => ⟨?_, hcut⟩
  rw [Dev.cqSet, Dev.onCirque_cirque, SMap.find_put, if_neg (hw p hp).symm, hwords]

/-- A container that is no longer than its slot takes leaves the record alone. -/
theorem Dev.progSlot_recErased {b : List Byte} (hk : k < 4) (hb : b.length ≤ maxLen (decide (2 ≤ k))) (h : d.recErased k) :
    (d.progSlot k b).recErased k := by
  intro i hi
  have hrec := recBase_eq k hk
  have hlen := wordsOf_length_le b.length b
  have hmax : maxLen (decide (2 ≤ k)) % 32 = 0 := by cases decide (2 ≤ k) <;> rfl
  obtain ⟨hwords, hcut⟩ := Dev.each_cqSet_outside (slotBase k) (recBase k + i) (wordsOf b.length b).zipIdx d (fun p hp => by
    have := List.snd_lt_of_mem_zipIdx hp
    omega)
  unfold Dev.progSlot
  rw [hwords, hcut]
  exact h i hi

theorem Dev.stagedContainer_length_le (d : Dev) (cfg : Bool) : (d.stagedContainer cfg).length ≤ maxLen cfg := by
  have hhdr : 1024 ≤ maxLen cfg := by cases cfg <;> decide
  unfold Dev.stagedContainer
  dsimp only
  split
  · next hlen =>
    simp only [Dev.staged, List.length_map, List.length_range]
    exact Nat.max_le.mpr ⟨hhdr, hlen⟩
  · simpa [Dev.staged] using hhdr

end Sys2Proof.Machine
end

section
/-! Firmware Commit, case by case (R401, R402). -/

namespace Sys2Proof.Machine

variable {d : Dev} {h : Hdr} {k : Nat}

/-- A slot after the erase and the program of the staged container; `act`: with ACTIVATE[0]. -/
def Dev.slotCommitted (d : Dev) (k : Nat) (act : Bool) : Dev :=
  let cfg := decide (2 ≤ k)
  let e := ((if cfg then d else d.raiseSvn).eraseSlot k).progSlot k (d.stagedContainer cfg)
  if act then e.cqSet (recBase k) (recWordOf actvMagic (d.topCommit k + 1)) else e

theorem Dev.commitImage_inUse (act : Bool) (st : Status) (hused : d.slotInUse k = true) :
    d.commitImage h k act st = d.failCmd h .invalidSlot := if_pos hused

theorem Dev.commitImage_rejected (act : Bool) (st : Status) (hfree : d.slotInUse k = false)
    (hcode : d.reject (d.stagedContainer (decide (2 ≤ k))) (decide (2 ≤ k)) ≠ 0) :
    d.commitImage h k act st = d.failCmd h .invalidImage :=
  (if_neg (by simp [hfree])).trans (if_pos hcode)

theorem Dev.commitImage_passes (act : Bool) (st : Status) (hfree : d.slotInUse k = false)
    (hcode : d.reject (d.stagedContainer (decide (2 ≤ k))) (decide (2 ≤ k)) = 0) :
    d.commitImage h k act st = (d.slotCommitted k act).failCmd h st :=
  (if_neg (by simp [hfree])).trans (if_neg (by simp [hcode]))

theorem Dev.slotCommitted_activated (d : Dev) (k : Nat) :
    d.slotCommitted k true = (d.slotCommitted k false).cqSet (recBase k + 0) (recWordOf actvMagic (d.topCommit k + 1)) := by
  simp only [Dev.slotCommitted, if_true, Nat.add_zero, Bool.false_eq_true, if_false]

theorem Dev.slotCommitted_recErased (d : Dev) (hk : k < 4) : (d.slotCommitted k false).recErased k :=
  Dev.progSlot_recErased hk (d.stagedContainer_length_le _) (Dev.eraseSlot_recErased _ hk)

theorem Dev.slotCommitted_recWord (d : Dev) (hk : k < 4) :
    (d.slotCommitted k true).recWord k 0 actvMagic = some ((d.topCommit k + 1) % 2 ^ 32) := by
  rw [Dev.slotCommitted_activated]
  exact Dev.recWord_cqSet hk (by decide) (d.slotCommitted_recErased hk 0 (by decide)).2 _

theorem Dev.activate_rejected {j : Nat} (hj : d.freeActivate k = some j) (hcode : d.reject (d.slotBytes k) (decide (2 ≤ k)) ≠ 0) :
    d.activate h k = d.failCmd h .invalidImage := by
  rw [Dev.activate, hj]
  exact if_pos hcode

theorem Dev.activate_passes {j : Nat} (hj : d.freeActivate k = some j) (hcode : d.reject (d.slotBytes k) (decide (2 ≤ k)) = 0) :
    d.activate h k = (d.cqSet (recBase k + j) (recWordOf actvMagic (d.topCommit k + 1))).complete h .success := by
  rw [Dev.activate, hj]
  exact if_neg (by simp [hcode])

theorem Dev.freeActivate_lt {j : Nat} (hj : d.freeActivate k = some j) : j < 32 :=
  List.mem_range.mp (List.mem_of_find?_eq_some hj)

/-- A commit with an action and a slot that there are. -/
theorem Dev.commit_slot {action : Nat} (hpf : d.isPf h.fn.val = true) (haction : action ≤ 3) (hk : k < 4) :
    d.commit h action (k + 1) =
      if action = 2 then d.activate h k
      else d.commitImage h k (decide (action ≠ 0)) (if action = 3 then .needsReset else .success) := by
  have hslot : ¬ (k + 1 = 0 ∨ 4 < k + 1) := by omega
  unfold Dev.commit
  rw [if_neg (by simp [hpf]), if_neg (by omega), if_neg hslot, Nat.add_sub_cancel]
  obtain rfl | rfl | rfl | rfl : action = 0 ∨ action = 1 ∨ action = 2 ∨ action = 3 := by omega
  · rfl
  · rfl
  · rfl
  · rfl

theorem Dev.commit_noSlot {action slot : Nat} (hpf : d.isPf h.fn.val = true) (haction : action ≤ 3) (hslot : slot = 0 ∨ 4 < slot) :
    d.commit h action slot = d.failCmd h .invalidSlot := by
  unfold Dev.commit
  rw [if_neg (by simp [hpf]), if_neg (by omega), if_pos hslot]

theorem Dev.commit_notPf (hpf : d.isPf h.fn.val = false) (action slot : Nat) : d.commit h action slot = d.failCmd h .invalidOpcode :=
  if_pos (by simp [hpf])

end Sys2Proof.Machine
end

section
/-! Completions after a span in which HOSTIF sends nothing, and what they leave of Cirque and of the self-test. -/

namespace Sys2Proof

open Machine

variable {P : List Part} {R : List Nat} {d e : Dev} {h : Hdr}

/-- A success adds nothing to the Error Information log. -/
theorem failCmd_success (d : Dev) (h : Hdr) : d.failCmd h .success = d.complete h .success := rfl

theorem failCmd_after (hk : Keeps (pensOf h.fn d) P R d e) (hout : e.host.out = d.host.out) (hpost : d.host.stopped = false)
    {st : Status} (hdnr : e.dnr st = false) (hP : Part.host ∈ P) :
    Sent d (e.failCmd h st) [cqeOf h st] ∧ FrameHost h.fn P R d (e.failCmd h st) := by
  constructor
  · have hsent := failCmd_sent (hk.stopped.trans hpost) h st
    rw [Sent, hout, hdnr] at hsent
    exact hsent
  · exact (hk.next (Keeps.failCmd e h (fun p hp => (hk.penOf h.fn.val).symm.trans hp) st)
      (by simpa using hP) (List.nil_subset _)).frameHost

theorem failCmd_cirque (d : Dev) (h : Hdr) (st : Status) : (d.failCmd h st).cirque = d.cirque := by
  have hk := Keeps.failCmd (Q := fun _ => True) d h (fun _ _ => trivial) st
  have hmedia : (d.failCmd h st).media = d.media := hk.parts .media (by decide)
  obtain hsame | ⟨hlt, -⟩ : CirqueSame d (d.failCmd h st) := hk.parts .cirque (by decide)
  · exact hsame
  · rw [hmedia] at hlt
    exact absurd hlt (Nat.lt_irrefl _)

theorem failCmd_fw (d : Dev) (h : Hdr) (st : Status) : (d.failCmd h st).fw = d.fw :=
  (Keeps.failCmd (Q := fun _ => True) d h (fun _ _ => trivial) st).parts .fw (by decide)

theorem closeFw_selfTest (d : Dev) (h : Hdr) :
    (d.closeFw h).host.selfTest = d.host.selfTest ∧ (d.closeFw h).host.stResults = d.host.stResults := by
  unfold Dev.closeFw Dev.histCount Dev.penCount
  split
  · split <;> exact ⟨rfl, rfl⟩
  · split
    · exact ⟨rfl, rfl⟩
    · split <;> exact ⟨rfl, rfl⟩

theorem cqWrite_selfTest (d : Dev) (h : Hdr) :
    (d.cqWrite h).host.selfTest = d.host.selfTest ∧ (d.cqWrite h).host.stResults = d.host.stResults := by
  unfold Dev.cqWrite
  split
  · exact ⟨rfl, rfl⟩
  · exact ⟨congrArg (·.selfTest) (markPages_host d _ _), congrArg (·.stResults) (markPages_host d _ _)⟩

theorem failCmd_selfTest (d : Dev) (h : Hdr) (st : Status) :
    (d.failCmd h st).host.selfTest = d.host.selfTest ∧ (d.failCmd h st).host.stResults = d.host.stResults := by
  have hcomp : (d.complete h st (d.dnr st)).host.selfTest = d.host.selfTest ∧
      (d.complete h st (d.dnr st)).host.stResults = d.host.stResults := by
    obtain ⟨hclose, hcloseRes⟩ := closeFw_selfTest d h
    obtain ⟨hwrite, hwriteRes⟩ := cqWrite_selfTest (d.closeFw h) h
    unfold Dev.complete
    split
    · exact ⟨rfl, rfl⟩
    · exact ⟨hwrite.trans hclose, hwriteRes.trans hcloseRes⟩
  unfold Dev.failCmd
  split
  · exact hcomp
  · exact hcomp

end Sys2Proof
end

section
/-! O35: downloads, commits and the Device Self-test. -/

namespace Sys2Proof

open Machine

theorem exec_firmwareImageDownload (s : State) (h : Hdr) (off : Nat) (b : List Byte) :
    exec (.firmwareImageDownload h off b) s = mainDo s (fun d => d.download h off b) := rfl

theorem exec_firmwareCommit (s : State) (h : Hdr) (action slot : Nat) :
    exec (.firmwareCommit h action slot) s = mainDo s (fun d => d.commit h action slot) := rfl

theorem exec_deviceSelfTest (s : State) (h : Hdr) (stc : Nat) :
    exec (.deviceSelfTest h stc) s = mainDo s (fun d => d.selfTestCmd h stc) := rfl

variable {s : State} {h : Hdr}

theorem gives_refused {i : Instr} {f : Dev → Dev} (he : exec i s = mainDo s f) (hs : Posting s) {st : Status}
    (hf : f s.dev = s.dev.failCmd h st) (hdnr : s.dev.dnr st = false) :
    Gives i s (fun d => Sent s.dev d [cqeOf h st] ∧ FrameHost h.fn [.host] [] s.dev d) := by
  refine gives_main he hs.1 ?_
  rw [hf]
  exact failCmd_refused hs.2 hdnr

/-! Firmware Image Download (R401). -/

theorem get_stageBytes (b : List Byte) (m : SMap Byte) (off i : Nat) :
    SMap.get (fun _ => (0 : Byte)) (stageBytes m off b) i =
      if off ≤ i ∧ i < off + b.length then b.getD (i - off) 0 else SMap.get (fun _ => (0 : Byte)) m i := by
  induction b generalizing m off with
  | nil => rw [stageBytes, if_neg (by simp)]
  | cons x t ih =>
    rw [stageBytes, ih, SMap.get_set, List.length_cons]
    by_cases hfirst : i = off
    · subst hfirst
      simp
    · by_cases hin : off + 1 ≤ i ∧ i < off + 1 + t.length
      · rw [if_pos hin, if_pos (by omega), show i - off = i - (off + 1) + 1 by omega, List.getD_cons_succ]
      · rw [if_neg hin, if_neg hfirst, if_neg (by omega)]

theorem download_staged {d : Dev} {off : Nat} {b : List Byte} (hpf : d.isPf h.fn.val = true) (hlen : off + b.length ≤ 0x7FF000) :
    d.download h off b = (d.onFw (fun f => { f with dl := stageBytes f.dl off b })).failCmd h .success :=
  (if_neg (by simp [hpf])).trans (if_neg (Nat.not_lt.mpr hlen))

theorem download_tooLong {d : Dev} {off : Nat} {b : List Byte} (hpf : d.isPf h.fn.val = true) (hlen : 0x7FF000 < off + b.length) :
    d.download h off b = d.failCmd h .invalidField :=
  (if_neg (by simp [hpf])).trans (if_pos hlen)

theorem download_notPf {d : Dev} (hpf : d.isPf h.fn.val = false) (off : Nat) (b : List Byte) :
    d.download h off b = d.failCmd h .invalidOpcode := if_pos (by simp [hpf])

theorem Keeps.onFw {Q : Nat → Prop} (d : Dev) (f : Machine.Fw → Machine.Fw) : Keeps Q [.fw] [] d (d.onFw f) :=
  .of_frame ((Frame.refl _ _ d).onFw List.mem_cons_self) (fun _ => List.not_mem_nil) rfl rfl (Nat.le_refl _)

theorem firmwareImageDownload_staged {off : Nat} {b : List Byte} (hs : Posting s) (hpf : s.dev.isPf h.fn.val = true)
    (hlen : off + b.length ≤ 0x7FF000) :
    Gives (.firmwareImageDownload h off b) s (fun d =>
      (∀ i, SMap.get (fun _ => (0 : Byte)) d.fw.dl i =
        if off ≤ i ∧ i < off + b.length then b.getD (i - off) 0 else SMap.get (fun _ => (0 : Byte)) s.dev.fw.dl i) ∧
      Sent s.dev d [cqeOf h .success] ∧ FrameHost h.fn [.host, .fw] [] s.dev d) := by
  refine gives_main (exec_firmwareImageDownload s h off b) hs.1 ?_
  rw [download_staged hpf hlen]
  refine ⟨fun i => ?_, failCmd_after (Keeps.onFw s.dev _).mono rfl hs.2 rfl List.mem_cons_self⟩
  rw [failCmd_fw]
  exact get_stageBytes b s.dev.fw.dl off i

/-! Firmware Commit (R401, R402). -/

/-- Cirque and the free values are all that a span leaves open. -/
theorem Keeps.of_cirque {Q : Nat → Prop} {d e : Dev} (h : Frame [.cirque, .free] [] d e) : Keeps Q [.cirque, .free] [] d e :=
  .of_frame h (fun _ => List.not_mem_nil) (congrArg (·.recs) (h.2.1 .pens (by decide)))
    (congrArg (·.stopped) (h.2.1 .host (by decide))) (Nat.le_of_eq (congrArg (·.jseq) (h.2.1 .media (by decide))).symm)

section
variable {P : List Part} {R : List Nat} {a d : Dev}

theorem Frame.cqSet {w : Nat} {x : BitVec 256} (h : Frame P R a d) (hp : Part.cirque ∈ P) : Frame P R a (d.cqSet w x) := h.onCirque hp

theorem Frame.raiseSvn (h : Frame P R a d) (hp : Part.cirque ∈ P) (hf : Part.free ∈ P) : Frame P R a d.raiseSvn :=
  Frame.ite (h.each fun _ _ _ he => (he.onCirque hp).draw hf) h

theorem Frame.eraseSlot {k : Nat} (h : Frame P R a d) (hp : Part.cirque ∈ P) : Frame P R a (d.eraseSlot k) := h.onCirque hp

theorem Frame.progSlot {k : Nat} {b : List Byte} (h : Frame P R a d) (hp : Part.cirque ∈ P) : Frame P R a (d.progSlot k b) := by
  unfold Dev.progSlot
  exact h.each fun _ _ _ he => he.cqSet hp

end

theorem frame_slotCommitted (d : Dev) (k : Nat) (act : Bool) : Frame [.cirque, .free] [] d (d.slotCommitted k act) := by
  have hrefl : Frame [.cirque, .free] [] d d := Frame.refl _ _ d
  have hsvn : Frame [.cirque, .free] [] d (if decide (2 ≤ k) then d else d.raiseSvn) :=
    Frame.ite hrefl (hrefl.raiseSvn (by decide) (by decide))
  have hprog := (hsvn.eraseSlot (k := k) (by decide)).progSlot (k := k) (b := d.stagedContainer (decide (2 ≤ k))) (by decide)
  unfold Dev.slotCommitted
  exact Frame.ite (hprog.cqSet (by decide)) hprog

theorem slotCommitted_host (d : Dev) (k : Nat) (act : Bool) : (d.slotCommitted k act).host = d.host :=
  (frame_slotCommitted d k act).2.1 .host (by decide)

theorem dnr_of_commit (d : Dev) (action : Nat) : d.dnr (if action = 3 then .needsReset else .success) = false := by
  split <;> rfl

/-- A container that fails its checks leaves everything to the completion, within any frame that has HOSTIF. -/
theorem invalidImage_after {P : List Part} {d : Dev} (hpost : d.host.stopped = false) (hP : Part.host ∈ P) :
    Sent d (d.failCmd h .invalidImage) [cqeOf h .invalidImage] ∧ FrameHost h.fn P [] d (d.failCmd h .invalidImage) :=
  failCmd_after (Keeps.refl d) rfl hpost rfl hP

theorem firmwareCommit_image {action k : Nat} (hs : Posting s) (hpf : s.dev.isPf h.fn.val = true) (hk : k < 4)
    (hfree : s.dev.slotInUse k = false) (haction : action ∈ [0, 1, 3]) :
    Gives (.firmwareCommit h action (k + 1)) s (fun d =>
      let code := s.dev.reject (s.dev.stagedContainer (decide (2 ≤ k))) (decide (2 ≤ k))
      (code ≠ 0 → Sent s.dev d [cqeOf h .invalidImage] ∧ d.cirque = s.dev.cirque) ∧
      (code = 0 →
        Sent s.dev d [cqeOf h (if action = 3 then .needsReset else .success)] ∧
        (action = 0 → d.activation k = none) ∧
        (action ≠ 0 → d.recWord k 0 actvMagic = some ((s.dev.topCommit k + 1) % 2 ^ 32))) ∧
      FrameHost h.fn [.host, .cirque, .free] [] s.dev d) := by
  have hle : action ≤ 3 ∧ action ≠ 2 := by
    simp only [List.mem_cons, List.not_mem_nil, or_false] at haction
    omega
  refine gives_main (exec_firmwareCommit s h action (k + 1)) hs.1 ?_
  dsimp only
  rw [Dev.commit_slot hpf hle.1 hk, if_neg hle.2]
  by_cases hcode : s.dev.reject (s.dev.stagedContainer (decide (2 ≤ k))) (decide (2 ≤ k)) = 0
  · rw [Dev.commitImage_passes _ _ hfree hcode]
    obtain ⟨hsent, hframe⟩ := failCmd_after (P := [.host, .cirque, .free]) (R := []) (h := h)
      (Keeps.of_cirque (frame_slotCommitted s.dev k (decide (action ≠ 0)))).mono
      (congrArg (·.out) (slotCommitted_host ..)) hs.2 (dnr_of_commit _ action) List.mem_cons_self
    refine ⟨fun hne => absurd hcode hne, fun _ => ⟨hsent, fun h0 => ?_, fun h0 => ?_⟩, hframe⟩
    · rw [decide_eq_false (not_not.mpr h0)]
      refine Dev.activation_none fun i hi => ?_
      rw [Dev.recWord_congr (failCmd_cirque ..) hk (by omega)]
      exact Dev.recWord_erased hk (by omega) (s.dev.slotCommitted_recErased hk i (by omega)).1
    · rw [decide_eq_true h0, Dev.recWord_congr (failCmd_cirque ..) hk (by decide)]
      exact s.dev.slotCommitted_recWord hk
  · rw [Dev.commitImage_rejected _ _ hfree hcode]
    obtain ⟨hsent, hframe⟩ := invalidImage_after (P := [.host, .cirque, .free]) (h := h) hs.2 List.mem_cons_self
    exact ⟨fun _ => ⟨hsent, failCmd_cirque ..⟩, fun h0 => absurd h0 hcode, hframe⟩

theorem firmwareCommit_activate {k j : Nat} (hs : Posting s) (hpf : s.dev.isPf h.fn.val = true) (hk : k < 4)
    (hj : s.dev.freeActivate k = some j) :
    Gives (.firmwareCommit h 2 (k + 1)) s (fun d =>
      let code := s.dev.reject (s.dev.slotBytes k) (decide (2 ≤ k))
      (code ≠ 0 → Sent s.dev d [cqeOf h .invalidImage] ∧ d.cirque = s.dev.cirque) ∧
      (code = 0 → Sent s.dev d [cqeOf h .success] ∧ ((recBase k + j) / 128 ∉ s.dev.cirque.cut →
        d.recWord k j actvMagic = some ((s.dev.topCommit k + 1) % 2 ^ 32))) ∧
      FrameHost h.fn [.host, .cirque] [] s.dev d) := by
  refine gives_main (exec_firmwareCommit s h 2 (k + 1)) hs.1 ?_
  dsimp only
  rw [Dev.commit_slot hpf (by decide) hk, if_pos rfl]
  by_cases hcode : s.dev.reject (s.dev.slotBytes k) (decide (2 ≤ k)) = 0
  · have hset : Frame [.host, .cirque] [] s.dev (s.dev.cqSet (recBase k + j) (recWordOf actvMagic (s.dev.topCommit k + 1))) :=
      (Frame.refl _ _ s.dev).cqSet (by decide)
    rw [Dev.activate_passes hj hcode, ← failCmd_success]
    obtain ⟨hsent, hframe⟩ := failCmd_after (h := h) (.of_frame hset (fun _ => List.not_mem_nil) rfl rfl (Nat.le_refl _)) rfl hs.2
      (st := .success) rfl List.mem_cons_self
    refine ⟨fun hne => absurd hcode hne, fun _ => ⟨hsent, fun hcut => ?_⟩, hframe⟩
    have hlt := Dev.freeActivate_lt hj
    rw [Dev.recWord_congr (failCmd_cirque ..) hk (by omega)]
    exact Dev.recWord_cqSet hk (by omega) hcut _
  · rw [Dev.activate_rejected hj hcode]
    obtain ⟨hsent, hframe⟩ := invalidImage_after (P := [.host, .cirque]) (h := h) hs.2 List.mem_cons_self
    exact ⟨fun _ => ⟨hsent, failCmd_cirque ..⟩, fun h0 => absurd h0 hcode, hframe⟩

theorem firmwareCommit_invalidSlot {action slot : Nat} (hs : Posting s) (hpf : s.dev.isPf h.fn.val = true) (haction : action ≤ 3)
    (hslot : slot = 0 ∨ 4 < slot ∨ (action ≠ 2 ∧ s.dev.slotInUse (slot - 1) = true)) :
    Gives (.firmwareCommit h action slot) s (fun d => Sent s.dev d [cqeOf h .invalidSlot] ∧ FrameHost h.fn [.host] [] s.dev d) := by
  refine gives_refused (exec_firmwareCommit s h action slot) hs ?_ rfl
  by_cases hout : slot = 0 ∨ 4 < slot
  · exact Dev.commit_noSlot hpf haction hout
  · obtain ⟨k, rfl⟩ : ∃ k, slot = k + 1 := ⟨slot - 1, by omega⟩
    obtain ⟨hne, hused⟩ : action ≠ 2 ∧ s.dev.slotInUse k = true := by
      rcases hslot with h0 | h4 | hused
      · exact absurd (.inl h0) hout
      · exact absurd (.inr h4) hout
      · exact hused
    exact ((Dev.commit_slot hpf haction (by omega)).trans (if_neg hne)).trans (Dev.commitImage_inUse _ _ hused)

/-- Firmware commands of a function that is not physical (R256). -/
theorem firmware_notPf (hs : Posting s) (hpf : s.dev.isPf h.fn.val = false) (off : Nat) (b : List Byte) (action slot : Nat) :
    ∀ i, i ∈ [Instr.firmwareImageDownload h off b, .firmwareCommit h action slot] →
      Gives i s (fun d => Sent s.dev d [cqeOf h .invalidOpcode] ∧ FrameHost h.fn [.host] [] s.dev d) := by
  refine List.forall_mem_cons.mpr ⟨?_, List.forall_mem_singleton.mpr ?_⟩
  · exact gives_refused (exec_firmwareImageDownload s h off b) hs (download_notPf hpf off b) rfl
  · exact gives_refused (exec_firmwareCommit s h action slot) hs (Dev.commit_notPf hpf action slot) rfl

/-! Device Self-test (R256). -/

theorem selfTestCmd_starts {d : Dev} {stc : Nat} (hstc : stc = 1 ∨ stc = 2) (hnone : d.host.selfTest = none) :
    d.selfTestCmd h stc = (d.onHost (fun x => { x with selfTest := some (stc, d.tick) })).failCmd h .success := by
  unfold Dev.selfTestCmd
  rw [if_neg (by omega), if_neg (by omega), if_neg (by simp [hnone])]
  rfl

theorem selfTestCmd_busy {d : Dev} {stc : Nat} (hstc : stc = 1 ∨ stc = 2) (hrun : d.host.selfTest ≠ none) :
    d.selfTestCmd h stc = d.failCmd h .selfTestBusy := by
  unfold Dev.selfTestCmd
  rw [if_neg (by omega), if_neg (by omega), if_pos (Option.isSome_iff_ne_none.mpr hrun)]

theorem selfTestCmd_aborts {d : Dev} {t : Nat × Nat} (hrun : d.host.selfTest = some t) :
    d.selfTestCmd h 0xF =
      (d.onHost (fun x => { x with selfTest := none, stResults := (t.1, 1) :: x.stResults })).failCmd h .success := by
  unfold Dev.selfTestCmd
  rw [if_pos rfl, hrun]
  rfl

theorem deviceSelfTest_starts {stc : Nat} (hs : Posting s) (hstc : stc = 1 ∨ stc = 2) (hnone : s.dev.host.selfTest = none) :
    Gives (.deviceSelfTest h stc) s (fun d =>
      d.host.selfTest = some (stc, s.dev.tick) ∧ Sent s.dev d [cqeOf h .success] ∧ FrameHost h.fn [.host] [] s.dev d) := by
  refine gives_main (exec_deviceSelfTest s h stc) hs.1 ?_
  rw [selfTestCmd_starts hstc hnone]
  exact ⟨(failCmd_selfTest ..).1, failCmd_after (Keeps.onHost s.dev rfl) rfl hs.2 rfl List.mem_cons_self⟩

theorem deviceSelfTest_busy {stc : Nat} (hs : Posting s) (hstc : stc = 1 ∨ stc = 2) (hrun : s.dev.host.selfTest ≠ none) :
    Gives (.deviceSelfTest h stc) s (fun d =>
      d.host.selfTest = s.dev.host.selfTest ∧ Sent s.dev d [cqeOf h .selfTestBusy] ∧ FrameHost h.fn [.host] [] s.dev d) := by
  refine gives_main (exec_deviceSelfTest s h stc) hs.1 ?_
  rw [selfTestCmd_busy hstc hrun]
  exact ⟨(failCmd_selfTest ..).1, failCmd_refused hs.2 rfl⟩

theorem deviceSelfTest_aborts {t : Nat × Nat} (hs : Posting s) (hrun : s.dev.host.selfTest = some t) :
    Gives (.deviceSelfTest h 0xF) s (fun d =>
      d.host.selfTest = none ∧ d.host.stResults = (t.1, 1) :: s.dev.host.stResults ∧ Sent s.dev d [cqeOf h .success] ∧
      FrameHost h.fn [.host] [] s.dev d) := by
  refine gives_main (exec_deviceSelfTest s h 0xF) hs.1 ?_
  rw [selfTestCmd_aborts hrun]
  obtain ⟨hself, hres⟩ := failCmd_selfTest
    (s.dev.onHost (fun x => { x with selfTest := none, stResults := (t.1, 1) :: x.stResults })) h .success
  exact ⟨hself, hres, failCmd_after (Keeps.onHost s.dev rfl) rfl hs.2 rfl List.mem_cons_self⟩

/-- Settles O35: the slots lie below the firmware's own regions and a container ends before its slot's record, so that a commit leaves
there what it activates and no more; a completion touches neither Cirque nor the staged bytes nor the self-test. -/
theorem firmwareUpdate : Obligations.FirmwareUpdate := by
  unfold Obligations.FirmwareUpdate
  refine ⟨fun s h off b hs hpf => ⟨firmwareImageDownload_staged hs hpf, fun hlen => ?_⟩,
    fun s h off b action slot hs hpf => firmware_notPf hs hpf off b action slot,
    fun s h action k hs hpf hk hfree haction => firmwareCommit_image hs hpf hk hfree haction,
    fun s h k j hs hpf hk hj => firmwareCommit_activate hs hpf hk hj,
    fun s h action slot hs hpf haction hslot => firmwareCommit_invalidSlot hs hpf haction hslot,
    fun s h stc hs hstc => ⟨deviceSelfTest_starts hs hstc, deviceSelfTest_busy hs hstc⟩,
    fun s h t hs hrun => deviceSelfTest_aborts hs hrun⟩
  exact gives_refused (exec_firmwareImageDownload s h off b) hs (download_tooLong hpf hlen) rfl

end Sys2Proof
end

end

section
/-! A step (assumption 30): the front of the queue, or one idle cycle. -/

namespace Sys2Proof

open Machine

set_option Elab.async false in
/-- Time that passes, inside a frame that leaves it open. -/
theorem Frame.tickTo {P : List Part} {R : List Nat} {a d : Dev} {n : Nat} (h : Frame P R a d) (hp : Part.tick ∈ P) :
    Frame P R a { d with tick := n } := by
  refine h.step rfl (fun p hq hn => ?_) (.inr ⟨rfl, Nat.le_refl _⟩) (fun _ _ => rfl) fun _ => rfl
  cases p with
  | tick => exact absurd hp hq
  | cirque => exact absurd rfl hn
  | _ => rfl

/-- The trips of R355 grow older in Tor alone. -/
theorem ageTrips_eq (d : Dev) : ∃ f : Tor → Tor, d.ageTrips = d.onTor f ∧ ∀ t, (f t).mainOn = t.mainOn ∧ (f t).sleepReq = t.sleepReq := by
  unfold Dev.ageTrips
  split
  · exact ⟨id, rfl, fun _ => ⟨rfl, rfl⟩⟩
  · exact ⟨_, rfl, fun _ => ⟨rfl, rfl⟩⟩

/-- An idle cycle in which no self-test, sleep or reset is asked for: time passes, and the throttle's time is counted. -/
theorem fabCycle_eq {d : Dev} (ht : d.host.selfTest = none) (hs : d.tor.sleepReq = 0) (hr : d.fw.resetReq = none) :
    d.fabCycle = { d with tick := d.tick + 1 } ∨ d.fabCycle = ({ d with tick := d.tick + 1 } : Dev).count A.THERM_THROT_MS 32 1 := by
  have hidle : ∀ e : Dev, e.host.selfTest = none → e.tor.sleepReq = 0 → e.fw.resetReq = none → e.selfTestTick.sleepCheck.resetCheck = e := by
    intro e h1 h2 h3
    simp [Dev.selfTestTick, Dev.sleepCheck, Dev.resetCheck, h1, h2, h3]
  unfold Dev.fabCycle
  extract_lets ms d1 d2
  by_cases hc : (ms && d1.bit A.THERM_STAT 2) = true
  · have h2 : d2 = d1.count A.THERM_THROT_MS 32 1 := if_pos hc
    rw [h2]
    exact .inr (hidle _ ht hs hr)
  · have h2 : d2 = d1 := if_neg hc
    rw [h2]
    exact .inl (hidle _ ht hs hr)

/-- Settles O57: the queue is taken from the front, and an idle cycle is one cycle of time. -/
theorem stepping : Obligations.Stepping := by
  unfold Obligations.Stepping
  refine ⟨fun s c rest h => by simp only [step, h], fun s hrun hq ht hs hr => ?_⟩
  obtain ⟨f, hage, hf⟩ := ageTrips_eq s.dev
  have hon : s.dev.ageTrips.tor.mainOn = true := by rw [hage]; exact (hf _).1.trans hrun
  have hadv : s.dev.advance = s.dev.ageTrips.fabCycle := if_pos hon
  have hstep : step s = .next { s with dev := s.dev.ageTrips.fabCycle } := by
    simp only [step, hq, idleStep, hadv]
  refine ⟨_, hstep, hq, ?_⟩
  have hframe : Frame [.tick, .tor] [A.THERM_THROT_MS] s.dev { s.dev.onTor f with tick := s.dev.tick + 1 } :=
    ((Frame.refl _ _ s.dev).onTor (by decide)).tickTo (by decide)
  rw [hage]
  obtain h | h := fabCycle_eq (d := s.dev.onTor f) ht ((hf _).2.trans hs) hr
  · rw [h]
    exact ⟨rfl, hframe⟩
  · rw [h]
    exact ⟨rfl, hframe.count (List.mem_singleton_self _)⟩

end Sys2Proof
end

section
/-! A register map with two entries for THERM_SDINFO. CLK_BRST of the block 3 drops the entry that it takes to the Reset value, and so
uncovers the one behind it. The clause of O4 on that reset asks for every register's value of states whose map need not be in the
canonical form (`Canon`). -/

namespace Sys2Proof

open Machine

/-- THERM_SDINFO is 0 by the entry that is read, and an entry behind it holds a count of 1. -/
def twiceListedTrip : State :=
  { dev := { Dev.cold with regs := [(A.THERM_SDINFO, 0), (A.THERM_SDINFO, 1)] }, pending := [] }

theorem twiceListedTrip_running : Running twiceListedTrip := rfl

theorem exec_clkBrst {s : State} (h : Running s) (mule : Bool) (v : W64) :
    exec (.clkBrst mule v) s = .next { s with dev := s.dev.brst mule v } :=
  mainDo_running h (fun d => d.brst mule v)

theorem twiceListedTrip_rd : twiceListedTrip.dev.rd A.THERM_SDINFO = 0 := by decide +kernel

/-- The reset keeps the Tor bits of the second entry, and that is then the first. -/
theorem twiceListedTrip_reset_rd : (twiceListedTrip.dev.brst false (BitVec.twoPow 64 11)).rd A.THERM_SDINFO = 1 := by
  decide +kernel

/-- Refutes O4: the premises of its clause on the reset of THERM take in register maps out of canonical form, and of one of these
THERM_SDINFO, which the reset should keep at 0, reads 1. -/
theorem not_blockResets : ¬ Obligations.BlockResets := by
  unfold Obligations.BlockResets
  rintro ⟨-, htherm, -⟩
  obtain ⟨hregs, -⟩ :=
    (htherm twiceListedTrip twiceListedTrip_running rfl rfl).holds_of_exec (exec_clkBrst twiceListedTrip_running false _)
  have hinfo := hregs A.THERM_SDINFO (by decide +kernel) (by decide)
  rw [twiceListedTrip_reset_rd, twiceListedTrip_rd] at hinfo
  exact absurd hinfo (by decide +kernel)

end Sys2Proof
end

section
/-! A member read in flight of a Col command that has ended (R109). COL drains until it is over, so the entry into S1 waits for it; the
clause of O8 on the link's L1.2 asks that no command is outstanding, and says nothing of such a read. -/

namespace Sys2Proof

open Machine

/-- SOLO with PS2 selected: every block is idle, and one member read is left of a command that has ended. -/
def strayRead : State :=
  { dev := ((Dev.cold.onFw (fun f => { f with mode := .solo })).onTor (fun t => { t with ps := 2 })).onHost
      (fun h => { h with strays := [0] })
    pending := [] }

set_option Elab.async false in
theorem strayRead_running : Running strayRead := rfl

theorem strayRead_latch : strayRead.dev.tor.latch = false := rfl

theorem strayRead_maySleep : strayRead.dev.maySleep = true := rfl

theorem strayRead_noCommand : strayRead.dev.noCommand = true := rfl

theorem strayRead_hen : strayRead.dev.fld A.HEN_STAT 1 0 = 0 := rfl

theorem strayRead_mules : ∀ ch, ch < 64 → strayRead.dev.fld (A.MULE_STAT ch) 1 0 = 0 := by decide +kernel

theorem strayRead_noWake : strayRead.dev.bit A.PWR_STAT 2 = false := rfl

theorem exec_linkL12Entry {s : State} (h : Running s) : exec .linkL12Entry s = .next { s with dev := s.dev.l12 } :=
  mainDo_running h Dev.l12

/-- COL is DRAINING, and the entry waits. -/
theorem strayRead_l12_mainOn : strayRead.dev.l12.tor.mainOn = true := by decide +kernel

/-- Refutes O8: no command is outstanding and the Mules and Hen are idle, but COL drains until a read of an ended command is over, and
L1.2 does not yet bring S1. -/
theorem not_sleepEntry : ¬ Obligations.SleepEntry := by
  unfold Obligations.SleepEntry
  rintro ⟨-, -, -, -, hlink, -⟩
  obtain ⟨-, hoff, -⟩ :=
    (hlink strayRead strayRead_running strayRead_maySleep strayRead_noCommand rfl strayRead_latch rfl strayRead_hen strayRead_mules
      strayRead_noWake).holds_of_exec (exec_linkL12Entry strayRead_running)
  exact absurd (strayRead_l12_mainOn.symm.trans hoff) (by decide)

end Sys2Proof
end

section
/-! WARN completes an event request where one is outstanding, and the completion marks a page of a dirty log where the Pen keeps one. The
frame of the clause of O10 on a conversion keeps every byte of memory. -/

namespace Sys2Proof

open Machine

theorem exec_junctionConversion (j : Fin 8) (milli : Int) (s : State) :
    exec (.junctionConversion j milli) s = .next { s with dev := s.dev.junction j.val milli } := rfl

/-- A junction at 100 °C sets WARN, and the completion of the event request marks page 0. -/
theorem loggedEvents_junction_byte : (loggedEvents.dev.junction 0 100000).byte 0x1000000000 = 1 := by decide +kernel

/-- Refutes O10: the warning of a conversion at 100 °C completes an event request, which marks a page of a log, and the frame of the
clause keeps every byte. -/
theorem not_thermalConversion : ¬ Obligations.ThermalConversion := by
  unfold Obligations.ThermalConversion
  rintro ⟨hconv, -⟩
  obtain ⟨-, -, -, -, -, -, hmem⟩ :=
    (hconv loggedEvents 0 100000 loggedEvents_running).holds_of_exec (exec_junctionConversion 0 100000 loggedEvents)
  have hsame : (loggedEvents.dev.junction 0 100000).byte 0x1000000000 = loggedEvents.dev.byte 0x1000000000 := hmem 0x1000000000
  rw [loggedEvents_junction_byte, loggedEvents_byte] at hsame
  exact absurd hsame (by decide)

end Sys2Proof
end

section
/-! An alert that is held while the unit takes a dynamic address (R370): as an I3C target it leaves SB_ALERT_N high. The frame of the
clause of O16 on ENTDAA keeps every pin. -/

namespace Sys2Proof

open Machine

/-- A strapped SMBus target that holds SB_ALERT_N low for source 0. -/
def heldAlert : State :=
  { dev := { ((Dev.cold.setBit A.SB_ALERTSRC 0 true).setBit A.SB_ALERTEN 0 true).onPins (fun p => { p with alertN := true }) with
      board := { Dev.cold.board with sbMode := true } }
    pending := [] }

theorem heldAlert_sbMode : heldAlert.dev.board.sbMode = true := rfl

theorem heldAlert_noDaddr : heldAlert.dev.bit A.SB_DADDR 7 = false := rfl

theorem heldAlert_alertN : heldAlert.dev.pins.alertN = true := rfl

set_option Elab.async false in
theorem exec_entdaa {s : State} (da : BitVec 7) (hstrap : s.dev.board.sbMode = true) (hfree : s.dev.bit A.SB_DADDR 7 = false) :
    exec (.entdaa da) s = .next { s with dev := s.dev.takeDa da.toNat } := by
  show execEntdaa da s = _
  simp [execEntdaa, aonDo, Dev.ccc, hstrap, hfree]

/-- The alert goes on as an in-band interrupt, and SB_ALERT_N is released. -/
theorem heldAlert_takeDa_alertN : (heldAlert.dev.takeDa 1).pins.alertN = false := by decide +kernel

/-- Refutes O16: a unit that takes a dynamic address with an alert held signals it again in its new role (R370), which releases
SB_ALERT_N, and the frame of the clause keeps every pin. -/
theorem not_i3cCodes : ¬ Obligations.I3cCodes := by
  unfold Obligations.I3cCodes
  rintro ⟨hentdaa, -⟩
  obtain ⟨-, -, -, hparts, -⟩ :=
    (hentdaa heldAlert 1 heldAlert_sbMode heldAlert_noDaddr).holds_of_exec (exec_entdaa 1 heldAlert_sbMode heldAlert_noDaddr)
  have hpins : (heldAlert.dev.takeDa 1).pins = heldAlert.dev.pins := hparts .pins (by decide)
  have halert : (heldAlert.dev.takeDa 1).pins.alertN = true := (congrArg Pins.alertN hpins).trans heldAlert_alertN
  exact absurd (halert.symm.trans heldAlert_takeDa_alertN) (by decide)

end Sys2Proof
end

section
/-! An MCTP packet in S3 (R342, R369): while OSC16 stands, the packet starts it and is NACKed, and the wake begins with a later one. The
clause of O17 on the sleep states asks for the wake at once. -/

namespace Sys2Proof

open Machine

/-- A unit with an address in S3, whose OSC16 stands. -/
def stoppedOsc : State :=
  { dev := (Dev.cold.setBit A.SB_ADDR 7 true).onTor (fun t => { t with pwr := .s3, mainOn := false, osc16 := false }), pending := [] }

theorem stoppedOsc_wakes : Wakes 2 stoppedOsc.dev := Or.inr ⟨rfl, Or.inr rfl⟩

theorem stoppedOsc_listens : stoppedOsc.dev.listens = true := rfl

theorem exec_getEndpointId (s : State) :
    exec .getEndpointId s =
      .next { s with dev := s.dev.mctp (fun d => d.answer [0, BitVec.ofNat 8 (d.fld A.SB_EID 7 0), 0, 0]) } := rfl

/-- The packet starts OSC16, and the part stays in S3. -/
theorem stoppedOsc_mctp_pwr (f : Dev → Dev) : (stoppedOsc.dev.mctp f).tor.pwr = .s3 := rfl

/-- Refutes O17: in S3 with OSC16 stopped a packet begins no wake. -/
theorem not_mctpMessages : ¬ Obligations.MctpMessages := by
  unfold Obligations.MctpMessages
  rintro ⟨-, -, hwake⟩
  obtain ⟨-, ⟨hwaking, -⟩, -⟩ :=
    (hwake stoppedOsc stoppedOsc_wakes stoppedOsc_listens 0 0 .getEndpointId (by simp)).holds_of_exec (exec_getEndpointId stoppedOsc)
  rw [stoppedOsc_mctp_pwr] at hwaking
  exact absurd hwaking (by decide)

end Sys2Proof
end

section
/-! An alarm that came with a clock failure is taken up when the clocks return (R220, R322): the commands to encrypted namespaces that
wait for admission complete. The frame of the clause of O2 on the last lock keeps the Pens, whose list of those commands changes. -/

namespace Sys2Proof

open Machine

/-- A read of the encrypted namespace of index 0 that waits for admission. -/
def keyedWait : PenCmd :=
  { seq := 0, pen := 0, wr := false, cls := 1, deadline := 0, cost := 16, col := false, h := { adminHdr with qid := 1 }, q := 0
    c := { oneLba with nsid := 1 } }

/-- The main clocks have failed, the alarm holds, and PLL 0 is the last without lock. -/
def keyedFailure : State :=
  { dev := ((((((Dev.cold.setReg A.CLK_STAT 0x78).setBit A.CIPHER_STAT 1 true).setBit A.CIPHER_ALARM 2 true).onTor (fun t =>
        { t with clkFail := true, mainOn := false })).onMedia (fun m => { m with nss := [{ plainNs 0 with keyed := true }] })).onPens
          (fun p => { p with wait := [keyedWait] }))
    pending := [] }

theorem keyedFailure_stopped : ¬ Running keyedFailure := Bool.false_ne_true

theorem keyedFailure_xtal : keyedFailure.dev.bit A.CLK_STAT 6 = true := by decide +kernel

set_option Elab.async false in
theorem keyedFailure_locks : ∀ k : Fin 4, k ≠ 0 → keyedFailure.dev.bit A.CLK_STAT (2 + k.val) = true := by decide +kernel

theorem keyedFailure_wait : keyedFailure.dev.pens.wait.length = 1 := rfl

/-- The part after a PLL_LOCK: the blocks go on where the main clocks have returned. -/
def afterLock (d : Dev) (i : Fin 4) (bad : Byte) (corr : Nat) : Dev :=
  let e := d.pllLocks i.val bad.toNat corr
  if d.tor.mainOn then e else if e.tor.mainOn then (e.issueAllCh).pinsAct else e

theorem exec_pllLock (i : Fin 4) (bad : Byte) (corr : Nat) (s : State) :
    exec (.pllLock i bad corr) s = .next { s with dev := afterLock s.dev i bad corr } := rfl

/-- With the lock the firmware fails the command. -/
theorem keyedFailure_lock_wait : (afterLock keyedFailure.dev 0 0 0).pens.wait.length = 0 := by decide +kernel

/-- Refutes O2: the clocks return with an alarm to take up, and the Pens lose the commands to encrypted namespaces that wait for
admission, while the frame of the clause keeps the Pens. -/
theorem not_clockFailure : ¬ Obligations.ClockFailure := by
  unfold Obligations.ClockFailure
  rintro ⟨-, -, hlock⟩
  obtain ⟨-, -, -, -, -, -, -, -, -, -, -, hparts, -⟩ :=
    (hlock keyedFailure 0 0 0 rfl rfl keyedFailure_stopped keyedFailure_xtal keyedFailure_locks rfl rfl rfl rfl ⟨rfl, rfl⟩ rfl rfl
      rfl).holds_of_exec (exec_pllLock 0 0 0 keyedFailure)
  have hpens : (afterLock keyedFailure.dev 0 0 0).pens = keyedFailure.dev.pens := hparts .pens (by decide)
  have hwait : (afterLock keyedFailure.dev 0 0 0).pens.wait.length = 1 :=
    (congrArg (fun p => p.wait.length) hpens).trans keyedFailure_wait
  exact absurd (hwait.symm.trans keyedFailure_lock_wait) (by decide)

end Sys2Proof
end

section
/-! The frame of a Tor packet (R360, R363 to R365): what is taken, and what a reply leaves. -/

namespace Sys2Proof

open Machine

/-- What a Tor packet that has been taken leaves: its part's own effect, the reply, and the reply that a repeat gets. -/
def torReplied (op : Nat) (seq : Byte) (r : Dev × Nat × List Byte) : Dev :=
  let b := BitVec.ofNat 8 (3 + r.2.2.length) :: BitVec.ofNat 8 op :: seq :: BitVec.ofNat 8 r.2.1 :: r.2.2
  (r.1.answer b).onTor (fun t => { t with last := some { op := BitVec.ofNat 8 op, seq := seq, reply := b } })

theorem torReplied_replied (op : Nat) (seq : Byte) (r : Dev × Nat × List Byte) : Replied (torReplied op seq r) op seq r.2.1 r.2.2 :=
  ⟨rfl, rfl⟩

@[simp] theorem torReplied_rd (op : Nat) (seq : Byte) (r : Dev × Nat × List Byte) (a : Nat) : (torReplied op seq r).rd a = r.1.rd a := rfl
@[simp] theorem torReplied_pwr (op : Nat) (seq : Byte) (r : Dev × Nat × List Byte) : (torReplied op seq r).tor.pwr = r.1.tor.pwr := rfl
@[simp] theorem torReplied_saved (op : Nat) (seq : Byte) (r : Dev × Nat × List Byte) : (torReplied op seq r).tor.saved = r.1.tor.saved :=
  rfl

theorem torReplied_frame {P : List Part} {R : List Nat} {a : Dev} {op : Nat} {seq : Byte} {r : Dev × Nat × List Byte}
    (h : Frame P R a r.1) (hp : Part.tor ∈ P) : Frame P R a (torReplied op seq r) := (h.onTor hp).onTor hp

theorem torPacket_taken {pec : Bool} {op : Nat} {seq : Byte} {d : Dev} (h : TorTakes pec op seq d) (body : Dev → Dev × Nat × List Byte) :
    d.torPacket pec op seq body = torReplied op seq (body (d.count (A.SB_CNT 0) 64 1)) := by
  obtain ⟨hpwr, hlistens, hosc, rfl, hfresh⟩ := h
  unfold Dev.torPacket
  rw [if_neg hpwr, hlistens, hosc]
  dsimp only [Bool.not_true, Bool.false_eq_true, if_false, Dev.count_tor]
  cases hlast : d.tor.last with
  | none => rfl
  | some l => exact if_neg (hfresh l hlast)

theorem torPacket_repeat {d : Dev} {l : TorLast} {op : Nat} (hpwr : d.tor.pwr ≠ .off) (hlistens : d.listens = true)
    (hosc : d.tor.osc16 = true) (hlast : d.tor.last = some l) (hop : l.op = BitVec.ofNat 8 op) (body : Dev → Dev × Nat × List Byte) :
    d.torPacket true op l.seq body = (d.count (A.SB_CNT 0) 64 1).answer l.reply := by
  unfold Dev.torPacket
  rw [if_neg hpwr, hlistens, hosc]
  simp [hlast, hop]

theorem torPacket_badPec {d : Dev} {op : Nat} {seq : Byte} (hpwr : d.tor.pwr ≠ .off) (hlistens : d.listens = true)
    (hosc : d.tor.osc16 = true) (body : Dev → Dev × Nat × List Byte) :
    d.torPacket false op seq body = ((d.answer []).count (A.SB_CNT 2) 64 1).count (A.SB_CNT 3) 64 1 := by
  unfold Dev.torPacket
  rw [if_neg hpwr, hlistens, hosc]
  rfl

theorem torPacket_deaf {d : Dev} {pec : Bool} {op : Nat} {seq : Byte} (hpwr : d.tor.pwr ≠ .off) (hlistens : d.listens = false)
    (body : Dev → Dev × Nat × List Byte) : d.torPacket pec op seq body = d.answer [] := by
  unfold Dev.torPacket
  rw [if_neg hpwr, hlistens]
  rfl

end Sys2Proof
end

section
/-! The Tor requests that read (R366, R367). -/

namespace Sys2Proof

open Machine

set_option Elab.async false in
/-- A packet that is taken completes with what its body leaves. -/
theorem gives_taken {i : Instr} {s : State} {pec : Bool} {op : Nat} {seq : Byte} {body : Dev → Dev × Nat × List Byte} {p : Dev → Prop}
    (he : exec i s = aonDo s (fun d => d.torPacket pec op seq body)) (h : TorTakes pec op seq s.dev)
    (hp : p (torReplied op seq (body (s.dev.count (A.SB_CNT 0) 64 1)))) : Gives i s p :=
  gives_of (f := fun d => d.torPacket pec op seq body) he (by rw [torPacket_taken h]; exact hp)

/-- The frame of a packet that changes nothing but the count of those taken. -/
theorem torReplied_count_frame (d : Dev) (op : Nat) (seq : Byte) (x : Nat × List Byte) :
    Frame [.tor] [A.SB_CNT 0] d (torReplied op seq (d.count (A.SB_CNT 0) 64 1, x)) :=
  torReplied_frame ((Frame.refl _ _ d).count (by simp)) (by decide)

/-- The count is of no register that a request reports. -/
theorem count_sbCnt_rd (d : Dev) {r : Nat} (hr : r ≠ A.SB_CNT 0) : (d.count (A.SB_CNT 0) 64 1).rd r = d.rd r := by
  rw [Dev.count_rd, if_neg hr]

theorem count_sbCnt_bit (d : Dev) {r : Nat} (hr : r ≠ A.SB_CNT 0) (n : Nat) : (d.count (A.SB_CNT 0) 64 1).bit r n = d.bit r n :=
  Dev.bit_congr (count_sbCnt_rd d hr) n

theorem count_sbCnt_fld (d : Dev) {r : Nat} (hr : r ≠ A.SB_CNT 0) (hi lo : Nat) :
    (d.count (A.SB_CNT 0) 64 1).fld r hi lo = d.fld r hi lo :=
  Dev.fld_congr (count_sbCnt_rd d hr) hi lo

end Sys2Proof
end

section
/-! The Tor requests that read (R366, R367): O12. -/

namespace Sys2Proof

open Machine

theorem count_sbCnt_linkUp (d : Dev) : (d.count (A.SB_CNT 0) 64 1).linkUp = d.linkUp := by
  rw [Dev.linkUp, count_sbCnt_fld d (by decide), Dev.linkUp]

theorem count_sbCnt_mirrored (d : Dev) : (d.count (A.SB_CNT 0) 64 1).mirrored = d.mirrored := by
  simp only [Dev.mirrored, Dev.devstat, Dev.peerUp, count_sbCnt_linkUp]
  rfl

theorem count_sbCnt_torState (d : Dev) : (d.count (A.SB_CNT 0) 64 1).torState = d.torState := rfl
theorem count_sbCnt_faultN (d : Dev) : (d.count (A.SB_CNT 0) 64 1).faultN = d.faultN := rfl

theorem count_sbCnt_torStatusData (d : Dev) : (d.count (A.SB_CNT 0) 64 1).torStatusData = d.torStatusData := by
  simp only [Dev.torStatusData, count_sbCnt_mirrored, count_sbCnt_torState, count_sbCnt_faultN, Dev.count_pins, Dev.count_board,
    count_sbCnt_rd d (r := A.TOR_STAT) (by decide), count_sbCnt_bit d (r := A.SB_ENUM) (by decide),
    count_sbCnt_fld d (r := A.SB_ADDR) (by decide), count_sbCnt_fld d (r := A.SB_DADDR) (by decide),
    count_sbCnt_fld d (r := A.SB_ALERTSRC) (by decide)]
  rfl

theorem take_drop_flatMap {α β : Type} {g : α → List β} {k : Nat} (hk : ∀ x, (g x).length = k) :
    ∀ (l : List α) (t : List β) (i : Nat) (h : i < l.length), (((l.flatMap g) ++ t).drop (k * i)).take k = g l[i]
  | x :: xs, t, 0, _ => by simp [hk]
  | x :: xs, t, i + 1, h => by
    have hskip : k * (i + 1) = (g x).length + k * i := by rw [hk]; ring
    rw [List.flatMap_cons, List.append_assoc, hskip, ← List.drop_drop, List.drop_left]
    exact take_drop_flatMap hk xs t i (Nat.lt_of_succ_lt_succ h)

/-- A reading of TOR_TEMP_READ: 0 where the sensor has none. -/
theorem torTemps_length (d : Dev) : d.torTemps.length = 51 := by
  simp [Dev.torTemps, leBytes_length]

theorem Dev.fld_lt_two_pow (d : Dev) (r hi lo : Nat) : d.fld r hi lo < 2 ^ (hi + 1 - lo) := Nat.mod_lt _ (Nat.two_pow_pos _)

/-- The readings of the junctions stand behind the three bytes that say which are valid. -/
theorem torTemps_eq (d : Dev) : ∃ v t, d.torTemps = leBytes 3 v ++ ((List.range 8).flatMap (fun j =>
    leBytes 2 (if d.bit (A.THERM_TJ j) 16 && (d.tor.mainOn || decide (j = 0)) then d.fld (A.THERM_TJ j) 15 0 else 0)) ++ t) :=
  ⟨_, _, List.append_assoc ..⟩

theorem torTemps_tj {d : Dev} (hon : d.tor.mainOn = true) {j : Nat} (hj : j < 8) (hv : d.bit (A.THERM_TJ j) 16 = true) :
    ofLe ((d.torTemps.drop (3 + 2 * j)).take 2) = d.fld (A.THERM_TJ j) 15 0 := by
  have hlt : d.fld (A.THERM_TJ j) 15 0 < 256 ^ 2 := Dev.fld_lt_two_pow d _ 15 0
  obtain ⟨v, t, ht⟩ := torTemps_eq d
  rw [ht, ← List.drop_drop, List.drop_left' (leBytes_length 3 _), take_drop_flatMap (fun x => leBytes_length 2 _) _ _ j (by simpa using hj),
    List.getElem_range, if_pos (by rw [hv, hon]; rfl)]
  exact ofLe_leBytes _ _ hlt

theorem thermTj_ne_sbCnt {j : Nat} (h : j < 8) : A.THERM_TJ j ≠ A.SB_CNT 0 := by simp only [A.THERM_TJ, A.SB_CNT]; omega
theorem thermTf_ne_sbCnt {k : Nat} (h : k < 16) : A.THERM_TF k ≠ A.SB_CNT 0 := by simp only [A.THERM_TF, A.SB_CNT]; omega

theorem count_sbCnt_torTemps (d : Dev) : (d.count (A.SB_CNT 0) 64 1).torTemps = d.torTemps := by
  have hjb := fun j (h : j ∈ List.range 8) => count_sbCnt_bit d (thermTj_ne_sbCnt (List.mem_range.mp h)) 16
  have hjf := fun j (h : j ∈ List.range 8) => count_sbCnt_fld d (thermTj_ne_sbCnt (List.mem_range.mp h)) 15 0
  have hkb := fun k (h : k ∈ List.range 16) => count_sbCnt_bit d (thermTf_ne_sbCnt (List.mem_range.mp h)) 16
  have hkf := fun k (h : k ∈ List.range 16) => count_sbCnt_fld d (thermTf_ne_sbCnt (List.mem_range.mp h)) 15 0
  unfold Dev.torTemps
  refine congrArg₂ (· ++ ·) (congrArg₂ (· ++ ·) (congrArg (leBytes 3) (congrArg₂ (· + ·) (List.foldl_ext _ _ _ ?_)
    (List.foldl_ext _ _ _ ?_))) (List.flatMap_congr ?_)) (List.flatMap_congr ?_)
  · intro n j hj
    simp only [hjb j hj, Dev.count_tor]
  · intro n k hk
    simp only [hkb k hk, Dev.count_tor]
  · intro j hj
    simp only [hjb j hj, hjf j hj, Dev.count_tor]
  · intro k hk
    simp only [hkb k hk, hkf k hk, Dev.count_tor]

set_option Elab.async false in
theorem count_sbCnt_log (d : Dev) : (d.count (A.SB_CNT 0) 64 1).log = d.log := rfl

theorem torStatus_gives {s : State} {pec : Bool} {seq : Byte} (h : TorTakes pec 0x01 seq s.dev) :
    Gives (.torStatus pec seq []) s (fun d => Replied d 0x01 seq 0 s.dev.torStatusData ∧ Frame [.tor] [A.SB_CNT 0] s.dev d) := by
  refine gives_taken rfl h ⟨?_, torReplied_count_frame ..⟩
  have hr := torReplied_replied 0x01 seq (Dev.torStatusBody [] (s.dev.count (A.SB_CNT 0) 64 1))
  rwa [show (Dev.torStatusBody [] (s.dev.count (A.SB_CNT 0) 64 1)).2.2 = _ from count_sbCnt_torStatusData s.dev] at hr

theorem torFaultRead_gives {s : State} {pec : Bool} {seq : Byte} (h : TorTakes pec 0x04 seq s.dev) :
    Gives (.torFaultRead pec seq [0x01]) s (fun d =>
      Replied d 0x04 seq 0 (leBytes 4 (s.dev.rd A.TOR_FAULT).toNat ++ leBytes 4 (s.dev.rd A.TOR_STAT).toNat ++
        leBytes 4 (s.dev.rd A.CLK_FAIL).toNat ++ leBytes 4 (s.dev.rd A.THERM_SDINFO).toNat) ∧
      d.rd A.TOR_FAULT = 0 ∧ Frame [.tor] [A.SB_CNT 0, A.TOR_FAULT] s.dev d) := by
  refine gives_taken rfl h ⟨?_, ?_, ?_⟩
  · have hr := torReplied_replied 0x04 seq (Dev.torFaultBody [0x01] (s.dev.count (A.SB_CNT 0) 64 1))
    simpa only [Dev.torFaultBody, torOk, count_sbCnt_rd s.dev (r := A.TOR_FAULT) (by decide), count_sbCnt_rd s.dev (r := A.TOR_STAT) (by decide),
      count_sbCnt_rd s.dev (r := A.CLK_FAIL) (by decide), count_sbCnt_rd s.dev (r := A.THERM_SDINFO) (by decide)] using hr
  · simp [Dev.torFaultBody]
  · exact torReplied_frame (((Frame.refl _ _ s.dev).count (by simp)).wr64 (by simp)) (by decide)

theorem torTempRead_gives {s : State} {pec : Bool} {seq : Byte} (h : TorTakes pec 0x07 seq s.dev) :
    Gives (.torTempRead pec seq []) s (fun d => Replied d 0x07 seq 0 s.dev.torTemps ∧ Frame [.tor] [A.SB_CNT 0] s.dev d) := by
  refine gives_taken rfl h ⟨?_, torReplied_count_frame ..⟩
  have hr := torReplied_replied 0x07 seq (Dev.torTempBody [] (s.dev.count (A.SB_CNT 0) 64 1))
  rwa [show (Dev.torTempBody [] (s.dev.count (A.SB_CNT 0) 64 1)).2.2 = _ from count_sbCnt_torTemps s.dev] at hr

/-- In A0 and A1 with clocks TOR_EVENT_TAIL gives the last records. -/
theorem torTailBody_on {d : Dev} {n : Byte} (hon : d.tor.pwr = .on) (hclk : d.tor.clkFail = false) (h1 : 1 ≤ n.toNat) (h7 : n.toNat ≤ 7) :
    let rs := (d.log devLog).ordered devLog
    Dev.torTailBody [n] d = (d, 0, leBytes 1 (rs.drop (rs.length - n.toNat)).length ++ leBytes 4 (d.log devLog).drops ++
      (rs.drop (rs.length - n.toNat)).flatMap recBytes) := by
  simp only [Dev.torTailBody, Dev.torMainNeeds, hon, hclk, Bool.false_eq_true, if_false]
  exact if_neg (by omega)

/-- Settles O12: the body of each request on the state whose count of packets has gone up, which no reply shows. -/
theorem torReads : Obligations.TorReads := by
  unfold Obligations.TorReads
  refine ⟨fun s pec seq h => torStatus_gives h, fun s pec seq h => torFaultRead_gives h, fun s pec seq h => ?_,
    fun s pec seq n h hon hclk h1 h7 => ?_, fun s pec seq op h => ?_⟩
  · obtain ⟨t, he, hq, hr, hf⟩ := torTempRead_gives h
    exact ⟨t, he, hq, ⟨_, hr, torTemps_length _, fun hrun j hj hv => torTemps_tj hrun hj hv⟩, hf⟩
  · refine gives_taken rfl h ?_
    rw [torTailBody_on (d := s.dev.count (A.SB_CNT 0) 64 1) hon hclk h1 h7, count_sbCnt_log]
    refine ⟨⟨_, List.drop_suffix _ _, ?_, torReplied_replied ..⟩, torReplied_count_frame ..⟩
    rw [List.length_drop]
    show _ = min _ _
    omega
  · exact gives_taken rfl h ⟨torReplied_replied .., torReplied_count_frame ..⟩

end Sys2Proof
end

section
/-! Repeats, bad packets and the bus of the sideband (R359, R360, R363, R364, R370): O14 and O15. -/

namespace Sys2Proof

open Machine

/-- A request is the frame of a Tor packet around a body of its own. -/
theorem exec_torRequest {c : Byte × (Bool → Byte → List Byte → Instr)}
    (hc : c ∈ [((0x01 : Byte), Instr.torStatus), (0x02, .torWake), (0x03, .torSleep), (0x04, .torFaultRead), (0x05, .torAddrSet),
      (0x06, .torChainPass), (0x07, .torTempRead), (0x08, .torEventTail)]) (ps : List Byte) :
    ∃ body, ∀ pec seq s, exec (c.2 pec seq ps) s = aonDo s (fun d => d.torPacket pec c.1.toNat seq body) := by
  simp only [List.mem_cons, List.not_mem_nil, or_false] at hc
  obtain rfl | rfl | rfl | rfl | rfl | rfl | rfl | rfl := hc
  · exact ⟨Dev.torStatusBody ps, fun _ _ _ => rfl⟩
  · exact ⟨Dev.torWakeBody ps, fun _ _ _ => rfl⟩
  · exact ⟨Dev.torSleepBody ps, fun _ _ _ => rfl⟩
  · exact ⟨Dev.torFaultBody ps, fun _ _ _ => rfl⟩
  · exact ⟨Dev.torAddrBody ps, fun _ _ _ => rfl⟩
  · exact ⟨Dev.torChainBody ps, fun _ _ _ => rfl⟩
  · exact ⟨Dev.torTempBody ps, fun _ _ _ => rfl⟩
  · exact ⟨Dev.torTailBody ps, fun _ _ _ => rfl⟩

/-- A repeat completes with the stored reply and the count of packets. -/
theorem gives_repeat {i : Instr} {s : State} {op : Byte} {l : TorLast} {body : Dev → Dev × Nat × List Byte}
    (he : exec i s = aonDo s (fun d => d.torPacket true op.toNat l.seq body)) (hpwr : s.dev.tor.pwr ≠ .off)
    (hlistens : s.dev.listens = true) (hosc : s.dev.tor.osc16 = true) (hlast : s.dev.tor.last = some l) (hop : l.op = op) :
    Gives i s (fun d => d.tor = { s.dev.tor with reply := l.reply } ∧ Frame [.tor] [A.SB_CNT 0] s.dev d) := by
  refine gives_of (f := fun d => d.torPacket true op.toNat l.seq body) he ?_
  rw [torPacket_repeat hpwr hlistens hosc hlast (by rw [hop, BitVec.ofNat_toNat, BitVec.setWidth_eq])]
  exact ⟨rfl, ((Frame.refl _ _ s.dev).count (by simp)).onTor (by decide)⟩

set_option Elab.async false in
/-- Settles O14: the frame of the packet finds OPCODE and SEQ in the stored request before any body runs. -/
theorem torFraming : Obligations.TorFraming := by
  unfold Obligations.TorFraming
  intro c hc s ps l hpwr hlistens hosc hlast
  obtain ⟨body, he⟩ := exec_torRequest hc ps
  exact ⟨fun hop => gives_repeat (he true l.seq s) hpwr hlistens hosc hlast hop,
    gives_repeat rfl hpwr hlistens hosc hlast rfl⟩

/-- A packet with a bad PEC is counted as such and as one that is not answered. -/
theorem gives_badPec {i : Instr} {s : State} {op : Nat} {seq : Byte} {body : Dev → Dev × Nat × List Byte}
    (he : exec i s = aonDo s (fun d => d.torPacket false op seq body)) (hpwr : s.dev.tor.pwr ≠ .off)
    (hlistens : s.dev.listens = true) (hosc : s.dev.tor.osc16 = true) :
    Gives i s (fun d => d.tor.reply = [] ∧ d.tor.last = s.dev.tor.last ∧
      d.fld (A.SB_CNT 2) 63 0 = (s.dev.fld (A.SB_CNT 2) 63 0 + 1) % 2 ^ 64 ∧ Frame [.tor] [A.SB_CNT 2, A.SB_CNT 3] s.dev d) := by
  refine gives_of (f := fun d => d.torPacket false op seq body) he ?_
  rw [torPacket_badPec hpwr hlistens hosc]
  refine ⟨rfl, rfl, ?_, (((Frame.refl _ _ s.dev).onTor (by decide)).count (by simp)).count (by simp)⟩
  have hne : A.SB_CNT 2 ≠ A.SB_CNT 3 := by decide
  simp [Dev.fld, fldOf, natFld, Dev.answer, hne]

/-- A unit without an address answers nothing. -/
theorem gives_deaf {i : Instr} {s : State} {pec : Bool} {op : Nat} {seq : Byte} {body : Dev → Dev × Nat × List Byte}
    (he : exec i s = aonDo s (fun d => d.torPacket pec op seq body)) (hpwr : s.dev.tor.pwr ≠ .off) (hlistens : s.dev.listens = false) :
    Gives i s (fun d => d.tor = { s.dev.tor with reply := [] } ∧ Frame [.tor] [] s.dev d) := by
  refine gives_of (f := fun d => d.torPacket pec op seq body) he ?_
  rw [torPacket_deaf hpwr hlistens]
  exact ⟨rfl, (Frame.refl _ _ s.dev).onTor (by decide)⟩

theorem torRequest_mem {c : Bool → Byte → List Byte → Instr}
    (hc : c ∈ [Instr.torStatus, .torWake, .torSleep, .torFaultRead, .torAddrSet, .torChainPass, .torTempRead, .torEventTail]) :
    ∃ op : Byte, (op, c) ∈ [((0x01 : Byte), Instr.torStatus), (0x02, .torWake), (0x03, .torSleep), (0x04, .torFaultRead),
      (0x05, .torAddrSet), (0x06, .torChainPass), (0x07, .torTempRead), (0x08, .torEventTail)] := by
  simp only [List.mem_cons, List.not_mem_nil, or_false] at hc
  obtain rfl | rfl | rfl | rfl | rfl | rfl | rfl | rfl := hc
  · exact ⟨0x01, by simp⟩
  · exact ⟨0x02, by simp⟩
  · exact ⟨0x03, by simp⟩
  · exact ⟨0x04, by simp⟩
  · exact ⟨0x05, by simp⟩
  · exact ⟨0x06, by simp⟩
  · exact ⟨0x07, by simp⟩
  · exact ⟨0x08, by simp⟩

theorem alertResponse_held {d : Dev} (hlow : d.pins.alertN = true) (hacks : d.sbAcks = true) :
    d.alertResponse = (d.answer [BitVec.ofNat 8 (d.sbAddr * 2)]).onPins (fun p => { p with alertN := false }) := by
  rw [Dev.alertResponse, hlow, hacks]; rfl

theorem alertResponse_other {d : Dev} (h : d.pins.alertN = false ∨ d.sbAcks = false) : d.alertResponse = d.answer [] := by
  rw [Dev.alertResponse, if_neg]
  simp only [Bool.and_eq_true, not_and, Bool.not_eq_true]
  rcases h with h | h
  · intro hlow
    exact absurd (hlow.symm.trans h) (by decide)
  · exact fun _ => h

theorem sbAcks_iff (d : Dev) : d.sbAcks = true ↔ d.bit A.SB_ADDR 7 = true ∨ d.pins.enumIn = true := by
  rw [Dev.sbAcks, Bool.or_eq_true]

/-- Settles O15: the frame of a packet decides on a bad PEC and on a unit without an address before any body runs. -/
theorem sidebandBus : Obligations.SidebandBus := by
  unfold Obligations.SidebandBus
  refine ⟨fun c hc s seq ps hpwr => ?_, fun s => ?_, fun s level => ?_, fun s => ⟨fun hlow hacks => ?_, fun h => ?_⟩⟩
  · obtain ⟨op, hop⟩ := torRequest_mem hc
    obtain ⟨body, he⟩ := exec_torRequest hop ps
    refine ⟨fun hlistens hosc => gives_badPec (he false seq s) hpwr hlistens hosc, fun haddr htarget henum pec => ?_⟩
    exact gives_deaf (he pec seq s) hpwr (by rw [Dev.listens, Dev.sbAcks, haddr, htarget, henum]; rfl)
  · exact gives_of (f := fun d => d.answer []) rfl ⟨rfl, rfl, (Frame.refl _ _ s.dev).onTor (by decide)⟩
  · refine gives_of (f := fun d => (d.onPins (fun p => { p with enumIn := level })).setBit A.SB_ENUM 0 level) rfl ⟨rfl, ?_, ?_⟩
    · rw [Dev.setBit_bit _ _ _ _ _ _ (by decide)]
      simp
    · exact ((Frame.refl _ _ s.dev).onPins (by decide)).setBit (by simp)
  · refine gives_of (f := Dev.alertResponse) rfl ?_
    rw [alertResponse_held hlow ((sbAcks_iff _).mpr hacks)]
    refine ⟨?_, rfl, ((Frame.refl _ _ s.dev).onTor (by decide)).onPins (by decide)⟩
    rw [Nat.mul_comm 2]
    rfl
  · refine gives_of (f := Dev.alertResponse) rfl ?_
    rw [alertResponse_other (h.imp_right fun h => by rw [Dev.sbAcks, h.1, h.2]; rfl)]
    exact ⟨rfl, rfl, (Frame.refl _ _ s.dev).onTor (by decide)⟩

end Sys2Proof
end

section
/-! The wake sources (R342 to R345): O9. -/

namespace Sys2Proof

open Machine

section
variable (d : Dev) (p : Pwr)

set_option Elab.async false in
theorem startWake_pwr : (d.startWake p).tor.pwr = .waking := rfl
theorem startWake_saved : (d.startWake p).tor.saved = p := rfl

/-- The first step of a wake: the regulators, the crystals or the PLLs. -/
theorem startWake_stat :
    ∃ step, 1 ≤ step ∧ step ≤ 3 ∧ (d.startWake p).rd A.TOR_STAT = BitVec.ofNat 64 (2 * 4096 + step * 256 + 1 * 16) := by
  refine ⟨if p = .s1 then (if d.bit A.CLK_STAT 7 && d.bit A.CLK_STAT 6 then 3 else 2) else 1, ?_, ?_, ?_⟩
  · split_ifs <;> omega
  · split_ifs <;> omega
  · simp [Dev.startWake]

theorem startWake_fields : (d.startWake p).fld A.TOR_STAT 15 12 = 2 ∧ (d.startWake p).fld A.TOR_STAT 7 4 = 1 := by
  obtain ⟨step, h1, h3, hstat⟩ := startWake_stat d p
  simp only [Dev.fld, hstat]
  interval_cases step <;> exact ⟨rfl, rfl⟩

theorem startWake_rd {r : Nat} (hr : r ≠ A.TOR_STAT) : (d.startWake p).rd r = d.rd r := by
  simp [Dev.startWake, hr]

theorem startWake_frame {P : List Part} {R : List Nat} {a : Dev} (h : Frame P R a d) (hp : Part.tor ∈ P) (hr : A.TOR_STAT ∈ R) :
    Frame P R a (d.startWake p) := (h.onTor hp).setReg hr

end

/-- What a source that acts does first: it is recorded, and from S3 WAKE_N is driven. -/
def wokenBy (d : Dev) (n : Nat) : Dev :=
  if d.tor.pwr = .s3 then (d.setReg A.PWR_WAKESRC (2 ^ n)).onPins (fun p => { p with wakeN := true }) else d.setReg A.PWR_WAKESRC (2 ^ n)

section
variable {d : Dev} {n : Nat}

theorem wokenBy_rd : (wokenBy d n).rd A.PWR_WAKESRC = BitVec.ofNat 64 (2 ^ n) := by
  unfold wokenBy; split <;> simp

theorem wokenBy_frame : Frame [.pins, .tor] [A.PWR_WAKESRC, A.TOR_STAT] d (wokenBy d n) := by
  have hsrc : Frame [.pins, .tor] [A.PWR_WAKESRC, A.TOR_STAT] d (d.setReg A.PWR_WAKESRC (2 ^ n)) := (Frame.refl _ _ d).setReg (by simp)
  exact Frame.ite (hsrc.onPins (by decide)) hsrc

theorem wakeSource_of_wakes (h : Wakes n d) (hn : n ≠ 1) : d.wakeSource n = (wokenBy d n).startWake d.tor.pwr := by
  rcases h with ⟨hpwr | hpwr, -, hen⟩ | ⟨hpwr, hsrc⟩
  · simp [Dev.wakeSource, Dev.wakes, wokenBy, hpwr, hen, hn]
  · simp [Dev.wakeSource, Dev.wakes, wokenBy, hpwr, hen, hn]
  · rcases hsrc with rfl | rfl <;> simp [Dev.wakeSource, Dev.wakes, wokenBy, hpwr]

theorem wakeSource_waking (h : Wakes n d) (hn : n ≠ 1) : Waking n d (d.wakeSource n) := by
  rw [wakeSource_of_wakes h hn]
  obtain ⟨hstep, htry⟩ := startWake_fields (wokenBy d n) d.tor.pwr
  exact ⟨startWake_pwr .., startWake_saved .., (startWake_rd _ _ (by decide)).trans wokenBy_rd, hstep, htry⟩

theorem wakeSource_frame (h : Wakes n d) (hn : n ≠ 1) : Frame [.pins, .tor] [A.PWR_WAKESRC, A.TOR_STAT] d (d.wakeSource n) := by
  rw [wakeSource_of_wakes h hn]
  exact startWake_frame _ _ wokenBy_frame (by decide) (by simp)

/-- A source that wakes finds the part in S1, S2 or S3. -/
theorem Wakes.asleep (h : Wakes n d) : d.tor.pwr = .s1 ∨ d.tor.pwr = .s2 ∨ d.tor.pwr = .s3 := by
  rcases h with ⟨hpwr | hpwr, -⟩ | ⟨hpwr, -⟩
  · exact .inl hpwr
  · exact .inr (.inl hpwr)
  · exact .inr (.inr hpwr)

theorem hostCalls_of_wakes (h : Wakes n d) : d.hostCalls n = d.wakeSource n := by
  rcases h.asleep with hpwr | hpwr | hpwr <;> simp [Dev.hostCalls, hpwr]

end

theorem wakeInRise_gives {s : State} (h : Wakes 0 s.dev) :
    Gives .wakeInRise s (fun d => Waking 0 s.dev d ∧ d.pins.wakeIn = true ∧
      (s.dev.tor.pwr = .s3 → d.pins.wakeN = true) ∧ Frame [.pins, .tor] [A.PWR_WAKESRC, A.TOR_STAT] s.dev d) := by
  have h' : Wakes 0 (s.dev.onPins (fun p => { p with wakeIn := true })) := h
  refine gives_of (f := fun d => (d.onPins (fun p => { p with wakeIn := true })).hostCalls 0) rfl ?_
  rw [hostCalls_of_wakes h']
  refine ⟨wakeSource_waking h' (by decide), ?_, fun hpwr => ?_, ?_⟩
  · rw [wakeSource_of_wakes h' (by decide), wokenBy]
    split <;> rfl
  · rw [wakeSource_of_wakes h' (by decide), wokenBy, if_pos (show (s.dev.onPins _).tor.pwr = .s3 from hpwr)]
    rfl
  · exact ((Frame.refl _ _ s.dev).onPins (by decide)).trans (wakeSource_frame h' (by decide)) (Nat.le_refl _)
      (Nat.le_of_eq (congrArg Media.jseq ((wakeSource_frame h' (by decide)).2.1 .media (by decide))).symm)

/-! The sideband's address matcher. -/

section
variable {d : Dev} {addr : BitVec 7}

/-- The unit's address on the bus. -/
def SbHit (addr : BitVec 7) (d : Dev) : Prop :=
  if d.bit A.SB_ADDR 7 then addr.toNat = d.fld A.SB_ADDR 6 0 else d.pins.enumIn = true ∧ addr = 0x3A

set_option Elab.async false in
theorem addressMatch_of_hit (h : SbHit addr d) (needMain : Bool) :
    d.addressMatch addr.toNat needMain =
      if needMain then (d.onTor (fun t => { t with osc16 := true })).wakeSource 2 else d.onTor (fun t => { t with osc16 := true }) := by
  refine if_pos (Bool.or_eq_true .. ▸ .inl ?_)
  unfold SbHit at h
  unfold Dev.sbAcks Dev.sbAddr
  split_ifs at h ⊢ with haddr
  · simp [haddr, h]
  · obtain ⟨henum, rfl⟩ := h
    simp [henum]

end

/-! A wake step that times out (R343, R344). -/

section
variable {d : Dev}

theorem pllOff_frame {P : List Part} {R : List Nat} {a : Dev} (h : Frame P R a d) {i : Nat} (hs : A.CLK_STAT ∈ R)
    (hp : A.CLK_PLL i ∈ R) : Frame P R a (d.pllOff i) := (h.setBit hs).setBit hp

theorem clkPll_mem {i : Nat} (h : i < 4) (R : List Nat) : A.CLK_PLL i ∈ R ++ pllRegs :=
  List.mem_append_right _ (List.mem_map_of_mem (List.mem_range.mpr h))

/-- The pause before a retry touches what the step had found, and no step of TOR_STAT. -/
theorem stepPause_frame (d : Dev) (step : Nat) : Frame [.tor] ([A.CLK_STAT] ++ pllRegs) d (d.stepPause step) := by
  have hstat : A.CLK_STAT ∈ [A.CLK_STAT] ++ pllRegs := by simp
  unfold Dev.stepPause
  split_ifs with h2 h3 h1
  · exact ((Frame.refl _ _ d).setBit hstat).onTor (by decide)
  · exact (Frame.refl _ _ d).each fun i hi e he => pllOff_frame he hstat (clkPll_mem (by simp at hi; omega) _)
  · exact (Frame.refl _ _ d).each fun i hi e he => pllOff_frame he hstat (clkPll_mem (by simp at hi; omega) _)
  · exact Frame.refl _ _ d

theorem stepPause_pwr (d : Dev) (step : Nat) : (d.stepPause step).tor.pwr = d.tor.pwr := by
  unfold Dev.stepPause
  split_ifs
  · rfl
  · rfl
  · rfl
  · rfl

/-- A step below its fourth attempt is tried again. -/
theorem stepTimeout_again {cause : BitVec 4} (hpwr : d.tor.pwr = .waking) (htry : d.fld A.TOR_STAT 7 4 < 4) :
    d.stepTimeout cause.toNat = ((d.setFld A.TOR_STAT 3 0 cause.toNat).setFld A.TOR_STAT 7 4 (d.fld A.TOR_STAT 7 4 + 1)).stepPause
      (d.fld A.TOR_STAT 11 8) := by
  have hstep : (d.setFld A.TOR_STAT 3 0 cause.toNat).fld A.TOR_STAT 11 8 = d.fld A.TOR_STAT 11 8 :=
    Dev.setFld_fld_other _ _ _ _ _ _ _ _ (by decide) (by decide) (by decide)
  rw [Dev.stepTimeout, if_neg (by simp [hpwr])]
  dsimp only
  rw [if_neg (by omega), hstep]

theorem stepTimeout_last {cause : BitVec 4} (hpwr : d.tor.pwr = .waking) (htry : 4 ≤ d.fld A.TOR_STAT 7 4) :
    d.stepTimeout cause.toNat = (d.setFld A.TOR_STAT 3 0 cause.toNat).wakeFail := by
  rw [Dev.stepTimeout, if_neg (by simp [hpwr])]
  exact if_pos htry

/-! WAKE_FAILED (R344). -/

theorem alert_frame {P : List Part} {R : List Nat} {a : Dev} (h : Frame P R a d) (n : Nat) (hpins : Part.pins ∈ P) (htor : Part.tor ∈ P)
    (hr : A.SB_ALERTSRC ∈ R) : Frame P R a (d.alert n) := by
  unfold Dev.alert
  dsimp only
  split
  · have hset : Frame P R a (d.setBit A.SB_ALERTSRC n true) := h.setBit hr
    have hsig := signalAlert_frame (d.setBit A.SB_ALERTSRC n true)
    refine hset.step hsig.1 (fun p hp _ => hsig.2.1 p ?_)
      (.inr ⟨hsig.cirque_eq (by decide) (by decide), Nat.le_of_eq (congrArg Media.jseq (hsig.2.1 .media (by decide))).symm⟩)
      (fun r _ => hsig.2.2.1 r List.not_mem_nil) hsig.2.2.2
    simp only [List.mem_cons, List.not_mem_nil, or_false]
    rintro (rfl | rfl)
    · exact hp hpins
    · exact hp htor
  · exact h.setBit hr

theorem signalAlert_rd (r : Nat) : d.signalAlert.rd r = d.rd r := (signalAlert_frame d).2.2.1 r List.not_mem_nil

theorem alert_rd (n : Nat) {r : Nat} (hr : r ≠ A.SB_ALERTSRC) : (d.alert n).rd r = d.rd r := by
  unfold Dev.alert
  dsimp only
  split
  · rw [signalAlert_rd, Dev.setBit_rd, if_neg hr]
  · rw [Dev.setBit_rd, if_neg hr]

set_option Elab.async false in
theorem alert_source {n : Nat} (hn : n < 64) (m : Nat) : (d.alert n).bit A.SB_ALERTSRC m = if m = n then true else d.bit A.SB_ALERTSRC m := by
  have hset : (d.setBit A.SB_ALERTSRC n true).bit A.SB_ALERTSRC m = if m = n then true else d.bit A.SB_ALERTSRC m := by
    rw [Dev.setBit_bit _ _ _ _ _ _ hn]
    simp
  unfold Dev.alert
  dsimp only
  split
  · rw [Dev.bit_congr (signalAlert_rd _), hset]
  · exact hset

/-- An alert is signalled on SB_ALERT_N and in an in-band interrupt alone. -/
theorem signalAlert_keeps : d.signalAlert.tor.pwr = d.tor.pwr ∧ d.signalAlert.tor.mainOn = d.tor.mainOn ∧
    d.signalAlert.pins.gpio14 = d.pins.gpio14 ∧ d.signalAlert.pins.gpio15 = d.pins.gpio15 := by
  unfold Dev.signalAlert
  dsimp only
  split_ifs
  · exact ⟨rfl, rfl, rfl, rfl⟩
  · exact ⟨rfl, rfl, rfl, rfl⟩
  · exact ⟨rfl, rfl, rfl, rfl⟩

theorem alert_keeps (n : Nat) : (d.alert n).tor.pwr = d.tor.pwr ∧ (d.alert n).tor.mainOn = d.tor.mainOn ∧
    (d.alert n).pins.gpio14 = d.pins.gpio14 ∧ (d.alert n).pins.gpio15 = d.pins.gpio15 := by
  unfold Dev.alert
  dsimp only
  split
  · exact signalAlert_keeps
  · exact ⟨rfl, rfl, rfl, rfl⟩

/-- What a failed wake leaves before its alerts. -/
def wakeFailed (d : Dev) : Dev :=
  let e := (d.mainOff .wakeFailed).setFld A.TOR_STAT 15 12 3
  (if e.tor.saved = .s1 then e else e.onPins (fun p => { p with gpio15 := false })).setBit A.TOR_FAULT 2 true

theorem wakeFail_eq (d : Dev) : d.wakeFail = ((wakeFailed d).alert 2).alert 0 := rfl

theorem wakeFailed_frame {P : List Part} {R : List Nat} {a : Dev} (h : Frame P R a d) (hpins : Part.pins ∈ P) (htor : Part.tor ∈ P)
    (hs : A.TOR_STAT ∈ R) (hf : A.TOR_FAULT ∈ R) : Frame P R a (wakeFailed d) := by
  have he : Frame P R a ((d.mainOff .wakeFailed).setFld A.TOR_STAT 15 12 3) := (h.onTor htor).setFld hs
  exact (Frame.ite he (he.onPins hpins)).setBit hf

theorem wakeFailed_tor : (wakeFailed d).tor.pwr = .wakeFailed ∧ (wakeFailed d).tor.mainOn = false := by
  unfold wakeFailed
  dsimp only
  split
  · exact ⟨rfl, rfl⟩
  · exact ⟨rfl, rfl⟩

theorem wakeFailed_pins : (wakeFailed d).pins.gpio14 = d.pins.gpio14 ∧ (d.tor.saved ≠ .s1 → (wakeFailed d).pins.gpio15 = false) := by
  unfold wakeFailed
  dsimp only
  split
  · next h => exact ⟨rfl, fun hs => absurd h hs⟩
  · exact ⟨rfl, fun _ => rfl⟩

theorem wakeFailed_stat : (wakeFailed d).fld A.TOR_STAT 15 12 = 3 ∧ (wakeFailed d).bit A.TOR_FAULT 2 = true := by
  have hne : A.TOR_STAT ≠ A.TOR_FAULT := by decide
  unfold wakeFailed
  dsimp only
  constructor
  · rw [Dev.setBit_fld _ _ _ _ _ _ _ (by decide) (.inl hne)]
    split
    · exact Dev.setFld_fld _ _ _ _ _ (by decide) (by decide)
    · exact Dev.setFld_fld _ _ _ _ _ (by decide) (by decide)
  · rw [Dev.setBit_bit _ _ _ _ _ _ (by decide), if_pos ⟨rfl, rfl⟩]

end

theorem wakeStepTimeout_again {s : State} {cause : BitVec 4} (hpwr : s.dev.tor.pwr = .waking) (htry : s.dev.fld A.TOR_STAT 7 4 < 4) :
    Gives (.wakeStepTimeout cause) s (fun d =>
      d.tor.pwr = .waking ∧ d.fld A.TOR_STAT 7 4 = s.dev.fld A.TOR_STAT 7 4 + 1 ∧ d.fld A.TOR_STAT 3 0 = cause.toNat ∧
      d.fld A.TOR_STAT 11 8 = s.dev.fld A.TOR_STAT 11 8 ∧ Frame [.tor] ([A.TOR_STAT, A.CLK_STAT] ++ pllRegs) s.dev d) := by
  refine gives_of (f := fun d => d.stepTimeout cause.toNat) rfl ?_
  rw [stepTimeout_again hpwr htry]
  have hpause := stepPause_frame ((s.dev.setFld A.TOR_STAT 3 0 cause.toNat).setFld A.TOR_STAT 7 4 (s.dev.fld A.TOR_STAT 7 4 + 1))
    (s.dev.fld A.TOR_STAT 11 8)
  have hstat : A.TOR_STAT ∉ [A.CLK_STAT] ++ pllRegs := by decide
  refine ⟨(stepPause_pwr _ _).trans hpwr, ?_, ?_, ?_, ?_⟩
  · rw [hpause.fld_eq hstat, Dev.setFld_fld _ _ _ _ _ (by decide) (by decide)]
    exact Nat.mod_eq_of_lt (by omega)
  · rw [hpause.fld_eq hstat, Dev.setFld_fld_other _ _ _ _ _ _ _ _ (by decide) (by decide) (by decide),
      Dev.setFld_fld _ _ _ _ _ (by decide) (by decide)]
    exact Nat.mod_eq_of_lt cause.isLt
  · rw [hpause.fld_eq hstat, Dev.setFld_fld_other _ _ _ _ _ _ _ _ (by decide) (by decide) (by decide),
      Dev.setFld_fld_other _ _ _ _ _ _ _ _ (by decide) (by decide) (by decide)]
  · have hset : Frame [.tor] ([A.TOR_STAT, A.CLK_STAT] ++ pllRegs) s.dev
        ((s.dev.setFld A.TOR_STAT 3 0 cause.toNat).setFld A.TOR_STAT 7 4 (s.dev.fld A.TOR_STAT 7 4 + 1)) :=
      ((Frame.refl _ _ s.dev).setFld (by simp)).setFld (by simp)
    exact hset.trans (hpause.mono (fun _ h => h) (fun r hr => List.mem_cons_of_mem _ hr)) (Nat.le_refl _)
      (Nat.le_of_eq (congrArg Media.jseq (hpause.2.1 .media (by decide))).symm)

set_option Elab.async false in
theorem wakeStepTimeout_last {s : State} {cause : BitVec 4} (hpwr : s.dev.tor.pwr = .waking) (htry : 4 ≤ s.dev.fld A.TOR_STAT 7 4) :
    Gives (.wakeStepTimeout cause) s (fun d =>
      d.tor.pwr = .wakeFailed ∧ d.tor.mainOn = false ∧ d.fld A.TOR_STAT 15 12 = 3 ∧ d.bit A.TOR_FAULT 2 = true ∧
      d.faultN = true ∧ d.bit A.SB_ALERTSRC 2 = true ∧ d.bit A.SB_ALERTSRC 0 = true ∧
      (s.dev.tor.saved ≠ .s1 → d.pins.gpio15 = false) ∧ d.pins.gpio14 = s.dev.pins.gpio14 ∧
      Frame [.pins, .tor] [A.TOR_STAT, A.TOR_FAULT, A.SB_ALERTSRC] s.dev d) := by
  refine gives_of (f := fun d => d.stepTimeout cause.toNat) rfl ?_
  rw [stepTimeout_last hpwr htry, wakeFail_eq]
  generalize hd : s.dev.setFld A.TOR_STAT 3 0 cause.toNat = d
  obtain ⟨hp0, hm0, hg0, hh0⟩ := alert_keeps (d := (wakeFailed d).alert 2) 0
  obtain ⟨hp2, hm2, hg2, hh2⟩ := alert_keeps (d := wakeFailed d) 2
  obtain ⟨hp, hm⟩ := wakeFailed_tor (d := d)
  obtain ⟨hg14, hg15⟩ := wakeFailed_pins (d := d)
  obtain ⟨hstat, hfault⟩ := wakeFailed_stat (d := d)
  have hrd : ∀ r, r ≠ A.SB_ALERTSRC → (((wakeFailed d).alert 2).alert 0).rd r = (wakeFailed d).rd r := fun r hr =>
    (alert_rd 0 hr).trans (alert_rd 2 hr)
  have hpwr' := hp0.trans (hp2.trans hp)
  refine ⟨hpwr', hm0.trans (hm2.trans hm), (Dev.fld_congr (hrd _ (by decide)) ..).trans hstat,
    (Dev.bit_congr (hrd _ (by decide)) _).trans hfault, ?_, ?_, ?_, fun hs => ?_, ?_, ?_⟩
  · simp [Dev.faultN, hpwr']
  · rw [alert_source (by decide), if_neg (by decide), alert_source (by decide), if_pos rfl]
  · rw [alert_source (by decide), if_pos rfl]
  · subst hd
    exact hh0.trans (hh2.trans (hg15 hs))
  · subst hd
    exact hg0.trans (hg2.trans hg14)
  · have hset : Frame [.pins, .tor] [A.TOR_STAT, A.TOR_FAULT, A.SB_ALERTSRC] s.dev d := hd ▸ (Frame.refl _ _ s.dev).setFld (by simp)
    exact alert_frame (alert_frame (wakeFailed_frame hset (by decide) (by decide) (by simp) (by simp)) 2 (by decide) (by decide) (by simp)) 0
      (by decide) (by decide) (by simp)

/-- Settles O9: a source that acts starts the first step of a wake; a step that times out is tried again, or the wake has failed. -/
theorem wakeSources : Obligations.WakeSources := by
  unfold Obligations.WakeSources
  refine ⟨fun s h => wakeInRise_gives h, fun s h => ?_, fun s h htimer => ?_, fun s addr h hhit => ?_, fun s addr hhit => ?_,
    fun s cause => wakeStepTimeout_again, fun s cause => wakeStepTimeout_last⟩
  · exact gives_of (f := fun d => d.wakeSource 3) rfl ⟨wakeSource_waking h (by decide), wakeSource_frame h (by decide)⟩
  · refine gives_of (f := fun d => if d.rd A.PWR_TIMER = 0 then d else d.wakeSource 4) rfl ?_
    rw [if_neg htimer]
    exact ⟨wakeSource_waking h (by decide), wakeSource_frame h (by decide)⟩
  · have h' : Wakes 2 (s.dev.onTor (fun t => { t with osc16 := true })) := h
    refine gives_of (f := fun d => d.addressMatch addr.toNat true) rfl ?_
    rw [addressMatch_of_hit hhit, if_pos rfl]
    have hframe := wakeSource_frame h' (by decide)
    refine ⟨wakeSource_waking h' (by decide), ?_, ?_⟩
    · rw [wakeSource_of_wakes h' (by decide), wokenBy]
      split <;> rfl
    · exact ((Frame.refl _ _ s.dev).onTor (by decide)).trans hframe (Nat.le_refl _)
        (Nat.le_of_eq (congrArg Media.jseq (hframe.2.1 .media (by decide))).symm)
  · refine gives_of (f := fun d => d.addressMatch addr.toNat false) rfl ?_
    rw [addressMatch_of_hit hhit, if_neg (by decide)]
    exact ⟨rfl, rfl, (Frame.refl _ _ s.dev).onTor (by decide)⟩

end Sys2Proof
end

section
/-! The buffer drains (R73): the steps on program groups, units and Fold are those that change no descriptor, no entry and no record. -/

namespace Sys2Proof

open Machine

theorem Calm.unitOn (d : Dev) (n : Ns) (r : Row) : Calm d (d.unitOn n r).1 :=
  ((Calm.onMedia d rfl rfl rfl rfl (List.Subset.refl _)).trans (Calm.onMedia _ rfl rfl rfl rfl (List.Subset.refl _))).trans
    (Calm.rowStart _ ..)

theorem Calm.openUnit (d : Dev) (n : Ns) : Calm d (d.openUnit n).1 := by
  unfold Dev.openUnit
  split
  · exact Calm.refl d
  · split
    · dsimp only
      split
      · exact Calm.refl d
      · exact (Calm.queueErase d _).trans (Calm.onMedia _ rfl rfl rfl rfl (List.Subset.refl _))
    · exact Calm.unitOn d n _

theorem Calm.unitFor (d : Dev) (n : Ns) (h k : Nat) : Calm d (d.unitFor n h k).1 := by
  unfold Dev.unitFor
  split
  · split
    · exact Calm.refl d
    · exact Calm.openUnit d n
  · exact Calm.openUnit d n

set_option Elab.async false in
theorem Calm.issueSecs (d : Dev) (n : Ns) (h : Nat) (secs : List (Nat × Sector)) : Calm d (d.issueSecs n h secs) := by
  have hunit := Calm.unitFor d n h 896
  unfold Dev.issueSecs
  dsimp only
  split
  · exact Calm.refl d
  · split
    · next e he =>
      rw [he] at hunit
      exact hunit
    · next e p he =>
      rw [he] at hunit
      exact (hunit.trans (Calm.onMedia _ rfl rfl rfl rfl (List.Subset.refl _))).trans (Calm.onWr _ rfl rfl rfl)

theorem Calm.issueConv (d : Dev) (n : Ns) : Calm d (d.issueConv n) := by
  unfold Dev.issueConv
  split
  · exact Calm.refl d
  · exact Calm.issueSecs d n _ _

theorem Calm.drainZone (d : Dev) (ix : Nat) : Calm d (d.drainZone ix) :=
  (Calm.issueAll d ix _ _).trans (Calm.foldMove _ ..)

theorem Calm.drainConv (d : Dev) (n : Ns) : Calm d (d.drainConv n) := by
  refine (Calm.issueConv d n).trans (Calm.each (fun e r => ?_) _ _)
  split
  · exact Calm.refl e
  · exact Calm.foldMove e ..

theorem Calm.drainTails (d : Dev) : Calm d d.drainTails :=
  (Calm.each (fun e ix => Calm.drainZone e ix) d _).trans (Calm.each (fun e n => Calm.drainConv e n) _ _)

end Sys2Proof
end

section
/-! The entry into a sleep state (R335 to R338): what it leaves alone, and where it stands after its first steps. -/

namespace Sys2Proof

open Machine

/-- The parts that an entry into a sleep state leaves alone. -/
structure SleepKeeps (a b : Dev) : Prop where
  board : b.board = a.board
  cores : b.cores = a.cores
  gate : b.gate = a.gate
  cirque : b.cirque = a.cirque
  ox : b.ox = a.ox
  cairn : b.cairn = a.cairn
  cipher : b.cipher = a.cipher
  pens : b.pens = a.pens
  host : b.host = a.host

section
variable {a b c d : Dev}

theorem SleepKeeps.refl (d : Dev) : SleepKeeps d d := ⟨rfl, rfl, rfl, rfl, rfl, rfl, rfl, rfl, rfl⟩

theorem SleepKeeps.trans (h : SleepKeeps a b) (g : SleepKeeps b c) : SleepKeeps a c :=
  ⟨g.1.trans h.1, g.2.trans h.2, g.3.trans h.3, g.4.trans h.4, g.5.trans h.5, g.6.trans h.6, g.7.trans h.7, g.8.trans h.8, g.9.trans h.9⟩

theorem SleepKeeps.of_same (hb : b.board = a.board := by rfl) (h1 : b.cores = a.cores := by rfl) (h2 : b.gate = a.gate := by rfl)
    (h3 : b.cirque = a.cirque := by rfl) (h4 : b.ox = a.ox := by rfl) (h5 : b.cairn = a.cairn := by rfl)
    (h6 : b.cipher = a.cipher := by rfl) (h7 : b.pens = a.pens := by rfl) (h8 : b.host = a.host := by rfl) : SleepKeeps a b :=
  ⟨hb, h1, h2, h3, h4, h5, h6, h7, h8⟩

theorem SleepKeeps.ite {p : Prop} [Decidable p] (h : SleepKeeps a b) (g : SleepKeeps a c) : SleepKeeps a (if p then b else c) := by
  split <;> assumption

theorem SleepKeeps.each {α : Type} {f : Dev → α → Dev} (hf : ∀ d x, SleepKeeps d (f d x)) (d : Dev) (l : List α) :
    SleepKeeps d (d.each l f) := by
  unfold Dev.each
  induction l generalizing d with
  | nil => exact .refl d
  | cons x t ih => exact (hf d x).trans (ih _)

theorem SleepKeeps.of_frame {P : List Part} {R : List Nat} (h : Frame P R a b)
    (hP : ∀ p ∈ [Part.cores, .gate, .ox, .cairn, .cipher, .pens, .host], p ∉ P) (hc : b.cirque = a.cirque) : SleepKeeps a b :=
  ⟨h.1, h.2.1 .cores (hP _ (by decide)), h.2.1 .gate (hP _ (by decide)), hc, h.2.1 .ox (hP _ (by decide)),
    h.2.1 .cairn (hP _ (by decide)), h.2.1 .cipher (hP _ (by decide)), h.2.1 .pens (hP _ (by decide)), h.2.1 .host (hP _ (by decide))⟩

set_option Elab.async false in
/-- A calm step journals nothing, so it erases nothing in Cirque. -/
theorem Calm.cirque (h : Calm a b) : b.cirque = a.cirque := by
  rcases h.frame.2.1 .cirque (by decide) with hc | ⟨hj, -⟩
  · exact hc
  · exact absurd h.jseq (by omega)

theorem Calm.sleepKeeps (h : Calm a b) : SleepKeeps a b := .of_frame h.frame (by decide) h.cirque

theorem SleepKeeps.same (h : SleepKeeps a b) : ∀ p, p ∈ [Part.cores, .gate, .cirque, .ox, .cairn, .cipher, .pens, .host] → p.same a b := by
  intro p hp
  simp only [List.mem_cons, List.not_mem_nil, or_false] at hp
  obtain rfl | rfl | rfl | rfl | rfl | rfl | rfl | rfl := hp
  · exact h.cores
  · exact h.gate
  · exact .inl h.cirque
  · exact h.ox
  · exact h.cairn
  · exact h.cipher
  · exact h.pens
  · exact h.host

end

/-! The steps before GO (R335, R336). -/

/-- What the firmware does before GO leaves the power domain alone. -/
structure BeforeGo (a b : Dev) : Prop where
  keeps : SleepKeeps a b
  tor : b.tor = a.tor
  stat : b.rd A.PWR_STAT = a.rd A.PWR_STAT

section
variable {a b c d : Dev}

theorem BeforeGo.refl (d : Dev) : BeforeGo d d := ⟨.refl d, rfl, rfl⟩

theorem BeforeGo.trans (h : BeforeGo a b) (g : BeforeGo b c) : BeforeGo a c :=
  ⟨h.keeps.trans g.keeps, g.tor.trans h.tor, g.stat.trans h.stat⟩

theorem BeforeGo.ite {p : Prop} [Decidable p] (h : BeforeGo a b) (g : BeforeGo a c) : BeforeGo a (if p then b else c) := by
  split <;> assumption

theorem BeforeGo.each {α : Type} {f : Dev → α → Dev} {l : List α} (hf : ∀ x ∈ l, ∀ d, BeforeGo d (f d x)) (d : Dev) :
    BeforeGo d (d.each l f) := by
  unfold Dev.each
  induction l generalizing d with
  | nil => exact .refl d
  | cons x t ih => exact (hf x (by simp) d).trans (ih (fun y hy => hf y (by simp [hy])) _)

theorem BeforeGo.wr64 (d : Dev) {r : Nat} {v : W64} (hr : A.PWR_STAT ≠ r) : BeforeGo d (d.wr64 r v) :=
  ⟨.of_same, rfl, by rw [Dev.wr64_rd, if_neg hr]⟩

theorem BeforeGo.setBit (d : Dev) {r n : Nat} {v : Bool} (hr : A.PWR_STAT ≠ r) : BeforeGo d (d.setBit r n v) := .wr64 d hr
theorem BeforeGo.setReg (d : Dev) {r v : Nat} (hr : A.PWR_STAT ≠ r) : BeforeGo d (d.setReg r v) := .wr64 d hr
theorem BeforeGo.onDram (d : Dev) (f : Dram → Dram) : BeforeGo d (d.onDram f) := ⟨.of_same, rfl, rfl⟩
theorem BeforeGo.onFw (d : Dev) (f : Fw → Fw) : BeforeGo d (d.onFw f) := ⟨.of_same, rfl, rfl⟩
theorem BeforeGo.onMules (d : Dev) (f : Mules → Mules) : BeforeGo d (d.onMules f) := ⟨.of_same, rfl, rfl⟩

theorem Calm.beforeGo (h : Calm a b) : BeforeGo a b :=
  ⟨h.sleepKeeps, h.frame.2.1 .tor (by decide), h.frame.2.2.1 _ List.not_mem_nil⟩

theorem BeforeGo.saveRegs (d : Dev) (l : List Nat) : BeforeGo d (d.saveRegs l) := .onFw d _

theorem BeforeGo.henCtl (d : Dev) (v : BitVec 3) : BeforeGo d (d.henCtl v) := by
  have hctl : BeforeGo d (d.setReg A.HEN_CTL v.toNat) := .setReg d (by decide)
  unfold Dev.henCtl
  dsimp only
  split
  · exact hctl.trans (.ite (.onDram _ _) (.setBit _ (by decide)))
  · refine (hctl.trans (.onDram _ _)).trans (.ite ?_ (.refl _))
    exact (BeforeGo.setBit _ (by decide)).trans (.setBit _ (by decide))

theorem BeforeGo.colEn (d : Dev) (en : Bool) : BeforeGo d (d.colEn en) := by
  have hctl : BeforeGo d (d.setBit A.COL_CTL 0 en) := .setBit d (by decide)
  unfold Dev.colEn
  dsimp only
  split
  · exact hctl.trans (.setReg _ (by decide))
  · exact hctl.trans (.setReg _ (by decide))

set_option Elab.async false in
theorem BeforeGo.muleEnOff (d : Dev) {ch : Nat} (h : ch < 64) : BeforeGo d (d.muleEn ch false) := by
  have hctl : A.PWR_STAT ≠ A.MULE_CTL ch := by simp only [A.PWR_STAT, A.MULE_CTL, A.MULE]; omega
  have hstat : A.PWR_STAT ≠ A.MULE_STAT ch := by simp only [A.PWR_STAT, A.MULE_STAT, A.MULE]; omega
  unfold Dev.muleEn
  dsimp only
  rw [if_neg (by decide)]
  refine ((BeforeGo.setBit d hctl).trans (.onMules _ _)).trans (.ite ?_ (.refl _))
  exact (BeforeGo.setBit _ hstat).trans (.setBit _ hstat)

theorem BeforeGo.stopMules (d : Dev) : BeforeGo d d.stopMules := by
  refine .each (fun ch hch e => ?_) d
  have hlt : ch < 64 := List.mem_range.mp (List.mem_filter.mp hch).1
  exact (BeforeGo.saveRegs e _).trans (.muleEnOff _ hlt)

/-- What the firmware does at the beginning of an entry into S2, after it has noted it. -/
def sleepPrepared (d : Dev) : Dev :=
  let d := d.saveRegs [A.HEN_CTL, A.HEN_STAT, A.COL_CTL, A.COL_STAT]
  let d := (d.henCtl ((BitVec.ofNat 3 (d.rd A.HEN_CTL).toNat) &&& 6)).colEn false
  ((d.saveRegs [A.PEN_CTL]).setBit A.PEN_CTL 0 false).drainTails

theorem BeforeGo.sleepPrepared (d : Dev) : BeforeGo d (sleepPrepared d) :=
  (((((BeforeGo.saveRegs d _).trans (.henCtl _ _)).trans (.colEn _ _)).trans (.saveRegs _ _)).trans (.setBit _ (by decide))).trans
    (Calm.drainTails _).beforeGo

/-- An entry into S2 has been noted. -/
def sleepNoted (d : Dev) : Dev := (d.setBit A.PWR_STAT 3 true).onTor (fun t => { t with sleepReq := 2 })

theorem sleepBegin2_eq {d : Dev} (hreq : d.tor.sleepReq = 0) (hlatch : d.tor.latch = false) :
    d.sleepBegin 2 = (sleepPrepared (sleepNoted d)).sleepCheck := by
  rw [Dev.sleepBegin, if_neg (by simp [hreq, hlatch])]
  rfl

end

/-! The hardware's steps after GO (R336). -/

section
variable (d : Dev)

theorem SleepKeeps.setBit (r n : Nat) (v : Bool) : SleepKeeps d (d.setBit r n v) := .of_same
theorem SleepKeeps.setFld (r hi lo v : Nat) : SleepKeeps d (d.setFld r hi lo v) := .of_same
theorem SleepKeeps.setReg (r v : Nat) : SleepKeeps d (d.setReg r v) := .of_same
theorem SleepKeeps.count (r w n : Nat) : SleepKeeps d (d.count r w n) := .of_same
theorem SleepKeeps.clearMem (lo hi : Nat) : SleepKeeps d (d.clearMem lo hi) := .of_same
theorem SleepKeeps.onTor (f : Tor → Tor) : SleepKeeps d (d.onTor f) := .of_same
theorem SleepKeeps.onPins (f : Pins → Pins) : SleepKeeps d (d.onPins f) := .of_same

theorem SleepKeeps.pllOff (i : Nat) : SleepKeeps d (d.pllOff i) := (SleepKeeps.setBit d ..).trans (SleepKeeps.setBit _ ..)

theorem SleepKeeps.startWake (p : Pwr) : SleepKeeps d (d.startWake p) := (SleepKeeps.onTor d _).trans (SleepKeeps.setReg _ ..)

theorem SleepKeeps.asleep (p : Pwr) : SleepKeeps d (d.asleep p) := by
  have hoff : SleepKeeps d (d.mainOff p) := .onTor d _
  have hshown : SleepKeeps d (((d.mainOff p).setReg A.TOR_STAT (1 * 4096)).setFld A.PWR_STAT 3 2 0) :=
    (hoff.trans (.setReg _ ..)).trans (.setFld _ ..)
  unfold Dev.asleep
  exact hshown.trans (.onTor _ _)

theorem SleepKeeps.sealBanks : SleepKeeps d d.sealBanks := by
  refine (SleepKeeps.count d A.PWR_ENTRY_GEN 32 1).trans (.each (fun e b => ?_) _ _)
  exact .ite (SleepKeeps.setReg e ..) (SleepKeeps.clearMem e ..)

/-- S2 is entered with the banks sealed and the PLLs stopped. -/
theorem enterSleep2_eq : d.enterSleep 2 =
    ((d.sealBanks.each (List.range 4) Dev.pllOff).onPins (fun p => { p with ckeLow := true, gpio15 := false })).asleep .s2 := rfl

theorem SleepKeeps.enterSleep2 : SleepKeeps d (d.enterSleep 2) := by
  rw [enterSleep2_eq]
  exact (((SleepKeeps.sealBanks d).trans (.each SleepKeeps.pllOff _ _)).trans (.onPins _ _)).trans (.asleep _ _)

theorem enterSleep2_pwr : (d.enterSleep 2).tor.pwr = .s2 := by
  rw [enterSleep2_eq]
  rfl

theorem SleepKeeps.goSleep2 : SleepKeeps d (d.goSleep 2) :=
  .ite ((SleepKeeps.enterSleep2 d).trans (SleepKeeps.startWake _ _)) (SleepKeeps.enterSleep2 d)

theorem goSleep2_pwr : (d.goSleep 2).tor.pwr = .s2 ∨ (d.goSleep 2).tor.pwr = .waking := by
  unfold Dev.goSleep
  dsimp only
  split
  · exact .inr (startWake_pwr ..)
  · exact .inl (enterSleep2_pwr d)

end

set_option Elab.async false in
theorem pwrGo2_of_unlatched {d : Dev} (h : d.tor.latch = false) : d.pwrGo 2 = (d.setFld A.PWR_CTL 2 0 2).goSleep 2 :=
  if_neg (by simp [h])

/-- The entry goes on at once, or waits with its request noted. -/
theorem sleepCheck2 {d : Dev} (hreq : d.tor.sleepReq = 2) (hlatch : d.tor.latch = false) :
    SleepKeeps d d.sleepCheck ∧ (d.sleepCheck.tor.pwr = .s2 ∨ d.sleepCheck.tor.pwr = .waking ∨
      (d.sleepCheck.tor.sleepReq = 2 ∧ d.sleepCheck.rd A.PWR_STAT = d.rd A.PWR_STAT)) := by
  have hwait : SleepKeeps d d ∧ (d.tor.pwr = .s2 ∨ d.tor.pwr = .waking ∨ (d.tor.sleepReq = 2 ∧ d.rd A.PWR_STAT = d.rd A.PWR_STAT)) :=
    ⟨.refl d, .inr (.inr ⟨hreq, rfl⟩)⟩
  have hstop := BeforeGo.stopMules d
  unfold Dev.sleepCheck
  simp only [hreq, le_refl, if_true, true_and]
  split
  · exact hwait
  · split
    · exact hwait
    · split
      · exact ⟨hstop.keeps, .inr (.inr ⟨(congrArg Tor.sleepReq hstop.tor).trans hreq, hstop.stat⟩)⟩
      · rw [if_neg (by decide), pwrGo2_of_unlatched (by simpa [hstop.tor] using hlatch)]
        refine ⟨((hstop.keeps.trans (.onTor _ _)).trans (.setFld _ ..)).trans (.goSleep2 _), ?_⟩
        exact (goSleep2_pwr _).imp_right .inl

theorem sleepBegin2 {d : Dev} (hreq : d.tor.sleepReq = 0) (hlatch : d.tor.latch = false) :
    SleepKeeps d (d.sleepBegin 2) ∧ ((d.sleepBegin 2).tor.pwr = .s2 ∨ (d.sleepBegin 2).tor.pwr = .waking ∨
      ((d.sleepBegin 2).tor.sleepReq = 2 ∧ (d.sleepBegin 2).bit A.PWR_STAT 3 = true)) := by
  have hprep := BeforeGo.sleepPrepared (sleepNoted d)
  have hnoted : SleepKeeps d (sleepNoted d) := (SleepKeeps.setBit d ..).trans (.onTor _ _)
  have hstat : (sleepNoted d).bit A.PWR_STAT 3 = true := by
    simp [sleepNoted, Dev.setBit_bit]
  obtain ⟨hkeeps, hend⟩ := sleepCheck2 (d := sleepPrepared (sleepNoted d)) (by rw [hprep.tor]; rfl) (by rw [hprep.tor]; exact hlatch)
  rw [sleepBegin2_eq hreq hlatch]
  refine ⟨(hnoted.trans hprep.keeps).trans hkeeps, hend.imp_right (.imp_right fun h => ⟨h.1, ?_⟩)⟩
  exact (Dev.bit_congr (h.2.trans hprep.stat) 3).trans hstat

end Sys2Proof
end

section
/-! The Tor requests that act (R362, R366, R367, R371): O13. -/

namespace Sys2Proof

open Machine

/-- The state whose count of Tor packets has gone up. -/
def counted (d : Dev) : Dev := d.count (A.SB_CNT 0) 64 1

theorem counted_wakes {n : Nat} {d : Dev} (h : Wakes n d) : Wakes n (counted d) := by
  have hen := count_sbCnt_bit d (r := A.PWR_WAKEEN) (by decide) n
  exact h.imp_left fun ⟨hpwr, hn, hbit⟩ => ⟨hpwr, hn, hen.trans hbit⟩

theorem counted_frame {P : List Part} {R : List Nat} (d : Dev) (hr : A.SB_CNT 0 ∈ R) : Frame P R d (counted d) := (Frame.refl _ _ d).count hr

theorem counted_sleepKeeps (d : Dev) : SleepKeeps d (counted d) := .count d ..

theorem torReplied_sleepKeeps (op : Nat) (seq : Byte) (r : Dev × Nat × List Byte) : SleepKeeps r.1 (torReplied op seq r) := .of_same

/-- A packet that is taken, by what its body answers on the state whose count of packets has gone up. -/
theorem gives_answered {i : Instr} {s : State} {pec : Bool} {op : Nat} {seq : Byte} {body : Dev → Dev × Nat × List Byte}
    {r : Dev × Nat × List Byte} {p : Dev → Prop} (he : exec i s = aonDo s (fun d => d.torPacket pec op seq body))
    (h : TorTakes pec op seq s.dev) (hb : body (counted s.dev) = r) (hp : p (torReplied op seq r)) : Gives i s p := by
  subst hb
  exact gives_taken he h hp

theorem Waking.torReplied {n op : Nat} {a b d : Dev} {seq : Byte} {x : Nat × List Byte} (h : Waking n b d) (hpwr : b.tor.pwr = a.tor.pwr) :
    Waking n a (torReplied op seq (d, x)) := by
  obtain ⟨hwaking, hsaved, hsrc, hstep, htry⟩ := h
  exact ⟨hwaking, hsaved.trans hpwr, hsrc, hstep, htry⟩

theorem torWakeBody_asleep {d : Dev} (h : Wakes 2 d) : Dev.torWakeBody [] d = (d.wakeSource 2, torOk, []) := by
  rcases h.asleep with hpwr | hpwr | hpwr <;> simp [Dev.torWakeBody, hpwr]

theorem torWake_asleep {s : State} {pec : Bool} {seq : Byte} (h : TorTakes pec 0x02 seq s.dev) (hw : Wakes 2 s.dev) :
    Gives (.torWake pec seq []) s (fun d => Replied d 0x02 seq 0 [] ∧ Waking 2 s.dev d ∧
      Frame [.pins, .tor] [A.SB_CNT 0, A.PWR_WAKESRC, A.TOR_STAT] s.dev d) := by
  have hw' := counted_wakes hw
  have hframe := wakeSource_frame hw' (by decide)
  refine gives_answered rfl h (torWakeBody_asleep hw') ?_
  refine ⟨torReplied_replied .., (wakeSource_waking hw' (by decide)).torReplied rfl, torReplied_frame ?_ (by decide)⟩
  exact (counted_frame s.dev (by simp)).trans (hframe.mono (fun _ h => h) (fun r hr => List.mem_cons_of_mem _ hr)) (Nat.le_refl _)
    (Nat.le_of_eq (congrArg Media.jseq (hframe.2.1 .media (by decide))).symm)

set_option Elab.async false in
theorem torWakeBody_on {d : Dev} (hpwr : d.tor.pwr = .on) (hentry : d.bit A.PWR_STAT 3 = false) :
    Dev.torWakeBody [] d = (d, torOk, []) := by
  simp [Dev.torWakeBody, Dev.wakeSource, hpwr, hentry]

theorem torSleepBody_goes {d : Dev} (hpwr : d.tor.pwr = .on) (hrun : d.tor.mainOn = true) (hmay : d.maySleep = true) :
    Dev.torSleepBody [0x02] d = (d.sleepBegin 2, torOk, []) := by
  simp [Dev.torSleepBody, Dev.torMainNeeds, hpwr, hrun, hmay]

theorem torSleepBody_refused {d : Dev} {b : Byte} (hpwr : d.tor.pwr = .on) (hmay : d.maySleep = false) (hb : b = 0x02 ∨ b = 0x03) :
    Dev.torSleepBody [b] d = (d, torRefused, []) := by
  rcases hb with rfl | rfl <;> simp [Dev.torSleepBody, Dev.torMainNeeds, hpwr, hmay]

/-- A reply leaves the entry into S2 where it stands. -/
theorem torReplied_entry (op : Nat) (seq : Byte) (r : Dev × Nat × List Byte) :
    ((torReplied op seq r).tor.pwr = .s2 ∨ (torReplied op seq r).tor.pwr = .waking ∨
      ((torReplied op seq r).tor.sleepReq = 2 ∧ (torReplied op seq r).bit A.PWR_STAT 3 = true)) ↔
    (r.1.tor.pwr = .s2 ∨ r.1.tor.pwr = .waking ∨ (r.1.tor.sleepReq = 2 ∧ r.1.bit A.PWR_STAT 3 = true)) :=
  Iff.rfl

theorem torSleep_goes {s : State} {pec : Bool} {seq : Byte} (h : TorTakes pec 0x03 seq s.dev) (hpwr : s.dev.tor.pwr = .on)
    (hrun : Running s) (hmay : s.dev.maySleep = true) (hreq : s.dev.tor.sleepReq = 0) (hlatch : s.dev.tor.latch = false) :
    Gives (.torSleep pec seq [0x02]) s (fun d =>
      Replied d 0x03 seq 0 [] ∧ (d.tor.pwr = .s2 ∨ d.tor.pwr = .waking ∨ (d.tor.sleepReq = 2 ∧ d.bit A.PWR_STAT 3 = true)) ∧
      d.board = s.dev.board ∧ ∀ p, p ∈ [Part.cores, .gate, .cirque, .ox, .cairn, .cipher, .pens, .host] → p.same s.dev d) := by
  obtain ⟨hkeeps, hend⟩ := sleepBegin2 (d := counted s.dev) hreq hlatch
  refine gives_answered rfl h (torSleepBody_goes (d := counted s.dev) hpwr hrun hmay) ?_
  have hall : SleepKeeps s.dev (torReplied 0x03 seq ((counted s.dev).sleepBegin 2, torOk, [])) :=
    ((counted_sleepKeeps s.dev).trans hkeeps).trans (torReplied_sleepKeeps 0x03 seq (_, torOk, []))
  exact ⟨torReplied_replied .., (torReplied_entry ..).2 hend, hall.board, hall.same⟩

theorem torAddrBody_set {d : Dev} {a : Byte} (ha : a.toNat < 128) (hgood : badSbAddr a.toNat = false) :
    Dev.torAddrBody [a, 0] d = (d.setReg A.SB_ADDR (0x80 + a.toNat), torOk, []) := by
  have hmod : a.toNat % 128 = a.toNat := Nat.mod_eq_of_lt ha
  have htop : a.getLsbD 7 = false := by rw [BitVec.getLsbD, Nat.testBit_lt_two_pow ha]
  rw [Dev.torAddrBody, if_neg (by decide), if_neg (by rw [htop, hmod, hgood]; decide), hmod]

/-- An address that is refused is refused with its top bit set or not. -/
theorem torAddrBody_bad {d : Dev} {a : Byte} (hbad : badSbAddr a.toNat = true) : Dev.torAddrBody [a, 0] d = (d, torBadParam, []) := by
  have hor : (a.getLsbD 7 || badSbAddr (a.toNat % 128)) = true := by
    by_cases ha : a.toNat < 128
    · rw [Nat.mod_eq_of_lt ha, hbad, Bool.or_true]
    · have htop : a.getLsbD 7 = true := by
        rw [BitVec.getLsbD, Nat.testBit_eq_decide_div_mod_eq, decide_eq_true_eq]
        have := a.isLt
        omega
      rw [htop, Bool.true_or]
  rw [Dev.torAddrBody, if_neg (by decide), if_pos hor]

theorem torAddrBody_clear (d : Dev) (a : Byte) :
    Dev.torAddrBody [a, 1] d = ((d.setReg A.SB_ADDR 0).setBit A.SB_ENUM 1 false, torOk, []) := by
  rw [Dev.torAddrBody, if_pos (by decide)]

theorem torChainBody_pass {d : Dev} (h : d.bit A.SB_ADDR 7 = true) : Dev.torChainBody [1] d = (d.setBit A.SB_ENUM 1 true, torOk, []) := by
  simp [Dev.torChainBody, h]

theorem torChainBody_refused {d : Dev} (h : d.bit A.SB_ADDR 7 = false) : Dev.torChainBody [1] d = (d, torRefused, []) := by
  simp [Dev.torChainBody, h]

/-- A taken packet whose body refuses changes no more than the count. -/
theorem gives_torRefused {i : Instr} {s : State} {pec : Bool} {op : Nat} {seq : Byte} {body : Dev → Dev × Nat × List Byte} {st : Nat}
    (he : exec i s = aonDo s (fun d => d.torPacket pec op seq body)) (h : TorTakes pec op seq s.dev)
    (hb : body (counted s.dev) = (counted s.dev, st, [])) :
    Gives i s (fun d => Replied d op seq st [] ∧ Frame [.tor] [A.SB_CNT 0] s.dev d) :=
  gives_answered he h hb ⟨torReplied_replied .., torReplied_count_frame ..⟩

theorem torAddrSet_gives {s : State} {pec : Bool} {seq a : Byte} (h : TorTakes pec 0x05 seq s.dev) (ha : a.toNat < 128)
    (hgood : badSbAddr a.toNat = false) :
    Gives (.torAddrSet pec seq [a, 0]) s (fun d =>
      Replied d 0x05 seq 0 [] ∧ d.rd A.SB_ADDR = BitVec.ofNat 64 (0x80 + a.toNat) ∧ Frame [.tor] [A.SB_CNT 0, A.SB_ADDR] s.dev d) := by
  refine gives_answered rfl h (torAddrBody_set ha hgood) ?_
  refine ⟨torReplied_replied .., ?_, torReplied_frame ((counted_frame s.dev (by simp)).setReg (by simp)) (by decide)⟩
  rw [torReplied_rd, Dev.setReg_rd, if_pos rfl]

theorem torAddrClear_gives {s : State} {pec : Bool} {seq a : Byte} (h : TorTakes pec 0x05 seq s.dev) :
    Gives (.torAddrSet pec seq [a, 1]) s (fun d =>
      Replied d 0x05 seq 0 [] ∧ d.rd A.SB_ADDR = 0 ∧ d.bit A.SB_ENUM 1 = false ∧
      Frame [.tor] [A.SB_CNT 0, A.SB_ADDR, A.SB_ENUM] s.dev d) := by
  refine gives_answered rfl h (torAddrBody_clear _ _) ?_
  refine ⟨torReplied_replied .., ?_, ?_,
    torReplied_frame (((counted_frame s.dev (by simp)).setReg (by simp)).setBit (by simp)) (by decide)⟩
  · rw [torReplied_rd, Dev.setBit_rd, if_neg (by decide), Dev.setReg_rd, if_pos rfl]
    rfl
  · rw [Dev.bit_congr (torReplied_rd ..), Dev.setBit_bit _ _ _ _ _ _ (by decide), if_pos ⟨rfl, rfl⟩]

set_option Elab.async false in
theorem torChainPass_gives {s : State} {pec : Bool} {seq : Byte} (h : TorTakes pec 0x06 seq s.dev) (haddr : s.dev.bit A.SB_ADDR 7 = true) :
    Gives (.torChainPass pec seq [1]) s (fun d =>
      Replied d 0x06 seq 0 [] ∧ d.bit A.SB_ENUM 1 = true ∧ Frame [.tor] [A.SB_CNT 0, A.SB_ENUM] s.dev d) := by
  refine gives_answered rfl h (torChainBody_pass ((count_sbCnt_bit s.dev (by decide) 7).trans haddr)) ?_
  refine ⟨torReplied_replied .., ?_, torReplied_frame ((counted_frame s.dev (by simp)).setBit (by simp)) (by decide)⟩
  rw [Dev.bit_congr (torReplied_rd ..), Dev.setBit_bit _ _ _ _ _ _ (by decide), if_pos ⟨rfl, rfl⟩]

/-- Settles O13: each body on the state whose count of packets has gone up; the entry into S2 leaves the main domain's parts alone. -/
theorem torActions : Obligations.TorActions := by
  unfold Obligations.TorActions
  refine ⟨fun s pec seq => torWake_asleep, fun s pec seq h hpwr hentry => ?_, fun s pec seq => torSleep_goes,
    fun s pec seq b h hpwr hmay hb => gives_torRefused rfl h (torSleepBody_refused hpwr hmay hb), fun s pec seq a => torAddrSet_gives,
    fun s pec seq a h hbad => gives_torRefused rfl h (torAddrBody_bad hbad), fun s pec seq a => torAddrClear_gives,
    fun s pec seq => torChainPass_gives,
    fun s pec seq h haddr => gives_torRefused rfl h (torChainBody_refused ((count_sbCnt_bit s.dev (by decide) 7).trans haddr))⟩
  exact gives_answered rfl h (torWakeBody_on (d := counted s.dev) hpwr ((count_sbCnt_bit s.dev (by decide) 3).trans hentry))
    ⟨torReplied_replied .., hpwr, torReplied_count_frame ..⟩

end Sys2Proof
end

section
/-! The event log region holds 98,304 records (R283); once it is full, the firmware writes the live log there anew (R297). The clause of
O47 on the close of a record asks that it is appended in every state. -/

namespace Sys2Proof

open Machine

namespace Machine

theorem Log.ordered_length (l : Nat) (g : Log) : (Log.ordered l g).length = g.recs.length := by
  unfold Log.ordered
  split
  · exact List.length_insertionSort ..
  · exact List.length_insertionSort ..

/-- With a full region the close of a record leaves the live log there. -/
theorem Dev.closeRecord_full {d : Dev} {k : Nat} {r : LogRec} (hlast : (d.log devLog).last = some k) (hrec : (d.log devLog).at k = some r)
    (hfull : eventCap ≤ d.cairn.copied.length) : d.closeRecord.cairn.copied.length = (d.log devLog).recs.length := by
  have hlog : (d.setLog devLog { d.log devLog with last := none }).log devLog = { d.log devLog with last := none } :=
    SMap.get_set_same ..
  have hcopied : ¬ (d.setLog devLog { d.log devLog with last := none }).cairn.copied.length < eventCap := Nat.not_lt.mpr hfull
  simp only [Dev.closeRecord, hlast, hrec, Dev.onCairn_cairn, if_neg hcopied, hlog, Log.ordered_length]

end Machine

/-- An open record of the device log. -/
def openRec : LogRec := { slot := 0, stamp := 0, seq := 1, time := 0, post := mkPost 0x0100 1 4 0, rep := 0 }

/-- The region is full of closed records, and the live log holds the open one alone. -/
def fullRegion : State :=
  { dev := Dev.cold.onCairn (fun c =>
      { c with copied := List.replicate eventCap openRec, logs := [(devLog, { Log.empty with recs := [openRec], last := some 0 })] })
    pending := [] }

theorem fullRegion_running : Running fullRegion := rfl

theorem fullRegion_last : (fullRegion.dev.log devLog).last = some 0 := rfl

theorem fullRegion_open : (fullRegion.dev.log devLog).at 0 = some openRec := rfl

theorem fullRegion_recs : (fullRegion.dev.log devLog).recs.length = 1 := rfl

theorem fullRegion_copied : fullRegion.dev.cairn.copied.length = eventCap := List.length_replicate

theorem exec_deviceLogRecordClose {s : State} (h : Running s) :
    exec .deviceLogRecordClose s = .next { s with dev := s.dev.closeRecord } :=
  mainDo_running h Dev.closeRecord

/-- Refutes O47: with the region full the close leaves the one record of the live log there, where the clause asks for 98,305. -/
theorem not_cairnRecorder : ¬ Obligations.CairnRecorder := by
  unfold Obligations.CairnRecorder
  rintro ⟨-, -, -, -, -, -, hclose⟩
  obtain ⟨hopen, -⟩ := hclose fullRegion fullRegion_running
  obtain ⟨hcopied, -⟩ := (hopen 0 openRec fullRegion_last fullRegion_open).holds_of_exec (exec_deviceLogRecordClose fullRegion_running)
  have hlen := congrArg List.length hcopied
  rw [Dev.closeRecord_full fullRegion_last fullRegion_open (Nat.le_of_eq fullRegion_copied.symm), fullRegion_recs, List.length_append,
    fullRegion_copied] at hlen
  exact absurd hlen (by decide)

end Sys2Proof
end

section
/-! The records of a ring sector go with its erase (R283). The frame of the clause of O45 on the end of an erase keeps the journal. -/

namespace Sys2Proof

open Machine

/-- A record of the firmware in the ring's first sector. -/
def ringRec : JRec := { seq := 1, flushed := true, peer := false, body := .initdone 0 0, loc := 0 }

/-- Bank 4 erases the first sector of the ring. -/
def ringErase : State :=
  { dev := ((Dev.cold.setReg (A.CIRQUE_ESTAT 4) 1).onCirque (fun c => { c with esec := [(4, 0x4000)] })).onMedia
      (fun m => { m with journal := [ringRec] })
    pending := [] }

set_option Elab.async false in
theorem ringErase_running : Running ringErase := rfl

theorem ringErase_sector : SMap.find ringErase.dev.cirque.esec 4 = some 0x4000 := rfl

theorem ringErase_state : ringErase.dev.fld (A.CIRQUE_ESTAT 4) 1 0 = 1 := by decide +kernel

theorem ringErase_journal : ringErase.dev.media.journal.length = 1 := rfl

theorem exec_cirqueEraseEnd {s : State} (h : Running s) (b : BankN) (fail : Bool) :
    exec (.cirqueEraseEnd b fail) s = .next { s with dev := s.dev.cqEraseEnd b.val fail } :=
  mainDo_running h (fun d => d.cqEraseEnd b.val fail)

/-- With the end of the erase the record is gone. -/
theorem ringErase_end_journal : (ringErase.dev.cqEraseEnd 4 false).media.journal.length = 0 := by decide +kernel

/-- Refutes O45: the erase of a ring sector ends, and the journal loses the record in it, while the frame of the clause keeps the
part the journal is in. -/
theorem not_cirqueErasesAndRows : ¬ Obligations.CirqueErasesAndRows := by
  unfold Obligations.CirqueErasesAndRows
  rintro ⟨-, hbanks, -⟩
  obtain ⟨-, -, hend⟩ := hbanks ringErase 4 ringErase_running
  obtain ⟨-, -, -, -, -, -, -, -, -, -, hparts, -⟩ :=
    ((hend 0x4000 false ringErase_sector (by decide)).2 ringErase_state).holds_of_exec (exec_cirqueEraseEnd ringErase_running 4 false)
  have hmedia : (ringErase.dev.cqEraseEnd 4 false).media = ringErase.dev.media := hparts .media (by decide)
  have hkept : (ringErase.dev.cqEraseEnd 4 false).media.journal.length = 1 :=
    (congrArg (fun m => m.journal.length) hmedia).trans ringErase_journal
  exact absurd (hkept.symm.trans ringErase_end_journal) (by decide)

end Sys2Proof
end

section
/-! The channels of Ox (R304 to R315): what a start, a stop and a grant leave of each channel. -/

namespace Sys2Proof

open Machine

/-- The registers that the transfer of a channel writes. -/
def oxRunRegs (n : Nat) : List Nat := [A.OX_STAT n, A.OX_DONE n, A.OX_ASRC n, A.OX_ADST n]

/-- The registers of a channel's shadow set. -/
def oxShadowRegs (n : Nat) : List Nat := [A.OX_CFG n, A.OX_SRC n, A.OX_DST n, A.OX_IDX n, A.OX_LEN n, A.OX_PORTARG n]

/-- The registers of Ox that belong to no channel. -/
def oxGlobalRegs : List Nat := [A.OX_CTL, A.OX_GSTAT, A.OX_INTST, A.OX_ERRST]

theorem oxShadowRegs_not_run {n m r : Nat} (hr : r ∈ oxShadowRegs n) : r ∉ oxRunRegs m := by
  simp only [oxShadowRegs, oxRunRegs, List.mem_cons, List.not_mem_nil, or_false, A.OX_CFG, A.OX_SRC, A.OX_DST, A.OX_IDX, A.OX_LEN,
    A.OX_PORTARG, A.OX_STAT, A.OX_DONE, A.OX_ASRC, A.OX_ADST] at hr ⊢
  omega

theorem oxShadowRegs_not_global {n r : Nat} (hr : r ∈ oxShadowRegs n) : r ∉ oxGlobalRegs := by
  simp only [oxShadowRegs, oxGlobalRegs, List.mem_cons, List.not_mem_nil, or_false, A.OX_CFG, A.OX_SRC, A.OX_DST, A.OX_IDX, A.OX_LEN,
    A.OX_PORTARG, A.OX_CTL, A.OX_GSTAT, A.OX_INTST, A.OX_ERRST] at hr ⊢
  omega

theorem oxGlobalRegs_not_run {n r : Nat} (hr : r ∈ oxGlobalRegs) : r ∉ oxRunRegs n := by
  simp only [oxGlobalRegs, oxRunRegs, List.mem_cons, List.not_mem_nil, or_false, A.OX_CTL, A.OX_GSTAT, A.OX_INTST, A.OX_ERRST,
    A.OX_STAT, A.OX_DONE, A.OX_ASRC, A.OX_ADST] at hr ⊢
  omega

theorem oxStat_not_run {n m : Nat} (h : n ≠ m) : A.OX_STAT n ∉ oxRunRegs m := by
  simp only [oxRunRegs, List.mem_cons, List.not_mem_nil, or_false, A.OX_STAT, A.OX_DONE, A.OX_ASRC, A.OX_ADST]
  omega

theorem oxStat_not_global (n : Nat) : A.OX_STAT n ∉ oxGlobalRegs := by
  simp only [oxGlobalRegs, List.mem_cons, List.not_mem_nil, or_false, A.OX_STAT, A.OX_CTL, A.OX_GSTAT, A.OX_INTST, A.OX_ERRST]
  omega

theorem oxStat_ne_global {n r : Nat} (hr : r ∈ oxGlobalRegs) : A.OX_STAT n ≠ r := fun h => oxStat_not_global n (h ▸ hr)

theorem oxStat_inj {n m : Nat} (h : A.OX_STAT n = A.OX_STAT m) : n = m := by
  simp only [A.OX_STAT] at h
  omega

/-- The registers that show a channel's progress. -/
def oxShowRegs (n : Nat) : List Nat := [A.OX_DONE n, A.OX_ASRC n, A.OX_ADST n]

theorem oxStat_not_show (n m : Nat) : A.OX_STAT n ∉ oxShowRegs m := by
  simp only [oxShowRegs, List.mem_cons, List.not_mem_nil, or_false, A.OX_STAT, A.OX_DONE, A.OX_ASRC, A.OX_ADST]
  omega

section
variable {P : List Part} {R : List Nat} {a d : Dev} {n m k : Nat}

set_option Elab.async false in
theorem mem_irqTo (d : Dev) (core src : Nat) : (core, src) ∈ (d.irqTo core src).cores.irqs := by
  rw [Dev.irqTo, Dev.onCores_cores]
  split
  · assumption
  · exact List.mem_append_right _ List.mem_cons_self

theorem Frame.oxShadow (h : Frame P R a d) (hR : ∀ r ∈ oxShadowRegs n, r ∉ R) : d.oxShadow n = a.oxShadow n := by
  have hrd : ∀ r ∈ oxShadowRegs n, d.rd r = a.rd r := fun r hr => h.rd_eq (hR r hr)
  simp only [Dev.oxShadow, Dev.fld, hrd (A.OX_CFG n) (by simp [oxShadowRegs]), hrd (A.OX_SRC n) (by simp [oxShadowRegs]),
    hrd (A.OX_DST n) (by simp [oxShadowRegs]), hrd (A.OX_IDX n) (by simp [oxShadowRegs]), hrd (A.OX_LEN n) (by simp [oxShadowRegs]),
    hrd (A.OX_PORTARG n) (by simp [oxShadowRegs])]

theorem Frame.oxShow {s : OxSet} (h : Frame P R a d) (hR : ∀ r ∈ oxShowRegs n, r ∈ R) : Frame P R a (d.oxShow n s k) :=
  ((h.setReg (hR _ (by simp [oxShowRegs]))).setReg (hR _ (by simp [oxShowRegs]))).setReg (hR _ (by simp [oxShowRegs]))

theorem Frame.oxStart (h : Frame P R a d) (hp : Part.ox ∈ P) (hR : ∀ r ∈ oxRunRegs n, r ∈ R) : Frame P R a (d.oxStart n) :=
  Frame.oxShow (((h.onOx hp).setBit (hR _ List.mem_cons_self)).setFld (hR _ List.mem_cons_self))
    fun r hr => hR r (List.mem_cons_of_mem _ hr)

/-! What a transfer shows. -/

theorem oxShow_frame (d : Dev) (n : Nat) (s : OxSet) (k : Nat) : Frame [] (oxShowRegs n) d (d.oxShow n s k) :=
  (Frame.refl _ _ d).oxShow fun _ hr => hr

theorem oxShow_done (d : Dev) (n : Nat) (s : OxSet) (k : Nat) : (d.oxShow n s k).rd (A.OX_DONE n) = BitVec.ofNat 64 k := by
  simp [Dev.oxShow, A.OX_DONE, A.OX_ASRC, A.OX_ADST]

theorem oxShow_asrc (d : Dev) (n : Nat) (s : OxSet) (k : Nat) : (d.oxShow n s k).rd (A.OX_ASRC n) = BitVec.ofNat 64 (oxAddrs s k).1 := by
  simp [Dev.oxShow, A.OX_DONE, A.OX_ASRC, A.OX_ADST]

theorem oxShow_adst (d : Dev) (n : Nat) (s : OxSet) (k : Nat) : (d.oxShow n s k).rd (A.OX_ADST n) = BitVec.ofNat 64 (oxAddrs s k).2 := by
  simp [Dev.oxShow]

/-! What a start leaves. -/

theorem oxStart_state (d : Dev) (n : Nat) : (d.oxStart n).oxState n = 1 :=
  ((oxShow_frame _ n _ 0).fld_eq (oxStat_not_show n n) 2 0).trans (Dev.setFld_fld _ _ _ _ _ (by decide) (by decide))

theorem oxStart_armed (d : Dev) (n : Nat) : (d.oxStart n).bit (A.OX_STAT n) 9 = false :=
  ((oxShow_frame _ n _ 0).bit_eq (oxStat_not_show n n) 9).trans (by simp [Dev.setFld_bit, Dev.setBit_bit])

theorem oxStart_act (d : Dev) (n m : Nat) : (d.oxStart n).oxAct m = if m = n then d.oxShadow n else d.oxAct m := SMap.get_set ..

theorem oxStart_done (d : Dev) (n : Nat) : (d.oxStart n).rd (A.OX_DONE n) = 0 := oxShow_done ..

theorem ofNat_toNat_rd (d : Dev) (r : Nat) : BitVec.ofNat 64 (d.rd r).toNat = d.rd r := BitVec.ofNat_toNat ..

theorem oxStart_asrc (d : Dev) (n : Nat) : (d.oxStart n).rd (A.OX_ASRC n) = d.rd (A.OX_SRC n) :=
  (oxShow_asrc ..).trans (ofNat_toNat_rd ..)

theorem oxStart_adst (d : Dev) (n : Nat) : (d.oxStart n).rd (A.OX_ADST n) = d.rd (A.OX_DST n) := by
  refine (oxShow_adst ..).trans ?_
  have haddr : (oxAddrs (d.oxShadow n) 0).2 = (d.rd (A.OX_DST n)).toNat := by
    unfold oxAddrs
    dsimp only
    split <;> rfl
  rw [haddr, ofNat_toNat_rd]

theorem each_cons {α : Type} (f : Dev → α → Dev) (d : Dev) (m : α) (t : List α) : d.each (m :: t) f = (f d m).each t f := rfl

theorem oxIrq_bit (d : Dev) (n core r k : Nat) : (d.oxIrq n core).bit r k = d.bit r k := rfl

/-! What a stop leaves. -/

/-- A channel that is stopped raises nothing. -/
theorem oxHalt_stopped (d : Dev) (n : Nat) :
    d.oxHalt n 5 = (d.setFld (A.OX_STAT n) 2 0 5).onOx (fun o =>
      { o with stopping := o.stopping.filter (· != n), wdraw := o.wdraw.filter (· != n) }) := rfl

theorem oxHalt_stopped_state (d : Dev) (n : Nat) : (d.oxHalt n 5).oxState n = 5 := by
  rw [oxHalt_stopped]
  exact Dev.setFld_fld d (A.OX_STAT n) 2 0 5 (by decide) (by decide)

theorem Frame.oxStopCh (h : Frame P R a d) (hp : Part.ox ∈ P) (hs : A.OX_STAT n ∈ R) : Frame P R a (d.oxStopCh n) :=
  Frame.ite h (Frame.ite (h.onOx hp) ((h.setFld hs).onOx hp))

theorem oxStopCh_flight (d : Dev) (n : Nat) : (d.oxStopCh n).ox.flight = d.ox.flight := by
  unfold Dev.oxStopCh
  split
  · rfl
  · split <;> rfl

set_option Elab.async false in
theorem oxStopCh_heldEn (d : Dev) (n : Nat) : (d.oxStopCh n).ox.heldEn = d.ox.heldEn := by
  unfold Dev.oxStopCh
  split
  · rfl
  · split <;> rfl

theorem oxStopCh_other (d : Dev) (h : n ≠ m) : (d.oxStopCh m).oxState n = d.oxState n :=
  ((Frame.refl [.ox] [A.OX_STAT m] d).oxStopCh (by decide) List.mem_cons_self).fld_eq
    (fun hmem => h (oxStat_inj (List.mem_singleton.mp hmem))) 2 0

/-- A step of the enable's clear stops a running channel at once, and leaves one that it has stopped. -/
theorem oxStopCh_idle (d : Dev) (hflight : n ∉ d.ox.flight) (h : (n = m ∧ d.oxState n = 1) ∨ d.oxState n = 5) :
    (d.oxStopCh m).oxState n = 5 := by
  by_cases hnm : n = m
  · subst hnm
    unfold Dev.oxStopCh
    split
    · next hrun => exact h.resolve_left fun hn => hrun hn.2
    · exact oxHalt_stopped_state d n
  · rw [oxStopCh_other d hnm]
    exact h.resolve_left fun hn => hnm hn.1

theorem each_oxStopCh_idle (l : List Nat) (d : Dev) (hflight : n ∉ d.ox.flight) (h : (n ∈ l ∧ d.oxState n = 1) ∨ d.oxState n = 5) :
    (d.each l Dev.oxStopCh).oxState n = 5 := by
  induction l generalizing d with
  | nil => exact h.resolve_left fun hn => List.not_mem_nil hn.1
  | cons m t ih =>
    rw [each_cons]
    refine ih (d.oxStopCh m) (by rwa [oxStopCh_flight]) ?_
    by_cases hnm : n = m
    · exact .inr (oxStopCh_idle d hflight (h.imp_left fun hn => ⟨hnm, hn.2⟩))
    · rw [oxStopCh_other d hnm]
      exact h.imp_left fun hn => ⟨(List.mem_cons.mp hn.1).resolve_left hnm, hn.2⟩

/-- A channel whose burst is in flight goes on to its end, and then stops. -/
theorem oxStopCh_flying (d : Dev) (hflight : n ∈ d.ox.flight) (hrun : d.oxState n = 1) (h : n = m ∨ n ∈ d.ox.stopping) :
    (d.oxStopCh m).oxState n = 1 ∧ n ∈ (d.oxStopCh m).ox.stopping := by
  by_cases hnm : n = m
  · subst hnm
    rw [Dev.oxStopCh, if_neg (not_not.mpr hrun), if_pos hflight]
    exact ⟨hrun, List.mem_append_right _ List.mem_cons_self⟩
  · have hstop := h.resolve_left hnm
    refine ⟨(oxStopCh_other d hnm).trans hrun, ?_⟩
    have hkept : n ∈ d.ox.stopping.filter (· != m) := List.mem_filter.mpr ⟨hstop, by simpa using hnm⟩
    unfold Dev.oxStopCh
    split
    · exact hstop
    · split
      · exact List.mem_append_left _ hkept
      · exact hkept

theorem each_oxStopCh_flying (l : List Nat) (d : Dev) (hflight : n ∈ d.ox.flight) (hrun : d.oxState n = 1)
    (h : n ∈ l ∨ n ∈ d.ox.stopping) : (d.each l Dev.oxStopCh).oxState n = 1 ∧ n ∈ (d.each l Dev.oxStopCh).ox.stopping := by
  induction l generalizing d with
  | nil => exact ⟨hrun, h.resolve_left List.not_mem_nil⟩
  | cons m t ih =>
    rw [each_cons]
    have hflight' : n ∈ (d.oxStopCh m).ox.flight := by rwa [oxStopCh_flight]
    by_cases hnm : n = m
    · obtain ⟨hrun', hstop⟩ := oxStopCh_flying d hflight hrun (.inl hnm)
      exact ih _ hflight' hrun' (.inr hstop)
    · refine ih _ hflight' ((oxStopCh_other d hnm).trans hrun) ?_
      rcases h with hmem | hstop
      · exact .inl ((List.mem_cons.mp hmem).resolve_left hnm)
      · exact .inr (oxStopCh_flying d hflight hrun (.inr hstop)).2

theorem each_oxStopCh_ox (l : List Nat) (d : Dev) :
    (d.each l Dev.oxStopCh).ox.flight = d.ox.flight ∧ (d.each l Dev.oxStopCh).ox.heldEn = d.ox.heldEn := by
  induction l generalizing d with
  | nil => exact ⟨rfl, rfl⟩
  | cons m t ih =>
    rw [each_cons]
    obtain ⟨hflight, hheld⟩ := ih (d.oxStopCh m)
    exact ⟨hflight.trans (oxStopCh_flight d m), hheld.trans (oxStopCh_heldEn d m)⟩

/-! The armed channels that the enable starts. -/

theorem each_oxStart_rd (l : List Nat) (d : Dev) {r : Nat} (hr : ∀ m ∈ l, r ∉ oxRunRegs m) : (d.each l Dev.oxStart).rd r = d.rd r :=
  (Frame.each (R := l.flatMap oxRunRegs) (Frame.refl [.ox] _ d) fun _ hm _ he =>
    he.oxStart (by decide) fun _ hx => List.mem_flatMap.mpr ⟨_, hm, hx⟩).rd_eq fun hmem => by
      obtain ⟨m, hm, hx⟩ := List.mem_flatMap.mp hmem
      exact hr m hm hx

set_option Elab.async false in
theorem each_oxStart_act_other (l : List Nat) (d : Dev) (h : n ∉ l) : (d.each l Dev.oxStart).oxAct n = d.oxAct n := by
  induction l generalizing d with
  | nil => rfl
  | cons m t ih =>
    rw [each_cons]
    rw [List.mem_cons, not_or] at h
    exact (ih (d.oxStart m) h.2).trans ((oxStart_act d m n).trans (if_neg h.1))

theorem each_oxStart_started (l : List Nat) (d : Dev) (h : n ∈ l) :
    (d.each l Dev.oxStart).oxState n = 1 ∧ (d.each l Dev.oxStart).oxAct n = d.oxShadow n := by
  induction l generalizing d with
  | nil => exact absurd h List.not_mem_nil
  | cons m t ih =>
    rw [each_cons]
    by_cases ht : n ∈ t
    · obtain ⟨hstate, hact⟩ := ih (d.oxStart m) ht
      refine ⟨hstate, hact.trans ?_⟩
      exact ((Frame.refl [.ox] (oxRunRegs m) d).oxStart (by decide) fun _ hr => hr).oxShadow fun r hr => oxShadowRegs_not_run hr
    · obtain rfl := (List.mem_cons.mp h).resolve_right ht
      have hrd := each_oxStart_rd t (d.oxStart n) (r := A.OX_STAT n) fun k hk => oxStat_not_run fun hnk => ht (hnk ▸ hk)
      exact ⟨(Dev.fld_congr hrd 2 0).trans (oxStart_state d n),
        (each_oxStart_act_other t (d.oxStart n) ht).trans ((oxStart_act d n n).trans (if_pos rfl))⟩

/-! What a grant leaves. -/

theorem oxGrant_cases (d : Dev) :
    d.oxGrant = d ∨ ∃ n, d.oxBest = some n ∧
      d.oxGrant = d.onOx (fun o => { o with flight := [n], lines := o.lines.filter (· != (d.oxAct n).req) }) := by
  unfold Dev.oxGrant
  split
  · cases d.oxBest with
    | none => exact .inl rfl
    | some n => exact .inr ⟨n, rfl, rfl⟩
  · exact .inl rfl

theorem oxGrant_state (d : Dev) (n : Nat) : d.oxGrant.oxState n = d.oxState n := Dev.fld_congr (Dev.oxGrant_rd _ _) 2 0

theorem oxGrant_act (d : Dev) (n : Nat) : d.oxGrant.oxAct n = d.oxAct n := by
  obtain h | ⟨m, -, h⟩ := oxGrant_cases d
  · rw [h]
  · rw [h]
    rfl

theorem oxGrant_wdraw (d : Dev) : d.oxGrant.ox.wdraw = d.ox.wdraw := by
  obtain h | ⟨m, -, h⟩ := oxGrant_cases d
  · rw [h]
  · rw [h]
    rfl

theorem oxGrant_lines {x : Nat} (h : x ∉ d.ox.lines) : x ∉ d.oxGrant.ox.lines := by
  obtain hg | ⟨m, -, hg⟩ := oxGrant_cases d
  · rwa [hg]
  · rw [hg]
    exact fun hmem => h (List.mem_of_mem_filter hmem)

/-- Arbitration takes a channel that asks. -/
theorem oxBest_asks (h : d.oxBest = some n) : d.oxAsks n = true := by
  have hmem : ∀ k, d.oxBest = some k → k ∈ (List.range 32).filter d.oxAsks := by
    refine List.foldlRecOn (motive := fun b : Option Nat => ∀ k, b = some k → k ∈ (List.range 32).filter d.oxAsks) _ _
      (fun k hk => nomatch hk) fun b hb m hm k hk => ?_
    cases b with
    | none => exact Option.some.inj hk ▸ hm
    | some x =>
      dsimp only at hk
      split at hk
      · exact Option.some.inj hk ▸ hm
      · exact hb k hk
  exact (List.mem_filter.mp (hmem n h)).2

/-- No grant goes to a channel that does not run. -/
theorem oxGrant_flight_running (h : d.oxState n ≠ 1) (hflight : n ∉ d.ox.flight) : n ∉ d.oxGrant.ox.flight := by
  obtain hg | ⟨m, hbest, hg⟩ := oxGrant_cases d
  · rwa [hg]
  · rw [hg]
    rintro hmem
    obtain rfl : n = m := List.mem_singleton.mp hmem
    have hasks := oxBest_asks hbest
    simp only [Dev.oxAsks, Bool.and_eq_true, decide_eq_true_eq] at hasks
    exact h hasks.1.1

set_option Elab.async false in
theorem oxGrant_busy (h : d.oxActive = false ∨ d.ox.flight ≠ []) : d.oxGrant = d := by
  refine if_neg ?_
  rcases h with h | h
  · simp [h]
  · simp [h]

end

end Sys2Proof
end

section
/-! The commands of Ox but the end of a burst (R304, R305, R308 to R310, R313). -/

namespace Sys2Proof

open Machine

section
variable {s : State} {n : OxN}

theorem exec_oxGo (s : State) (n : OxN) : exec (.oxGo n) s = regDo (A.OX_CMD n.val) s (fun d => d.oxArm n.val) := rfl

theorem exec_oxStop (s : State) (n : OxN) : exec (.oxStop n) s = regDo (A.OX_CMD n.val) s (fun d => d.oxStopCh n.val) := rfl

theorem exec_oxCtlEnWrite (s : State) (en : Bool) : exec (.oxCtlEnWrite en) s = regDo A.OX_CTL s (fun d => d.oxEn en) := rfl

theorem exec_requestWithdrawal (s : State) (line : Byte) :
    exec (.requestWithdrawal line) s = mainDo s (fun d => d.oxWithdraw line.toNat) := rfl

/-! GO and STOP. -/

theorem oxArm_bad {d : Dev} {n : Nat} (h : d.oxGood (d.oxShadow n) = false) :
    d.oxArm n = ((d.setBit (A.OX_STAT n) 10 true).setBit A.OX_ERRST n true).oxIrq n (d.oxShadow n).core :=
  if_pos (by simp [h])

theorem oxArm_waits {d : Dev} {n : Nat} (h : d.oxGood (d.oxShadow n) = true) (hrun : d.oxActive = false ∨ d.oxState n = 1) :
    d.oxArm n = d.setBit (A.OX_STAT n) 9 true := by
  have hactive : (d.setBit (A.OX_STAT n) 9 true).oxActive = d.oxActive := by
    rw [Dev.oxActive, Dev.setBit_bit _ _ _ _ _ _ (by decide), if_neg fun h => oxStat_ne_global (by decide) h.1.symm, Dev.oxActive]
  have hstate : (d.setBit (A.OX_STAT n) 9 true).oxState n = d.oxState n := Dev.setBit_fld _ _ _ _ _ _ _ (by decide) (.inr (.inr (by decide)))
  refine (if_neg (by simp [h])).trans (if_neg ?_)
  rw [hactive, hstate]
  rcases hrun with hoff | hone
  · simp [hoff]
  · simp [hone]

theorem oxArm_starts {d : Dev} {n : Nat} (h : d.oxGood (d.oxShadow n) = true) (hactive : d.oxActive = true) (hstate : d.oxState n ≠ 1) :
    d.oxArm n = ((d.setBit (A.OX_STAT n) 9 true).oxStart n).oxGrant := by
  have hactive' : (d.setBit (A.OX_STAT n) 9 true).oxActive = true := by
    rw [Dev.oxActive, Dev.setBit_bit _ _ _ _ _ _ (by decide), if_neg fun h => oxStat_ne_global (by decide) h.1.symm]
    exact hactive
  have hstate' : (d.setBit (A.OX_STAT n) 9 true).oxState n ≠ 1 := by
    rw [Dev.oxState, Dev.setBit_fld _ _ _ _ _ _ _ (by decide) (.inr (.inr (by decide)))]
    exact hstate
  exact (if_neg (by simp [h])).trans (if_pos ⟨hactive', hstate'⟩)

theorem oxGo_refused (h : Reach (A.OX_CMD n.val) s) (hbad : s.dev.oxGood (s.dev.oxShadow n.val) = false) :
    Gives (.oxGo n) s (fun d =>
      d.bit (A.OX_STAT n.val) 10 = true ∧ d.bit A.OX_ERRST n.val = true ∧
      ((s.dev.oxShadow n.val).core, 0x0B00 + n.val) ∈ d.cores.irqs ∧ Frame [.cores] [A.OX_STAT n.val, A.OX_ERRST] s.dev d) := by
  refine gives_reg (exec_oxGo s n) h ?_
  rw [oxArm_bad hbad]
  refine ⟨?_, ?_, mem_irqTo .., (((Frame.refl _ _ _).setBit List.mem_cons_self).setBit (by simp)).irqTo (by decide)⟩
  · rw [oxIrq_bit, Dev.setBit_bit _ _ _ _ _ _ (by omega), if_neg fun h => oxStat_ne_global (by decide) h.1,
      Dev.setBit_bit _ _ _ _ _ _ (by decide), if_pos ⟨rfl, rfl⟩]
  · rw [oxIrq_bit, Dev.setBit_bit _ _ _ _ _ _ (by omega), if_pos ⟨rfl, rfl⟩]

theorem oxGo_armed (h : Reach (A.OX_CMD n.val) s) (hgood : s.dev.oxGood (s.dev.oxShadow n.val) = true)
    (hrun : s.dev.oxActive = false ∨ s.dev.oxState n.val = 1) :
    Gives (.oxGo n) s (fun d => d.bit (A.OX_STAT n.val) 9 = true ∧ Frame [] [A.OX_STAT n.val] s.dev d) := by
  refine gives_reg (exec_oxGo s n) h ?_
  rw [oxArm_waits hgood hrun]
  exact ⟨(Dev.setBit_bit _ _ _ _ _ _ (by decide)).trans (if_pos ⟨rfl, rfl⟩), (Frame.refl _ _ _).setBit List.mem_cons_self⟩

theorem oxGo_started (h : Reach (A.OX_CMD n.val) s) (hgood : s.dev.oxGood (s.dev.oxShadow n.val) = true)
    (hactive : s.dev.oxActive = true) (hstate : s.dev.oxState n.val ≠ 1) :
    Gives (.oxGo n) s (fun d =>
      d.oxAct n.val = s.dev.oxShadow n.val ∧ d.oxState n.val = 1 ∧ d.bit (A.OX_STAT n.val) 9 = false ∧ d.rd (A.OX_DONE n.val) = 0 ∧
      d.rd (A.OX_ASRC n.val) = s.dev.rd (A.OX_SRC n.val) ∧ d.rd (A.OX_ADST n.val) = s.dev.rd (A.OX_DST n.val) ∧
      Frame [.ox] (oxRunRegs n.val) s.dev d) := by
  refine gives_reg (exec_oxGo s n) h ?_
  rw [oxArm_starts hgood hactive hstate]
  have harm : Frame [] (oxRunRegs n.val) s.dev (s.dev.setBit (A.OX_STAT n.val) 9 true) := (Frame.refl _ _ _).setBit List.mem_cons_self
  have hset : ∀ r ∈ oxShadowRegs n.val, r ∉ oxRunRegs n.val := fun r hr => oxShadowRegs_not_run hr
  refine ⟨?_, (oxGrant_state ..).trans (oxStart_state ..), (Dev.bit_congr (Dev.oxGrant_rd _ _) 9).trans (oxStart_armed ..),
    (Dev.oxGrant_rd _ _).trans (oxStart_done ..), ?_, ?_,
    ((harm.mono (List.nil_subset _) fun _ hr => hr).oxStart (by decide) fun _ hr => hr).oxGrant (by decide)⟩
  · exact (oxGrant_act ..).trans ((oxStart_act ..).trans ((if_pos rfl).trans (harm.oxShadow hset)))
  · exact (Dev.oxGrant_rd _ _).trans ((oxStart_asrc ..).trans (harm.rd_eq (hset _ (by simp [oxShadowRegs]))))
  · exact (Dev.oxGrant_rd _ _).trans ((oxStart_adst ..).trans (harm.rd_eq (hset _ (by simp [oxShadowRegs]))))

set_option Elab.async false in
theorem oxStop_notRunning (h : Reach (A.OX_CMD n.val) s) (hstate : s.dev.oxState n.val ≠ 1) :
    Gives (.oxStop n) s (fun d => d = s.dev) := gives_reg (exec_oxStop s n) h (if_pos hstate)

theorem oxStopCh_flies {d : Dev} {k : Nat} (hstate : d.oxState k = 1) (hflight : k ∈ d.ox.flight) :
    d.oxStopCh k = d.onOx (fun o => { o with stopping := o.stopping.filter (· != k) ++ [k] }) :=
  (if_neg (not_not.mpr hstate)).trans (if_pos hflight)

theorem oxStopCh_halts {d : Dev} {k : Nat} (hstate : d.oxState k = 1) (hflight : k ∉ d.ox.flight) : d.oxStopCh k = d.oxHalt k 5 :=
  (if_neg (not_not.mpr hstate)).trans (if_neg hflight)

theorem oxStop_inFlight (h : Reach (A.OX_CMD n.val) s) (hstate : s.dev.oxState n.val = 1) (hflight : n.val ∈ s.dev.ox.flight) :
    Gives (.oxStop n) s (fun d => n.val ∈ d.ox.stopping ∧ d.ox.flight = s.dev.ox.flight ∧ Frame [.ox] [] s.dev d) := by
  refine gives_reg (exec_oxStop s n) h ?_
  rw [oxStopCh_flies hstate hflight]
  exact ⟨List.mem_append_right _ List.mem_cons_self, rfl, (Frame.refl _ _ _).onOx (by decide)⟩

theorem oxStop_atOnce (h : Reach (A.OX_CMD n.val) s) (hstate : s.dev.oxState n.val = 1) (hflight : n.val ∉ s.dev.ox.flight) :
    Gives (.oxStop n) s (fun d =>
      d.oxState n.val = 5 ∧ d.rd (A.OX_DONE n.val) = s.dev.rd (A.OX_DONE n.val) ∧ Frame [.ox] [A.OX_STAT n.val] s.dev d) := by
  refine gives_reg (exec_oxStop s n) h ?_
  have hframe : Frame [.ox] [A.OX_STAT n.val] s.dev (s.dev.oxStopCh n.val) :=
    (Frame.refl _ _ _).oxStopCh (by decide) List.mem_cons_self
  have hdone : A.OX_DONE n.val ∉ [A.OX_STAT n.val] := by
    simp only [List.mem_singleton, A.OX_DONE, A.OX_STAT]
    omega
  refine ⟨?_, hframe.rd_eq hdone, hframe⟩
  rw [oxStopCh_halts hstate hflight]
  exact oxHalt_stopped_state _ _

/-! The enable. -/

/-- A write to the enable changes no other register than OX_CTL before its effect. -/
theorem oxCtl_written (d : Dev) (en : Bool) : Frame [] [A.OX_CTL] d (d.setBit A.OX_CTL 0 en) := (Frame.refl _ _ _).setBit List.mem_cons_self

theorem oxCtl_bit (d : Dev) (en : Bool) : (d.setBit A.OX_CTL 0 en).bit A.OX_CTL 0 = en :=
  (Dev.setBit_bit _ _ _ _ _ _ (by decide)).trans (if_pos ⟨rfl, rfl⟩)

theorem oxCtl_gstat (d : Dev) (en : Bool) (k : Nat) : (d.setBit A.OX_CTL 0 en).bit A.OX_GSTAT k = d.bit A.OX_GSTAT k :=
  (oxCtl_written d en).bit_eq (by decide) k

theorem oxEn_held {d : Dev} (hdrain : d.bit A.OX_GSTAT 1 = true) :
    d.oxEn true = (d.setBit A.OX_CTL 0 true).onOx (fun o => { o with heldEn := true }) :=
  if_pos ((oxCtl_gstat d true 1).trans hdrain)

theorem oxEn_active {d : Dev} (hdrain : d.bit A.OX_GSTAT 1 = false) (hactive : d.oxActive = true) :
    d.oxEn true = d.setBit A.OX_CTL 0 true :=
  (if_neg (by rw [oxCtl_gstat, hdrain]; decide)).trans (if_pos ((oxCtl_gstat d true 0).trans hactive))

theorem oxEn_enables {d : Dev} (hdrain : d.bit A.OX_GSTAT 1 = false) (hactive : d.oxActive = false) :
    d.oxEn true = (d.setBit A.OX_CTL 0 true).oxEnable :=
  (if_neg (by rw [oxCtl_gstat, hdrain]; decide)).trans (if_neg (by rw [Dev.oxActive, oxCtl_gstat, ← Dev.oxActive, hactive]; decide))

theorem oxCtlEnWrite_held (h : Reach A.OX_CTL s) (hdrain : s.dev.bit A.OX_GSTAT 1 = true) :
    Gives (.oxCtlEnWrite true) s (fun d =>
      d.bit A.OX_CTL 0 = true ∧ d.ox = { s.dev.ox with heldEn := true } ∧ Frame [.ox] [A.OX_CTL] s.dev d) := by
  refine gives_reg (exec_oxCtlEnWrite s true) h ?_
  rw [oxEn_held hdrain]
  exact ⟨oxCtl_bit _ _, rfl, ((oxCtl_written _ _).mono (List.nil_subset _) fun _ hr => hr).onOx (by decide)⟩

theorem oxCtlEnWrite_active (h : Reach A.OX_CTL s) (hdrain : s.dev.bit A.OX_GSTAT 1 = false) (hactive : s.dev.oxActive = true) :
    Gives (.oxCtlEnWrite true) s (fun d => d.bit A.OX_CTL 0 = true ∧ Frame [] [A.OX_CTL] s.dev d) := by
  refine gives_reg (exec_oxCtlEnWrite s true) h ?_
  rw [oxEn_active hdrain hactive]
  exact ⟨oxCtl_bit _ _, oxCtl_written _ _⟩

/-- Ox enabled, before the armed channels start. -/
def oxOpened (d : Dev) : Dev := ((d.setBit A.OX_CTL 0 true).setBit A.OX_GSTAT 0 true).onOx (fun o => { o with heldEn := false })

/-- The armed channels that never ran or are DONE. -/
def oxReady (d : Dev) : List Nat :=
  (List.range 32).filter (fun n => (oxOpened d).bit (A.OX_STAT n) 9 && decide ((oxOpened d).oxState n = 0 ∨ (oxOpened d).oxState n = 2))

theorem oxEnable_eq (d : Dev) : (d.setBit A.OX_CTL 0 true).oxEnable = ((oxOpened d).each (oxReady d) Dev.oxStart).oxGrant := rfl

theorem oxOpened_frame (d : Dev) : Frame [.ox] oxGlobalRegs d (oxOpened d) :=
  (((Frame.refl _ _ _).setBit (by decide)).setBit (by decide)).onOx (by decide)

theorem mem_oxReady {d : Dev} {k : Nat} :
    k ∈ oxReady d ↔ k < 32 ∧ d.bit (A.OX_STAT k) 9 = true ∧ (d.oxState k = 0 ∨ d.oxState k = 2) := by
  have hbit := (oxOpened_frame d).bit_eq (oxStat_not_global k) 9
  have hstate : (oxOpened d).oxState k = d.oxState k := (oxOpened_frame d).fld_eq (oxStat_not_global k) 2 0
  simp [oxReady, hbit, hstate]

set_option Elab.async false in
theorem oxOpened_global (d : Dev) : (oxOpened d).bit A.OX_CTL 0 = true ∧ (oxOpened d).bit A.OX_GSTAT 0 = true := by
  constructor
  · rw [oxOpened, Dev.onOx_bit, Dev.setBit_bit _ _ _ _ _ _ (by decide), if_neg (by decide)]
    exact oxCtl_bit d true
  · rw [oxOpened, Dev.onOx_bit, Dev.setBit_bit _ _ _ _ _ _ (by decide), if_pos ⟨rfl, rfl⟩]

theorem oxCtlEnWrite_enables (h : Reach A.OX_CTL s) (hdrain : s.dev.bit A.OX_GSTAT 1 = false) (hactive : s.dev.oxActive = false) :
    Gives (.oxCtlEnWrite true) s (fun d =>
      d.bit A.OX_CTL 0 = true ∧ d.oxActive = true ∧
      (∀ n, n < 32 → s.dev.bit (A.OX_STAT n) 9 = true → s.dev.oxState n = 0 ∨ s.dev.oxState n = 2 →
        d.oxState n = 1 ∧ d.oxAct n = s.dev.oxShadow n) ∧
      (∀ n, n < 32 → s.dev.bit (A.OX_STAT n) 9 = false ∨ (s.dev.oxState n ≠ 0 ∧ s.dev.oxState n ≠ 2) →
        d.rd (A.OX_STAT n) = s.dev.rd (A.OX_STAT n))) := by
  refine gives_reg (exec_oxCtlEnWrite s true) h ?_
  rw [oxEn_enables hdrain hactive, oxEnable_eq]
  have hglobal : ∀ r ∈ oxGlobalRegs, (((oxOpened s.dev).each (oxReady s.dev) Dev.oxStart).oxGrant).rd r = (oxOpened s.dev).rd r :=
    fun r hr => (Dev.oxGrant_rd _ _).trans (each_oxStart_rd _ _ fun m _ => oxGlobalRegs_not_run hr)
  refine ⟨(Dev.bit_congr (hglobal _ (by decide)) 0).trans (oxOpened_global _).1,
    (Dev.bit_congr (hglobal _ (by decide)) 0).trans (oxOpened_global _).2, fun n hn harmed hstate => ?_, fun n hn hrest => ?_⟩
  · obtain ⟨hrun, hact⟩ := each_oxStart_started (oxReady s.dev) (oxOpened s.dev) (mem_oxReady.mpr ⟨hn, harmed, hstate⟩)
    refine ⟨(oxGrant_state ..).trans hrun, (oxGrant_act ..).trans (hact.trans ?_)⟩
    exact (oxOpened_frame s.dev).oxShadow fun r hr => oxShadowRegs_not_global hr
  · have hout : n ∉ oxReady s.dev := by
      rw [mem_oxReady]
      rintro ⟨-, harmed, hstate⟩
      rcases hrest with hbit | ⟨h0, h2⟩
      · exact Bool.false_ne_true (hbit.symm.trans harmed)
      · exact hstate.elim h0 h2
    refine (Dev.oxGrant_rd _ _).trans ((each_oxStart_rd _ _ fun m hm => oxStat_not_run fun hnm : n = m => hout (hnm.symm ▸ hm)).trans ?_)
    exact (oxOpened_frame s.dev).rd_eq (oxStat_not_global n)

/-- Ox with the enable cleared and every running channel stopped, before OX_GSTAT shows it. -/
def oxStopped (d : Dev) : Dev :=
  ((d.setBit A.OX_CTL 0 false).onOx (fun o => { o with heldEn := false })).each (List.range 32) Dev.oxStopCh

theorem oxEn_clears (d : Dev) :
    d.oxEn false = ((oxStopped d).setBit A.OX_GSTAT 0 false).setBit A.OX_GSTAT 1 (!(oxStopped d).ox.flight.isEmpty) := rfl

theorem oxStopped_frame (d : Dev) : Frame [.ox] (A.OX_CTL :: (List.range 32).map A.OX_STAT) d (oxStopped d) :=
  Frame.each ((((Frame.refl _ _ d).setBit List.mem_cons_self)).onOx (by decide)) fun _ hm _ he =>
    he.oxStopCh (by decide) (List.mem_cons_of_mem _ (List.mem_map_of_mem hm))

theorem oxStat_ne_of_global {r : Nat} (hr : r ∈ oxGlobalRegs) : r ∉ (List.range 32).map A.OX_STAT := fun hmem => by
  obtain ⟨k, -, rfl⟩ := List.mem_map.mp hmem
  exact oxStat_not_global k hr

theorem oxCtlEnWrite_clears (h : Reach A.OX_CTL s) :
    Gives (.oxCtlEnWrite false) s (fun d =>
      d.bit A.OX_CTL 0 = false ∧ d.oxActive = false ∧ d.bit A.OX_GSTAT 1 = !s.dev.ox.flight.isEmpty ∧ d.ox.heldEn = false ∧
      (∀ n, n < 32 → s.dev.oxState n = 1 → n ∉ s.dev.ox.flight → d.oxState n = 5) ∧
      (∀ n, n < 32 → s.dev.oxState n = 1 → n ∈ s.dev.ox.flight → d.oxState n = 1 ∧ n ∈ d.ox.stopping) ∧
      Frame [.ox] ([A.OX_CTL, A.OX_GSTAT] ++ (List.range 32).map A.OX_STAT) s.dev d) := by
  refine gives_reg (exec_oxCtlEnWrite s false) h ?_
  rw [oxEn_clears]
  obtain ⟨hflight, hheld⟩ := each_oxStopCh_ox (List.range 32) ((s.dev.setBit A.OX_CTL 0 false).onOx (fun o => { o with heldEn := false }))
  have hstat : ∀ n, (((oxStopped s.dev).setBit A.OX_GSTAT 0 false).setBit A.OX_GSTAT 1 (!(oxStopped s.dev).ox.flight.isEmpty)).oxState n =
      (oxStopped s.dev).oxState n := fun n =>
    (((Frame.refl [] [A.OX_GSTAT] (oxStopped s.dev)).setBit List.mem_cons_self).setBit List.mem_cons_self).fld_eq
      (fun hmem => oxStat_ne_global (by decide) (List.mem_singleton.mp hmem)) 2 0
  have hinit : ∀ n, ((s.dev.setBit A.OX_CTL 0 false).onOx (fun o => { o with heldEn := false })).oxState n = s.dev.oxState n := fun n =>
    (oxCtl_written s.dev false).fld_eq (fun hmem => oxStat_ne_global (by decide) (List.mem_singleton.mp hmem)) 2 0
  have hctl : (oxStopped s.dev).bit A.OX_CTL 0 = false := by
    refine ((Frame.each (R := (List.range 32).map A.OX_STAT) (Frame.refl [.ox] _ _) fun _ hm _ he =>
      he.oxStopCh (by decide) (List.mem_map_of_mem hm)).bit_eq (oxStat_ne_of_global (by decide)) 0).trans (oxCtl_bit s.dev false)
  refine ⟨?_, ?_, ?_, hheld, fun n hn hrun hout => (hstat n).trans ?_, fun n hn hrun hin => ?_, ?_⟩
  · rw [Dev.setBit_bit _ _ _ _ _ _ (by decide), if_neg (by decide), Dev.setBit_bit _ _ _ _ _ _ (by decide), if_neg (by decide)]
    exact hctl
  · rw [Dev.oxActive, Dev.setBit_bit _ _ _ _ _ _ (by decide), if_neg (by decide), Dev.setBit_bit _ _ _ _ _ _ (by decide),
      if_pos ⟨rfl, rfl⟩]
  · rw [Dev.setBit_bit _ _ _ _ _ _ (by decide), if_pos ⟨rfl, rfl⟩]
    exact congrArg (fun l => !List.isEmpty l) hflight
  · exact each_oxStopCh_idle _ _ hout (.inl ⟨List.mem_range.mpr hn, (hinit n).trans hrun⟩)
  · obtain ⟨hrun', hstop⟩ := each_oxStopCh_flying (List.range 32) ((s.dev.setBit A.OX_CTL 0 false).onOx (fun o =>
      { o with heldEn := false })) hin ((hinit n).trans hrun) (.inl (List.mem_range.mpr hn))
    exact ⟨(hstat n).trans hrun', hstop⟩
  · refine Frame.setBit (Frame.setBit ((oxStopped_frame s.dev).mono (fun _ hp => hp) fun r hr => ?_) (by simp)) (by simp)
    rcases List.mem_cons.mp hr with rfl | hr
    · simp
    · exact List.mem_append_right _ hr

/-! Requests. -/

/-- A request that has come. -/
def oxRequested (d : Dev) (line : Nat) : Dev :=
  d.onOx (fun o => if line ∈ o.lines then o else { o with lines := o.lines ++ [line] })

set_option Elab.async false in
theorem exec_peripheralRequest (s : State) (line : Byte) :
    exec (.peripheralRequest line) s = mainDo s (fun d => (oxRequested d line.toNat).oxGrant) := rfl

theorem oxRequested_ox (d : Dev) (line : Nat) :
    line ∈ (oxRequested d line).ox.lines ∧ (oxRequested d line).ox.flight = d.ox.flight ∧
      (oxRequested d line).ox.stopping = d.ox.stopping ∧ (oxRequested d line).ox.act = d.ox.act := by
  unfold oxRequested
  rw [Dev.onOx_ox]
  split
  · exact ⟨‹_›, rfl, rfl, rfl⟩
  · exact ⟨List.mem_append_right _ List.mem_cons_self, rfl, rfl, rfl⟩

theorem peripheralRequest_waits {line : Byte} (h : Running s) (hbusy : s.dev.oxActive = false ∨ s.dev.ox.flight ≠ []) :
    Gives (.peripheralRequest line) s (fun d =>
      line.toNat ∈ d.ox.lines ∧ d.ox.flight = s.dev.ox.flight ∧ Frame [.ox] [] s.dev d) := by
  refine gives_main (exec_peripheralRequest s line) h ?_
  obtain ⟨hline, hflight, -, -⟩ := oxRequested_ox s.dev line.toNat
  rw [oxGrant_busy (d := oxRequested s.dev line.toNat) (hbusy.imp id fun hne => hflight ▸ hne)]
  exact ⟨hline, hflight, (Frame.refl _ _ _).onOx (by decide)⟩

theorem oxHalt_withdrawn_errst (d : Dev) (n : Nat) {m : Nat} (hm : m < 32) :
    (d.oxHalt m 3).bit A.OX_ERRST n = if n = m then true else d.bit A.OX_ERRST n := by
  have hrd : (d.oxHalt m 3).rd A.OX_ERRST = ((d.setFld (A.OX_STAT m) 2 0 3).setBit A.OX_ERRST m true).rd A.OX_ERRST := by
    unfold Dev.oxHalt
    rw [if_pos rfl]
    rfl
  rw [Dev.bit_congr hrd, Dev.setBit_bit _ _ _ _ _ _ (by omega)]
  by_cases hnm : n = m
  · rw [if_pos ⟨rfl, hnm⟩, if_pos hnm]
  · rw [if_neg fun hx => hnm hx.2, if_neg hnm]
    exact Dev.bit_congr ((Dev.setFld_rd _ _ _ _ _ _).trans (if_neg fun hx => oxStat_ne_global (by decide) hx.symm)) n

/-- With one channel that asks, arbitration takes it. -/
theorem oxBest_single {d : Dev} {n : Nat} (hn : n < 32) (hasks : d.oxAsks n = true) (hothers : ∀ m, m < 32 → m ≠ n → d.oxAsks m = false) :
    d.oxBest = some n := by
  have hlist : (List.range 32).filter d.oxAsks = [n] := by
    have hsame : ∀ m ∈ List.range 32, d.oxAsks m = (m == n) := fun m hm => by
      by_cases hmn : m = n
      · subst hmn
        simpa using hasks
      · rw [hothers m (List.mem_range.mp hm) hmn, beq_false_of_ne hmn]
    rw [List.filter_congr hsame, List.filter_beq, List.count_eq_one_of_mem List.nodup_range (List.mem_range.mpr hn)]
    rfl
  unfold Dev.oxBest
  rw [hlist]
  rfl

theorem oxGrant_idle {d : Dev} {n : Nat} (hactive : d.oxActive = true) (hflight : d.ox.flight = []) (hbest : d.oxBest = some n) :
    d.oxGrant = d.onOx (fun o => { o with flight := [n], lines := o.lines.filter (· != (d.oxAct n).req) }) := by
  unfold Dev.oxGrant
  rw [if_pos (by simp [hactive, hflight]), hbest]

theorem peripheralRequest_granted {line : Byte} {n : Nat} (h : Running s) (hn : n < 32) (hactive : s.dev.oxActive = true)
    (hflight : s.dev.ox.flight = []) (hstop : s.dev.ox.stopping = []) (hrun : s.dev.oxState n = 1)
    (hreq : (s.dev.oxAct n).req = line.toNat) (hothers : ∀ m, m < 32 → m ≠ n → s.dev.oxState m ≠ 1) :
    Gives (.peripheralRequest line) s (fun d => d.ox.flight = [n] ∧ line.toNat ∉ d.ox.lines ∧ Frame [.ox] [] s.dev d) := by
  refine gives_main (exec_peripheralRequest s line) h ?_
  obtain ⟨hline, hfly, hstop', hact⟩ := oxRequested_ox s.dev line.toNat
  have hreq' : ((oxRequested s.dev line.toNat).oxAct n).req = line.toNat := by rw [Dev.oxAct, hact]; exact hreq
  have hasks : (oxRequested s.dev line.toNat).oxAsks n = true := by
    have hrun' : (oxRequested s.dev line.toNat).oxState n = 1 := hrun
    simp [Dev.oxAsks, hrun', hreq', hstop', hstop, hline]
  have hrest : ∀ m, m < 32 → m ≠ n → (oxRequested s.dev line.toNat).oxAsks m = false := fun m hm hmn => by
    have hrun' : (oxRequested s.dev line.toNat).oxState m ≠ 1 := hothers m hm hmn
    simp [Dev.oxAsks, hrun']
  rw [oxGrant_idle (d := oxRequested s.dev line.toNat) hactive (hfly.trans hflight) (oxBest_single hn hasks hrest)]
  refine ⟨rfl, fun hmem => ?_, ((Frame.refl _ _ _).onOx (by decide)).onOx (by decide)⟩
  have hne := (List.mem_filter.mp hmem).2
  rw [hreq'] at hne
  exact absurd rfl (bne_iff_ne.mp hne)

/-! A withdrawal (R310): the channels of the line that are not in flight stop, the others go on. -/

theorem each_withdrawOne_errst (l : List Nat) (d : Dev) {n : Nat} (hflight : n ∉ d.ox.flight)
    (h : n ∈ l ∨ d.bit A.OX_ERRST n = true) (hl : ∀ m ∈ l, m < 32) : (d.each l withdrawOne).bit A.OX_ERRST n = true := by
  induction l generalizing d with
  | nil => exact h.resolve_left List.not_mem_nil
  | cons m t ih =>
    rw [each_cons]
    refine ih (withdrawOne d m) (by rwa [withdrawOne_flight]) ?_ fun k hk => hl k (List.mem_cons_of_mem _ hk)
    have hm := hl m List.mem_cons_self
    have herr := oxHalt_withdrawn_errst d n hm
    unfold withdrawOne
    by_cases hnm : n = m
    · subst hnm
      rw [if_neg hflight, herr, if_pos rfl]
      exact .inr rfl
    · refine (h.imp_left fun hmem => (List.mem_cons.mp hmem).resolve_left hnm).imp_right fun hbit => ?_
      split
      · exact hbit
      · rw [herr, if_neg hnm]
        exact hbit

set_option Elab.async false in
theorem each_withdrawOne_other (l : List Nat) (d : Dev) {n : Nat} (h : n ∉ l) : (d.each l withdrawOne).oxState n = d.oxState n := by
  induction l generalizing d with
  | nil => rfl
  | cons m t ih =>
    rw [each_cons]
    rw [List.mem_cons, not_or] at h
    refine (ih (withdrawOne d m) h.2).trans ?_
    unfold withdrawOne
    split
    · rfl
    · exact oxHalt_other d h.1 3

theorem each_withdrawOne_flying (l : List Nat) (d : Dev) {n : Nat} (hflight : n ∈ d.ox.flight) (h : n ∈ l ∨ n ∈ d.ox.wdraw) :
    (d.each l withdrawOne).oxState n = d.oxState n ∧ n ∈ (d.each l withdrawOne).ox.wdraw := by
  induction l generalizing d with
  | nil => exact ⟨rfl, h.resolve_left List.not_mem_nil⟩
  | cons m t ih =>
    rw [each_cons]
    have hstate : (withdrawOne d m).oxState n = d.oxState n := by
      unfold withdrawOne
      split
      · rfl
      · next hm => exact oxHalt_other d (fun hnm : n = m => hm (hnm ▸ hflight)) 3
    have hwdraw : n ∈ t ∨ n ∈ (withdrawOne d m).ox.wdraw := by
      by_cases hnm : n = m
      · subst hnm
        rw [withdrawOne, if_pos hflight]
        exact .inr (List.mem_append_right _ List.mem_cons_self)
      · refine (h.imp_left fun hmem => (List.mem_cons.mp hmem).resolve_left hnm).imp_right fun hw => ?_
        have hkept : n ∈ d.ox.wdraw.filter (· != m) := List.mem_filter.mpr ⟨hw, by simpa using hnm⟩
        unfold withdrawOne
        split
        · exact List.mem_append_left _ hkept
        · exact hkept
    obtain ⟨hstate', hw⟩ := ih (withdrawOne d m) (by rwa [withdrawOne_flight]) hwdraw
    exact ⟨hstate'.trans hstate, hw⟩

theorem each_withdrawOne_lines (l : List Nat) (d : Dev) : (d.each l withdrawOne).ox.lines = d.ox.lines := by
  induction l generalizing d with
  | nil => rfl
  | cons m t ih =>
    rw [each_cons]
    refine (ih (withdrawOne d m)).trans ?_
    unfold withdrawOne
    split <;> rfl

theorem mem_lineChannels {d : Dev} {line n : Nat} :
    n ∈ lineChannels d line ↔ n < 32 ∧ d.oxState n = 1 ∧ (d.oxAct n).req = line := by simp [lineChannels]

theorem requestWithdrawal_clause (line : Byte) (h : Running s) :
    Gives (.requestWithdrawal line) s (fun d =>
      (∀ n, n < 32 → s.dev.oxState n = 1 → (s.dev.oxAct n).req = line.toNat → n ∉ s.dev.ox.flight →
        d.oxState n = 3 ∧ d.bit A.OX_ERRST n = true) ∧
      (∀ n, n < 32 → s.dev.oxState n = 1 → (s.dev.oxAct n).req = line.toNat → n ∈ s.dev.ox.flight →
        d.oxState n = 1 ∧ n ∈ d.ox.wdraw) ∧
      (∀ n, n < 32 → s.dev.oxState n = 1 → (s.dev.oxAct n).req ≠ line.toNat → d.oxState n = 1) ∧ line.toNat ∉ d.ox.lines) := by
  refine gives_main (exec_requestWithdrawal s line) h ?_
  refine ⟨fun n hn hrun hreq hout => ⟨oxWithdraw_withdrawn s.dev hn hrun hreq hout, ?_⟩, fun n hn hrun hreq hin => ?_,
    fun n hn hrun hreq => ?_, ?_⟩
  · rw [oxWithdraw_eq, Dev.bit_congr (Dev.oxGrant_rd _ _)]
    exact each_withdrawOne_errst _ _ hout (.inl (mem_lineChannels.mpr ⟨hn, hrun, hreq⟩)) fun m hm => (mem_lineChannels.mp hm).1
  · rw [oxWithdraw_eq, oxGrant_state, oxGrant_wdraw]
    obtain ⟨hstate, hw⟩ := each_withdrawOne_flying (lineChannels s.dev line.toNat)
      (s.dev.onOx (fun o => { o with lines := o.lines.filter (· != line.toNat) })) hin (.inl (mem_lineChannels.mpr ⟨hn, hrun, hreq⟩))
    exact ⟨hstate.trans hrun, hw⟩
  · rw [oxWithdraw_eq, oxGrant_state]
    exact (each_withdrawOne_other _ _ fun hmem => hreq (mem_lineChannels.mp hmem).2.2).trans hrun
  · rw [oxWithdraw_eq]
    refine oxGrant_lines ?_
    rw [each_withdrawOne_lines]
    simp

end

end Sys2Proof
end

section
/-! Bursts of Ox between places in hub SRAM (R19, R304): no access fails there, and what is read and written are the bytes of memory. -/

namespace Sys2Proof.Machine

/-- An address of hub SRAM (R19). -/
def InHub (a : Nat) : Prop := 0x10000000 ≤ a ∧ a < 0x11000000

variable {d : Dev} {a : Nat}

set_option Elab.async false in
theorem InHub.isDram (h : InHub a) : isDram a = false := decide_eq_false (by have := h.2; omega)

theorem InHub.isWindow (h : InHub a) : isWindow a = false := by
  obtain ⟨hlo, hhi⟩ := h
  exact Bool.and_eq_false_iff.mpr (.inl (decide_eq_false (by omega)))

theorem InHub.isZt (h : InHub a) : isZt a = false := by
  obtain ⟨hlo, hhi⟩ := h
  exact Bool.and_eq_false_iff.mpr (.inl (decide_eq_false (by omega)))

theorem InHub.not_register (h : InHub a) : ¬ (periBase ≤ a ∧ a < periBase + 0x1000000) := by
  obtain ⟨hlo, hhi⟩ := h
  unfold periBase
  omega

theorem InHub.decodes (h : InHub a) (d : Dev) : d.decodes a = true := by
  unfold Dev.decodes
  rw [if_neg h.not_register]
  obtain ⟨hlo, hhi⟩ := h
  simp [hlo, hhi]

theorem InHub.open_to_ox (h : InHub a) (n : OxN) (w : Bool) : protFails (.ox n) a w = false := by
  obtain ⟨hlo, hhi⟩ := h
  have hrom : decide (a < 0x40000) = false := decide_eq_false (by omega)
  have hwin : decide (0x0100000000 ≤ a) = false := decide_eq_false (by omega)
  have hperi : decide (periBase ≤ a) = false := decide_eq_false (by unfold periBase; omega)
  simp only [protFails, hrom, hwin, hperi, Bool.false_and, Bool.or_false, Bool.and_false]

theorem InHub.clocked (h : InHub a) (d : Dev) : d.gatedAt a = false := by
  unfold Dev.gatedAt
  rw [if_neg h.not_register, h.isWindow, h.isZt, h.isDram]
  obtain ⟨hlo, hhi⟩ := h
  have hbuf : ¬ (0x40000000 ≤ a ∧ a < 0x42000000) := by omega
  simp [hbuf]

theorem InHub.unlocked (h : InHub a) : cipherCoreOf a = none := by
  refine if_neg fun hc => ?_
  have hbase : 0x0200000000 ≤ a := Nat.le_trans (by decide) hc.1
  have := h.2
  omega

theorem InHub.accessErr (h : InHub a) (d : Dev) (n : OxN) (w : Bool) : d.accessErr (.ox n) a w = none := by
  simp [Dev.accessErr, h.decodes, h.open_to_ox, h.clocked, h.unlocked, h.isWindow, h.isDram]

theorem rangeErr_hub (d : Dev) (n : OxN) (a len : Nat) (w : Bool) (h : ∀ i, i < len → InHub (a + i)) :
    d.rangeErr (.ox n) a len w = none :=
  List.findSome?_eq_none_iff.mpr fun i hi => by rw [(h i (List.mem_range.mp hi)).accessErr]; rfl

theorem oxRange_hub (d : Dev) (n : OxN) {a len : Nat} (w : Bool) (hlen : 0 < len) (h : ∀ i, i < len → InHub (a + i)) :
    d.oxRange n a len w = none := by
  obtain ⟨hlo, hhi⟩ := h 0 hlen
  have hregion : regionOf a = 2 := by
    unfold regionOf
    rw [if_neg (by omega), if_pos ⟨by omega, by omega⟩]
  unfold Dev.oxRange
  rw [if_neg (by rw [hregion]; decide)]
  exact rangeErr_hub d n a len w h

/-! Bytes. -/

theorem InHub.logOfs (h : InHub a) (d : Dev) : d.logOfs a = none := by
  refine if_neg fun hc => ?_
  obtain ⟨hbase, hle, -⟩ := hc
  have := h.2
  omega

theorem InHub.loadByte (h : InHub a) (d : Dev) : d.loadByte a = d.byte a := by
  have hrom : ¬ a < 0x40000 := by have := h.1; omega
  simp [Dev.loadByte, Dev.areaByte, hrom, h.isZt, h.isWindow, h.isDram, h.logOfs]

theorem InHub.storeByte (h : InHub a) (d : Dev) (b : Byte) : d.storeByte a b = d.setByte a b := by
  simp [Dev.storeByte, h.isZt, h.isDram, h.logOfs]

theorem loadBytes_hub (d : Dev) (a len : Nat) (h : ∀ i, i < len → InHub (a + i)) :
    d.loadBytes a len = (List.range len).map (fun i => d.byte (a + i)) :=
  List.map_congr_left fun i hi => (h i (List.mem_range.mp hi)).loadByte d

theorem storeBytes_hub (d : Dev) (a : Nat) (l : List Byte) (h : ∀ i, i < l.length → InHub (a + i)) : d.storeBytes a l = d.setBytes a l := by
  induction l generalizing d a with
  | nil => rfl
  | cons b t ih =>
    have hfirst : InHub a := h 0 (by simp)
    rw [Dev.storeBytes, Dev.setBytes, hfirst.storeByte]
    exact ih _ _ fun i hi => by
      have hnext := h (i + 1) (by simpa using hi)
      rwa [show a + (i + 1) = a + 1 + i by omega] at hnext

set_option Elab.async false in
theorem sramCorr_clean (d : Dev) (a : Nat) : d.sramCorr a .none = d := by
  unfold Dev.sramCorr
  split <;> rfl

theorem touchRange_hub (d : Dev) (a len : Nat) (h : ∀ i, i < len → InHub (a + i)) : d.touchRange a len = d := by
  have hnone : (((List.range len).map (fun i => (a + i) / 64 * 64)).dedup.filter (fun b => isDram b)) = [] := by
    refine List.filter_eq_nil_iff.mpr fun b hb => ?_
    obtain ⟨i, hi, rfl⟩ := List.mem_map.mp (List.mem_dedup.mp hb)
    have hhi := (h i (List.mem_range.mp hi)).2
    exact fun hdram => absurd (of_decide_eq_true hdram) (by omega)
  rw [Dev.touchRange, hnone]
  exact sramCorr_clean d a

theorem touchRange_zero (d : Dev) (a : Nat) : d.touchRange a 0 = d := touchRange_hub d a 0 fun _ hi => absurd hi (Nat.not_lt_zero _)

/-- A store to memory changes memory alone. -/
theorem setBytes_mem (l : List Byte) (d : Dev) (a : Nat) : ∃ m, d.setBytes a l = { d with mem := m } := by
  induction l generalizing d a with
  | nil => exact ⟨d.mem, rfl⟩
  | cons b t ih =>
    obtain ⟨m, hm⟩ := ih (d.setByte a b) (a + 1)
    exact ⟨m, hm⟩

end Sys2Proof.Machine

namespace Sys2Proof

open Machine

section
variable {P : List Part} {R : List Nat} {a d : Dev} {n k : Nat}

/-! What follows a burst that has moved its bytes. -/

/-- The registers that the end of a burst of a channel writes. -/
def oxEndRegs (n : Nat) : List Nat := [A.OX_STAT n, A.OX_DONE n, A.OX_ASRC n, A.OX_ADST n, A.OX_INTST, A.OX_ERRST]

theorem Frame.oxIrq {core : Nat} (h : Frame P R a d) (hc : Part.cores ∈ P) : Frame P R a (d.oxIrq n core) := h.irqTo hc

theorem Frame.oxEvents {s : OxSet} {old done : Nat} {full : Bool} (h : Frame P R a d) (hc : Part.cores ∈ P) (hi : A.OX_INTST ∈ R) :
    Frame P R a (d.oxEvents n s old done full) := by
  unfold Dev.oxEvents
  extract_lets half e d1 e1
  have he : Frame P R a e := h.setBit hi
  have h1 : Frame P R a d1 := Frame.ite (Frame.ite (he.oxIrq hc) he) h
  have he1 : Frame P R a e1 := h1.setBit hi
  exact Frame.ite (Frame.ite (he1.oxIrq hc) he1) h1

/-- The interrupts of a burst, bit by bit. -/
theorem oxEvents_bit (d : Dev) {n : Nat} (hn : n < 32) (s : OxSet) (old done : Nat) (full : Bool) (k : Nat) :
    (d.oxEvents n s old done full).bit A.OX_INTST k =
      (d.bit A.OX_INTST k || (decide (k = 2 * n) && (decide (2 * old < s.len) && decide (s.len ≤ 2 * done))) ||
        (decide (k = 2 * n + 1) && (full && decide (done = s.len)))) := by
  have hset : ∀ (e : Dev) (i j : Nat), i < 64 → (e.setBit A.OX_INTST i true).bit A.OX_INTST j = (e.bit A.OX_INTST j || decide (j = i)) :=
    fun e i j hi => by
      rw [Dev.setBit_bit _ _ _ _ _ _ hi]
      by_cases hj : j = i <;> simp [hj]
  have hhalf : ∀ e : Dev, (if s.halfIe then (e.setBit A.OX_INTST (2 * n) true).oxIrq n s.core else e.setBit A.OX_INTST (2 * n) true).bit
      A.OX_INTST k = (e.bit A.OX_INTST k || decide (k = 2 * n)) := fun e => by
    split <;> exact hset e (2 * n) k (by omega)
  have hfull : ∀ e : Dev, (if s.fullIe then (e.setBit A.OX_INTST (2 * n + 1) true).oxIrq n s.core
      else e.setBit A.OX_INTST (2 * n + 1) true).bit A.OX_INTST k = (e.bit A.OX_INTST k || decide (k = 2 * n + 1)) := fun e => by
    split <;> exact hset e (2 * n + 1) k (by omega)
  unfold Dev.oxEvents
  dsimp only
  cases hh : decide (2 * old < s.len) && decide (s.len ≤ 2 * done) <;> cases hf : full && decide (done = s.len) <;>
    simp [hhalf, hfull]

theorem Frame.oxAfter {s : OxSet} {done : Nat} (h : Frame P R a d) (hp : Part.ox ∈ P) (hc : Part.cores ∈ P)
    (hR : ∀ r ∈ oxRunRegs n, r ∈ R) (he : A.OX_ERRST ∈ R) : Frame P R a (d.oxAfter n s done) := by
  have hs : A.OX_STAT n ∈ R := hR _ List.mem_cons_self
  exact Frame.ite (h.oxHalt hp hc hs he) (Frame.ite (h.oxHalt hp hc hs he) (Frame.ite (Frame.ite (h.oxStart hp hR) (h.setFld hs)) h))

theorem oxFree_undrained (h : d.bit A.OX_GSTAT 1 = false) : d.oxFree = (d.onOx (fun o => { o with flight := [] })).oxGrant :=
  if_neg (by rw [Dev.onOx_bit, h]; exact Bool.false_ne_true)

theorem Frame.oxFree (h : Frame P R a d) (hp : Part.ox ∈ P) (hd : d.bit A.OX_GSTAT 1 = false) : Frame P R a d.oxFree := by
  rw [oxFree_undrained hd]
  exact (h.onOx hp).oxGrant hp

set_option Elab.async false in
theorem oxFree_rd (hd : d.bit A.OX_GSTAT 1 = false) (r : Nat) : d.oxFree.rd r = d.rd r := by
  rw [oxFree_undrained hd]
  exact Dev.oxGrant_rd _ r

theorem oxFree_act (hd : d.bit A.OX_GSTAT 1 = false) (m : Nat) : d.oxFree.oxAct m = d.oxAct m := by
  rw [oxFree_undrained hd]
  exact oxGrant_act _ m

/-- A channel after a burst: what it shows and raises. -/
def oxShown (d : Dev) (n : Nat) (s : OxSet) (old done : Nat) : Dev :=
  (d.oxShow n s done).oxEvents n s old done (!decide (n ∈ d.ox.wdraw))

/-- The registers that show a channel's progress and raise its interrupts. -/
def oxShownRegs (n : Nat) : List Nat := [A.OX_DONE n, A.OX_ASRC n, A.OX_ADST n, A.OX_INTST]

theorem oxShown_frame (d : Dev) (n : Nat) (s : OxSet) (old done : Nat) : Frame [.cores] (oxShownRegs n) d (oxShown d n s old done) :=
  ((Frame.refl _ _ d).oxShow fun r hr => by
    simp only [oxShowRegs, oxShownRegs, List.mem_cons, List.not_mem_nil, or_false] at hr ⊢
    omega).oxEvents (by decide) (by simp [oxShownRegs])

theorem oxStat_not_shown (n : Nat) : A.OX_STAT n ∉ oxShownRegs n := by
  simp only [oxShownRegs, List.mem_cons, List.not_mem_nil, or_false, A.OX_STAT, A.OX_DONE, A.OX_ASRC, A.OX_ADST, A.OX_INTST]
  omega

theorem oxShadowRegs_not_shown {r : Nat} (hr : r ∈ oxShadowRegs n) : r ∉ oxShownRegs n := by
  have hrun := oxShadowRegs_not_run (m := n) hr
  have hglobal := oxShadowRegs_not_global hr
  simp only [oxRunRegs, oxGlobalRegs, oxShownRegs, List.mem_cons, List.not_mem_nil, or_false] at hrun hglobal ⊢
  omega

theorem oxShown_ox (d : Dev) (n : Nat) (s : OxSet) (old done : Nat) : (oxShown d n s old done).ox = d.ox :=
  (oxShown_frame d n s old done).2.1 .ox (by decide)

theorem oxShown_done (d : Dev) (n : Nat) (s : OxSet) (old done : Nat) : (oxShown d n s old done).rd (A.OX_DONE n) = BitVec.ofNat 64 done := by
  have hne : A.OX_DONE n ∉ [A.OX_INTST] := by
    simp only [List.mem_singleton, A.OX_DONE, A.OX_INTST]
    omega
  exact (((Frame.refl [.cores] [A.OX_INTST] _).oxEvents (by decide) List.mem_cons_self).rd_eq hne).trans (oxShow_done ..)

/-- The end of a burst that has met no error. -/
def oxEnded (d : Dev) (n : Nat) (s : OxSet) (old done : Nat) : Dev := ((oxShown d n s old done).oxAfter n s done).oxFree

theorem oxEndRegs_run {r : Nat} (hr : r ∈ oxRunRegs n) : r ∈ oxEndRegs n := by
  simp only [oxRunRegs, oxEndRegs, List.mem_cons, List.not_mem_nil, or_false] at hr ⊢
  omega

theorem oxEndRegs_shown {r : Nat} (hr : r ∈ oxShownRegs n) : r ∈ oxEndRegs n := by
  simp only [oxShownRegs, oxEndRegs, List.mem_cons, List.not_mem_nil, or_false] at hr ⊢
  omega

theorem oxGstat_not_end (n : Nat) : A.OX_GSTAT ∉ oxEndRegs n := by
  simp only [oxEndRegs, List.mem_cons, List.not_mem_nil, or_false, A.OX_GSTAT, A.OX_STAT, A.OX_DONE, A.OX_ASRC, A.OX_ADST, A.OX_INTST,
    A.OX_ERRST]
  omega

section
variable {s : OxSet} {old done : Nat}

theorem oxAfter_frame (d : Dev) (n : Nat) (s : OxSet) (old done : Nat) :
    Frame [.ox, .cores] (oxEndRegs n) d ((oxShown d n s old done).oxAfter n s done) :=
  ((oxShown_frame d n s old done).mono (by decide) fun _ hr => oxEndRegs_shown hr).oxAfter (by decide) (by decide)
    (fun _ hr => oxEndRegs_run hr) (by simp [oxEndRegs])

theorem oxAfter_undrained (h : d.bit A.OX_GSTAT 1 = false) : ((oxShown d n s old done).oxAfter n s done).bit A.OX_GSTAT 1 = false :=
  ((oxAfter_frame d n s old done).bit_eq (oxGstat_not_end n) 1).trans h

theorem oxEnded_frame (h : d.bit A.OX_GSTAT 1 = false) : Frame [.ox, .cores] (oxEndRegs n) d (oxEnded d n s old done) :=
  (oxAfter_frame d n s old done).oxFree (by decide) (oxAfter_undrained h)

theorem oxEnded_rd (h : d.bit A.OX_GSTAT 1 = false) (r : Nat) :
    (oxEnded d n s old done).rd r = ((oxShown d n s old done).oxAfter n s done).rd r := oxFree_rd (oxAfter_undrained h) r

/-- A channel whose request was withdrawn while the burst was in flight. -/
theorem oxAfter_withdrawn (hw : n ∈ d.ox.wdraw) : (oxShown d n s old done).oxAfter n s done = (oxShown d n s old done).oxHalt n 3 :=
  if_pos (by rwa [oxShown_ox])

theorem oxAfter_goes_on (hw : n ∉ d.ox.wdraw) (hs : n ∉ d.ox.stopping) (hmore : done ≠ s.len) :
    (oxShown d n s old done).oxAfter n s done = oxShown d n s old done :=
  (if_neg (by rwa [oxShown_ox])).trans ((if_neg (by rwa [oxShown_ox])).trans (if_neg hmore))

set_option Elab.async false in
theorem oxAfter_full (hw : n ∉ d.ox.wdraw) (hs : n ∉ d.ox.stopping) (hfull : done = s.len) :
    (oxShown d n s old done).oxAfter n s done =
      if d.bit (A.OX_STAT n) 9 then (oxShown d n s old done).oxStart n else (oxShown d n s old done).setFld (A.OX_STAT n) 2 0 2 := by
  rw [← (oxShown_frame d n s old done).bit_eq (oxStat_not_shown n) 9]
  exact (if_neg (by rwa [oxShown_ox])).trans ((if_neg (by rwa [oxShown_ox])).trans (if_pos hfull))

theorem oxEnded_withdrawn (h : d.bit A.OX_GSTAT 1 = false) (hn : n < 32) (hw : n ∈ d.ox.wdraw) :
    (oxEnded d n s old done).oxState n = 3 ∧ (oxEnded d n s old done).bit A.OX_ERRST n = true := by
  rw [Dev.oxState, Dev.fld_congr (oxEnded_rd h _), Dev.bit_congr (oxEnded_rd h _), oxAfter_withdrawn hw]
  exact ⟨oxHalt_withdrawn _ n, (oxHalt_withdrawn_errst _ n hn).trans (if_pos rfl)⟩

theorem oxEnded_goes_on (h : d.bit A.OX_GSTAT 1 = false) (hw : n ∉ d.ox.wdraw) (hs : n ∉ d.ox.stopping) (hmore : done ≠ s.len) :
    (oxEnded d n s old done).oxState n = d.oxState n := by
  rw [Dev.oxState, Dev.fld_congr (oxEnded_rd h _), oxAfter_goes_on hw hs hmore]
  exact (oxShown_frame d n s old done).fld_eq (oxStat_not_shown n) 2 0

theorem oxEnded_restarts (h : d.bit A.OX_GSTAT 1 = false) (hw : n ∉ d.ox.wdraw) (hs : n ∉ d.ox.stopping) (hfull : done = s.len)
    (harmed : d.bit (A.OX_STAT n) 9 = true) :
    (oxEnded d n s old done).oxState n = 1 ∧ (oxEnded d n s old done).oxAct n = d.oxShadow n := by
  have hstart : (oxShown d n s old done).oxAfter n s done = (oxShown d n s old done).oxStart n :=
    (oxAfter_full hw hs hfull).trans (if_pos harmed)
  constructor
  · rw [Dev.oxState, Dev.fld_congr (oxEnded_rd h _), hstart]
    exact oxStart_state _ n
  · refine (oxFree_act (oxAfter_undrained h) n).trans ?_
    rw [hstart, oxStart_act, if_pos rfl]
    exact (oxShown_frame d n s old done).oxShadow fun r hr => oxShadowRegs_not_shown hr

theorem oxEnded_done (h : d.bit A.OX_GSTAT 1 = false) (hw : n ∉ d.ox.wdraw) (hs : n ∉ d.ox.stopping) (hfull : done = s.len)
    (harmed : d.bit (A.OX_STAT n) 9 = false) : (oxEnded d n s old done).oxState n = 2 := by
  rw [Dev.oxState, Dev.fld_congr (oxEnded_rd h _), oxAfter_full hw hs hfull, if_neg (by rw [harmed]; decide)]
  exact (Dev.setFld_fld _ _ _ _ _ (by decide) (by decide)).trans (by decide)

theorem oxDone_ne_stat (n : Nat) : A.OX_DONE n ∉ [A.OX_STAT n, A.OX_ERRST] := by
  simp only [List.mem_cons, List.not_mem_nil, or_false, A.OX_DONE, A.OX_STAT, A.OX_ERRST]
  omega

/-- DONE shows the bytes moved, unless the channel has taken up its armed shadow. -/
theorem oxEnded_shows (h : d.bit A.OX_GSTAT 1 = false) (hs : n ∉ d.ox.stopping) (hdone : done < 2 ^ 28)
    (hkept : n ∈ d.ox.wdraw ∨ done < s.len ∨ d.bit (A.OX_STAT n) 9 = false) :
    (oxEnded d n s old done).fld (A.OX_DONE n) 27 0 = done := by
  have hshown : (oxShown d n s old done).fld (A.OX_DONE n) 27 0 = done := by
    rw [Dev.fld, oxShown_done, fldOf, natFld, BitVec.toNat_ofNat, Nat.mod_eq_of_lt (by omega)]
    rw [Nat.mod_eq_of_lt (by omega), pow_zero, Nat.div_one]
  rw [Dev.fld_congr (oxEnded_rd h _)]
  by_cases hw : n ∈ d.ox.wdraw
  · rw [oxAfter_withdrawn hw]
    exact (((Frame.refl [.ox, .cores] _ _).oxHalt (by decide) (by decide) List.mem_cons_self (by simp)).fld_eq
      (oxDone_ne_stat n) 27 0).trans hshown
  · by_cases hfull : done = s.len
    · have harmed := (hkept.resolve_left hw).resolve_left (by omega)
      rw [oxAfter_full hw hs hfull, if_neg (by rw [harmed]; decide)]
      exact (((Frame.refl [] [A.OX_STAT n, A.OX_ERRST] _).setFld List.mem_cons_self).fld_eq (oxDone_ne_stat n) 27 0).trans hshown
    · rw [oxAfter_goes_on hw hs hfull]
      exact hshown

theorem oxIntst_not_run (n : Nat) : A.OX_INTST ∉ A.OX_ERRST :: oxRunRegs n := by
  rw [List.mem_cons, not_or]
  exact ⟨by decide, oxGlobalRegs_not_run (by decide)⟩

theorem oxEnded_intst (h : d.bit A.OX_GSTAT 1 = false) (hn : n < 32) (k : Nat) :
    (oxEnded d n s old done).bit A.OX_INTST k =
      (d.bit A.OX_INTST k || (decide (k = 2 * n) && (decide (2 * old < s.len) && decide (s.len ≤ 2 * done))) ||
        (decide (k = 2 * n + 1) && (!decide (n ∈ d.ox.wdraw) && decide (done = s.len)))) := by
  have hafter : Frame [.ox, .cores] (A.OX_ERRST :: oxRunRegs n) (oxShown d n s old done) ((oxShown d n s old done).oxAfter n s done) :=
    (Frame.refl _ _ _).oxAfter (by decide) (by decide) (fun _ hr => List.mem_cons_of_mem _ hr) List.mem_cons_self
  have hshow : (d.oxShow n s done).bit A.OX_INTST k = d.bit A.OX_INTST k :=
    (oxShow_frame d n s done).bit_eq (fun hmem => oxGlobalRegs_not_run (by decide) (List.mem_cons_of_mem _ hmem)) k
  rw [Dev.bit_congr (oxEnded_rd h _), hafter.bit_eq (oxIntst_not_run n), oxShown, oxEvents_bit _ hn, hshow]

end

end

end Sys2Proof
end

section
/-! The end of a burst, with and without an error, and the obligation. -/

namespace Sys2Proof

open Machine

section
variable {s : State} {d : Dev} {n : OxN} {x : OxSet} {old : Nat}

set_option Elab.async false in
theorem exec_oxBurstComplete (s : State) (n : OxN) (err : Option (Fin 8 × W64)) (moved : List Byte) (hit : Hit) :
    exec (.oxBurstComplete n err moved hit) s = mainDo s (fun d => d.oxDone n err moved hit) := rfl

/-- The bytes of the next burst of a transfer without a gather. -/
def oxLen (x : OxSet) (old : Nat) : Nat := Nat.min (256 - (x.src + old) % 256) (x.len - old)

theorem oxBurst_linear (d : Dev) (hmode : x.mode = 0) (old : Nat) : d.oxBurst x old = (x.src + old, (oxAddrs x old).2, oxLen x old) :=
  if_neg (by rw [hmode]; decide)

theorem oxBatch_linear (hmode : x.mode = 0) (old : Nat) : oxBatch x old = 0 := if_neg (by rw [hmode]; simp)

theorem oxIdxErr_linear (d : Dev) (n : OxN) (hmode : x.mode = 0) (old : Nat) : d.oxIdxErr n x old = none := by
  rw [Dev.oxIdxErr, oxBatch_linear hmode]
  rfl

theorem oxBeyond_linear (hmode : x.mode = 0) (src len : Nat) : oxBeyond x src len = false := by simp [oxBeyond, hmode]

/-- The next burst goes from hub SRAM to hub SRAM. -/
structure HubBurst (x : OxSet) (old : Nat) : Prop where
  req : x.req = 0
  mode : x.mode = 0
  more : old < x.len
  srcLo : 0x10000000 ≤ x.src
  srcHi : x.src + x.len ≤ 0x11000000
  dstLo : 0x10000000 ≤ x.dst
  dstHi : x.dst + x.len ≤ 0x11000000

theorem oxLen_le (x : OxSet) (old : Nat) : oxLen x old ≤ x.len - old := Nat.min_le_right ..

theorem oxLen_pos (h : old < x.len) : 0 < oxLen x old := Nat.lt_min.mpr ⟨by omega, by omega⟩

theorem HubBurst.src_hub (h : HubBurst x old) : ∀ i, i < oxLen x old → InHub (x.src + old + i) := fun i hi => by
  have hle := oxLen_le x old
  obtain ⟨-, -, hmore, hslo, hshi, -, -⟩ := h
  exact ⟨by omega, by omega⟩

theorem HubBurst.dst_hub (h : HubBurst x old) : ∀ i, i < oxLen x old → InHub (x.dst + old + i) := fun i hi => by
  have hle := oxLen_le x old
  obtain ⟨-, -, hmore, -, -, hdlo, hdhi⟩ := h
  exact ⟨by omega, by omega⟩

theorem HubBurst.srcMem (h : HubBurst x old) : x.srcMem = true := by simp [OxSet.srcMem, h.req]

theorem HubBurst.dstMem (h : HubBurst x old) : x.dstMem = true := by simp [OxSet.dstMem, h.req]

theorem HubBurst.addr (h : HubBurst x old) : (oxAddrs x old).2 = x.dst + old := if_neg (by rw [h.req]; decide)

theorem HubBurst.oxError (h : HubBurst x old) (d : Dev) (n : OxN) :
    d.oxError n x (x.src + old) (x.dst + old) (oxLen x old) none .none = none := by
  have hpos := oxLen_pos h.more
  simp [Dev.oxError, oxBeyond_linear h.mode, oxRange_hub d n false hpos h.src_hub, oxRange_hub d n true hpos h.dst_hub, firstErr]

theorem HubBurst.oxDeliver (h : HubBurst x old) (d : Dev) {b : List Byte} (hb : b.length = oxLen x old) :
    d.oxDeliver x (x.dst + old) b = d.setBytes (x.dst + old) b := by
  have hport : ¬ (x.req = 1 ∨ (x.dstMem = true ∧ x.dst + old = A.CIRQUE_PFIFO)) := by
    rw [h.req]
    have hhi := (h.dst_hub 0 (oxLen_pos h.more)).2
    rintro (h01 | ⟨-, hfifo⟩)
    · exact absurd h01 (by decide)
    · rw [A.CIRQUE_PFIFO] at hfifo
      omega
  unfold Dev.oxDeliver
  rw [if_neg hport, if_pos h.dstMem]
  exact storeBytes_hub d _ b (hb ▸ h.dst_hub)

/-- The bytes of a burst have been moved. -/
def hubMoved (d : Dev) (x : OxSet) (old : Nat) : Dev :=
  d.setBytes (x.dst + old) ((List.range (oxLen x old)).map (fun i => d.byte (x.src + old + i)))

theorem oxDone_other (h : d.ox.flight ≠ [n.val]) (err : Option (Fin 8 × W64)) (moved : List Byte) (hit : Hit) :
    d.oxDone n err moved hit = d := if_pos h

theorem oxDone_hub (hflight : d.ox.flight = [n.val]) (h : HubBurst (d.oxAct n.val) (d.fld (A.OX_DONE n.val) 27 0)) (moved : List Byte) :
    d.oxDone n none moved .none =
      oxEnded (hubMoved d (d.oxAct n.val) (d.fld (A.OX_DONE n.val) 27 0)) n.val (d.oxAct n.val) (d.fld (A.OX_DONE n.val) 27 0)
        (d.fld (A.OX_DONE n.val) 27 0 + oxLen (d.oxAct n.val) (d.fld (A.OX_DONE n.val) 27 0)) := by
  unfold Dev.oxDone
  rw [if_neg (not_not.mpr hflight)]
  dsimp only
  generalize d.oxAct n.val = x at *
  generalize d.fld (A.OX_DONE n.val) 27 0 = old at *
  rw [oxIdxErr_linear d n h.mode, oxBurst_linear d h.mode, h.addr]
  dsimp only
  rw [h.oxError]
  dsimp only
  rw [if_pos h.srcMem, if_pos h.srcMem, oxBatch_linear h.mode, touchRange_zero, touchRange_hub d _ _ h.src_hub,
    loadBytes_hub d _ _ h.src_hub, h.oxDeliver d (by simp)]
  rfl

set_option Elab.async false in
theorem hubMoved_mem (d : Dev) (x : OxSet) (old : Nat) : ∃ m, hubMoved d x old = { d with mem := m } := setBytes_mem ..

theorem hubMoved_byte (d : Dev) (x : OxSet) (old b : Nat) :
    (hubMoved d x old).byte b =
      if x.dst + old ≤ b ∧ b < x.dst + old + oxLen x old then d.byte (x.src + old + (b - (x.dst + old))) else d.byte b := by
  rw [hubMoved, Dev.setBytes_byte, List.length_map, List.length_range]
  split
  · next hin =>
    have hlt : b - (x.dst + old) < oxLen x old := by omega
    simp [List.getD_eq_getElem?_getD, hlt]
  · rfl

theorem same_of_mem {m : List Host.Cell} {x e : Dev} {p : Part} (hx : x = { d with mem := m }) (h : p.same x e) : p.same d e := by
  subst hx
  cases p <;> exact h

/-- A burst between places in hub SRAM. -/
theorem oxBurst_hub (hrun : Running s) (hflight : s.dev.ox.flight = [n.val])
    (h : HubBurst (s.dev.oxAct n.val) (s.dev.fld (A.OX_DONE n.val) 27 0)) (hlen : (s.dev.oxAct n.val).len < 2 ^ 28)
    (hdrain : s.dev.bit A.OX_GSTAT 1 = false) (hstop : n.val ∉ s.dev.ox.stopping) (moved : List Byte) :
    let st := s.dev.oxAct n.val
    let old := s.dev.fld (A.OX_DONE n.val) 27 0
    let len := Nat.min (256 - (st.src + old) % 256) (st.len - old)
    Gives (.oxBurstComplete n none moved .none) s (fun d =>
      (∀ i, i < len → d.byte (st.dst + old + i) = s.dev.byte (st.src + old + i)) ∧
      (n.val ∈ s.dev.ox.wdraw ∨ old + len < st.len ∨ s.dev.bit (A.OX_STAT n.val) 9 = false → d.fld (A.OX_DONE n.val) 27 0 = old + len) ∧
      (n.val ∉ s.dev.ox.wdraw → old + len = st.len → s.dev.bit (A.OX_STAT n.val) 9 = true →
        d.oxState n.val = 1 ∧ d.oxAct n.val = s.dev.oxShadow n.val) ∧
      (n.val ∉ s.dev.ox.wdraw → old + len = st.len → s.dev.bit (A.OX_STAT n.val) 9 = false → d.oxState n.val = 2) ∧
      (n.val ∉ s.dev.ox.wdraw → old + len < st.len → d.oxState n.val = s.dev.oxState n.val) ∧
      (n.val ∈ s.dev.ox.wdraw → d.oxState n.val = 3 ∧ d.bit A.OX_ERRST n.val = true) ∧
      (2 * old < st.len → st.len ≤ 2 * (old + len) → d.bit A.OX_INTST (2 * n.val) = true) ∧
      (n.val ∉ s.dev.ox.wdraw → old + len = st.len → d.bit A.OX_INTST (2 * n.val + 1) = true) ∧
      FrameMem [.ox, .cores] [A.OX_STAT n.val, A.OX_DONE n.val, A.OX_ASRC n.val, A.OX_ADST n.val, A.OX_INTST, A.OX_ERRST]
        (st.dst + old) (st.dst + old + len) s.dev d) := by
  intro st old len
  refine gives_main (exec_oxBurstComplete s n none moved .none) hrun ?_
  have hend : s.dev.oxDone n none moved .none = oxEnded (hubMoved s.dev st old) n.val st old (old + len) := oxDone_hub hflight h moved
  rw [hend]
  have hbyte := hubMoved_byte s.dev st old
  change ∀ b, _ = if _ ∧ b < st.dst + old + len then _ else _ at hbyte
  obtain ⟨m, hm⟩ := hubMoved_mem s.dev st old
  have hle : len ≤ st.len - old := oxLen_le st old
  have hmore : old < st.len := h.more
  have hlen' : st.len < 2 ^ 28 := hlen
  generalize hubMoved s.dev st old = x at hm hbyte
  have hxdrain : x.bit A.OX_GSTAT 1 = false := by rw [hm]; exact hdrain
  have hwdraw : x.ox.wdraw = s.dev.ox.wdraw := by rw [hm]
  have hxstop : n.val ∉ x.ox.stopping := by rw [hm]; exact hstop
  have harmed : x.bit (A.OX_STAT n.val) 9 = s.dev.bit (A.OX_STAT n.val) 9 := by rw [hm]; rfl
  have hframe : Frame [.ox, .cores] (oxEndRegs n.val) x (oxEnded x n.val st old (old + len)) := oxEnded_frame hxdrain
  rw [← hwdraw, ← harmed]
  refine ⟨fun i hi => ?_, fun hkept => oxEnded_shows hxdrain hxstop (by omega) hkept, fun hw hfull ha => ?_, fun hw hfull ha =>
    oxEnded_done hxdrain hw hxstop hfull ha, fun hw hless => ?_, fun hw => oxEnded_withdrawn hxdrain n.isLt hw, fun hlo hhi => ?_,
    fun hw hfull => ?_, ?_⟩
  · rw [hframe.2.2.2, hbyte, if_pos ⟨by omega, by omega⟩, Nat.add_sub_cancel_left]
  · obtain ⟨hstate, hact⟩ := oxEnded_restarts (d := x) (n := n.val) (s := st) (old := old) hxdrain hw hxstop hfull ha
    exact ⟨hstate, hact.trans (by rw [hm]; rfl)⟩
  · exact (oxEnded_goes_on hxdrain hw hxstop (by omega)).trans (by rw [hm]; rfl)
  · rw [oxEnded_intst hxdrain n.isLt]
    simp [hlo, hhi]
  · rw [oxEnded_intst hxdrain n.isLt]
    simp [hw, hfull]
  · obtain ⟨hboard, hparts, hregs, hbytes⟩ := hframe
    exact ⟨hboard.trans (by rw [hm]), fun p hp => same_of_mem hm (hparts p hp), fun r hr => (hregs r hr).trans (by rw [hm]; rfl), fun b hb => (hbytes b).trans ((hbyte b).trans (if_neg hb))⟩

/-! A bus error (R311). -/

/-- The registers that a bus error of a channel writes. -/
def oxFailRegs (n : Nat) : List Nat :=
  [A.CIPHER_CNT_LOCKED, A.DRAMC_ECCSTAT, A.DRAMC_UNC_ADDR, A.DRAMC_UNC_CNT, A.CAIRN_HWDROP, A.OX_STAT n, A.OX_BERR n, A.OX_ERRST]

theorem Frame.uncorrCount {P : List Part} {R : List Nat} {a d : Dev} {who : Reqr} {b : Nat} {hit : Hit} (h : Frame P R a d)
    (hh : Part.host ∈ P) (hR : ∀ r ∈ [A.DRAMC_ECCSTAT, A.DRAMC_UNC_ADDR, A.DRAMC_UNC_CNT], r ∈ R) :
    Frame P R a (d.uncorrCount who b hit) := by
  have hunc : Frame P R a (d.uncCount b) := by
    unfold Dev.uncCount
    split
    · exact h.onHost hh
    · exact Frame.ite (h.onHost hh) h
  have hdram : Frame P R a (d.dramUnc (b / 64 * 64)) := by
    unfold Dev.dramUnc
    extract_lets d1 d2
    have h1 : Frame P R a d1 := h.setBit (hR _ (by simp))
    have h2 : Frame P R a d2 := Frame.ite h1 (h1.setReg (hR _ (by simp)))
    exact Frame.ite h2 (h2.count (hR _ (by simp)))
  unfold Dev.uncorrCount
  split
  · exact h.onHost hh
  · exact Frame.ite (h.onHost hh) h
  · exact Frame.ite hdram hunc

/-- The device before the record of a channel's bus error: its kind is counted. -/
def oxCounted (d : Dev) (n : OxN) (b : Nat) (e : BusErr) (hit : Hit) : Dev :=
  let d := if e = .locked then d.count A.CIPHER_CNT_LOCKED 64 1 else d
  if e = .uncorr then d.uncorrCount (.ox n) b hit else d

set_option Elab.async false in
theorem failAccess_ox (d : Dev) (n : OxN) (b : Nat) (w : Bool) (e : BusErr) (hit : Hit) :
    d.failAccess (.ox n) b w e hit =
      (((((oxCounted d n b e hit).hwPost (errSource (.ox n) b) e.code e.sev (b % 2 ^ 40 + reqrNum (.ox n) * 2 ^ 64)).setFld
        (A.OX_STAT n.val) 2 0 4).setFld (A.OX_STAT n.val) 8 6 e.code).setReg (A.OX_BERR n.val) b).setBit A.OX_ERRST n.val true := rfl

theorem failAccess_ox_frame (d : Dev) (n : OxN) (b : Nat) (w : Bool) (e : BusErr) (hit : Hit) :
    Frame [.cairn, .host] (oxFailRegs n.val) d (d.failAccess (.ox n) b w e hit) := by
  have hlocked : Frame [.cairn, .host] (oxFailRegs n.val) d (if e = .locked then d.count A.CIPHER_CNT_LOCKED 64 1 else d) :=
    Frame.ite ((Frame.refl _ _ d).count (by simp [oxFailRegs])) (Frame.refl _ _ d)
  have hcount : Frame [.cairn, .host] (oxFailRegs n.val) d (oxCounted d n b e hit) :=
    Frame.ite (hlocked.uncorrCount (by decide) (by simp [oxFailRegs])) hlocked
  rw [failAccess_ox]
  exact (((((hcount.hwPostTo (by decide) (by simp [oxFailRegs])).setFld (by simp [oxFailRegs])).setFld (by simp [oxFailRegs])).setReg
    (by simp [oxFailRegs])).setBit (by simp [oxFailRegs]))

theorem busErrCode_lt (e : BusErr) : e.code < 8 := by cases e <;> decide

theorem oxStat_ne_berr (n m : Nat) : A.OX_STAT n ≠ A.OX_BERR m := by
  simp only [A.OX_STAT, A.OX_BERR]
  omega

theorem failAccess_ox_state (d : Dev) (n : OxN) (b : Nat) (w : Bool) (e : BusErr) (hit : Hit) :
    (d.failAccess (.ox n) b w e hit).oxState n.val = 4 ∧ (d.failAccess (.ox n) b w e hit).fld (A.OX_STAT n.val) 8 6 = e.code ∧
      (d.failAccess (.ox n) b w e hit).rd (A.OX_BERR n.val) = BitVec.ofNat 64 b ∧
      (d.failAccess (.ox n) b w e hit).bit A.OX_ERRST n.val = true := by
  have hlt := n.isLt
  have herr : A.OX_STAT n.val ≠ A.OX_ERRST := oxStat_ne_global (by decide)
  have hberr : A.OX_BERR n.val ≠ A.OX_ERRST := by
    simp only [A.OX_BERR, A.OX_ERRST]
    omega
  rw [failAccess_ox]
  generalize (oxCounted d n b e hit).hwPost _ _ _ _ = y
  have hrd : (((((y.setFld (A.OX_STAT n.val) 2 0 4).setFld (A.OX_STAT n.val) 8 6 e.code).setReg (A.OX_BERR n.val) b).setBit A.OX_ERRST
      n.val true).rd (A.OX_STAT n.val)) = ((y.setFld (A.OX_STAT n.val) 2 0 4).setFld (A.OX_STAT n.val) 8 6 e.code).rd (A.OX_STAT n.val) := by
    rw [Dev.setBit_rd, if_neg herr, Dev.setReg_rd, if_neg (oxStat_ne_berr _ _)]
  refine ⟨(Dev.fld_congr hrd 2 0).trans ?_, (Dev.fld_congr hrd 8 6).trans ?_, ?_, (Dev.setBit_bit _ _ _ _ _ _ (by omega)).trans (if_pos ⟨rfl, rfl⟩)⟩
  · rw [Dev.setFld_fld_other _ _ _ _ _ _ _ _ (by decide) (by decide) (.inr (.inl (by decide))), Dev.setFld_fld _ _ _ _ _ (by decide) (by decide)]
    rfl
  · rw [Dev.setFld_fld _ _ _ _ _ (by decide) (by decide)]
    exact Nat.mod_eq_of_lt (busErrCode_lt e)
  · rw [Dev.setBit_rd, if_neg hberr, Dev.setReg_rd, if_pos rfl]

/-- A channel whose burst has met an error. -/
def oxFailed (d : Dev) (n : OxN) (old b : Nat) (w : Bool) (e : BusErr) (hit : Hit) : Dev :=
  (((d.setReg (A.OX_DONE n.val) old).failAccess (.ox n) b w e hit).onOx (fun o =>
    { o with stopping := o.stopping.filter (· != n.val), wdraw := o.wdraw.filter (· != n.val) })).oxIrq n.val (d.oxAct n.val).core

theorem oxFailed_rd (d : Dev) (n : OxN) (old b : Nat) (w : Bool) (e : BusErr) (hit : Hit) (r : Nat) :
    (oxFailed d n old b w e hit).rd r = ((d.setReg (A.OX_DONE n.val) old).failAccess (.ox n) b w e hit).rd r := by
  unfold oxFailed
  generalize (d.setReg (A.OX_DONE n.val) old).failAccess (.ox n) b w e hit = y
  rfl

theorem oxDone_fails (hflight : d.ox.flight = [n.val]) (hmode : (d.oxAct n.val).mode = 0) {err : Option (Fin 8 × W64)} {hit : Hit}
    {e : BusErr} {b : Nat} {w : Bool}
    (herr : d.oxError n (d.oxAct n.val) ((d.oxAct n.val).src + d.fld (A.OX_DONE n.val) 27 0)
      (oxAddrs (d.oxAct n.val) (d.fld (A.OX_DONE n.val) 27 0)).2 (oxLen (d.oxAct n.val) (d.fld (A.OX_DONE n.val) 27 0)) err hit =
        some (e, b, w)) (moved : List Byte) :
    d.oxDone n err moved hit = (oxFailed d n (d.fld (A.OX_DONE n.val) 27 0) b w e (if w then .none else hit)).oxFree := by
  unfold Dev.oxDone oxFailed
  rw [if_neg (not_not.mpr hflight)]
  dsimp only
  rw [oxIdxErr_linear d n hmode, oxBurst_linear d hmode]
  dsimp only
  rw [herr]
  dsimp only
  rw [oxBeyond_linear hmode]
  rfl

theorem oxBurst_fails (hrun : Running s) (hflight : s.dev.ox.flight = [n.val]) (hmode : (s.dev.oxAct n.val).mode = 0)
    {err : Option (Fin 8 × W64)} {hit : Hit} {e : BusErr} {b : Nat} {w : Bool}
    (herr : s.dev.oxError n (s.dev.oxAct n.val) ((s.dev.oxAct n.val).src + s.dev.fld (A.OX_DONE n.val) 27 0)
      (oxAddrs (s.dev.oxAct n.val) (s.dev.fld (A.OX_DONE n.val) 27 0)).2
      (oxLen (s.dev.oxAct n.val) (s.dev.fld (A.OX_DONE n.val) 27 0)) err hit = some (e, b, w))
    (hdrain : s.dev.bit A.OX_GSTAT 1 = false) (moved : List Byte) :
    Gives (.oxBurstComplete n err moved hit) s (fun d =>
      d.oxState n.val = 4 ∧ d.fld (A.OX_STAT n.val) 8 6 = e.code ∧ d.rd (A.OX_BERR n.val) = BitVec.ofNat 64 b ∧
      d.bit A.OX_ERRST n.val = true ∧ d.fld (A.OX_DONE n.val) 27 0 = s.dev.fld (A.OX_DONE n.val) 27 0 ∧
      ((s.dev.oxAct n.val).core, 0x0B00 + n.val) ∈ d.cores.irqs ∧ n.val ∉ d.ox.flight) := by
  refine gives_main (exec_oxBurstComplete s n err moved hit) hrun ?_
  rw [oxDone_fails hflight hmode herr]
  generalize hold : s.dev.fld (A.OX_DONE n.val) 27 0 = old
  have holdlt : old < 2 ^ 28 := hold ▸ Nat.mod_lt _ (by decide)
  obtain ⟨hstate, hcode, hberr, herrst⟩ := failAccess_ox_state (s.dev.setReg (A.OX_DONE n.val) old) n b w e (if w then .none else hit)
  have hframe := failAccess_ox_frame (s.dev.setReg (A.OX_DONE n.val) old) n b w e (if w then .none else hit)
  have hgstat : A.OX_GSTAT ∉ oxFailRegs n.val ∧ A.OX_DONE n.val ∉ oxFailRegs n.val ∧ A.OX_GSTAT ≠ A.OX_DONE n.val := by
    simp only [oxFailRegs, List.mem_cons, List.not_mem_nil, or_false, A.OX_GSTAT, A.OX_DONE, A.CIPHER_CNT_LOCKED, A.DRAMC_ECCSTAT,
      A.DRAMC_UNC_ADDR, A.DRAMC_UNC_CNT, A.CAIRN_HWDROP, A.OX_STAT, A.OX_BERR, A.OX_ERRST]
    omega
  obtain ⟨hg, hd, hne⟩ := hgstat
  have hfdrain : (oxFailed s.dev n old b w e (if w then .none else hit)).bit A.OX_GSTAT 1 = false :=
    (Dev.bit_congr (oxFailed_rd ..) 1).trans <| (hframe.bit_eq hg 1).trans ((Dev.bit_congr ((Dev.setReg_rd ..).trans (if_neg hne)) 1).trans hdrain)
  have hrd r := (oxFree_rd hfdrain r).trans (oxFailed_rd s.dev n old b w e (if w then .none else hit) r)
  refine ⟨(Dev.fld_congr (hrd _) 2 0).trans hstate, (Dev.fld_congr (hrd _) 8 6).trans hcode, (hrd _).trans hberr,
    (Dev.bit_congr (hrd _) n.val).trans herrst, (Dev.fld_congr (hrd _) 27 0).trans ((hframe.fld_eq hd 27 0).trans ?_), ?_, ?_⟩
  · rw [Dev.fld, Dev.setReg_rd, if_pos rfl, fldOf, natFld, BitVec.toNat_ofNat, Nat.mod_eq_of_lt (show old < 2 ^ 64 by omega)]
    exact (congrArg (· % 2 ^ 28) (Nat.div_one old)).trans (Nat.mod_eq_of_lt holdlt)
  · have hcores := ((Frame.refl [.ox] [] (oxFailed s.dev n old b w e (if w then .none else hit))).oxFree (by decide) hfdrain).2.1 .cores (by decide)
    exact hcores ▸ mem_irqTo _ _ _
  · rw [oxFree_undrained hfdrain]
    refine oxGrant_flight_running (fun hone => ?_) List.not_mem_nil
    exact absurd (hstate.symm.trans hone) (by decide)

end

set_option Elab.async false in
/-- Settles O46: each channel's registers are its own, so that what a command does to one channel leaves the others as they were, and a
burst between places in hub SRAM meets no error. -/
theorem oxChannels : Obligations.OxChannels := by
  unfold Obligations.OxChannels
  refine ⟨fun s n h => ⟨oxGo_refused h, oxGo_armed h, oxGo_started h, oxStop_notRunning h, oxStop_inFlight h, oxStop_atOnce h⟩,
    fun s h => ⟨oxCtlEnWrite_held h, oxCtlEnWrite_active h, oxCtlEnWrite_enables h, oxCtlEnWrite_clears h⟩,
    fun s line h => ⟨peripheralRequest_waits h, fun n hn => peripheralRequest_granted h hn, requestWithdrawal_clause line h⟩,
    fun s n err moved hit h => ⟨fun hflight => ?_, fun hflight hreq hmode hmore hlen hslo hshi hdlo hdhi herr hhit hdrain hstop => ?_,
      fun e b w hflight hmode herr hdrain => oxBurst_fails h hflight hmode herr hdrain moved⟩⟩
  · exact gives_main (exec_oxBurstComplete s n err moved hit) h (oxDone_other hflight err moved hit)
  · subst herr hhit
    exact oxBurst_hub h hflight ⟨hreq, hmode, hmore, hslo, hshi, hdlo, hdhi⟩ hlen hdrain hstop moved

end Sys2Proof
end

section
/-! Clock enables, stops and automatic gating (R324, R325). The bits of a clocked block and those of a Mule channel follow one rule over
three bits of registers. -/

namespace Sys2Proof.Machine

/-- The places of the enable, drain and clock bits of a block or a channel: a register and a bit of it. -/
structure ClkBits where
  en : Nat × Nat
  drain : Nat × Nat
  on : Nat × Nat

def ClkBits.all (c : ClkBits) : List (Nat × Nat) := [c.en, c.drain, c.on]

/-- The bits lie inside their registers and are three. -/
def ClkBits.Apart (c : ClkBits) : Prop := (∀ q ∈ c.all, q.2 < 64) ∧ c.en ≠ c.drain ∧ c.en ≠ c.on ∧ c.drain ≠ c.on

def blkBits (n : Nat) : ClkBits := ⟨(A.CLK_EN, n), (A.CLK_ENSTAT, n), (A.CLK_ENSTAT, 16 + n)⟩

def muleBits (c : Nat) : ClkBits := ⟨(A.CLK_EN_MULE, c), (A.CLK_DRAIN_MULE, c), (A.CLK_ON_MULE, c)⟩

def Dev.at (d : Dev) (q : Nat × Nat) : Bool := d.bit q.1 q.2

def Dev.put (d : Dev) (q : Nat × Nat) (b : Bool) : Dev := d.setBit q.1 q.2 b

/-- A write of an enable where no reset is held (R325). -/
def clkStep (c : ClkBits) (d : Dev) (v : Bool) : Dev :=
  if v && !d.at c.en then
    if (d.put c.en v).at c.drain then d.put c.en v else ((d.put c.en v).put c.drain false).put c.on true
  else if !v && d.at c.en then
    (if (d.put c.en v).at c.on then (d.put c.en v).put c.drain true else d.put c.en v)
  else d.put c.en v

section
variable {d : Dev} {c : ClkBits}

theorem Dev.put_at (d : Dev) {p : Nat × Nat} (q : Nat × Nat) (b : Bool) (h : p.2 < 64) :
    (d.put p b).at q = if q = p then b else d.at q := by
  rw [Dev.put, Dev.at, Dev.setBit_bit _ _ _ _ _ _ h, Dev.at]
  simp only [Prod.ext_iff]

theorem Dev.put_at_same (d : Dev) {p : Nat × Nat} (b : Bool) (h : p.2 < 64) : (d.put p b).at p = b := by rw [d.put_at p b h, if_pos rfl]

theorem Dev.put_at_other (d : Dev) {p q : Nat × Nat} (b : Bool) (h : p.2 < 64) (hq : q ≠ p) : (d.put p b).at q = d.at q := by
  rw [d.put_at q b h, if_neg hq]

/-- The bits outside stay. -/
theorem clkStep_other (hc : c.Apart) {q : Nat × Nat} (hq : q ∉ c.all) (v : Bool) : (clkStep c d v).at q = d.at q := by
  obtain ⟨hlt, -, -, -⟩ := hc
  simp only [ClkBits.all, List.mem_cons, List.not_mem_nil, or_false, not_or] at hq hlt
  obtain ⟨hen, hdrain, hon⟩ := hq
  have h1 := hlt c.en (.inl rfl)
  have h2 := hlt c.drain (.inr (.inl rfl))
  have h3 := hlt c.on (.inr (.inr rfl))
  have hput : (d.put c.en v).at q = d.at q := d.put_at_other v h1 hen
  unfold clkStep
  split
  · split
    · exact hput
    · rw [Dev.put_at_other _ _ h3 hon, Dev.put_at_other _ _ h2 hdrain, hput]
  · split
    · split
      · rw [Dev.put_at_other _ _ h2 hdrain, hput]
      · exact hput
    · exact hput

set_option Elab.async false in
/-- The enable takes the written value; an enabled block whose drain is over runs, and a running one that is disabled drains. -/
theorem clkStep_bits (hc : c.Apart) (v : Bool) :
    (clkStep c d v).at c.en = v ∧
    (v = true → d.at c.en = false → d.at c.drain = false → (clkStep c d v).at c.on = true) ∧
    (v = false → d.at c.en = true → d.at c.on = true → (clkStep c d v).at c.drain = true ∧ (clkStep c d v).at c.on = true) := by
  obtain ⟨hlt, hed, heo, hdo⟩ := hc
  have h1 := hlt c.en (by simp [ClkBits.all])
  have h2 := hlt c.drain (by simp [ClkBits.all])
  have h3 := hlt c.on (by simp [ClkBits.all])
  have hput : (d.put c.en v).at c.en = v := d.put_at_same v h1
  refine ⟨?_, fun hv hen hdrain => ?_, fun hv hen hon => ?_⟩
  · unfold clkStep
    split
    · split
      · exact hput
      · rw [Dev.put_at_other _ _ h3 heo, Dev.put_at_other _ _ h2 hed, hput]
    · split
      · split
        · rw [Dev.put_at_other _ _ h2 hed, hput]
        · exact hput
      · exact hput
  · rw [clkStep, if_pos (by rw [hv, hen]; rfl), if_neg (by rw [d.put_at_other v h1 hed.symm, hdrain]; decide)]
    exact Dev.put_at_same _ true h3
  · rw [clkStep, if_neg (by rw [hv, Bool.false_and]; decide), if_pos (by rw [hv, hen]; rfl), if_pos (by rw [d.put_at_other v h1 heo.symm, hon])]
    exact ⟨Dev.put_at_same _ true h2, by rw [Dev.put_at_other _ _ h2 hdo.symm, d.put_at_other v h1 heo.symm, hon]⟩

theorem clkStep_gate (c : ClkBits) (d : Dev) (v : Bool) : (clkStep c d v).gate = d.gate := by
  unfold clkStep
  split
  · split <;> rfl
  · split
    · split <;> rfl
    · rfl

end

/-! The writes of all the enables of a register, one after another. -/

section
variable {f : Nat → ClkBits} {v : Nat → Bool}

theorem each_clkStep_other {q : Nat × Nat} (l : List Nat) (d : Dev) (hf : ∀ n ∈ l, (f n).Apart) (hq : ∀ n ∈ l, q ∉ (f n).all) :
    (d.each l (fun d n => clkStep (f n) d (v n))).at q = d.at q := by
  induction l generalizing d with
  | nil => rfl
  | cons m t ih =>
    exact (ih (clkStep (f m) d (v m)) (fun n hn => hf n (.tail _ hn)) fun n hn => hq n (.tail _ hn)).trans
      (clkStep_other (hf m List.mem_cons_self) (hq m List.mem_cons_self) (v m))

/-- Each step is of its own bits, so that those of `n` after all the writes are what its own step makes of those before. -/
theorem each_clkStep_bits (l : List Nat) (d : Dev) (hl : l.Nodup) (hf : ∀ n ∈ l, (f n).Apart)
    (hd : ∀ n ∈ l, ∀ m ∈ l, n ≠ m → ∀ q ∈ (f n).all, q ∉ (f m).all) {n : Nat} (hn : n ∈ l) :
    ∃ e : Dev, (∀ q ∈ (f n).all, e.at q = d.at q) ∧
      ∀ q ∈ (f n).all, (d.each l (fun d n => clkStep (f n) d (v n))).at q = (clkStep (f n) e (v n)).at q := by
  induction l generalizing d with
  | nil => exact absurd hn List.not_mem_nil
  | cons m t ih =>
    obtain ⟨hmt, ht⟩ := List.nodup_cons.mp hl
    by_cases hnm : n = m
    · subst hnm
      refine ⟨d, fun _ _ => rfl, fun q hq => ?_⟩
      exact each_clkStep_other t _ (fun k hk => hf k (.tail _ hk)) fun k hk =>
        hd n List.mem_cons_self k (.tail _ hk) (fun hnk => hmt (hnk ▸ hk)) q hq
    · have hnt := (List.mem_cons.mp hn).resolve_left hnm
      obtain ⟨e, he, hend⟩ := ih (clkStep (f m) d (v m)) ht (fun k hk => hf k (.tail _ hk))
        (fun k hk j hj => hd k (.tail _ hk) j (.tail _ hj)) hnt
      exact ⟨e, fun q hq => (he q hq).trans (clkStep_other (hf m List.mem_cons_self) (hd n hn m List.mem_cons_self hnm q hq) _), hend⟩

theorem each_clkStep_rules (l : List Nat) (d : Dev) (hl : l.Nodup) (hf : ∀ n ∈ l, (f n).Apart)
    (hd : ∀ n ∈ l, ∀ m ∈ l, n ≠ m → ∀ q ∈ (f n).all, q ∉ (f m).all) {n : Nat} (hn : n ∈ l) :
    (d.each l (fun d n => clkStep (f n) d (v n))).at (f n).en = v n ∧
    (v n = true → d.at (f n).en = false → d.at (f n).drain = false → (d.each l (fun d n => clkStep (f n) d (v n))).at (f n).on = true) ∧
    (v n = false → d.at (f n).en = true → d.at (f n).on = true →
      (d.each l (fun d n => clkStep (f n) d (v n))).at (f n).drain = true ∧
      (d.each l (fun d n => clkStep (f n) d (v n))).at (f n).on = true) := by
  obtain ⟨e, he, hend⟩ := each_clkStep_bits (v := v) l d hl hf hd hn
  have hen : (f n).en ∈ (f n).all := by simp [ClkBits.all]
  have hdrain : (f n).drain ∈ (f n).all := by simp [ClkBits.all]
  have hon : (f n).on ∈ (f n).all := by simp [ClkBits.all]
  rw [hend _ hen, hend _ hdrain, hend _ hon, ← he _ hen, ← he _ hdrain, ← he _ hon]
  exact clkStep_bits (hf n hn) (v n)

end

/-! The two enable registers. -/

set_option Elab.async false in
theorem bitOf_zero (n : Nat) : bitOf 0 n = false := BitVec.getLsbD_zero

theorem Dev.setEn_unheld {d : Dev} (h : d.gate.heldRst = 0) (n : Nat) (v : Bool) : d.setEn n v = clkStep (blkBits n) d v := by
  have hon : (d.setBit A.CLK_EN n v).clockOn n =
      ((d.setBit A.CLK_EN n v).setBit A.CLK_ENSTAT n false).setBit A.CLK_ENSTAT (16 + n) true := by
    rw [Dev.clockOn, if_neg (by rw [show (d.setBit A.CLK_EN n v).gate.heldRst = 0 from h, bitOf_zero]; decide)]
  unfold Dev.setEn
  dsimp only
  rw [hon]
  rfl

theorem Dev.setMuleEn_unheld {d : Dev} (h : d.gate.heldMule = 0) (c : Nat) (v : Bool) : d.setMuleEn c v = clkStep (muleBits c) d v := by
  have hon : (d.setBit A.CLK_EN_MULE c v).muleClockOn c =
      ((d.setBit A.CLK_EN_MULE c v).setBit A.CLK_DRAIN_MULE c false).setBit A.CLK_ON_MULE c true := by
    rw [Dev.muleClockOn, if_neg (by rw [show (d.setBit A.CLK_EN_MULE c v).gate.heldMule = 0 from h, bitOf_zero]; decide)]
  unfold Dev.setMuleEn
  dsimp only
  rw [hon]
  rfl

/-- A loop over steps that are `clkStep` while the gate is as it was. -/
theorem each_eq_clkStep {f : Nat → ClkBits} {v : Nat → Bool} {g : Dev → Nat → Dev} {p : Gate → Prop}
    (hg : ∀ d n, p d.gate → g d n = clkStep (f n) d (v n)) (l : List Nat) (d : Dev) (h : p d.gate) :
    d.each l g = d.each l (fun d n => clkStep (f n) d (v n)) := by
  induction l generalizing d with
  | nil => rfl
  | cons m t ih =>
    have hstep := hg d m h
    exact (ih (g d m) (by rw [hstep, clkStep_gate]; exact h)).trans (congrArg (fun e : Dev => e.each t _) hstep)

theorem blkBits_apart {n : Nat} (hn : n < 11) : (blkBits n).Apart := by
  refine ⟨?_, ?_, ?_, ?_⟩
  · simp only [blkBits, ClkBits.all, List.forall_mem_cons, List.not_mem_nil, false_implies, implies_true, and_true]
    omega
  all_goals
    simp only [blkBits, ne_eq, Prod.mk.injEq, not_and, A.CLK_EN, A.CLK_ENSTAT]
    omega

theorem blkBits_disjoint {n m : Nat} (hn : n < 11) (hm : m < 11) (h : n ≠ m) : ∀ q ∈ (blkBits n).all, q ∉ (blkBits m).all := by
  intro q hq hq'
  simp only [blkBits, ClkBits.all, List.mem_cons, List.not_mem_nil, or_false] at hq hq'
  rcases hq with rfl | rfl | rfl <;> simp only [Prod.mk.injEq, A.CLK_EN, A.CLK_ENSTAT] at hq' <;> omega

theorem muleBits_apart {c : Nat} (hc : c < 64) : (muleBits c).Apart := by
  refine ⟨?_, ?_, ?_, ?_⟩
  · simp only [muleBits, ClkBits.all, List.forall_mem_cons, List.not_mem_nil, false_implies, implies_true, and_true]
    omega
  all_goals
    simp only [muleBits, ne_eq, Prod.mk.injEq, not_and, A.CLK_EN_MULE, A.CLK_DRAIN_MULE, A.CLK_ON_MULE]
    omega

theorem muleBits_disjoint {c k : Nat} (h : c ≠ k) : ∀ q ∈ (muleBits c).all, q ∉ (muleBits k).all := by
  intro q hq hq'
  simp only [muleBits, ClkBits.all, List.mem_cons, List.not_mem_nil, or_false] at hq hq'
  rcases hq with rfl | rfl | rfl <;> simp only [Prod.mk.injEq, A.CLK_EN_MULE, A.CLK_DRAIN_MULE, A.CLK_ON_MULE] at hq' <;> omega

end Sys2Proof.Machine

namespace Sys2Proof

open Machine

theorem clkStep_frame {P : List Part} {R : List Nat} {a d : Dev} {c : ClkBits} {v : Bool} (h : Frame P R a d) (hR : ∀ q ∈ c.all, q.1 ∈ R) :
    Frame P R a (clkStep c d v) := by
  have hdrain : c.drain.1 ∈ R := hR _ (by simp [ClkBits.all])
  have hon : c.on.1 ∈ R := hR _ (by simp [ClkBits.all])
  have h1 : Frame P R a (d.put c.en v) := h.setBit (hR _ (by simp [ClkBits.all]))
  exact Frame.ite (Frame.ite h1 ((h1.setBit hdrain).setBit hon)) (Frame.ite (Frame.ite (h1.setBit hdrain) h1) h1)

theorem clkEnWrite_blocks {s : State} (v : W64) (hrun : Running s) (hheld : s.dev.gate.heldRst = 0) :
    Gives (.clkEnWrite false v) s (fun d =>
      (∀ n, n < 11 →
        d.bit A.CLK_EN n = bitOf v n ∧
        (bitOf v n = true → s.dev.bit A.CLK_EN n = false → s.dev.bit A.CLK_ENSTAT n = false → d.bit A.CLK_ENSTAT (16 + n) = true) ∧
        (bitOf v n = false → s.dev.bit A.CLK_EN n = true → s.dev.bit A.CLK_ENSTAT (16 + n) = true →
          d.bit A.CLK_ENSTAT n = true ∧ d.bit A.CLK_ENSTAT (16 + n) = true)) ∧
      Frame [] [A.CLK_EN, A.CLK_ENSTAT] s.dev d) := by
  refine gives_main (f := fun d => d.each (List.range 11) (fun d n => d.setEn n (bitOf v n))) rfl hrun ?_
  rw [each_eq_clkStep (f := blkBits) (v := bitOf v) (p := fun g => g.heldRst = 0) (fun d n h => d.setEn_unheld h n _) _ _ hheld]
  have hlt : ∀ n ∈ List.range 11, n < 11 := fun n => List.mem_range.mp
  refine ⟨fun n hn => each_clkStep_rules (List.range 11) s.dev List.nodup_range (fun m hm => blkBits_apart (hlt m hm))
    (fun m hm k hk => blkBits_disjoint (hlt m hm) (hlt k hk)) (List.mem_range.mpr hn), ?_⟩
  exact Frame.each (Frame.refl _ _ _) fun n _ e he => clkStep_frame he (by simp [blkBits, ClkBits.all])

set_option Elab.async false in
theorem clkEnWrite_mules {s : State} (v : W64) (hrun : Running s) (hheld : s.dev.gate.heldMule = 0) :
    Gives (.clkEnWrite true v) s (fun d =>
      (∀ c, c < 64 →
        d.bit A.CLK_EN_MULE c = bitOf v c ∧
        (bitOf v c = true → s.dev.bit A.CLK_EN_MULE c = false → s.dev.bit A.CLK_DRAIN_MULE c = false → d.bit A.CLK_ON_MULE c = true) ∧
        (bitOf v c = false → s.dev.bit A.CLK_EN_MULE c = true → s.dev.bit A.CLK_ON_MULE c = true →
          d.bit A.CLK_DRAIN_MULE c = true ∧ d.bit A.CLK_ON_MULE c = true)) ∧
      Frame [] [A.CLK_EN_MULE, A.CLK_DRAIN_MULE, A.CLK_ON_MULE] s.dev d) := by
  refine gives_main (f := fun d => d.each (List.range 64) (fun d c => d.setMuleEn c (bitOf v c))) rfl hrun ?_
  rw [each_eq_clkStep (f := muleBits) (v := bitOf v) (p := fun g => g.heldMule = 0) (fun d c h => d.setMuleEn_unheld h c _) _ _ hheld]
  refine ⟨fun c hc => each_clkStep_rules (List.range 64) s.dev List.nodup_range (fun m hm => muleBits_apart (List.mem_range.mp hm))
    (fun m _ k _ => muleBits_disjoint) (List.mem_range.mpr hc), ?_⟩
  exact Frame.each (Frame.refl _ _ _) fun n _ e he => clkStep_frame he (by simp [muleBits, ClkBits.all])

theorem blockClockStop_block {s : State} (n : Fin 11) (hrun : Running s) (hdrain : s.dev.bit A.CLK_ENSTAT n.val = true)
    (hidle : s.dev.idle n.val = true) (hen : s.dev.bit A.CLK_EN n.val = false) :
    Gives (.blockClockStop (.blk n)) s (fun d =>
      d.bit A.CLK_ENSTAT n.val = false ∧ d.bit A.CLK_ENSTAT (16 + n.val) = false ∧ Frame [] [A.CLK_ENSTAT] s.dev d) := by
  have hlt := n.isLt
  have hreg : A.CLK_EN ≠ A.CLK_ENSTAT := by decide
  refine gives_main (f := fun d => d.clockStops n.val) rfl hrun ?_
  have hstop : s.dev.clockStops n.val = (s.dev.setBit A.CLK_ENSTAT n.val false).setBit A.CLK_ENSTAT (16 + n.val) false := by
    rw [Dev.clockStops, if_pos (by rw [hdrain, hidle]; rfl)]
    refine if_neg ?_
    rw [Dev.setBit_bit _ _ _ _ _ _ (by omega), if_neg fun h => hreg h.1, Dev.setBit_bit _ _ _ _ _ _ (by omega),
      if_neg fun h => hreg h.1, hen]
    decide
  rw [hstop]
  refine ⟨?_, ?_, ((Frame.refl _ _ _).setBit List.mem_cons_self).setBit List.mem_cons_self⟩
  · rw [Dev.setBit_bit _ _ _ _ _ _ (by omega), if_neg (by omega), Dev.setBit_bit _ _ _ _ _ _ (by omega), if_pos ⟨rfl, rfl⟩]
  · rw [Dev.setBit_bit _ _ _ _ _ _ (by omega), if_pos ⟨rfl, rfl⟩]

theorem blockClockStop_mule {s : State} (ch : Fin 64) (hrun : Running s) (hdrain : s.dev.bit A.CLK_DRAIN_MULE ch.val = true)
    (hidle : s.dev.muleIdle ch.val = true) (hen : s.dev.bit A.CLK_EN_MULE ch.val = false) :
    Gives (.blockClockStop (.mule ch)) s (fun d =>
      d.bit A.CLK_DRAIN_MULE ch.val = false ∧ d.bit A.CLK_ON_MULE ch.val = false ∧
      Frame [] [A.CLK_DRAIN_MULE, A.CLK_ON_MULE] s.dev d) := by
  have hlt := ch.isLt
  have hregs : A.CLK_DRAIN_MULE ≠ A.CLK_ON_MULE ∧ A.CLK_EN_MULE ≠ A.CLK_DRAIN_MULE ∧ A.CLK_EN_MULE ≠ A.CLK_ON_MULE := by decide
  obtain ⟨hdo, hed, heo⟩ := hregs
  refine gives_main (f := fun d => d.muleClockStops ch.val) rfl hrun ?_
  have hstop : s.dev.muleClockStops ch.val = (s.dev.setBit A.CLK_DRAIN_MULE ch.val false).setBit A.CLK_ON_MULE ch.val false := by
    rw [Dev.muleClockStops, if_pos (by rw [hdrain, hidle]; rfl)]
    refine if_neg ?_
    rw [Dev.setBit_bit _ _ _ _ _ _ hlt, if_neg fun h => heo h.1, Dev.setBit_bit _ _ _ _ _ _ hlt, if_neg fun h => hed h.1, hen]
    decide
  rw [hstop]
  refine ⟨?_, ?_, ((Frame.refl _ _ _).setBit (by simp)).setBit (by simp)⟩
  · rw [Dev.setBit_bit _ _ _ _ _ _ hlt, if_neg fun h => hdo h.1, Dev.setBit_bit _ _ _ _ _ _ hlt, if_pos ⟨rfl, rfl⟩]
  · rw [Dev.setBit_bit _ _ _ _ _ _ hlt, if_pos ⟨rfl, rfl⟩]

theorem bitOf_withBit_same (w : W64) {n : Nat} (b : Bool) (h : n < 64) : bitOf (withBit w n b) n = b := by rw [bitOf_withBit _ _ _ _ h, if_pos rfl]

theorem Frame.refl_onGate (d : Dev) (f : Gate → Gate) : Frame [.gate] [] d (d.onGate f) := (Frame.refl _ _ d).onGate (by decide)

/-- Settles O3: the writes of an enable register one bit after another, and the stops and gates of one block or channel. -/
theorem clockGating : Obligations.ClockGating := by
  unfold Obligations.ClockGating
  refine ⟨fun s v => clkEnWrite_blocks v, fun s v => clkEnWrite_mules v, fun s n => blockClockStop_block n, fun s ch => blockClockStop_mule ch,
    fun s ch hrun hagate hon => ?_, fun s n hrun hagate hon => ?_, fun s n hrun => ?_, fun s ch hrun => ?_⟩
  · refine gives_main (f := fun d => d.autoGate (.mule ch)) rfl hrun ?_
    rw [Dev.autoGate, if_pos hagate, show (if s.dev.bit A.CLK_ON_MULE ch.val then _ else s.dev) = _ from if_pos hon]
    exact ⟨bitOf_withBit_same _ _ ch.isLt, Frame.refl_onGate _ _⟩
  · have hlt : n.val < 64 := by omega
    refine gives_main (f := fun d => d.autoGate (.blk n)) rfl hrun ?_
    rw [Dev.autoGate, if_pos hagate, show (if s.dev.bit A.CLK_ENSTAT (16 + n.val) then _ else s.dev) = _ from if_pos hon]
    exact ⟨bitOf_withBit_same _ _ hlt, Frame.refl_onGate _ _⟩
  · have hlt : n.val < 64 := by omega
    exact gives_main (f := fun d => d.autoUngate (.blk n)) rfl hrun ⟨bitOf_withBit_same _ _ hlt, Frame.refl_onGate _ _⟩
  · exact gives_main (f := fun d => d.autoUngate (.mule ch)) rfl hrun ⟨bitOf_withBit_same _ _ ch.isLt, Frame.refl_onGate _ _⟩

end Sys2Proof
end
